-- ==== Sys2Proof/Word.lean ====
section
/-!
DEFINITION. Words of the Uhlino manual: bytes, 32-bit register words and 64-bit counters, and the plainest
arithmetic over them (saturating counts, bit fields). Numbers of units (sites, sectors, partitions, lineages) are
natural numbers, as the manual's Table 0.4 numbers them.
-/
namespace Sys2Proof

abbrev Byte := BitVec 8
abbrev Word := BitVec 32
abbrev Dword := BitVec 64

/-- A count that saturates at `top` (the manual's "saturating" fields). -/
def satAdd (top n k : Nat) : Nat := min top (n + k)

/-- Bits `[lo + width - 1 : lo]` of a number (R15's `[msb:lsb]` notation). -/
def bitsOf (lo width n : Nat) : Nat := n / 2 ^ lo % 2 ^ width

/-- Bit `n` of a number. -/
def bitOf (n v : Nat) : Bool := v / 2 ^ n % 2 == 1

/-- 1 for true, 0 for false: a flag as it stands in a field. -/
def flag (b : Bool) : Nat := if b then 1 else 0

/-- A 64-bit difference of two counters, modulo 2^64. -/
def since (now start : Dword) : Nat := (now - start).toNat

end Sys2Proof
end

