-- ==== Sys2Proof/Syntax.lean ====
section
/-!
DEFINITION. The commands of Uhlino: one constructor per row of spec/opcode_table.json, with the data that the row's
event carries by the manual's own layouts (messages of Table 2.8, blocks of R84, the observation port of R129 to R138,
mailbox arguments as the bytes already held in a command buffer), and the records those operands are made of.
-/
namespace Sys2Proof

/-- Tensor block tag, Table 4.1. -/
structure Tag where
  /-- R86 -/
  crc : Dword := 0
  /-- 24 bits -/
  handle : Nat := 0
  /-- 24 bits -/
  index : Nat := 0
  /-- FORMAT, 4 bits -/
  fmt : Nat := 0
  /-- SPARSITY, 2 bits -/
  spars : Nat := 0
  poison : Bool := false
  taint : Bool := false
  /-- write generation, 8 bits -/
  gen : Nat := 0
  deriving DecidableEq, Repr

/-- A tensor block, R84: payload bytes from offset 0 (bytes past the list are zero) and the tag. -/
structure Block where
  payload : List Byte := []
  tag : Tag := {}
  deriving DecidableEq, Repr

/-- What a write or load descriptor says of a block (R89, R94), with its LEDGER field (R151). -/
structure Desc where
  handle : Nat := 0
  index : Nat := 0
  fmt : Nat := 0
  spars : Nat := 0
  gen : Nat := 0
  /-- R151: [11:0] ROUTE_GROUP, [12] receipt, [13] enable -/
  ledger : Nat := 0
  deriving DecidableEq, Repr

/-- Blocked-on edge, Table 14.2. -/
structure Edge where
  queue : Nat := 0
  /-- 0 logical tile, 1 memory point, 2 link port -/
  targetKind : Nat := 0
  target : Nat := 0
  context : Nat := 0
  /-- logical tile of the reporting site -/
  tile : Nat := 0
  stallSlot : Dword := 0
  deriving DecidableEq, Repr

/-- Residue verdict item, Table 6.3. -/
structure VerdictItem where
  seq : Nat := 0
  verdict : Nat := 0
  lineage : Nat := 0
  rows : Nat := 0
  cols : Nat := 0
  locI : Nat := 0
  locJ : Nat := 0
  also : Nat := 0
  merge : Nat := 0
  /-- Table 5.5 -/
  status : Word := 0
  deriving DecidableEq, Repr

/-- Residue detail item, Table 6.4. -/
structure DetailItem where
  deltaOrRows : Dword := 0
  colsMap : Dword := 0
  deriving DecidableEq, Repr

/-- Plausibility verdict item, Table 7.8. -/
structure PlausItem where
  streamSeq : Nat := 0
  program : Nat := 0
  lineage : Nat := 0
  operator : Nat := 0
  flagCount : Nat := 0
  segFlags : Nat := 0
  status : Nat := 0
  deriving DecidableEq, Repr

/-- Redundancy item, Table 8.5. -/
structure RedundancyItem where
  seq : Nat := 0
  lineage : Nat := 0
  kind : Nat := 0
  count : Nat := 0
  locI : Nat := 0xFF
  locJ : Nat := 0xFF
  deriving DecidableEq, Repr

/-- Step-done item, Table 11.3. -/
structure StepDoneItem where
  outputs : Nat := 0
  served : Word := 0
  failed : Word := 0
  shared : Bool := false
  overrun : Bool := false
  groups : Nat := 0
  deriving DecidableEq, Repr

/-- Stream summary, Table 7.5. -/
structure Summary where
  streamSeq : Nat := 0
  program : Nat := 0
  lineage : Nat := 0
  operator : Nat := 0
  elements : Nat := 0
  flagCount : Nat := 0
  segCount : Nat := 0
  segFlags : Nat := 0
  firstIndex : Nat := 0xFFFFFFFF
  sum : Word := 0
  min : Word := 0
  max : Word := 0
  merge : Nat := 0
  partialCut : Bool := false
  deriving DecidableEq, Repr

/-- Seal event payload, Table 4.5. -/
structure SealInfo where
  handle : Nat := 0
  index : Nat := 0
  gen : Nat := 0
  fmtFlags : Nat := 0
  sealStored : Dword := 0
  sealComputed : Dword := 0
  slot : Dword := 0
  exp : Desc := {}
  atRest : Nat := 0
  point : Nat := 0xFFFF
  deriving DecidableEq, Repr

/-- One group of a routing ledger, R152 and the LEDGER row of Table 2.8. -/
structure LedgerEntry where
  group : Nat := 0
  sentCount : Nat := 0
  sentSum : Nat := 0
  recvCount : Nat := 0
  recvSum : Nat := 0
  invalid : Bool := false
  deriving DecidableEq, Repr

/-- Memory error report, Table 13.1. -/
structure MemReport where
  source : Nat := 0
  kind : Nat := 0
  symbols : Nat := 0
  address : Nat := 0
  partition : Nat := 0
  context : Nat := 0
  handle : Nat := 0
  blockIndex : Nat := 0
  deriving DecidableEq, Repr

/-- Arithmetic fields of a tensor instruction, Table 5.4, with what R111, R212 and R268 add to it. -/
structure ArithDesc where
  kLen : Nat := 32
  scaleA : Word := 0x3F800000
  scaleB : Word := 0x3F800000
  outFactor : Word := 0x3F800000
  outFormat : Nat := 2
  outAxis : Nat := 0
  round : Nat := 0
  lineage : Nat := 0
  /-- index of the output tile in the step, R123 -/
  seq : Nat := 0
  /-- PAIR bit, R212 -/
  pair : Bool := false
  /-- handle of the output tensor (R268, R232) -/
  handle : Nat := 0
  deriving DecidableEq, Repr

/-- What the tensor engine presents for one element at the observation port (R129, R138, R213). -/
structure ElemObs where
  /-- accumulator as it enters conversion -/
  acc : Int := 0
  y : Int := 0
  q : Nat := 0
  big : Bool := false
  rm : Nat := 0
  /-- written value: the stored integer, or the binary32 bit pattern -/
  w : Int := 0
  /-- random value -/
  r : Nat := 0
  /-- written value of the secondary copy (R212) -/
  w2 : Int := 0
  deriving DecidableEq, Repr

/-- An operand block as consumed for an output tile, with the engine's NZ_COUNT and POS_SUM (R137). -/
structure OperandObs where
  block : Block := {}
  desc : Desc := {}
  nzCount : Nat := 0
  posSum : Nat := 0
  deriving DecidableEq, Repr

/-- Everything the sentinel sees of one output tile (R125 to R145). -/
structure TileObs where
  desc : ArithDesc := {}
  aBlocks : List OperandObs := []
  bBlocks : List OperandObs := []
  /-- the engine's window base (R133) -/
  window : Int := 0
  /-- 4,096 elements, row by row; elements not listed are the default -/
  elems : List ElemObs := []
  /-- fine scale written for output group n of R118, 128 of them -/
  scales : List Int := []
  /-- secondary copy: fine scales and status word (R213) -/
  scales2 : List Int := []
  status2 : Word := 0
  /-- descriptors of the output blocks -/
  outDescs : List Desc := []
  /-- compiled layout (R118): block, lane and first position of each run of 32 elements (16 for binary32), in the order of the
  output groups; with none, the natural order -/
  layout : List (Nat × Nat × Nat) := []
  deriving DecidableEq, Repr

/-- One consumption of a block (R94): which engine, the block as read, the operand descriptor, the lineage. -/
structure Consume where
  /-- 0 tensor, 1 vector, 2 fabric input port -/
  engine : Nat := 0
  block : Block := {}
  desc : Desc := {}
  lineage : Nat := 0
  /-- output tile or stream it is consumed for -/
  seq : Nat := 0
  /-- tensor engine: NZ_COUNT and POS_SUM of R137 -/
  nzCount : Nat := 0
  posSum : Nat := 0
  /-- physical site whose SRAM holds the block -/
  holder : Nat := 0
  deriving DecidableEq, Repr

/-- What the vector engine converts into a block of FORMAT 0-5 (R122): its binary32 results, lane by lane, and its fields. -/
structure VecOut where
  values : List Word := []
  outFactor : Word := 0x3F800000
  round : Nat := 0
  deriving DecidableEq, Repr

/-- One produced block (R93): the block as written, its descriptor, and the output tile or stream it belongs to. -/
structure Produce where
  payload : List Byte := []
  desc : Desc := {}
  lineage : Nat := 0
  /-- 0 tensor engine, 1 vector engine -/
  engine : Nat := 0
  /-- output tile or stream it belongs to -/
  seq : Nat := 0
  /-- results that the conversion unit turns into the payload (R122) -/
  vec : Option VecOut := none
  deriving DecidableEq, Repr

/-- A block at an entry or exit point (R104): the point, block, write descriptor, lineage and step (R99). -/
structure Transfer where
  /-- 0 tier-1 stack, 1 tier-2 channel, 2 tier-3 port, 3 external link port, 4 reduction tree -/
  kind : Nat := 0
  /-- number of the stack, channel or port; of a tree point, the sector in whose fabric edge it lies -/
  port : Nat := 0
  /-- number of the point within its sector (Table 4.5) -/
  point : Nat := 0
  block : Block := {}
  desc : Desc := {}
  partition : Nat := 0
  /-- context of the request (R315) -/
  context : Nat := 0
  lineage : Nat := 0
  step : Nat := 0
  /-- the link frame was marked untagged (R101) -/
  untagged : Bool := false
  /-- a word of the block was uncorrectable (Table 4.2) -/
  uncorrectable : Bool := false
  /-- a block of the step's reduction (R99) -/
  reduced : Bool := false
  /-- moved on reserved slots (R475) -/
  reservedSlot : Bool := false
  /-- of a context that is being torn down: the request was accepted before (Table 13.4) -/
  accepted : Bool := false
  deriving DecidableEq, Repr

/-- Repeat header, R195: instruction fields, W, step, group maxima and the captured verdict. -/
structure RepeatHeader where
  desc : ArithDesc := {}
  window : Int := 0
  step : Nat := 0
  /-- largest fine scale of each group, A then B (R132) -/
  maxA : List Int := []
  maxB : List Int := []
  reason : Nat := 0
  locI : Nat := 0
  locJ : Nat := 0
  deriving DecidableEq, Repr

/-- One lane of an operand block as stored (R107, R108): its data and fine-scale bytes and its codes as one number. -/
structure LaneBytes where
  fmt : Nat := 0
  spars : Nat := 0
  data : List Byte := []
  scales : List Byte := []
  codes : Nat := 0
  deriving DecidableEq, Repr

/-- Sums and element that a sentinel reports of a replay (R203). -/
structure ReplayReport where
  rowAct : Nat := 0
  rowExp : Nat := 0
  colAct : Nat := 0
  colExp : Nat := 0
  written : Int := 0
  deriving DecidableEq, Repr

/-- Lane data of one element of a repeat (R195): the row of A and the column of B as decoded lanes, by group. -/
structure LaneData where
  locI : Nat := 0
  locJ : Nat := 0
  /-- groups of the row: present, fine scale, 32 elements -/
  a : List (Bool × Int × List Int) := []
  b : List (Bool × Int × List Int) := []
  /-- the same lanes as stored, block by block -/
  rawA : List LaneBytes := []
  rawB : List LaneBytes := []
  /-- stored output element and its group's fine scale -/
  stored : Int := 0
  storedE : Int := 0
  /-- first failing test of R94 on the output block, 0 none -/
  outTest : Nat := 0
  /-- an operand block failed test 3 or 4 -/
  operandsOk : Bool := true
  /-- an operand block failed test 1 or 2 (R196) -/
  storageFault : Bool := false
  blocksRead : Nat := 0
  /-- this is the last element of the repeat -/
  last : Bool := true
  deriving DecidableEq, Repr

/-- One beat of a vector stream (R157), with the instruction's fields on the first. -/
structure Beat where
  operator : Nat := 0
  fmt : Nat := 6
  lineage : Nat := 0
  streamSeq : Nat := 0
  handle : Nat := 0
  /-- binary32 values of the active lanes, lane 0 first; 64 but for the last beat -/
  lanes : List Word := []
  deriving DecidableEq, Repr

/-- A command on a tile queue (Table 14.1) as the queue-wait observer and the trace writer see it. -/
structure QueueOp where
  queue : Nat := 0
  layer : Nat := 0
  operator : Nat := 0
  lineage : Nat := 0
  handle : Nat := 0
  index : Nat := 0
  gen : Nat := 0
  fmtFlags : Nat := 0
  targetKind : Nat := 0
  target : Nat := 0
  context : Nat := 0
  depth : Nat := 0
  credits : Nat := 0
  deriving DecidableEq, Repr

/-- A Midway link (Table 2.1, MIDWAY_LINK_FAILED): the two unit addresses, the kind, and for a chain the break. -/
structure MidLink where
  endA : Nat := 0
  endB : Nat := 0
  /-- 0 chain, 1 mesh, 2 manager port, 3 inter-die -/
  kind : Nat := 0
  sector : Nat := 0
  row : Nat := 0
  /-- sentinel before the break -/
  column : Nat := 0
  deriving DecidableEq, Repr

/-- SRAM repair record, Table 16.6. -/
structure SramRepair where
  site : Nat := 0xFFFF
  bank : Nat := 0
  spare : Nat := 0
  row : Nat := 0
  state : Nat := 0
  deriving DecidableEq, Repr

/-- What the hardware shows at power-up (R378, R384, R385, R388, R397): detected dies, the security block's serial and
module type, straps, and every self-test result. -/
structure PowerUp where
  edgeB : Bool := true
  bridges : Bool := true
  tier3 : Bool := true
  serial : Dword := 0
  moduleType : Nat := 1
  strapA : Nat := 0
  strapB : Nat := 0
  /-- calendar units that passed on VBAT (R529) -/
  offTime : Nat := 0
  hubsFailed : List Nat := []
  sentinelsFailed : List Nat := []
  tilesFailed : List Nat := []
  rowsRepaired : List SramRepair := []
  /-- codeword addresses (SOURCE, ADDRESS) whose repair the controller cannot apply -/
  repairFailed : List (Nat × Nat) := []
  deriving DecidableEq, Repr

/-- An event on its way to the recorder (EVENT of Table 2.8): code, source unit, payload, merge count of a merged one. -/
structure EventMsg where
  code : Nat := 0
  source : Nat := 0
  payload : List Byte := []
  merge : Option Nat := none
  deriving DecidableEq, Repr

/-- A record of the event recorder, Table 17.1. -/
structure Rec where
  code : Nat := 0
  /-- FLAGS: merged, suppression summary, mirrored, host written -/
  merged : Bool := false
  summary : Bool := false
  mirrored : Bool := false
  host : Bool := false
  powerCycle : Nat := 0
  /-- operating time, ms -/
  optime : Nat := 0
  source : Nat := 0
  payload : List Byte := []
  deriving DecidableEq, Repr

/-- A decision in the managers' journal (R26): what policy decided, and from what. -/
structure JournalEntry where
  sequence : Nat := 0
  /-- 0 health change, 1 partition reset, 2 spare takeover, 3 other state change -/
  kind : Nat := 3
  /-- site or partition -/
  object : Nat := 0
  /-- trigger of Table 10.3 as a kind code, cause of a reset, or the spare chosen -/
  trigger : Nat := 0
  /-- STATE byte before and after, for a health change -/
  before : Nat := 0
  after : Nat := 0
  /-- further conditions the decision was taken on (0: none) -/
  aux : Nat := 0
  deriving DecidableEq, Repr

/-- Privilege tag of an access (R485): 0 Tenant, 1 Operator, 2 Service; the tenant's partition. -/
structure Priv where
  level : Nat := 0
  tenant : Nat := 0
  deriving DecidableEq, Repr

/-- A service-window access (R484), as forwarded by WINDOW_FORWARD. -/
structure Access where
  offset : Nat := 0
  /-- bytes accessed -/
  size : Nat := 4
  isWrite : Bool := false
  value : Word := 0
  priv : Priv := {}
  deriving DecidableEq, Repr

/-- An out-of-band command (Table 20.16) and its port. -/
structure OobMsg where
  die : Nat := 0
  eid : Nat := 0
  vendor : BitVec 16 := 0
  kind : Nat := 0
  opcode : Nat := 0
  tag : Word := 0
  inlined : List Byte := []
  bulk : List Byte := []
  /-- the message-integrity bit (R507) -/
  integrity : Bool := false
  /-- a message of another sender was being assembled (R509) -/
  overlapped : Bool := false
  /-- the packet error code was wrong (R519) -/
  pecBad : Bool := false
  priv : Priv := {}
  deriving DecidableEq, Repr

/-- A trailer as received on a port (Table 11.9), with the tag and what the entry point saw (R284). -/
structure Trailer where
  port : Nat := 0
  sealOk : Bool := true
  tag : Tag := {}
  step : Nat := 0
  jobId : Dword := 0
  moduleId : Nat := 0
  status : Nat := 0
  keptCount : Nat := 0
  peersIn : Nat := 0
  blocks : Nat := 0
  deriving DecidableEq, Repr

/-- A snapshot's answer of one site, Table 14.6. -/
structure SnapSite where
  site : Nat := 0
  tile : Nat := 0
  flags : Nat := 0
  slot : Dword := 0
  shadow : List Byte := []
  deriving DecidableEq, Repr

/-- The rows of spec/opcode_table.json. -/
inductive Instr where
  /-- MAIN_POWER_GOOD (R378) -/
  | mainPowerGood (p : PowerUp)
  /-- SECURITY_AUTHENTICATION (R381): the die whose manager asked, and the answer -/
  | securityAuthentication (die : Nat) (authentic : Bool)
  /-- IMAGE_DIGEST_EXCHANGE (R382) -/
  | imageDigestExchange
  /-- LINK_TRAINING_RESULT (R388): KIND and INDEX of R402; 0 saved settings, 1 full training, 2 down; TIME in ms; the settings that
  a full training found -/
  | linkTrainingResult (kind index result time : Nat) (settings : List Byte)
  /-- PWR_WARN_N (R524): how many unprotected records are written while power lasts (R436) -/
  | pwrWarnN (written : Nat)
  /-- PWR_WARN_RETURN (R525) -/
  | pwrWarnReturn
  /-- MANAGER_WATCHDOG_EXPIRY (R409) -/
  | managerWatchdogExpiry (die : Nat)
  /-- FUNCTION_LEVEL_RESET (R512) -/
  | functionLevelReset
  /-- TAP_RESET (R521) -/
  | tapReset (die : Nat)
  /-- SMBUS_CLOCK_LOW_TIMEOUT (R519) -/
  | smbusClockLowTimeout (die : Nat)
  /-- MRAM_FAILURE (R437) -/
  | mramFailure (die : Nat)
  /-- LINK_WATCHDOG_EXPIRY (R31) -/
  | linkWatchdogExpiry (link : MidLink)
  /-- HUB_BUFFER_FREED (R44): hub, index of the buffer in its pool -/
  | hubBufferFreed (hub index : Nat)
  /-- RESERVED_CLASS_DISCARD (R37): hub, class and opcode of the message -/
  | reservedClassDiscard (hub cls opcode : Nat)
  /-- ALARM_LEVEL (R40): the unit, the code, the level, and the edge of a BLOCKED_Qn code -/
  | alarmLevel (unit code : Nat) (raised : Bool) (edge : Edge)
  /-- FENCE (R337): hub or sentinel address, partition, cause as FENCE_RESULT -/
  | fence (unit partition cause : Nat)
  /-- FENCE_DONE (R339) -/
  | fenceDone (site : Nat)
  /-- FENCE_DEADLINE (R339) -/
  | fenceDeadline (partition : Nat)
  /-- TILE_RESET (R344): site, CAUSE 1 to 4 -/
  | tileReset (site cause : Nat)
  /-- RESET_DONE (R345) -/
  | resetDone (site : Nat)
  /-- TILE_RESET_TIMEOUT (R345) -/
  | tileResetTimeout (site : Nat)
  /-- RESET_MEMORY_READY (R344): the stack or channel that misses its check, 0xFF none -/
  | resetMemoryReady (partition failing : Nat)
  /-- STOP_SLOT (R458) -/
  | stopSlot (site : Nat) (n : Dword)
  /-- STOP_SLOT_REACHED (R458) -/
  | stopSlotReached (site : Nat)
  /-- STOP_CODE_DECODED (R459): site and the slot counter at which it halts -/
  | stopCodeDecoded (site : Nat) (slot : Dword)
  /-- STOP_RELEASE_MESSAGE (R461) -/
  | stopReleaseMessage (site : Nat) (sMin : Dword)
  /-- TILE_RESTART (R461) -/
  | tileRestart (site : Nat)
  /-- SYNC_PULSE (R48) -/
  | syncPulse
  /-- THROTTLE_STAGE (R365): hub or sentinel address, stage, engage slot -/
  | throttleStage (unit stage : Nat) (engage : Dword)
  /-- THROTTLE_ENGAGE (R363) -/
  | throttleEngage
  /-- THROTTLE_REQUEST (R365): sector and its requested stage -/
  | throttleRequest (sector stage : Nat)
  /-- QUARANTINE (R252) -/
  | quarantine (site : Nat)
  /-- SCREEN_RUN (R224): site or 0xFFFF with the sector, POINT, RECIPE, EPOCH -/
  | screenRun (site sector point recipe : Nat) (epoch : Dword)
  /-- TRACE_TRIGGER (R443): the sentinel reached, the firing site, its slot -/
  | traceTrigger (site firing : Nat) (slot : Dword)
  /-- REPEAT (R195): site, SEQ, REASON, the elements, and the blocks read: the output blocks that hold them, each once, then the operand
  blocks, with whether the read that met a GEN or identity difference began within 40 us (R149) -/
  | repeatRead (site seq reason : Nat) (elems : List (Nat × Nat)) (outs operands : List Block) (early : Nat)
  /-- STOP_REQUEST (R443) -/
  | stopRequest (site : Nat)
  /-- TAKEOVER (R533): the hub that takes it -/
  | takeover (hub : Nat)
  /-- STEP_BOUNDARY (R124): hub, partition, step, step key, FLAGS -/
  | stepBoundary (hub partition step : Nat) (sk : Dword) (flags : Nat)
  /-- RESIDUE_VERDICT (R142): Table 6.3, then Table 6.4 for codes 2 and 3 -/
  | residueVerdict (site : Nat) (item : VerdictItem) (detail : DetailItem)
  /-- PLAUS_VERDICT (R175) -/
  | plausVerdict (site : Nat) (item : PlausItem)
  /-- REDUNDANCY (R216) -/
  | redundancy (site : Nat) (item : RedundancyItem)
  /-- STEP_DONE (R274) -/
  | stepDone (site : Nat) (item : StepDoneItem)
  /-- STEP_DONE_WAIT_EXPIRY (R274) -/
  | stepDoneWaitExpiry (hub partition : Nat)
  /-- SENTINEL_READ_TIMEOUT (R274) -/
  | sentinelReadTimeout (site : Nat)
  /-- SEAL_VERDICT (R99): source unit, partition, lineage, TEST, step of the writing instruction, SEQ, detail -/
  | sealVerdict (unit partition lineage test step seq : Nat) (info : SealInfo)
  /-- LEDGER (R153) -/
  | ledger (site : Nat) (entry : LedgerEntry)
  /-- CONTRIBUTION (R275): the sending hub, partition, step, FAILED, its ledger groups -/
  | contribution (hub partition step : Nat) (failed : Word) (groups : List LedgerEntry)
  /-- FINAL_KEPT (R278): toward the root hub -/
  | finalKept (partition step : Nat) (kept : Word) (restarted failed : Bool) (blocks : List (Nat × Nat))
  /-- STEP_TOKEN (R275) -/
  | stepToken (partition : Nat)
  /-- PEER_RELEASE (R285) -/
  | peerRelease (partition : Nat)
  /-- TIME_LOAD (R48): unit address and V -/
  | timeLoad (unit : Nat) (v : Dword)
  /-- TIME_CHECK (R49) -/
  | timeCheck (hub : Nat)
  /-- RAS_ALIGNMENT_TIMER (R49) -/
  | rasAlignmentTimer
  /-- EDGE_TICK_TIMER (R324) -/
  | edgeTickTimer (hub : Nat)
  /-- EDGE_TICK (R325) -/
  | edgeTick (site : Nat)
  /-- HUB_WATCH_TIMER (R56) -/
  | hubWatchTimer (hub : Nat)
  /-- HUB_WATCH (R56): the sector whose hub sent the message -/
  | hubWatch (sector : Nat)
  /-- HUB_WATCH_MISSED (R56): the sector whose hub is watched -/
  | hubWatchMissed (sector : Nat)
  /-- READ (R77): unit address, byte offset, word count, TAG (R36) -/
  | read (unit offset count tag : Nat)
  /-- WRITE (R77): unit address, byte offset, data words, TAG -/
  | write (unit offset : Nat) (words : List Word) (tag : Nat)
  /-- DROP_COUNT_READ (R77): site, TAG -/
  | dropCountRead (site tag : Nat)
  /-- PROGRAM_WRITE (R174): site, offset, data words, TAG -/
  | programWrite (site offset : Nat) (words : List Word) (tag : Nat)
  /-- PROGRAM_READ (R174): site, offset, word count, TAG -/
  | programRead (site offset count tag : Nat)
  /-- CONTROL_RESPONSE (R41): responder, class, opcode, tag, status, payload empty (R533) -/
  | controlResponse (unit cls opcode tag status : Nat) (empty : Bool)
  /-- EVENT (R414) -/
  | event (ev : EventMsg)
  /-- DROP_COUNT (R45) -/
  | dropCount (site count : Nat)
  /-- SUMMARY (R178) -/
  | summary (site : Nat) (sum : Summary)
  /-- EDGE_CHANGE (R328): hub, level, edge -/
  | edgeChange (hub : Nat) (raised : Bool) (edge : Edge)
  /-- MEMORY_ERROR (R306): the hub bound to the point, Table 13.1 -/
  | memoryError (hub : Nat) (report : MemReport)
  /-- RUN_RESULT (R207, R226): site, RECIPE (0xFF a replay), VERDICT, SEALS, SIGNATURE, the status word, and what a replay
  reports (R203) -/
  | runResult (site recipe verdict seals : Nat) (signature : Dword) (status : Word) (replay : ReplayReport)
  /-- REPEAT_HEADER (R195) -/
  | repeatHeader (site : Nat) (hdr : RepeatHeader)
  /-- LANE_DATA (R198) -/
  | laneData (site : Nat) (data : LaneData)
  /-- CONTENT (R224): sector, offset in the test area, bytes -/
  | content (sector offset : Nat) (bytes : List Byte)
  /-- SNAPSHOT_PART (R332): hub, partition, site entries, edges -/
  | snapshotPart (hub partition : Nat) (sites : List SnapSite) (edges : List Edge)
  /-- SNAPSHOT_SITE_TIMEOUT (R332) -/
  | snapshotSiteTimeout (site : Nat)
  /-- DIGEST_RUN (R478): hub, partition, entries of the input and of the output set as tags, entries lost -/
  | digestRun (hub partition : Nat) (inputs outputs : List Tag) (lost : Nat)
  /-- DIGEST_COMPLETE (R479) -/
  | digestComplete (partition : Nat)
  /-- JOURNAL_ENTRY (R26) -/
  | journalEntry (entry : JournalEntry)
  /-- AUDIT (R26) -/
  | audit (sequence : Nat) (agree : Bool)
  /-- HEARTBEAT_TIMER (R532) -/
  | heartbeatTimer (die : Nat)
  /-- HEARTBEAT (R532): the die that receives it, RAS, ROLE -/
  | heartbeat (die : Nat) (ras : Dword) (role : Nat)
  /-- HEARTBEAT_LOSS (R532) -/
  | heartbeatLoss (die : Bool)
  /-- STANDBY_LOSS (R534) -/
  | standbyLoss (die : Bool)
  /-- RECORD_MIRROR (R422): INDEX and the record -/
  | recordMirror (index : Nat) (r : Rec)
  /-- MIRROR_ACK (R422) -/
  | mirrorAck (index : Nat)
  /-- MIRROR_ACK_TIMEOUT (R422) -/
  | mirrorAckTimeout (index : Nat)
  /-- STANDBY_REJOIN (R423) -/
  | standbyRejoin
  /-- MRAM_WRITE (R518): die that performs it, OFFSET, data -/
  | mramWrite (die offset : Nat) (data : List Byte)
  /-- WINDOW_FORWARD (R23) -/
  | windowForward (access : Access)
  /-- PIN_STATE (R522): PINS -/
  | pinState (pins : Nat)
  /-- OOB_FORWARD (R509) -/
  | oobForward (msg : OobMsg)
  /-- TCG_WAKE_ACK_RISE (R72) -/
  | tcgWakeAckRise (site : Nat)
  /-- TCG_WAKE_ACK_FALL (R72) -/
  | tcgWakeAckFall (site : Nat)
  /-- WAKE_TIMEOUT (R74) -/
  | wakeTimeout (site : Nat)
  /-- EVENT_LEVEL_RISE (R70): site, 0 poison consumed, 1 trace buffer full, 2 trace records dropped -/
  | eventLevelRise (site code : Nat)
  /-- EVENT_COUNTER_SAMPLE_TIMER (R70) -/
  | eventCounterSampleTimer (site : Nat)
  /-- FRONT_QUEUE_ENTRY (R66) -/
  | frontQueueEntry (site : Nat)
  /-- BLOCK_CONSUMED (R94) -/
  | blockConsumed (site : Nat) (c : Consume)
  /-- SEAL_REREAD (R98): the stored block as read again -/
  | sealReread (site : Nat) (stored : Block)
  /-- BLOCK_PRODUCED (R93) -/
  | blockProduced (site : Nat) (p : Produce)
  /-- OUTPUT_TILE_SEALED (R145) -/
  | outputTileSealed (site : Nat) (t : TileObs)
  /-- SAMPLE_SELECT (R193): the tile whose counter reached zero: site and SEQ -/
  | sampleSelect (site seq : Nat)
  /-- VECTOR_BEAT (R157) -/
  | vectorBeat (site : Nat) (b : Beat)
  /-- STREAM_END (R167) -/
  | streamEnd (site : Nat)
  /-- STEP_LAST_COMPLETE (R272) -/
  | stepLastComplete (site : Nat)
  /-- QUEUE_COMMAND_ISSUE (R440) -/
  | queueCommandIssue (site : Nat) (op : QueueOp)
  /-- QUEUE_COMMAND_COMPLETE (R440): discarded by a fence -/
  | queueCommandComplete (site : Nat) (op : QueueOp) (discarded : Bool)
  /-- SRAM_ERROR_REPORT (R311): site, corrected, PATH of Table 13.6, tile SRAM address, the read's descriptor -/
  | sramErrorReport (site : Nat) (corrected : Bool) (path address : Nat) (desc : Desc)
  /-- MEMORY_ENTRY_READ (R90) -/
  | memoryEntryRead (t : Transfer)
  /-- MEMORY_EXIT_WRITE (R99) -/
  | memoryExitWrite (t : Transfer)
  /-- LINK_ENTRY_BLOCK (R101) -/
  | linkEntryBlock (t : Transfer)
  /-- TRAILER_RECEIVED (R284): the receiving partition and the trailer -/
  | trailerReceived (partition port : Nat) (block : Block)
  /-- LINK_EXIT_BLOCK (R99) -/
  | linkExitBlock (t : Transfer)
  /-- REDUCTION_INPUT_BLOCK (R278) -/
  | reductionInputBlock (t : Transfer)
  /-- REDUCTION_COMPARE_MISMATCH (R278) -/
  | reductionCompareMismatch (partition : Nat)
  /-- COMMIT_DONE (R293, R475): the resident blocks that the commit wrote, by logical tile; the blocks that left the reduction tree's
  output in the step: descriptor and payload -/
  | commitDone (partition : Nat) (written : List (Nat × List Nat)) (reduced : List (Desc × List Byte))
  /-- MIRROR_BLOCK_RECEIVED (R293): owner tile, block index, the block, marked failed in its transfer (R311) -/
  | mirrorBlockReceived (owner index : Nat) (block : Block) (markedFailed : Bool)
  /-- PARTNER_COPY_COMPLETE (R295): owner tile -/
  | partnerCopyComplete (owner : Nat)
  /-- TIER2_COPY_COMPLETE (R296): partition and region -/
  | tier2CopyComplete (partition region : Nat)
  /-- TAKEOVER_FILL_COMPLETE (R299): logical tile; test 1 or 2 failed at the spare (resident, mirror) -/
  | takeoverFillComplete (tile : Nat) (resFailed mirFailed : Bool)
  /-- REPLAY_DONE (R527): partition, RESULT, tile, LAST_STEP, length in words and TAG of the message -/
  | replayDone (partition result tile lastStep length tag : Nat)
  /-- REPLAY_DONE_TIMEOUT (R527) -/
  | replayDoneTimeout (partition tile : Nat)
  /-- LOSS_REPORT (R183): step, LOSS, partition, length in words and TAG of the message -/
  | lossReport (step : Nat) (loss : Word) (partition length tag : Nat)
  /-- UNKNOWN_CORE_MESSAGE (R527) -/
  | unknownCoreMessage (type tag : Nat)
  /-- PEER_TIMEOUT (R285): partition and peer entry -/
  | peerTimeout (partition entry : Nat)
  /-- MEMORY_COMPLETION (R318): bound hub of the point, partition, context, CTX_GEN -/
  | memoryCompletion (hub point partition context gen : Nat)
  /-- FLIT_INTO_FENCED_PARTITION (R343): router of the site; a completion is expected -/
  | flitIntoFencedPartition (site : Nat) (expects : Bool)
  /-- TEARDOWN_WRITES_DRAINED (R316): partition, context, reads synthesized, writes drained -/
  | teardownWritesDrained (partition context reads writes : Nat)
  /-- TEARDOWN_WRITE_TIMEOUT (R317) -/
  | teardownWriteTimeout (partition context reads writes : Nat)
  /-- WAIT_FOR_SEARCH_TIMER (R329) -/
  | waitForSearchTimer
  /-- COMMIT_WAIT_EXPIRY (R340) -/
  | commitWaitExpiry (partition : Nat)
  /-- REPLAY_STEP_LIMIT_EXPIRY (R348) -/
  | replayStepLimitExpiry (partition : Nat)
  /-- SCREENING_WINDOW_START (R234) -/
  | screeningWindowStart (partition : Nat)
  /-- SCREEN_SPAN_EXPIRY (R236) -/
  | screenSpanExpiry (site : Nat)
  /-- SPARE_SCREEN_START (R237): site; heaters are available (R224) -/
  | spareScreenStart (site : Nat) (heaters : Bool)
  /-- HEATING_TIMEOUT (R242) -/
  | heatingTimeout (sector : Nat)
  /-- VMARGIN_ACK (R245) -/
  | vmarginAck (sector : Nat)
  /-- VMARGIN_KEEPALIVE_TIMER (R245) -/
  | vmarginKeepaliveTimer (sector : Nat)
  /-- STAGE_ZERO_HOLD (R243) -/
  | stageZeroHold
  /-- CLEAN_PERIOD_END (R252) -/
  | cleanPeriodEnd (site : Nat)
  /-- MODEL_STEP (R357) -/
  | modelStep (sector : Nat)
  /-- THERMAL_SAMPLE (R362): sector, per site the five activity counters as read, the diode reading in 1/8 degree -/
  | thermalSample (sector : Nat) (counts : List (Nat × List Word)) (diode : Int)
  /-- EDGE_DIODE_READ (R359): die and its eight readings in 1/8 degree -/
  | edgeDiodeRead (die : Nat) (readings : List Int)
  /-- RELEASE_HOLD_EXPIRY (R364) -/
  | releaseHoldExpiry (sector : Nat)
  /-- UNIT_WAKE_START (R375): hub and unit: 0 thermal solver, 1 rule sequencer, 2 verification engine -/
  | unitWakeStart (hub unit : Nat)
  /-- HISTORY_COUNT_FLUSH (R263) -/
  | historyCountFlush (site : Nat)
  /-- COUNTER_COPY_TIMER (R379) -/
  | counterCopyTimer
  /-- HOURLY_CALENDAR_MARK (R419) -/
  | hourlyCalendarMark
  /-- MEM_CE_HOUR (R307) -/
  | memCeHour
  /-- STALE_COMPLETION_SECOND (R318) -/
  | staleCompletionSecond (hub : Nat)
  /-- RATE_WINDOW_START (R426) -/
  | rateWindowStart
  /-- RING_BATCH_WRITE (R421): records taken into the batch -/
  | ringBatchWrite (count : Nat)
  /-- FREEZE_LIMIT_EXPIRY (R434) -/
  | freezeLimitExpiry
  /-- THM_UPDATE (R488) -/
  | thmUpdate
  /-- WATCH_DUMP_COMPLETE (R455): site and staging slot -/
  | watchDumpComplete (site slot : Nat)
  /-- PLAUSIBILITY_SET_CONFIRMED (R172): hub and partition -/
  | plausibilitySetConfirmed (hub partition : Nat)
  /-- PLAUSIBILITY_LOAD_TIMEOUT (R172) -/
  | plausibilityLoadTimeout (partition : Nat)
  /-- WAITING_ACTION_START (R54): scope 0 site, 1 sector, 2 partition, 3 wafer, and its number -/
  | waitingActionStart (scope number : Nat)
  /-- COMMAND_BEGIN (R492): SEQUENCE -/
  | commandBegin (seq : Nat)
  /-- SUBMIT (R490): channel -/
  | submit (channel : Nat) (priv : Priv)
  /-- CPL_ACK (R493) -/
  | cplAck (channel : Nat)
  /-- CLAIM (R496) -/
  | claim (channel : Nat) (priv : Priv)
  /-- RELEASE (R497) -/
  | release (channel : Nat)
  /-- LO_REGISTER_READ (R484): offset and size in bytes -/
  | loRegisterRead (offset size : Nat) (priv : Priv)
  /-- CNT_SNAPSHOT (R488) -/
  | cntSnapshot (priv : Priv)
  /-- CURSOR_HI_WRITE (R433) -/
  | cursorHiWrite (value : Word) (priv : Priv)
  /-- ALT_STATUS_CLEAR (R486) -/
  | altStatusClear (value : Word) (priv : Priv)
  /-- JTAG_CTRL_WRITE (R511) -/
  | jtagCtrlWrite (value : Word) (priv : Priv)
  /-- SEED_LOAD (R217): hub, content (false) or sampling (true) generator, the value of word 3 -/
  | seedLoad (hub : Nat) (sampling : Bool) (value : Word)
  /-- REGISTER_WRITE (R18, R484): offset and size in bytes -/
  | registerWrite (offset size : Nat) (value : Word) (priv : Priv)
  /-- GET_IDENTITY (R490): SEQUENCE of the begun command, here and below -/
  | getIdentity (seq : Nat)
  | getStatus (seq : Nat)
  | logFreeze (seq : Nat)
  | logThaw (seq : Nat)
  | logClear (seq : Nat)
  | logMark (seq : Nat)
  | timeSetCalendar (seq : Nat)
  | healthQuery (seq : Nat)
  | unitQuarantine (seq : Nat)
  | unitRelease (seq : Nat)
  | unitScreen (seq : Nat)
  | historyRead (seq : Nat)
  | unitRetire (seq : Nat)
  | spareTakeover (seq : Nat)
  | partitionDefine (seq : Nat)
  | partitionFence (seq : Nat)
  | partitionReset (seq : Nat)
  /-- WAFER_RESET (R351, R391): the results of the self-tests of its bring-up -/
  | waferReset (seq : Nat) (tests : PowerUp)
  | partitionRelease (seq : Nat)
  | contextTeardown (seq : Nat)
  | jobAttach (seq : Nat)
  | jobDetach (seq : Nat)
  | stepVerdictQuery (seq : Nat)
  | digestQuery (seq : Nat)
  /-- NET_CONFIGURE (R503): the result of the training it starts, its time in ms, and the settings that a full training found -/
  | netConfigure (seq result time : Nat) (settings : List Byte)
  | netStatus (seq : Nat)
  | stopAtSlot (seq : Nat)
  | stopNow (seq : Nat)
  | stopRelease (seq : Nat)
  /-- SCAN_OUT (R464): sites that do not answer, time in ms; its 5 ms for takeover fills are over -/
  | scanOut (seq : Nat) (absent : List Nat) (time : Nat) (expired : Bool)
  | traceConfigure (seq : Nat)
  | traceDrain (seq time : Nat)
  | watchArm (seq : Nat)
  | watchDisarm (seq : Nat)
  | hangSnapshot (seq : Nat)
  | thermalPolicy (seq : Nat)
  | sensorRetire (seq : Nat)
  | imageStage (seq : Nat)
  /-- IMAGE_COMMIT (R407): the security block's answer for each flash (R381 test 6), and the results of the self-tests of the
  bring-up that mode 1 begins (R408) -/
  | imageCommit (seq : Nat) (authenticA authenticB : Bool) (tests : PowerUp)
  | trainingSave (seq : Nat)
  | counterConfigure (seq : Nat)
  | plausibilityLoad (seq : Nat)
  /-- MANAGER_SWITCHOVER (R506): the former active manager passes its journal check -/
  | managerSwitchover (seq : Nat) (journalOk : Bool)
  /-- OOB_REQUEST (R509) -/
  | oobRequest (msg : OobMsg)
  /-- OOB_COMPLETION_RETRY (R509): die -/
  | oobCompletionRetry (die : Nat)
  /-- SET_ENDPOINT_ID (R507): die, EID, physically addressed, integrity bit -/
  | setEndpointId (die eid : Nat) (physical integrity : Bool)
  | getEndpointId (die : Nat) (physical integrity : Bool)
  | getMctpVersionSupport (die : Nat) (physical integrity : Bool)
  | getMessageTypeSupport (die : Nat) (physical integrity : Bool)
  | getVendorDefinedMessageSupport (die : Nat) (physical integrity : Bool)
  /-- UNSUPPORTED_MCTP_MESSAGE (R507): die, message type, command code -/
  | unsupportedMctpMessage (die msgType command : Nat) (physical integrity : Bool)
  /-- BYPASS (R510) -/
  | bypass (die : Nat)
  /-- IDCODE (R510) -/
  | idcode (die : Nat)
  /-- JTAG_DEBUG_INSTRUCTION (R510): die, IR value, 0 boundary scan, 1 halt, 2 step, 3 register access, 4 SRAM access,
  5 resume -/
  | jtagDebugInstruction (die ir kind : Nat)
  /-- MAIN_POWER_LOSS (R529) -/
  | mainPowerLoss
  /-- BACKUP_SUPPLY_LOSS (R529): island of the die -/
  | backupSupplyLoss (die : Nat)
  /-- DROP_SUMMARY_SECOND (R431) -/
  | dropSummarySecond
  /-- UNIT_WAKE_COMPLETE (R376) -/
  | unitWakeComplete (hub unit : Nat)
  /-- DEEP_SCREEN_START (R219) -/
  | deepScreenStart (site : Nat)
  /-- SETTINGS_WRITE_COMPLETE (R403) -/
  | settingsWriteComplete
  deriving DecidableEq, Repr

end Sys2Proof
end

