-- ==== Sys2Proof/Decode.lean ====
section
/-!
DEFINITION. Decoding of table words. Uhlino is a block that takes commands: no row of its opcode table gives bits, so no
word spells a command.
-/
namespace Sys2Proof

/-- The command that a word spells by the table's bits: none, for the table gives no row any. -/
def decodeTableWord (_nbits _w : Nat) : Option Instr := none

end Sys2Proof
end

