-- ==== Sys2Proof/Config.lean ====
section
/-!
DEFINITION. What the manual leaves open: constants of the design that it names and does not give, and the values that
it uses without stating their rounding. Each is opaque: no proof can see it, so a statement holds for every value
(log entries 12, 14, 17, 42, 58, 69, 101, 105, 114, 115 and 116).
-/
namespace Sys2Proof.Config

/-- The module's PCIe vendor identifier, ID.IDENT [31:16] (Table 20.2): named by the manual, not given. -/
opaque vendorId : BitVec 16

/-- The design stepping of ID.VERSION [7:0] (Table 20.2): not given. -/
opaque designStepping : BitVec 8

/-- The sentinel design stepping of SEN.ID [23:16] (Table 3.5): "design value", not given. -/
opaque sentinelStepping : BitVec 8

/-- `2 ^ x` of R356's leakage term, on a binary64 argument: the manual gives the real number, not its rounding. -/
opaque exp2 : Dword → Dword

/-- The setpoint of a sector's regulator feed in mV (R222): not given. The argument is the sector. -/
opaque feedSetpoint : Nat → Nat

/-- What a TAP data register returns under a manager debug or boundary-scan instruction (R510): not given.
The argument is the model's counter of free values. -/
opaque tapData : Nat → Dword

/-- Lineage that a job's attach tables bind a routing group to (R153): the manual names the binding and gives JOB_ATTACH
no field for it. Arguments: JOB_ID and the group. -/
opaque groupLineage : Dword → Nat → Nat

/-- MED, SCALE and Z of a LOSS_SPIKE over an empty loss window (R184, R186): the manual states no median of no values.
The argument is the model's counter of free values. -/
opaque lossFree : Nat → Word

/-- Flop image, router image and SRAM image of a site in a scan-out (R464): opaque to this interface. Arguments: the scan's
SCAN_ID and the site. -/
opaque scanFlop : Nat → Nat → List Byte
opaque scanRouter : Nat → Nat → List Byte
opaque scanSram : Nat → Nat → List Byte

/-- An uncorrectable SRAM word was met in the image (Table 18.18, FLAGS[3]). -/
opaque scanBad : Nat → Nat → Bool

/-- A word of a sentinel's front after a scan-out has destroyed its flop state (R464): SCAN_ID, site and offset. -/
opaque scanWord : Nat → Nat → Nat → Word

/-- A byte of a site's trace region that no record has been written to (R445). Arguments: site and offset in the region. -/
opaque traceByte : Nat → Nat → Byte

/-- The version that GET_MCTP_VERSION_SUPPORT answers (R507): the manual gives none. -/
opaque mctpVersion : Word

/-- The command-set value that GET_VENDOR_DEFINED_MESSAGE_SUPPORT answers (R507): the manual gives none. -/
opaque vendorCommandSet : BitVec 16

/-- Positions in the quad that an invalid 2:4 pair code, 6 or 7, is read as (R96, R110): the manual gives none. Two numbers
of 2 bits. -/
opaque badPair : Nat → Nat

/-- DROP_COUNT and flags of an output tile whose instruction has no reference result (R112, R125): not given. The argument
is SEQ. -/
opaque descStatus : Nat → Nat

/-- TK and SK with which test content rounds (R123, R205): the manual gives keys for the tiles of a job only. -/
opaque contentTk : Dword
opaque contentSk : Dword

/-- Duty of a heater in sixteenths (R224): the manual says what it aims at, not its value. Arguments: site and point. -/
opaque heaterDuty : Nat → Nat → Nat

end Sys2Proof.Config
end

