-- ==== Sys2Proof/Machine/Sparse.lean ====
section
/-!
DEFINITION. Sparse tables: what the manual indexes by site, sector, partition, address or number, held as a list of
(key, value) pairs in one canonical form: keys strictly rising, and no entry equal to what an unlisted key reads as.
-/
namespace Sys2Proof.Machine

/-- A table from numbers to `α`; the value of an unlisted number is given by each use. -/
abbrev Sparse (α : Type) := List (Nat × α)

/-- The value at key `k`, `d` when it is not listed. -/
def Sparse.get {α : Type} (d : α) : Sparse α → Nat → α
  | [], _ => d
  | (k, v) :: m, n => if n = k then v else if n < k then d else Sparse.get d m n

/-- The table with `v` at key `n`; an entry equal to the default is removed. -/
def Sparse.set {α : Type} [DecidableEq α] (d : α) : Sparse α → Nat → α → Sparse α
  | [], n, v => if v = d then [] else [(n, v)]
  | (k, w) :: m, n, v =>
    if n < k then (if v = d then (k, w) :: m else (n, v) :: (k, w) :: m)
    else if n = k then (if v = d then m else (n, v) :: m)
    else (k, w) :: Sparse.set d m n v

/-- The table with `f` applied at key `n`. -/
def Sparse.upd {α : Type} [DecidableEq α] (d : α) (m : Sparse α) (n : Nat) (f : α → α) : Sparse α :=
  Sparse.set d m n (f (Sparse.get d m n))

/-- The table with `f` applied at every listed key, entries that become the default removed. -/
def Sparse.mapAll {α : Type} [DecidableEq α] (d : α) : Sparse α → (Nat → α → α) → Sparse α
  | [], _ => []
  | (k, v) :: m, f => if f k v = d then Sparse.mapAll d m f else (k, f k v) :: Sparse.mapAll d m f

/-- The table of `f` at the keys listed, in rising order. -/
def Sparse.tabulate {α : Type} [DecidableEq α] (d : α) (ks : List Nat) (f : Nat → α) : Sparse α :=
  (ks.map fun k => (k, f k)).filter fun x => x.2 != d

/-- Keys strictly rise from above `lo`, and no entry holds the default. -/
def Sparse.wfFrom {α : Type} [DecidableEq α] (d : α) : Option Nat → Sparse α → Bool
  | _, [] => true
  | lo, (k, v) :: m => (match lo with | none => true | some l => l < k) && (v != d) && Sparse.wfFrom d (some k) m

/-- The canonical form of a table. -/
def Sparse.wf {α : Type} [DecidableEq α] (d : α) (m : Sparse α) : Bool := Sparse.wfFrom d none m

/-- The keys that are listed. -/
def Sparse.keys {α : Type} (m : Sparse α) : List Nat := m.map (·.1)

/-- Byte-addressed memory: (address, byte) pairs in canonical form (Host.Cell). -/
abbrev Memory := Sparse Byte

/-- The bytes at `n` addresses from `a`. -/
def Memory.bytes (d : Byte) (m : Memory) : Nat → Nat → List Byte
  | _, 0 => []
  | a, n + 1 => Sparse.get d m a :: Memory.bytes d m (a + 1) n

/-- Memory with the bytes written from `a` up. -/
def Memory.write (d : Byte) : Memory → Nat → List Byte → Memory
  | m, _, [] => m
  | m, a, b :: bs => Memory.write d (Sparse.set d m a b) (a + 1) bs

/-- The canonical form of a memory. -/
def Memory.wf (d : Byte) (m : Memory) : Bool := Sparse.wf d m

end Sys2Proof.Machine
end

