-- ==== Sys2Proof/Machine/Bytes.lean ====
section
/-!
DEFINITION. Byte layouts (R16: little-endian), the CRC-64 of R86, the SHA-256 that R394 and R402 name, and the byte
forms of tags (Table 4.1), seal events (Table 4.5) and descriptors.
-/
namespace Sys2Proof.Machine

/-- `n` in `w` bytes, least significant first (R16). -/
def le : Nat → Nat → List Byte
  | 0, _ => []
  | w + 1, n => BitVec.ofNat 8 n :: le w (n / 256)

/-- The number that bytes spell, least significant first (R16). -/
def ofLe : List Byte → Nat
  | [] => 0
  | b :: bs => b.toNat + 256 * ofLe bs

/-- `w` bytes at offset `o` of a structure, as a number; bytes past its end are zero. -/
def field (bs : List Byte) (o w : Nat) : Nat := ofLe ((bs.drop o).take w)

/-- A signed difference in `w` bytes, two's complement. -/
def leInt (w : Nat) (i : Int) : List Byte := le w (i.emod (2 ^ (8 * w) : Nat)).toNat

/-- Two's complement number of `w` bits. -/
def toSigned (w n : Nat) : Int := if n % 2 ^ w < 2 ^ (w - 1) then (n % 2 ^ w : Nat) else (n % 2 ^ w : Nat) - (2 ^ w : Nat)

/-- Zero bytes up to a multiple of 4 (R412). -/
def pad4 (bs : List Byte) : List Byte := bs ++ List.replicate ((4 - bs.length % 4) % 4) 0

/-- `bs` cut or filled with zeros to `n` bytes. -/
def padTo (n : Nat) (bs : List Byte) : List Byte := (bs ++ List.replicate (n - bs.length) 0).take n

/-- Words of a byte list, each of 4 bytes. -/
def toWords (fuel : Nat) (bs : List Byte) : List Word :=
  match fuel with
  | 0 => []
  | f + 1 => if bs.isEmpty then [] else BitVec.ofNat 32 (ofLe (bs.take 4)) :: toWords f (bs.drop 4)

/-- Eight shift steps of the reflected CRC-64 (R86), fuel `k`. -/
def crcBits : Nat → Dword → Dword
  | 0, c => c
  | k + 1, c => crcBits k (if c.toNat % 2 = 1 then (c >>> 1) ^^^ 0xC96C5795D7870F42#64 else c >>> 1)

/-- The CRC register after the bytes. -/
def crcRun : Dword → List Byte → Dword
  | c, [] => c
  | c, b :: bs => crcRun (crcBits 8 (c ^^^ b.zeroExtend 64)) bs

/-- CRC-64 of R86. -/
def crc64 (bs : List Byte) : Dword := crcRun 0xFFFFFFFFFFFFFFFF#64 bs ^^^ 0xFFFFFFFFFFFFFFFF#64

/-- CHECK of a stored record: bits [31:0] of the CRC-64 (Tables 10.6, 16.5, 17.8). -/
def check32 (bs : List Byte) : Nat := (crc64 bs).toNat % 2 ^ 32

/-- Bytes 0 to 59 with CHECK behind them. -/
def withCheck (bs : List Byte) : List Byte := padTo 60 bs ++ le 4 (check32 (padTo 60 bs))

/-- A stored 64-byte record is valid: its CHECK matches (R263, R421). -/
def checkOk (bs : List Byte) : Bool := bs.length == 64 && field bs 60 4 == check32 (bs.take 60)

/-- `a` is later than `b` modulo 2^32, as a signed difference (R263). -/
def later32 (a b : Nat) : Bool := decide (0 < toSigned 32 ((a + 2 ^ 32 - b % 2 ^ 32) % 2 ^ 32))

/-- `a` is later than `b` modulo 2^64, as a signed difference (R380, Table 16.6a). -/
def later64 (a b : Nat) : Bool := decide (0 < toSigned 64 ((a + 2 ^ 64 - b % 2 ^ 64) % 2 ^ 64))

/-! ## SHA-256 (FIPS 180-4; the manual names it and does not restate it: PRESUMED, log entry 8) -/

/-- The 64 round constants. -/
def shaK : List Word :=
  [0x428a2f98, 0x71374491, 0xb5c0fbcf, 0xe9b5dba5, 0x3956c25b, 0x59f111f1, 0x923f82a4, 0xab1c5ed5] ++
  [0xd807aa98, 0x12835b01, 0x243185be, 0x550c7dc3, 0x72be5d74, 0x80deb1fe, 0x9bdc06a7, 0xc19bf174] ++
  [0xe49b69c1, 0xefbe4786, 0x0fc19dc6, 0x240ca1cc, 0x2de92c6f, 0x4a7484aa, 0x5cb0a9dc, 0x76f988da] ++
  [0x983e5152, 0xa831c66d, 0xb00327c8, 0xbf597fc7, 0xc6e00bf3, 0xd5a79147, 0x06ca6351, 0x14292967] ++
  [0x27b70a85, 0x2e1b2138, 0x4d2c6dfc, 0x53380d13, 0x650a7354, 0x766a0abb, 0x81c2c92e, 0x92722c85] ++
  [0xa2bfe8a1, 0xa81a664b, 0xc24b8b70, 0xc76c51a3, 0xd192e819, 0xd6990624, 0xf40e3585, 0x106aa070] ++
  [0x19a4c116, 0x1e376c08, 0x2748774c, 0x34b0bcb5, 0x391c0cb3, 0x4ed8aa4a, 0x5b9cca4f, 0x682e6ff3] ++
  [0x748f82ee, 0x78a5636f, 0x84c87814, 0x8cc70208, 0x90befffa, 0xa4506ceb, 0xbef9a3f7, 0xc67178f2]

def shaInit : List Word :=
  [0x6a09e667, 0xbb67ae85, 0x3c6ef372, 0xa54ff53a, 0x510e527f, 0x9b05688c, 0x1f83d9ab, 0x5be0cd19]

def ror (w : Word) (n : Nat) : Word := (w >>> n) ||| (w <<< (32 - n))

/-- The message schedule, newest word first, extended by `n` words. -/
def shaSched : Nat → List Word → List Word
  | 0, ws => ws
  | n + 1, ws =>
    let w2 := ws.getD 1 0
    let w7 := ws.getD 6 0
    let w15 := ws.getD 14 0
    let w16 := ws.getD 15 0
    let s0 := ror w15 7 ^^^ ror w15 18 ^^^ (w15 >>> 3)
    let s1 := ror w2 17 ^^^ ror w2 19 ^^^ (w2 >>> 10)
    shaSched n ((w16 + s0 + w7 + s1) :: ws)

/-- The compression rounds over (constant, schedule word) pairs. -/
def shaRounds : List (Word × Word) → List Word → List Word
  | [], h => h
  | (k, w) :: r, h =>
    let a := h.getD 0 0
    let b := h.getD 1 0
    let c := h.getD 2 0
    let e := h.getD 4 0
    let f := h.getD 5 0
    let g := h.getD 6 0
    let t1 := h.getD 7 0 + (ror e 6 ^^^ ror e 11 ^^^ ror e 25) + ((e &&& f) ^^^ (~~~e &&& g)) + k + w
    let t2 := (ror a 2 ^^^ ror a 13 ^^^ ror a 22) + ((a &&& b) ^^^ (a &&& c) ^^^ (b &&& c))
    shaRounds r [t1 + t2, a, b, c, h.getD 3 0 + t1, e, f, g]

/-- A big-endian word of 4 bytes. -/
def beWord (bs : List Byte) : Word := BitVec.ofNat 32 (ofLe (bs.take 4).reverse)

def beWords : Nat → List Byte → List Word
  | 0, _ => []
  | n + 1, bs => beWord bs :: beWords n (bs.drop 4)

/-- One 64-byte block. -/
def shaBlock (h : List Word) (blk : List Byte) : List Word :=
  let ws := (shaSched 48 (beWords 16 blk).reverse).reverse
  (h.zip (shaRounds (shaK.zip ws) h)).map fun p => p.1 + p.2

def shaBlocks : Nat → List Word → List Byte → List Word
  | 0, h, _ => h
  | n + 1, h, bs => shaBlocks n (shaBlock h (bs.take 64)) (bs.drop 64)

/-- SHA-256, 32 bytes. -/
def sha256 (bs : List Byte) : List Byte :=
  let n := bs.length
  let zeros := (119 - n % 64) % 64
  let msg := bs ++ [0x80] ++ List.replicate zeros 0 ++ (le 8 (8 * n)).reverse
  (shaBlocks (msg.length / 64) shaInit msg).flatMap fun w => (le 4 w.toNat).reverse

/-! ## Tags and seals -/

/-- FMT_FLAGS of a tag (Table 4.1). -/
def Tag.fmtFlags (t : Sys2Proof.Tag) : Nat := t.fmt % 16 + 16 * (t.spars % 4) + 64 * flag t.poison + 128 * flag t.taint

/-- Tag bytes 8 to 15 (Table 4.1). -/
def Tag.bytes8 (t : Sys2Proof.Tag) : List Byte := le 3 t.handle ++ le 3 t.index ++ le 1 (Tag.fmtFlags t) ++ le 1 t.gen

/-- The seal of a payload and a tag (R86): 4,608 payload bytes and tag bytes 8 to 15. -/
def sealOf (payload : List Byte) (t : Sys2Proof.Tag) : Dword := crc64 (padTo 4608 payload ++ Tag.bytes8 t)

/-- The 16 tag bytes. -/
def Tag.bytes (t : Sys2Proof.Tag) : List Byte := le 8 t.crc.toNat ++ Tag.bytes8 t

end Sys2Proof.Machine
end

