-- ==== Sys2Proof/Machine/Arith.lean ====
section
/-!
DEFINITION. Reference arithmetic (R106 to R125): element formats and sparse packing, the accumulation window, exact
conversion of an accumulator into an output element, and the stochastic keys of R123. Values are exact integers times
powers of two.
-/
namespace Sys2Proof.Machine

/-- Byte `i` of a payload; bytes past the list are zero. -/
def byteAt (p : List Byte) (i : Nat) : Nat := (p.getD i 0).toNat

/-- H of Table 5.1. -/
def fmtH : Nat → Nat
  | 0 => 7 | 1 => 15 | 2 => 127 | 3 => 255 | 4 => 32767 | 5 => 65535 | _ => 0

/-- An unsigned integer format (Table 5.1). -/
def fmtUnsigned (f : Nat) : Bool := f == 1 || f == 3 || f == 5

/-- Bits of an element: 4, 8, 16 or 32 (Table 5.1). -/
def fmtBits (f : Nat) : Nat := if f ≤ 1 then 4 else if f ≤ 3 then 8 else if f ≤ 5 then 16 else 32

/-- Lane length KB of Table 5.1; 64 positions in a 2:4 or 1:4 block (R108). -/
def laneLen (f spars : Nat) : Nat := if spars == 2 || spars == 3 then 64 else 512 / fmtBits f

/-- Fine scales per lane. -/
def laneGroupCount (f spars : Nat) : Nat := laneLen f spars / 32

/-- Stored value `k` of a run that begins at data byte `base` (R107). -/
def elemAt (f : Nat) (p : List Byte) (base k : Nat) : Int :=
  match f with
  | 0 => toSigned 4 (byteAt p (base + k / 2) / 16 ^ (k % 2))
  | 1 => (byteAt p (base + k / 2) / 16 ^ (k % 2) % 16 : Nat)
  | 2 => toSigned 8 (byteAt p (base + k))
  | 3 => (byteAt p (base + k) : Nat)
  | 4 => toSigned 16 (field p (base + 2 * k) 2)
  | _ => (field p (base + 2 * k) 2 : Nat)

/-- Group `g` of lane `l` is present: always, but for block-skip (R108). -/
def groupPresent (f spars : Nat) (p : List Byte) (l g : Nat) : Bool :=
  if spars == 1 then
    let n := l * laneGroupCount f 1 + g
    byteAt p (4096 + 256 + n / 8) / 2 ^ (n % 8) % 2 == 1
  else true

/-- Present groups before (l, g), in ascending order: where block-skip packs the group (R108). -/
def groupRank (f : Nat) (p : List Byte) (n : Nat) : Nat :=
  let gc := laneGroupCount f 1
  ((List.range n).filter fun i => groupPresent f 1 p (i / gc) (i % gc)).length

/-- Fine scale of group `g` of lane `l` (R107, Table 5.2). -/
def fineScale (f spars : Nat) (p : List Byte) (l g : Nat) : Int :=
  toSigned 8 (byteAt p (4096 + l * laneGroupCount f spars + g))

/-- Positions of a 2:4 pair code (Table 5.3); what 6 and 7 stand for is open (log entry 114). -/
def pairPositions : Nat → Nat × Nat
  | 0 => (0, 1) | 1 => (0, 2) | 2 => (0, 3) | 3 => (1, 2) | 4 => (1, 3) | 5 => (2, 3)
  | c => (Config.badPair c % 4, Config.badPair c / 4 % 4)

/-- Pair code of quad `q` of lane `l` (Table 5.2). -/
def pairCode (p : List Byte) (l q : Nat) : Nat := field p (4096 + 128 + 6 * l) 6 / 2 ^ (3 * q) % 8

/-- Position code of quad `q` of lane `l` in a 1:4 block. -/
def posCode (p : List Byte) (l q : Nat) : Nat := field p (4096 + 128 + 4 * l) 4 / 2 ^ (2 * q) % 4

/-- Stored values of lane `l` with their logical positions (R107, R108). -/
def storedOf (f spars : Nat) (p : List Byte) (l : Nat) : List (Nat × Int) :=
  match spars with
  | 0 => (List.range (laneLen f 0)).map fun k => (k, elemAt f p (l * 64) k)
  | 1 =>
    let gc := laneGroupCount f 1
    (List.range gc).flatMap fun g =>
      if groupPresent f 1 p l g then
        let base := groupRank f p (l * gc + g) * (4 * fmtBits f)
        (List.range 32).map fun k => (32 * g + k, elemAt f p base k)
      else []
  | 2 =>
    (List.range 32).map fun s =>
      let c := pairPositions (pairCode p l (s / 2))
      (4 * (s / 2) + (if s % 2 = 0 then c.1 else c.2), elemAt f p (l * (4 * fmtBits f)) s)
  | _ => (List.range 16).map fun q => (4 * q + posCode p l q, elemAt f p (l * (2 * fmtBits f)) q)

/-- A consumed 2:4 block with pair code 6 or 7 has invalid metadata (R110). -/
def sparseMetaBad (spars : Nat) (p : List Byte) : Bool :=
  spars == 2 && (List.range 64).any fun l => (List.range 16).any fun q => 6 ≤ pairCode p l q

/-- One group of a lane: present, fine scale, its 32 elements. -/
abbrev Group := Bool × Int × List Int

/-- The groups of lane `l` of one block. -/
def blockGroups (b : Block) (l : Nat) : List Group :=
  let f := b.tag.fmt
  let sp := b.tag.spars
  let st := storedOf f sp b.payload l
  (List.range (laneGroupCount f sp)).map fun g =>
    (groupPresent f sp b.payload l g, fineScale f sp b.payload l g,
      (List.range 32).map fun k => (((st.find? fun x => x.1 = 32 * g + k).map (·.2)).getD 0))

/-- The groups of lane `l` along the reduction, over the blocks in order. -/
def laneGroups (bs : List Block) (l : Nat) : List Group := bs.flatMap fun b => blockGroups b l

/-- NZ_COUNT of a block: its stored elements (R109, R137); of a FORMAT without a lane length in Table 5.1, 16 in each lane (log entry
136). -/
def nzCountOf (b : Block) : Nat :=
  ((List.range 64).map fun l => (storedOf b.tag.fmt b.tag.spars b.payload l).length).sum

/-- POS_SUM of a block (R137; log entry 136). -/
def posSumOf (b : Block) : Nat :=
  (((List.range 64).map fun l =>
    ((storedOf b.tag.fmt b.tag.spars b.payload l).map fun x => l * 128 + x.1).sum).sum) % 2 ^ 32

/-! ## The accumulation window (R113 to R116) -/

/-- The greater of two optional numbers. -/
def maxOpt : Option Int → Option Int → Option Int
  | some a, some b => some (max a b)
  | some a, none => some a
  | none, b => b

/-- The lesser of two optional numbers. -/
def minOpt : Option Int → Option Int → Option Int
  | some a, some b => some (min a b)
  | some a, none => some a
  | none, b => b

/-- Sum of two optional numbers, none when either is missing. -/
def addOpt : Option Int → Option Int → Option Int
  | some a, some b => some (a + b)
  | _, _ => none

/-- Largest fine scale of group `g` over present lanes. -/
def groupMax (lanes : List (List Group)) (g : Nat) : Option Int :=
  lanes.foldl (fun m l => match l[g]? with
    | some (true, e, _) => maxOpt m (some e)
    | _ => m) none

/-- Smallest fine scale of group `g` over present lanes whose group is not all zero (R132). -/
def groupMinNz (lanes : List (List Group)) (g : Nat) : Option Int :=
  lanes.foldl (fun m l => match l[g]? with
    | some (true, e, xs) => if xs.all (· == 0) then m else minOpt m (some e)
    | _ => m) none

/-- E_max of R114, none when the tile has no present term. -/
def eMax (a b : List (List Group)) (groups : Nat) : Option Int :=
  (List.range groups).foldl (fun m g => maxOpt m (addOpt (groupMax a g) (groupMax b g))) none

/-- E_min of R132. -/
def eMin (a b : List (List Group)) (groups : Nat) : Option Int :=
  (List.range groups).foldl (fun m g => minOpt m (addOpt (groupMinNz a g) (groupMinNz b g))) none

/-- The window base W (R114). -/
def windowOf (a b : List (List Group)) (groups : Nat) : Int :=
  match eMax a b groups with
  | some e => e - 100
  | none => 0

/-- Exact sum of products of one group (R113). -/
def dot (x y : List Int) : Int := (x.zip y).foldl (fun s p => s + p.1 * p.2) 0

/-- Accumulator and dropped terms of one element (R115). -/
def accumulate (w : Int) (a b : List Group) : Int × Nat :=
  (a.zip b).foldl (fun (s : Int × Nat) t =>
    if t.1.1 && t.2.1 then
      let e := t.1.2.1 + t.2.2.1
      if e < w then (s.1, s.2 + 1) else (s.1 + dot t.1.2.2 t.2.2.2 * 2 ^ (e - w).toNat, s.2)
    else s) (0, 0)

/-! ## Conversion (R117 to R121) -/

/-- A finite binary32 as (m, q): m × 2^q, |m| < 2^24; none for an infinity or a NaN (R117). -/
def f32Dyadic (w : Word) : Option (Int × Int) :=
  let n : Nat := w.toNat
  let ex : Nat := n / 2 ^ 23 % 256
  let fr : Nat := n % 2 ^ 23
  let sg : Int := if n / 2 ^ 31 = 1 then -1 else 1
  if ex = 255 then none
  else if ex = 0 then some (sg * (fr : Nat), -149)
  else some (sg * ((fr + 2 ^ 23 : Nat) : Int), (ex : Int) - 150)

/-- SCALE_A × SCALE_B × OUT_FACTOR as (m, q), none when one is not finite. -/
def scaleProduct (d : ArithDesc) : Option (Int × Int) :=
  match f32Dyadic d.scaleA, f32Dyadic d.scaleB, f32Dyadic d.outFactor with
  | some a, some b, some c => some (a.1 * b.1 * c.1, a.2 + b.2 + c.2)
  | _, _, _ => none

/-- Rounding of R120: floor `fl` and fraction `rem / 2^s`. -/
def roundFl (mode r : Nat) (fl : Int) (rem s : Nat) : Int :=
  if mode = 0 then
    if 2 * rem > 2 ^ s || (2 * rem == 2 ^ s && fl % 2 != 0) then fl + 1 else fl
  else if rem * 2 ^ 32 / 2 ^ s > r then fl + 1 else fl

/-- `m × 2^e` rounded to an integer (R120). -/
def roundQ (mode r : Nat) (m : Int) (e : Int) : Int :=
  if 0 ≤ e then m * 2 ^ e.toNat
  else
    let s := (-e).toNat
    let fl := Int.fdiv m (2 ^ s : Nat)
    roundFl mode r fl (m - fl * (2 ^ s : Nat)).toNat s

/-- `|m| × 2^e ≤ h × 2^t`, exactly. -/
def leScaled (m : Nat) (e : Int) (h : Nat) (t : Int) : Bool :=
  if t ≤ e then m * 2 ^ (e - t).toNat ≤ h else m ≤ h * 2 ^ (t - e).toNat

/-- Smallest t from `lo` with `m × 2^e ≤ h × 2^t`, searching `fuel` values. -/
def scaleSearch : Nat → Nat → Int → Nat → Int → Int
  | 0, _, _, _, t => t
  | n + 1, m, e, h, t => if leScaled m e h t then t else scaleSearch n m e h (t + 1)

/-- Fine scale of an output group whose largest magnitude is `m × 2^e` (R119), clamped to -128 … 127. -/
def groupScale (h m : Nat) (e : Int) : Int := if m = 0 then -128 else scaleSearch 255 m e h (-128)

/-- Clamping of a rounded integer (R119): the written value and whether a substitution was made. -/
def clampInt (f : Nat) (neg : Bool) (n : Int) : Int × Bool :=
  let h : Int := fmtH f
  if fmtUnsigned f then
    if neg then (0, true) else if n > h then (h, true) else (n, false)
  else if n > h then (h, true)
  else if n < -h then (-(h + 1), true)
  else (n, false)

/-- Position of the leading one of a positive number. -/
def msb (n : Nat) : Nat := Nat.log2 n

/-- The binary32 bit pattern of `sign, n × 2^e` for the spacing e of R121, |n| ≤ 2^24, and whether it saturated. -/
def packF32 (neg : Bool) (n : Nat) (e : Int) : Nat × Bool :=
  let sg := if neg then 2 ^ 31 else 0
  let n' := if n = 2 ^ 24 then 2 ^ 23 else n
  let e' := if n = 2 ^ 24 then e + 1 else e
  if n' < 2 ^ 23 then (sg + n', false)
  else if 105 ≤ e' then (sg + 0x7F7FFFFF, true)
  else (sg + (e' + 150).toNat * 2 ^ 23 + (n' - 2 ^ 23), false)

/-- Exponent of the spacing u at `|m| × 2^e` (R121). -/
def f32Spacing (m : Nat) (e : Int) : Int := if m = 0 then -149 else max ((msb m : Int) + e) (-126) - 23

/-- Conversion of X = m × 2^e to binary32 (R121): bit pattern, SATURATED, UNDERFLOW. -/
def toF32 (mode r : Nat) (m : Int) (e : Int) : Nat × Bool × Bool :=
  let sp := f32Spacing m.natAbs e
  let n := roundQ mode r m (e - sp)
  let p := packF32 (m < 0) n.natAbs sp
  (p.1, p.2, m != 0 && n == 0)

/-! ## Stochastic keys (R123) -/

def mix64 (z0 : Dword) : Dword :=
  let z1 := (z0 ^^^ (z0 >>> 30)) * 0xBF58476D1CE4E5B9#64
  let z2 := (z1 ^^^ (z1 >>> 27)) * 0x94D049BB133111EB#64
  z2 ^^^ (z2 >>> 31)

/-- The element's 32-bit random value. -/
def elementRandom (tk sk : Dword) (seq i j : Nat) : Nat :=
  (mix64 (mix64 (tk + sk) ^^^ ((BitVec.ofNat 64 seq <<< 12) ||| BitVec.ofNat 64 (i * 64 + j)))).toNat / 2 ^ 32

/-- First 8 bytes of a SHA-256 digest, little-endian. -/
def keyOf (bs : List Byte) : Dword := BitVec.ofNat 64 (ofLe ((sha256 bs).take 8))

/-- Tile key: byte 0x01, job seed, logical tile. -/
def tileKey (seed : Dword) (tile : Nat) : Dword := keyOf (le 1 1 ++ le 8 seed.toNat ++ le 2 tile)

/-- Step key: byte 0x02, job seed, step. -/
def stepKey (seed : Dword) (step : Nat) : Dword := keyOf (le 1 2 ++ le 8 seed.toNat ++ le 8 step)

/-! ## Lanes as stored (R107, R108) -/

/-- Bytes of one lane's stored values, but for block-skip. -/
def dataLane (f spars : Nat) : Nat := if spars = 2 then 4 * fmtBits f else if spars = 3 then 2 * fmtBits f else 64

/-- Bits packed lowest first. -/
def packBits : List Nat → Nat
  | [] => 0
  | c :: cs => c % 2 + 2 * packBits cs

/-- Lane `l` of a block as stored. -/
def laneBytesOf (b : Block) (l : Nat) : LaneBytes :=
  let f := b.tag.fmt
  let sp := b.tag.spars
  let p := padTo 4608 b.payload
  let g := laneGroupCount f sp
  let size := 4 * fmtBits f
  let at_ : Nat × Nat := if sp = 1 then (groupRank f p (l * g) * size, (groupRank f p ((l + 1) * g) - groupRank f p (l * g)) * size)
    else (l * dataLane f sp, dataLane f sp)
  { fmt := f, spars := sp, data := (p.drop at_.1).take at_.2, scales := (p.drop (4096 + l * g)).take g
    codes := if sp = 2 then field p (4096 + 128 + 6 * l) 6 else if sp = 3 then field p (4096 + 128 + 4 * l) 4
      else if sp = 1 then packBits ((List.range g).map fun k => flag (groupPresent f 1 p l k)) else 0 }

/-- The payload of a block with these 64 lanes. -/
def lanesPayload (f spars : Nat) (ls : List LaneBytes) : List Byte :=
  let g := laneGroupCount f spars
  let data := padTo 4096 (ls.flatMap (·.data))
  let scales := ls.flatMap fun x => padTo g x.scales
  if spars = 0 then data ++ padTo 512 scales
  else if spars = 1 then data ++ padTo 256 scales ++
    padTo 256 (le 32 (packBits (ls.flatMap fun x => (List.range g).map fun k => x.codes / 2 ^ k % 2)))
  else data ++ padTo 128 scales ++ padTo 384 (ls.flatMap fun x => le (if spars = 2 then 6 else 4) x.codes)

/-- A lane of zero elements with given fine scales; in block-skip every group is present. -/
def zeroLane (f spars : Nat) (scales : List Int) : LaneBytes :=
  let g := laneGroupCount f spars
  { fmt := f, spars := spars, data := List.replicate (if spars = 1 then g * (4 * fmtBits f) else dataLane f spars) 0
    scales := scales.map fun e => BitVec.ofInt 8 e, codes := if spars = 1 then 2 ^ g - 1 else 0 }

/-! ## The vector engine's conversion (R122, R126) -/

/-- Output tile status word (Table 5.5). -/
def statusWord (drops : Nat) (sat under inv stoch : Bool) : Word :=
  BitVec.ofNat 32 (drops % 2 ^ 24 + 2 ^ 24 * flag sat + 2 ^ 25 * flag under + 2 ^ 26 * flag inv + 2 ^ 27 * flag stoch)

/-- A binary32 result times OUT_FACTOR: a NaN, an infinity with its sign, or m × 2^q exactly. -/
inductive VecX where
  | nan
  | inf (neg : Bool)
  | fin (m q : Int)
  deriving DecidableEq, Repr

/-- X of one result; `c` is OUT_FACTOR as m × 2^q. An infinite result stays infinite whatever the factor, and a factor of -0 counts as
positive (log entry 127). -/
def vecX (c : Int × Int) (w : Word) : VecX :=
  match f32Dyadic w with
  | some x => .fin (x.1 * c.1) (x.2 + c.2)
  | none => if w.toNat % 2 ^ 23 != 0 then .nan else .inf ((w.toNat / 2 ^ 31 == 1) != decide (c.1 < 0))

/-- The value that counts for M of a group (R119, R122): an infinity does not, nor a negative one in an unsigned format. -/
def VecX.counted (f : Nat) : VecX → Option (Nat × Int)
  | .fin m q => if fmtUnsigned f && m < 0 then none else some (m.natAbs, q)
  | _ => none

/-- Fine scale of a group, and UNDERFLOW. -/
def vecScale (f : Nat) (xs : List VecX) : Int × Bool :=
  let ms := (xs.filterMap (VecX.counted f)).filter fun x => x.1 != 0
  (ms.foldl (fun e x => max e (groupScale (fmtH f) x.1 x.2)) (-128),
    !ms.isEmpty && ms.all fun x => leScaled x.1 x.2 (fmtH f) (-129))

/-- One element in the group's scale with random value `r`, and SATURATED. -/
def vecElem (f round r : Nat) (e : Int) : VecX → Int × Bool
  | .nan => (0, false)
  | .inf neg => clampInt f neg (if neg then -(2 ^ 25) else 2 ^ 25)
  | .fin m q => clampInt f (m < 0) (roundQ round r m (q - e))

/-- Elements of a lane in the packing of R107. -/
def packLane (f : Nat) : List Int → List Byte
  | a :: b :: xs => if f ≤ 1 then BitVec.ofNat 8 ((a % 16).toNat + 16 * (b % 16).toNat) :: packLane f xs
    else leInt (fmtBits f / 8) a ++ leInt (fmtBits f / 8) b ++ packLane f xs
  | [a] => if f ≤ 1 then [BitVec.ofNat 8 (a % 16).toNat] else leInt (fmtBits f / 8) a
  | [] => []

/-- The block that the vector engine's conversion unit writes in a FORMAT of 0-5, and its status word: DROP_COUNT is 0. -/
def vecConvert (f : Nat) (v : VecOut) (tk sk : Dword) (seq : Nat) : List Byte × Word :=
  let kb := laneLen f 0
  let stoch := v.round == 1
  match f32Dyadic v.outFactor with
  | none => (List.replicate 4096 0 ++ padTo 512 (List.replicate (64 * laneGroupCount f 0) (BitVec.ofInt 8 (-128))),
      statusWord 0 false false true stoch)
  | some c =>
    let lane (l : Nat) : List VecX := (List.range kb).map fun k => vecX c (v.values.getD (l * kb + k) 0)
    let lanes := (List.range 64).map lane
    let group (l g : Nat) : List VecX := ((lanes.getD l []).drop (32 * g)).take 32
    let scale (l g : Nat) : Int × Bool := vecScale f (group l g)
    let elem (l k : Nat) : Int × Bool :=
      vecElem f v.round (elementRandom tk sk seq l k) (scale l (k / 32)).1 ((lanes.getD l []).getD k .nan)
    let all (p : Nat → Nat → Bool) : Bool := (List.range 64).any fun l => (List.range kb).any (p l)
    let groups := laneGroupCount f 0
    ((List.range 64).flatMap (fun l => packLane f ((List.range kb).map fun k => (elem l k).1)) ++
        padTo 512 ((List.range 64).flatMap fun l => (List.range groups).map fun g => BitVec.ofInt 8 (scale l g).1),
      statusWord 0 (all fun l k => (elem l k).2) ((List.range 64).any fun l => (List.range groups).any fun g => (scale l g).2)
        (all fun l k => (lanes.getD l []).getD k .nan == .nan) stoch)

end Sys2Proof.Machine
end

