-- ==== Sys2Proof/Machine/Residue.lean ====
section
/-!
DEFINITION. The residue checker (R128 to R143): product check by sums modulo 2^61 - 1, window comparison, sparse count
check, conversion relations of Table 6.1, the verdict item and its detail.
-/
namespace Sys2Proof.Machine

/-- The prime of R128. -/
def residueP : Nat := 2 ^ 61 - 1

/-- res(x) of R128. -/
def res (x : Int) : Nat := (x % (residueP : Int)).toNat

/-- rot(x, k) = x × 2^k modulo p (R128). -/
def rot (x : Nat) (k : Int) : Nat := x * 2 ^ (k % 61).toNat % residueP

/-- (actual - expected) modulo p. -/
def resDiff (a e : Nat) : Nat := (a + residueP - e % residueP) % residueP

/-- What the checker takes from one output tile's operands. -/
structure TileView where
  /-- groups of each of the 64 rows of A -/
  a : List (List Group) := []
  /-- groups of each of the 64 columns of B -/
  b : List (List Group) := []
  groups : Nat := 0
  deriving DecidableEq, Repr

/-- The checker's own decode of the operand blocks (R129). -/
def tileView (t : TileObs) : TileView :=
  { a := (List.range 64).map fun l => laneGroups (t.aBlocks.map (·.block)) l
    b := (List.range 64).map fun l => laneGroups (t.bBlocks.map (·.block)) l
    groups := t.desc.kLen / 32 }

/-- R112: the operands that the instruction names have no exact product. A FORMAT of 8 to 15 counts with 6 and 7 (log entry 135). -/
def operandsInvalid (t : TileObs) : Bool :=
  t.desc.kLen < 32 || 65536 < t.desc.kLen || t.desc.kLen % 32 != 0 || (t.aBlocks ++ t.bBlocks).any fun o => 6 ≤ o.desc.fmt

/-- R112: the instruction has no reference result. -/
def descInvalid (t : TileObs) : Bool :=
  operandsInvalid t || 7 ≤ t.desc.outFormat || 2 ≤ t.desc.outAxis || 2 ≤ t.desc.round

/-- Sum over lanes of scaled elements at group g, lane position k, as a residue: u(k) or v(k) of R129. -/
def laneSum (ls : List (List Group)) (g k : Nat) : Nat :=
  ls.foldl (fun s l => match l[g]? with
    | some (true, e, xs) => (s + rot (res (xs.getD k 0)) e) % residueP
    | _ => s) 0

/-- row_exp of one lane against the other operand's sums, before the rotation by -W (R129, R130). -/
def laneExp (sums : List (List Nat)) (l : List Group) : Nat :=
  ((l.zip sums).foldl (fun (s : Nat) t =>
    match t with
    | ((true, e, xs), us) =>
      (s + rot ((xs.zip us).foldl (fun a p => (a + res p.1 * p.2) % residueP) 0) e) % residueP
    | _ => s) 0)

/-- The 64 expected sums of one side: `own` lanes against sums of the `other` operand. -/
def expectedSums (own other : List (List Group)) (groups : Nat) (w : Int) : List Nat :=
  let sums := (List.range groups).map fun g => (List.range 32).map fun k => laneSum other g k
  own.map fun l => rot (laneExp sums l) (-w)

/-- The observation of element (i, j). -/
def elemOf (rows : List (List ElemObs)) (i j : Nat) : ElemObs := (rows.getD i []).getD j {}

/-- The 64 rows of 64 observations. -/
def elemRows : Nat → List ElemObs → List (List ElemObs)
  | 0, _ => []
  | n + 1, es => es.take 64 :: elemRows n (es.drop 64)

/-- Merging of R131: (factor, rows are merged). -/
def mergeOf (t : TileObs) : Nat × Bool :=
  let sp (bs : List OperandObs) : Nat := match bs with | o :: _ => o.block.tag.spars | [] => 0
  let f (s : Nat) : Nat := if s = 2 then 2 else if s = 3 then 4 else 1
  let fa := f (sp t.aBlocks)
  let fb := f (sp t.bBlocks)
  if fa != 1 && fb == 1 then (fa, false) else if fb != 1 && fa == 1 then (fb, true) else (1, false)

/-- Sums for lanes n, n + 64/f, … together (R131). -/
def mergeSums (f : Nat) (xs : List Nat) : List Nat :=
  if f = 1 then xs
  else (List.range (64 / f)).map fun n => ((List.range f).map fun m => xs.getD (n + m * (64 / f)) 0).sum % residueP

/-- Failing compared sums: (index, actual minus expected modulo p). -/
def failingSums (act exp : List Nat) : List (Nat × Nat) :=
  ((List.range act.length).map fun n => (n, resDiff (act.getD n 0 % residueP) (exp.getD n 0))).filter fun x => x.2 != 0

/-- The conversion facts of one element that the written value is checked against. -/
structure ConvElem where
  /-- exponent shift d of R138 -/
  d : Int := 0
  s : Nat := 0
  w : Int := 0
  saturated : Bool := false
  underflow : Bool := false
  deriving DecidableEq, Repr

/-- Output group of element (i, j) (R118). -/
def outGroup (axis i j : Nat) : Nat := if axis = 0 then 2 * i + j / 32 else 2 * j + i / 32

/-- First element of output group n. -/
def groupFirst (axis n : Nat) : Nat × Nat := if axis = 0 then (n / 2, 32 * (n % 2)) else (32 * (n % 2), n / 2)

/-- Output groups in the (i, j) order of their first elements. -/
def groupOrder (axis : Nat) : List Nat :=
  if axis = 0 then List.range 128 else (List.range 64).map (2 * ·) ++ (List.range 64).map (2 * · + 1)

/-- The elements of output group n. -/
def groupElems (axis n : Nat) : List (Nat × Nat) :=
  (List.range 32).map fun k => if axis = 0 then (n / 2, 32 * (n % 2) + k) else (32 * (n % 2) + k, n / 2)

/-- What R119 to R121 give for the split that the engine presents (R138, fourth relation of Table 6.1). `neg` is the
sign of X, `cq` the exponent Cq, `e` the group's fine scale. -/
def convElem (d : ArithDesc) (w cq e : Int) (neg : Bool) (o : ElemObs) : ConvElem :=
  let f := d.outFormat
  let dd := if f = 6 then w + cq - f32Spacing o.y.natAbs (w + cq) else w + cq - e
  let s := (-dd).toNat
  let fl : Int := if neg then (if o.rm = 0 then -(o.q : Int) else -(o.q : Int) - 1) else o.q
  let rem := if neg && o.rm != 0 then 2 ^ s - o.rm else o.rm
  let n := roundFl d.round o.r fl rem s
  if f = 6 then
    if o.big then { d := dd, s := s, w := (if neg then 2 ^ 31 else 0) + 0x7F7FFFFF, saturated := true }
    else
      let p := packF32 neg n.natAbs (f32Spacing o.y.natAbs (w + cq))
      { d := dd, s := s, w := p.1, saturated := p.2, underflow := o.y != 0 && n == 0 }
  else
    let c := if o.big then clampInt f neg (if neg then -(2 ^ 25) else 2 ^ 25) else clampInt f neg n
    { d := dd, s := s, w := c.1, saturated := c.2 }

/-- Outcome of the conversion check: first failing element or row, first failing group, flags. -/
structure ConvResult where
  elemFail : Option (Nat × Nat) := none
  rowFail : Option Nat := none
  groupFail : Option Nat := none
  saturated : Bool := false
  underflow : Bool := false
  deriving DecidableEq, Repr

/-- Pairs (i, j) in order. -/
def tilePairs : List (Nat × Nat) := (List.range 64).flatMap fun i => (List.range 64).map fun j => (i, j)

/-- The fine-scale relation of one group (Table 6.1): `qs` are (counts, Q, Rm, s, BIG). -/
def scaleRelation (h : Nat) (e : Int) (qs : List (Bool × Nat × Nat × Nat × Bool)) : Bool :=
  let beyond (x : Bool × Nat × Nat × Nat × Bool) : Bool :=
    x.1 && (x.2.2.2.2 || h < x.2.1 || (x.2.1 == h && 0 < x.2.2.1))
  let half (x : Bool × Nat × Nat × Nat × Bool) : Bool :=
    x.1 && (x.2.2.2.2 || h * 2 ^ x.2.2.2.1 < 2 * (x.2.1 * 2 ^ x.2.2.2.1 + x.2.2.1))
  (127 ≤ e || qs.all fun x => !beyond x) && (e ≤ -128 || qs.any half)

/-- UNDERFLOW of an integer group (R119 item 4): the unclamped scale is below -128. -/
def groupUnderflow (f : Nat) (m : Nat) (e : Int) : Bool := m != 0 && leScaled m e (fmtH f) (-129)

/-- The conversion check (R138, R139) over the elements as presented. -/
def conversionCheck (d : ArithDesc) (w : Int) (rows : List (List ElemObs)) (scales : List Int) : ConvResult :=
  match scaleProduct d with
  | none =>
    { elemFail := tilePairs.find? fun p =>
        (elemOf rows p.1 p.2).w != 0 || (d.outFormat != 6 && scales.getD (outGroup d.outAxis p.1 p.2) (-128) != -128) }
  | some (cmS, cq) =>
    let cm := cmS.natAbs
    let f := d.outFormat
    let conv (i j : Nat) : ConvElem :=
      let o := elemOf rows i j
      convElem d w cq (scales.getD (outGroup d.outAxis i j) (-128)) ((o.y < 0) != (cmS < 0) && o.y != 0) o
    let elemBad (p : Nat × Nat) : Bool :=
      let o := elemOf rows p.1 p.2
      let c := conv p.1 p.2
      2 ^ c.s ≤ o.rm || o.w != c.w
    let rowBad (i : Nat) : Bool :=
      let js := List.range 64
      let sumY := res ((js.map fun j => (elemOf rows i j).y).foldl (· + ·) 0)
      let sumA := res ((js.map fun j => (elemOf rows i j).acc).foldl (· + ·) 0)
      let small := js.filter fun j => !(elemOf rows i j).big
      let lhs := (small.map fun j => rot (res (elemOf rows i j).y.natAbs) (max (conv i j).d 0)).sum % residueP
      let rhs := (small.map fun j => rot (res (elemOf rows i j).q) (conv i j).s + res (elemOf rows i j).rm).sum % residueP
      sumY != cm * sumA % residueP || lhs != rhs
    let groupBad (n : Nat) : Bool :=
      let qs := (groupElems d.outAxis n).map fun p =>
        let o := elemOf rows p.1 p.2
        let neg := (o.y < 0) != (cmS < 0) && o.y != 0
        (!(fmtUnsigned f && neg), o.q, o.rm, (conv p.1 p.2).s, o.big)
      !scaleRelation (fmtH f) (scales.getD n (-128)) qs
    let groupUnder (n : Nat) : Bool :=
      let m := (groupElems d.outAxis n).foldl (fun m p =>
        let o := elemOf rows p.1 p.2
        let neg := (o.y < 0) != (cmS < 0) && o.y != 0
        if fmtUnsigned f && neg then m else max m o.y.natAbs) 0
      groupUnderflow f m (w + cq)
    { elemFail := tilePairs.find? elemBad
      rowFail := (List.range 64).find? rowBad
      groupFail := if f = 6 then none else (groupOrder d.outAxis).find? groupBad
      saturated := tilePairs.any fun p => (conv p.1 p.2).saturated
      underflow := if f = 6 then tilePairs.any fun p => (conv p.1 p.2).underflow
        else (List.range 128).any groupUnder }

/-- Terms dropped in the whole tile (R115). -/
def tileDrops (v : TileView) (w : Int) : Nat :=
  (List.range v.groups).foldl (fun s g => v.a.foldl (fun s la => v.b.foldl (fun s lb =>
    match la[g]?, lb[g]? with
    | some (true, ea, _), some (true, eb, _) => if ea + eb < w then s + 1 else s
    | _, _ => s) s) s) 0

/-- A 64-bit map of the failing sums. -/
def sumMap (xs : List (Nat × Nat)) : Dword := BitVec.ofNat 64 ((xs.map fun x => 2 ^ x.1).sum)

/-- R137: a consumed block whose counts differ. -/
def sparseCountBad (o : OperandObs) : Bool := o.nzCount != nzCountOf o.block || o.posSum != posSumOf o.block

/-- The compared sums of an output tile (R129 to R131): row sums actual and expected, then column sums, merged as R131 says. -/
structure TileSums where
  rowAct : List Nat := []
  rowExp : List Nat := []
  colAct : List Nat := []
  colExp : List Nat := []
  deriving DecidableEq, Repr

def tileSums (t : TileObs) : TileSums :=
  let v := tileView t
  let rows := elemRows 64 t.elems
  let w := windowOf v.a v.b v.groups
  let mg := mergeOf t
  let fr := if mg.2 then mg.1 else 1
  let fc := if mg.2 then 1 else mg.1
  let rowAct := (List.range 64).map fun i => res ((List.range 64).foldl (fun s j => s + (elemOf rows i j).acc) 0)
  let colAct := (List.range 64).map fun j => res ((List.range 64).foldl (fun s i => s + (elemOf rows i j).acc) 0)
  { rowAct := mergeSums fr rowAct, rowExp := mergeSums fr (expectedSums v.a v.b v.groups w)
    colAct := mergeSums fc colAct, colExp := mergeSums fc (expectedSums v.b v.a v.groups w) }

/-- A tile is checkable (R132, R134): its exponent spread is at most 100. -/
def checkableTile (v : TileView) : Bool :=
  match eMax v.a v.b v.groups, eMin v.a v.b v.groups with
  | some hi, some lo => decide (hi - lo ≤ 100)
  | _, _ => true

/-- The relations of Table 6.1 have no meaning: the output format, axis or rounding is reserved (R112). -/
def conversionOpen (d : ArithDesc) : Bool := 7 ≤ d.outFormat || 2 ≤ d.outAxis || 2 ≤ d.round

/-- The verdict of one output tile: item (Table 6.3) and detail (Table 6.4), R129 to R143. Under DESCRIPTOR the checks that the
operands still allow run and show in ALSO (R141); its STATUS is open (log entry 115). -/
def residueVerdictOf (t : TileObs) : VerdictItem × DetailItem :=
  let d := t.desc
  let v := tileView t
  let invalid := descInvalid t
  let exact := !operandsInvalid t
  let w := windowOf v.a v.b v.groups
  let checkable := exact && checkableTile v
  let mg := mergeOf t
  let sums := tileSums t
  let rf := if checkable then failingSums sums.rowAct sums.rowExp else []
  let cf := if checkable then failingSums sums.colAct sums.colExp else []
  let cr : ConvResult := if conversionOpen d then {} else conversionCheck d (if exact then w else t.window) (elemRows 64 t.elems) t.scales
  let convBad := cr.elemFail.isSome || cr.rowFail.isSome || cr.groupFail.isSome
  let winBad := exact && t.window != w
  let cntBad := (t.aBlocks ++ t.bBlocks).any sparseCountBad
  let prodBad := !rf.isEmpty || !cf.isEmpty
  let localized := match rf, cf with
    | [x], [y] => x.2 == y.2
    | _, _ => false
  let code := if invalid then 7 else if winBad then 5 else if cntBad then 6 else if prodBad then (if localized then 2 else 3)
    else if convBad then 4 else if checkable then 0 else 1
  let groupOnly := cr.elemFail.isNone && cr.rowFail.isNone && cr.groupFail.isSome
  let loc : Nat × Nat :=
    if code = 2 || code = 3 then
      ((match rf with | x :: _ => x.1 | [] => 0xFF), (match cf with | x :: _ => x.1 | [] => 0xFF))
    else if code = 4 then
      match cr.elemFail, cr.rowFail, cr.groupFail with
      | some p, _, _ => p
      | none, some i, _ => (i, 0xFF)
      | none, none, some n => groupFirst d.outAxis n
      | none, none, none => (0, 0)
    else (0, 0)
  let also := flag (prodBad && !(code == 2 || code == 3)) + 2 * flag (convBad && code != 4) +
    4 * flag (winBad && code != 5) + 8 * flag (cntBad && code != 6) + 16 * flag (code == 4 && groupOnly)
  let merge := (if mg.1 = 2 then 1 else if mg.1 = 4 then 2 else 0) + 4 * flag mg.2
  let status := if invalid then BitVec.ofNat 32 (Config.descStatus d.seq % 2 ^ 27 + 2 ^ 27 * flag (d.round == 1))
    else statusWord (tileDrops v w) cr.saturated cr.underflow (scaleProduct d).isNone (d.round == 1)
  let item : VerdictItem :=
    { seq := d.seq, verdict := code, lineage := d.lineage, rows := rf.length, cols := cf.length, locI := loc.1
      locJ := loc.2, also := also, merge := merge, status := status }
  let detail : DetailItem := match code with
    | 2 => { deltaOrRows := BitVec.ofNat 64 ((rf.map (·.2)).headD 0), colsMap := 0 }
    | 3 => { deltaOrRows := sumMap rf, colsMap := sumMap cf }
    | _ => {}
  (item, detail)

/-- What a sentinel reports of element (i, j) of a replay (R203). -/
def replayReport (t : TileObs) (i j : Nat) : ReplayReport :=
  let s := tileSums t
  { rowAct := s.rowAct.getD (i % s.rowAct.length) 0 % residueP, rowExp := s.rowExp.getD (i % s.rowExp.length) 0 % residueP
    colAct := s.colAct.getD (j % s.colAct.length) 0 % residueP, colExp := s.colExp.getD (j % s.colExp.length) 0 % residueP
    written := (elemOf (elemRows 64 t.elems) i j).w }

/-- The verdict fails its lineage (Table 6.2). -/
def verdictFails (code : Nat) : Bool := 2 ≤ code && code ≤ 7

/-- Bytes of a verdict item (Table 6.3). -/
def verdictBytes (v : VerdictItem) : List Byte :=
  le 4 v.seq ++ le 1 v.verdict ++ le 1 v.lineage ++ le 1 v.rows ++ le 1 v.cols ++ le 1 v.locI ++ le 1 v.locJ ++
    le 1 v.also ++ le 1 v.merge ++ le 4 v.status.toNat

/-- Bytes of a detail item (Table 6.4). -/
def detailBytes (d : DetailItem) : List Byte := le 8 d.deltaOrRows.toNat ++ le 8 d.colsMap.toNat

/-- The mismatch payload (Table 6.7). -/
def mismatchPayload (v : VerdictItem) (d : DetailItem) (slot tile : Nat) : List Byte :=
  verdictBytes v ++ detailBytes d ++ le 8 slot ++ le 2 tile ++ le 2 0

end Sys2Proof.Machine
end

