-- ==== Sys2Proof/Machine/Engine.lean ====
section
/-!
DEFINITION. The verification engine's arithmetic (R189 to R211): generators, seeds, signatures, test content, the
recomputation of one element and its classification.
-/
namespace Sys2Proof.Machine

/-- One step of a content or sampling generator (R208). -/
def lfsrStep (s : BitVec 128) : BitVec 128 :=
  if s.toNat % 2 = 1 then (s >>> 1) ^^^ 0xA0000014000000000000000000000000#128 else s >>> 1

def lfsrSteps : Nat → BitVec 128 → BitVec 128
  | 0, s => s
  | n + 1, s => lfsrSteps n (lfsrStep s)

/-- A draw: 64 steps, then state bits [63:0]; the new state beside it. -/
def lfsrDraw (s : BitVec 128) : BitVec 128 × Dword :=
  let t := lfsrSteps 64 s
  (t, t.truncate 64)

/-- A seed of all zeros is loaded as 1 (R193, R209, R217). -/
def seedOf (n : BitVec 128) : BitVec 128 := if n = 0 then 1 else n

/-- First 16 bytes of a digest, little-endian. -/
def digest16 (bs : List Byte) : BitVec 128 := BitVec.ofNat 128 (ofLe ((sha256 bs).take 16))

/-- Sampling seed of a sector (R193). -/
def samplingSeed (sector : Nat) (jobSeed : Dword) : BitVec 128 :=
  seedOf (digest16 (le 1 4 ++ le 1 sector ++ le 8 jobSeed.toNat))

/-- Content seed of a sector and epoch (R209). -/
def contentSeed (sector : Nat) (epoch : Dword) : BitVec 128 :=
  seedOf (digest16 (le 1 3 ++ le 1 sector ++ le 8 epoch.toNat))

/-- Interval of a draw for mean D (R193); D of 0 is treated as 1. -/
def sampleInterval (d : Dword) (div : Nat) : Nat := 1 + d.toNat % (2 * max div 1 - 1)

/-- MISR over payload words (R210). -/
def misrStep (m w : Dword) : Dword :=
  (if m.toNat % 2 = 1 then (m >>> 1) ^^^ 0xC96C5795D7870F42#64 else m >>> 1) ^^^ w

def dwords : Nat → List Byte → List Dword
  | 0, _ => []
  | n + 1, bs => BitVec.ofNat 64 (ofLe (bs.take 8)) :: dwords n (bs.drop 8)

/-- Signature of the output blocks of a test tile (R210). -/
def signatureOf (payloads : List (List Byte)) : Dword :=
  (payloads.flatMap fun p => dwords 576 (padTo 4608 p)).foldl misrStep 0xFFFFFFFFFFFFFFFF#64

/-! ## Test content (R205, R206) -/

/-- A recipe of Table 8.3. -/
structure Recipe where
  fmtA : Nat := 2
  fmtB : Nat := 2
  sparsA : Nat := 0
  sparsB : Nat := 0
  kLen : Nat := 256
  out : Nat := 2
  round : Nat := 0
  blocksA : Nat := 4
  blocksB : Nat := 4
  blocksOut : Nat := 1
  deriving DecidableEq, Repr

def recipeOf : Nat → Recipe
  | 0 => {}
  | 1 => { fmtA := 0, fmtB := 1, kLen := 512, out := 0, round := 1 }
  | 2 => { fmtA := 4, fmtB := 4, kLen := 128, out := 6, blocksOut := 4 }
  | 3 => { fmtA := 3, fmtB := 2, sparsA := 2, out := 4, blocksOut := 2 }
  | 4 => { sparsB := 3, out := 3, round := 1 }
  | 5 => { fmtA := 5, fmtB := 0, sparsA := 1, out := 5, blocksA := 8, blocksB := 2, blocksOut := 2 }
  | 6 => { fmtA := 2, fmtB := 4, kLen := 128, out := 6, round := 1, blocksA := 2, blocksOut := 4 }
  | _ => { fmtA := 1, fmtB := 1, sparsB := 2, out := 2, blocksA := 2 }

/-- The arithmetic fields of a recipe's instruction (R205). -/
def recipeDesc (n : Nat) : ArithDesc :=
  { kLen := (recipeOf n).kLen, outFormat := (recipeOf n).out, round := (recipeOf n).round
    handle := 0xFFFF00 + n }

/-- `n` bytes of draws, 8 from each. -/
def drawBytes : Nat → BitVec 128 → List Byte → BitVec 128 × List Byte
  | 0, s, acc => (s, acc)
  | n + 1, s, acc => drawBytes n (lfsrDraw s).1 (acc ++ le 8 (lfsrDraw s).2.toNat)

/-- Pack codes of `w` bits, lowest first, into a number. -/
def packCodes (w : Nat) : List Nat → Nat
  | [] => 0
  | c :: cs => c + 2 ^ w * packCodes w cs

/-- Stored data bytes of one block before its metadata: all of the data area for dense and block-skip, the stored
values for 2:4 and 1:4 (R108). -/
def dataBytes (f spars : Nat) : Nat := if spars == 2 then 256 * fmtBits f else if spars == 3 then 128 * fmtBits f else 4096

/-- Payload of one content block from its bytes in address order (R206). -/
def contentPayload (f spars : Nat) (bs : List Byte) : List Byte :=
  let nd := dataBytes f spars
  let ns := 64 * laneGroupCount f spars
  let data := bs.take nd
  let scales := ((bs.drop nd).take ns).map fun b => BitVec.ofInt 8 ((b.toNat % 41 : Nat) - 20)
  let codes := (bs.drop (nd + ns)).map (·.toNat)
  let gc := laneGroupCount f 1
  let meta_ : List Byte :=
    if spars == 2 then (List.range 64).flatMap fun l => le 6 (packCodes 3 (((codes.drop (16 * l)).take 16).map (· % 6)))
    else if spars == 3 then
      (List.range 64).flatMap fun l => le 4 (packCodes 2 (((codes.drop (16 * l)).take 16).map (· % 4)))
    else []
  if spars == 1 then
    let bits := (List.range 64).flatMap fun l =>
      let row := ((codes.drop (gc * l)).take gc).map (· % 2)
      if row.all (· == 0) then 1 :: row.drop 1 else row
    let kept := (bits.sum) * (4 * fmtBits f)
    padTo 4096 (data.take kept) ++
      padTo 256 ((scales.zip bits).map fun x => if x.2 = 1 then x.1 else 0) ++ padTo 256 (le 32 (packCodes 1 bits))
  else if spars == 0 then padTo 4096 data ++ padTo 512 scales
  else padTo 4096 data ++ padTo 128 scales ++ padTo 384 meta_

/-- Bytes drawn for one content block: data, fine scales, codes. -/
def contentDraw (f spars : Nat) : Nat :=
  dataBytes f spars + 64 * laneGroupCount f spars +
    (if spars == 1 then 64 * laneGroupCount f 1 else if spars == 0 then 0 else 1024)

/-- Content blocks of one operand from the generator; block indices count on from `ix`. -/
def contentBlocks : Nat → Nat → Nat → Nat → Nat → BitVec 128 → BitVec 128 × List Block
  | 0, _, _, _, _, s => (s, [])
  | n + 1, f, sp, handle, ix, s =>
    let d := drawBytes ((contentDraw f sp + 7) / 8) s []
    let t : Tag := { handle := handle, index := ix, fmt := f, spars := sp }
    let p := contentPayload f sp d.2
    let r := contentBlocks n f sp handle (ix + 1) d.1
    (r.1, { payload := p, tag := { t with crc := sealOf p t } } :: r.2)

/-- A blocks, then B blocks, of one recipe; the generator's state after them. -/
def recipeContent (n : Nat) (s : BitVec 128) : BitVec 128 × List Block × List Block :=
  let r := recipeOf n
  let a := contentBlocks r.blocksA r.fmtA r.sparsA (0xFFFF00 + n) 0 s
  let b := contentBlocks r.blocksB r.fmtB r.sparsB (0xFFFF00 + n) r.blocksA a.1
  (b.1, a.2, b.2)

/-- The blocks of a recipe of a batch: content follows from sector, epoch and recipe alone (R209). -/
def batchContent (sector : Nat) (epoch : Dword) (n : Nat) : List Block × List Block :=
  let g := (List.range n).foldl (fun g k => (recipeContent k g).1) (contentSeed sector epoch)
  (recipeContent n g).2

/-! ## Recomputing one element (R190, R198) -/

/-- X of R117 as an integer times a power of two, none when a scale is not finite. -/
def exactX (d : ArithDesc) (w acc : Int) : Option (Int × Int) :=
  (scaleProduct d).map fun c => (acc * c.1, w + c.2)

/-- The element that R119 to R121 give for accumulator `acc` in the stored fine scale `e`, and the one that the other
rounding neighbour would give. -/
def convertRef (d : ArithDesc) (w acc e : Int) (r : Nat) : Int × Int :=
  match exactX d w acc with
  | none => (0, 0)
  | some (m, q) =>
    let sp := if d.outFormat = 6 then f32Spacing m.natAbs q else e
    let n := roundQ d.round r m (q - sp)
    let fl := roundQ 1 (2 ^ 32) m (q - sp)
    let o := if n = fl then fl + 1 else fl
    if d.outFormat = 6 then
      (((packF32 (m < 0) n.natAbs sp).1 : Nat), ((packF32 (m < 0) o.natAbs sp).1 : Nat))
    else ((clampInt d.outFormat (m < 0) n).1, (clampInt d.outFormat (m < 0) o).1)

/-- Classification of one repeated element (R198): `verdict` is the tile's residue verdict, `reason` of R192. A failing test 1 or 2 of an
operand block prevails over a failing test 3 or 4 of another, whatever their order (log entry 142). -/
def classify (h : RepeatHeader) (l : LaneData) (verdict reason r : Nat) : Nat × Int :=
  if l.outTest = 1 || l.outTest = 2 then (3, 0)
  else if l.outTest ≥ 3 then (8, 0)
  else if l.storageFault then (3, 0)
  else if !l.operandsOk then (7, 0)
  else
    let acc := (accumulate h.window (l.a.take (h.desc.kLen / 32)) (l.b.take (h.desc.kLen / 32))).1
    let ref := convertRef h.desc h.window acc l.storedE r
    if l.stored != ref.1 then
      if reason = 6 then (1, ref.1)
      else if verdict = 0 && h.desc.round = 1 && l.stored == ref.2 then (5, ref.1)
      else if verdict = 0 then (6, ref.1)
      else (1, ref.1)
    else if reason = 6 then (2, ref.1)
    else if verdict = 0 || verdict = 1 || verdict = 8 then (0, ref.1)
    else (4, ref.1)

/-- Outcome of a repeat of several elements (R199): `codes` per element, `whole` when it covered every intersection. -/
def repeatOutcome (reason : Nat) (codes : List Nat) (whole : Bool) : Nat :=
  match codes.find? fun c => c = 3 || c = 7 || c = 8 with
  | some c => c
  | none =>
    if codes.contains 1 then 1
    else if reason = 3 then
      if codes.all (· == 4) && whole then 4 else 9
    else codes.headD 7

/-- Where an output element lies by the compiled layout (R118), else in the natural order (log entry 40): its block, lane and
position. -/
def outPlace (layout : List (Nat × Nat × Nat)) (d : ArithDesc) (i j : Nat) : Nat × Nat × Nat :=
  let pos := if d.outAxis = 0 then j else i
  let run := if d.outFormat = 6 then 16 else 32
  match layout[outGroup d.outAxis i j * (32 / run) + pos % 32 / run]? with
  | some x => (x.1, x.2.1, x.2.2 + pos % run)
  | none => (pos / laneLen d.outFormat 0, if d.outAxis = 0 then i else j, pos % laneLen d.outFormat 0)

/-- The stored element at a place of an output block, and its group's fine scale. -/
def storedElem (f : Nat) (pl : Nat × Nat × Nat) (b : Block) : Int × Int :=
  if f = 6 then ((field b.payload (64 * pl.2.1 + 4 * pl.2.2) 4 : Nat), 0)
  else (elemAt f b.payload (64 * pl.2.1) pl.2.2, fineScale f 0 b.payload pl.2.1 (pl.2.2 / 32))

/-- An element of a recipe's output as the engine computes it from the batch, in the stored fine scale (R211). -/
def recipeElement (sector : Nat) (epoch : Dword) (n i j : Nat) (e : Int) : Int :=
  let c := batchContent sector epoch n
  let d := recipeDesc n
  let lanes (bs : List Block) : List (List Group) := (List.range 64).map (laneGroups bs)
  let w := windowOf (lanes c.1) (lanes c.2) (d.kLen / 32)
  let acc := (accumulate w ((laneGroups c.1 i).take (d.kLen / 32)) ((laneGroups c.2 j).take (d.kLen / 32))).1
  (convertRef d w acc e (elementRandom Config.contentTk Config.contentSk d.seq i j)).1

/-! ## Replays at the engine (R202, R203) -/

/-- res(acc) and the written value of a replay group: the element alone, all others zero. -/
def replayValue (h : RepeatHeader) (l : LaneData) (tk sk : Dword) : Nat × Int :=
  let d := h.desc
  let acc := (accumulate h.window (l.a.take (d.kLen / 32)) (l.b.take (d.kLen / 32))).1
  let e := match exactX d h.window acc with
    | none => -128
    | some (m, q) => if fmtUnsigned d.outFormat && m < 0 then -128 else groupScale (fmtH d.outFormat) m.natAbs q
  (res acc, (convertRef d h.window acc e (elementRandom tk sk d.seq l.locI l.locJ)).1)

/-- What a run reproduces: a compute fault, a checker fault. -/
def reproduces (v : Nat × Int) (r : ReplayReport) : Bool × Bool :=
  (r.rowAct != v.1 || r.colAct != v.1 || r.written != v.2, r.rowExp != v.1 || r.colExp != v.1)

/-- Blocks of one operand of the replay product: the recorded lane, its partner of zero elements with the group maxima, and zero
lanes with fine scale -128. `ix` is the index of the first block; their tensor handle is the model's (log entry 145). -/
def replayBlocks (ix lane : Nat) (raw : List LaneBytes) (maxs : List Int) : List Block :=
  (List.range raw.length).map fun k =>
    let x := raw.getD k {}
    let g := laneGroupCount x.fmt x.spars
    let lanes := (List.range 64).map fun n =>
      if n = lane then x
      else if n = lane ^^^ 1 then zeroLane x.fmt x.spars (((maxs.drop (g * k)).take g))
      else zeroLane x.fmt x.spars (List.replicate g (-128))
    let t : Tag := { handle := 0xFFFF00, index := ix + k, fmt := x.fmt, spars := x.spars }
    let p := lanesPayload x.fmt x.spars lanes
    { payload := p, tag := { t with crc := sealOf p t } }

end Sys2Proof.Machine
end

