-- ==== Sys2Proof/Machine/Fp.lean ====
section
/-!
DEFINITION. IEEE 754 arithmetic on bit patterns, round to nearest even, for binary32 (R160) and binary64 (R184, R357):
values are natural numbers that hold the pattern.
-/
namespace Sys2Proof.Machine

/-- A binary interchange format: exponent bits and fraction bits. -/
structure FpFmt where
  e : Nat := 8
  m : Nat := 23
  deriving DecidableEq, Repr

def f32 : FpFmt := { e := 8, m := 23 }
def f64 : FpFmt := { e := 11, m := 52 }



def FpFmt.sign (f : FpFmt) (x : Nat) : Bool := x / 2 ^ (f.e + f.m) % 2 == 1
def FpFmt.expo (f : FpFmt) (x : Nat) : Nat := x / 2 ^ f.m % 2 ^ f.e
def FpFmt.frac (f : FpFmt) (x : Nat) : Nat := x % 2 ^ f.m
def FpFmt.isNan (f : FpFmt) (x : Nat) : Bool := f.expo x == 2 ^ f.e - 1 && f.frac x != 0
def FpFmt.isInf (f : FpFmt) (x : Nat) : Bool := f.expo x == 2 ^ f.e - 1 && f.frac x == 0
def FpFmt.isZero (f : FpFmt) (x : Nat) : Bool := f.expo x == 0 && f.frac x == 0
def FpFmt.finite (f : FpFmt) (x : Nat) : Bool := f.expo x != 2 ^ f.e - 1
def FpFmt.bias (f : FpFmt) : Nat := 2 ^ (f.e - 1) - 1
/-- The NaN written for every NaN result (R160): quiet, positive, no payload. -/
def FpFmt.nan (f : FpFmt) : Nat := (2 ^ f.e - 1) * 2 ^ f.m + 2 ^ (f.m - 1)
def FpFmt.inf (f : FpFmt) (neg : Bool) : Nat := flag neg * 2 ^ (f.e + f.m) + (2 ^ f.e - 1) * 2 ^ f.m
def FpFmt.zero (f : FpFmt) (neg : Bool) : Nat := flag neg * 2 ^ (f.e + f.m)
/-- Significand of a finite value. -/
def FpFmt.sig (f : FpFmt) (x : Nat) : Nat := if f.expo x = 0 then f.frac x else f.frac x + 2 ^ f.m
/-- Exponent of the significand's unit. -/
def FpFmt.unitExp (f : FpFmt) (x : Nat) : Int := (max (f.expo x) 1 : Nat) - (f.bias + f.m : Nat)
/-- Signed significand. -/
def FpFmt.sigInt (f : FpFmt) (x : Nat) : Int := if f.sign x then -(f.sig x : Int) else f.sig x

/-- `n × 2^q` rounded to nearest even; `neg` is the sign. -/
def FpFmt.pack (f : FpFmt) (neg : Bool) (n : Nat) (q : Int) : Nat :=
  if n = 0 then f.zero neg
  else
    let sp : Int := max ((Nat.log2 n : Int) + q) (1 - (f.bias : Int)) - f.m
    let r : Nat :=
      if sp ≤ q then n * 2 ^ (q - sp).toNat
      else (roundFl 0 0 ((n / 2 ^ (sp - q).toNat : Nat) : Int) (n % 2 ^ (sp - q).toNat) (sp - q).toNat).toNat
    let r' : Nat := if r = 2 ^ (f.m + 1) then 2 ^ f.m else r
    let sp' : Int := if r = 2 ^ (f.m + 1) then sp + 1 else sp
    if r' < 2 ^ f.m then f.zero neg + r'
    else
      let be : Nat := (sp' + f.m + f.bias).toNat
      if 2 ^ f.e - 1 ≤ be then f.inf neg else f.zero neg + be * 2 ^ f.m + (r' - 2 ^ f.m)

def FpFmt.add (f : FpFmt) (a b : Nat) : Nat :=
  if f.isNan a || f.isNan b then f.nan
  else if f.isInf a then (if f.isInf b && f.sign a != f.sign b then f.nan else a)
  else if f.isInf b then b
  else
    let q := min (f.unitExp a) (f.unitExp b)
    let s := f.sigInt a * 2 ^ (f.unitExp a - q).toNat + f.sigInt b * 2 ^ (f.unitExp b - q).toNat
    if s = 0 then f.zero (f.sign a && f.sign b) else f.pack (s < 0) s.natAbs q

/-- The value with its sign changed. -/
def FpFmt.neg (f : FpFmt) (a : Nat) : Nat := if f.sign a then a - 2 ^ (f.e + f.m) else a + 2 ^ (f.e + f.m)
def FpFmt.sub (f : FpFmt) (a b : Nat) : Nat := if f.isNan b then f.nan else f.add a (f.neg b)
def FpFmt.abs (f : FpFmt) (a : Nat) : Nat := if f.sign a then a - 2 ^ (f.e + f.m) else a

def FpFmt.mul (f : FpFmt) (a b : Nat) : Nat :=
  let ng := f.sign a != f.sign b
  if f.isNan a || f.isNan b then f.nan
  else if f.isInf a || f.isInf b then (if f.isZero a || f.isZero b then f.nan else f.inf ng)
  else f.pack ng (f.sig a * f.sig b) (f.unitExp a + f.unitExp b)

def FpFmt.div (f : FpFmt) (a b : Nat) : Nat :=
  let ng := f.sign a != f.sign b
  if f.isNan a || f.isNan b then f.nan
  else if f.isInf a then (if f.isInf b then f.nan else f.inf ng)
  else if f.isInf b then f.zero ng
  else if f.isZero b then (if f.isZero a then f.nan else f.inf ng)
  else
    let k := 2 * f.m + 4
    let n := f.sig a * 2 ^ k
    let d := f.sig b
    f.pack ng (2 * (n / d) + flag (n % d != 0)) (f.unitExp a - f.unitExp b - (k + 1 : Nat))

/-- a < b; false with a NaN (R160). -/
def FpFmt.lt (f : FpFmt) (a b : Nat) : Bool :=
  if f.isNan a || f.isNan b then false
  else
    let q := min (f.unitExp a) (f.unitExp b)
    if f.isInf a then f.sign a && !(f.isInf b && f.sign b)
    else if f.isInf b then !f.sign b
    else decide (f.sigInt a * 2 ^ (f.unitExp a - q).toNat < f.sigInt b * 2 ^ (f.unitExp b - q).toNat)

def FpFmt.eq (f : FpFmt) (a b : Nat) : Bool :=
  !f.isNan a && !f.isNan b && (a == b || (f.isZero a && f.isZero b))
def FpFmt.le (f : FpFmt) (a b : Nat) : Bool := f.lt a b || f.eq a b

/-- Minimum by R160: a NaN is ignored, -0 lies below +0. -/
def FpFmt.fmin (f : FpFmt) (a b : Nat) : Nat :=
  if f.isNan a then (if f.isNan b then f.nan else b)
  else if f.isNan b then a
  else if f.isZero a && f.isZero b then (if f.sign a then a else b)
  else if f.lt b a then b else a

/-- Maximum by R160. -/
def FpFmt.fmax (f : FpFmt) (a b : Nat) : Nat :=
  if f.isNan a then (if f.isNan b then f.nan else b)
  else if f.isNan b then a
  else if f.isZero a && f.isZero b then (if f.sign a then b else a)
  else if f.lt a b then b else a

/-- Change of format. -/
def FpFmt.convert (f g : FpFmt) (a : Nat) : Nat :=
  if f.isNan a then g.nan
  else if f.isInf a then g.inf (f.sign a)
  else g.pack (f.sign a) (f.sig a) (f.unitExp a)

/-- An integer as a value of the format. -/
def FpFmt.ofInt (f : FpFmt) (i : Int) : Nat := f.pack (i < 0) i.natAbs 0

/-- `n × 2^q`, exactly rounded. -/
def FpFmt.ofDyadic (f : FpFmt) (i : Int) (q : Int) : Nat := f.pack (i < 0) i.natAbs q



/-- A binary32 value as binary64. -/
def widen (a : Nat) : Nat := f32.convert f64 a

/-- A binary64 value rounded to binary32. -/
def narrow (a : Nat) : Nat := f64.convert f32 a

end Sys2Proof.Machine
end

