-- ==== Sys2Proof/Machine/Lane.lean ====
section
/-!
DEFINITION. Element programs (R155 to R178): the plausibility set's layout and validity, the lane machine, the lane
tree, the stream summary, the rule table.
-/
namespace Sys2Proof.Machine

/-! ## The set (R161 to R171) -/

/-- A decoded 48-bit instruction (Table 7.2). -/
structure LaneInstr where
  imm : Nat := 0
  opcode : Nat := 0
  src : Nat := 0
  dst : Nat := 0
  comb : Nat := 0
  pred : Bool := false
  deriving DecidableEq, Repr

/-- Six bytes as an instruction (R161). -/
def laneInstr (bs : List Byte) : LaneInstr :=
  let op := field bs 4 2
  { imm := field bs 0 4, opcode := bitsOf 0 8 op, src := bitsOf 8 3 op, dst := bitsOf 11 2 op, comb := bitsOf 13 2 op
    pred := bitOf 15 op }

/-- Compares, CLASS and TESTBITS: opcodes that give a condition. -/
def laneCompares (o : Nat) : Bool := 1 ≤ o && o ≤ 8

/-- Opcodes that read SRC (Table 7.3). -/
def laneUsesSrc (o : Nat) : Bool := laneCompares o || (0x10 ≤ o && o ≤ 0x16)

/-- Opcodes that write DST. -/
def laneUsesDst (o : Nat) : Bool := 0x10 ≤ o && o ≤ 0x17

/-- Opcodes with no immediate. -/
def laneNoImm (o : Nat) : Bool := o == 0 || o == 0x12 || o == 0x13 || o == 0x14 || o == 0x20 || o == 0x21

/-- Declarations. -/
def laneDecl (o : Nat) : Bool := 0x30 ≤ o && o ≤ 0x32

/-- A segment length of R165. -/
def segLenOk (l : Nat) : Bool :=
  [1, 2, 4, 8, 16, 32].contains l || (64 ≤ l && l ≤ 16777216 && l % 64 == 0)

/-- One instruction of a valid program (R162 to R165). -/
def laneInstrOk (i : LaneInstr) : Bool :=
  let o := i.opcode
  (o == 0 || laneCompares o || (0x10 ≤ o && o ≤ 0x17) || o == 0x20 || o == 0x21 || laneDecl o) &&
  (if laneUsesSrc o then i.src ≤ 5 else i.src == 0) &&
  (if laneUsesDst o then i.dst ≤ 2 else i.dst == 0) &&
  (if laneCompares o then i.comb ≤ 2 else i.comb == 0) &&
  (!laneNoImm o || i.imm == 0) &&
  (o != 7 || i.imm < 512) &&
  (!laneDecl o || !i.pred) &&
  (o != 0x30 || segLenOk i.imm)

/-- A program entry (Table 7.7). -/
structure Program where
  operator : Nat := 0
  valid : Bool := false
  length : Nat := 0
  send : Nat := 0
  failBit : Bool := false
  version : Nat := 0
  code : List LaneInstr := []
  deriving DecidableEq, Repr

/-- Instructions of a code area of `n` slots. -/
def laneCode : Nat → List Byte → List LaneInstr
  | 0, _ => []
  | n + 1, bs => laneInstr (bs.take 6) :: laneCode n (bs.drop 6)

/-- The entry of 112 bytes. -/
def programOf (e : List Byte) : Program :=
  { operator := field e 0 2 % 4096, valid := bitOf 15 (field e 0 2), length := field e 2 1, send := field e 3 1 % 4
    failBit := bitOf 2 (field e 3 1), version := field e 4 4, code := laneCode 16 (e.drop 16) }

/-- How many instructions of the program have an opcode. -/
def opCount (p : Program) (o : Nat) : Nat := ((p.code.take p.length).filter fun i => i.opcode == o).length

/-- A valid program entry (R164 and Table 7.7). -/
def programOk (e : List Byte) : Bool :=
  let p := programOf e
  1 ≤ p.length && p.length ≤ 16 && field e 0 2 / 4096 % 8 == 0 && p.send ≤ 2 && field e 3 1 / 8 == 0 &&
  (e.drop 8).take 8 == List.replicate 8 0 &&
  ((p.code.take p.length).all laneInstrOk) && ((p.code.drop p.length).all fun i => i == {}) &&
  opCount p 0x30 ≤ 1 && opCount p 0x31 ≤ 1 && opCount p 0x32 ≤ 1 &&
  ((opCount p 0x31 == 0 && opCount p 0x32 == 0) || opCount p 0x30 == 1) &&
  (opCount p 0x31 == 0 || opCount p 0x32 == 0 ||
    (p.code.take p.length).all fun i => !(i.opcode == 0x31 || i.opcode == 0x32) || !f32.isNan i.imm)

/-- A rule (Table 7.10). -/
structure Rule where
  program : Nat := 0xFE
  field : Nat := 0
  test : Nat := 0
  action : Nat := 0
  cont : Bool := false
  value : Nat := 0
  deriving DecidableEq, Repr

def ruleOf (e : List Byte) : Rule :=
  { program := Machine.field e 0 1, field := Machine.field e 1 1, test := Machine.field e 2 1 % 16
    action := Machine.field e 3 1 % 4, cont := bitOf 2 (Machine.field e 3 1), value := Machine.field e 4 4 }

/-- FIELD names a binary32 value (Table 7.9). -/
def ruleFloat (f : Nat) : Bool := f == 2 || f == 3 || f == 4

/-- A valid rule (R177). -/
def ruleOk (e : List Byte) : Bool :=
  let r := ruleOf e
  if r.program = 0xFE then (e.drop 1).all (· == 0)
  else (r.program ≤ 31 || r.program == 0xFF) && r.field ≤ 5 && Machine.field e 2 1 / 16 == 0 &&
    Machine.field e 3 1 / 8 == 0 && (r.test ≤ 6 || (r.test == 7 && ruleFloat r.field))

/-- Chunks of `w` bytes. -/
def chunks (w : Nat) : Nat → List Byte → List (List Byte)
  | 0, _ => []
  | n + 1, bs => bs.take w :: chunks w n (bs.drop w)

/-- The 32 program entries of a set (Table 7.6). -/
def setPrograms (set : List Byte) : List (List Byte) := chunks 112 32 set

/-- The 64 rules of a set; an empty set has none (R173). -/
def setRules (set : List Byte) : List (List Byte) := if set.isEmpty then [] else chunks 8 64 (set.drop 3584)

/-- A valid set (R171). -/
def setOk (set : List Byte) : Bool :=
  let ps := setPrograms set
  let vs := ps.filter fun e => (programOf e).valid
  set.length == 4096 && vs.all programOk && (ps.all fun e => (programOf e).valid || e.all (· == 0)) &&
  decide ((vs.map fun e => (programOf e).operator).Nodup) && (setRules set).all ruleOk

/-- Entry and number of the program that serves an operator identifier (R155, R171). -/
def programFor (prog : List Byte) (op : Nat) : Option (Nat × List Byte) :=
  if op = 0 then none
  else
    let ps := (List.range 32).zip (setPrograms prog)
    match ps.find? fun x => (programOf x.2).valid && (programOf x.2).operator == op with
    | some x => some x
    | none => ps.find? fun x => (programOf x.2).valid && (programOf x.2).operator == 0xFFF

/-- An empty set: no entry valid, every rule empty (R173). -/
def emptySet : List Byte := List.replicate 3584 0 ++ (List.replicate 64 (le 8 0xFE)).flatten

/-! ## The lane machine (R159 to R163) -/

/-- Class number of a binary32 value (Table 7.4). -/
def f32Class (x : Nat) : Nat :=
  if f32.isNan x then 8
  else if f32.isInf x then (if f32.sign x then 0 else 7)
  else if f32.isZero x then (if f32.sign x then 3 else 4)
  else if f32.expo x = 0 then (if f32.sign x then 2 else 5)
  else if f32.sign x then 1 else 6

/-- Lane state (Table 7.1). -/
structure Lane where
  x : Nat := 0
  p : Nat := 0
  n : Nat := 0
  a : Nat := 0
  b : Nat := 0
  v : Nat := 0
  c : Bool := false
  f : Bool := false
  deriving DecidableEq, Repr

def laneSrc (s : Lane) : Nat → Nat
  | 0 => s.x | 1 => s.a | 2 => s.b | 3 => s.v | 4 => s.p | _ => s.n

def laneDst (s : Lane) (d v : Nat) : Lane :=
  match d with
  | 0 => { s with a := v } | 1 => { s with b := v } | _ => { s with v := v }

def laneComb (s : Lane) (comb : Nat) (r : Bool) : Lane :=
  { s with c := if comb = 1 then s.c && r else if comb = 2 then s.c || r else r }

/-- One instruction (Table 7.3). MOV, ABS and LD are copies, of a NaN too (log entry 125). -/
def laneStep (s : Lane) (i : LaneInstr) : Lane :=
  if i.pred && !s.c then s
  else
    let src := laneSrc s i.src
    match i.opcode with
    | 0x01 => laneComb s i.comb (f32.lt i.imm src)
    | 0x02 => laneComb s i.comb (f32.le i.imm src)
    | 0x03 => laneComb s i.comb (f32.lt src i.imm)
    | 0x04 => laneComb s i.comb (f32.le src i.imm)
    | 0x05 => laneComb s i.comb (f32.eq src i.imm)
    | 0x06 => laneComb s i.comb (!f32.eq src i.imm)
    | 0x07 => laneComb s i.comb (bitOf (f32Class src) i.imm)
    | 0x08 => laneComb s i.comb (src &&& i.imm != 0)
    | 0x10 => laneDst s i.dst (f32.add src i.imm)
    | 0x11 => laneDst s i.dst (f32.mul src i.imm)
    | 0x12 => laneDst s i.dst (f32.sub src s.x)
    | 0x13 => laneDst s i.dst (f32.abs src)
    | 0x14 => laneDst s i.dst src
    | 0x15 => laneDst s i.dst (f32.fmin src i.imm)
    | 0x16 => laneDst s i.dst (f32.fmax src i.imm)
    | 0x17 => laneDst s i.dst i.imm
    | 0x20 => { s with f := s.f || s.c }
    | 0x21 => { s with f := s.f || !s.c }
    | _ => s

/-- The program over one element (R159). -/
def laneRun (p : Program) (x prev before : Nat) : Lane :=
  (p.code.take p.length).foldl laneStep { x := x, p := prev, n := before, a := x, v := x }

/-! ## The lane tree (R166) -/

/-- A node: sum, minimum, maximum, flag count, first failing lane; none is an inactive node. -/
structure Node where
  sum : Nat := 0
  lo : Nat := 0
  hi : Nat := 0
  count : Nat := 0
  first : Option Nat := none
  deriving DecidableEq, Repr

def nodeJoin : Option Node → Option Node → Option Node
  | some l, some r => some
      { sum := f32.add l.sum r.sum, lo := f32.fmin l.lo r.lo, hi := f32.fmax l.hi r.hi, count := l.count + r.count
        first := match l.first with
          | some n => some n
          | none => r.first }
  | some l, none => some l
  | none, r => r

/-- One level up. -/
def treeUp : List (Option Node) → List (Option Node)
  | l :: r :: rest => nodeJoin l r :: treeUp rest
  | [l] => [nodeJoin l none]
  | [] => []

def treeLevel : Nat → List (Option Node) → List (Option Node)
  | 0, ns => ns
  | k + 1, ns => treeLevel k (treeUp ns)

/-! ## Streams (R157, R165, R167) -/

/-- A vector stream in progress at the gate. -/
structure Stream where
  number : Nat := 0
  entry : List Byte := []
  operator : Nat := 0
  lineage : Nat := 0
  seq : Nat := 0
  handle : Nat := 0
  beats : Nat := 0
  prev : List Nat := []
  elements : Nat := 0
  sum : Nat := 0
  lo : Nat := 0
  hi : Nat := 0
  flags : Nat := 0
  first : Nat := 0xFFFFFFFF
  segSum : Nat := 0
  /-- beats already in the open segment of 64 elements or more -/
  segBeats : Nat := 0
  segCount : Nat := 0
  segFlags : Nat := 0
  deriving DecidableEq, Repr

/-- IMM of the declaration with an opcode. -/
def declOf (p : Program) (o : Nat) : Option Nat := ((p.code.take p.length).find? fun i => i.opcode == o).map (·.imm)

/-- A segment sum fails (R165). -/
def segFails (p : Program) (s : Nat) : Bool :=
  f32.isNan s || (match declOf p 0x31 with | some b => !f32.le b s | none => false) ||
    (match declOf p 0x32 with | some b => !f32.le s b | none => false)

/-- Results of one beat, lane by lane, with P and N from the stream (Table 7.1). -/
def beatLanes (p : Program) (st : Stream) (xs : List Nat) : List Lane :=
  (List.range xs.length).map fun l =>
    let x := xs.getD l 0
    let prev := if st.beats = 0 then x else st.prev.getD l x
    let before := if l = 0 then (if st.beats = 0 then x else st.prev.getD 63 x) else xs.getD (l - 1) x
    laneRun p x prev before

/-- The leaf nodes of a beat. -/
def beatLeaves (ls : List Lane) : List (Option Node) :=
  (List.range 64).map fun l => (ls[l]?).map fun r =>
    { sum := r.v, lo := r.v, hi := r.v, count := flag r.f, first := if r.f then some l else none }

/-- Log2 of a short segment length. -/
def segLevel (l : Nat) : Nat := Nat.log2 l

/-- A stream after one beat. -/
def streamBeat (st : Stream) (xs : List Nat) : Stream :=
  let p := programOf st.entry
  let leaves := beatLeaves (beatLanes p st xs)
  match (treeLevel 6 leaves).headD none with
  | none => st
  | some root =>
    let short : List Nat := match declOf p 0x30 with
      | some l => if l ≤ 32 then ((treeLevel (segLevel l) leaves).filterMap id).map (·.sum) else []
      | none => []
    let long : Option (Nat × Nat) := match declOf p 0x30 with
      | some l => if 64 ≤ l then
          some (l / 64, if st.segBeats = 0 then root.sum else f32.add st.segSum root.sum) else none
      | none => none
    let closed : Bool := match long with
      | some (n, _) => st.segBeats + 1 == n
      | none => false
    let segSum := match long with | some (_, v) => v | none => 0
    { st with
      beats := st.beats + 1
      prev := xs
      elements := satAdd 0xFFFFFFFF st.elements xs.length
      sum := if st.beats = 0 then root.sum else f32.add st.sum root.sum
      lo := if st.beats = 0 then root.lo else f32.fmin st.lo root.lo
      hi := if st.beats = 0 then root.hi else f32.fmax st.hi root.hi
      flags := satAdd 0xFFFFFFFF st.flags root.count
      first := if st.first != 0xFFFFFFFF then st.first else match root.first with
        | some l => st.beats * 64 + l
        | none => 0xFFFFFFFF
      segSum := if closed then 0 else segSum
      segBeats := if long.isNone || closed then 0 else st.segBeats + 1
      segCount := satAdd 65535 st.segCount (short.length + flag closed)
      segFlags := satAdd 65535 st.segFlags ((short.filter (segFails p)).length + flag (closed && segFails p segSum)) }

/-- The stream at its end: a segment cut short is checked over its elements (R165). -/
def streamClose (st : Stream) : Stream :=
  if st.segBeats = 0 then st
  else { st with segBeats := 0, segCount := satAdd 65535 st.segCount 1
                 segFlags := satAdd 65535 st.segFlags (flag (segFails (programOf st.entry) st.segSum)) }

/-- A value as the summary carries it: every NaN is 0x7FC0_0000 (R160). -/
def quietNan (x : Nat) : Nat := if f32.isNan x then f32.nan else x

/-- The summary of a closed stream (Table 7.5, R167). -/
def streamSummary (st : Stream) (cut : Bool) : Summary :=
  { streamSeq := st.seq, program := st.number, lineage := st.lineage, operator := st.operator, elements := st.elements
    flagCount := st.flags, segCount := st.segCount, segFlags := st.segFlags, firstIndex := st.first
    sum := BitVec.ofNat 32 st.sum, min := BitVec.ofNat 32 (quietNan st.lo), max := BitVec.ofNat 32 (quietNan st.hi)
    partialCut := cut }

/-- Bytes of a summary (Table 7.5). -/
def summaryBytes (s : Summary) : List Byte :=
  le 4 s.streamSeq ++ le 1 s.program ++ le 1 s.lineage ++ le 2 (s.operator % 4096) ++ le 4 s.elements ++
    le 4 s.flagCount ++ le 2 s.segCount ++ le 2 s.segFlags ++ le 4 s.firstIndex ++ le 4 s.sum.toNat ++
    le 4 s.min.toNat ++ le 4 s.max.toNat ++ le 1 s.merge ++ le 1 (flag s.partialCut) ++ le 2 0

/-- Bytes of a plausibility verdict item (Table 7.8). -/
def plausItemBytes (p : PlausItem) : List Byte :=
  le 4 p.streamSeq ++ le 1 p.program ++ le 1 p.lineage ++ le 2 p.operator ++ le 4 p.flagCount ++ le 2 p.segFlags ++
    le 1 p.status ++ le 1 0

/-! ## Rules (R178) -/

/-- A rule's test holds (Table 7.9). -/
def ruleTest (r : Rule) (s : Summary) : Bool :=
  if ruleFloat r.field then
    let v := (match r.field with | 2 => s.sum | 3 => s.min | _ => s.max).toNat
    match r.test with
    | 0 => true
    | 1 => f32.lt r.value v
    | 2 => f32.le r.value v
    | 3 => f32.lt v r.value
    | 4 => f32.le v r.value
    | 5 => f32.eq v r.value
    | 6 => !f32.eq v r.value
    | _ => f32.isNan v
  else
    let v := match r.field with | 0 => s.flagCount | 1 => s.segFlags | _ => s.elements
    match r.test with
    | 0 => true
    | 1 => decide (v > r.value)
    | 2 => decide (v ≥ r.value)
    | 3 => decide (v < r.value)
    | 4 => decide (v ≤ r.value)
    | 5 => v == r.value
    | _ => v != r.value

/-- The rule matches the summary. -/
def ruleMatches (r : Rule) (s : Summary) : Bool :=
  r.program != 0xFE && (r.program == 0xFF || r.program == s.program) && ruleTest r s

/-- Rules in table order: the strongest action among the matched rules with the rule that supplied it; none when no
rule matches. -/
def ruleScan : Nat → List Rule → Summary → Option (Nat × Nat) → Option (Nat × Nat)
  | _, [], _, best => best
  | n, r :: rs, s, best =>
    if ruleMatches r s then
      let best' := match best with
        | some (a, i) => if r.action > a then some (r.action, n) else some (a, i)
        | none => some (r.action, n)
      if r.cont then ruleScan (n + 1) rs s best' else best'
    else ruleScan (n + 1) rs s best

/-- Action (0 IGNORE to 3 ESCALATE) and rule of a summary under a set (R178). -/
def ruleAction (set : List Byte) (s : Summary) : Option (Nat × Nat) :=
  ruleScan 0 ((setRules set).map ruleOf) s none

end Sys2Proof.Machine
end

