-- ==== Sys2Proof/Machine/Parts.lean ====
section
/-!
DEFINITION. The parts of Uhlino's state, as plain data: the image in force, site history records, sentinels, hubs,
partitions and what they hold in progress. A default is the value at reset: the manual's, or one that INVENTORY.md
and the assumption log name.
-/
namespace Sys2Proof.Machine

/-! ## The image in force (R394 to R401) -/

/-- Image parameters of POLICY (Table 16.10) with the defaults of their chapters. -/
structure Policy where
  lossWindow : Nat := 64
  lossWarmup : Nat := 32
  /-- binary32 6.0 -/
  lossZ : Nat := 0x40C00000
  /-- binary32 0.001 -/
  lossRelFloor : Nat := 0x3A83126F
  /-- binary32 10^-6 -/
  lossAbsFloor : Nat := 0x358637BD
  lossShiftRun : Nat := 8
  lossLookback : Nat := 16
  sampleDiv : Nat := 4096
  ncSampleDiv : Nat := 64
  replayRuns : Nat := 3
  mirrorRefAge : Nat := 3600
  screenInterval : Nat := 86400
  screenSpan : Nat := 600
  spareGap : Nat := 60
  spareFresh : Nat := 86400
  rotatePerSector : Nat := 2
  deepRepeats : Nat := 4
  /-- 10 °C in 1/16 °C -/
  screenThermalMargin : Int := 160
  eventWindow : Nat := 2592000
  cleanDays : Nat := 1209600
  cleanScreens : Nat := 20
  suspectDeclineSteps : Nat := 2
  lendReserve : Nat := 1
  sparesLowLevel : Nat := 2
  stepDoneWait : Nat := 1000
  freezeLimit : Nat := 60
  memCeLimit : Nat := 1000
  tBlock : Nat := 50
  memWaitLimit : Nat := 10000
  linkWaitLimit : Nat := 12000
  commitWait : Nat := 10000
  replayStepLimit : Nat := 10000
  deriving DecidableEq, Repr

/-- THERMAL (Table 16.11), binary32 patterns; the defaults are those of Tables 15.1, 15.9 and 15.10. -/
structure ThermalImage where
  tjLimit : Nat := 0x42D20000
  stage1 : Nat := 0x40A00000
  stage2 : Nat := 0x40400000
  stage3 : Nat := 0x3F800000
  hyst : Nat := 0x40000000
  releaseHold : Nat := 0x3C23D70A
  pLeak : Nat := 0x3E4CCCCD
  leakDouble : Nat := 0x41C80000
  eArray : Nat := 0x30904F97
  eVec : Nat := 0x2EDBE6FF
  eSram : Nat := 0x2DDBE6FF
  eFlit : Nat := 0x2D83F0FF
  eClock : Nat := 0x2F03F0FF
  cSite : Nat := 0x3B83126F
  cSpread : Nat := 0x42480000
  gLat : Nat := 0x3DCCCCCD
  gVert : Nat := 0x3DF5C28F
  gSink : Nat := 0x40E00000
  tCoolant : Nat := 0x41F00000
  tEdgeDefault : Nat := 0x42700000
  retainMin : Nat := 0x3851B717
  offMin : Nat := 0x3DCCCCCD
  deriving DecidableEq, Repr

/-- The running image, as loaded in bring-up step 2. -/
structure Image where
  fwVersion : Nat := 0
  profile : Nat := 0
  sequence : Nat := 0
  serial : Nat := 0
  digest : List Byte := []
  /-- bit s for sector s -/
  sectors : Nat := 0
  grade : Nat := 0
  dies : Nat := 0
  linkBer : Nat := 0
  memBer : Nat := 0
  /-- region mask of each default partition -/
  plan : List Nat := []
  /-- (SITE, KIND) -/
  defects : List (Nat × Nat) := []
  sramRepair : List SramRepair := []
  /-- (SOURCE, ADDRESS) -/
  memRepair : List (Nat × Nat) := []
  /-- site to factory margin code; unlisted 0xFFFF -/
  marginRef : Sparse Nat := []
  policy : Policy := {}
  thermal : ThermalImage := {}
  plausDefault : List Byte := []
  /-- (CODE, RATE, BURST) -/
  rates : List (Nat × Nat × Nat) := []
  deriving DecidableEq, Repr

/-! ## Health (Table 10.6) -/

/-- A site's history record as the active manager holds it. -/
structure SiteRec where
  state : Nat := 0
  condition : Nat := 0
  permanent : Bool := false
  lost : Bool := false
  bistFail : Bool := false
  deepPending : Bool := false
  refFactory : Bool := false
  logical : Nat := 0xFFFF
  marginRef : Nat := 0x01FF
  marginLast : Nat := 0x01FF
  cleanScreens : Nat := 0
  stateSince : Nat := 0
  lastEvent : Nat := 0
  lastKind : Nat := 0
  declineSteps : Nat := 0
  bistFails : Nat := 0
  lastScreenPass : Nat := 0
  lastFullScreen : Nat := 0
  nCompute : Nat := 0
  nStorage : Nat := 0
  nChecker : Nat := 0
  nUnresolved : Nat := 0
  nScreenFail : Nat := 0
  nLoss : Nat := 0
  nWatchReq : Nat := 0
  nSramCorrected : Nat := 0
  nMovedOff : Nat := 0
  powerCycle : Nat := 0
  writes : Nat := 0
  deriving DecidableEq, Repr

/-- Sensor table entry (Table 15.4) with what the judging rules of R370 need. -/
structure Sensor where
  state : Nat := 0
  since : Nat := 0
  brokenCount : Nat := 0
  /-- last reading, 1/8 °C; none before the first -/
  reading : Option Int := none
  /-- consecutive samples that differ by more than 15 °C -/
  disagree : Nat := 0
  /-- reading and model temperature (1/8 °C, binary64) at which the reading last left its value -/
  stuckAt : Option (Int × Nat) := none
  deriving DecidableEq, Repr

/-! ## Sentinels -/

/-- An entry of the front-to-back queue (R66, R67): what the back will act on or send. -/
structure FrontEntry where
  item : Instr
  /-- a verdict or alarm item, in a reserved entry -/
  reserved : Bool := false
  /-- queue entries it takes: two for a verdict with its detail item -/
  slots : Nat := 1
  merge : Nat := 0
  deriving DecidableEq, Repr

/-- SEN.SHADOW queue entry (Table 14.3). -/
structure Shadow where
  state : Nat := 0
  targetKind : Nat := 0
  target : Nat := 0
  context : Nat := 0
  depth : Nat := 0
  credits : Nat := 0
  headSlot : Nat := 0
  headDesc : List Byte := []
  advances : Nat := 0
  deriving DecidableEq, Repr

/-- What the front saw of a queue at the previous edge tick (R325). -/
structure TickBase where
  seen : Bool := false
  pending : Bool := false
  advances : Nat := 0
  headSlot : Nat := 0
  deriving DecidableEq, Repr

/-- A captured output tile (R148). -/
structure Capture where
  desc : ArithDesc := {}
  window : Int := 0
  maxA : List Int := []
  maxB : List Int := []
  verdict : VerdictItem := {}
  /-- detail item of the verdict, and the element of a redundancy item of KIND 1: what a repeat after a hub failure needs -/
  detail : DetailItem := {}
  twin : Option (Nat × Nat) := none
  outDescs : List Desc := []
  operands : List Desc := []
  /-- how many of the operands are blocks of A -/
  aCount : Nat := 0
  /-- where the output elements lie (R118) -/
  layout : List (Nat × Nat × Nat) := []
  step : Nat := 0
  deriving DecidableEq, Repr

/-- A dump staging slot (R455). -/
structure Staged where
  slot : Nat := 0
  watch : Nat := 0
  seq : Nat := 0
  header : List Byte := []
  block : Block := {}
  /-- tier-2 address of its entry -/
  addr : Nat := 0
  deriving DecidableEq, Repr

/-- A replay product (R202): its instruction, the lanes of A and of B, group by group. -/
structure Product where
  desc : ArithDesc := {}
  a : List (List Group) := []
  b : List (List Group) := []
  /-- the element, and the recorded step key -/
  locI : Nat := 0
  locJ : Nat := 0
  sk : Dword := 0
  deriving DecidableEq, Repr

/-- A sentinel: clocked front and handshake back (R61). -/
structure Sentinel where
  wake : Bool := false
  bistPass : Bool := false
  fenced : Bool := false
  stopped : Bool := false
  inReset : Bool := true
  /-- CAUSE of the tile reset in progress (R351) -/
  resetCause : Nat := 0
  /-- does not answer any more (R24) -/
  silent : Bool := false
  ctrl : Nat := 0
  ctrlFront : Nat := 0
  alarm : Nat := 0
  crossErr : Nat := 0
  dropCount : Nat := 0
  /-- drops not yet reported in a message (R45) -/
  dropUnsent : Nat := 0
  verdict : Nat := 0
  slotHi : Nat := 0
  stopSlot : Nat := 0
  stopHi : Nat := 0
  /-- slot counter held while the core clock is stopped -/
  halted : Option Nat := none
  /-- slot counter as it stood when the core clock last stopped, or was loaded at the end of a tile reset (R62, R341) -/
  slotHeld : Nat := 0
  /-- stop slot loaded into the clock generator -/
  stopAt : Option Nat := none
  releaseDelay : Nat := 0
  mirrorState : Nat := 0
  mirrorStep : Nat := 0
  stage : Nat := 0
  /-- stage changes waiting for their slot: (E, stage) -/
  stagePending : List (Nat × Nat) := []
  freqStep : Nat := 0
  fq : List FrontEntry := []
  /-- alarm and step items whose level stands at the front until a reserved entry is free (R66, R68) -/
  fwait : List Instr := []
  evCount : Sparse Nat := []
  evTaken : Sparse Nat := []
  evLevel : Sparse Bool := []
  evFirst : Sparse (List Byte) := []
  /-- the event last delivered of each code: merge count and detail of the first (R71) -/
  evDelivered : Sparse (Nat × List Byte) := []
  counters : Sparse Nat := []
  obs : Sparse Nat := []
  obsFront : Sparse Nat := []
  traceState : Nat := 0
  traceNext : Nat := 0
  traceWrapped : Bool := false
  traceRecs : Sparse (List Byte) := []
  traceTrig : Option Nat := none
  traceFired : Bool := false
  tracePost : Nat := 0
  /-- the next record written carries FLAGS[0]: a trigger of kind 3 or 5 has fired -/
  traceLocal : Bool := false
  traceRemote : Bool := false
  /-- records pending in the writer at a slot (R441) -/
  tracePend : Nat := 0
  tracePendAt : Nat := 0
  staging : List Staged := []
  shadow : Sparse Shadow := []
  ticks : Sparse TickBase := []
  /-- 0 idle, 1 requested, 2 acknowledged, 3 lowered -/
  wakeState : Nat := 0
  wakeWaiting : List Instr := []
  /-- register settings wait to cross to a front that is stopped (R72, R79) -/
  settle : Bool := false
  /-- queue entries that wait to leave a front that is stopped (R75) -/
  drains : Nat := 0
  captures : List Capture := []
  /-- SEAL_MISMATCH details whose stored block is to be read again (R98), with the site that holds it -/
  rereads : List (SealInfo × Nat) := []
  ledger : List LedgerEntry := []
  /-- lineages that have sent a plausibility verdict item in the step (R176) -/
  plausSent : List Nat := []
  /-- a TRACE_CONFIGURE waits for the boundary (R442, R466) -/
  traceNew : Bool := false
  /-- SEN.OBS words that TRACE_CONFIGURE and COUNTER_CONFIGURE have written and that wait for the boundary (R466, R505) -/
  newWords : List Nat := []
  progActive : List Byte := []
  progPending : List Byte := []
  stream : Option Stream := none
  /-- the stream in progress is unchecked: it had no program, or the gate was off, at its first beat (R174, R182) -/
  streamFree : Bool := false
  tk : Dword := 0
  /-- SK of the step, at the conversion unit (R124) -/
  sk : Dword := 0
  /-- status word of the vector engine's latest converted block (R126) -/
  vecStatus : Word := 0
  /-- a seal check of the run's content has failed (R226) -/
  runSeals : Bool := false
  /-- duty as a heater, in sixteenths of the tile cycles (R224) -/
  duty : Nat := 0
  sampleCount : Nat := 0
  marks : List Nat := []
  outputs : Nat := 0
  served : Nat := 0
  shared : Bool := false
  overrun : Bool := false
  stepLast : Bool := false
  test : Memory := []
  /-- run in progress: point, recipe, epoch (R224) -/
  run : Option (Nat × Nat × Dword) := none
  /-- replay product in the test area (R202) -/
  product : Option Product := none
  /-- an uncorrectable SRAM word was met in the run's content (R311) -/
  runFailed : Bool := false
  /-- blocks of its resident and mirror regions that a row has shown, by index (R290, R293; log entry 137) -/
  resident : Sparse Block := []
  mirrorBlocks : Sparse Block := []
  /-- blocks of which a word could not be corrected: path, HANDLE, BLOCK_INDEX (R311), until they are read: 0 engine, 2 dump port -/
  wordBad : List (Nat × Nat × Nat) := []
  heater : Bool := false
  /-- flits sunk by the router of a fenced partition, and error completions it answered (R343) -/
  sunk : Nat := 0
  errored : Nat := 0
  /-- engage slot of the late stage message and the slot of its arrival (R367) -/
  late : Nat × Nat := (0, 0)
  /-- tag last written at the seal insertion port (R93) -/
  lastTag : Tag := {}
  /-- writes of the latest produced block through that port, in order: offset in the tag, bytes -/
  inserted : List (Nat × List Byte) := []
  /-- POISON and TAINT that an output tile or stream of the step has consumed, by 2·seq + engine (Table 4.2, R91) -/
  inMarks : Sparse (Bool × Bool) := []
  deriving DecidableEq, Repr

/-! ## Hubs -/

/-- The first two words of a Midway message (Table 2.3). -/
structure Header where
  cls : Nat := 0
  /-- payload length in words -/
  len : Nat := 0
  flags : Nat := 0
  source : Nat := 0
  dest : Nat := 0
  tag : Nat := 0
  opcode : Nat := 0
  deriving DecidableEq, Repr

/-- A message held in a hub buffer, or waiting on a link for one (R43, R44). -/
structure Held where
  index : Nat := 0
  channel : Nat := 0
  cls : Nat := 0
  /-- grants to other messages while waiting (R39) -/
  waited : Nat := 0
  /-- its first two words (R36) -/
  header : Header := {}
  msg : Instr
  deriving DecidableEq, Repr

/-- A queued repeat (R194). -/
structure RepeatReq where
  site : Nat := 0
  seq : Nat := 0
  step : Nat := 0
  reason : Nat := 0
  elems : List (Nat × Nat) := []
  /-- intersections beyond those listed -/
  whole : Bool := true
  verdict : VerdictItem := {}
  /-- logical tile that computed it -/
  tile : Nat := 0xFFFF
  deriving DecidableEq, Repr

/-- The repeat in progress: its header and the lane data that have arrived. -/
structure RepeatJob where
  req : RepeatReq := {}
  header : Option RepeatHeader := none
  lanes : List LaneData := []
  blocks : Nat := 0
  deriving DecidableEq, Repr

/-- A replay record (R201). -/
structure ReplayRec where
  site : Nat := 0
  header : RepeatHeader := {}
  lane : LaneData := {}
  outcome : Nat := 0
  step : Nat := 0
  /-- TK and SK of the repeated tile (R202) -/
  tk : Dword := 0
  sk : Dword := 0
  runs : Nat := 0
  reproCompute : Bool := false
  reproChecker : Bool := false
  deriving DecidableEq, Repr

/-- Digest entries a hub holds for one step of a partition (R478): the run in hub SRAM and the runs written. -/
structure HubDigest where
  part : Nat := 0
  step : Nat := 0
  runIn : List Tag := []
  runOut : List Tag := []
  ins : List Tag := []
  outs : List Tag := []
  lost : Nat := 0
  /-- entries that wait in the buffer of each point (R479) -/
  buffered : Sparse Nat := []
  deriving DecidableEq, Repr

/-- What a hub collects for a partition in the open step (R274). -/
structure Collect where
  step : Nat := 0
  failed : Nat := 0
  /-- failed by items that arrived after the contribution (Table 11.10) -/
  carry : Nat := 0
  /-- verdict items received: site to count -/
  items : Sparse Nat := []
  /-- sites whose step-done item has arrived -/
  done : List Nat := []
  /-- sites read because theirs is missing -/
  reading : List Nat := []
  sent : Bool := false
  sentAt : Dword := 0
  ledger : List LedgerEntry := []
  /-- ARITH_FLAGS counts of R126 and its first tile -/
  sat : Nat := 0
  under : Nat := 0
  invalid : Nat := 0
  dropped : Nat := 0
  flagTile : Option Nat := none
  /-- not-checkable tiles and the first (R135) -/
  notCheckable : Nat := 0
  ncTile : Option Nat := none
  skCur : Dword := 0
  skPrev : Dword := 0
  stepPrev : Nat := 0
  /-- logical tiles sampled at the raised rate for the rest of the step (R134) -/
  raised : List Nat := []
  /-- (site, LINEAGE) already recorded as LINEAGE_INVALID in the step -/
  lineageSeen : List (Nat × Nat) := []
  /-- sites with a Watch request in the step (R179) -/
  watchSeen : List Nat := []
  /-- sites whose CONDITION a Watch request of the step has raised (R254) -/
  watchRose : List Nat := []
  adopted : Bool := false
  loss : Bool := false
  deriving DecidableEq, Repr

/-- What a site has reported of a recipe (R226): whether its checks passed, whether it agrees with the engine, its
signature. -/
structure RunRow where
  site : Nat := 0
  recipe : Nat := 0
  passed : Bool := false
  agrees : Bool := false
  sig : Dword := 0
  /-- status word the run reported (R207) -/
  status : Word := 0
  deriving DecidableEq, Repr

/-- The pass of a hub (R234): the sites whose screens it serves, and the run in progress. -/
structure Pass where
  sites : List Nat := []
  /-- 0 no run, 1 waits for the regulator, 2 heats, 3 computes -/
  stage : Nat := 0
  point : Nat := 0
  /-- parity of the sites under test at a temperature point (R224) -/
  phase : Nat := 0
  recipe : Nat := 0
  epoch : Dword := 0
  /-- sector of the sites under test: its content, its regulator -/
  sector : Nat := 0
  testing : List Nat := []
  rows : List RunRow := []
  /-- the run is a replay run -/
  replay : Bool := false
  deriving DecidableEq, Repr

/-- A screen in progress of one site (R221 to R241). -/
structure Screen where
  kind : Nat := 0
  epoch : Dword := 0
  /-- next point to measure: 0 N, 1-4 F, 5-7 V, 8-9 T; 10 when complete -/
  point : Nat := 0
  nDone : Bool := false
  mF : Nat := 7
  mV : Nat := 7
  mT : Nat := 7
  failRecipes : Nat := 0
  runs : Nat := 0
  /-- reference signature of each recipe from the N run -/
  refs : List (Nat × Dword) := []
  /-- repeats of a deep screen that follow, the smallest margin code so far, and whether a replay reproduced in it -/
  repeats : Nat := 0
  low : Nat := 0x01FF
  repro : Bool := false
  /-- UNIT_SCREEN of a spare or quarantined site: it changes no state (R500) -/
  inert : Bool := false
  /-- a voltage point has been passed over: not every point is measured (R222, R239, R241) -/
  gap : Bool := false
  /-- no heaters were available at the start of a spare's screen: temperature points wait for a window (R237) -/
  noHeat : Bool := false
  /-- modelled temperature at the start of the nominal run, binary64 -/
  base : Nat := 0
  deriving DecidableEq, Repr

/-- The thermal model of a sector (R355 to R371), binary64 patterns. -/
structure Thermal where
  /-- 168 node temperatures; empty before the model starts -/
  t : List Nat := []
  spr : Nat := 0
  p : List Nat := []
  /-- counter values at the previous sample: site to five counts -/
  last : Sparse (List Nat) := []
  lastAt : Dword := 0
  b : Nat := 0
  clamped : Bool := false
  tg : Nat := 0
  request : Nat := 0
  /-- Tg has stayed below the release threshold since the hold began -/
  releasing : Bool := false
  /-- model temperatures as last published; a neighbour uses those of the edge rows and columns -/
  edge : List Nat := []
  /-- a trip of the sector is latched -/
  tripped : Bool := false
  deriving DecidableEq, Repr

/-- A sector hub and what it keeps for its sector. -/
structure Hub where
  failed : Bool := false
  /-- sector whose hub serves this sector after adoption -/
  adoptedBy : Option Nat := none
  /-- sector failure (R25) -/
  lostSector : Bool := false
  lastWatch : Dword := 0
  discards : Nat := 0
  discardNew : Nat := 0
  /-- RAS time of the last MIDWAY_DISCARD -/
  discardAt : Option Dword := none
  /-- sentinel alarm levels by site, hub levels under 0x4000 -/
  alarms : Sparse Nat := []
  /-- TAG of the hub's next request (R36) -/
  tag : Nat := 0
  pool : List Held := []
  linkWait : List Held := []
  lastGrant : Sparse Nat := []
  rasBase : Dword := 0
  rasAt : Nat := 0
  rasArmed : Option Dword := none
  /-- accepts control-class and access-class messages from manager B only (R532) -/
  onlyB : Bool := false
  counters : Sparse Nat := []
  veCtrl : Nat := 0
  veSampleDiv : Nat := 4096
  veNcDiv : Nat := 64
  contentSeed : BitVec 128 := 0
  sampleSeed : BitVec 128 := 0
  contentGen : BitVec 128 := 1
  sampleGen : BitVec 128 := 1
  /-- TK of the logical tiles that the hub serves (R124) -/
  tks : Sparse Dword := []
  epoch : Dword := 0
  veSkipped : Nat := 0
  veCounts : Sparse Nat := []
  repeats : List RepeatReq := []
  job : Option RepeatJob := none
  replays : List ReplayRec := []
  edges : List (Nat × Edge × Dword) := []
  digests : List HubDigest := []
  /-- tag last sealed at a bound entry point, and what a bound exit point last did (Table 4.3): 1 written, 2 written
  marked uncorrectable, 3 sent, 4 not sent -/
  entryTag : Tag := {}
  lastExit : Nat := 0
  collect : Collect := {}
  /-- steps and RAS times of the contributions sent (Table 11.11, DELAY) -/
  sentLog : List (Nat × Dword) := []
  set : List Byte := []
  setPending : List Byte := []
  ceCount : Sparse Nat := []
  ceSeen : List Nat := []
  /-- completions discarded in the second, by 4·partition + context, and by point of the hub (R318) -/
  stale : Sparse Nat := []
  stalePoint : Sparse Nat := []
  /-- requests of TORN contexts that ended in an error completion (R316) -/
  refused : Nat := 0
  vmStep : Nat := 0
  vmWant : Nat := 0
  vmReq : Bool := false
  vmAlive : Bool := false
  watchSeq : Sparse Nat := []
  watchDrop : Sparse Nat := []
  /-- 0 active or idle, 2 retained, 3 off -/
  solver : Nat := 0
  sequencer : Nat := 0
  engine : Nat := 0
  /-- units whose wake is in progress, and messages waiting for it -/
  waking : List Nat := []
  wakeWaiting : List Instr := []
  pass : Option Pass := none
  thermal : Thermal := {}
  deriving DecidableEq, Repr

/-! ## Partitions -/

/-- A peer entry (Table 11.8) and its state in the open step. -/
structure Peer where
  moduleId : Nat := 0
  timeout : Nat := 0
  ports : Nat := 0
  /-- ports that have accepted their trailer -/
  got : Nat := 0
  /-- 0 open, 1 accepted, 2 rejected, 3 timed out -/
  verdict : Nat := 0
  kept : Nat := 0
  /-- removed from the job because a port that it names is down (R389) -/
  gone : Bool := false
  deriving DecidableEq, Repr

/-- The job descriptors of JOB_ATTACH (Table 20.14). -/
structure Job where
  redundant : Bool := false
  detour : Nat := 0
  contexts : Nat := 1
  windowPeriod : Nat := 0
  windowOffset : Nat := 0
  windowLength : Nat := 0
  testArea : Nat := 0
  residentSize : Nat := 0
  shift : Nat := 0
  forced : Bool := false
  tier2Interval : Nat := 0
  residentAddr : Nat := 0
  mirrorAddr : Nat := 0
  tier2Base : Nat := 0
  programDigest : List Byte := []
  seed : Dword := 0
  firstStep : Nat := 0
  digestBase : Nat := 0
  digestSize : Nat := 0
  jobId : Dword := 0
  moduleId : Nat := 0
  lineages : Nat := 1
  minKeep : Nat := 1
  trailerHandle : Nat := 0
  deriving DecidableEq, Repr

/-- Step verdict record (Table 11.7). -/
structure StepRec where
  step : Nat := 0
  lineages : Nat := 0
  status : Nat := 0
  flags : Nat := 0
  kept : Nat := 0
  late : Nat := 0
  tokenDelay : Nat := 0
  tokenTime : Dword := 0
  deriving DecidableEq, Repr

/-- Step verdict token (Table 11.5, KIND 0), or the peer release when `kind` is 1. -/
structure Token where
  step : Nat := 0
  kind : Nat := 0
  status : Nat := 0
  kept : Nat := 0
  keptCount : Nat := 0
  peersIn : Nat := 0
  peersMask : Nat := 0
  time : Dword := 0
  /-- RAS time of the end of the step (Table 11.7, TOKEN_DELAY) -/
  ended : Dword := 0
  /-- FLAGS and LATE of the step's record so far (Table 11.7) -/
  flags : Nat := 0
  late : Nat := 0
  /-- it has reached the hubs of the partition -/
  arrived : Bool := false
  deriving DecidableEq, Repr

/-- Digest record (Table 19.3). -/
structure DigestRec where
  step : Nat := 0
  status : Nat := 0
  lost : Nat := 0
  nIn : Nat := 0
  nOut : Nat := 0
  digest : List Byte := []
  deriving DecidableEq, Repr

/-- Digest of one step at the active manager (R478): the hubs whose streams are still to come, and the merged entries. -/
structure DigestSet where
  step : Nat := 0
  /-- program digest of the job -/
  program : List Byte := []
  waiting : List Nat := []
  ins : List Tag := []
  outs : List Tag := []
  lost : Nat := 0
  deriving DecidableEq, Repr

/-- A tier-2 slot header (Table 12.3), with regions still to complete. -/
structure Tier2Slot where
  step : Nat := 0
  state : Nat := 0
  tiles : Nat := 0
  deriving DecidableEq, Repr

/-- A swap-out from decision to switch (Table 10.5). -/
structure Swap where
  tile : Nat := 0
  old : Nat := 0
  new : Option Nat := none
  /-- 0 policy, 1 loss, 2 UNIT_QUARANTINE, 3 SPARE_TAKEOVER -/
  cause : Nat := 0
  decided : Nat := 0
  /-- SEQUENCE numbers of the commands that wait for it -/
  seqs : List Nat := []
  /-- banks, routes and TK are written: waits for the boundary -/
  ready : Bool := false
  /-- the fill runs (R299): source of each stream, and restarts -/
  chosen : Bool := false
  filling : Bool := false
  filled : Bool := false
  resSource : Nat := 0
  mirSource : Nat := 0
  /-- a tier-2 read of the resident fill has met an uncorrectable word (R302) -/
  spoilt : Bool := false
  resRetries : Nat := 0
  mirRetries : Nat := 0
  flags : Nat := 0
  deriving DecidableEq, Repr

/-- A resident replay that the control core owes (R302, R527). -/
structure CoreReplay where
  tile : Nat := 0
  fromStep : Nat := 0
  toStep : Nat := 0
  tag : Nat := 0
  deriving DecidableEq, Repr

/-- A fence in progress (R337 to R340). -/
structure Fence where
  cause : Nat := 0
  merged : Nat := 0
  began : Dword := 0
  waiting : List Nat := []
  dirty : Bool := false
  commitWait : Bool := false
  waitBegan : Dword := 0
  /-- a reset follows -/
  reset : Bool := false
  resetCause : Nat := 0
  /-- commands that wait for the fence: SEQUENCE numbers -/
  seqs : List Nat := []
  deriving DecidableEq, Repr

/-- A partition reset in progress (R344, R345). -/
structure Reset where
  cause : Nat := 0
  began : Dword := 0
  waiting : List Nat := []
  /-- the memory of the partition is ready again (Table 14.10, step 6) -/
  memory : Bool := false
  keepJob : Bool := false
  seqs : List Nat := []
  deriving DecidableEq, Repr

/-- Hang recovery (R346 to R349). -/
structure Hang where
  cause : Nat := 0
  suspects : Nat := 0
  refused : Nat := 0
  /-- contexts of the job that were open when the hang was declared -/
  contexts : Nat := 0
  /-- a second hang of the step (R349) -/
  repeated : Bool := false
  /-- contexts still to replay -/
  todo : List Nat := []
  current : Option Nat := none
  /-- the step that the recovery restarts, and the one that was open when the hang was declared (R347, R349) -/
  step : Nat := 0
  declaredIn : Nat := 0
  began : Dword := 0
  replayBegan : Dword := 0
  /-- sites that have reached the end of step in the replay, and poison-consumed alarms counted (R348) -/
  ended : List Nat := []
  poison : Nat := 0
  deriving DecidableEq, Repr

/-- A hang snapshot (Tables 14.5 and 14.6). -/
structure Snapshot where
  time : Dword := 0
  step : Nat := 0
  cause : Nat := 0
  path : List Edge := []
  /-- the other edges with their hubs, in hub order (R333) -/
  edges : List (Nat × Edge) := []
  sites : List SnapSite := []
  absent : Nat := 0
  /-- sites still to answer; empty when complete -/
  waiting : List Nat := []
  done : Bool := false
  duration : Nat := 0
  cutByReset : Bool := false
  seqs : List Nat := []
  deriving DecidableEq, Repr

/-- A watch of a partition (R453, R454). -/
structure Watch where
  armed : Bool := false
  entry : Dword := 0
  base : Nat := 0
  size : Nat := 0
  armId : Nat := 0
  dropped : Nat := 0
  deriving DecidableEq, Repr

/-- A plausibility load in progress (R172). -/
structure PlausLoad where
  set : List Byte := []
  /-- sectors that have not confirmed -/
  waiting : List Nat := []
  /-- SEQUENCE of the command, 0 for the default set -/
  seq : Nat := 0
  /-- a PLAUSIBILITY_LOAD that was pending at JOB_ATTACH: it follows the default set (R173) -/
  after : Option (List Byte × Nat) := none
  deriving DecidableEq, Repr

/-- The loss sentinel of a partition (R183 to R186), binary32 losses oldest first. -/
structure LossWin where
  losses : List Nat := []
  lastStep : Option Nat := none
  spikes : List Nat := []
  /-- (site, step, reason bit) of suspicions -/
  reasons : List (Nat × Nat × Nat) := []
  deriving DecidableEq, Repr

/-- A contributor block at an input of the reduction tree (Table 4.2, R91). -/
structure TreeIn where
  step : Nat := 0
  lineage : Nat := 0
  tag : Tag := {}
  deriving DecidableEq, Repr

/-- A partition (R335). -/
structure Partition where
  regions : Nat := 0
  state : Nat := 0
  degraded : Bool := false
  job : Option Job := none
  peers : List Peer := []
  step : Nat := 0
  /-- step boundary that opened the step has been sent -/
  opened : Bool := false
  stepEnded : Bool := false
  /-- RAS time of the end of step (R270) -/
  endAtRas : Dword := 0
  bank : Nat := 0
  bankSwitch : Bool := false
  setSwitch : Bool := false
  /-- JOB_ATTACH waits for the default plausibility set (R173, R504): its SEQUENCE and response -/
  starting : Option (Nat × List Byte) := none
  /-- contexts OPEN, and CTX_GEN by context -/
  open_ : Nat := 0
  gens : Sparse Nat := []
  refusedCtx : Nat := 0
  /-- contexts that the fence tore down and that a release reopens (R319, R320) -/
  resumeCtx : Nat := 0
  /-- teardowns that still run, the contexts and commands of CONTEXT_TEARDOWN, and whether one ended DIRTY (R316, R317) -/
  tearing : Nat := 0
  tearMask : Nat := 0
  tearSeqs : List Nat := []
  tearDirty : Bool := false
  fence : Option Fence := none
  reset : Option Reset := none
  hang : Option Hang := none
  /-- a hang was declared in this step already (R349) -/
  hangStep : Option Nat := none
  snapshot : Option Snapshot := none
  /-- at the root hub: sectors whose contribution has arrived -/
  contrib : List Nat := []
  rootFailed : Nat := 0
  rootLedger : List LedgerEntry := []
  token : Option Token := none
  release : Option Token := none
  /-- tokens of later steps, oldest first, whose commits wait for that of `token` (R275; log entry 44) -/
  later : List Token := []
  /-- peers accepted before the reduced blocks on a port were formed: the sum of their KEPT_COUNT, and their number (R283) -/
  portPeers : Sparse (Option (Nat × Nat)) := []
  /-- blocks whose writes a teardown has abandoned: the exit points marked their addresses uncorrectable (R317) -/
  abandoned : Nat := 0
  /-- lineages that the tree still adds (R278), and those that failed before the tree began, by step -/
  treeKept : Nat := 0
  treeEarly : Sparse Nat := []
  /-- contributors at the tree's inputs, of the open step and the one before -/
  treeIn : List TreeIn := []
  /-- tag of the reduced block that left the tree last (Table 4.2) -/
  treeTag : Tag := {}
  restarts : Nat := 0
  mismatches : Nat := 0
  exitFailed : Bool := false
  committing : Bool := false
  committed : Bool := false
  /-- final outcome of the reduction: STATUS, KEPT, KEPT_COUNT, and when it was formed -/
  finalKept : Option (Nat × Nat × Nat) := none
  finalAt : Dword := 0
  /-- the tree holds the token, and the peer release -/
  treeHas : Bool := false
  releaseHas : Bool := false
  /-- the token has been issued and the next step has not opened: takeovers run (R270, R299), since this RAS time -/
  boundary : Bool := false
  boundaryAt : Dword := 0
  /-- every takeover is done and the step start waits for the release of a stop (Table 12.6) -/
  held : Bool := false
  /-- trailers of a step whose own token has not been issued (R284) -/
  early : List Trailer := []
  /-- tagged blocks received: step, port, count, whether one failed its entry tests (R284) -/
  linkSeen : List (Nat × Nat × Nat × Bool) := []
  failNext : Bool := false
  records : List StepRec := []
  digests : List DigestRec := []
  digestBusy : Option DigestSet := none
  /-- steps, with the job's program digest, whose collection waits for the digest in progress (R479) -/
  digestNext : List (Nat × List Byte) := []
  /-- trailers discarded and counted (R285) -/
  trailersDropped : Nat := 0
  trailers : List (Nat × Block) := []
  /-- the divisor of the commit (R277) -/
  divisor : Nat := 0
  /-- owner tiles whose copy of the step is not complete (R295) -/
  copying : List Nat := []
  tier2 : List Tier2Slot := [{}, {}]
  tier2Busy : Option Nat := none
  tier2Left : List Nat := []
  /-- since when the tier-2 copy alone has held the next commit (R296) -/
  tier2Held : Option Dword := none
  swaps : List Swap := []
  replays : List CoreReplay := []
  watches : Sparse Watch := []
  load : Option PlausLoad := none
  loss : LossWin := {}
  /-- slot at which the latest screening window began (R229) -/
  windowAt : Option Nat := none
  breach : Bool := false
  /-- settings that wait for the boundary: SEQUENCE numbers of TRACE_CONFIGURE and COUNTER_CONFIGURE -/
  boundarySeqs : List Nat := []
  flagsRec : Nat := 0
  /-- LATE of the open record (R280) -/
  lateRec : Nat := 0
  /-- poison consumed and still to be recorded (R313): detail, site, further alarms, STEP -/
  poison : Option (List Byte × Nat × Nat × Nat) := none
  killed : Bool := false
  deriving DecidableEq, Repr

end Sys2Proof.Machine
end

