-- ==== Sys2Proof/Machine/State.lean ====
section
/-!
DEFINITION. The state of Uhlino as plain data: everything the manual gives the block, the commands that wait, and the
reset state. INVENTORY.md lists every field with its rule and reset value. Faults and refusals are named at the end.
-/
namespace Sys2Proof.Machine

/-- An always-on island (R379, R529). -/
structure Island where
  cycles : Nat := 0
  ms : Nat := 0
  /-- calendar value at `calAt`, in 2^-24 s (R419) -/
  cal : Nat := 0
  /-- reference ticks at which `cal` was taken -/
  calAt : Nat := 0
  calValid : Bool := false
  /-- the backup supply fell below its minimum since the calendar was set (R379) -/
  vbatLow : Bool := false
  deriving DecidableEq, Repr

/-- A manager complex (R26, R532 to R536). -/
structure Manager where
  running : Bool := false
  standby : Bool := false
  /-- has stopped acting as active manager until a switchover lets it rejoin (R533) -/
  deposed : Bool := false
  mramOk : Bool := true
  /-- its edge die is lost as a whole (R23, Table 20.17) -/
  dieLost : Bool := false
  slot : Nat := 0xFF
  digest : List Byte := []
  sequence : Nat := 0
  lastBeat : Dword := 0
  deriving DecidableEq, Repr

/-- Boot control record (Table 16.5). -/
structure BootCtl where
  confirmed : Nat := 0xFF
  trial : Nat := 0xFF
  trialState : Nat := 0
  confirmedSeq : Nat := 0
  cycles : Nat := 0
  ms : Nat := 0
  writes : Nat := 0
  deriving DecidableEq, Repr

/-- Bring-up in progress (R378 to R391). -/
structure Boot where
  /-- QUARANTINED sites whose deep screens bring-up has started (R265) -/
  deep : List Nat := []
  power : Option PowerUp := none
  step : Nat := 0
  ready : Bool := false
  recovery : Bool := false
  lock : Bool := false
  /-- slots that first-stage boot has still to try, for the die of each manager -/
  tryA : List Nat := []
  tryB : List Nat := []
  /-- IMAGE_DIGEST is with the security block -/
  authA : Bool := false
  authB : Bool := false
  /-- R381 test that failed, by slot (Table 16.14, NO_VALID_IMAGE) -/
  testA : Nat := 0
  testB : Nat := 0
  /-- links and channels in training: KIND × 256 + INDEX -/
  training : List Nat := []
  full : Bool := false
  times : List Nat := []
  /-- events of step 1, recorded in step 2 -/
  notes : List EventMsg := []
  short : List Nat := []
  /-- this run is a wafer reset (R391), and the commands that wait for it -/
  wafer : Bool := false
  seqs : List Nat := []
  /-- RAS time at which a wafer reset began -/
  began : Dword := 0
  /-- settings that the PHY or controller of each link or channel runs with: KIND × 256 + INDEX and the bytes (R402) -/
  phy : Sparse (List Byte) := []
  /-- manager B has restarted on the slot of A's digest (R382) -/
  exchanged : Bool := false
  bootCtl : BootCtl := {}
  deriving DecidableEq, Repr

/-- A saved-settings copy in the flash (Table 16.12). -/
structure Settings where
  state : Nat := 0xFF
  sequence : Nat := 0
  serial : Nat := 0
  /-- KIND × 256 + INDEX of each record -/
  records : List Nat := []
  /-- settings bytes of each record -/
  data : Sparse (List Byte) := []
  deriving DecidableEq, Repr

/-- Ring control (Table 17.8). -/
structure RingCtl where
  first : Nat := 0
  next : Nat := 0
  firstOff : Nat := 0
  nextOff : Nat := 0
  powerFailDrops : Nat := 0
  overwritten : Nat := 0
  writes : Nat := 0
  deriving DecidableEq, Repr

/-- A record in the intake queue or in staging (R422, R428, R434). -/
structure Queued where
  index : Nat := 0
  /-- 0 the standby has not answered, 1 it has confirmed, 2 written unmirrored -/
  mirror : Nat := 0
  r : Rec := {}
  deriving DecidableEq, Repr

/-- Events suppressed in the window (R426). -/
structure Suppressed where
  code : Nat := 0
  firstSource : Nat := 0
  count : Nat := 0
  mergeSum : Nat := 0
  lastSource : Nat := 0
  deriving DecidableEq, Repr

/-- The event recorder (R412 to R436). -/
structure Recorder where
  running : Bool := false
  nextIndex : Nat := 0
  intake : List Queued := []
  staging : List Queued := []
  frozen : Bool := false
  frozenAt : Nat := 0
  stageOverflow : Bool := false
  stageDrops : Nat := 0
  suppressed : Nat := 0
  intakeDrops : Nat := 0
  mirrorDegraded : Bool := false
  skipped : Bool := false
  cursorLo : Nat := 0
  cursorHi : Nat := 0
  winFirst : Nat := 0
  winNext : Nat := 0
  winRecords : Nat := 0
  winBytes : Nat := 0
  window : List Byte := []
  ring : RingCtl := {}
  /-- ring control of the standby's MRAM, and records it has not written -/
  mirrorRing : RingCtl := {}
  /-- the standby's staging copy of a freeze (R434) -/
  mirrorStaging : List Queued := []
  /-- tokens taken from the bucket of each code (R425) -/
  taken : Sparse Nat := []
  sup : List Suppressed := []
  windowStart : Dword := 0
  dropT1 : Nat := 0
  dropT2 : Nat := 0
  dropStaging : Nat := 0
  dropPath : Nat := 0
  dropPower : Nat := 0
  firstDrop : Option Nat := none
  refused : Bool := false
  powerFail : Bool := false
  /-- operating time of the last record accepted (R414, R418) -/
  lastMs : Nat := 0
  waiting : List EventMsg := []
  deriving DecidableEq, Repr

/-- A completion that waits to be posted (R493). -/
structure Completion where
  seq : Nat := 0
  tag : Word := 0
  status : Nat := 0
  bulk : Bool := false
  rsp : List Byte := []
  deriving DecidableEq, Repr

/-- A mailbox channel (Table 20.8). -/
structure Channel where
  reqTag : Word := 0
  reqOp : Word := 0
  reqLen : Word := 0
  args : Sparse Word := []
  ackState : Nat := 0
  ackPending : Bool := false
  refusal : Nat := 0
  ackSeq : Nat := 0
  cplValid : Bool := false
  cplTag : Word := 0
  cplSeq : Nat := 0
  cplStatus : Nat := 0
  cplBulk : Bool := false
  cplLen : Nat := 0
  rsp : List Byte := []
  waiting : List Completion := []
  /-- privilege of the SUBMIT, and of an out-of-band request its port and endpoint and its bulk part, until the acknowledge -/
  subPriv : Priv := {}
  subOob : Option (Nat × Nat) := none
  subBulk : List Byte := []
  deriving DecidableEq, Repr

/-- An accepted command in its buffer (R490 to R493). -/
structure Cmd where
  seq : Nat := 0
  channel : Nat := 0
  tag : Word := 0
  op : Nat := 0
  priv : Priv := {}
  args : List Byte := []
  bulk : List Byte := []
  began : Bool := false
  done : Bool := false
  /-- the completion has been posted -/
  posted : Bool := false
  /-- a function-level reset has cut it off from its channel (R512) -/
  orphan : Bool := false
  /-- port and endpoint of an out-of-band request (R509) -/
  oob : Option (Nat × Nat) := none
  beganAt : Dword := 0
  deriving DecidableEq, Repr

/-- What the THM block shows, as of its last update (R488). -/
structure Thm where
  stage : Nat := 0
  sector : Nat := 0
  trip : Bool := false
  limit : Nat := 0
  hotModel : Nat := 0
  hotSector : Nat := 0
  hotSensor : Nat := 0
  hotSensorNo : Nat := 0
  broken : List Nat := []
  retired : List Nat := []
  engage : Dword := 0
  deriving DecidableEq, Repr

/-- The service window (R484 to R499). -/
structure Window where
  channels : Sparse Channel := []
  cmds : List Cmd := []
  nextSeq : Nat := 1
  bulk : Memory := []
  bulkOwner : Option Nat := none
  bulkPriv : Priv := {}
  bulkLocked : Bool := false
  bulkSeq : Nat := 0
  bulkRelease : Bool := false
  latches : Sparse Nat := []
  altStatus : Nat := 0
  altMask : Nat := 0
  altFatal : Nat := 0
  /-- reference tick + 1 of the last occurrence of each alert (R486) -/
  altAt : Sparse Nat := []
  raises : Nat := 0
  denied : Nat := 0
  cntSelect : Nat := 0
  cntDenied : Bool := false
  cntBad : Bool := false
  cntUnit : Option Nat := none
  cntVals : Sparse Nat := []
  cntTime : Dword := 0
  jtag : Nat := 0
  calSet : Bool := false
  discarded : Nat := 0
  thm : Thm := {}
  /-- value of the last register read (R484), as the window answered it -/
  readData : Word := 0
  deriving DecidableEq, Repr

/-- An out-of-band endpoint with its SMBus port and TAP (R507 to R511, R519, R521). -/
structure Port where
  eid : Nat := 0
  assigned : Bool := false
  discards : Nat := 0
  overlaps : Nat := 0
  pecDiscards : Nat := 0
  cplDiscards : Nat := 0
  /-- completion not yet accepted on the bus: SEQUENCE and attempts made -/
  retry : Option (Nat × Nat) := none
  /-- the port takes part in a bus transaction: a completion is on the bus -/
  busHeld : Bool := false
  addr : Nat := 0x64
  /-- messages sent, with the endpoint they go to (0 for an answer to a control message): header or completion code, then data -/
  tx : List (Nat × List Byte) := []
  /-- the TAP's instruction: 0xFF BYPASS, 0x100 IDCODE (its code is not given), else the code of another instruction -/
  ir : Nat := 0x100
  tdo : Dword := 0
  halted : Bool := false
  alertN : Bool := false
  faultN : Bool := false
  tripN : Bool := false
  deriving DecidableEq, Repr

/-- The global stop (R457 to R465). -/
structure Stop where
  state : Nat := 0
  n : Nat := 0
  sMin : Nat := 0
  sMax : Nat := 0
  exact : Bool := false
  late : Nat := 0
  kind : Nat := 0
  waiting : List Nat := []
  slots : List Nat := []
  stoppedAt : Dword := 0
  releasing : Bool := false
  cause : Nat := 0
  restarting : List Nat := []
  scanBusy : Bool := false
  /-- RAS time of the last release (R330) -/
  releasedAt : Option Dword := none
  seqs : List Nat := []
  deriving DecidableEq, Repr

/-- The throttle ladder as the master holds it (R363 to R374). -/
structure Throttle where
  stage : Nat := 0
  sector : Nat := 0
  engage : Nat := 0
  /-- stages fixed and waiting for their slot: (E, stage) -/
  pending : List (Nat × Nat) := []
  trip : Bool := false
  /-- TJ_LIMIT in force, 1/16 °C (the image's is rounded down, log entry 12), and as binary64 -/
  limit : Int := 1680
  limitBits : Nat := 0x405A400000000000
  /-- THERMAL_POLICY has set the limit in this power cycle (R373) -/
  limitSet : Bool := false
  /-- stage 0 has held 10 ms (R243) -/
  screensAllowed : Bool := true
  master : Nat := 44
  /-- sectors whose request a new master still waits for (R374) -/
  waiting : List Nat := []
  requests : Sparse Nat := []
  deriving DecidableEq, Repr

/-- An action that waits on a unit (R54): its rank, the SEQUENCE of its command and what it starts. -/
structure WaitAct where
  scope : Nat := 3
  number : Nat := 0
  /-- 0 reset, 1 fence, 2 stop, 3 quarantine, 4 screen, 5 watch, 6 trace -/
  rank : Nat := 6
  seq : Nat := 0
  act : Instr
  deriving DecidableEq, Repr

/-- A message to the control core (Table 21.7). -/
structure CoreMsg where
  type : Nat := 0
  tag : Nat := 0
  payload : List Byte := []
  deriving DecidableEq, Repr

/-- A register or program access answered by a unit (R77): its unit, status and words. -/
structure Answer where
  unit : Nat := 0
  cls : Nat := 4
  opcode : Nat := 0
  /-- TAG of its request (R41) -/
  tag : Nat := 0
  status : Nat := 0
  words : List Word := []
  deriving DecidableEq, Repr

/-- The machine. -/
structure State where
  /-- commands that wait, first in first out: the model's own field -/
  pending : List Instr := []
  /-- reference-clock periods since power-on (R9, R48) -/
  ticks : Nat := 0
  /-- the global slot counter that every running tile shows (R27) -/
  slot : Nat := 0
  /-- messages sent and not yet received: each is the command that its arrival is (log entry 3) -/
  sent : List Instr := []
  powered : Bool := false
  warn : Bool := false
  /-- PWR_WARN_N has been asserted in this power cycle: no screening run starts any more (Table 9.6) -/
  noRuns : Bool := false
  image : Image := {}
  boot : Boot := {}
  islandA : Island := {}
  islandB : Island := {}
  mgrA : Manager := {}
  mgrB : Manager := {}
  /-- edge die whose manager is active: 0 A, 1 B -/
  active : Nat := 0
  failover : Bool := false
  /-- B's journal check has passed (R536) -/
  checked : Bool := false
  /-- hubs that have not acknowledged TAKEOVER (R532) -/
  takeover : List Nat := []
  /-- the command that waits for the new active manager (0 none), and whether the former one passes its journal check (R506) -/
  switchSeq : Nat := 0
  switchOk : Bool := false
  journalSeq : Nat := 0
  journal : List JournalEntry := []
  auditAlarm : Bool := false
  rasBaseA : Dword := 0
  rasAtA : Nat := 0
  rasBaseB : Dword := 0
  rasAtB : Nat := 0
  rasArmedB : Option Dword := none
  /-- hubs armed by a check for the next sync edge, and the active manager's count at the last one (R49) -/
  rasCheck : List Nat := []
  syncRas : Dword := 0
  flashA : Memory := []
  flashB : Memory := []
  setA : List Settings := [{}, {}]
  setB : List Settings := [{}, {}]
  /-- copy being written, its cause and command -/
  setBusy : Option (Nat × Nat × Nat) := none
  stageOpen : Bool := false
  stageNext : Nat := 0
  stageErased : List Nat := []
  mramA : Memory := []
  mramB : Memory := []
  health : Sparse SiteRec := []
  /-- counted triggers not yet written (R263) -/
  unflushed : List Nat := []
  /-- sites whose last deep screen passed -/
  deepPassed : List Nat := []
  /-- margin code of the last measurement of each axis, by site (R241); unlisted 0x01FF -/
  marginPrev : Sparse Nat := []
  /-- operating time at which a free spare was last screened, plus 1 (R237) -/
  spareAt : Sparse Nat := []
  sparesLow : Sparse Nat := []
  sensors : Sparse Sensor := []
  sramLog : List SramRepair := []
  memLog : List (Nat × Nat × Nat) := []
  sen : Sparse Sentinel := []
  hub : Sparse Hub := []
  part : Sparse Partition := []
  /-- translation banks: logical tile to entry (R255), and routes redrawn: tile to old and new site (R258) -/
  xlat0 : Sparse Nat := []
  xlat1 : Sparse Nat := []
  routes0 : Sparse (List (Nat × Nat)) := []
  routes1 : Sparse (List (Nat × Nat)) := []
  screens : Sparse (Option Screen) := []
  /-- sites whose screen is asked: 0 by UNIT_SCREEN, 1 by the loss sentinel (R187) -/
  screenReqs : List (Nat × Nat) := []
  net : Sparse Nat := []
  /-- Midway links declared failed (R31) -/
  links : List MidLink := []
  /-- the manager's merged wait-for graph: edges raised, with the RAS time of their arrival (R328, R329) -/
  graph : List (Edge × Dword) := []
  throttle : Throttle := {}
  stop : Stop := {}
  waits : List WaitAct := []
  gcount : Sparse Nat := []
  drainId : Nat := 0
  armId : Nat := 0
  scanId : Nat := 0
  dram : Memory := []
  recorder : Recorder := {}
  win : Window := {}
  portA : Port := {}
  portB : Port := {}
  coreTx : List CoreMsg := []
  coreNaks : Nat := 0
  /-- loss reports refused (R183) -/
  lossRejected : Nat := 0
  coreTag : Nat := 0
  answers : List Answer := []
  /-- the model's own counter of free values (R510) -/
  free : Nat := 0
  deriving DecidableEq, Repr

/-- Reset: the module with main power off, before bring-up step 1. -/
def State.reset : State := {}

/-- No meaning faults: every command of the manual has an effect in every state. The type keeps one reason for an access
to an address that the manual gives no unit (nobody raises it). -/
inductive Fault where
  /-- raised by nobody; safe -/
  | noSuchUnit
  deriving DecidableEq, Repr

/-- Why a command has no meaning. -/
inductive Refusal where
  /-- raised by exec's arm of a command that is not modelled yet; safe -/
  | notModelled (mnemonic : String)
  deriving DecidableEq, Repr

end Sys2Proof.Machine
end

