-- ==== Sys2Proof/Machine/Clock.lean ====
section
/-!
DEFINITION. The reference clock and the slot counter (R9, R27, R363, R457).
-/
namespace Sys2Proof.Machine

/-- Slots that the global slot counter advances in one reference period: 12 at the nominal 1.2 GHz, divided at throttle
stages 3 and 4 (R363); none while the wafer is stopped (R457). -/
def slotsPerTick (s : State) : Nat :=
  if !s.powered || s.boot.step < 6 || 2 ≤ s.stop.state || !s.stop.slots.isEmpty then 0
  else if s.throttle.stage = 3 then 6 else if s.throttle.stage = 4 then 3 else 12

/-- One reference period passes (R9, R529): the islands count milliseconds of operating time while main power is good. -/
def clockTick (s : State) : State :=
  let n := s.ticks + 1
  let add (i : Island) : Island := if s.powered && n % 100000 = 0 then { i with ms := i.ms + 1 } else i
  { s with ticks := n, slot := (s.slot + slotsPerTick s) % 2 ^ 64, islandA := add s.islandA, islandB := add s.islandB }

end Sys2Proof.Machine
end

