-- ==== Sys2Proof/Machine/Ops.lean ====
section
/-!
DEFINITION. Named operations over the state: unit numbering (Tables 1.1, 1.2, 2.2), time, one field of one unit,
messages in flight, MRAM and journal writes. The manual's rule is named with each.
-/
namespace Sys2Proof.Machine

/-- What a command answers: every meaning gives a next state. -/
abbrev Result := Host.Outcome State Fault Refusal

/-! ## One field of the state -/

def setSlot (v : Nat) (s : State) : State := { s with slot := v }
def setSent (v : List Instr) (s : State) : State := { s with sent := v }
def setPowered (v : Bool) (s : State) : State := { s with powered := v }
def setWarn (v : Bool) (s : State) : State := { s with warn := v }
def setNoRuns (v : Bool) (s : State) : State := { s with noRuns := v }
def setImage (v : Image) (s : State) : State := { s with image := v }
def setActive (v : Nat) (s : State) : State := { s with active := v }
def setFailover (v : Bool) (s : State) : State := { s with failover := v }
def setChecked (v : Bool) (s : State) : State := { s with checked := v }
def setTakeover (v : List Nat) (s : State) : State := { s with takeover := v }
def setSwitchSeq (v : Nat) (s : State) : State := { s with switchSeq := v }
def setSwitchOk (v : Bool) (s : State) : State := { s with switchOk := v }
def setJournalSeq (v : Nat) (s : State) : State := { s with journalSeq := v }
def setJournal (v : List JournalEntry) (s : State) : State := { s with journal := v }
def setAuditAlarm (v : Bool) (s : State) : State := { s with auditAlarm := v }
def setRasBaseA (v : Dword) (s : State) : State := { s with rasBaseA := v }
def setRasAtA (v : Nat) (s : State) : State := { s with rasAtA := v }
def setRasBaseB (v : Dword) (s : State) : State := { s with rasBaseB := v }
def setRasAtB (v : Nat) (s : State) : State := { s with rasAtB := v }
def setRasArmedB (v : Option Dword) (s : State) : State := { s with rasArmedB := v }
def setRasCheck (v : List Nat) (s : State) : State := { s with rasCheck := v }
def setSyncRas (v : Dword) (s : State) : State := { s with syncRas := v }
def setFlashA (v : Memory) (s : State) : State := { s with flashA := v }
def setFlashB (v : Memory) (s : State) : State := { s with flashB := v }
def setSetA (v : List Settings) (s : State) : State := { s with setA := v }
def setSetB (v : List Settings) (s : State) : State := { s with setB := v }
def setSetBusy (v : Option (Nat × Nat × Nat)) (s : State) : State := { s with setBusy := v }
def setStageOpen (v : Bool) (s : State) : State := { s with stageOpen := v }
def setStageNext (v : Nat) (s : State) : State := { s with stageNext := v }
def setStageErased (v : List Nat) (s : State) : State := { s with stageErased := v }
def setMramA (v : Memory) (s : State) : State := { s with mramA := v }
def setMramB (v : Memory) (s : State) : State := { s with mramB := v }
def setUnflushed (v : List Nat) (s : State) : State := { s with unflushed := v }
def setDeepPassed (v : List Nat) (s : State) : State := { s with deepPassed := v }
def setSpareAt (v : Sparse Nat) (s : State) : State := { s with spareAt := v }
def setMarginPrev (v : Sparse Nat) (s : State) : State := { s with marginPrev := v }
def setSparesLow (v : Sparse Nat) (s : State) : State := { s with sparesLow := v }
def setSensors (v : Sparse Sensor) (s : State) : State := { s with sensors := v }
def setSramLog (v : List SramRepair) (s : State) : State := { s with sramLog := v }
def setMemLog (v : List (Nat × Nat × Nat)) (s : State) : State := { s with memLog := v }
def setSen (v : Sparse Sentinel) (s : State) : State := { s with sen := v }
def setHub (v : Sparse Hub) (s : State) : State := { s with hub := v }
def setPart (v : Sparse Partition) (s : State) : State := { s with part := v }
def setXlat0 (v : Sparse Nat) (s : State) : State := { s with xlat0 := v }
def setXlat1 (v : Sparse Nat) (s : State) : State := { s with xlat1 := v }
def setRoutes0 (v : Sparse (List (Nat × Nat))) (s : State) : State := { s with routes0 := v }
def setRoutes1 (v : Sparse (List (Nat × Nat))) (s : State) : State := { s with routes1 := v }
def setScreens (v : Sparse (Option Screen)) (s : State) : State := { s with screens := v }
def setScreenReqs (v : List (Nat × Nat)) (s : State) : State := { s with screenReqs := v }
def setNet (v : Sparse Nat) (s : State) : State := { s with net := v }
def setLinks (v : List MidLink) (s : State) : State := { s with links := v }
def setGraph (v : List (Edge × Dword)) (s : State) : State := { s with graph := v }
def setThrottle (v : Throttle) (s : State) : State := { s with throttle := v }
def setStop (v : Stop) (s : State) : State := { s with stop := v }
def setWaits (v : List WaitAct) (s : State) : State := { s with waits := v }
def setGcount (v : Sparse Nat) (s : State) : State := { s with gcount := v }
def setDrainId (v : Nat) (s : State) : State := { s with drainId := v }
def setArmId (v : Nat) (s : State) : State := { s with armId := v }
def setScanId (v : Nat) (s : State) : State := { s with scanId := v }
def setDram (v : Memory) (s : State) : State := { s with dram := v }
def setRecorder (v : Recorder) (s : State) : State := { s with recorder := v }
def setCoreTx (v : List CoreMsg) (s : State) : State := { s with coreTx := v }
def setCoreNaks (v : Nat) (s : State) : State := { s with coreNaks := v }
def setLossRejected (v : Nat) (s : State) : State := { s with lossRejected := v }
def setCoreTag (v : Nat) (s : State) : State := { s with coreTag := v }
def setAnswers (v : List Answer) (s : State) : State := { s with answers := v }
def setFree (v : Nat) (s : State) : State := { s with free := v }

/-! ## Units (R19, Tables 1.1, 1.2, 2.2) -/

/-- Sector of a physical site. -/
def sectorOf (site : Nat) : Nat := site / 168

/-- Row of a site in its sector. -/
def siteRow (site : Nat) : Nat := site % 168 / 14

/-- Column of a site in its sector. -/
def siteCol (site : Nat) : Nat := site % 14

/-- Region of a sector. -/
def regionOf (sector : Nat) : Nat := sector / 5

/-- Midway address of a hub. -/
def hubAddr (h : Nat) : Nat := 0x4000 + h

/-- Midway address of the manager of a die. -/
def mgrAddr (die : Nat) : Nat := 0x8000 + die

/-- Midway address of the always-on island of a die. -/
def islandAddr (die : Nat) : Nat := 0x8002 + die

/-- A group address (Table 2.2): scope 0 all hubs, 1 the sentinels of a sector, 2 the sentinels of a partition, 3 all
sentinels. -/
def groupAddr (scope number : Nat) : Nat := 0xC000 + 0x1000 * scope + number

/-- An address that Table 2.2 lists; the others are reserved (R35). -/
def addrListed (a : Nat) : Bool :=
  a < 13440 || (0x4000 ≤ a && a < 0x4000 + 80) || (0x8000 ≤ a && a < 0x8004) || a == groupAddr 0 0 ||
    (groupAddr 1 0 ≤ a && a < groupAddr 1 80) || (groupAddr 2 0 ≤ a && a < groupAddr 2 16) || a == groupAddr 3 0

/-- First sector, first column of each grid row (Table 1.1). -/
def gridRows : List (Nat × Nat) :=
  [(0, 3), (4, 2), (10, 0), (20, 0), (30, 0), (40, 0), (50, 0), (60, 0), (70, 2), (76, 3), (80, 0)]

/-- Grid row of a sector (Table 1.1). -/
def gridRow (s : Nat) : Nat :=
  if s < 4 then 0 else if s < 10 then 1 else if s < 70 then s / 10 + 1 else if s < 76 then 8 else 9

/-- Grid column of a sector. -/
def gridCol (s : Nat) : Nat :=
  let r := gridRows.getD (gridRow s) (0, 0)
  s - r.1 + r.2

/-- First and last sector of a grid row. -/
def rowEnds (r : Nat) : Nat × Nat := ((gridRows.getD r (0, 0)).1, (gridRows.getD (r + 1) (80, 0)).1 - 1)

/-- The sector at a grid place (Table 1.1). -/
def sectorAt (row : Nat) (col : Nat) : Option Nat :=
  if 10 ≤ row then none
  else
    let r := gridRows.getD row (0, 0)
    let last := (rowEnds row).2
    if r.2 ≤ col && r.1 + (col - r.2) ≤ last then some (r.1 + (col - r.2)) else none

/-- Wafer row and column of a site (R257). -/
def waferRow (site : Nat) : Nat := 12 * gridRow (sectorOf site) + siteRow site
def waferCol (site : Nat) : Nat := 14 * gridCol (sectorOf site) + siteCol site

/-- Absolute difference. -/
def absDiff (a b : Nat) : Nat := (a - b) + (b - a)

/-- Sector whose hub holds the far end of the chains of sector `s` (R32). -/
def farHub (s : Nat) : Nat := if s % 5 = 4 then s - 1 else s + 1

/-- A sector is present (R4). -/
def State.present (s : State) (sector : Nat) : Bool := sector < 80 && bitOf sector s.image.sectors

/-- Present sectors, ascending. -/
def State.sectors (s : State) : List Nat := (List.range 80).filter s.present

/-- Rank of a sector (R11). -/
def State.rank (s : State) (sector : Nat) : Nat := (s.sectors.filter (· < sector)).length

/-- Home sector of a logical tile (R11). -/
def State.homeSector (s : State) (tile : Nat) : Nat := s.sectors.getD (tile / 156) 80

/-! ## One unit's record -/

def State.senOf (s : State) (site : Nat) : Sentinel := Sparse.get {} s.sen site
def State.hubOf (s : State) (h : Nat) : Hub := Sparse.get {} s.hub h
def State.partOf (s : State) (p : Nat) : Partition := Sparse.get {} s.part p
def State.siteRec (s : State) (site : Nat) : SiteRec := Sparse.get {} s.health site
def State.sensorOf (s : State) (n : Nat) : Sensor := Sparse.get {} s.sensors n
def State.channelOf (s : State) (c : Nat) : Channel := Sparse.get {} s.win.channels c

def modSen (site : Nat) (f : Sentinel → Sentinel) (s : State) : State := { s with sen := Sparse.upd {} s.sen site f }
def modHub (h : Nat) (f : Hub → Hub) (s : State) : State := { s with hub := Sparse.upd {} s.hub h f }
def modPart (p : Nat) (f : Partition → Partition) (s : State) : State := { s with part := Sparse.upd {} s.part p f }
def modSite (site : Nat) (f : SiteRec → SiteRec) (s : State) : State := { s with health := Sparse.upd {} s.health site f }
def modSensor (n : Nat) (f : Sensor → Sensor) (s : State) : State := { s with sensors := Sparse.upd {} s.sensors n f }
def modChannel (c : Nat) (f : Channel → Channel) (s : State) : State :=
  { s with win := { s.win with channels := Sparse.upd {} s.win.channels c f } }
def modWin (f : Window → Window) (s : State) : State := { s with win := f s.win }
def modRec (f : Recorder → Recorder) (s : State) : State := { s with recorder := f s.recorder }
def modStop (f : Stop → Stop) (s : State) : State := { s with stop := f s.stop }
def modThrottle (f : Throttle → Throttle) (s : State) : State := { s with throttle := f s.throttle }
def modBoot (f : Boot → Boot) (s : State) : State := { s with boot := f s.boot }

def State.port (s : State) (die : Nat) : Port := if die = 0 then s.portA else s.portB
def modPort (die : Nat) (f : Port → Port) (s : State) : State :=
  if die = 0 then { s with portA := f s.portA } else { s with portB := f s.portB }
def State.mgr (s : State) (die : Nat) : Manager := if die = 0 then s.mgrA else s.mgrB
def modMgr (die : Nat) (f : Manager → Manager) (s : State) : State :=
  if die = 0 then { s with mgrA := f s.mgrA } else { s with mgrB := f s.mgrB }
def State.island (s : State) (die : Nat) : Island := if die = 0 then s.islandA else s.islandB
def modIsland (die : Nat) (f : Island → Island) (s : State) : State :=
  if die = 0 then { s with islandA := f s.islandA } else { s with islandB := f s.islandB }
def State.mram (s : State) (die : Nat) : Memory := if die = 0 then s.mramA else s.mramB
def State.flash (s : State) (die : Nat) : Memory := if die = 0 then s.flashA else s.flashB

/-- Fold of an operation over a list of units. -/
def each {α : Type} (xs : List α) (f : α → State → State) (s : State) : State := xs.foldl (fun s x => f x s) s

/-- A value in a bounded counter table. -/
def bump (m : Sparse Nat) (k n : Nat) : Sparse Nat := Sparse.upd 0 m k (· + n)

/-- Sentinel counter `k`, 32 bits, wrapping (R448). -/
def countSen (site k n : Nat) (s : State) : State :=
  modSen site (fun x => { x with counters := Sparse.upd 0 x.counters k fun v => (v + n) % 2 ^ 32 }) s

/-- Hub counter `k`, 64 bits, wrapping (R449). -/
def countHub (h k n : Nat) (s : State) : State :=
  modHub h (fun x => { x with counters := Sparse.upd 0 x.counters k fun v => (v + n) % 2 ^ 64 }) s

/-- Global counter k of partition p (R450). -/
def countGlobal (p k n : Nat) (s : State) : State :=
  setGcount (Sparse.upd 0 s.gcount (8 * p + k) fun v => (v + n) % 2 ^ 64) s

/-! ## Serving hubs (R25, R56, R104) -/

/-- The hub that serves a sector: its own, or the adoptive one; none after a sector failure. -/
def State.server (s : State) (sector : Nat) : Option Nat :=
  let h := s.hubOf sector
  if !s.present sector || h.lostSector then none
  else if !h.failed then some sector
  else h.adoptedBy

/-- Sectors that a hub serves. -/
def State.served (s : State) (h : Nat) : List Nat := s.sectors.filter fun x => s.server x = some h

/-- Hubs that work. -/
def State.hubs (s : State) : List Nat := s.sectors.filter fun x => !(s.hubOf x).failed

/-- A failed chain link lies between a site and its sector's own hub (R33). -/
def State.cutOff (s : State) (site : Nat) : Bool :=
  s.links.any fun l => l.kind == 0 && l.sector == sectorOf site && l.row == siteRow site &&
    (l.column == 0xFF || decide (l.column < siteCol site))

/-- A failed chain link lies between a site and the far end of its chain (R33). -/
def State.farCut (s : State) (site : Nat) : Bool :=
  s.links.any fun l => l.kind == 0 && l.sector == sectorOf site && l.row == siteRow site && l.column != 0xFF &&
    decide (siteCol site ≤ l.column)

/-- A hub is present and works. -/
def State.works (s : State) (h : Nat) : Bool := s.present h && !(s.hubOf h).failed

/-- The far end of a site's chain reaches it. -/
def State.farReaches (s : State) (site : Nat) : Bool := s.works (farHub (sectorOf site)) && !s.farCut site

/-- Hub of a site: that of its sector, or the far end of a chain that is split before the site. -/
def State.siteHub (s : State) (site : Nat) : Nat :=
  let h := (s.server (sectorOf site)).getD (sectorOf site)
  if h = sectorOf site && s.cutOff site && s.farReaches site then farHub h else h

/-- No hub reaches a site: both ends of its chain are lost to it (R25, R33). -/
def State.unreached (s : State) (site : Nat) : Bool :=
  match s.server (sectorOf site) with
  | none => true
  | some h => if h = sectorOf site then s.cutOff site && !s.farReaches site else s.farCut site

/-! ## Partitions (R13, R335) -/

/-- Partition of a region, 0xFF none. -/
def State.regionPart (s : State) (r : Nat) : Nat :=
  ((List.range 16).find? fun p => bitOf r (s.partOf p).regions).getD 0xFF

/-- Partition of a sector. -/
def State.sectorPart (s : State) (sector : Nat) : Nat := s.regionPart (regionOf sector)

/-- Partition of a site. -/
def State.sitePart (s : State) (site : Nat) : Nat := s.sectorPart (sectorOf site)

/-- Present sectors of a partition, ascending. -/
def State.partSectors (s : State) (p : Nat) : List Nat :=
  s.sectors.filter fun x => bitOf (regionOf x) (s.partOf p).regions

/-- Hubs that serve a partition. -/
def State.partHubs (s : State) (p : Nat) : List Nat := ((s.partSectors p).filterMap s.server).eraseDups

/-- The root hub (R275). -/
def State.rootHub (s : State) (p : Nat) : Nat := ((s.partSectors p).filterMap s.server).headD 0

/-- Physical sites of a sector. -/
def sitesOfSector (sector : Nat) : List Nat := (List.range 168).map (168 * sector + ·)

/-- Logical tile a site holds, 0xFFFF none. -/
def State.tileAt (s : State) (site : Nat) : Nat := (s.siteRec site).logical

/-- Sites of a partition's sectors that hold a logical tile, ascending. -/
def State.partSites (s : State) (p : Nat) : List Nat :=
  (s.health.filter fun x => x.2.logical != 0xFFFF && bitOf (regionOf (sectorOf x.1)) (s.partOf p).regions).map (·.1)

/-- Every site of a partition's sectors with a record. -/
def State.partAllSites (s : State) (p : Nat) : List Nat :=
  (s.health.filter fun x => bitOf (regionOf (sectorOf x.1)) (s.partOf p).regions).map (·.1)

/-- Partition of a logical tile. -/
def State.tilePart (s : State) (tile : Nat) : Nat := s.sectorPart (s.homeSector tile)

/-- Translation entry of a tile in the bank that its partition uses (R255); VALID is bit 14. -/
def State.siteOf (s : State) (tile : Nat) : Option Nat :=
  let e := Sparse.get 0 (if (s.partOf (s.tilePart tile)).bank = 0 then s.xlat0 else s.xlat1) tile
  if bitOf 14 e then some (e % 2 ^ 14) else none

/-- Sites that a hub serves and that hold a logical tile of a partition. -/
def State.hubPartSites (s : State) (h p : Nat) : List Nat := (s.partSites p).filter fun x => s.siteHub x = h

/-- A partition with a job. -/
def State.hasJob (s : State) (p : Nat) : Bool := (s.partOf p).job.isSome

/-- The job of a partition, or the default descriptors. -/
def State.jobOf (s : State) (p : Nat) : Job := ((s.partOf p).job).getD {}

/-! ## Time (R9, R48, R379, R418, R419) -/

/-- RAS time of the manager of a die. -/
def State.dieRas (s : State) (die : Nat) : Dword :=
  if die = 0 then s.rasBaseA + BitVec.ofNat 64 (s.ticks - s.rasAtA) else s.rasBaseB + BitVec.ofNat 64 (s.ticks - s.rasAtB)

/-- RAS time of the active manager. -/
def State.ras (s : State) : Dword := s.dieRas s.active

/-- RAS time of a hub. -/
def State.hubRas (s : State) (h : Nat) : Dword :=
  (s.hubOf h).rasBase + BitVec.ofNat 64 (s.ticks - (s.hubOf h).rasAt)

/-- Power-cycle count and operating time (ms) of the active manager's island. -/
def State.cycles (s : State) : Nat := (s.island s.active).cycles
def State.ms (s : State) : Nat := (s.island s.active).ms
def State.secs (s : State) : Nat := s.ms / 1000

/-- Calendar value now (R419): 40-bit seconds below a 24-bit fraction. `cal` counts 2^-24 s. -/
def Island.calNow (i : Island) (ticks : Nat) : Nat := i.cal + (ticks - i.calAt) * 2 ^ 24 / 100000000

/-- The 8 bytes of a calendar value: seconds in [39:0], fraction in [63:40]. -/
def calBytes (c : Nat) : List Byte := le 5 (c / 2 ^ 24) ++ le 3 c

/-- A calendar value from its 8 bytes. -/
def calOf (n : Nat) : Nat := n % 2 ^ 40 * 2 ^ 24 + n / 2 ^ 40 % 2 ^ 24

/-- The core clock of a tile but for a global stop: stopped during its reset and on a site that holds no logical tile and runs
no test content (R72). -/
def State.clockBefore (s : State) (site : Nat) : Bool :=
  let x := s.senOf site
  x.bistPass && !x.inReset && (s.tileAt site != 0xFFFF || x.run.isSome || x.heater)

/-- SEN.STATUS.CORE_CLK (Table 3.6). -/
def State.clockRuns (s : State) (site : Nat) : Bool := s.clockBefore site && (s.senOf site).halted.isNone

/-- Slot counter a site shows: the global count while its core clock runs, else as it was held (R62, R447; log entry 111). -/
def State.slotAt (s : State) (site : Nat) : Nat :=
  match (s.senOf site).halted with
  | some n => n % 2 ^ 64
  | none => if s.clockBefore site then s.slot % 2 ^ 64 else (s.senOf site).slotHeld % 2 ^ 64

/-- The core clock of a site is about to stop: its slot counter stands. -/
def holdSlot (site : Nat) (s : State) : State :=
  let n := s.slotAt site
  modSen site (fun x => { x with slotHeld := n }) s

/-- The slot count copy: updated on the slots that 8 divides (R65). -/
def State.slotCopy (s : State) (site : Nat) : Nat := s.slotAt site / 8 * 8

/-! ## Messages (R36, R41, log entry 3) -/

/-- A message leaves its sender. -/
def send (m : Instr) (s : State) : State := { s with sent := s.sent ++ [m] }

/-- A unit answers a request of a class and operation with status OK and further words (R41). -/
def respond (unit cls opcode : Nat) (words : List Word) (s : State) : State :=
  setAnswers (s.answers ++ [{ unit := unit, cls := cls, opcode := opcode, words := words }]) s

/-- Messages leave in order. -/
def sendAll (ms : List Instr) (s : State) : State := { s with sent := s.sent ++ ms }

/-- Units of a group address (Table 2.2). -/
def State.members (s : State) (group : Nat) : List Nat :=
  let sites := s.sen.map (·.1)
  let number := group % 0x1000
  match bitsOf 12 2 group with
  | 0 => s.hubs.map hubAddr
  | 1 => sites.filter fun x => sectorOf x = number
  | 2 => sites.filter fun x => s.sitePart x = number
  | _ => sites

/-- A group message leaves as one message for each member (R35; log entry 81). -/
def sendGroup (group : Nat) (f : Nat → Instr) (s : State) : State := sendAll ((s.members group).map f) s

/-- Reference periods from a TIME_LOAD's sending to the sync edge at which its counters load (log entry 108). -/
def syncLead : Nat := 1000

/-- TIME_LOAD to every hub and to manager B (R48): V is the sender's count at the sync edge. -/
def loadTime (s : State) : State :=
  let v := s.ras + BitVec.ofNat 64 syncLead
  let s := sendGroup (groupAddr 0 0) (fun u => .timeLoad u v) s
  if s.mgrB.running then send (.timeLoad (mgrAddr 1) v) s else s

/-! ## Routes (R34) -/

/-- Number of grid hops between two sectors. -/
def gridDist (a b : Nat) : Nat := absDiff (gridRow a) (gridRow b) + absDiff (gridCol a) (gridCol b)

/-- The mesh neighbour of a hub: 0 up, 1 down, 2 left, 3 right. -/
def meshAt (h dir : Nat) : Option Nat :=
  let r := gridRow h
  let c := gridCol h
  match dir with
  | 0 => if r = 0 then none else sectorAt (r - 1) c
  | 1 => sectorAt (r + 1) c
  | 2 => if c = 0 then none else sectorAt r (c - 1)
  | _ => sectorAt r (c + 1)

/-- A mesh link and the hub at its other end work. -/
def State.meshUp (s : State) (a b : Nat) : Bool :=
  s.works b && !s.links.any fun l => l.kind == 1 &&
    ((l.endA == hubAddr a && l.endB == hubAddr b) || (l.endA == hubAddr b && l.endB == hubAddr a))

/-- The neighbour along the grid row, and along the grid column, toward a hub. -/
def rowStep (a b : Nat) : Option Nat :=
  if gridCol a < gridCol b then meshAt a 3 else if gridCol b < gridCol a then meshAt a 2 else none
def colStep (a b : Nat) : Option Nat :=
  if gridRow a < gridRow b then meshAt a 1 else if gridRow b < gridRow a then meshAt a 0 else none

/-- The next hub of mesh traffic from `a` to `b` (R34): along the row, else along the column, else any working neighbour closer to
`b`. Every hub chooses anew: behind a detour the way goes along the row again (log entry 132). -/
def State.nextHop (s : State) (a b : Nat) : Option Nat :=
  let up (x : Nat) : Bool := s.meshUp a x
  ((rowStep a b).filter up).or (((colStep a b).filter up).or
    (((List.range 4).filterMap (meshAt a)).find? fun x => up x && decide (gridDist x b < gridDist a b)))

/-- Hubs behind `a` on the route to `b`, at most `n` of them; none where the route ends before `b`. -/
def State.routeIn (s : State) : Nat → Nat → Nat → Option (List Nat)
  | n, a, b =>
    if a = b then some []
    else match n with
      | 0 => none
      | n + 1 => match s.nextHop a b with
        | none => none
        | some x => (s.routeIn n x b).map (x :: ·)

/-- The route between two hubs. -/
def State.route (s : State) (a b : Nat) : Option (List Nat) := s.routeIn 20 a b

/-- The row-end hub of a grid row that holds the port to the manager of a die (Table 2.1). -/
def portHub (row die : Nat) : Nat := if die = 0 then (rowEnds row).1 else (rowEnds row).2

/-- A manager port works. -/
def State.portWorks (s : State) (h die : Nat) : Bool :=
  s.works h && !(s.mgr die).dieLost && !s.links.any fun l => l.kind == 2 &&
    ((l.endA == hubAddr h && l.endB == mgrAddr die) || (l.endA == mgrAddr die && l.endB == hubAddr h))

/-- The port by which a hub's traffic reaches the manager of a die (R34): that of its row, else the nearest that works, of several
equally near the one of the lowest grid row (log entry 132). -/
def State.managerPort (s : State) (h die : Nat) : Option Nat :=
  let own := portHub (gridRow h) die
  if s.portWorks own die then some own
  else (((List.range 10).map (portHub · die)).filter fun x => s.portWorks x die).foldl (fun b x => match b with
    | some y => if gridDist h x < gridDist h y then some x else b
    | none => some x) none

/-- Hubs that a message between a hub and the active manager passes behind the hub. -/
def State.toManager (s : State) (h : Nat) : Option (List Nat) := (s.managerPort h s.active).bind fun x => s.route h x

/-- Hubs that a message of the manager of a die to a hub passes, that hub with them. -/
def State.fromManager (s : State) (die h : Nat) : Option (List Nat) :=
  (s.managerPort h die).bind fun x => (s.route x h).map (x :: ·)

/-! ## Arrival (R37, R43 to R45, R449) -/

/-- A message of a sentinel or hub to the active manager, with its class (Table 2.8): its sender. -/
def toManagerOf : Instr → Option (Nat × Nat)
  | .alarmLevel unit _ _ _ => if unit < 0x8000 then some (unit, 0) else none
  | .stopRequest site => some (site, 1)
  | .event e => if e.source < 0x8000 then some (e.source, 5) else none
  | .edgeChange hub _ _ => some (hubAddr hub, 5)
  | .snapshotPart hub _ _ _ => some (hubAddr hub, 6)
  | .digestRun hub _ _ _ _ => some (hubAddr hub, 6)
  | .controlResponse unit cls opcode _ _ _ =>
    if cls = 1 && unit < 0x4000 && (opcode = 3 || opcode = 4) then some (unit, 1)
    else if 0x4000 ≤ unit && unit < 0x8000 && (cls = 3 || cls = 4 || (cls = 1 && (opcode = 7 || 0xC ≤ opcode))) then some (unit, cls)
    else none
  | _ => none

/-- A message that a hub takes, with its class (Table 2.8): the address of its sender, and the hub. A bound point, the commit ports
among them, hands its messages to its own hub; a fence begins at the root hub (R338). -/
def State.toHubOf (s : State) : Instr → Option (Nat × Nat × Nat)
  | .fence unit p _ => if unit < 0x4000 then none else some (hubAddr (s.rootHub p), unit - 0x4000, 1)
  | .fenceDone site => some (site, s.siteHub site, 1)
  | .resetDone site => some (site, s.siteHub site, 1)
  | .throttleStage unit _ _ => if unit < 0x4000 then none else some (hubAddr s.throttle.master, unit - 0x4000, 1)
  | .throttleRequest sector _ => some (hubAddr ((s.server sector).getD sector), s.throttle.master, 1)
  | .quarantine site => some (mgrAddr s.active, s.siteHub site, 1)
  | .takeover hub => some (mgrAddr (1 - s.active), hub, 1)
  | .stepBoundary hub _ _ _ _ => some (mgrAddr s.active, hub, 1)
  | .residueVerdict site _ _ => some (site, s.siteHub site, 2)
  | .plausVerdict site _ => some (site, s.siteHub site, 2)
  | .redundancy site _ => some (site, s.siteHub site, 2)
  | .stepDone site _ => some (site, s.siteHub site, 2)
  | .ledger site _ => some (site, s.siteHub site, 2)
  | .sealVerdict unit partition _ _ _ _ _ =>
    if unit < 0x4000 then some (unit, s.siteHub unit, 2) else some (unit, s.rootHub partition, 2)
  | .contribution hub partition _ _ _ => some (hubAddr hub, s.rootHub partition, 2)
  | .finalKept partition _ _ _ _ _ => some (hubAddr (s.rootHub partition), s.rootHub partition, 2)
  | .timeLoad unit _ => if 0x4000 ≤ unit && unit < 0x8000 then some (mgrAddr s.active, unit - 0x4000, 3) else none
  | .timeCheck hub => some (mgrAddr s.active, hub, 3)
  | .hubWatch sector => some (hubAddr sector, farHub sector, 3)
  | .dropCount site _ => some (site, s.siteHub site, 5)
  | .summary site _ => some (site, s.siteHub site, 5)
  | .memoryError hub _ => some (hubAddr hub, hub, 5)
  | .runResult site _ _ _ _ _ _ => some (site, s.siteHub site, 5)
  | .repeatHeader site _ => some (site, s.siteHub site, 6)
  | .laneData site _ => some (site, s.siteHub site, 6)
  | .read unit _ _ _ => if 0x4000 ≤ unit && unit < 0x8000 then some (mgrAddr s.active, unit - 0x4000, 4) else none
  | .write unit _ _ _ => if 0x4000 ≤ unit && unit < 0x8000 then some (mgrAddr s.active, unit - 0x4000, 4) else none
  | .controlResponse unit cls opcode _ _ _ =>
    if unit < 0x4000 && (cls = 4 || (cls = 1 && opcode != 3 && opcode != 4)) then some (unit, s.siteHub unit, cls)
    else if 0x4000 ≤ unit && unit < 0x8000 && cls = 1 && opcode = 5 then some (unit, s.throttle.master, 1)
    else none
  | _ => none

/-- A message that a sentinel takes, with its class (Table 2.8): the address of its sender, and the site. -/
def State.toSiteOf (s : State) : Instr → Option (Nat × Nat × Nat)
  | .fence site _ _ => if site < 0x4000 then some (hubAddr (s.siteHub site), site, 1) else none
  | .tileReset site _ => some (hubAddr (s.siteHub site), site, 1)
  | .stopSlot site _ => some (mgrAddr s.active, site, 1)
  | .stopReleaseMessage site _ => some (mgrAddr s.active, site, 1)
  | .throttleStage site _ _ => if site < 0x4000 then some (hubAddr (s.siteHub site), site, 1) else none
  | .traceTrigger site _ _ => some (hubAddr (s.siteHub site), site, 1)
  | .repeatRead site _ _ _ _ _ _ => some (hubAddr (s.siteHub site), site, 1)
  | .edgeTick site => some (hubAddr (s.siteHub site), site, 3)
  | .read site _ _ _ => if site < 0x4000 then some (hubAddr (s.siteHub site), site, 4) else none
  | .write site _ _ _ => if site < 0x4000 then some (hubAddr (s.siteHub site), site, 4) else none
  | .dropCountRead site _ => some (hubAddr (s.siteHub site), site, 4)
  | .programWrite site _ _ _ => some (hubAddr (s.siteHub site), site, 4)
  | .programRead site _ _ _ => some (hubAddr (s.siteHub site), site, 4)
  | .screenRun site sector _ _ _ => if site < 0x4000 then some (hubAddr ((s.server sector).getD sector), site, 1) else none
  | _ => none

/-- The partition of a step token or peer release, which goes from the root hub to every hub of the partition. -/
def tokenOf : Instr → Option Nat
  | .stepToken p => some p
  | .peerRelease p => some p
  | _ => none

/-- The hubs that accept a message which a unit sends toward hub `h`, in order; none where no route is open (R34). -/
def State.wayTo (s : State) (unit h : Nat) : Option (List Nat) :=
  if unit < 0x4000 then (if s.unreached unit then none else some [h])
  else if unit < 0x8000 then (if unit = hubAddr h then some [h] else s.route (unit - 0x4000) h)
  else s.fromManager (unit - 0x8000) h

/-- Class of a message, and the hubs that accept it on its way in order; no hubs where it crosses none, none where no route is
open (R34). -/
def State.path (s : State) (m : Instr) : Nat × Option (List Nat) :=
  match toManagerOf m with
  | some (unit, cls) =>
    if unit < 0x4000 then
      (cls, if s.unreached unit then none else (s.toManager (s.siteHub unit)).map (s.siteHub unit :: ·))
    else (cls, s.toManager (unit - 0x4000))
  | none =>
    match s.toHubOf m with
    | some (unit, h, cls) => (cls, s.wayTo unit h)
    | none =>
      match s.toSiteOf m with
      | some (unit, site, cls) =>
        (cls, if s.unreached site then none else if unit < 0x8000 then some [] else s.wayTo unit (s.siteHub site))
      | none => match tokenOf m with
        | some p =>
          let ways := (s.partHubs p).map (s.route (s.rootHub p))
          (2, if ways.all (·.isSome) then some (ways.flatMap (·.getD [])).eraseDups else none)
        | none => (8, some [])

/-- Sectors whose chains have their far ends on a hub (R32). -/
def farSectors (h : Nat) : List Nat := (List.range 80).filter fun x => farHub x = h

/-- Channels of a hub (R43): 0 to 11 its own chains by row, 12 to 35 the far ends of chains that lie on it, 36 to 39 its mesh
links, 40 its manager port. -/
def chainChannel (h site : Nat) : Nat :=
  if sectorOf site = h then siteRow site else 12 * (1 + (farSectors h).idxOf (sectorOf site)) + siteRow site

/-- A chain end that a hub serves: its own, one of an adopted sector, or the far part of a split chain (R33). -/
def State.chainOpen (s : State) (h c : Nat) : Bool :=
  let x := if c < 12 then h else (farSectors h).getD (c / 12 - 1) 80
  s.present x && (if s.server x = some h then c < 36
    else s.server x == some x && x != h && s.links.any fun l => l.kind == 0 && l.sector == x && l.row == c % 12)

/-- Channels that a hub has. -/
def State.hubChannels (s : State) (h : Nat) : List Nat :=
  (List.range 36).filter (s.chainOpen h) ++
    ((List.range 4).filter fun d => match meshAt h d with | some x => s.meshUp h x | none => false).map (36 + ·) ++
    (if (rowEnds (gridRow h)).1 = h || (rowEnds (gridRow h)).2 = h then [40] else [])

/-- The channel by which a message reaches a hub: from the hub before it on the way, else from its sender. -/
def State.channelIn (s : State) (m : Instr) (prev : Option Nat) (h : Nat) : Nat :=
  match prev with
  | some a => 36 + ((List.range 4).find? fun d => meshAt h d = some a).getD 4
  | none =>
    let unit := match toManagerOf m with
      | some (u, _) => u
      | none => match s.toHubOf m with
        | some (u, _, _) => u
        | none => 0x8000
    if unit < 0x4000 then chainChannel h unit
    else if 0x8000 ≤ unit then 40
    else 36 + ((List.range 4).find? fun d => meshAt h d = some (unit - 0x4000)).getD 4

/-- A buffer may take a message of a channel and class: buffers 2c and 2c + 1 are the reserved ones of channel c, the others are
shared (R43). -/
def State.mayUse (s : State) (h index channel cls : Nat) : Bool :=
  let c := index / 2
  if 256 ≤ index then false
  else if c < 41 && (s.hubChannels h).contains c then
    channel == c && (index % 2 == 0 || (if c < 36 then cls == 0 else cls ≤ 1))
  else true

/-- The free buffer that a message takes: a reserved one of its channel before a shared one (R43). -/
def State.freeBuffer (s : State) (h channel cls : Nat) : Option Nat :=
  let pool := (s.hubOf h).pool
  ([2 * channel, 2 * channel + 1] ++ List.range 256).find? fun i => !(pool.any fun w => w.index == i) && s.mayUse h i channel cls

/-- The first hub on a message's way that has no buffer for it, with its channel; one that already holds it has (R44). -/
def State.fullHub (s : State) (m : Instr) (cls : Nat) : Option Nat → List Nat → Option (Nat × Nat)
  | _, [] => none
  | prev, h :: hs =>
    let c := s.channelIn m prev h
    if (s.hubOf h).pool.any (fun w => w.msg == m) || (s.freeBuffer h c cls).isSome then s.fullHub m cls (some h) hs else some (h, c)

/-- The branches of a message's way, with the hub behind which each starts (none: the sender): one, but for a step token or peer
release, which takes the route from the root hub to each hub of the partition. -/
def State.branches (s : State) (m : Instr) : List (Option Nat × List Nat) :=
  match tokenOf m with
  | some p => (s.partHubs p).map fun h => (some (s.rootHub p), (s.route (s.rootHub p) h).getD [])
  | none => [(none, (s.path m).2.getD [])]

/-- The first hub on the branches of a message that has no buffer for it, with its channel. -/
def State.firstFull (s : State) (m : Instr) : Option (Nat × Nat) :=
  (s.branches m).findSome? fun b => s.fullHub m (s.path m).1 b.1 b.2

/-! ## Message layout (R35, R36, R41; Tables 2.2, 2.3, 2.8) -/

/-- Words that hold `n` bytes. -/
def wordsFor (n : Nat) : Nat := (n + 3) / 4

/-- CLASS, OPCODE and payload length of a message, in words; a response has those of its request, with a payload of its own. None for
a command that is no message of Table 2.8, and for one that several messages of one OPCODE carry. -/
def codeOf : Instr → Option (Nat × Nat × Nat)
  | .alarmLevel _ c _ _ => some (0, 1, if 16 ≤ c && c < 24 then 5 else 1)
  | .fence _ _ _ => some (1, 1, 1)
  | .fenceDone _ => some (1, 1, 1)
  | .tileReset _ _ => some (1, 2, 1)
  | .resetDone _ => some (1, 2, 1)
  | .stopSlot _ _ => some (1, 3, 2)
  | .stopReleaseMessage _ _ => some (1, 4, 2)
  | .throttleStage _ _ _ => some (1, 5, 3)
  | .throttleRequest _ _ => some (1, 6, 1)
  | .quarantine _ => some (1, 7, 1)
  | .screenRun _ _ _ _ _ => some (1, 8, 3)
  | .traceTrigger _ _ _ => some (1, 9, 3)
  | .repeatRead _ _ _ _ _ _ _ => some (1, 0xA, 2)
  | .stopRequest _ => some (1, 0xB, 1)
  | .takeover _ => some (1, 0xC, 1)
  | .stepBoundary _ _ _ _ _ => some (1, 0xD, 5)
  | .residueVerdict _ v _ => some (2, 0x20, if v.verdict = 2 || v.verdict = 3 then 8 else 4)
  | .plausVerdict _ _ => some (2, 0x21, 4)
  | .redundancy _ _ => some (2, 0x22, 4)
  | .stepDone _ _ => some (2, 0x23, 4)
  | .sealVerdict _ _ _ _ _ _ _ => some (2, 0x24, 6)
  | .ledger _ _ => some (2, 0x25, 8)
  | .contribution _ _ _ _ _ => some (2, 0x26, 4)
  | .finalKept _ _ _ _ _ _ => some (2, 0x27, 4)
  | .stepToken _ => some (2, 0x30, 8)
  | .peerRelease _ => some (2, 0x31, 8)
  | .timeLoad _ _ => some (3, 1, 2)
  | .timeCheck _ => some (3, 2, 0)
  | .edgeTick _ => some (3, 8, 0)
  | .hubWatch _ => some (3, 9, 3)
  | .read _ _ _ _ => some (4, 1, 1)
  | .write _ _ ws _ => some (4, 2, 1 + ws.length)
  | .dropCountRead _ _ => some (4, 1, 1)
  | .programWrite _ _ ws _ => some (4, 0x10, 1 + ws.length)
  | .programRead _ _ _ _ => some (4, 0x11, 1)
  | .controlResponse _ cls opcode _ _ empty => some (cls, opcode, if empty then 0 else 1)
  | .event e => some (5, 1, 1 + wordsFor (e.payload.length + (if e.merge.isSome then 1 else 0)))
  | .dropCount _ _ => some (5, 2, 1)
  | .summary _ _ => some (5, 0x20, 10)
  | .edgeChange _ _ _ => some (5, 0x50, 5)
  | .memoryError _ _ => some (5, 0x51, 5)
  | .runResult _ _ _ _ _ _ _ => some (5, 0x52, 3)
  | .heartbeat _ _ _ => some (7, 2, 3)
  | .audit _ _ => some (7, 3, 2)
  | .mramWrite _ _ bs => some (7, 5, 1 + wordsFor bs.length)
  | .pinState _ => some (7, 7, 1)
  | _ => none

/-- SOURCE and DEST of a message (Table 2.2): a sentinel's or hub's to the manager, a unit's to the hub or sentinel that takes it, the
root hub's to the hubs of its partition, else one manager's to the other. -/
def State.endsOf (s : State) (m : Instr) : Nat × Nat :=
  match toManagerOf m with
  | some (u, _) => (u, mgrAddr s.active)
  | none => match s.toHubOf m with
    | some (u, h, _) => (u, hubAddr h)
    | none => match s.toSiteOf m with
      | some (u, site, _) => (u, site)
      | none => match tokenOf m, m with
        | some p, _ => (hubAddr (s.rootHub p), groupAddr 0 0)
        | none, .heartbeat d _ _ => (mgrAddr (1 - d), mgrAddr d)
        | none, _ => (mgrAddr s.active, mgrAddr (1 - s.active))

/-- FLAGS of a message (Table 2.3): response, group destination, merged, and the level of an alarm. -/
def flagsOf : Instr → Nat
  | .alarmLevel _ _ raised _ => 8 * flag raised
  | .event e => 4 * flag e.merge.isSome
  | .summary _ x => 4 * flag (x.merge != 0)
  | .fenceDone _ | .resetDone _ | .controlResponse _ _ _ _ _ _ => 1
  | .stopSlot _ _ | .stopReleaseMessage _ _ | .throttleStage _ _ _ | .stepBoundary _ _ _ _ _ | .takeover _ | .timeLoad _ _
  | .timeCheck _ | .stepToken _ | .peerRelease _ | .traceTrigger _ _ _ | .edgeTick _ => 2
  | _ => 0

/-- TAG of an access and of a response (R41); a message that nobody answers by its TAG shows 0 (log entry 3). -/
def tagOf : Instr → Nat
  | .read _ _ _ t | .write _ _ _ t | .dropCountRead _ t | .programWrite _ _ _ t | .programRead _ _ _ t => t
  | .controlResponse _ _ _ t _ _ => t
  | _ => 0

/-- The header of a message. -/
def State.headerOf (s : State) (m : Instr) : Header :=
  let k := (codeOf m).getD (8, 0, 14)
  { cls := k.1, opcode := k.2.1, len := k.2.2, flags := flagsOf m, source := (s.endsOf m).1, dest := (s.endsOf m).2, tag := tagOf m }

/-- The first eight bytes of a message. -/
def Header.bytes (x : Header) : List Byte :=
  le 1 (x.cls + 16 * x.len) ++ le 1 x.flags ++ le 2 x.source ++ le 2 x.dest ++ le 1 x.tag ++ le 1 x.opcode

/-- A message has 2 to 16 words. -/
def Header.fits (x : Header) : Bool := x.len ≤ 14

/-! ## Waiting (R43 to R45) -/

/-- The single-entry register of a sentinel that a message leaves by (R45): alarm, control, verdict and time. -/
def State.registerOf (s : State) (m : Instr) : Option (Nat × Nat) :=
  match toManagerOf m with
  | some (unit, cls) => if unit < 0x4000 && cls ≤ 3 then some (unit, cls) else none
  | none => match s.toHubOf m with
    | some (unit, _, cls) => if unit < 0x4000 && cls ≤ 3 then some (unit, cls) else none
    | none => none

/-- A message in flight occupies the register by which an item has to leave (R45). -/
def State.registerTaken (s : State) (m : Instr) : Bool :=
  match s.registerOf m with
  | none => false
  | some k => s.sent.any fun x => s.registerOf x == some k

/-- An earlier message occupies the register that a message has to leave by. -/
def State.behind (s : State) (m : Instr) : Bool :=
  match s.registerOf m with
  | none => false
  | some k => s.sent.contains m && (s.sent.takeWhile (· != m)).any fun x => s.registerOf x == some k

/-- A message that reaches its receiver: a route is open, its register has let it go and every hub on the way has a buffer. -/
def State.arrives (s : State) (m : Instr) : Bool :=
  (s.path m).2.isSome && !s.behind m && (s.firstFull m).isNone

/-- A message that has arrived: it is in flight no longer, its buffers are free, and every hub on its way has counted it (R449;
log entry 81). -/
def receive (m : Instr) (s : State) : State :=
  let x := s.path m
  each (x.2.getD []) (fun h s => countHub h x.1 1 (modHub h (fun y => { y with pool := y.pool.filter fun w => w.msg != m }) s))
    (setSent (s.sent.erase m) s)

/-- A message waits on the link to a hub that has no buffer for it; the delayed acknowledge is counted (R44, R449). -/
def holdBack (m : Instr) (s : State) : State :=
  match s.firstFull m with
  | some (h, c) =>
    if s.behind m || (s.hubOf h).linkWait.any (fun w => w.msg == m) then s
    else countHub h 8 1 (modHub h (fun y => { y with linkWait := y.linkWait ++ [{ channel := c, cls := (s.path m).1, header := s.headerOf m, msg := m }] })
      (setSent (s.sent.erase m) s))
  | none => s

/-- The arrival of a message: what it does where it arrives; else it waits (R34, R44, R45). -/
def arrive (m : Instr) (f : State → State) (s : State) : Result :=
  if s.arrives m then .next (f (receive m s)) else .next (holdBack m s)

/-- Report items and messages of a sentinel: its site and the item's code (R45, R67); an SRAM report's is its syndrome class. -/
def reportKey : Instr → Option (Nat × Nat)
  | .event e => if e.source < 0x4000 then some (e.source, e.code) else none
  | .summary site _ => some (site, 0x20)
  | .runResult site _ _ _ _ _ _ => some (site, 0x52)
  | .sramErrorReport site corrected _ _ _ => some (site, 0x10000 + flag corrected)
  | _ => none

/-- Report messages of a sentinel that wait to be taken (R45: 4 slots). -/
def State.reportsOf (s : State) (site : Nat) : List Instr :=
  s.sent.filter fun m => match reportKey m with
    | some k => k.1 == site
    | none => false

/-- A report message that `n` more of the same code merged into (R45, R169); a RUN_RESULT's layout has no merge count (log entry 117). -/
def mergeReport : Instr → Nat → Instr
  | .event e, n => .event { e with merge := some (min 255 (e.merge.getD 1 + n)) }
  | .summary site x, n => .summary site { x with merge := min 255 (max 1 x.merge + n) }
  | m, _ => m

/-- How many events a report message stands for (R71). -/
def reportCount : Instr → Nat
  | .event e => e.merge.getD 1
  | .summary _ x => max 1 x.merge
  | _ => 1

/-- The newest waiting message with a key, merged. -/
def mergeInto (key : Nat × Nat) (n : Nat) : List Instr → Option (List Instr)
  | [] => none
  | m :: ms =>
    match mergeInto key n ms with
    | some ms' => some (m :: ms')
    | none => if reportKey m = some key then some (mergeReport m n :: ms) else none

/-- Drops not yet reported leave with the next report message (R45). -/
def reportDrops (site : Nat) (s : State) : State :=
  let n := (s.senOf site).dropUnsent
  if n = 0 then s
  else send (.dropCount site n) (modSen site (fun x => { x with dropUnsent := 0 }) s)

/-- Reset value of a SEN.OBS register (Table 18.6). -/
def obsReset (off : Nat) : Nat := if off = 0x200 then 0xFF8 else 0

/-- A SEN.OBS register as the back holds it, and as the front runs by it (R79, R447). -/
def Sentinel.obsBack (x : Sentinel) (off : Nat) : Nat := Sparse.get (obsReset off) x.obs off
def Sentinel.obsOf (x : Sentinel) (off : Nat) : Nat := Sparse.get (obsReset off) x.obsFront off

/-- Counters 16 to 31 whose selected event is `code` advance by n (Tables 18.9 and 18.10). -/
def selectedEvent (code n : Nat) (x : Sentinel) : Sentinel :=
  { x with counters := (List.range 16).foldl (fun m k =>
      if bitsOf (8 * (k % 4)) 8 (x.obsOf (0x260 + 4 * (k / 4))) = code then
        Sparse.upd 0 m (16 + k) fun v => (v + n) % 2 ^ 32 else m) x.counters }

/-- A sentinel sends a report-class message through its four outbound slots (R45). -/
def senReport (site : Nat) (m : Instr) (s : State) : State :=
  if (s.reportsOf site).length < 4 then send m (reportDrops site s)
  else match (reportKey m).bind fun k => mergeInto k (reportCount m) s.sent with
    | some sent => setSent sent s
    | none => modSen site (fun x =>
        { x with dropCount := satAdd 65535 x.dropCount 1, dropUnsent := satAdd (2 ^ 32 - 1) x.dropUnsent 1 }) (modSen site (selectedEvent 14 1) s)

/-- A sentinel sends an event (R412). -/
def senEvent (site code : Nat) (payload : List Byte) (s : State) : State :=
  senReport site (.event { code := code, source := site, payload := payload }) s

/-- A hub sends an event toward the active manager. -/
def hubEvent (h code : Nat) (payload : List Byte) (s : State) : State :=
  send (.event { code := code, source := hubAddr h, payload := payload }) s

/-! ## Standby, journal, MRAM (R26, R263, R518) -/

/-- The die that is not active. -/
def State.other (s : State) : Nat := 1 - s.active

/-- A manager in hot standby. -/
def State.standby (s : State) : Bool := (s.mgr s.other).standby && (s.mgr s.other).running

/-- A decision goes into the journal and to the standby (R26). -/
def journalize (kind object trigger before after aux : Nat) (s : State) : State :=
  let n := s.journalSeq + 1
  let e : JournalEntry :=
    { sequence := n, kind := kind, object := object, trigger := trigger, before := before, after := after, aux := aux }
  let s := setJournalSeq n (setJournal (s.journal ++ [e]) s)
  if s.standby then send (.journalEntry e) s else s

/-- Bytes written into one MRAM. -/
def mramPut (die off : Nat) (bs : List Byte) (s : State) : State :=
  if !(s.mgr die).mramOk then s
  else if die = 0 then setMramA (Memory.write 0 s.mramA off bs) s
  else setMramB (Memory.write 0 s.mramB off bs) s

/-- Bytes written into both MRAMs, the active die's first, the other by journal-class messages of at most 52 bytes each (R36, R263,
R518). -/
def mramBoth (off : Nat) (bs : List Byte) (s : State) : State :=
  let s := mramPut s.active off bs s
  if (s.mgr s.other).running then
    sendAll ((chunks 52 ((bs.length + 51) / 52) bs).zipIdx.map fun x => .mramWrite s.other (off + 52 * x.2) x.1) s
  else s

end Sys2Proof.Machine
end

