-- ==== Sys2Proof/Machine/Flags.lean ====
section
/-!
DEFINITION. Alert and fatal bits of the ALT block, their level conditions and the three pins (R485 to R487, R522;
Tables 20.4 to 20.6).
-/
namespace Sys2Proof.Machine

/-- Bytes a list of records takes in a queue (R428). -/
def queueBytes (q : List Queued) : Nat := (q.map fun x => 16 + x.r.payload.length).sum

/-- EVR.STATUS.OVERLOAD: the intake queue refuses tier-1 records (Table 17.10, R430). -/
def Recorder.overload (r : Recorder) : Bool := 131072 ≤ queueBytes r.intake

/-- Sites of a sector in SPARE_FREE (R266). -/
def State.freeSpares (s : State) (sector : Nat) : Nat :=
  (s.health.filter fun x => x.1 / 168 == sector && x.2.state == 1).length

/-- ALT.LEVEL (Table 20.4). -/
def State.altLevel (s : State) : Nat :=
  4 * flag ((List.range 16).any fun p => (s.partOf p).state == 7) +
  8 * flag (5 ≤ s.boot.step && s.sectors.any fun x =>
      s.freeSpares x < s.image.policy.sparesLowLevel || s.boot.short.contains x) +
  16 * flag ((List.range 96).any fun n => (s.sensorOf n).state == 1) +
  32 * flag (s.net.any (fun x => x.2 == 3) || !s.links.isEmpty) +
  64 * flag (s.recorder.mirrorDegraded || s.recorder.overload)

/-- PINS of PIN_STATE: alert, fault, thermal trip (R487, R522). -/
def State.pins (s : State) : Nat :=
  flag (s.win.altStatus &&& (0xFFFFFFFF ^^^ s.win.altMask) != 0 || s.win.altFatal != 0) +
  2 * flag (s.win.altFatal % 4 != 0) + 4 * flag (bitOf 0 s.win.altFatal)

/-- Pins driven by a die. -/
def Port.drive (p : Port) (pins : Nat) : Port := { p with alertN := bitOf 0 pins, faultN := bitOf 1 pins, tripN := bitOf 2 pins }

/-- PINS as a port shows them. -/
def Port.shown (p : Port) : Nat := flag p.alertN + 2 * flag p.faultN + 4 * flag p.tripN

/-- The active manager's pins follow the ALT block and the change goes to the standby manager (R487, R522). -/
def syncPins (s : State) : State :=
  let pins := s.pins
  if (s.port s.active).shown = pins then s
  else
    let s := modPort s.active (fun p => p.drive pins) s
    if (s.mgr s.other).running then send (.pinState pins) s else s

/-- An occurrence of an ALT.STATUS bit (R486). -/
def raiseAlert (n : Nat) (s : State) : State :=
  syncPins (modWin (fun w => { w with altStatus := w.altStatus ||| 2 ^ n, raises := (w.raises + 1) % 65536
                                      altAt := Sparse.set 0 w.altAt n (s.ticks + 1) }) s)

/-- A fatal bit is latched (Table 20.5). -/
def raiseFatal (n : Nat) (s : State) : State := syncPins (modWin (fun w => { w with altFatal := w.altFatal ||| 2 ^ n }) s)

/-- The recorder alert rises with MIRROR_DEGRADED or OVERLOAD (Table 20.4). -/
def recorderAlert (was : Recorder) (s : State) : State :=
  if (s.recorder.mirrorDegraded && !was.mirrorDegraded) || (s.recorder.overload && !was.overload) then raiseAlert 6 s else s

end Sys2Proof.Machine
end

