-- ==== Sys2Proof/Machine/Recorder.lean ====
section
/-!
DEFINITION. The event recorder's operations (R412 to R436): acceptance with rate limits, overload and freeze, the ring
in MRAM, thaw and drop summaries.
-/
namespace Sys2Proof.Machine

/-! ## Codes (Tables 17.3, 17.4) -/

/-- Codes in use, as ranges. -/
def codeRanges : List (Nat × Nat) :=
  [(0x0001, 0x0006), (0x0030, 0x0030), (0x1001, 0x1008), (0x1010, 0x1013), (0x1020, 0x1025), (0x1030, 0x1033)] ++
  [(0x1038, 0x103A), (0x1040, 0x1042), (0x1050, 0x1056), (0x2001, 0x2004), (0x2010, 0x2010), (0x3001, 0x3005)] ++
  [(0x4001, 0x4007), (0x5001, 0x500A), (0x5010, 0x5010), (0x6001, 0x6007), (0x7001, 0x700D), (0x8001, 0x8003)] ++
  [(0x9001, 0x9007), (0xA001, 0xA005), (0xB001, 0xB006), (0xF001, 0xF001)]

/-- A code that is not reserved (R416). -/
def codeKnown (c : Nat) : Bool := codeRanges.any fun r => r.1 ≤ c && c ≤ r.2

/-- A protected code (R417). -/
def codeProtected (c : Nat) : Bool :=
  (0xF000 ≤ c && c ≤ 0xFFFF) || (1 ≤ c && c ≤ 4) || c == 6 || (0x1050 ≤ c && c ≤ 0x1052) || c == 0x1056 || c == 0x3001 ||
    c == 0x3003 || c == 0x4004 || (0x5001 ≤ c && c ≤ 0x500A) || c == 0x6004 || (0x7001 ≤ c && c ≤ 0x700D) ||
    c == 0x8002 || c == 0x9003 || c == 0x9006 || c == 0x9007

/-- Tier of a class: 1 or 2 (Table 17.3). -/
def codeTier (c : Nat) : Nat := if c / 4096 = 0 || c / 4096 = 0xB then 1 else 2

/-- RATE and BURST of a code (R425, R401). -/
def State.rate (s : State) (c : Nat) : Nat × Nat :=
  match s.image.rates.find? fun x => x.1 = c with
  | some x => x.2
  | none => match s.image.rates.find? fun x => x.1 = 0xFFFF with
    | some x => x.2
    | none => (100, 1000)

/-! ## Records -/

/-- The bytes of a record (R412, R413). -/
def recordBytes (r : Rec) : List Byte :=
  le 2 r.code ++ le 1 (r.payload.length / 4) ++
    le 1 (flag r.merged + 2 * flag r.summary + 4 * flag r.mirrored + 8 * flag r.host) ++ le 4 r.powerCycle ++
    le 6 r.optime ++ le 2 r.source ++ r.payload

/-- A record is protected (R417: its code, or a suppression summary). -/
def recProtected (r : Rec) : Bool := r.summary || codeProtected r.code

/-- First drop counted since the last summary (Table 17.5). -/
def noteDrop (ms : Nat) (r : Recorder) : Recorder :=
  { r with firstDrop := match r.firstDrop with
      | some t => some t
      | none => some ms }

/-- Ring size (Table 17.7). -/
def ringBase : Nat := 0x2000
def ringSize : Nat := 7331840

/-- Ring control of 64 bytes (Table 17.8). -/
def ringCtlBytes (c : RingCtl) : List Byte :=
  withCheck (le 8 c.first ++ le 8 c.next ++ le 4 c.firstOff ++ le 4 c.nextOff ++ le 4 c.powerFailDrops ++
    le 4 c.overwritten ++ List.replicate 24 0 ++ le 4 c.writes)

/-- Ring control from 64 bytes. -/
def ringCtlOf (bs : List Byte) : RingCtl :=
  { first := field bs 0 8, next := field bs 8 8, firstOff := field bs 16 4, nextOff := field bs 20 4
    powerFailDrops := field bs 24 4, overwritten := field bs 28 4, writes := field bs 56 4 }

/-- The valid copy of two, the later by its write counter (R263, R421). -/
def laterCopy (a b : List Byte) (w : Nat) : Option (List Byte) :=
  if checkOk a && checkOk b then some (if later32 (field b w 4) (field a w 4) then b else a)
  else if checkOk a then some a else if checkOk b then some b else none

/-- Where the next ring control goes: over the copy that does not hold the latest valid control (R421). -/
def ringCtlSlot (m : Memory) : Nat :=
  let a := Memory.bytes 0 m 0 64
  let b := Memory.bytes 0 m 0x1000 64
  if checkOk a && (!checkOk b || !later32 (field b 56 4) (field a 56 4)) then 0x1000 else 0

/-- Bytes written at a ring offset, wrapping at the end of RING (R421). -/
def ringPut (m : Memory) (off : Nat) (bs : List Byte) : Memory :=
  let room := ringSize - off
  Memory.write 0 (Memory.write 0 m (ringBase + off) (bs.take room)) ringBase (bs.drop room)

/-- Bytes read from a ring offset. -/
def ringGet (m : Memory) (off n : Nat) : List Byte :=
  let room := min n (ringSize - off)
  Memory.bytes 0 m (ringBase + off) room ++ Memory.bytes 0 m ringBase (n - room)

/-- Bytes in use. -/
def ringUsed (c : RingCtl) : Nat :=
  if c.first = c.next then 0
  else if c.firstOff < c.nextOff then c.nextOff - c.firstOff else ringSize - c.firstOff + c.nextOff

/-- Length of the record at an offset. -/
def ringLen (m : Memory) (off : Nat) : Nat := 16 + 4 * field (ringGet m off 4) 2 1

/-- FIRST advanced past as many oldest records as `need` bytes take (R421); fuel counts records. -/
def ringFree : Nat → Memory → RingCtl → Nat → RingCtl
  | 0, _, c, _ => c
  | n + 1, m, c, need =>
    if c.first < c.next && ringSize < ringUsed c + need then
      ringFree n m { c with first := c.first + 1, firstOff := (c.firstOff + ringLen m c.firstOff) % ringSize
                            overwritten := satAdd (2 ^ 32 - 1) c.overwritten 1 } need
    else c

/-- A batch of record bytes written with its control copy (R421). -/
def ringBatch (m : Memory) (c : RingCtl) (rs : List (List Byte)) : Memory × RingCtl :=
  let bs := rs.flatten
  let c := ringFree (c.next - c.first) m c bs.length
  let m := ringPut m c.nextOff bs
  let c := { c with next := c.next + rs.length, nextOff := (c.nextOff + bs.length) % ringSize
                    writes := (c.writes + 1) % 2 ^ 32 }
  (Memory.write 0 m (ringCtlSlot m) (ringCtlBytes c), c)

/-- Ring control written alone. -/
def ringCtlPut (m : Memory) (c : RingCtl) : Memory × RingCtl :=
  let c := { c with writes := (c.writes + 1) % 2 ^ 32 }
  (Memory.write 0 m (ringCtlSlot m) (ringCtlBytes c), c)

/-- Records taken from the intake queue into one batch: in index order, at most `count` and 32 KiB, none whose mirror
answer is still open (R421, R422). -/
def batchTake : Nat → Nat → List Queued → List Queued
  | 0, _, _ => []
  | _, _, [] => []
  | n + 1, used, q :: qs =>
    if q.mirror = 0 || 32768 < used + 16 + q.r.payload.length then []
    else q :: batchTake n (used + 16 + q.r.payload.length) qs

/-- Records as they stand in the ring: MIRRORED as the standby confirmed (R422). -/
def ringRecord (q : Queued) : List Byte := recordBytes { q.r with mirrored := q.mirror == 1 }

/-- Queued records written into the active die's ring. -/
def ringWrite (qs : List Queued) (s : State) : State :=
  let b := if (s.mgr s.active).mramOk then ringBatch (s.mram s.active) s.recorder.ring (qs.map ringRecord)
    else (s.mram s.active, s.recorder.ring)
  let s := if s.active = 0 then setMramA b.1 s else setMramB b.1 s
  modRec (fun r => { r with ring := b.2 }) s

/-- Cut into batches of at most 32 KiB. -/
def ringWriteAll : Nat → List Queued → State → State
  | 0, _, s => s
  | n + 1, qs, s =>
    match qs with
    | [] => s
    | _ :: _ =>
      let b := batchTake qs.length 0 (qs.map fun q => { q with mirror := if q.mirror = 1 then 1 else 2 })
      if b.isEmpty then s else ringWriteAll n (qs.drop b.length) (ringWrite b s)

/-- The standby writes records into its own ring. -/
def mirrorWrite (qs : List Queued) (s : State) : State :=
  let b := ringBatch (s.mram s.other) s.recorder.mirrorRing (qs.map ringRecord)
  let s := if s.active = 0 then setMramB b.1 s else setMramA b.1 s
  modRec (fun r => { r with mirrorRing := b.2 }) s

/-! ## Acceptance -/

/-- An event as it comes to the recorder. -/
structure Happening where
  code : Nat := 0
  source : Nat := 0
  payload : List Byte := []
  merge : Option Nat := none
  host : Bool := false
  summary : Bool := false
  deriving DecidableEq, Repr

/-- Header and payload of an accepted event (R413, R414, R418). -/
def recordOf (e : Happening) (cycles ms : Nat) : Rec :=
  { code := e.code, merged := e.merge.isSome, summary := e.summary, host := e.host, powerCycle := cycles, optime := ms
    source := e.source, payload := pad4 e.payload ++ (match e.merge with
      | some n => le 4 n
      | none => []) }

/-- A record takes its index, and goes to the standby (R414, R422). -/
def acceptInto (staging : Bool) (r : Rec) (s : State) : State :=
  let was := s.recorder
  let q : Queued := { index := s.recorder.nextIndex, mirror := if s.standby then 0 else 2, r := r }
  let s := modRec (fun x => { x with
    nextIndex := x.nextIndex + 1, lastMs := r.optime
    mirrorDegraded := x.mirrorDegraded || (!s.standby && s.image.grade != 2)
    intake := if staging then x.intake else x.intake ++ [q]
    staging := if staging then x.staging ++ [q] else x.staging }) s
  let s := recorderAlert was s
  if s.standby then send (.recordMirror q.index r) s else s

/-- The event that a suppressed one counts toward (R426). -/
def suppress (e : Happening) (r : Recorder) : Recorder :=
  let n := match e.merge with | some k => k | none => 0
  let hit := r.sup.any fun x => x.code = e.code
  { r with
    suppressed := satAdd (2 ^ 32 - 1) r.suppressed 1
    sup := if hit then r.sup.map fun x => if x.code = e.code then
        { x with count := satAdd (2 ^ 32 - 1) x.count 1, mergeSum := satAdd (2 ^ 32 - 1) x.mergeSum n
                 lastSource := e.source } else x
      else r.sup ++ [{ code := e.code, firstSource := e.source, count := 1, mergeSum := n, lastSource := e.source }] }

/-- Outcome of offering a record to the queues (R430, R434). -/
inductive Offer where
  | taken | refused | full | thaw
  deriving DecidableEq, Repr

/-- Where an event goes (R430, R434). -/
def offerOf (r : Recorder) (prot : Bool) (tier size : Nat) : Offer :=
  if r.frozen then
    if queueBytes r.staging + size ≤ 65536 then .taken else if prot then .thaw else .refused
  else
    let held := queueBytes r.intake
    if 262144 < held + size then .full
    else if prot then .taken
    else if tier = 1 && 131072 ≤ held then .refused
    else if tier = 2 && 229376 ≤ held then .refused
    else .taken

/-- OPERATING_TIME of a record: never less than the last one's (R414, R418). -/
def State.recordMs (s : State) : Nat := max s.recorder.lastMs s.ms % 2 ^ 48

/-- LOG_THAWED's payload (Table 17.5). -/
def thawedPayload (staged overflow cause ms : Nat) : List Byte := le 4 staged ++ le 4 overflow ++ le 1 cause ++ le 3 0 ++ le 4 ms

/-- DROP_SUMMARY's payload (Table 17.5). -/
def dropPayload (r : Recorder) : List Byte :=
  le 4 (min r.dropT1 (2 ^ 32 - 1)) ++ le 4 (min r.dropT2 (2 ^ 32 - 1)) ++ le 4 (min r.dropStaging (2 ^ 32 - 1)) ++
    le 4 (min r.dropPath (2 ^ 32 - 1)) ++ le 4 (min r.dropPower (2 ^ 32 - 1)) ++ le 6 (r.firstDrop.getD 0) ++ le 2 0

/-- A protected record that the manager itself writes after a freeze or an overload. -/
def acceptPlain (code : Nat) (payload : List Byte) (s : State) : State :=
  acceptInto s.recorder.frozen
    (recordOf { code := code, source := mgrAddr s.active, payload := payload } s.cycles s.recordMs) s

/-- DROP_SUMMARY, with the counts since the previous one (R431). -/
def dropSummary (s : State) : State :=
  let s' := acceptPlain 0x0002 (dropPayload s.recorder) s
  modRec (fun r => { r with dropT1 := 0, dropT2 := 0, dropStaging := 0, dropPath := 0, dropPower := 0, firstDrop := none
                            refused := false }) s'

/-- The end of a freeze (R434): staged records go to the ring behind those of the intake queue, LOG_THAWED follows,
then the drop summary after an overflow. -/
def thaw (cause : Nat) (s : State) : State :=
  if !s.recorder.frozen then s
  else
    let staged := s.recorder.staging.length
    let drops := s.recorder.stageDrops
    let full := s.recorder.stageOverflow
    let ms := s.recordMs - s.recorder.frozenAt
    let qs := s.recorder.intake ++ s.recorder.staging
    let copies := s.recorder.mirrorStaging
    let s := if copies.isEmpty then s else mirrorWrite copies (modRec (fun r => { r with mirrorStaging := [] }) s)
    let s := modRec (fun r => { r with frozen := false, staging := [], intake := [], stageDrops := 0
                                       stageOverflow := false, frozenAt := 0 }) s
    let s := acceptPlain 0x0004 (thawedPayload staged drops cause (ms % 2 ^ 32)) (ringWriteAll qs.length qs s)
    if full || s.recorder.refused then dropSummary s else s

/-- A site in WATCH or SUSPECT, by state or by CONDITION (R249). -/
def SiteRec.suspected (r : SiteRec) : Bool := r.condition != 0 && (r.state == 1 || r.state == 2 || r.state == 3 || r.state == 4 || r.state == 5 || r.state == 8)

/-- A suspicion of a site in the open step of its partition (R186), kept once per step and reason bit. -/
def noteReason (site bit : Nat) (s : State) : State :=
  let p := s.sitePart site
  if s.hasJob p then
    modPart p (fun x => { x with loss := { x.loss with
      reasons := if x.loss.reasons.contains (site, x.step, bit) then x.loss.reasons else x.loss.reasons ++ [(site, x.step, bit)] } }) s
  else s

/-- The recorder takes an event (R414 to R417, R425, R430, R434, R436); a check event of a site is a suspicion (R186), but for
PLAUS_WATCH and PLAUS_ESCALATE, whose action has its own reason bit (log entry 118). -/
def accept (e : Happening) (s : State) : State :=
  let s := if e.code / 4096 = 1 && e.code != 0x1031 && e.code != 0x1032 && e.source < 0x4000 then noteReason e.source 1 s else s
  let prot := e.summary || codeProtected e.code
  let tier := codeTier e.code
  let r := recordOf e s.cycles s.recordMs
  let size := 16 + r.payload.length
  if !s.recorder.running then
    modBoot (fun b => { b with notes := b.notes ++ [{ code := e.code, source := e.source, payload := e.payload, merge := e.merge }] }) s
  else if !codeKnown e.code || (s.recorder.powerFail && !prot) then s
  else if !prot && (s.rate e.code).2 ≤ Sparse.get 0 s.recorder.taken e.code then modRec (suppress e) s
  else
    match offerOf s.recorder prot tier size with
    | .full =>
      modRec (fun x => { x with waiting := x.waiting ++
        [{ code := e.code, source := e.source, payload := e.payload, merge := e.merge }] }) s
    | .refused =>
      modRec (fun x =>
        let x := noteDrop s.recordMs (if prot then x else { x with taken := bump x.taken e.code 1 })
        if x.frozen then { x with stageOverflow := true, stageDrops := satAdd (2 ^ 32 - 1) x.stageDrops 1
                                  dropStaging := x.dropStaging + 1 }
        else { x with intakeDrops := satAdd (2 ^ 32 - 1) x.intakeDrops 1, refused := true
                      dropT1 := x.dropT1 + (if tier = 1 then 1 else 0)
                      dropT2 := x.dropT2 + (if tier = 2 then 1 else 0) }) s
    | .thaw => acceptInto false r (thaw 2 s)
    | .taken =>
      acceptInto s.recorder.frozen r
        (if prot then s else modRec (fun x => { x with taken := bump x.taken e.code 1 }) s)

/-- An event of manager firmware, with a source unit (R414, R415). -/
def recordFrom (source code : Nat) (payload : List Byte) (s : State) : State :=
  accept { code := code, source := source, payload := payload } s

/-- An event whose source is the manager. -/
def record (code : Nat) (payload : List Byte) (s : State) : State := recordFrom (mgrAddr s.active) code payload s

/-- The intake queue has fallen below 64 KiB after a refusal (R431). -/
def drained (s : State) : State :=
  if s.recorder.refused && !s.recorder.frozen && queueBytes s.recorder.intake < 65536 then dropSummary s else s

/-- Events that waited for space are taken while there is some (R430). -/
def acceptWaiting : Nat → State → State
  | 0, s => s
  | n + 1, s =>
    match s.recorder.waiting with
    | [] => s
    | e :: es =>
      if offerOf s.recorder (codeProtected e.code) (codeTier e.code) (16 + (pad4 e.payload).length + 4) = .full then s
      else acceptWaiting n (accept { code := e.code, source := e.source, payload := e.payload, merge := e.merge }
        (modRec (fun r => { r with waiting := es }) s))

/-- Records as the standby's answer finds them: mirrored (1) or written unmirrored (2). -/
def setMirror (index st : Nat) (q : Queued) : Queued :=
  if q.index = index && q.mirror = 0 then { q with mirror := st } else q

/-- A calendar mark (R419). -/
def calendarMark (cause previous : Nat) (s : State) : State :=
  let i := s.island s.active
  record 0x0001 (calBytes (i.calNow s.ticks) ++ le 8 s.ras.toNat ++ le 1 cause ++ le 1 (flag i.calValid) ++ le 2 0 ++
    calBytes previous) s

end Sys2Proof.Machine
end

