-- ==== Sys2Proof/Machine/Operands.lean ====
section
/-!
DEFINITION. Commands of the mailbox: their table (opcode, privilege, lengths, object), the operands of an accepted
command, and its completion (R490 to R498, R508, R509; Tables 20.8 to 20.16).
-/
namespace Sys2Proof.Machine

/-- A row of Tables 20.10, 20.11, 20.13 and 20.15. -/
structure CmdInfo where
  op : Nat := 0
  /-- privilege: 0 Tenant, 1 Operator, 2 Service -/
  priv : Nat := 1
  /-- bytes of inline arguments -/
  len : Nat := 0
  /-- the response is marked bulk -/
  bulkRsp : Bool := false
  /-- bring-up step from which it is accepted (Table 16.2) -/
  since : Nat := 8
  /-- accepted in recovery mode (R383) -/
  rescue : Bool := false
  deriving DecidableEq, Repr

/-- The command tables. -/
def cmdTable : List CmdInfo :=
  [{ op := 0x0001, priv := 0, since := 2, rescue := true }, { op := 0x0002, priv := 0, since := 2, rescue := true },
   { op := 0x0010, since := 2, rescue := true }, { op := 0x0011, since := 2, rescue := true },
   { op := 0x0012, priv := 2, since := 2, rescue := true }, { op := 0x0013, since := 2, rescue := true },
   { op := 0x0020, len := 8, since := 2 }, { op := 0x0100, priv := 0, len := 4, bulkRsp := true, since := 6 }] ++
  [{ op := 0x0101, len := 4 }, { op := 0x0102, len := 4 }, { op := 0x0103, len := 4 },
   { op := 0x0104, len := 12, bulkRsp := true, since := 2 }, { op := 0x0105, len := 4 }, { op := 0x0402, len := 4 }] ++
  [{ op := 0x0200, len := 4 }, { op := 0x0201, len := 4 }, { op := 0x0202, len := 4 }, { op := 0x0203, len := 4 },
   { op := 0x0204, len := 4 }, { op := 0x0300 }, { op := 0x0301, len := 4 },
   { op := 0x0302, priv := 0, len := 12, bulkRsp := true }, { op := 0x0303, priv := 0, len := 12, bulkRsp := true }] ++
  [{ op := 0x0400, len := 4 }, { op := 0x0401, priv := 0, bulkRsp := true, since := 6 }, { op := 0x0500, len := 8 },
   { op := 0x0501 }, { op := 0x0502 }, { op := 0x0503, len := 16 }, { op := 0x0504, priv := 0, len := 24 },
   { op := 0x0505, priv := 0, len := 16 }, { op := 0x0506, priv := 0, len := 24 }] ++
  [{ op := 0x0507, priv := 0, len := 4 }, { op := 0x0508, len := 8, bulkRsp := true }, { op := 0x0600, len := 4 },
   { op := 0x0601, priv := 2, len := 4 }, { op := 0x0700, priv := 2, len := 4, rescue := true },
   { op := 0x0701, priv := 2, len := 4, rescue := true }, { op := 0x0702, priv := 2 }] ++
  [{ op := 0x0800, priv := 0, len := 20 }, { op := 0x0900, priv := 0, len := 4 }, { op := 0x0F00 }]

/-- The row of an opcode. -/
def cmdInfo (op : Nat) : Option CmdInfo := cmdTable.find? fun x => x.op = op

/-- An argument field of a command. -/
def Cmd.arg (c : Cmd) (off w : Nat) : Nat := field c.args off w

/-- A field of its bulk argument. -/
def Cmd.barg (c : Cmd) (off w : Nat) : Nat := field c.bulk off w

/-- INLINE_LEN and BULK_LEN equal the lengths of the command's layout (R494, R498). -/
def Cmd.lengthsOk (c : Cmd) : Bool :=
  match cmdInfo c.op with
  | none => false
  | some i =>
    c.args.length == i.len &&
    (if c.op = 0x0013 then c.bulk.length ≤ 232 && c.bulk.length % 4 == 0
     else if c.op = 0x0300 then 144 ≤ c.bulk.length && c.bulk.length == 144 + 16 * c.barg 143 1
     else if c.op = 0x0700 then true
     else if c.op = 0x0900 then c.bulk.length == 4096
     else c.bulk.isEmpty)

/-- Partition that the command names (R492, R494), 0xFF none. -/
def Cmd.partition (c : Cmd) : Nat :=
  if c.op = 0x0300 then c.barg 0 1
  else if [0x0200, 0x0201, 0x0202, 0x0203, 0x0204, 0x0301, 0x0302, 0x0303, 0x0504, 0x0505, 0x0506, 0x0507, 0x0508,
      0x0800, 0x0900].contains c.op then c.arg 0 1
  else 0xFF

/-- The object the command names for R492: kind (0 partition, 1 site, 2 sensor, 3 link or memory channel, 4 the common
wafer object) and number. -/
def Cmd.object (c : Cmd) : Option (Nat × Nat) :=
  if c.partition != 0xFF then some (0, c.partition)
  else if [0x0101, 0x0102, 0x0103, 0x0105, 0x0402].contains c.op then some (1, c.arg 0 2)
  else if c.op = 0x0601 then some (2, c.arg 0 1)
  else if c.op = 0x0400 then some (3, 256 * c.arg 0 1 + c.arg 1 1)
  else if [0x0500, 0x0501, 0x0502, 0x0503, 0x0700, 0x0701, 0x0702, 0x0010, 0x0011, 0x0012, 0x0013, 0x0F00].contains c.op then
    some (4, 0)
  else none

/-- Privilege the command needs: its table's column, and Operator for the STOP bit of TRACE_CONFIGURE (R466). -/
def Cmd.needs (c : Cmd) : Nat :=
  match cmdInfo c.op with
  | none => 0
  | some i =>
    if c.op = 0x0504 && bitOf 14 (c.arg 4 4) then 1
    else if c.op = 0x0102 && bitOf 0 (c.arg 2 1) then 2
    else i.priv

/-- The privilege check of a command (R485, R494): too low a level, or another tenant's partition. -/
def Cmd.denied (c : Cmd) : Bool :=
  c.priv.level < c.needs || (c.priv.level == 0 && c.partition != 0xFF && c.partition != c.priv.tenant)

/-- The command with a SEQUENCE. -/
def State.cmd (s : State) (seq : Nat) : Option Cmd := s.win.cmds.find? fun c => c.seq = seq

/-- The begun command of an opcode that has not completed. -/
def State.begun (s : State) (seq op : Nat) : Option Cmd :=
  s.win.cmds.find? fun c => c.seq = seq && c.op = op && c.began && !c.done

/-- The commands with one of them changed. -/
def modCmd (seq : Nat) (f : Cmd → Cmd) (s : State) : State :=
  modWin (fun w => { w with cmds := w.cmds.map fun c => if c.seq = seq then f c else c }) s

/-- Header of an out-of-band message (Table 20.16). -/
def oobHeader (kind status op : Nat) (tag : Word) (seq inl bulk : Nat) : List Byte :=
  le 1 kind ++ le 1 status ++ le 2 op ++ le 4 tag.toNat ++ le 4 seq ++ le 2 inl ++ le 2 bulk

/-- An out-of-band completion message (R508, R509). -/
def oobCompletion (c : Completion) (op : Nat) : List Byte :=
  (if c.bulk then oobHeader 2 c.status op c.tag c.seq 0 c.rsp.length
   else oobHeader 2 c.status op c.tag c.seq c.rsp.length 0) ++ c.rsp

/-- The next completion of a channel is posted when its registers are free (R493); channel 1 sends it on the port that
received the request (R509). -/
def postNext (ch : Nat) (s : State) : State :=
  let x := s.channelOf ch
  match x.waiting with
  | [] => s
  | c :: cs =>
    if x.cplValid then s
    else
      let s := modChannel ch (fun x =>
        { x with waiting := cs, cplValid := true, cplTag := c.tag, cplSeq := c.seq, cplStatus := c.status
                 cplBulk := c.bulk, cplLen := c.rsp.length, rsp := if c.bulk then [] else c.rsp }) s
      match s.cmd c.seq with
      | some k =>
        let s := modCmd c.seq (fun k => { k with posted := true }) s
        match k.oob with
        | some (die, eid) => modPort die (fun p =>
            { p with tx := p.tx ++ [(eid, oobCompletion c k.op)], retry := some (c.seq, 1), busHeld := true }) s
        | none => s
      | none => s

/-- COMMAND_AUDIT and COMMAND_DENIED (R495, Table 17.5). -/
def auditCmd (c : Cmd) (status : Nat) (s : State) : State :=
  let payload := le 1 c.channel ++ le 1 c.priv.level ++ le 2 c.op ++ le 4 c.seq ++ le 1 status ++ le 3 0
  let s := if 1 ≤ c.needs then record 0x8002 payload s else s
  if status = 2 then record 0x8003 payload s else s

/-- The lock of the bulk window that a command set clears; a RELEASE that waited for it takes effect (R497). -/
def unlockBulk (seq : Nat) (w : Window) : Window :=
  if w.bulkLocked && w.bulkSeq = seq then
    { w with bulkLocked := false, bulkRelease := false, bulkOwner := if w.bulkRelease then none else w.bulkOwner }
  else w

/-- A command completes (R493 to R495, R497, R512): audited, then posted or, after a function-level reset, discarded. -/
def complete (seq status : Nat) (rsp : List Byte) (s : State) : State :=
  match s.cmd seq with
  | none => s
  | some c =>
    if c.done then s
    else
      let s := auditCmd c status (modCmd seq (fun c => { c with done := true }) s)
      if c.orphan then
        modWin (fun w => unlockBulk seq { w with discarded := w.discarded + 1, cmds := w.cmds.filter fun k => k.seq != seq }) s
      else
        let bulk := 96 < rsp.length
        let s := if bulk && c.oob.isNone then modWin (fun w => { w with bulk := Memory.write 0 w.bulk 0 rsp }) s else s
        let k : Completion := { seq := seq, tag := c.tag, status := status, bulk := bulk, rsp := rsp }
        postNext c.channel (modChannel c.channel (fun x => { x with waiting := x.waiting ++ [k] }) s)

/-- Several commands complete with one outcome (R54). -/
def completeAll (seqs : List Nat) (status : Nat) (rsp : List Byte) (s : State) : State :=
  each seqs (fun q s => complete q status rsp s) s

/-- Status of a command from the conditions of R494, in its order: BAD_ARG, UNAVAILABLE, STATE, NO_SPARE, BUSY; 0 when
none holds. -/
def statusOf (bad unavailable state noSpare busy : Bool) : Nat :=
  if bad then 3 else if unavailable then 7 else if state then 4 else if noSpare then 5 else if busy then 1 else 0

/-- A command runs: it completes with the first status that applies, or does what it does (R494). -/
def runCmd (seq status : Nat) (act : State → State) (s : State) : Result :=
  .next (if status = 0 then act s else complete seq status [] s)

/-- A partition that exists. -/
def State.defined (s : State) (p : Nat) : Bool := (s.partOf p).state != 0

/-! ## Which actions are in progress (R54) -/

/-- A reset (rank 0) or fence (rank 1) of the partition is in progress. -/
def State.fencing (s : State) (p : Nat) : Bool := (s.partOf p).fence.isSome
def State.resetting (s : State) (p : Nat) : Bool := (s.partOf p).reset.isSome

/-- An action of one site that ranks higher is in progress: a tile reset, a quarantine that waits for its boundary, a screen's run
(R54; log entry 109). -/
def State.siteBlocked (s : State) (rank site : Nat) : Bool :=
  let c := (s.senOf site).resetCause
  (1 < rank && c != 0 && c != 4) ||
  (3 < rank && (s.partOf (s.sitePart site)).swaps.any fun w => w.old == site) ||
  (4 < rank && match (s.hubOf (s.siteHub site)).pass with
    | some x => x.stage != 0 && x.testing.contains site
    | none => false)

/-- Sites of a unit: scope 0 site, 1 sector, 2 partition, 3 wafer. -/
def State.unitSites (s : State) (scope number : Nat) : List Nat :=
  match scope with
  | 0 => [number]
  | 1 => (s.sen.map (·.1)).filter fun x => sectorOf x = number
  | 2 => s.partAllSites number
  | _ => s.sen.map (·.1)

/-- A higher-ranked action is in progress on the unit or inside it. Rank as in `WaitAct`. -/
def State.blocked (s : State) (rank scope number : Nat) : Bool :=
  let ps : List Nat := match scope with
    | 0 => [s.sitePart number]
    | 1 => [s.sectorPart number]
    | 2 => [number]
    | _ => List.range 16
  (0 < rank && (!s.boot.ready || ps.any s.resetting)) || (1 < rank && ps.any s.fencing) || (2 < rank && s.stop.state != 0) ||
    (s.unitSites scope number).any (s.siteBlocked rank)

/-- The action waits on its unit (R54). -/
def waitFor (rank scope number seq : Nat) (act : Instr) (s : State) : State :=
  setWaits (s.waits ++ [{ scope := scope, number := number, rank := rank, seq := seq, act := act }]) s

end Sys2Proof.Machine
end

