-- ==== Sys2Proof/Machine/ImageFile.lean ====
section
/-!
DEFINITION. The Lameilyn image in a configuration flash (R392, R394 to R401, R358): reading a slot, the tests 1 to 5 of R381,
and the parameters that a valid image puts in force.
-/
namespace Sys2Proof.Machine

/-! ## Reading a slot (Tables 16.3, 16.6a, 16.6b) -/

/-- Bytes of a slot. -/
def slotSize : Nat := 58720256

/-- A field of a slot in a flash, whose erased bytes read 0xFF. -/
def slotBytes (m : Memory) (slot off n : Nat) : List Byte := Memory.bytes 0xFF m (slotSize * slot + off) n
def slotField (m : Memory) (slot off n : Nat) : Nat := ofLe (slotBytes m slot off n)

/-- A section table entry. -/
structure Section where
  type : Nat := 0
  version : Nat := 0
  optional : Bool := false
  offset : Nat := 0
  length : Nat := 0
  check : Nat := 0
  deriving DecidableEq, Repr

/-- Entry k of a slot's section table. -/
def sectionAt (m : Memory) (slot k : Nat) : Section :=
  let f (o n : Nat) : Nat := slotField m slot (64 + 16 * k + o) n
  { type := f 0 2, version := f 2 1, optional := bitOf 0 (f 3 1), offset := f 4 4, length := f 8 4, check := f 12 4 }

/-- The section table. -/
def slotSections (m : Memory) (slot : Nat) : List Section :=
  (List.range (slotField m slot 6 2)).map (sectionAt m slot)

/-- SEQUENCE and IMAGE_DIGEST of a slot. -/
def slotSequence (m : Memory) (slot : Nat) : Nat := slotField m slot 16 8
def slotDigest (m : Memory) (slot : Nat) : List Byte := slotBytes m slot 32 32

/-- The bytes of a section. -/
def sectionBytes (m : Memory) (slot : Nat) (x : Section) : List Byte := slotBytes m slot x.offset x.length

/-- The section of a type, empty when it is absent. -/
def sectionOf (m : Memory) (slot type : Nat) : List Byte :=
  match (slotSections m slot).find? fun x => x.type = type with
  | some x => sectionBytes m slot x
  | none => []

/-- Chunks of a section: records of `w` bytes. -/
def records (w : Nat) (bs : List Byte) : List (List Byte) := (List.range (bs.length / w)).map fun k => (bs.drop (w * k)).take w

/-! ## POLICY (Table 16.10 and the parameter tables of the chapters) -/

/-- A row of Table 16.10: identifier, TYPE, and the range of an integer parameter. -/
def policyRows : List (Nat × Nat × Nat × Nat) :=
  [(0x0701, 0, 16, 256), (0x0702, 0, 8, 256), (0x0703, 2, 0, 0), (0x0704, 2, 0, 0), (0x0705, 2, 0, 0), (0x0706, 0, 2, 64)] ++
  [(0x0707, 0, 1, 256), (0x0801, 0, 1, 65535), (0x0802, 0, 1, 65535), (0x0803, 0, 1, 16), (0x0804, 0, 60, 604800)] ++
  [(0x0901, 0, 3600, 2592000), (0x0902, 0, 60, 86400), (0x0903, 0, 1, 3600), (0x0904, 0, 3600, 604800), (0x0905, 0, 0, 4)] ++
  [(0x0906, 0, 1, 16), (0x0907, 1, 80, 480), (0x0A01, 0, 86400, 31536000), (0x0A02, 0, 86400, 7776000), (0x0A03, 0, 1, 1000)] ++
  [(0x0A04, 0, 2, 8), (0x0A05, 0, 0, 4), (0x0A06, 0, 0, 12), (0x0B01, 0, 100, 100000), (0x0C01, 0, 1, 3600)] ++
  [(0x0D01, 0, 1, 1000000), (0x0E01, 0, 10, 10000), (0x0E02, 0, 1000, 1000000), (0x0E03, 0, 1000, 60000)] ++
  [(0x0E04, 0, 1000, 100000), (0x0E05, 0, 100, 600000)]

/-- A binary32 value lies in a closed range. -/
def f32In (lo hi x : Nat) : Bool := f32.finite x && f32.le lo x && f32.le x hi

/-- A binary32 value above 0. -/
def f32Pos (x : Nat) : Bool := f32.finite x && f32.lt 0 x

/-- A POLICY record names a parameter with its TYPE and a value in its range. -/
def policyOk (r : List Byte) : Bool :=
  let id := field r 0 2
  let v := field r 4 4
  policyRows.any fun x => x.1 == id && x.2.1 == field r 2 1 &&
    (if id = 0x0703 then f32In 0x40400000 0x41A00000 v
     else if id = 0x0704 then f32In 0 0x3DCCCCCD v
     else if id = 0x0705 then f32Pos v
     else x.2.2.1 ≤ v && v ≤ x.2.2.2)

/-- One parameter set. -/
def setPolicy (p : Policy) (r : List Byte) : Policy :=
  let v := field r 4 4
  match field r 0 2 with
  | 0x0701 => { p with lossWindow := v } | 0x0702 => { p with lossWarmup := v } | 0x0703 => { p with lossZ := v }
  | 0x0704 => { p with lossRelFloor := v } | 0x0705 => { p with lossAbsFloor := v } | 0x0706 => { p with lossShiftRun := v }
  | 0x0707 => { p with lossLookback := v } | 0x0801 => { p with sampleDiv := v } | 0x0802 => { p with ncSampleDiv := v }
  | 0x0803 => { p with replayRuns := v } | 0x0804 => { p with mirrorRefAge := v } | 0x0901 => { p with screenInterval := v }
  | 0x0902 => { p with screenSpan := v } | 0x0903 => { p with spareGap := v } | 0x0904 => { p with spareFresh := v }
  | 0x0905 => { p with rotatePerSector := v } | 0x0906 => { p with deepRepeats := v }
  | 0x0907 => { p with screenThermalMargin := v } | 0x0A01 => { p with eventWindow := v } | 0x0A02 => { p with cleanDays := v }
  | 0x0A03 => { p with cleanScreens := v } | 0x0A04 => { p with suspectDeclineSteps := v }
  | 0x0A05 => { p with lendReserve := v } | 0x0A06 => { p with sparesLowLevel := v } | 0x0B01 => { p with stepDoneWait := v }
  | 0x0C01 => { p with freezeLimit := v } | 0x0D01 => { p with memCeLimit := v } | 0x0E01 => { p with tBlock := v }
  | 0x0E02 => { p with memWaitLimit := v } | 0x0E03 => { p with linkWaitLimit := v } | 0x0E04 => { p with commitWait := v }
  | 0x0E05 => { p with replayStepLimit := v }
  | _ => p

/-- The parameters of a POLICY section. -/
def policyOf (bs : List Byte) : Policy := (records 8 bs).foldl setPolicy {}

/-- A valid POLICY section (R400). -/
def policySection (bs : List Byte) : Bool :=
  bs.length % 8 == 0 && (records 8 bs).all policyOk && decide (((records 8 bs).map fun r => field r 0 2).Nodup) &&
    (policyOf bs).lossWarmup ≤ (policyOf bs).lossWindow

/-! ## THERMAL (Tables 16.11 and 15.9, R358) -/

/-- The values of a THERMAL section. -/
def thermalOf (bs : List Byte) : ThermalImage :=
  let v (k : Nat) : Nat := field bs (4 * k) 4
  { tjLimit := v 0, stage1 := v 1, stage2 := v 2, stage3 := v 3, hyst := v 4, releaseHold := v 5, pLeak := v 6
    leakDouble := v 7, eArray := v 8, eVec := v 9, eSram := v 10, eFlit := v 11, eClock := v 12, cSite := v 13, cSpread := v 14
    gLat := v 15, gVert := v 16, gSink := v 17, tCoolant := v 18, tEdgeDefault := v 19, retainMin := v 20, offMin := v 21 }

/-- A finite binary32 value in units of 2^-149. -/
def f32Units (x : Nat) : Int := f32.sigInt x * 2 ^ (f32.unitExp x + 149).toNat

/-- 10 us times a conductance over a heat capacity is below 0.5, exactly (R358), whatever the capacity's sign; a capacity of zero gives no
quotient and fails (log entry 140). -/
def stableNode (g c : Int) : Bool := if 0 < c then g < 50000 * c else decide (c < 0) && decide (50000 * c < g)

/-- R358: the model's step of 10 us is stable. -/
def stableModel (k : ThermalImage) : Bool :=
  stableNode (4 * f32Units k.gLat + f32Units k.gVert) (f32Units k.cSite) &&
    stableNode (168 * f32Units k.gVert + f32Units k.gSink) (f32Units k.cSpread)

/-- A valid THERMAL section (R401): every value in its range of Table 15.9, with R358. -/
def thermalSection (bs : List Byte) : Bool :=
  let k := thermalOf bs
  bs.length == 96 && ((List.range 22).all fun n => f32.finite (field bs (4 * n) 4)) &&
    f32In 0x42AA0000 0x42D20000 k.tjLimit && f32In 0 0x41700000 k.stage1 && f32In 0 0x41700000 k.stage2 &&
    f32In 0 0x41700000 k.stage3 && f32.le k.stage2 k.stage1 && f32.le k.stage3 k.stage2 && f32In 0x3F000000 0x40A00000 k.hyst &&
    f32In 0x3A83126F 0x3F800000 k.releaseHold && f32Pos k.pLeak && f32Pos k.leakDouble && f32Pos k.eArray && f32Pos k.eVec &&
    f32Pos k.eSram && f32Pos k.eFlit && f32Pos k.eClock && f32In 0 0x42B40000 k.tCoolant && f32In 0 0x42B40000 k.tEdgeDefault &&
    f32In 0x3727C5AC 0x3F800000 k.retainMin && f32In 0x3A83126F 0x45610000 k.offMin && stableModel k

/-! ## The other sections (R396 to R401) -/

/-- MODULE_CONFIG: SECTORS_PRESENT agrees with GRADE (R13, R397). -/
def sectorsOk (grade sectors : Nat) : Bool :=
  let absent := (List.range 80).filter fun n => !bitOf n sectors
  if grade = 0 then absent.isEmpty
  else if grade = 1 then absent.length == 5 && decide ((absent.map regionOf).Nodup)
  else grade == 2

/-- The default plan. -/
def planOf (bs : List Byte) : List Nat := (List.range (field bs 14 1)).map fun n => field bs (16 + 2 * n) 2

/-- No region in two entries. -/
def planOk (plan : List Nat) : Bool := (List.range 16).all fun r => (plan.filter fun m => bitOf r m).length ≤ 1

/-- A valid MODULE_CONFIG. -/
def configSection (bs : List Byte) : Bool :=
  bs.length == 64 && sectorsOk (field bs 10 1) (field bs 0 10) && (9 ≤ field bs 12 1 && field bs 12 1 ≤ 15) &&
    (9 ≤ field bs 13 1 && field bs 13 1 ≤ 18) && field bs 14 1 ≤ 16 && planOk (planOf bs)

/-- Strictly ascending numbers. -/
def ascending : List Nat → Bool
  | a :: b :: xs => a < b && ascending (b :: xs)
  | _ => true

/-- A valid DEFECT_MAP for a configuration. -/
def defectSection (config bs : List Byte) : Bool :=
  let xs := (records 4 bs).map fun r => (field r 0 2, field r 2 1)
  let sectors := field config 0 10
  bs.length % 4 == 0 && (xs.all fun x => x.1 < 13440 && (1 ≤ x.2 && x.2 ≤ 4) && bitOf (sectorOf x.1) sectors) &&
    ascending (xs.map (·.1)) &&
    (field config 10 1 == 2 || (List.range 80).all fun n => (xs.filter fun x => sectorOf x.1 == n).length ≤ 8)

/-- An SRAM repair record (Table 16.6). -/
def sramRepairOf (r : List Byte) : SramRepair :=
  { site := field r 0 2, bank := field r 2 1, spare := field r 3 1, row := field r 4 2, state := field r 6 1 }

/-- A valid SRAM_REPAIR section. -/
def sramSection (bs : List Byte) : Bool :=
  bs.length % 8 == 0 && ((records 8 bs).map sramRepairOf).all fun r => r.site < 13440 && r.bank ≤ 47 && r.spare ≤ 7 && r.state == 0

/-- A valid MEMORY_REPAIR section. -/
def memSection (bs : List Byte) : Bool :=
  bs.length % 16 == 0 && (records 16 bs).all fun r => field r 2 1 == 1 && field r 3 1 == 0

/-- A valid MARGIN_REFERENCE section. -/
def marginSection (bs : List Byte) : Bool :=
  bs.length == 26880 && (records 2 bs).all fun r => field r 0 2 == 0xFFFF || field r 0 2 < 512

/-- A valid RATE_LIMITS section. -/
def ratesSection (bs : List Byte) : Bool :=
  bs.length % 8 == 0 && ((records 8 bs).all fun r => field r 2 2 != 0 && field r 4 2 != 0) &&
    decide (((records 8 bs).map fun r => field r 0 2).Nodup)

/-- A valid MANAGER_FIRMWARE section (R396). -/
def firmwareSection (bs : List Byte) : Bool :=
  16 ≤ bs.length && field bs 4 4 ≤ 786432 && bs.length == 16 + field bs 4 4 && field bs 8 4 < field bs 4 4 && field bs 12 1 != 0

/-- The content rules of a section. -/
def contentOk (m : Memory) (slot : Nat) (x : Section) : Bool :=
  let bs := sectionBytes m slot x
  match x.type with
  | 0x0001 => firmwareSection bs
  | 0x0002 => configSection bs
  | 0x0003 => defectSection (sectionOf m slot 2) bs
  | 0x0004 => sramSection bs
  | 0x0005 => memSection bs
  | 0x0006 => marginSection bs
  | 0x0007 => policySection bs
  | 0x0008 => thermalSection bs
  | 0x0009 => setOk bs
  | 0x000A => ratesSection bs
  | 0x00F0 => bs.length ≤ 65536
  | _ => x.optional

/-- A type of Table 16.8. -/
def knownType (t : Nat) : Bool := (1 ≤ t && t ≤ 10) || t == 0xF0

/-- Two sections overlap. -/
def overlap (a b : Section) : Bool := a.offset < b.offset + b.length && b.offset < a.offset + a.length

/-- The rules of one section table entry (R394, R395). -/
def entryOk (m : Memory) (slot : Nat) (xs : List Section) (x : Section) : Bool :=
  (x.version == 1 || !knownType x.type) && x.offset % 16 == 0 && 64 + 16 * xs.length ≤ x.offset &&
    x.offset + x.length ≤ slotField m slot 8 4 && ((xs.filter fun y => overlap x y).length ≤ 1) && contentOk m slot x

/-- Exactly one, or at most one, of each type (Table 16.8), SIGNATURE last. -/
def countsOk (xs : List Section) : Bool :=
  let n (t : Nat) : Nat := (xs.filter fun x => x.type == t).length
  ([1, 2, 3, 8, 0xF0].all fun t => n t == 1) && ([4, 5, 6, 7, 9, 10].all fun t => n t ≤ 1) &&
    match xs.find? fun x => x.type == 0xF0 with
    | some g => xs.all fun x => x.type == 0xF0 || x.offset < g.offset
    | none => false

/-- IMAGE_DIGEST over what R394 names. -/
def digestOf (m : Memory) (slot : Nat) : List Byte :=
  let stop := match (slotSections m slot).find? fun x => x.type == 0xF0 with
    | some g => g.offset
    | none => 64
  sha256 (slotBytes m slot 0 32 ++ slotBytes m slot 64 (stop - 64))

/-- The first of tests 1 to 5 of R381 that a slot fails, with the section's TYPE; test 0 when all pass. -/
def slotTest (m : Memory) (slot : Nat) (serial : Dword) (moduleType : Nat) : Nat × Nat :=
  let size := slotField m slot 8 4
  let xs := slotSections m slot
  if slotField m slot 0 4 != 0x4E4C4D4C || slotField m slot 4 2 != 1 || size % 16 != 0 || slotSize < size then (1, 0)
  else if slotField m slot 24 8 != serial.toNat || slotField m slot 12 2 != moduleType then (2, 0)
  else if xs.length < 5 || 64 < xs.length || !countsOk xs then (3, 0)
  else match xs.find? fun x => !entryOk m slot xs x with
    | some x => (3, x.type)
    | none => match xs.find? fun x => check32 (sectionBytes m slot x) != x.check with
      | some x => (4, x.type)
      | none => if digestOf m slot != slotDigest m slot then (5, 0) else (0, 0)

/-! ## The image in force -/

/-- Margin codes of a MARGIN_REFERENCE section; 0xFFFF is not listed. -/
def marginsOf (bs : List Byte) : Sparse Nat :=
  ((List.range (bs.length / 2)).map fun n => (n, field bs (2 * n) 2)).filter fun x => x.2 != 0xFFFF

/-- The parameters of a valid slot (R396 to R401). -/
def imageOf (m : Memory) (slot : Nat) : Image :=
  let fw := sectionOf m slot 1
  let config := sectionOf m slot 2
  let plaus := sectionOf m slot 9
  { fwVersion := field fw 0 4, profile := field fw 12 1, sequence := slotSequence m slot, serial := slotField m slot 24 8
    digest := slotDigest m slot, sectors := field config 0 10, grade := field config 10 1, dies := field config 11 1
    linkBer := field config 12 1, memBer := field config 13 1, plan := planOf config
    defects := (records 4 (sectionOf m slot 3)).map fun r => (field r 0 2, field r 2 1)
    sramRepair := (records 8 (sectionOf m slot 4)).map sramRepairOf
    memRepair := (records 16 (sectionOf m slot 5)).map fun r => (field r 0 2, field r 4 6)
    marginRef := marginsOf (sectionOf m slot 6), policy := policyOf (sectionOf m slot 7), thermal := thermalOf (sectionOf m slot 8)
    plausDefault := if plaus.isEmpty then emptySet else plaus
    rates := (records 8 (sectionOf m slot 10)).map fun r => (field r 0 2, field r 2 2, field r 4 2) }

end Sys2Proof.Machine
end

