-- ==== Sys2Proof/Machine/Health.lean ====
section
/-!
DEFINITION. Health policy (R248 to R267): history records, transitions of Table 10.3, choice of a spare, moves of a
logical tile, and the requests that follow a transition.
-/
namespace Sys2Proof.Machine

/-! ## Records (Table 10.6) -/

/-- The STATE byte. -/
def SiteRec.byte (r : SiteRec) : Nat := r.state % 16 + 16 * (r.condition % 4) + 64 * flag r.permanent + 128 * flag r.lost

/-- The 64 bytes of a history record. -/
def siteBytes (site : Nat) (r : SiteRec) : List Byte :=
  withCheck (le 2 site ++ le 1 r.byte ++ le 1 (flag r.bistFail + 2 * flag r.deepPending + 4 * flag r.refFactory) ++
    le 2 r.logical ++ le 2 r.marginRef ++ le 2 r.marginLast ++ le 2 r.cleanScreens ++ le 4 r.stateSince ++
    le 4 r.lastEvent ++ le 1 r.lastKind ++ le 1 r.declineSteps ++ le 2 r.bistFails ++ le 4 r.lastScreenPass ++
    le 4 r.lastFullScreen ++ le 2 r.nCompute ++ le 2 r.nStorage ++ le 2 r.nChecker ++ le 2 r.nUnresolved ++
    le 2 r.nScreenFail ++ le 2 r.nLoss ++ le 2 r.nWatchReq ++ le 2 r.nSramCorrected ++ le 2 r.nMovedOff ++ le 2 0 ++
    le 4 r.powerCycle ++ le 4 r.writes)

/-- A history record from its 64 bytes. -/
def siteOfBytes (b : List Byte) : SiteRec :=
  let st := field b 2 1
  let fl := field b 3 1
  { state := st % 16, condition := bitsOf 4 2 st, permanent := bitOf 6 st, lost := bitOf 7 st, bistFail := bitOf 0 fl
    deepPending := bitOf 1 fl, refFactory := bitOf 2 fl, logical := field b 4 2, marginRef := field b 6 2
    marginLast := field b 8 2, cleanScreens := field b 10 2, stateSince := field b 12 4, lastEvent := field b 16 4
    lastKind := field b 20 1, declineSteps := field b 21 1, bistFails := field b 22 2, lastScreenPass := field b 24 4
    lastFullScreen := field b 28 4, nCompute := field b 32 2, nStorage := field b 34 2, nChecker := field b 36 2
    nUnresolved := field b 38 2, nScreenFail := field b 40 2, nLoss := field b 42 2, nWatchReq := field b 44 2
    nSramCorrected := field b 46 2, nMovedOff := field b 48 2, powerCycle := field b 52 4, writes := field b 56 4 }

/-- The record goes to both MRAMs with its write counter advanced (R263). -/
def writeSite (site : Nat) (s : State) : State :=
  let s := modSite site (fun r => { r with writes := (r.writes + 1) % 2 ^ 32, powerCycle := s.cycles }) s
  mramBoth (0x700000 + 64 * site) (siteBytes site (s.siteRec site)) s

/-- Sum of a margin code's axes, an unmeasured axis counting 0 (R240). -/
def marginSum (code : Nat) : Nat :=
  let a (v : Nat) : Nat := if v = 7 then 0 else v
  a (bitsOf 0 3 code) + a (bitsOf 3 3 code) + a (bitsOf 6 3 code)

/-! ## SPARES_LOW (R266) -/

/-- The count of free spares of a sector is tested after a change: told when it is low, and again each time it falls further. -/
def checkSpares (sector : Nat) (s : State) : State :=
  let n := s.freeSpares sector
  let last := Sparse.get 0 s.sparesLow sector
  let low := decide (n < s.image.policy.sparesLowLevel)
  let s := setSparesLow (Sparse.set 0 s.sparesLow sector (if low then n + 1 else 0)) s
  if low && (last = 0 || n + 1 < last) then raiseAlert 3 (record 0x3004 (le 1 sector ++ le 1 n ++ le 2 0) s) else s

/-! ## Transitions (Table 10.3) -/

/-- Health as the policy sees it. -/
structure Health where
  state : Nat := 0
  cond : Nat := 0
  perm : Bool := false
  lost : Bool := false
  deriving DecidableEq, Repr

def SiteRec.health (r : SiteRec) : Health := { state := r.state, cond := r.condition, perm := r.permanent, lost := r.lost }

/-- CONDITION after a confirmed event (Table 10.3 and R249): `steps` of decline are those within the window. -/
def nextCond (level cond kind steps : Nat) (reproduced within : Bool) : Nat :=
  if reproduced || kind = 3 || kind = 7 then 2
  else if kind = 6 && level ≤ steps then 2
  else if cond = 0 then 1
  else if cond = 1 && within then 2
  else cond

/-- The transition that an event of Table 10.2 causes (Table 10.3): `level` is SUSPECT_DECLINE_STEPS, `reproduced` marks
a reproduced or permanent event, `within` another confirmed event within EVENT_WINDOW. -/
def nextHealth (level : Nat) (h : Health) (kind steps : Nat) (reproduced within : Bool) : Health :=
  let inService : Bool := h.state == 3 || h.state == 4 || h.state == 5
  if h.state = 0 || h.state = 6 || h.state = 7 || h.state = 9 || 10 ≤ h.state then h
  else if kind = 8 then
    if h.cond = 0 then { h with cond := 1, state := if inService then 4 else h.state } else h
  else if kind = 9 then h
  else if h.state = 2 then { h with state := 6, cond := 0, perm := h.perm || reproduced, lost := h.lost || kind == 7 }
  else if h.state = 1 && (kind = 5 || within) then { h with state := 6, cond := 0, perm := h.perm || reproduced }
  else
    let c := nextCond level h.cond kind steps reproduced within
    { state := if inService then 3 + c else h.state, cond := c, perm := h.perm || reproduced, lost := h.lost || kind == 7 }

/-- One of the counters of Table 10.6. -/
def countKind (kind : Nat) (r : SiteRec) : SiteRec :=
  match kind with
  | 1 => { r with nCompute := satAdd 65535 r.nCompute 1 }
  | 2 => { r with nStorage := satAdd 65535 r.nStorage 1 }
  | 3 => { r with nChecker := satAdd 65535 r.nChecker 1 }
  | 4 => { r with nUnresolved := satAdd 65535 r.nUnresolved 1 }
  | 5 => { r with nScreenFail := satAdd 65535 r.nScreenFail 1 }
  | 7 => { r with nLoss := satAdd 65535 r.nLoss 1 }
  | 8 => { r with nWatchReq := satAdd 65535 r.nWatchReq 1 }
  | 9 => { r with nSramCorrected := satAdd 65535 r.nSramCorrected 1 }
  | _ => r

/-- Kinds that Table 10.2 confirms. -/
def confirmed (kind : Nat) : Bool := 1 ≤ kind && kind ≤ 7

/-- HEALTH_CHANGE payload (Table 10.8). -/
def healthPayload (site old new kind time : Nat) : List Byte :=
  le 2 site ++ le 1 old ++ le 1 new ++ le 1 kind ++ le 3 0 ++ le 4 time ++ le 4 0

/-- A site's record changes (R252, R263, R267): its sector's spares are counted (in bring-up once every record is decided); written, recorded and journaled when its STATE byte changes. `aux` says
on what the decision was taken: reproduced, within the window, decline steps. -/
def changeSite (site kind aux : Nat) (f : SiteRec → SiteRec) (s : State) : State :=
  let old := s.siteRec site
  let s := modSite site (fun r =>
    let r' := f r
    if r'.state = r.state then r' else { r' with stateSince := s.secs }) s
  let new := s.siteRec site
  let s := writeSite site (if new.suspected && !old.suspected then noteReason site 2 s else s)
  if new.byte = old.byte then s
  else
    let s := recordFrom site 0x3001 (healthPayload site old.byte new.byte kind s.secs) s
    let s := journalize 0 site kind old.byte new.byte aux s
    let s := if new.state = 6 && old.state != 6 then send (.quarantine site) s else s
    if (old.state = 1) = (new.state = 1) || s.boot.step = 5 then s else checkSpares (sectorOf site) s

/-! ## Spares (R256, R257) -/

/-- A move fits the detour allowance. -/
def moveFits (detour x y : Nat) : Bool :=
  absDiff (waferRow x) (waferRow y) ≤ detour && absDiff (waferCol x) (waferCol y) ≤ detour

/-- A clear spare (items 1 and 2 of R256). -/
def SiteRec.clearSpare (r : SiteRec) : Bool := r.state == 1 && r.condition == 0 && !r.deepPending

/-- Passed a screen within SPARE_FRESH. -/
def SiteRec.fresh (r : SiteRec) (now span : Nat) : Bool := r.lastScreenPass != 0 && now - r.lastScreenPass ≤ span

/-- Spares in the order of items 1 and 2 of R256: (rank, site), smaller first. -/
def spareOrder (now span : Nat) (x y : Nat × SiteRec) : Bool :=
  let fx := x.2.fresh now span
  let fy := y.2.fresh now span
  if fx != fy then fx
  else if fx then
    if marginSum x.2.marginLast != marginSum y.2.marginLast then marginSum x.2.marginLast > marginSum y.2.marginLast
    else x.1 < y.1
  else if x.2.lastScreenPass != y.2.lastScreenPass then x.2.lastScreenPass > y.2.lastScreenPass
  else x.1 < y.1

/-- The best of a list of spares. -/
def bestSpare (now span : Nat) (xs : List (Nat × SiteRec)) : Option Nat :=
  (xs.foldl (fun (b : Option (Nat × SiteRec)) x => match b with
    | none => some x
    | some y => if spareOrder now span x y then some x else some y) none).map (·.1)

/-- The first candidate of R256 for a tile that leaves `old`, by the records `recs`. -/
def State.pick (s : State) (recs : List (Nat × SiteRec)) (old detour : Nat) : Option Nat :=
  let now := s.secs
  let pol := s.image.policy
  let sector := sectorOf old
  let free := recs.filter fun x => x.2.state == 1 && !(s.senOf x.1).silent
  let left (h : Nat) : Nat := (free.filter fun x => sectorOf x.1 == h).length
  let fits := free.filter fun x => moveFits detour old x.1
  let own := fits.filter fun x => sectorOf x.1 == sector
  match bestSpare now pol.spareFresh (own.filter fun x => x.2.clearSpare) with
  | some x => some x
  | none =>
    let lent := if 28 ≤ detour then fits.filter fun x => x.2.clearSpare && sectorOf x.1 != sector &&
        regionOf (sectorOf x.1) == regionOf sector && s.present (sectorOf x.1) &&
        pol.lendReserve ≤ left (sectorOf x.1) - 1
      else []
    match bestSpare now pol.spareFresh lent with
    | some x => some x
    | none => ((own.filter fun x => x.2.condition == 1 && !x.2.deepPending).map (·.1)).head?

/-- The active manager's choice, by its own records. -/
def State.candidate (s : State) (old detour : Nat) : Option Nat := s.pick s.health old detour

/-- Health code a spare takes when it holds a tile: from CONDITION, LENT in another sector (Table 10.3). -/
def State.servingState (s : State) (site tile : Nat) : Nat :=
  if s.homeSector tile != sectorOf site then 8 else 3 + (s.siteRec site).condition

/-! ## The logical map (R255, R258) -/

/-- Numbers from `x` to `y`, without `x`. -/
def walk (x y : Nat) : List Nat := (List.range (absDiff x y)).map fun k => if x ≤ y then x + k + 1 else x - k - 1

/-- The redrawn part of a path (R258): from the old site along the grid column to the new wafer row, then along the row to the new
wafer column, as (wafer row, wafer column) of each router. -/
def redraw (old new : Nat) : List (Nat × Nat) :=
  (walk (waferRow old) (waferRow new)).map (·, waferCol old) ++ (walk (waferCol old) (waferCol new)).map (waferRow new, ·)

/-- A tile's redrawn route in a bank: the routers that each path of the tile passes beyond the site it was compiled for (log entry
120). -/
def State.routeOf (s : State) (bank tile : Nat) : List (Nat × Nat) := Sparse.get [] (if bank = 0 then s.routes0 else s.routes1) tile

/-- A tile's entry and route in one bank. -/
def putXlat (bank tile new : Nat) (route : List (Nat × Nat)) (s : State) : State :=
  if bank = 0 then setXlat0 (Sparse.set 0 s.xlat0 tile (new + 2 ^ 14)) (setRoutes0 (Sparse.set [] s.routes0 tile route) s)
  else setXlat1 (Sparse.set 0 s.xlat1 tile (new + 2 ^ 14)) (setRoutes1 (Sparse.set [] s.routes1 tile route) s)

/-- A move of a tile written into both banks, or into the idle bank of a partition. -/
def putBoth (tile old new : Nat) (s : State) : State :=
  let route := s.routeOf 0 tile ++ redraw old new
  putXlat 1 tile new route (putXlat 0 tile new route s)

def putIdle (p tile old new : Nat) (s : State) : State :=
  let bank := (s.partOf p).bank
  putXlat (1 - bank) tile new (s.routeOf bank tile ++ redraw old new) s

/-- REMAP payload (Table 10.8). -/
def remapPayload (tile old new step detour : Nat) (lent : Bool) : List Byte :=
  le 2 tile ++ le 2 old ++ le 2 new ++ le 1 (absDiff (waferRow old) (waferRow new)) ++
    le 1 (absDiff (waferCol old) (waferCol new)) ++ le 8 step ++ le 1 detour ++ le 1 (flag lent) ++ le 2 0

/-- The outgoing site's record after its tile has left (R252). -/
def leaveTile (r : SiteRec) : SiteRec := { r with logical := 0xFFFF, nMovedOff := satAdd 65535 r.nMovedOff 1 }

/-- A tile moves with no job attached: both banks change at once (R255, R258). `out` is what becomes of the old site. -/
def moveTile (tile old new detour : Nat) (kind : Nat) (out : SiteRec → SiteRec) (s : State) : State :=
  let st := s.servingState new tile
  let s := putBoth tile old new (holdSlot old s)
  let s := changeSite new kind 0 (fun r => { r with state := st, logical := tile }) s
  let s := changeSite old kind 0 (fun r => out (leaveTile r)) s
  send (.tileReset old 1) (recordFrom old 0x3002 (remapPayload tile old new 0 detour (st == 8)) s)

/-- A swap-out with no job attached (Table 10.3, R261): the decision is journaled as any other (R26), and the tile moves at once. -/
def moveOut (tile old new : Nat) (out : SiteRec → SiteRec) (s : State) : State :=
  moveTile tile old new 14 0 out (journalize 2 old new 0 0 14 s)

/-- A site becomes QUARANTINED (R252). -/
def quarantined (r : SiteRec) : SiteRec := { r with state := 6, condition := 0 }

/-! ## Swap-outs (R252, R256 to R259) -/

/-- A swap of a partition's list changed. -/
def modSwap (p tile : Nat) (f : Swap → Swap) (s : State) : State :=
  modPart p (fun x => { x with swaps := x.swaps.map fun w => if w.tile = tile then f w else w }) s

/-- The tile key goes to the conversion unit of the site and to the hub that serves it (R124). -/
def keepKey (site tile : Nat) (seed : Dword) (s : State) : State :=
  let k := tileKey seed tile
  modHub (s.siteHub site) (fun y => { y with tks := Sparse.set 0 y.tks tile k }) (modSen site (fun x => { x with tk := k }) s)

/-- The swap-out's spare is chosen and becomes SPARE_FILLING; translation, route and key entries go into the idle banks
(Table 10.5, steps 2 to 5). A loss joins a boundary that is open (R301: losses never wait). -/
def prepareSwap (p tile old : Nat) (s : State) : State :=
  match s.candidate old (s.jobOf p).detour with
  | none => s
  | some new =>
    let s := journalize 2 old new 0 0 (s.jobOf p).detour s
    let s := changeSite new 0 0 (fun r => { r with state := 2 }) s
    let s := putIdle p tile old new s
    let s := keepKey new tile (s.jobOf p).seed s
    let s := send (.tileReset new 2) s
    modSwap p tile (fun w => { w with new := some new, ready := true, chosen := w.chosen || ((s.partOf p).boundary && (s.siteRec old).lost) }) s

/-- A partition is marked DEGRADED (R259). -/
def degrade (p site step : Nat) (s : State) : State :=
  if (s.partOf p).degraded then s
  else record 0x3003 (le 1 p ++ le 1 0 ++ le 2 site ++ le 8 step) (modPart p (fun x => { x with degraded := true }) s)

/-- A swap-out joins a partition's list. -/
def addSwap (p tile site cause : Nat) (seqs : List Nat) (s : State) : State :=
  modPart p (fun x => { x with swaps := x.swaps ++ [{ tile := tile, old := site, cause := cause, decided := s.ticks, seqs := seqs }] }) s

/-- A swap-out of a site is requested (Table 10.3, R259, R261): with a job it is prepared for the next boundary; without
one, the tile moves at once where a candidate fits DETOUR 14. `cause` as in `Swap`. -/
def requestSwap (site cause : Nat) (seqs : List Nat) (s : State) : State :=
  let tile := s.tileAt site
  let p := s.sitePart site
  if tile = 0xFFFF then s
  else if s.hasJob p then
    if (s.partOf p).swaps.any fun w => w.tile = tile then
      modSwap p tile (fun w => { w with cause := if cause = 1 then 1 else w.cause, seqs := w.seqs ++ seqs }) s
    else
      prepareSwap p tile site (addSwap p tile site cause seqs s)
  else
    match s.candidate site 14 with
    | some new => moveOut tile site new quarantined s
    | none => if cause = 1 then degrade p site 0 s else s

/-- A site in service that is SUSPECT, by state or, LENT, by CONDITION (R249). -/
def SiteRec.suspect (r : SiteRec) : Bool := r.state == 5 || (r.state == 8 && r.condition == 2)

/-- Suspect sites of a sector are tried again when a spare becomes free there and no job is attached (R259). -/
def retrySuspects (sector : Nat) (s : State) : State :=
  if s.hasJob (s.sectorPart sector) then s
  else each ((s.health.filter fun x => sectorOf x.1 == sector && x.2.suspect).map fun x => (x.1, flag x.2.lost)) (fun x s =>
    requestSwap x.1 x.2 [] s) s

/-- A partition's DEGRADED mark clears when a spare becomes free through a passed deep screen or an edit (R259). -/
def spareFreed (site : Nat) (s : State) : State :=
  let s := modPart (s.sitePart site) (fun x => { x with degraded := false }) s
  retrySuspects (sectorOf site) s

/-! ## Charging an event (R250 to R254) -/

/-- What follows a transition of a site (Table 10.3): a swap-out of a site that has become SUSPECT or LOST; the fill of a
spare that is QUARANTINED moves to the next one. `r` is the record before it. -/
def followHealth (site : Nat) (r : SiteRec) (h : Health) (s : State) : State :=
  if (h.state = 5 || (h.state = 8 && h.cond = 2)) && (r.condition != 2 || (h.lost && !r.lost)) then
    requestSwap site (if h.lost then 1 else 0) [] s
  else if r.state = 2 && h.state = 6 then
    each ((s.partOf (s.sitePart site)).swaps.filter fun w => w.new = some site) (fun w s =>
      prepareSwap (s.sitePart site) w.tile w.old (modSwap (s.sitePart site) w.tile
        (fun w => { w with new := none, ready := false, filling := false, filled := false, spoilt := false, resRetries := 0, mirRetries := 0
                           flags := w.flags ||| 1 }) s)) s
  else s

/-- The health of a record replaced. -/
def SiteRec.withHealth (r : SiteRec) (h : Health) : SiteRec :=
  { r with state := h.state, condition := h.cond, permanent := h.perm, lost := h.lost }

/-- The health that a confirmed event meets: a Watch request of the same step is merged into it (Table 10.4). -/
def State.healthAt (s : State) (site kind : Nat) : Health :=
  let h := (s.siteRec site).health
  if confirmed kind && (s.hubOf (s.siteHub site)).collect.watchRose.contains site then
    { h with cond := 0, state := if h.state = 4 then 3 else h.state }
  else h

/-- Sites whose CONDITION the Watch requests of the step have raised, after an event. -/
def noteRose (site kind : Nat) (was : Health) (s : State) : State :=
  if confirmed kind || (kind = 8 && was.cond = 0) then
    modHub (s.siteHub site) (fun y => { y with collect := { y.collect with watchRose :=
      if kind = 8 then y.collect.watchRose ++ [site] else y.collect.watchRose.filter (· != site) } }) s
  else s

/-- The end of a site's clean period is due and not yet taken (Table 10.3): its event, if any, is taken first (Table 10.4). -/
def State.cleanDue (s : State) (r : SiteRec) : Bool :=
  r.condition == 1 && s.image.policy.cleanScreens ≤ r.cleanScreens && s.image.policy.cleanDays ≤ s.secs - max r.lastEvent r.stateSince

/-- An event of Table 10.2 is charged to a site: counted, and the transition of Table 10.3 taken. -/
def charge (site kind steps : Nat) (reproduced : Bool) (s : State) : State :=
  let r := s.siteRec site
  let within := r.lastEvent != 0 && s.secs - r.lastEvent ≤ s.image.policy.eventWindow
  let total := satAdd 255 (if within then r.declineSteps else 0) (if kind = 6 then steps else 0)
  let within := within && !s.cleanDue r
  let h := nextHealth s.image.policy.suspectDeclineSteps (s.healthAt site kind) kind total reproduced within
  let upd (r : SiteRec) : SiteRec :=
    let r := countKind kind (r.withHealth h)
    if confirmed kind then { r with lastEvent := s.secs, lastKind := kind, declineSteps := total, cleanScreens := 0 }
    else if h.cond != 0 && r.condition = 0 then { r with cleanScreens := 0 } else r
  let s := noteRose site kind r.health s
  if confirmed kind || h != r.health then
    followHealth site r h (changeSite site kind (flag reproduced + 2 * flag within + 4 * total) upd s)
  else setUnflushed (if s.unflushed.contains site then s.unflushed else s.unflushed ++ [site]) (modSite site upd s)

/-- A reproduction of an event already charged (R204): the transition of a reproduced event, counted no second time. -/
def reproduce (site kind : Nat) (s : State) : State :=
  let r := s.siteRec site
  let h : Health := if r.state = 2 then { r.health with cond := 2, perm := true }
    else nextHealth s.image.policy.suspectDeclineSteps r.health kind r.declineSteps true false
  if h = r.health then s
  else followHealth site r h (changeSite site kind (1 + 4 * r.declineSteps) (fun r => r.withHealth h) s)

/-- R251: permanence of an event decided from the history, where no replay is possible. -/
def State.permanentByHistory (s : State) (site kind : Nat) : Bool :=
  let r := s.siteRec site
  r.permanent || (r.lastKind == kind && r.lastEvent != 0 && s.secs - r.lastEvent ≤ s.image.policy.eventWindow)

/-- The soft repair of an address is due at the next bring-up (R308, R388): one entry of the memory repair log. -/
def memRepairBytes (source state addr : Nat) : List Byte :=
  le 2 source ++ le 1 1 ++ le 1 state ++ le 6 addr ++ List.replicate 6 0

def logMemRepair (source addr : Nat) (s : State) : State :=
  if (s.memLog.any fun e => e.1 = source && e.2.1 = addr) || 4096 ≤ s.memLog.length then s
  else mramBoth (0x7D4000 + 16 * s.memLog.length) (memRepairBytes source 0 addr) (setMemLog (s.memLog ++ [(source, addr, 0)]) s)

/-- A loss (R24, R74, R339, R345). -/
def chargeLoss (site : Nat) (s : State) : State := charge site 7 0 (s.permanentByHistory site 7) s

/-- A sentinel stops answering: its site is charged a loss (R24). -/
def loseSentinel (site : Nat) (s : State) : State :=
  if (s.senOf site).silent then s else chargeLoss site (modSen site (fun x => { x with silent := true }) s)

end Sys2Proof.Machine
end

