-- ==== Sys2Proof/Machine/Log.lean ====
section
/-!
DEFINITION. The event recorder's commands (R414 to R437): events, the standby's mirror, batches into MRAM, rate windows, freeze
and the log commands; the counter copies and the calendar (R379, R418, R419), MRAM writes of the other die (R518).
-/
namespace Sys2Proof.Machine

/-! ## Events -/

/-- EVENT at the active manager (R414). -/
def execEvent (ev : EventMsg) (s : State) : Result :=
  if (s.mgr s.active).running then
    arrive (.event ev) (accept { code := ev.code, source := ev.source, payload := ev.payload, merge := ev.merge }) s
  else .next s

/-! ## The mirror (R422, R423) -/

/-- Index that the standby writes or stages next. -/
def Recorder.mirrorNext (r : Recorder) : Nat := r.mirrorRing.next + r.mirrorStaging.length

/-- RECORD_MIRROR at the standby: written at the same index, staged in a freeze, and acknowledged. -/
def execRecordMirror (index : Nat) (r : Rec) (s : State) : Result :=
  let s := receive (.recordMirror index r) s
  let q : Queued := { index := index, mirror := 1, r := r }
  .next (if !s.standby || (s.port s.other).halted || !(s.mgr s.other).mramOk || index != s.recorder.mirrorNext then s
    else send (.mirrorAck index) (if s.recorder.frozen then modRec (fun x => { x with mirrorStaging := x.mirrorStaging ++ [q] }) s
      else mirrorWrite [q] s))

/-- MIRROR_ACK: the record will be written with MIRRORED set. -/
def execMirrorAck (index : Nat) (s : State) : Result :=
  .next (modRec (fun r => { r with intake := r.intake.map (setMirror index 1), staging := r.staging.map (setMirror index 1) })
    (receive (.mirrorAck index) s))

/-- MIRROR_ACK_TIMEOUT: no acknowledge within 1 ms; written unmirrored, MIRROR_DEGRADED. -/
def execMirrorAckTimeout (index : Nat) (s : State) : Result :=
  let was := s.recorder
  .next (if (was.intake ++ was.staging).any fun q => q.index = index && q.mirror = 0 then
      recorderAlert was (modRec (fun r => { r with
        intake := r.intake.map (setMirror index 2), staging := r.staging.map (setMirror index 2), mirrorDegraded := true }) s)
    else s)

/-- Records of a ring from an offset: `n` of them, as bytes. -/
def ringRecords : Nat → Memory → Nat → List (List Byte)
  | 0, _, _ => []
  | n + 1, m, off => ringGet m off (ringLen m off) :: ringRecords n m ((off + ringLen m off) % ringSize)

/-- Offset of the k-th record behind an offset. -/
def ringSkip : Nat → Memory → Nat → Nat
  | 0, _, off => off
  | k + 1, m, off => ringSkip k m ((off + ringLen m off) % ringSize)

/-- A standby that rejoins copies what it lacks of the active ring, then what is still queued; MIRROR_DEGRADED clears. -/
def rejoinMirror (s : State) : State :=
  let a := s.recorder.ring
  let own := s.recorder.mirrorRing
  let from_ := max a.first (min own.next a.next)
  let m := s.mram s.active
  let rs := ringRecords (a.next - from_) m (ringSkip (from_ - a.first) m a.firstOff)
  let start : RingCtl := if from_ = own.next then own else { own with first := from_, next := from_, firstOff := own.nextOff }
  let b := ringBatch (s.mram s.other) start rs
  let s := if s.active = 0 then setMramB b.1 s else setMramA b.1 s
  let frozen := s.recorder.frozen
  let queued := (s.recorder.intake ++ s.recorder.staging).map fun q => { q with mirror := if q.mirror = 0 then 2 else q.mirror }
  let s := modRec (fun r => { r with mirrorRing := b.2, mirrorStaging := if frozen then queued else [], mirrorDegraded := false }) s
  if frozen || queued.isEmpty then s else mirrorWrite queued s

/-- STANDBY_REJOIN (R423): a hot standby with a working MRAM; its journal check has passed (R536; log entry 90). -/
def execStandbyRejoin (s : State) : Result :=
  .next (if s.standby && (s.mgr s.other).mramOk && s.recorder.running then rejoinMirror (setChecked true s) else s)

/-! ## Batches and windows -/

/-- RING_BATCH_WRITE (R421, R428): the oldest queued records into the active MRAM; then what waited for space. -/
def execRingBatchWrite (count : Nat) (s : State) : Result :=
  let qs := batchTake count 0 s.recorder.intake
  .next (if s.recorder.frozen || !(s.mgr s.active).mramOk || qs.isEmpty then s
    else
      let s := ringWrite qs (modRec (fun r => { r with intake := r.intake.drop qs.length }) s)
      acceptWaiting s.recorder.waiting.length (drained s))

/-- A suppression summary (Table 17.6). -/
def suppressionSummary (window : Dword) (x : Suppressed) (s : State) : State :=
  accept { code := x.code, source := x.firstSource, summary := true
           payload := le 8 window.toNat ++ le 4 x.count ++ le 4 x.mergeSum ++ le 2 x.lastSource ++ le 2 0 } s

/-- Suppressed codes in ascending order. -/
def insertSup (x : Suppressed) : List Suppressed → List Suppressed
  | [] => [x]
  | y :: ys => if x.code < y.code then x :: y :: ys else y :: insertSup x ys

/-- RATE_WINDOW_START (R425 to R427): summaries of the window that closes, then RATE tokens for every bucket. -/
def execRateWindowStart (s : State) : Result :=
  let sup := s.recorder.sup.foldr insertSup []
  let window := s.recorder.windowStart
  let s := each sup (suppressionSummary window) (modRec (fun r => { r with sup := [] }) s)
  let start := BitVec.ofNat 64 (s.ras.toNat / 100000000 * 100000000)
  .next (modRec (fun r => { r with windowStart := start, taken := Sparse.mapAll 0 r.taken fun c n => n - (s.rate c).1 }) s)

/-- DROP_SUMMARY_SECOND (R431): sentinel or hub drop counts were reported in this second. -/
def execDropSummarySecond (s : State) : Result :=
  .next (if s.recorder.running && s.recorder.dropPath != 0 then dropSummary s else s)

/-! ## Freeze (R434) -/

/-- FREEZE_LIMIT_EXPIRY: the freeze has lasted FREEZE_LIMIT. -/
def execFreezeLimitExpiry (s : State) : Result := .next (thaw 1 s)

/-- LOG_FREEZE. -/
def execLogFreeze (seq : Nat) (s : State) : Result :=
  match s.begun seq 0x0010 with
  | none => .next s
  | some _ => runCmd seq 0 (fun s =>
      let s := if s.recorder.frozen then s
        else modRec (fun r => { r with frozen := true, frozenAt := s.recordMs, stageDrops := 0, stageOverflow := false }) s
      complete seq 0 (le 8 s.recorder.ring.first ++ le 8 s.recorder.ring.next) s) s

/-- LOG_THAW. -/
def execLogThaw (seq : Nat) (s : State) : Result :=
  match s.begun seq 0x0011 with
  | none => .next s
  | some _ => runCmd seq 0 (fun s =>
      complete seq 0 (le 4 s.recorder.staging.length ++ le 4 s.recorder.stageDrops) (thaw 0 s)) s

/-- Ring control after a clear. -/
def clearRing (c : RingCtl) : RingCtl := { c with first := c.next, firstOff := c.nextOff, overwritten := 0 }

/-- LOG_CLEAR (R435): both rings. -/
def execLogClear (seq : Nat) (s : State) : Result :=
  match s.begun seq 0x0012 with
  | none => .next s
  | some c => runCmd seq 0 (fun s =>
      let rsp := le 8 s.recorder.ring.first ++ le 8 s.recorder.ring.next
      let a := ringCtlPut (s.mram s.active) (clearRing s.recorder.ring)
      let b := ringCtlPut (s.mram s.other) (clearRing s.recorder.mirrorRing)
      let both := s.standby && (s.mgr s.other).mramOk
      let s : State := if s.active = 0 then setMramA a.1 (setMramB (if both then b.1 else s.mramB) s)
        else setMramB a.1 (setMramA (if both then b.1 else s.mramA) s)
      let s := modRec (fun r => { r with ring := a.2, mirrorRing := if both then b.2 else r.mirrorRing }) s
      complete seq 0 rsp (record 0x0003 (rsp ++ le 1 c.channel ++ le 3 0) s)) s

/-- LOG_MARK (R435): BUSY when its record is suppressed or refused. -/
def execLogMark (seq : Nat) (s : State) : Result :=
  match s.begun seq 0x0013 with
  | none => .next s
  | some c =>
    let e : Happening := { code := 0x8001, source := mgrAddr s.active, payload := le 1 c.channel ++ le 3 0 ++ c.bulk, host := true }
    let index := s.recorder.nextIndex
    runCmd seq 0 (fun s =>
      if offerOf s.recorder false 2 (20 + c.bulk.length) = .full then complete seq 1 [] s
      else
        let s := accept e s
        if s.recorder.nextIndex = index then complete seq 1 [] s else complete seq 0 (le 8 index) s) s

/-! ## Calendar and counters -/

/-- An island's calendar is set. -/
def Island.setCal (cal ticks : Nat) (i : Island) : Island := { i with cal := cal, calAt := ticks, calValid := true, vbatLow := false }

/-- TIME_SET_CALENDAR (R419): both islands whose manager runs; CALENDAR_MARK follows. -/
def execTimeSetCalendar (seq : Nat) (s : State) : Result :=
  match s.begun seq 0x0020 with
  | none => .next s
  | some c => runCmd seq 0 (fun s =>
      let previous := (s.island s.active).calNow s.ticks
      let set (die : Nat) (s : State) : State :=
        if (s.mgr die).running then modIsland die (Island.setCal (calOf (c.arg 0 8)) s.ticks) s else s
      let s := modWin (fun w => { w with calSet := true }) (set 1 (set 0 s))
      complete seq 0 (calBytes previous) (calendarMark 2 previous s)) s

/-- HOURLY_CALENDAR_MARK (R419). -/
def execHourlyCalendarMark (s : State) : Result :=
  .next (if s.recorder.running then calendarMark 1 0 s else s)

/-- The boot control record's 64 bytes (Table 16.5). -/
def bootBytes (c : BootCtl) : List Byte :=
  withCheck (le 1 c.confirmed ++ le 1 c.trial ++ le 1 c.trialState ++ le 1 0 ++ le 8 c.confirmedSeq ++ le 4 c.cycles ++
    le 8 c.ms ++ List.replicate 32 0 ++ le 4 c.writes)

/-- A boot control record from its bytes. -/
def bootOf (b : List Byte) : BootCtl :=
  { confirmed := field b 0 1, trial := field b 1 1, trialState := field b 2 1, confirmedSeq := field b 4 8
    cycles := field b 12 4, ms := field b 16 8, writes := field b 56 4 }

/-- The record goes to both MRAMs with the counter copies of the active island (R263, R379). -/
def writeBoot (f : BootCtl → BootCtl) (s : State) : State :=
  let s := modBoot (fun b => { b with bootCtl :=
    { f b.bootCtl with cycles := s.cycles, ms := s.ms, writes := (b.bootCtl.writes + 1) % 2 ^ 32 } }) s
  mramBoth 0x7FF000 (bootBytes s.boot.bootCtl) s

/-- COUNTER_COPY_TIMER (R379, R418): once per minute the counter copies are written, and the other island keeps the larger
of its values and the active island's. -/
def execCounterCopyTimer (s : State) : Result :=
  .next (if !(s.mgr s.active).running then s
    else
      let c := s.cycles
      let t := s.ms
      let s := writeBoot id s
      if (s.mgr s.other).running then modIsland s.other (fun i => { i with cycles := max i.cycles c, ms := max i.ms t }) s else s)

/-! ## MRAM -/

/-- MRAM_WRITE (R518): performed by the die's own manager. -/
def execMramWrite (die offset : Nat) (data : List Byte) (s : State) : Result :=
  let s := receive (.mramWrite die offset data) s
  .next (if (s.mgr die).running && !(s.port die).halted then mramPut die offset data s else s)

/-- A pending count of a site is written (R263). -/
def flushCount (site : Nat) (s : State) : State :=
  if s.unflushed.contains site then writeSite site (setUnflushed (s.unflushed.filter (· != site)) s) else s

/-- HISTORY_COUNT_FLUSH. -/
def execHistoryCountFlush (site : Nat) (s : State) : Result := .next (flushCount site s)

end Sys2Proof.Machine
end

