-- ==== Sys2Proof/Machine/Mailbox.lean ====
section
/-!
DEFINITION. Acceptance of commands on the four channels (R490 to R492, R509): refusals, command buffers, the acknowledge of a
request that waits.
-/
namespace Sys2Proof.Machine

/-- The active manager serves requests: it runs, no takeover is under way, and it is not halted over JTAG. -/
def State.serving (s : State) : Bool :=
  s.powered && (s.mgr s.active).running && !s.failover && !(s.port s.active).halted

/-- Command buffers that a channel holds (R491). -/
def State.buffers (s : State) (ch : Nat) : Nat := (s.win.cmds.filter fun c => c.channel == ch).length

/-- A buffer is free for a channel: the one reserved to it, or one of the 12 shared ones (R491). -/
def State.bufferFree (s : State) (ch : Nat) : Bool :=
  s.buffers ch == 0 || ((List.range 4).map fun c => s.buffers c - 1).sum < 12

/-- The channel holds the bulk window, and no command has it locked (R496, R497). -/
def State.holdsBulk (s : State) (ch : Nat) : Bool := s.win.bulkOwner == some ch && !s.win.bulkLocked

/-- Refusal status of a request, 0 when it is accepted (R490, in the order of R494): opcode, INLINE_LEN, BULK_LEN. -/
def State.refusal (s : State) (ch op inl bulk : Nat) : Nat :=
  match cmdInfo op with
  | none => 3
  | some i =>
    if 112 < inl || 16384 < bulk then 3
    else if (s.boot.recovery && !i.rescue) || s.warn then 7
    else if !s.boot.recovery && s.boot.step < i.since then 4
    else if (ch != 1 && (bulk != 0 || i.bulkRsp) && !s.holdsBulk ch) || !s.bufferFree ch then 1
    else 0

/-- INLINE_LEN and BULK_LEN of REQ_LEN (Table 20.8). -/
def Channel.inlineLen (x : Channel) : Nat := bitsOf 0 7 x.reqLen.toNat
def Channel.bulkLen (x : Channel) : Nat := bitsOf 8 15 x.reqLen.toNat

/-- The inline argument. -/
def Channel.inlined (x : Channel) : List Byte :=
  ((List.range 28).flatMap fun n => le 4 (Sparse.get 0 x.args n).toNat).take x.inlineLen

/-- The SEQUENCE after one (R492). -/
def nextSequence (n : Nat) : Nat := if (n + 1) % 2 ^ 32 = 0 then 1 else (n + 1) % 2 ^ 32

/-- A command enters its buffer with the next SEQUENCE; it locks the bulk window when it uses it (R497). -/
def acceptCmd (c : Cmd) (lock : Bool) (s : State) : State :=
  modWin (fun w => { w with
    cmds := w.cmds ++ [{ c with seq := w.nextSeq }], nextSeq := nextSequence w.nextSeq
    bulkLocked := w.bulkLocked || lock, bulkSeq := if lock then w.nextSeq else w.bulkSeq }) s

/-- An out-of-band acknowledge (R509). -/
def oobAck (die eid status op : Nat) (tag : Word) (seq : Nat) (s : State) : State :=
  modPort die (fun p => { p with tx := p.tx ++ [(eid, oobHeader 1 status op tag seq 0 0)] }) s

/-- The request of a channel is accepted or refused (R490). -/
def acknowledge (ch : Nat) (s : State) : State :=
  let x := s.channelOf ch
  let op := x.reqOp.toNat % 65536
  let r := s.refusal ch op x.inlineLen x.bulkLen
  let seq := s.win.nextSeq
  let c : Cmd := { channel := ch, tag := x.reqTag, op := op, priv := x.subPriv, args := x.inlined, oob := x.subOob
                   bulk := if ch = 1 then x.subBulk else Memory.bytes 0 s.win.bulk 0 x.bulkLen }
  let lock := ch != 1 && (x.bulkLen != 0 || (match cmdInfo op with | some i => i.bulkRsp | none => false))
  let s := if r = 0 then acceptCmd c lock s else s
  let s := modChannel ch (fun x => { x with
    ackPending := false, ackState := if r = 0 then 1 else 2, refusal := r, ackSeq := if r = 0 then seq else x.ackSeq
    subPriv := {}, subOob := none, subBulk := [] }) s
  match x.subOob with
  | some (die, eid) => oobAck die eid r op x.reqTag (if r = 0 then seq else 0) s
  | none => s

/-- Requests that waited for a manager that serves are acknowledged (R490, R512). -/
def serveMailbox (s : State) : State :=
  if s.serving then each ((List.range 4).filter fun c => (s.channelOf c).ackPending) acknowledge s else s

/-- SUBMIT on a channel with its request registers (R490): ignored while one is pending. -/
def submitOn (ch : Nat) (priv : Priv) (oob : Option (Nat × Nat)) (bulk : List Byte) (s : State) : State :=
  if (s.channelOf ch).ackPending then s
  else
    let s := modChannel ch (fun x => { x with ackPending := true, ackState := 0, subPriv := priv, subOob := oob, subBulk := bulk }) s
    if s.serving then acknowledge ch s else s

end Sys2Proof.Machine
end

