-- ==== Sys2Proof/Machine/Front.lean ====
section
/-!
DEFINITION. Operations of a sentinel (R61 to R79): the queue from its front to its back, merged events, alarm levels,
the logic reset, and the register settings that reach the front at a step boundary.
-/
namespace Sys2Proof.Machine

/-! ## The front-to-back queue (R66 to R68) -/

/-- Entries of the front-to-back queue in use: reserved or shared. -/
def Sentinel.used (x : Sentinel) (reserved : Bool) : Nat :=
  ((x.fq.filter fun e => e.reserved == reserved).map (·.slots)).sum

/-- A verdict item enters through the reserved entries, or sets VERDICT_OVERRUN (R68); one of two entries that finds one free is
dropped whole (log entry 25). -/
def pushVerdict (site slots : Nat) (item : Instr) (s : State) : State :=
  modSen site (fun x =>
    if x.used true + slots ≤ 2 then { x with fq := x.fq ++ [{ item := item, reserved := true, slots := slots }] }
    else { x with crossErr := x.crossErr ||| 1, overrun := true }) s

/-- An item whose level stands at the front enters through a reserved entry, behind those that wait for one (R327). -/
def enterFront (item : Instr) (x : Sentinel) : Sentinel :=
  if x.fwait.isEmpty && x.used true < 2 then { x with fq := x.fq ++ [{ item := item, reserved := true }] }
  else { x with fwait := x.fwait ++ [item] }

/-- An alarm item enters through a reserved entry. When both are occupied VERDICT_OVERRUN is set (R68); the level stands,
so that the item still follows (R327). -/
def pushAlarm (site : Nat) (item : Instr) (s : State) : State :=
  modSen site (fun x => enterFront item (if x.used true < 2 then x else { x with crossErr := x.crossErr ||| 1, overrun := true })) s

/-- A standing item takes a reserved entry that is free. -/
def refillFront (x : Sentinel) : Sentinel :=
  match x.fwait with
  | [] => x
  | i :: is => if x.used true < 2 then { x with fq := x.fq ++ [{ item := i, reserved := true }], fwait := is } else x

/-- Entries of 128 bits that a report item fills (R66). -/
def reportSlots : Instr → Nat
  | .event e => (19 + e.payload.length) / 16
  | .summary _ _ => 3
  | _ => 1

/-- The newest waiting report entry of the same code, its merge count raised (R67). -/
def mergeEntry (key : Nat × Nat) : List FrontEntry → Option (List FrontEntry)
  | [] => none
  | e :: es =>
    match mergeEntry key es with
    | some es' => some (e :: es')
    | none =>
      if !e.reserved && reportKey e.item = some key then some ({ e with merge := satAdd 255 e.merge 1 } :: es) else none

/-- A report item enters through a shared entry, merges into a waiting one, or is dropped and counted (R67). -/
def pushReport (site : Nat) (item : Instr) (s : State) : State :=
  modSen site (fun x =>
    if x.used false + reportSlots item ≤ 14 then { x with fq := x.fq ++ [{ item := item, slots := reportSlots item }] }
    else match (reportKey item).bind fun k => mergeEntry k x.fq with
      | some q => { x with fq := q }
      | none => { selectedEvent 14 1 x with dropCount := satAdd 65535 x.dropCount 1
                                            dropUnsent := satAdd (2 ^ 32 - 1) x.dropUnsent 1 }) s

/-! ## Merged events (R70, R71): 0 poison consumed, 1 trace buffer full, 2 trace records dropped -/

/-- An event of a code at the front: counted, and its level raised at the first since the back took the code. -/
def raiseEv (site code : Nat) (detail : List Byte) (s : State) : State :=
  modSen site (fun x =>
    let x := { x with evCount := Sparse.upd 0 x.evCount code fun v => (v + 1) % 65536 }
    if Sparse.get false x.evLevel code then x
    else { x with evLevel := Sparse.set false x.evLevel code true, evFirst := Sparse.set [] x.evFirst code detail }) s

/-- Events of a code since the back last took it, modulo 2^16. -/
def Sentinel.evDiff (x : Sentinel) (code : Nat) : Nat :=
  (Sparse.get 0 x.evCount code + 65536 - Sparse.get 0 x.evTaken code) % 65536

/-- Fence done leaves when the sentinel is fenced and no queue has a pending head (R337). -/
def fenceIdle (site : Nat) (s : State) : State :=
  let x := s.senOf site
  if x.fenced && x.shadow.all (fun e => !bitOf 0 e.2.state && e.2.depth == 0) && !s.sent.contains (.fenceDone site) then send (.fenceDone site) s else s

/-- A fence is released: FENCED falls in every SHADOW entry (Table 14.3). -/
def Sentinel.unfence (x : Sentinel) : Sentinel :=
  { x with fenced := false, shadow := Sparse.mapAll {} x.shadow fun _ e => { e with state := if bitOf 2 e.state then e.state - 4 else e.state } }

/-! ## Alarm levels (R40, R78) -/

/-- A sentinel's alarm level rises or falls, with a message at each change. -/
def setAlarm (site code : Nat) (raised : Bool) (edge : Edge) (s : State) : State :=
  if bitOf code (s.senOf site).alarm = raised then s
  else
    send (.alarmLevel site code raised edge) (modSen site (fun x =>
      { x with alarm := if raised then x.alarm + 2 ^ code else x.alarm - 2 ^ code }) s)

/-! ## Crossing into a stopped front (R72, R75) -/

/-- SEN_WAKE_REQ rises when a crossing waits and no request is under way (R72). -/
def raiseWake (site : Nat) (s : State) : State :=
  modSen site (fun x => if x.wakeState = 0 && (!x.wakeWaiting.isEmpty || x.settle || x.drains != 0) then { x with wakeState := 1, wake := true }
    else x) s

/-- An access needs the front of its tile and cannot cross to it yet. -/
def State.mustWait (s : State) (site : Nat) : Bool := !s.clockRuns site || (s.senOf site).inReset

/-- A crossing waits for the front (R72, R75): the request rises, but for a tile in reset. -/
def waitFront (site : Nat) (f : Sentinel → Sentinel) (s : State) : State :=
  let s := modSen site f s
  if (s.senOf site).inReset then s else raiseWake site s

/-- An access to the front of a tile whose crossing branch does not run, or that is in reset, waits (R72, R75). -/
def waitWake (site : Nat) (m : Instr) (s : State) : State :=
  waitFront site (fun x => { x with wakeWaiting := x.wakeWaiting ++ [m] }) s

/-- The back takes the events of a code (R70, R71): one event is delivered, with the difference saturated to 8 bits as its merge count
and the detail of the first; poison consumed becomes an alarm level (R312). -/
def takeEv (site code : Nat) (s : State) : State :=
  if (s.senOf site).evDiff code = 0 then s
  else
    let s := modSen site (fun x => { x with
      evDelivered := Sparse.set (0, []) x.evDelivered code (min 255 (x.evDiff code), Sparse.get [] x.evFirst code)
      evTaken := Sparse.set 0 x.evTaken code (Sparse.get 0 x.evCount code)
      evLevel := Sparse.set false x.evLevel code false }) s
    if code = 0 then setAlarm site 0 true {} s else s

/-! ## Settings at a boundary (R79, R447) -/

/-- SEN.CTRL and SEN.OBS as written reach the front. -/
def settleFront (x : Sentinel) : Sentinel := { x with ctrlFront := x.ctrl, obsFront := x.obs }

/-! ## Reset of the tile's logic (R76, R331, R444, R448; Table 14.12) -/

/-- What a tile reset or partition reset leaves of a sentinel: registers of type RWS, the front's copies of SEN.CTRL and SEN.OBS, the
trace region and its index. QUEUE_FLUSHED is set where the queue held an entry (log entry 26). -/
def resetFront (x : Sentinel) : Sentinel :=
  { x with
    fq := [], fwait := [], drains := 0, evDelivered := [], slotHi := 0, stopSlot := 0, stopHi := 0, sampleCount := 0, runFailed := false, wordBad := []
    runSeals := false, plausSent := [], tracePost := 0, traceLocal := false, traceRemote := false, duty := 0, product := none
    tracePend := 0, evCount := [], evTaken := [], evLevel := [], evFirst := [], counters := [], shadow := [], ticks := []
    stream := none, streamFree := false, captures := [], rereads := [], inMarks := [], ledger := [], marks := [], outputs := 0, served := 0, shared := false
    overrun := false, stepLast := false, run := none, heater := false, halted := none, stopAt := none, stopped := false
    fenced := false, freqStep := 0
    traceState := if x.traceState = 0 then 0 else 3
    crossErr := if x.fq.isEmpty then x.crossErr else x.crossErr ||| 4 }

/-- VALID of every watch entry is cleared, at the back and at the front; HANDLE, MATCH and STEP stay (Tables 2.6, 18.11). -/
def disarmWatches (x : Sentinel) : Sentinel :=
  let off (m : Sparse Nat) : Sparse Nat := (List.range 8).foldl (fun m k => Sparse.upd 0 m (0x220 + 8 * k) (· % 2 ^ 31)) m
  { x with obs := off x.obs, obsFront := off x.obsFront }

/-- Report entries that a reset discards (R76). -/
def Sentinel.reportEntries (x : Sentinel) : Nat := (x.fq.filter fun e => !e.reserved).length

/-- The sentinel's part of a tile reset: cleared, its BLOCKED and THROTTLE_LATE levels fall, the discarded report
entries recorded in one CROSSING_FLUSHED. -/
def resetSentinel (site : Nat) (s : State) : State :=
  let n := (s.senOf site).reportEntries
  let s := each ((List.range 8).map (16 + ·) ++ [2]) (fun c s => setAlarm site c false {} s) s
  let s := modSen site resetFront s
  if n = 0 then s else senEvent site 0xA005 (le 2 site ++ le 2 0 ++ le 4 n) s

/-- Sites whose sentinel works. -/
def State.liveSites (s : State) : List Nat := (s.sen.filter fun x => x.2.bistPass && !x.2.silent).map (·.1)

end Sys2Proof.Machine
end

