-- ==== Sys2Proof/Machine/Passes.lean ====
section
/-!
DEFINITION. Margin screening on a hub (chapter 9) and replays (R201 to R204): screens and their results, the pass of a hub,
and the runs it starts.
-/
namespace Sys2Proof.Machine

/-! ## Windows (R229, R232) -/

/-- Slots left of the screening window of a partition. -/
def State.windowLeft (s : State) (p : Nat) : Nat :=
  match (s.partOf p).windowAt with
  | some a => if s.slot < a then 0 else a + (s.jobOf p).windowLength - s.slot
  | none => 0

/-- A breach has ended the screening of the window that is open (R232). -/
def State.breached (s : State) (p : Nat) : Bool := (s.partOf p).breach && s.windowLeft p != 0

/-- The partition is inside a window in which screening may go on. -/
def State.inWindow (s : State) (p : Nat) : Bool := s.windowLeft p != 0 && !(s.partOf p).breach

/-- Slots of one microsecond at the nominal clock. -/
def slotsPerUs : Nat := 1200

/-- Slow bound of a run at a point with its restore time, in microseconds (Table 9.2, R235). -/
def runBound (point : Nat) : Nat := (if point ≤ 4 then 300 else if point ≤ 7 then 400 else 700) + 110

/-- A run of `bound` microseconds fits in what is left of a partition's window. -/
def State.fitsWindow (s : State) (p bound : Nat) : Bool := s.inWindow p && bound * slotsPerUs ≤ s.windowLeft p

/-! ## Where a point can be measured (R222, R224, R237, R242) -/

/-- Sites above, below, left and right of a site in its sector. -/
def neighbours (site : Nat) : List Nat :=
  let r := siteRow site
  let c := siteCol site
  (if r = 0 then [] else [site - 14]) ++ (if r = 11 then [] else [site + 14]) ++ (if c = 0 then [] else [site - 1]) ++
    (if c = 13 then [] else [site + 1])

/-- A site runs no job content at the moment. -/
def State.idleSite (s : State) (site : Nat) : Bool :=
  s.tileAt site == 0xFFFF || !s.hasJob (s.sitePart site) || s.inWindow (s.sitePart site)

/-- A site whose sentinel and clocks work. -/
def State.usable (s : State) (site : Nat) : Bool :=
  let x := s.senOf site
  x.bistPass && !x.silent && !x.inReset && !s.sent.any fun m => match m with
    | .tileReset y _ => y == site
    | _ => false

/-- The reference condition of R211: HEALTHY or SPARE_FREE, and a screen passed within MIRROR_REF_AGE. -/
def State.isReference (s : State) (site : Nat) : Bool :=
  let r := s.siteRec site
  (r.state = 3 || r.state = 1) && r.lastScreenPass != 0 && s.secs - r.lastScreenPass ≤ s.image.policy.mirrorRefAge

/-- The reference site that makes a nominal run of two candidates of a sector a cross-check (R211): one that runs no job content and
no screen of its own. -/
def State.mirrorRef (s : State) (sector : Nat) (testing : List Nat) : Option Nat :=
  if testing.length != 2 || testing.any s.isReference then none
  else (s.health.keys.filter fun x => sectorOf x = sector).find? fun x =>
    s.isReference x && s.usable x && s.idleSite x && (s.senOf x).run.isNone && (Sparse.get none s.screens x).isNone && !testing.contains x

/-- A neighbour can act as heater. -/
def State.canHeat (s : State) (site : Nat) : Bool := (neighbours site).any fun y => s.usable y && s.idleSite y

/-- The modelled temperature of a sector, as sampled and as the model stands, is within SCREEN_THERMAL_MARGIN of the junction
limit (R242). -/
def State.nearLimit (s : State) (sector : Nat) : Bool :=
  let x := (s.hubOf sector).thermal
  let level := f64.sub s.throttle.limitBits (f64.ofDyadic s.image.policy.screenThermalMargin (-4))
  !x.t.isEmpty && (f64.le level x.tg || x.t.any fun v => f64.le level (f64.add v x.b))

/-- A voltage step of 25 mV each keeps the feed at 675 mV or more (R222). -/
def voltageAllowed (sector point : Nat) : Bool := 675 + 25 * (point - 4) ≤ Config.feedSetpoint sector

/-- A site under screen can be tested at a point now (R233, R235, R237): one with a job's tile only inside a window; a voltage point
of the hub's own sector, inside a window or with no job content in the sector; a temperature point where heat is available.
Nothing is tested in a window that a breach has ended (R232). -/
def State.canRun (s : State) (h site : Nat) (c : Screen) : Bool :=
  let p := s.sitePart site
  let point := c.point
  let fits := s.fitsWindow p (runBound point)
  s.usable site && (s.siteRec site).state != 2 && !s.breached p &&
  (if s.tileAt site != 0xFFFF then fits
   else if point ≤ 4 then true
   else if point ≤ 7 then fits || !s.hasJob p
   else fits || !c.noHeat) &&
  (if point ≤ 4 then true
   else if point ≤ 7 then sectorOf site == h
   else s.canHeat site && !s.nearLimit (sectorOf site))

/-! ## Margin codes (R240, R241) -/

/-- A code from its three axes. -/
def marginCode (f v t : Nat) : Nat := f + 8 * v + 64 * t

/-- One axis of a code: 0 F, 1 V, 2 T. -/
def axisOf (a code : Nat) : Nat := bitsOf (3 * a) 3 code

/-- A code with one axis replaced. -/
def setAxis (a v code : Nat) : Nat := code - axisOf a code * 2 ^ (3 * a) + v * 2 ^ (3 * a)

def Screen.code (c : Screen) : Nat := marginCode c.mF c.mV c.mT

/-- Every point has been measured. -/
def Screen.full (c : Screen) : Bool := 10 ≤ c.point && !c.gap && c.mF != 7 && c.mV != 7 && c.mT != 7

/-- The smaller margin of each axis. -/
def lowCode (a b : Nat) : Nat :=
  marginCode (min (axisOf 0 a) (axisOf 0 b)) (min (axisOf 1 a) (axisOf 1 b)) (min (axisOf 2 a) (axisOf 2 b))

/-! ## Screen results (R239 to R241, R247, R252) -/

/-- SCREEN_RESULT (Table 9.7). -/
def screenResult (site outcome : Nat) (c : Screen) (s : State) : State :=
  let p := s.sitePart site
  let step := if s.hasJob p then (s.partOf p).step else 0
  recordFrom site 0x2001 (le 2 site ++ le 1 outcome ++ le 1 c.kind ++ le 2 c.code ++ le 2 (s.siteRec site).marginRef ++
    le 1 c.failRecipes ++ le 1 c.runs ++ le 8 c.epoch.toNat ++ le 8 step) s

/-- One axis of a screen against its reference: MARGIN_DECLINE when this screen and the last that measured it both give
less. The steps of decline are added to `n`. -/
def declineAxis (site code prev : Nat) (epoch : Dword) (a : Nat) (x : State × Nat) : State × Nat :=
  let s := x.1
  let ref := (s.siteRec site).marginRef
  let m := axisOf a code
  let o := axisOf a prev
  let r := axisOf a ref
  if m = 7 || o = 7 || r = 7 || r ≤ m || r ≤ o then x
  else
    let new := setAxis a (max m o) ref
    let s := recordFrom site 0x2002 (le 2 site ++ le 1 a ++ le 1 (r - max m o) ++ le 2 ref ++ le 2 new ++ le 8 epoch.toNat) s
    (modSite site (fun y => { y with marginRef := new }) s, x.2 + (r - max m o))

/-- What a passed screen leaves in the site's record: times, margins, the first reference; then the declines of its axes,
which make one event of kind 6 (R250), permanent by history in a deep screen only (R251). -/
def passScreen (site code : Nat) (full deep : Bool) (epoch : Dword) (s : State) : State :=
  let prev := Sparse.get 0x1FF s.marginPrev site
  let s := changeSite site 0 0 (fun r => { r with
    marginLast := code, lastScreenPass := s.secs, lastFullScreen := if full then s.secs else r.lastFullScreen
    cleanScreens := satAdd 65535 r.cleanScreens 1
    marginRef := if r.marginRef = 0x1FF && full then code else r.marginRef }) s
  let seen := [0, 1, 2].foldl (fun k a => if axisOf a code = 7 then k else setAxis a (axisOf a code) k) prev
  let s := setMarginPrev (Sparse.set 0x1FF s.marginPrev site seen) s
  let d := [0, 1, 2].foldl (fun x a => declineAxis site code prev epoch a x) (s, 0)
  if d.2 = 0 then d.1 else charge site 6 d.2 (deep && d.1.permanentByHistory site 6) d.1

/-- A deep screen has passed (Table 10.3): a QUARANTINED site is free with CONDITION 1, whose clean period begins. -/
def passDeep (site code : Nat) (epoch : Dword) (s : State) : State :=
  let held := (s.siteRec site).state == 6
  let s := passScreen site code true true epoch (setDeepPassed (if s.deepPassed.contains site then s.deepPassed else s.deepPassed ++ [site]) s)
  let s := changeSite site 11 0 (fun r => { r with
    deepPending := false, state := if held then 1 else r.state, condition := if held then 1 else r.condition
    permanent := if held then false else r.permanent, cleanScreens := if held then 0 else r.cleanScreens }) s
  if (s.siteRec site).state = 1 then spareFreed site s else s

/-- A deep screen has failed: a QUARANTINED site is RETIRED, a rotated-out one QUARANTINED. -/
def failDeep (site : Nat) (s : State) : State :=
  let s := modSite site (fun r => { r with deepPending := false }) (setDeepPassed (s.deepPassed.filter (· != site)) s)
  if (s.siteRec site).state = 6 then
    changeSite site 5 0 (fun r => { countKind 5 r with state := 7, condition := 0, lastEvent := s.secs, lastKind := 5 }) s
  else charge site 5 0 (s.permanentByHistory site 5) s

/-- A screen of a site is over: `outcome` of SCREEN_RESULT. A deep screen goes on with its next repeat; it is left open when
a repeat has not measured every point (R239). -/
def finishScreen (site outcome : Nat) (s : State) : State :=
  match Sparse.get none s.screens site with
  | none => s
  | some c =>
    let s := screenResult site outcome c (setScreens (Sparse.set none s.screens site none) s)
    if c.kind != 3 then
      if c.inert then s
      else if outcome = 0 then passScreen site c.code c.full false c.epoch s
      else if outcome = 1 then charge site 5 0 false s
      else s
    else if outcome = 1 || c.repro then failDeep site s
    else if outcome != 0 || !c.full then s
    else
      let low := lowCode c.low c.code
      if c.repeats = 0 then passDeep site low c.epoch s
      else
        setScreens (Sparse.set none s.screens site (some { kind := 3, repeats := c.repeats - 1, low := low })) s

/-! ## Runs (R223 to R226, R245, R246) -/

/-- A site's run ends: nominal stress, its reservation of the test area stays. -/
def endRun (site : Nat) (s : State) : State :=
  modSen site (fun x => { x with run := none, heater := false, duty := 0, freqStep := 0, product := none }) (holdSlot site s)

/-- A hub's regulator is asked for its setpoint again; a step that it has not acknowledged is withdrawn by step 0 (R245). -/
def restoreStress (h : Nat) (s : State) : State :=
  modHub h (fun x => { x with vmWant := 0, vmReq := x.vmReq || x.vmStep != 0 }) s

/-- Heaters of a hub's sectors stop. -/
def endHeat (h : Nat) (s : State) : State :=
  each ((s.sen.filter fun x => x.2.heater && s.siteHub x.1 == h).map (·.1)) (fun x s => modSen x (fun y => { y with heater := false, duty := 0 }) (holdSlot x s)) s

/-- A hub's run in progress is ended and its stress restored; `reason` of RUN_DISCARDED, 0 for none. A global stop only pauses a
replay (Table 8.10). -/
def discardRun (h reason : Nat) (s : State) : State :=
  match (s.hubOf h).pass with
  | none => s
  | some x =>
    if x.stage = 0 || (reason = 2 && x.replay) then s
    else
      let s := if reason = 0 then s
        else each x.testing (fun y s =>
          recordFrom y 0x2004 (le 2 y ++ le 1 x.point ++ le 1 reason ++ le 8 (s.slotAt y)) s) s
      let s := each x.testing endRun (endHeat h s)
      restoreStress h (modHub h (fun y => { y with pass := some { sites := x.sites } }) s)

/-- Blocks go to the test areas of a sector's sites under test, in order from offset 0. -/
def sendContent (sector : Nat) (blocks : List Block) (s : State) : State :=
  sendAll ((List.range blocks.length).map fun k => .content sector (4624 * k) (padTo 4608 (blocks.getD k {}).payload ++
    Tag.bytes (blocks.getD k {}).tag)) s

/-- The screen messages of a recipe of the run: its content, and the start at each site under test. -/
def sendRecipe (h : Nat) (s : State) : State :=
  match (s.hubOf h).pass with
  | none => s
  | some x =>
    let c := recipeContent x.recipe (s.hubOf h).contentGen
    let s := sendContent x.sector (c.2.1 ++ c.2.2) (modHub h (fun y => { y with contentGen := c.1 }) s)
    sendAll (x.testing.map fun site => .screenRun site (sectorOf site) x.point x.recipe x.epoch) s

/-- Stress is in place: the run computes. A nominal run is a new batch and takes the next epoch; its content is that of the sector
under test (R209, R225). -/
def beginRun (h : Nat) (s : State) : State :=
  match (s.hubOf h).pass with
  | none => s
  | some x =>
    let fresh : Bool := x.point == 0 && x.epoch == 0
    let epoch : Dword := if fresh then (s.hubOf h).epoch + 1 else x.epoch
    let seed := contentSeed x.sector epoch
    let s := if fresh then countHub h 28 1 s else s
    let s := modHub h (fun y => { y with
      epoch := if fresh then epoch else y.epoch, contentSeed := seed, contentGen := seed
      pass := some { x with stage := 3, epoch := epoch, recipe := 0, rows := [] } }) s
    let start (site : Nat) (s : State) : State :=
      match Sparse.get none s.screens site with
      | none => s
      | some c =>
        let base := if x.point = 0 then (s.hubOf (sectorOf site)).thermal.t.getD (site % 168) 0 else c.base
        (setScreens (Sparse.set none s.screens site (some { c with epoch := epoch, runs := satAdd 255 c.runs 1, base := base })) s)
    sendRecipe h (each x.testing start s)

/-- Parity of a site (R224). -/
def siteParity (site : Nat) : Nat := (siteRow site + siteCol site) % 2

/-- Ordering key of a site's next run: point, phase, epoch. -/
def runKey (site : Nat) (c : Screen) : Nat :=
  (2 * c.point + (if 8 ≤ c.point then siteParity site else 0)) * 2 ^ 64 + c.epoch.toNat

/-! ## Hub unit power states (R375, Table 15.7) -/

/-- With no job attached to the sectors that a hub serves, its rule sequencer is retained and its idle verification engine
off. -/
def restUnits (h : Nat) (s : State) : State :=
  if (s.served h).any fun x => s.hasJob (s.sectorPart x) then s
  else modHub h (fun y => { y with
    sequencer := 2, engine := if y.pass.isNone && y.job.isNone && y.repeats.isEmpty then 3 else y.engine }) s

/-- Both are active. -/
def wakeUnits (h : Nat) (s : State) : State := modHub h (fun y => { y with sequencer := 0, engine := 0 }) s

/-! ## A run's stress and start -/

/-- A run is set up at a point: the regulator, then the heaters with their duties, then the content. No heater starts near the
junction limit (R242): the run waits. -/
def setUpRun (h point phase : Nat) (epoch : Dword) (testing : List Nat) (x : Pass) (s : State) : State :=
  let want := if 5 ≤ point && point ≤ 7 then point - 4 else 0
  let run : Pass := { sites := x.sites, point := point, phase := phase, epoch := epoch, testing := testing
                      sector := sectorOf (testing.headD 0) }
  let y := s.hubOf h
  if y.vmStep != want || y.vmReq then
    modHub h (fun y => { y with vmWant := want, vmReq := true, pass := some { run with stage := 1 } }) s
  else if 8 ≤ point then
    if testing.any fun z => s.nearLimit (sectorOf z) then modHub h (fun y => { y with pass := some { sites := x.sites } }) s
    else
      let heaters := ((testing.flatMap neighbours).eraseDups).filter fun n => s.usable n && s.idleSite n && !testing.contains n
      each heaters (fun n s => modSen n (fun z => { z with heater := true, duty := Config.heaterDuty n point % 17 }) s)
        (modHub h (fun y => { y with pass := some { run with stage := 2 } }) s)
  else beginRun h (modHub h (fun y => { y with pass := some { run with stage := 3 } }) s)

/-! ## Replays (R202, R203) -/

/-- Lanes of one operand of the replay product (R202): the recorded lane, its partner with the group maxima as fine scales
of zero elements, every other lane of zero elements with fine scale −128. -/
def replayLanes (lane : Nat) (rec : List Group) (maxs : List Int) : List (List Group) :=
  let zeros := List.replicate 32 (0 : Int)
  let partner := if lane % 2 = 0 then lane + 1 else lane - 1
  (List.range 64).map fun n =>
    if n = lane then rec else if n = partner then maxs.map fun e => (true, e, zeros) else maxs.map fun _ => (true, -128, zeros)

/-- A replay can run now: at once on a site that holds no logical tile, else inside a window (R203). -/
def State.canReplay (s : State) (site : Nat) : Bool :=
  s.usable site && (if s.tileAt site = 0xFFFF then true else s.fitsWindow (s.sitePart site) (60 + 110))

/-- A replay run starts on the site of a record: the product goes into the test area (R202). -/
def startReplay (h : Nat) (r : ReplayRec) (x : Pass) (s : State) : State :=
  let site := r.site
  let product : Product := { desc := r.header.desc, a := replayLanes r.lane.locI r.lane.a r.header.maxA
                             b := replayLanes r.lane.locJ r.lane.b r.header.maxB, locI := r.lane.locI, locJ := r.lane.locJ, sk := r.sk }
  let a := replayBlocks 0 r.lane.locI r.lane.rawA r.header.maxA
  let b := replayBlocks a.length r.lane.locJ r.lane.rawB r.header.maxB
  let s := countHub h 30 1 (modSen site (fun y => { y with product := some product }) s)
  let s := modHub h (fun y => { y with pass := some { sites := x.sites, stage := 3, testing := [site], sector := sectorOf site, replay := true } }) s
  send (.screenRun site (sectorOf site) 0 0xFF 0) (sendContent (sectorOf site) (a ++ b) s)

/-! ## What runs next (R234, R235) -/

/-- Points that a site does not measure are passed over: a voltage step below the floor, or one of a sector whose regulator is not
the hub's (Table 9.6); a temperature point that its neighbours cannot heat, whose axis is then not measured (R224). A screen
with no point left ends. -/
def skipPoints (site : Nat) (s : State) : State :=
  match Sparse.get none s.screens site with
  | none => s
  | some c =>
    let noFeed : Bool := !voltageAllowed (sectorOf site) c.point || sectorOf site != s.siteHub site
    let skip : Bool := 5 ≤ c.point && c.point ≤ 7 && noFeed
    let point := if skip then 8 else c.point
    let c := { c with gap := c.gap || skip }
    let here := s.fitsWindow (s.sitePart site) (runBound point) || (s.tileAt site == 0xFFFF && !c.noHeat)
    if 8 ≤ point && point < 10 && here && !s.canHeat site then
      finishScreen site 0 (setScreens (Sparse.set none s.screens site (some { c with point := 10, mT := 7 })) s)
    else if 10 ≤ point then finishScreen site 0 (setScreens (Sparse.set none s.screens site (some { c with point := 10 })) s)
    else if !skip then s
    else setScreens (Sparse.set none s.screens site (some { c with point := point })) s

/-- Order of a site's work in a pass (R234): requested, WATCH, HEALTHY, then sites out of service. -/
def Screen.rank (c : Screen) : Nat := if c.kind = 2 then 0 else if c.kind = 1 then 1 else if c.kind = 0 then 2 else 3

/-- The next run of an idle pass: replays first, then the screens of the first in the order of R234. The screens of one epoch move
through one sequence of runs: their earliest point is next, with every site of its sector that is at it, while a site whose axis
has ended stays idle; with nothing to run the pass ends. -/
def nextRun (h : Nat) (s : State) : State :=
  match (s.hubOf h).pass with
  | none => s
  | some x =>
    if x.stage != 0 || s.stop.state != 0 || !s.throttle.screensAllowed || s.throttle.stage != 0 || s.noRuns then s
    else
      match (if bitOf 3 (s.hubOf h).veCtrl then (s.hubOf h).replays.find? fun r => s.canReplay r.site else none) with
      | some r => startReplay h r x s
      | none =>
        let s := if bitOf 2 (s.hubOf h).veCtrl then each x.sites skipPoints s else s
        let ready := if !bitOf 2 (s.hubOf h).veCtrl then [] else x.sites.filterMap fun site =>
          match Sparse.get none s.screens site with
          | some c => if s.canRun h site c then some (site, c) else none
          | none => none
        let first (e : Dword) : Nat := (ready.filter fun y => y.2.epoch = e).foldl (fun m y => min m y.2.rank) 3
        let key (y : Nat × Screen) : Nat := 2 ^ 80 * first y.2.epoch + runKey y.1 y.2
        match ready with
        | [] => restUnits h (restoreStress h (modHub h (fun y => { y with pass := none }) s))
        | r :: rs =>
          let first := rs.foldl (fun b y => if key y < key b then y else b) r
          let testing := (ready.filter fun y => runKey y.1 y.2 = runKey first.1 first.2 && sectorOf y.1 = sectorOf first.1).map (·.1)
          let refs := if first.2.point = 0 then (s.mirrorRef (sectorOf first.1) testing).toList else []
          setUpRun h first.2.point (if 8 ≤ first.2.point then siteParity first.1 else 0) first.2.epoch (testing ++ refs) x s

/-- Sites join the pass of their hub, which starts or goes on. -/
def joinPass (h : Nat) (sites : List Nat) (s : State) : State :=
  nextRun h (modHub h (fun y => { y with engine := 0, pass := match y.pass with
    | some x => some { x with sites := x.sites ++ sites.filter fun z => !x.sites.contains z }
    | none => some { sites := sites } }) s)

/-- Every hub's pass goes on. -/
def resumePasses (s : State) : State := each (s.hubs.filter fun h => (s.hubOf h).pass.isSome) nextRun s

/-- Runs of every hub are discarded (R243, R246). -/
def discardRuns (reason : Nat) (s : State) : State := each (s.hubs.filter fun h => (s.hubOf h).pass.isSome) (fun h s => discardRun h reason s) s

/-- A site leaves the pass of its hub. -/
def leavePass (site : Nat) (s : State) : State :=
  let h := s.siteHub site
  endRun site (modHub h (fun y => { y with pass := y.pass.map fun x =>
    { x with sites := x.sites.filter (· != site), testing := x.testing.filter (· != site), rows := x.rows.filter fun r => r.site != site } }) s)

/-- A new screen of a site. -/
def newScreen (site : Nat) (c : Screen) (s : State) : State := setScreens (Sparse.set none s.screens site (some c)) s

/-- A site's screen is cancelled: it starts again from N when next due. What the loss sentinel has asked waits on (R233). -/
def cancelScreen (site : Nat) (s : State) : State :=
  leavePass site (setScreens (Sparse.set none s.screens site none)
    (setScreenReqs (s.screenReqs.filter fun x => x.1 != site || x.2 = 1) s))

/-- Repeats of a site wait or run (R219). -/
def State.repeatPending (s : State) (site : Nat) : Bool :=
  let y := s.hubOf (s.siteHub site)
  y.repeats.any (fun r => r.site = site) || (match y.job with | some j => j.req.site = site | none => false)

/-- The deep screen of a QUARANTINED or rotated-out site starts, with a tile reset before it (R239, R351), but while a higher-ranked
action (R54) is in progress. -/
def forceDeep (site : Nat) (s : State) : State :=
  let r := s.siteRec site
  if !(r.state = 6 || (r.state = 1 && r.deepPending)) || (Sparse.get none s.screens site).isSome || s.breached (s.sitePart site) ||
      s.fencing (s.sitePart site) || s.resetting (s.sitePart site) || s.stop.state != 0 then s
  else
    joinPass (s.siteHub site) [site] (newScreen site { kind := 3, repeats := s.image.policy.deepRepeats - 1 }
      (send (.tileReset site 3) (setScreenReqs (s.screenReqs.filter fun x => x.1 != site) s)))

/-- The deep screen of a site starts, but for a repeat of it in progress (R219). -/
def startDeep (site : Nat) (s : State) : State := if s.repeatPending site then s else forceDeep site s

/-! ## Replay outcomes (R204) -/

/-- REPLAY_RESULT (Table 8.11). -/
def replayResult (r : ReplayRec) (outcome : Nat) (s : State) : State :=
  recordFrom r.site 0x1041 (le 2 r.site ++ le 1 outcome ++ le 1 r.runs ++ le 1 r.outcome ++ le 3 0 ++ le 8 r.step ++
    le 1 r.lane.locI ++ le 1 r.lane.locJ ++ le 2 0) s

/-- What a reproduction charges: a checker fault that the outcome did not charge, a compute fault that the conversion hid,
or the reproduction of the charged event itself. In a deep screen it makes the screen fail as well. -/
def chargeReplay (r : ReplayRec) (compute checker : Bool) (s : State) : State :=
  let site := r.site
  let s := if (s.siteRec site).state = 6 then
      let s := startDeep site s
      match Sparse.get none s.screens site with
      | some c => newScreen site { c with repro := true } s
      | none => s
    else s
  let s := if compute then (if r.outcome = 4 then charge site 1 0 true s else reproduce site 1 s) else s
  if checker then (if r.outcome = 4 || r.outcome = 6 then reproduce site 3 s else charge site 3 0 true s) else s

/-- Replay records of a site end NOT_REPLAYED (R204). -/
def endReplays (site : Nat) (s : State) : State :=
  let h := s.siteHub site
  each ((s.hubOf h).replays.filter fun r => r.site = site) (fun r s => replayResult r 4 s)
    (modHub h (fun y => { y with replays := y.replays.filter fun r => r.site != site }) s)

/-- A replay has run REPLAY_RUNS times: its outcome is recorded and its record removed. -/
def finishReplay (h : Nat) (r : ReplayRec) (s : State) : State :=
  let o := flag r.reproCompute + 2 * flag r.reproChecker
  let s := replayResult r o (modHub h (fun y => { y with replays := y.replays.filter fun q => !(q.site = r.site && q.step = r.step &&
    q.header = r.header && q.lane = r.lane) }) s)
  if o = 0 then s else chargeReplay r r.reproCompute r.reproChecker s

end Sys2Proof.Machine
end

