-- ==== Sys2Proof/Machine/Actions.lean ====
section
/-!
DEFINITION. Actions on units that several commands share (R54, R55): release of a global stop, end of screens and
takeovers, step verdict records and the ABORTED step, hang snapshots, fences, partition resets, restart of a step,
detach of a job.
-/
namespace Sys2Proof.Machine

/-! ## Step boundaries (R124, R270, R347) -/

/-- What a partition holds of an open step is cleared. -/
def clearStep (x : Partition) : Partition :=
  { x with
    token := none, later := [], release := none, contrib := [], rootFailed := 0, rootLedger := [], treeKept := 0, treeEarly := [], portPeers := []
    restarts := 0, mismatches := 0, exitFailed := false, committing := false, committed := false, finalKept := none
    peers := x.peers.map fun e => { e with got := 0, verdict := 0, kept := 0 }
    stepEnded := false, opened := false, flagsRec := 0, lateRec := 0, trailers := [], treeIn := [], treeHas := false
    releaseHas := false, boundary := false, held := false, early := [], linkSeen := [] }

/-- The step boundary that opens a partition's step goes to its hubs; with the first, JOB_ATTACH completes. -/
def openStep (p : Nat) (restart : Bool) (s : State) : State :=
  let x := s.partOf p
  let sk := stepKey (s.jobOf p).seed x.step
  let flags := flag x.setSwitch + 2 * flag x.bankSwitch + 4 * flag restart
  let hubs := s.partHubs p
  let s := match x.starting with
    | some a => complete a.1 0 a.2 s
    | none => s
  let s := modPart p (fun x => { clearStep x with
    starting := none, opened := true, bank := if x.bankSwitch then 1 - x.bank else x.bank, bankSwitch := false, setSwitch := false
    token := x.token, later := x.later, release := x.release, committing := x.committing, committed := x.committed
    finalKept := x.finalKept, treeIn := x.treeIn, restarts := x.restarts
    mismatches := x.mismatches, exitFailed := x.exitFailed, peers := x.peers, trailers := x.trailers
    treeEarly := x.treeEarly, portPeers := x.portPeers, treeKept := x.treeKept, treeHas := x.treeHas, releaseHas := x.releaseHas
    early := x.early, linkSeen := x.linkSeen }) s
  let s := each ((s.partAllSites p).filter fun z => (s.siteRec z).suspected) (fun z s => noteReason z 2 s) s
  sendAll (hubs.map fun h => .stepBoundary h p x.step sk flags) s

/-! ## Partners (R291, R292) -/

/-- The logical tile with the same local number, `d` present sectors of the partition further. -/
def State.shifted (s : State) (p tile d : Nat) : Nat :=
  let xs := s.partSectors p
  156 * s.rank (xs.getD ((xs.idxOf (s.homeSector tile) + d) % xs.length) 80) + tile % 156

/-- The tile that holds a tile's mirror, and the tile whose mirror a tile holds. -/
def State.holderOf (s : State) (p tile : Nat) : Nat := s.shifted p tile (s.jobOf p).shift
def State.ownerOf (s : State) (p tile : Nat) : Nat := s.shifted p tile ((s.partSectors p).length - (s.jobOf p).shift)

/-- Why a pair of owner and holder is exposed: 1 same sector, 2 same feed group, 0 it is not. -/
def State.exposure (s : State) (owner holder : Nat) : Nat :=
  match s.siteOf owner, s.siteOf holder with
  | some x, some y => if sectorOf x = sectorOf y then 1 else if sectorOf x % 8 = sectorOf y % 8 then 2 else 0
  | _, _ => 0

/-- PAIR_EXPOSED after a remap, when the pair was not exposed before it (`was`). -/
def checkPair (p owner holder was : Nat) (s : State) : State :=
  let now := s.exposure owner holder
  if now = 0 || was != 0 then s
  else
    record 0x9002 (le 2 owner ++ le 2 holder ++ le 2 ((s.siteOf owner).getD 0xFFFF) ++ le 2 ((s.siteOf holder).getD 0xFFFF) ++
      le 1 now ++ le 3 0 ++ le 8 (s.partOf p).step) s

/-! ## The end of a takeover (R252, R255, R258, R292, R301) -/

/-- The idle bank's entry and route of a tile become those of the active bank. -/
def restoreBank (p tile : Nat) (s : State) : State :=
  if (s.partOf p).bank = 0 then
    setXlat1 (Sparse.set 0 s.xlat1 tile (Sparse.get 0 s.xlat0 tile))
      (setRoutes1 (Sparse.set [] s.routes1 tile (Sparse.get [] s.routes0 tile)) s)
  else
    setXlat0 (Sparse.set 0 s.xlat0 tile (Sparse.get 0 s.xlat1 tile))
      (setRoutes0 (Sparse.set [] s.routes0 tile (Sparse.get [] s.routes1 tile)) s)

/-- A prepared swap-out that waits for a later boundary: its entry goes into the bank that is idle now. -/
def keepPrepared (p : Nat) (w : Swap) (s : State) : State :=
  match w.new with
  | some n => putIdle p w.tile w.old n s
  | none => s

/-- State of the mirror that a spare holds after its fill (R299; log entry 46): of the step `st` when it was refilled
from a tile. -/
def fillMirror (src st : Nat) (x : Sentinel) : Sentinel :=
  if src = 1 || src = 2 then { x with mirrorState := 1, mirrorStep := st } else { x with mirrorState := 0 }

/-- What both streams of a fill have put into a spare (R299): the holder's mirror, and the region of the tile whose mirror the outgoing
site held, or that mirror. A mirror that its owner has refilled is current: the owner has nothing left to send (R294). -/
def fillRegions (p : Nat) (w : Swap) (new st : Nat) (s : State) : State :=
  let held (t : Nat) : Sentinel := match s.siteOf t with
    | some x => s.senOf x
    | none => {}
  let res := if w.resSource = 1 then (held (s.holderOf p w.tile)).mirrorBlocks else []
  let mir := if w.mirSource = 1 then (held (s.ownerOf p w.tile)).resident
    else if w.mirSource = 2 then (s.senOf w.old).mirrorBlocks else []
  let s := modSen new (fun x => fillMirror w.mirSource st { x with resident := res, mirrorBlocks := mir }) s
  match s.siteOf (s.ownerOf p w.tile) with
  | some o => if w.mirSource = 1 then modSen o (fun x => { x with marks := [] }) s else s
  | none => s

/-- The spare takes its state, the outgoing site becomes QUARANTINED; REMAP and TAKEOVER are recorded. `st` is the step before the
boundary. -/
def finishSwap (p st hold : Nat) (w : Swap) (s : State) : State :=
  match w.new with
  | none => s
  | some new =>
    let serving := s.servingState new w.tile
    let s := holdSlot w.old s
    let s := changeSite new 0 0 (fun r => { r with state := serving, logical := w.tile }) s
    let s := changeSite w.old 0 0 (fun r => quarantined (leaveTile r)) s
    let s := recordFrom w.old 0x3002 (remapPayload w.tile w.old new (st + 1) (s.jobOf p).detour (serving == 8)) s
    let s := send (.tileReset w.old 1) s
    let s := modSen new (fun x => { x with sampleCount := 0, marks := [] }) s
    let s := if (s.jobOf p).residentSize = 0 then s else fillRegions p w new st s
    let s := countGlobal p 6 1 (record 0x9003 (le 2 w.tile ++ le 2 w.old ++ le 2 new ++ le 1 w.resSource ++ le 1 w.mirSource ++
      le 8 st ++ le 4 hold ++ le 1 w.flags ++ le 3 0) s)
    completeAll w.seqs 0 (le 2 new ++ le 2 0 ++ le 8 (st + 1)) s

/-- The step after the token's opens, with the banks switched when takeovers end here (R270, R301); each pair that they have exposed is
recorded once (R292). -/
def openNext (p : Nat) (s : State) : State :=
  let x := s.partOf p
  let done := x.swaps.filter (·.filled)
  let rest := x.swaps.filter fun w => !w.filled
  let hold := min (since s.ras x.boundaryAt) (2 ^ 32 - 1)
  let pairs := (done.flatMap fun w => [(w.tile, s.holderOf p w.tile), (s.ownerOf p w.tile, w.tile)]).eraseDups
  let was := pairs.map fun e => s.exposure e.1 e.2
  let s := each rest (fun w s => restoreBank p w.tile s) s
  let s := openStep p false (modPart p (fun y => { y with step := y.step + 1, swaps := rest, bankSwitch := !done.isEmpty }) s)
  let s := each done (fun w s => restoreBank p w.tile s) s
  let s := each rest (keepPrepared p) s
  let s := each done (finishSwap p x.step hold) s
  each (pairs.zip was) (fun e s => checkPair p e.1.1 e.1.2 e.2 s) s

/-- After a reset, or on release of a fence, the job's contexts but the refused ones open again and the aborted step
starts again (R347). -/
def resumeJob (p contexts : Nat) (s : State) : State :=
  let s := modPart p (fun x => { x with state := 2, open_ := contexts &&& (15 ^^^ x.refusedCtx), resumeCtx := 0 }) s
  openStep p true s

/-! ## Copies and the commit (R277, R293, R295, R296) -/

/-- A site that a copy cannot use: none, LOST, or its sentinel silent. -/
def State.cannotCopy (s : State) (site : Option Nat) : Bool :=
  match site with
  | none => true
  | some x => (s.siteRec x).lost || (s.senOf x).silent

/-- Peer entries of a job but for those that a down port has removed (R389); an entry keeps its number. -/
def Partition.livePeers (x : Partition) : List Peer := x.peers.filter (!·.gone)

/-- A copy whose owner or holder is gone does not complete; the tree waits for it no longer (R295, Table 12.6). -/
def pruneCopies (p : Nat) (s : State) : State :=
  let ok (t : Nat) : Bool := !s.cannotCopy (s.siteOf t) && !s.cannotCopy (s.siteOf (s.holderOf p t))
  modPart p (fun x => { x with copying := x.copying.filter ok }) s

/-- The tree starts to write the commit when it holds the final outcome and the peer release, and every copy of the step
before is complete (R277, R295, R296); under a global stop it commits at release (Table 11.10). -/
def tryCommit (p : Nat) (s : State) : State :=
  let s := pruneCopies p s
  let x := s.partOf p
  match x.finalKept with
  | none => s
  | some (_, _, count) =>
    if x.committing || 2 ≤ s.stop.state || x.fence.isSome || (!x.livePeers.isEmpty && !x.releaseHas) || !x.copying.isEmpty then s
    else if x.tier2Busy.isSome then modPart p (fun y => { y with tier2Held := some (y.tier2Held.getD s.ras) }) s
    else
      let peers := ((x.peers.filter fun e => e.verdict = 1).map (·.kept)).sum
      modPart p (fun y => { y with committing := true, divisor := count + peers }) s

/-! ## Release of a global stop (R461, R463) -/

/-- STOP_RELEASED, and the state RUNNING: a commit, or a step start that a takeover has left
waiting, goes on (Tables 11.10 and 12.6). -/
def finishRelease (s : State) : State :=
  let st := s.stop
  let ticks := if st.state = 2 then since s.ras st.stoppedAt else 0
  let s := record 0xB004 (le 1 st.cause ++ le 3 0 ++ le 8 ticks) s
  let s := completeAll st.seqs 0 [] (setStop ({ releasedAt := some s.ras }) (setSlot (if st.state = 2 then st.sMax else s.slot) s))
  let s := each (List.range 16) tryCommit s
  resumePasses (each ((List.range 16).filter fun p => (s.partOf p).held) openNext s)

/-- A stop ends: the stop slot is withdrawn where it has not been reached, and S_min goes to every halted sentinel. -/
def releaseStop (cause : Nat) (seqs : List Nat) (s : State) : State :=
  if s.stop.releasing then modStop (fun x => { x with seqs := x.seqs ++ seqs }) s
  else if s.stop.state != 1 && s.stop.state != 2 then completeAll seqs 4 [] s
  else
    let live := s.liveSites
    let halted := live.filter fun x => (s.senOf x).halted.isSome
    let lost := if s.stop.state = 1 then s.stop.seqs else []
    let sMin := halted.foldl (fun m x => min m ((s.senOf x).halted.getD m)) (2 ^ 64 - 1)
    let s := completeAll lost 4 [] s
    let s := each live (fun x s => modSen x (fun y => { y with stopAt := none }) s) s
    let s := modStop (fun x => { x with releasing := true, cause := cause, restarting := halted, seqs := seqs
                                        sMin := if halted.isEmpty then x.sMin else sMin }) s
    if halted.isEmpty then finishRelease s
    else sendAll (halted.map fun x => .stopReleaseMessage x (BitVec.ofNat 64 sMin)) s

/-! ## Screens (R55, R232, R246) -/

/-- The runs of a partition's hubs end with their passes, and the stress they applied. -/
def endPasses (p reason : Nat) (s : State) : State :=
  each ((s.partHubs p).filter fun h => (s.hubOf h).pass.isSome) (fun h s =>
    modHub h (fun x => { x with pass := none }) (discardRun h reason s)) s

/-- Screens of a partition's sites are cancelled. -/
def cancelScreens (p : Nat) (s : State) : State :=
  let s := endPasses p 3 s
  let sites := (s.screens.keys ++ s.screenReqs.map (·.1)).eraseDups.filter fun x => s.sitePart x = p
  setScreenReqs (s.screenReqs.filter fun x => s.sitePart x.1 != p) (each sites cancelScreen s)

/-! ## Swap-outs and takeovers (R55, R304) -/

/-- A swap-out is abandoned: the spare becomes SPARE_FREE, the banks stay, a command that waits gets STATE. -/
def abandonSwap (p : Nat) (w : Swap) (s : State) : State :=
  let s := match w.new with
    | some n => changeSite n 0 0 (fun r => if r.state = 2 then { r with state := 1 } else r) s
    | none => s
  let s := restoreBank p w.tile s
  completeAll w.seqs 4 [] s

/-- Every swap-out of a partition is abandoned. -/
def abandonSwaps (p : Nat) (s : State) : State :=
  let ws := (s.partOf p).swaps
  let s := modPart p (fun x => { x with swaps := [], bankSwitch := false }) s
  each ws (abandonSwap p) s

/-! ## Step verdict records (R281, R287, R450) -/

/-- The bytes of a step verdict record (Table 11.7). -/
def stepRecBytes (p : Nat) (r : StepRec) : List Byte :=
  le 8 r.step ++ le 1 p ++ le 1 r.lineages ++ le 1 r.status ++ le 1 r.flags ++ le 4 r.kept ++ le 4 r.late ++
    le 4 r.tokenDelay ++ le 8 r.tokenTime.toNat

/-- The last `n` of a ring. -/
def ringLast {α : Type} (n : Nat) (xs : List α) : List α := xs.drop (xs.length - n)

/-- Bits set in the low 32 bits. -/
def bits32 (n : Nat) : Nat := ((List.range 32).filter fun k => bitOf k n).length

/-- A record is written into the partition's ring of 256, counted and recorded as its event. -/
def putStepRec (p : Nat) (r : StepRec) (s : State) : State :=
  let s := modPart p (fun x => { x with records := ringLast 256 (x.records ++ [r]) }) s
  let s := countGlobal p r.status 1 s
  let s := if r.status = 1 then countGlobal p 4 (r.lineages - bits32 r.kept) s else s
  let s := journalize 3 p r.status 0 0 0 s
  let s := if 2 ≤ r.status then raiseAlert 7 s else s
  if r.status = 0 then s
  else record (if r.status = 1 then 0x1050 else if r.status = 2 then 0x1051 else 0x1056) (stepRecBytes p r) s

/-- Tokens of uncommitted steps, oldest first. -/
def Partition.tokens (x : Partition) : List Token := x.token.toList ++ x.later

/-- The uncommitted steps that have begun, the earliest first (Table 11.10). -/
def Partition.uncommitted (x : Partition) : List Nat :=
  let t := (if x.committed then x.later else x.tokens).map (·.step)
  t ++ (if x.opened && !t.contains x.step then [x.step] else [])

/-- Flags [3] and [4] of the record of the open step (Table 11.7). -/
def State.openFlags (s : State) (p : Nat) : Nat :=
  let hubs := (s.partHubs p).filter fun h => !(s.hubPartSites h p).isEmpty
  8 * flag (hubs.any fun h => (s.hubOf h).collect.adopted) + 16 * flag (hubs.any fun h => (s.hubOf h).collect.loss)

/-- The record of an aborted step, with the token's time when it had one; a restart of the tree shows (R278). -/
def abortRec (s : State) (p step : Nat) : StepRec :=
  let x := s.partOf p
  let base : StepRec := { step := step, lineages := (x.job.getD {}).lineages, status := 3 }
  match x.tokens.find? fun t => t.step = step with
  | some t =>
    { base with flags := t.flags ||| 4 * flag (x.token == some t && x.restarts != 0), late := t.late
                tokenDelay := min (since t.time t.ended) (2 ^ 32 - 1), tokenTime := t.time }
  | none => { base with flags := x.flagsRec ||| s.openFlags p, late := x.lateRec }

/-- The hub's collection for the open step is dropped; the step keys it keeps for repeats stay. -/
def dropCollect (c : Collect) : Collect := { skCur := c.skCur, skPrev := c.skPrev, stepPrev := c.stepPrev, step := c.step }

/-- The partition's uncommitted steps end: ABORTED with a record each (R287, R482), but for a replay's, which leaves no
record (R348). -/
def abortSteps (p : Nat) (replay : Bool) (s : State) : State :=
  let x := s.partOf p
  let steps := x.uncommitted
  let s := if replay then s else each steps (fun n s =>
    modPart p (fun y => { y with digests := ringLast 256 (y.digests ++ [{ step := n, status := 2 }]) })
      (putStepRec p (abortRec s p n) s)) s
  let s := each (s.partHubs p) (fun h s => modHub h (fun y =>
    { y with collect := dropCollect y.collect
             digests := y.digests.filter fun d => d.part != p || !steps.contains d.step }) s) s
  modPart p (fun y => { clearStep y with step := steps.headD (if y.boundary then y.step + 1 else y.step) }) s

/-! ## Hang snapshots (R331 to R334, R353) -/

/-- A SEN.SHADOW entry (Table 14.3). -/
def Shadow.bytes (x : Shadow) : List Byte :=
  le 1 x.state ++ le 1 x.targetKind ++ le 2 x.target ++ le 1 x.context ++ le 1 x.depth ++ le 2 x.credits ++
    le 8 x.headSlot ++ padTo 8 x.headDesc ++ le 4 x.advances ++ le 4 0

/-- SEN.SHADOW of a sentinel, 256 bytes. -/
def Sentinel.shadowBytes (x : Sentinel) : List Byte := (List.range 8).flatMap fun n => (Sparse.get {} x.shadow n).bytes

/-- SEN.SHADOW as it stands: its flops are destroyed by a scan-out (R464). -/
def State.shadowOf (s : State) (site : Nat) : List Byte :=
  if s.stop.state = 3 then (List.range 64).flatMap fun k => le 4 (Config.scanWord s.scanId site (0x100 + 4 * k)).toNat
  else (s.senOf site).shadowBytes

/-- A blocked-on edge (Table 14.2). -/
def edgeBytes (e : Edge) : List Byte :=
  le 1 (e.queue % 8) ++ le 1 e.targetKind ++ le 2 e.target ++ le 1 (e.context % 4) ++ le 1 0 ++ le 2 e.tile ++
    le 8 e.stallSlot.toNat

/-- A site entry (Table 14.6). -/
def snapSiteBytes (x : SnapSite) : List Byte :=
  let absent := bitOf 0 x.flags
  le 2 x.site ++ le 2 x.tile ++ le 1 x.flags ++ le 3 0 ++ le 8 (if absent then 0 else x.slot.toNat) ++
    padTo 256 (if absent then [] else x.shadow)

/-- The edges of a snapshot: the declared path, then the others in hub order. -/
def Snapshot.allEdges (x : Snapshot) : List Edge := x.path ++ (x.edges.map (·.2)).filter fun e => !x.path.contains e

/-- The whole snapshot (R333). -/
def snapshotBytes (p : Nat) (x : Snapshot) : List Byte :=
  let edges := x.allEdges
  le 8 x.time.toNat ++ le 8 x.step ++ le 1 p ++ le 1 x.cause ++ le 2 x.sites.length ++ le 2 x.absent ++
    le 2 edges.length ++ le 2 x.path.length ++ le 2 0 ++ le 4 x.duration ++ List.replicate 32 0 ++
    x.sites.flatMap snapSiteBytes ++ edges.flatMap edgeBytes

/-- HANG_SNAPSHOT's answer: status and response (Table 20.15, R505). -/
def snapshotAnswer (p offset : Nat) (x : Snapshot) : Nat × List Byte :=
  let bs := snapshotBytes p x
  if bs.length ≤ offset then (3, [])
  else (if x.absent != 0 || x.cutByReset then 8 else 0,
    le 4 bs.length ++ le 4 0 ++ le 8 x.time.toNat ++ (bs.drop offset).take 16368)

/-- Site entries in ascending site order. -/
def insertSnap (x : SnapSite) : List SnapSite → List SnapSite
  | [] => [x]
  | y :: ys => if x.site < y.site then x :: y :: ys else if x.site = y.site then x :: ys else y :: insertSnap x ys

/-- Set bits of a context mask, ascending. -/
def contextsOf (mask : Nat) : List Nat := (List.range 4).filter fun c => bitOf c mask

/-- Contexts of every pending head of the sites whose queues lie on the declared path, as a snapshot shows them (R348). -/
def Snapshot.suspects (x : Snapshot) : Nat :=
  let on := x.sites.filter fun e => !bitOf 0 e.flags && !bitOf 4 e.flags && x.path.any fun g => g.tile = e.tile
  on.foldl (fun m e => (List.range 8).foldl (fun m n =>
    if bitOf 0 (field e.shadow (32 * n) 1) then m ||| 2 ^ (field e.shadow (32 * n + 4) 1 % 4) else m) m) 0

/-- The suspect contexts of a hang: several are replayed one at a time. -/
def Hang.withSuspects (h : Hang) (mask : Nat) : Hang :=
  { h with suspects := mask, todo := if 1 < (contextsOf mask).length then contextsOf mask else [] }

/-- The snapshot of a hang names its suspects once it has ended; that of a replay (state REPLAYING) changes none (R348). -/
def Partition.nameSuspects (x : Partition) (snap : Snapshot) : Partition :=
  if snap.cause = 0 || x.state = 6 then x else { x with hang := x.hang.map fun h => h.withSuspects snap.suspects }

/-- A snapshot is complete at the manager: recorded, and the commands that wait for it answered. -/
def finishSnapshot (p : Nat) (s : State) : State :=
  match (s.partOf p).snapshot with
  | none => s
  | some x =>
    let x := { x with done := true, waiting := [], duration := min (since s.ras x.time) (2 ^ 32 - 1)
                      absent := (x.sites.filter fun e => bitOf 0 e.flags).length, seqs := [] }
    let seqs := match (s.partOf p).snapshot with
      | some y => y.seqs
      | none => []
    let s := modPart p (fun y => { y.nameSuspects x with snapshot := some x }) s
    let s := record 0x5002 (le 1 p ++ le 1 x.cause ++ le 2 x.absent ++ le 2 x.sites.length ++
      le 2 x.allEdges.length ++ le 4 x.duration) s
    each seqs (fun q s =>
      let a := snapshotAnswer p (((s.cmd q).getD {}).arg 4 4) x
      complete q a.1 a.2 s) s

/-- A fence or reset reaches the partition during its snapshot: unread sites are marked cut (FLAGS[4]). -/
def cutSnapshot (p : Nat) (s : State) : State :=
  match (s.partOf p).snapshot with
  | none => s
  | some x =>
    if x.done then s
    else
      let sites := x.waiting.foldl (fun ys site => insertSnap { site := site, tile := s.tileAt site, flags := 16 } ys) x.sites
      finishSnapshot p (modPart p (fun y => { y with snapshot := some { x with sites := sites, cutByReset := true } }) s)

/-- What a hub reads of one site (R332): the flags of Table 14.6 and SEN.SHADOW. -/
def snapSite (s : State) (site : Nat) : SnapSite :=
  { site := site, tile := s.tileAt site
    flags := 4 * flag (s.clockRuns site) + 8 * flag (s.siteHub site != sectorOf site)
    slot := BitVec.ofNat 64 (s.slotCopy site), shadow := s.shadowOf site }

/-- The entry of a site that gave no answer, or WAKE_TIMEOUT (R332, Table 14.6). -/
def absentSite (s : State) (timeout : Bool) (e : SnapSite) : SnapSite :=
  { site := e.site, tile := s.tileAt e.site, flags := 1 + 2 * flag timeout + 8 * flag (s.siteHub e.site != sectorOf e.site) }

/-- A snapshot begins: every hub of the partition reads its sites; those that answer travel as SNAPSHOT_PART, a stopped tile's answer
once its front wakes (R72). A hang's request that merges into one in progress gives it the hang's cause and path. -/
def takeSnapshot (p cause seq : Nat) (path : List Edge) (s : State) : State :=
  let merge := match (s.partOf p).snapshot with
    | some x => !x.done
    | none => false
  if merge then
    modPart p (fun y => { y with snapshot := y.snapshot.map fun x =>
      { x with seqs := if seq = 0 then x.seqs else x.seqs ++ [seq]
               cause := if x.cause = 0 then cause else x.cause, path := if x.cause = 0 then path else x.path } }) s
  else
    let sites := s.partSites p
    let x : Snapshot := { time := s.ras, step := (s.partOf p).step, cause := cause, path := path, waiting := sites
                          seqs := if seq = 0 then [] else [seq] }
    let s := modPart p (fun y => { y with snapshot := some x }) s
    let parts := (s.partHubs p).map fun h =>
      Instr.snapshotPart h p (((s.hubPartSites h p).filter fun x => !(s.senOf x).silent && !s.mustWait x).map (snapSite s))
        (((s.hubOf h).edges.filter fun e => s.tilePart e.2.1.tile = p).map (·.2.1))
    let stopped := sites.filter fun x => !(s.senOf x).silent && s.mustWait x
    let s := each stopped (fun x s => waitWake x (.snapshotPart (s.siteHub x) p [{ site := x }] []) s) s
    if sites.isEmpty then finishSnapshot p s else sendAll parts s

/-! ## Fences (R337 to R340, R350) -/

/-- Entering DOWN. -/
def goDown (p reason : Nat) (s : State) : State :=
  if (s.partOf p).state = 7 then s
  else
    raiseAlert 2 (record 0x5005 (le 1 p ++ le 1 reason ++ le 2 0 ++ le 8 (s.partOf p).step)
      (modPart p (fun x => { x with state := 7, hang := none }) s))

/-- FENCE_RESULT's payload (Table 14.15). -/
def fencePayload (p cause result merged nFailed first time step : Nat) : List Byte :=
  le 1 p ++ le 1 cause ++ le 1 result ++ le 1 (min merged 255) ++ le 2 nFailed ++ le 2 first ++ le 4 time ++ le 8 step

/-- PARTITION_RESET_RESULT's payload. -/
def resetPayload (p cause result channel first time step : Nat) : List Byte :=
  le 1 p ++ le 1 cause ++ le 1 result ++ le 1 channel ++ le 2 first ++ le 2 0 ++ le 4 time ++ le 8 step

/-- RAS ticks since a time, saturating in 32 bits. -/
def State.ticksSince (s : State) (t : Dword) : Nat := min (since s.ras t) (2 ^ 32 - 1)

/-- POISON_CONSUMED is recorded and the memory alert raised (R313); in a DOWN partition it is recorded only (R321). -/
def recordPoison (p : Nat) (s : State) : State :=
  match (s.partOf p).poison with
  | none => s
  | some (detail, site, count, step) =>
    let payload := detail.take 8 ++ le 2 (s.tileAt site) ++ le 1 p ++ le 1 (min count 255) ++ le 8 step ++
      (detail.drop 8).take 8
    let s := recordFrom site 0x4004 payload (modPart p (fun x => { x with poison := none }) s)
    if (s.partOf p).state = 7 && (s.partOf p).fence.isNone && (s.partOf p).reset.isNone then s else raiseAlert 1 s

/-- A fence or the fence of a reset has failed: DOWN at once, failed sites charged a loss (R339, R345). -/
def failFence (p result : Nat) (failed : List Nat) (s : State) : State :=
  match (s.partOf p).fence with
  | none => s
  | some f =>
    let step := (s.partOf p).step
    let waits := (s.partOf p).tearSeqs
    let s := modPart p (fun x => { x with fence := none, tearing := 0, tearSeqs := [], tearMask := 0, tearDirty := false }) s
    let s := record 0x5003 (fencePayload p f.cause result f.merged failed.length (failed.headD 0) (s.ticksSince f.began) step) s
    let s := if f.reset then
        record 0x5004 (resetPayload p f.resetCause 3 0xFF (failed.headD 0) (s.ticksSince f.began) step) s else s
    let s := each failed chargeLoss (recordPoison p s)
    completeAll (waits ++ f.seqs) 6 [] (goDown p 1 s)

/-- Sites that a fence or a partition reset acts on (R337, R344): every site of the partition whose sentinel works, and every site that
holds a logical tile (log entry 20). -/
def State.actionSites (s : State) (p : Nat) : List Nat :=
  (s.partAllSites p).filter fun x => s.tileAt x != 0xFFFF || ((s.senOf x).bistPass && !(s.senOf x).silent)

/-- Pending swaps, screens, a stop and a snapshot give way to a fence and to a reset (Tables 2.6, 9.6, 12.6, 14.14, 18.13). -/
def yieldToFence (p : Nat) (s : State) : State := cutSnapshot p (abandonSwaps p (cancelScreens p (releaseStop 1 [] s)))

/-- A partition reset begins its tile resets (Table 14.10, step 3). Traces and watches of the partition end (Table 2.6). -/
def startReset (p cause began : Nat) (seqs : List Nat) (s : State) : State :=
  let was := (s.partOf p).state
  let s := yieldToFence p (journalize 1 p cause was (if was = 7 then 7 else 5) 0 s)
  let sites := s.actionSites p
  let s := modPart p (fun x => { x with
    state := if x.state = 7 then 7 else 5, watches := Sparse.mapAll {} x.watches fun _ w => { w with armed := false }
    boundarySeqs := [], copying := [], tier2Busy := none, tier2Left := []
    reset := some { cause := cause, began := BitVec.ofNat 64 began, waiting := sites
                    keepJob := (cause = 1 || cause = 6) && !x.killed, seqs := seqs } }) s
  let s := each sites (fun x s => modSen x (fun y => disarmWatches { y with inReset := true }) (holdSlot x s)) s
  sendAll (sites.map fun x => .tileReset x 4) s

/-- The settings that waited for a boundary of a partition in reset complete with STATE. -/
def resetPartition (p cause began : Nat) (seqs : List Nat) (s : State) : State :=
  let wait := (s.partOf p).boundarySeqs
  startReset p cause began seqs (completeAll wait 4 [] s)

/-- A fence is complete when every site has returned fence done and every teardown has ended (R339). -/
def checkFence (p : Nat) (s : State) : State :=
  match (s.partOf p).fence with
  | none => s
  | some f =>
    if f.commitWait || (s.partOf p).tearing != 0 || !f.waiting.isEmpty then s
    else if f.dirty then failFence p 2 [] s
    else
      let time := s.ticksSince f.began
      let s := record 0x5003 (fencePayload p f.cause 0 f.merged 0 0 time (s.partOf p).step)
        (modPart p (fun x => { x with fence := none }) s)
      if f.reset then resetPartition p f.resetCause f.began.toNat f.seqs s
      else completeAll f.seqs 0 (le 4 time) (modPart p (fun x => { x with state := if x.state = 7 then 7 else 4 }) s)

/-- The fence goes out to every hub of the partition, and every context is torn down (Table 14.9, steps 2 and 4). -/
def issueFence (p : Nat) (s : State) : State :=
  let cause := match (s.partOf p).fence with
    | some f => f.cause
    | none => 0
  let sites := s.actionSites p
  let hubs := s.partHubs p
  let s := modPart p (fun x => { x with
    tearing := x.open_, resumeCtx := x.open_, open_ := 0
    fence := x.fence.map fun f => { f with waiting := sites, commitWait := false } }) s
  checkFence p (sendAll (hubs.map fun h => .fence (hubAddr h) p cause) s)

/-- A fence of a partition starts, or merges into what is in progress. `rst` names the cause of a reset to follow: one
that is neither of hang recovery nor of a late stage ends the job (R336), and a hang that has been declared is followed by
its reset (R346). -/
def startFence (p cause : Nat) (seqs : List Nat) (rst : Option Nat) (s : State) : State :=
  let s : State := match rst with
    | some c => if c = 1 || c = 6 then s
      else modPart p (fun x => { x with killed := true, reset := x.reset.map fun r => { r with keepJob := false } }) s
    | none => s
  let x := s.partOf p
  let rst := if rst.isNone && x.hang.isSome then some 1 else rst
  match x.fence, x.reset with
  | some _, _ =>
    modPart p (fun x => { x with fence := x.fence.map fun f =>
      { f with merged := satAdd 255 f.merged 1, seqs := f.seqs ++ seqs, reset := f.reset || rst.isSome
               resetCause := if f.reset then f.resetCause else rst.getD 0 } }) s
  | none, some _ =>
    modPart p (fun x => { x with reset := x.reset.map fun r => { r with seqs := r.seqs ++ seqs } }) s
  | none, none =>
    if x.state = 0 then completeAll seqs 4 [] s
    else if x.state = 4 then
      match rst with
      | some c => resetPartition p c s.ras.toNat seqs s
      | none => completeAll seqs 0 (le 4 0) s
    else if x.state = 7 && rst.isNone then completeAll seqs 4 [] s
    else
      let commit := x.committing && !x.committed
      let s := yieldToFence p s
      let f : Fence := { cause := cause, began := s.ras, reset := rst.isSome, resetCause := rst.getD 0, seqs := seqs
                         commitWait := commit, waitBegan := s.ras }
      let s := modPart p (fun x => { x with state := if x.state = 7 then 7 else 3, fence := some f }) s
      if commit then s else issueFence p (abortSteps p (x.state == 6) s)

/-! ## Contexts (R315 to R320) -/

/-- CTX_GEN of the four contexts, as CONTEXT_TEARDOWN answers it (Table 20.13). -/
def Partition.genBytes (x : Partition) : List Byte := (List.range 4).flatMap fun c => le 1 (Sparse.get 0 x.gens c)

/-- The commands that asked for teardowns are answered once every teardown has ended: TIMEOUT when one ended DIRTY
(R317, R320). -/
def finishTeardown (p : Nat) (s : State) : State :=
  let x := s.partOf p
  if x.tearing != 0 then s
  else
    let s := modPart p (fun x => { x with tearSeqs := [], tearMask := 0, tearDirty := false }) s
    completeAll x.tearSeqs (if x.tearDirty then 6 else 0) (if x.tearDirty then [] else x.genBytes) s

/-- One context's teardown has ended: CTX_GEN advances, CONTEXT_TEARDOWN is recorded, and the fence or the command that
asked for it goes on. -/
def endTeardown (p context reads writes : Nat) (dirty : Bool) (s : State) : State :=
  let x := s.partOf p
  if !bitOf context x.tearing then s
  else
    let gen := (Sparse.get 0 x.gens context + 1) % 256
    let cause := match x.fence with
      | some f => if f.cause = 2 then 2 else 1
      | none => 0
    let s := modPart p (fun x => { x with
      tearing := x.tearing - 2 ^ context, gens := Sparse.set 0 x.gens context gen
      tearDirty := x.tearDirty || (dirty && bitOf context x.tearMask)
      fence := x.fence.map fun f => { f with dirty := f.dirty || dirty } }) s
    let s := record 0x4006 (le 1 p ++ le 1 context ++ le 1 gen ++ le 1 (if dirty then 6 else 0) ++ le 1 cause ++
      le 1 (flag dirty) ++ le 2 0 ++ le 4 reads ++ le 4 writes) s
    checkFence p (finishTeardown p s)

/-! ## Detach (R238, R336) -/

/-- The partition holds no job any more: contexts stay torn, what the job's copies and swaps held is dropped. -/
def dropJob (x : Partition) : Partition :=
  { clearStep x with
    job := none, peers := [], state := 1, open_ := 0, resumeCtx := 0, refusedCtx := 0, hang := none, hangStep := none
    replays := [], copying := [], tier2Busy := none, tier2Left := [], failNext := false
    windowAt := none, breach := false, killed := false, swaps := [], bankSwitch := false, starting := none }

/-- Pending plausibility sets of a partition are discarded; the command completes with a status (R172). -/
def discardLoad (p status : Nat) (s : State) : State :=
  match (s.partOf p).load with
  | none => s
  | some l =>
    let s := modPart p (fun x => { x with load := none, setSwitch := false }) s
    let s := each (s.partSectors p) (fun z s => modHub z (fun y => { y with setPending := [] }) s) s
    let s := if l.seq = 0 then s else complete l.seq status [] s
    match l.after with
    | some a => complete a.2 status [] s
    | none => s

/-- Sentinels that a hub serves. -/
def State.hubSentinels (s : State) (h : Nat) : List Nat := (s.sen.map (·.1)).filter fun x => s.siteHub x = h

/-- Sectors of a partition whose set a hub keeps: its own and an adopted one (R182). -/
def State.setSectors (s : State) (p h : Nat) : List Nat := (s.served h).filter fun z => s.sectorPart z = p

/-- Sentinels of a partition that a hub serves. -/
def State.setSites (s : State) (p h : Nat) : List Nat := (s.hubSentinels h).filter fun x => s.sitePart x = p

/-- A set is active at a hub of a partition and its sentinels at once. -/
def installSet (set : List Byte) (p h : Nat) (s : State) : State :=
  each (s.setSites p h) (fun x s => modSen x (fun y => { y with progActive := set.take 3584, progPending := [] }) s)
    (each (s.setSectors p h) (fun z s => modHub z (fun y => { y with set := set, setPending := [] }) s) s)

/-- Replay records of sites in service end NOT_REPLAYED when their partition is detached (R204). -/
def dropReplays (p h : Nat) (s : State) : State :=
  let mine (r : ReplayRec) : Bool := s.sitePart r.site == p && s.tileAt r.site != 0xFFFF
  let lost := (s.hubOf h).replays.filter mine
  each lost (fun r s => replayResult r 4 s) (modHub h (fun y => { y with replays := y.replays.filter fun r => !mine r }) s)

/-- A job is detached without rotation: its replays end, its plausibility set is empty from now on (R173), and SUSPECT sites of the
partition's sectors try their move at once (Table 10.3). -/
def detachJob (p : Nat) (s : State) : State :=
  let s := match (s.partOf p).starting with
    | some a => complete a.1 4 [] s
    | none => s
  let s := discardLoad p 4 (abandonSwaps p (each (s.partHubs p) (dropReplays p) s))
  let s := modPart p dropJob s
  let hubs := s.partHubs p
  let s := each hubs (fun h s => restUnits h (modHub h (fun y => { y with collect := {} }) (installSet [] p h s))) s
  each (s.partSectors p) retrySuspects s

end Sys2Proof.Machine
end

