-- ==== Sys2Proof/Machine/Tracer.lean ====
section
/-!
DEFINITION. Trace writer, triggers and tensor watches of a sentinel (R440 to R456; Tables 18.2 to 18.12).
-/
namespace Sys2Proof.Machine

/-! ## Configuration as the front runs by it -/

/-- TRACE_CTRL. -/
def Sentinel.traceCtrl (x : Sentinel) : Nat := x.obsOf 0x200

/-- MODE (Table 18.3). -/
def Sentinel.traceMode (x : Sentinel) : Nat := bitsOf 2 2 x.traceCtrl

/-- Records that the region holds (R442). -/
def Sentinel.traceCap (x : Sentinel) : Nat := match x.traceCtrl % 4 with
  | 0 => 0 | 1 => 1024 | 2 => 2048 | _ => 4096

/-- KIND of the trigger (Table 18.8). -/
def Sentinel.trigKind (x : Sentinel) : Nat := x.obsOf 0x204 % 16

/-- TRIG_VALUE. -/
def Sentinel.trigValue (x : Sentinel) : Nat := x.obsOf 0x208 + 2 ^ 32 * x.obsOf 0x20C

/-- Records that follow the trigger (POST_COUNT, Table 18.5). -/
def Sentinel.postCount (x : Sentinel) : Nat :=
  let n := x.obsOf 0x210 % 2 ^ 13
  if n = 0 then x.traceCap / 2 else if x.traceCap ≤ n then x.traceCap - 1 else n

/-- The trigger can fire: trace on, mode 2, not fired since the writer was armed (R443). -/
def Sentinel.armed (x : Sentinel) : Bool :=
  bitOf 3 x.ctrlFront && x.traceCap != 0 && x.traceMode == 2 && x.traceState == 1 && !x.traceFired

/-- SEN.OBS_STATUS (Table 18.7). -/
def Sentinel.obsStatus (x : Sentinel) : Nat :=
  x.traceState % 4 + 4 * (x.traceNext % 4096) + 2 ^ 14 * flag x.traceWrapped + 2 ^ 16 * (x.staging.length % 8)

/-! ## Triggers (R443) -/

/-- A trigger fires: recorded, spread to the partition's other sentinels, an immediate stop asked for. -/
def fireTrigger (site : Nat) (s : State) : State :=
  let x := s.senOf site
  let spread := bitOf 13 x.traceCtrl
  let stop := bitOf 14 x.traceCtrl
  let slot := s.slotAt site
  let s := modSen site (fun y => { y with traceFired := true }) s
  let s := senEvent site 0xB001 (le 2 site ++ le 1 x.trigKind ++ le 1 (flag spread + 2 * flag stop) ++ le 8 slot) s
  let s := if spread then
      sendAll (((s.partSites (s.sitePart site)).filter (· != site)).map fun y => .traceTrigger y site (BitVec.ofNat 64 slot)) s
    else s
  if stop then send (.stopRequest site) s else s

/-- A trigger that no record fires (kinds 3 and 5): POST_COUNT records follow, the first with FLAGS[0]. -/
def fireUnwritten (site kind : Nat) (s : State) : State :=
  if (s.senOf site).armed && (s.senOf site).trigKind = kind then
    fireTrigger site (modSen site (fun y => { y with traceLocal := true, traceState := 2, tracePost := y.postCount }) s)
  else s

/-! ## Records (R440 to R442) -/

/-- A trace record (Table 18.2). -/
def traceBytes (slot : Nat) (op : QueueOp) (ended : Bool) (flags : Nat) : List Byte :=
  le 6 slot ++ le 2 op.layer ++ le 2 (op.operator % 4096 + 4096 * (op.queue % 8) + 2 ^ 15 * flag ended) ++
    le 1 op.lineage ++ le 1 flags ++ le 3 op.handle ++ le 1 op.gen

/-- A handle of test or heating content (R207, R224, R326). -/
def testHandle (h : Nat) : Bool := 0xFFFF00 ≤ h && h ≤ 0xFFFF08

/-- This record fires the local trigger (Table 18.8). -/
def Sentinel.fires (x : Sentinel) (op : QueueOp) (ended : Bool) (slot : Nat) : Bool :=
  x.armed && (match x.trigKind with
    | 1 => !ended && op.operator % 4096 == bitsOf 16 12 (x.obsOf 0x204)
    | 2 => !ended && op.layer == x.obsOf 0x208 % 65536
    | 4 => decide (x.trigValue ≤ slot)
    | _ => false)

/-- The writer after a record has been written. -/
def advanceTrace (bytes : List Byte) (fired : Bool) (x : Sentinel) : Sentinel :=
  let cap := x.traceCap
  let next := (x.traceNext + 1) % cap
  let x := { x with
    traceRecs := Sparse.set [] x.traceRecs x.traceNext bytes
    traceTrig := if fired || x.traceLocal then some x.traceNext else if x.traceTrig = some x.traceNext then none else x.traceTrig
    traceNext := next, traceWrapped := x.traceWrapped || next == 0, traceRemote := false, traceLocal := false
    counters := Sparse.upd 0 x.counters 11 fun v => (v + 1) % 2 ^ 32 }
  if x.traceMode = 1 then (if next = 0 then { x with traceState := 3 } else x)
  else if x.traceState = 2 then
    (if x.tracePost ≤ 1 then { x with tracePost := 0, traceState := 3 } else { x with tracePost := x.tracePost - 1 })
  else if fired then { x with traceState := 2, tracePost := x.postCount }
  else x

/-- Records still pending in the writer at a slot: it writes two per tile cycle (R441). -/
def Sentinel.tracePending (x : Sentinel) (slot : Nat) : Nat := x.tracePend - 2 * (slot - x.tracePendAt)

/-- A traced record that finds eight pending is lost (R441): counted and its event raised. -/
def traceLost (site : Nat) (s : State) : State := raiseEv site 2 [] (countSen site 12 1 s)

/-- A record of a queue command: written, or counted as not written. -/
def traceRecord (site : Nat) (op : QueueOp) (ended discarded : Bool) (s : State) : State :=
  let x := s.senOf site
  if !bitOf 3 x.ctrlFront || x.traceCap = 0 || !bitOf (4 + op.queue) x.traceCtrl ||
      (testHandle op.handle && !bitOf 12 x.traceCtrl) then s
  else if x.traceState != 1 && x.traceState != 2 then countSen site 12 1 s
  else if 8 ≤ x.tracePending (s.slotAt site) then traceLost site s
  else
    let slot := s.slotAt site
    let n := x.tracePending slot
    let s := modSen site (fun y => { y with tracePend := n + 1, tracePendAt := slot }) s
    let fired := x.fires op ended slot
    let s := if fired then fireTrigger site s else s
    let flags := flag (fired || x.traceLocal) + 2 * flag discarded + 4 * flag (testHandle op.handle) + 8 * flag x.traceRemote
    let s := modSen site (advanceTrace (traceBytes slot op ended flags) fired) s
    if x.traceMode = 1 && (s.senOf site).traceState = 3 then raiseEv site 1 [] s else s

/-- The writer starts, or starts again, under the configuration at the front (R444, R466). -/
def rearmTrace (x : Sentinel) : Sentinel :=
  { x with traceState := if x.traceCap = 0 then 0 else 1, traceNext := 0, traceWrapped := false
           traceTrig := none, traceFired := false, tracePost := 0, traceRemote := false, traceLocal := false }

/-- The front runs by its settings from now on; a new trace configuration arms the writer. -/
def applySettings (x : Sentinel) : Sentinel :=
  let x := settleFront { x with newWords := [] }
  if x.traceNew then { rearmTrace x with traceNew := false } else x

/-- What TRACE_CONFIGURE and COUNTER_CONFIGURE have written reaches the front with no boundary (R505); SEN.CTRL and the other words of
SEN.OBS wait for one (R79). -/
def settleWords (x : Sentinel) : Sentinel :=
  let x := { x with obsFront := x.newWords.foldl (fun m o => Sparse.set (obsReset o) m o (x.obsBack o)) x.obsFront, newWords := [] }
  if x.traceNew then { rearmTrace x with traceNew := false } else x

/-! ## Watches (R453 to R456) -/

/-- Tier-2 address of a region, as one number. -/
def tier2Addr (region addr : Nat) : Nat := region * 2 ^ 37 + addr

/-- Bytes of a region's tier-2 space (R21). -/
def tier2Space : Nat := 128000000000

/-- Two ranges overlap: base and size of each. -/
def overlaps (a n b m : Nat) : Bool := n != 0 && m != 0 && decide (a < b + m) && decide (b < a + n)

/-- Entries of one slice (R454). -/
def sliceEntries (size : Nat) : Nat := size / 23280

/-- Bytes of a block with its tag (R84). -/
def blockBytes (b : Block) : List Byte := padTo 4608 b.payload ++ Tag.bytes b.tag

/-- Watch n of a sentinel matches a block (R453): `kind` 0 produced, 1 consumed. -/
def Sentinel.watchHit (x : Sentinel) (n kind handle step : Nat) : Bool :=
  let e := x.obsOf (0x220 + 8 * n)
  bitOf 4 x.ctrlFront && bitOf 31 e && bitOf (24 + kind) e && e % 2 ^ 24 == handle && x.obsOf (0x224 + 8 * n) == step % 2 ^ 32

/-- The lowest free staging slot. -/
def Sentinel.freeSlot (x : Sentinel) : Option Nat := (List.range 7).find? fun n => !x.staging.any fun y => y.slot = n

/-- A watch entry of the partition. -/
def State.watchOf (s : State) (p n : Nat) : Watch := Sparse.get {} (s.partOf p).watches n

/-- A dropped match (R456). -/
def dropMatch (site n : Nat) (s : State) : State :=
  modHub (s.siteHub site) (fun h => { h with watchDrop := bump h.watchDrop (8 * sectorOf site + n) 1 }) (countSen site 14 1 s)

/-- One match: staged with its entry of the slice, or dropped. -/
def watchMatch (site n kind : Nat) (b : Block) (s : State) : State :=
  let p := s.sitePart site
  let w := s.watchOf p n
  let h := s.siteHub site
  let key := 8 * sectorOf site + n
  let seq := Sparse.get 0 (s.hubOf h).watchSeq key
  let s := fireUnwritten site 5 (countSen site 13 1 s)
  match (s.senOf site).freeSlot with
  | none => dropMatch site n s
  | some slot =>
    if sliceEntries w.size ≤ seq then dropMatch site n s
    else
      let header := le 1 n ++ le 1 kind ++ le 2 site ++ le 2 (s.tileAt site) ++ le 2 0 ++ le 8 (s.partOf p).step ++
        le 8 (s.slotAt site) ++ le 4 seq ++ le 4 w.armId
      let addr := w.base + (sectorOf site % 5 * sliceEntries w.size + seq) * 4656
      modSen site (fun x => { x with staging := x.staging ++
          [{ slot := slot, watch := n, seq := seq, header := header, block := b, addr := addr }] })
        (modHub h (fun y => { y with watchSeq := bump y.watchSeq key 1 }) s)

/-- Every watch that the block matches. -/
def watchBlock (site kind : Nat) (b : Block) (s : State) : State :=
  let step := (s.partOf (s.sitePart site)).step
  let x := s.senOf site
  each ((List.range 8).filter fun n => x.watchHit n kind b.tag.handle step) (fun n s => watchMatch site n kind b s) s

end Sys2Proof.Machine
end

