-- ==== Sys2Proof/Machine/Registers.lean ====
section
/-!
DEFINITION. Register files of sentinels and hubs (R77 to R79, R174, R217, R447; Tables 3.4 to 3.9, 8.6 to 8.9, 18.5):
reads and writes of words, and the wake protocol that a front-domain access goes through (R72 to R75).
-/
namespace Sys2Proof.Machine

/-! ## Sentinel registers -/

/-- SEN.STATUS (Table 3.6). -/
def Sentinel.status (clk : Bool) (x : Sentinel) : Nat :=
  flag clk + 2 * flag x.wake + 4 * flag x.bistPass + 8 * flag x.fenced + 16 * flag x.stopped + 32 * flag x.inReset

/-- SEN.MIRROR (Table 12.2). -/
def Sentinel.mirror (x : Sentinel) : Nat := x.mirrorState % 4 + 256 * (x.mirrorStep % 2 ^ 24)

/-- Bits of a SEN.OBS register that are not reserved (Tables 18.5 to 18.8, 18.11). -/
def obsMask (off : Nat) : Nat :=
  if off = 0x200 then 0x7FFF
  else if off = 0x204 then 0x0FFF000F
  else if off = 0x210 then 0x1FFF
  else if off = 0x208 || off = 0x20C || (0x260 ≤ off && off < 0x270) then 0xFFFFFFFF
  else if 0x220 ≤ off && off < 0x260 then (if off % 8 = 0 then 0x83FFFFFF else 0xFFFFFFFF)
  else 0

/-- The register lies in the front's domain (Table 3.4). -/
def senFront (off : Nat) : Bool := (0x20 ≤ off && off < 0x30) || (0x40 ≤ off && off < 0xC0) || (0x100 ≤ off && off < 0x200)

/-- A register of Table 3.4 at this offset. -/
def senKnown (off : Nat) : Bool :=
  off % 4 == 0 && (off ≤ 0x18 || (0x20 ≤ off && off ≤ 0x34) || (0x40 ≤ off && off < 0xC0) || (0x100 ≤ off && off < 0x300))

/-- A register that a write may change. -/
def senWritable (off : Nat) : Bool := off == 0x08 || off == 0x10 || (off % 4 == 0 && 0x200 ≤ off && off < 0x300)

/-- One word of a sentinel's registers. -/
def senWord (s : State) (site off : Nat) : Nat :=
  let x := s.senOf site
  let stop := x.stopSlot
  if s.stop.state = 3 && senFront off then (Config.scanWord s.scanId site off).toNat
  else if off = 0x00 then site % 2 ^ 14 + 65536 * Config.sentinelStepping.toNat
  else if off = 0x04 then x.status (s.clockRuns site)
  else if off = 0x08 then x.ctrl
  else if off = 0x0C then x.alarm
  else if off = 0x10 then x.crossErr
  else if off = 0x14 then x.dropCount
  else if off = 0x18 then x.verdict
  else if off = 0x20 then s.slotCopy site % 2 ^ 32
  else if off = 0x24 then x.slotHi
  else if off = 0x28 then stop % 2 ^ 32
  else if off = 0x2C then x.stopHi
  else if off = 0x30 then x.mirror
  else if off = 0x34 then x.obsStatus
  else if 0x40 ≤ off && off < 0xC0 then Sparse.get 0 x.counters ((off - 0x40) / 4)
  else if 0x100 ≤ off && off < 0x200 then field x.shadowBytes (off - 0x100) 4
  else if 0x200 ≤ off && off < 0x300 then x.obsBack off
  else 0

/-- What a read of a word changes: latches of the high halves, and DROP_COUNT cleared. -/
def senReadEffect (s : State) (site off : Nat) (x : Sentinel) : Sentinel :=
  if off = 0x14 then { x with dropCount := 0 }
  else if off = 0x20 then { x with slotHi := s.slotCopy site / 2 ^ 32 }
  else if off = 0x28 then { x with stopHi := x.stopSlot / 2 ^ 32 }
  else x

/-- Consecutive words. -/
def senReadAll (site : Nat) : List Nat → State → State × List Word
  | [], s => (s, [])
  | o :: os, s =>
    let w := BitVec.ofNat 32 (senWord s site o)
    let r := senReadAll site os (modSen site (senReadEffect s site o) s)
    (r.1, w :: r.2)

/-- Offsets of `n` words from `off`. -/
def wordOffsets (off n : Nat) : List Nat := (List.range n).map fun k => off + 4 * k

/-- One word written. -/
def senWriteWord (off v : Nat) (x : Sentinel) : Sentinel :=
  if off = 0x08 then { x with ctrl := v % 64 }
  else if off = 0x10 then { x with crossErr := x.crossErr &&& (7 ^^^ (v % 8)) }
  else { x with obs := Sparse.set (obsReset off) x.obs off (v &&& obsMask off) }

/-- Words written at consecutive offsets. -/
def senWriteAll : Nat → List Word → Sentinel → Sentinel
  | _, [], x => x
  | off, w :: ws, x => senWriteAll (off + 4) ws (senWriteWord off w.toNat x)

/-- An answer from a unit with the OPCODE and TAG of its request (R41, R77). -/
def answer (unit opcode tag status : Nat) (words : List Word) (s : State) : State :=
  { s with answers := s.answers ++ [{ unit := unit, opcode := opcode, tag := tag, status := status, words := words }] }

/-- A read of a sentinel's registers: BAD_OFFSET outside Table 3.4, else the words. -/
def senRead (site off n tag : Nat) (s : State) : State :=
  if (wordOffsets off n).all senKnown then
    let r := senReadAll site (wordOffsets off n) s
    answer site 1 tag 0 r.2 r.1
  else answer site 1 tag 1 [] s

/-- Settings of a site that holds no logical tile take effect at once (R79): by the wake protocol where its front is stopped. -/
def settleIdle (site : Nat) (s : State) : State :=
  if s.tileAt site != 0xFFFF then s
  else if s.mustWait site then waitFront site (fun x => { x with settle := true }) s
  else modSen site applySettings s

/-- A write of a sentinel's registers (R77, R79). -/
def senWrite (site off : Nat) (ws : List Word) (tag : Nat) (s : State) : State :=
  if (wordOffsets off ws.length).all senWritable then
    answer site 2 tag 0 [] (settleIdle site (modSen site (senWriteAll off ws) s))
  else answer site 2 tag 1 [] s

/-! ## Hub registers (Table 8.6) -/

/-- VE.STATUS (Table 8.8). -/
def veStatus (s : State) (h : Nat) : Nat :=
  let x := s.hubOf h
  let busy := x.job.isSome || (match x.pass with | some p => p.stage != 0 | none => false)
  flag busy + 2 * flag (1 < (s.served h).length) + 4 * min x.repeats.length 32 + 256 * min x.replays.length 8

/-- A hub register that exists. -/
def hubKnown (off : Nat) : Bool :=
  off % 4 == 0 && (off == 0x800 || off == 0x804 || off == 0x808 || (0x810 ≤ off && off < 0x83C) || (0x840 ≤ off && off < 0x868))

/-- A hub register that a write may change. -/
def hubWritable (off : Nat) : Bool :=
  off % 4 == 0 && (off == 0x800 || off == 0x808 || (0x810 ≤ off && off < 0x838))

/-- One word of a hub's registers. -/
def hubWord (s : State) (h off : Nat) : Nat :=
  let x := s.hubOf h
  if off = 0x800 then x.veCtrl
  else if off = 0x804 then veStatus s h
  else if off = 0x808 then x.veSampleDiv + 65536 * x.veNcDiv
  else if 0x810 ≤ off && off < 0x820 then x.contentSeed.toNat / 2 ^ (8 * (off - 0x810)) % 2 ^ 32
  else if 0x820 ≤ off && off < 0x830 then x.sampleSeed.toNat / 2 ^ (8 * (off - 0x820)) % 2 ^ 32
  else if off = 0x830 then x.epoch.toNat % 2 ^ 32
  else if off = 0x834 then x.epoch.toNat / 2 ^ 32
  else if off = 0x838 then x.veSkipped
  else if 0x840 ≤ off && off < 0x868 then Sparse.get 0 x.veCounts ((off - 0x840) / 4)
  else 0

/-- 32 bits of a number replaced at word k. -/
def putWord (n k v : Nat) : Nat := n - bitsOf (32 * k) 32 n * 2 ^ (32 * k) + v * 2 ^ (32 * k)

/-- One hub word written; word 3 of a seed loads its generator (R217). -/
def hubWriteWord (off v : Nat) (x : Hub) : Hub :=
  if off = 0x800 then { x with veCtrl := v % 16 }
  else if off = 0x808 then { x with veSampleDiv := v % 65536, veNcDiv := v / 65536 }
  else if 0x810 ≤ off && off < 0x820 then
    let n := BitVec.ofNat 128 (putWord x.contentSeed.toNat ((off - 0x810) / 4) v)
    { x with contentSeed := n, contentGen := if off = 0x81C then seedOf n else x.contentGen }
  else if 0x820 ≤ off && off < 0x830 then
    let n := BitVec.ofNat 128 (putWord x.sampleSeed.toNat ((off - 0x820) / 4) v)
    { x with sampleSeed := n, sampleGen := if off = 0x82C then seedOf n else x.sampleGen }
  else if off = 0x830 then { x with epoch := BitVec.ofNat 64 (putWord x.epoch.toNat 0 v) }
  else if off = 0x834 then { x with epoch := BitVec.ofNat 64 (putWord x.epoch.toNat 1 v) }
  else x

/-- Words written at consecutive offsets. -/
def hubWriteAll : Nat → List Word → Hub → Hub
  | _, [], x => x
  | off, w :: ws, x => hubWriteAll (off + 4) ws (hubWriteWord off w.toNat x)

/-- A read of a hub's registers. -/
def hubRead (h off n tag : Nat) (s : State) : State :=
  if (wordOffsets off n).all hubKnown then
    answer (hubAddr h) 1 tag 0 ((wordOffsets off n).map fun o => BitVec.ofNat 32 (hubWord s h o)) s
  else answer (hubAddr h) 1 tag 1 [] s

/-- A write of a hub's registers. -/
def hubWrite (h off : Nat) (ws : List Word) (tag : Nat) (s : State) : State :=
  if (wordOffsets off ws.length).all hubWritable then answer (hubAddr h) 2 tag 0 [] (modHub h (hubWriteAll off ws) s)
  else answer (hubAddr h) 2 tag 1 [] s

/-- A message for a hub unit that is retained or off waits for its wake (R376): 0 thermal solver, 1 rule sequencer,
2 verification engine. It stays in the buffer that it was accepted into (R43, R44, R180). -/
def waitUnit (h unit : Nat) (m : Instr) (s : State) : State :=
  let cls := (s.path m).1
  let c := s.channelIn m none h
  let held := (s.freeBuffer h c cls).toList.map fun i => { index := i, channel := c, cls := cls, msg := m : Held }
  modHub h (fun y => { y with wakeWaiting := y.wakeWaiting ++ [m], pool := y.pool ++ held
                              waking := if y.waking.contains unit then y.waking else y.waking ++ [unit] }) s

/-- The verification engine's registers are reached while the engine is active. -/
def veAsleep (s : State) (unit offset : Nat) : Bool := 2 ≤ (s.hubOf (unit - 0x4000)).engine && 0x800 ≤ offset && offset < 0x868

/-! ## The wake protocol (R72 to R75) -/

/-- A word of a 3,584-byte program store. -/
def storeWord (store : List Byte) (off : Nat) : Word := BitVec.ofNat 32 (field (padTo 3584 store) off 4)

/-- Words written into a program store. -/
def storeWrite (store : List Byte) (off : Nat) (ws : List Word) : List Byte :=
  let bs := ws.flatMap fun w => le 4 w.toNat
  let p := padTo 3584 store
  p.take off ++ bs ++ p.drop (off + bs.length)

/-- PROGRAM_WRITE (R174): the pending store; BAD_OFFSET past its end. -/
def programStore (site offset : Nat) (words : List Word) (tag : Nat) (s : State) : State :=
  if offset + 4 * words.length ≤ 3584 then
    answer site 0x10 tag 0 [] (modSen site (fun x => { x with progPending := storeWrite x.progPending offset words }) s)
  else answer site 0x10 tag 1 [] s

/-- PROGRAM_READ (R174): the active store. -/
def programLoad (site offset count tag : Nat) (s : State) : State :=
  if offset + 4 * count ≤ 3584 then
    answer site 0x11 tag 0 ((wordOffsets offset count).map (storeWord (s.senOf site).progActive)) s
  else answer site 0x11 tag 1 [] s

/-- An access that waited is performed: of a register or a program store, a snapshot's read of its site (R332), or the taking of an
event (R70). -/
def performAccess (m : Instr) (s : State) : State :=
  match m with
  | .read u o n tag => senRead u o n tag s
  | .write u o ws tag => senWrite u o ws tag s
  | .programWrite site o ws tag => programStore site o ws tag s
  | .programRead site o n tag => programLoad site o n tag s
  | .snapshotPart h p sites edges => send (.snapshotPart h p (sites.map fun e => snapSite s e.site) edges) s
  | .eventLevelRise site code => takeEv site code s
  | _ => s

/-- An access that waited completes with WAKE_TIMEOUT (R74): a snapshot records the site as absent (R332); an event stays until the
next sample (R70). -/
def timeoutAccess (m : Instr) (s : State) : State :=
  match m with
  | .read u _ _ tag => answer u 1 tag 2 [] s
  | .write u _ _ tag => answer u 2 tag 2 [] s
  | .programWrite site _ _ tag => answer site 0x10 tag 2 [] s
  | .programRead site _ _ tag => answer site 0x11 tag 2 [] s
  | .snapshotPart h p sites edges => send (.snapshotPart h p (sites.map (absentSite s true)) edges) s
  | _ => s

/-- Every access that waits for a site's front is performed. -/
def serveWake (site : Nat) (s : State) : State :=
  let ms := (s.senOf site).wakeWaiting
  each ms performAccess (modSen site (fun x => { x with wakeWaiting := [] }) s)

end Sys2Proof.Machine
end

