-- ==== Sys2Proof/Machine/TileFront.lean ====
section
/-!
DEFINITION. Commands at the tile boundary: the crossings and wake protocol (R66 to R78), register and program accesses
(R77, R174), queue commands and trace (R323, R440 to R443), watch dumps (R455), SRAM error reports (R311).
-/
namespace Sys2Proof.Machine

/-- Bits of SEN.VERDICT that a failing item of a lineage sets (R271): every bit for shared work, and for a value that is treated as 0xFE
(R268). Test content sends no items. -/
def senMask (lineage : Nat) : Nat := if lineage < 32 then 2 ^ lineage else 2 ^ 32 - 1

/-- A lineage fails in SEN.VERDICT. -/
def failLineage (site lineage : Nat) (s : State) : State :=
  modSen site (fun x => { x with verdict := x.verdict ||| senMask lineage }) s

/-! ## The front-to-back queue (R66, R67) -/

/-- An SRAM report at the back (R311, Table 13.2): a corrected word is counted as kind 9; an uncorrectable one is recorded with the slot
at which it crosses, and charged as a storage event. -/
def sramReport (site : Nat) (corrected : Bool) (path address : Nat) (s : State) : State :=
  if corrected then charge site 9 0 false s
  else charge site 2 0 false (senEvent site 0x4003 (le 2 site ++ le 1 path ++ le 1 0 ++ le 4 address ++ le 8 (s.slotAt site)) s)

/-- The back acts on one item of the front-to-back queue (R142, R271, R327): a failing item sets SEN.VERDICT before it
leaves, a report goes through the outbound slots (R45). -/
def drainItem (site : Nat) (e : FrontEntry) (s : State) : State :=
  match e.item with
  | .residueVerdict _ v _ =>
    send e.item (if verdictFails v.verdict then fireUnwritten site 3 (failLineage site v.lineage s) else s)
  | .plausVerdict _ v => send e.item (fireUnwritten site 3 (failLineage site v.lineage s))
  | .redundancy _ v => send e.item (fireUnwritten site 3 (failLineage site v.lineage s))
  | .sealVerdict _ _ l _ _ _ _ => send e.item (fireUnwritten site 3 (failLineage site l s))
  | .stepDone _ d => send (.stepDone site { d with failed := BitVec.ofNat 32 (s.senOf site).verdict }) s
  | .alarmLevel _ code raised edge => setAlarm site code raised edge s
  | .ledger _ _ => send e.item s
  | .sramErrorReport _ corrected path address _ => each (List.range (e.merge + 1)) (fun _ => sramReport site corrected path address) s
  | m => senReport site (if e.merge = 0 then m else mergeReport m e.merge) s

/-- The front entry of the queue leaves, and what stands at the front follows. It waits while a message that has not arrived occupies the
register of its class (R45). -/
def drainOne (site : Nat) (s : State) : State :=
  match (s.senOf site).fq with
  | [] => s
  | e :: es => if s.registerTaken e.item then s else drainItem site e (modSen site (fun x => refillFront (refillFront { x with fq := es })) s)

/-- What waited for a front crosses: accesses, settings and queue entries; then the request falls (R72, R75). -/
def serveFront (site : Nat) (s : State) : State :=
  let n := (s.senOf site).drains
  let s := serveWake site s
  let s := if (s.senOf site).settle then modSen site (fun x => applySettings { x with settle := false }) s else s
  let s := each (List.replicate n site) drainOne (modSen site (fun x => { x with drains := 0 }) s)
  modSen site (fun x => { x with wakeState := 3, wake := false }) s

/-! ## Wake and registers -/

/-- The answer of a unit that is present and answers. -/
def State.answers? (s : State) (site : Nat) : Bool := s.present (sectorOf site) && !(s.senOf site).silent

/-- TCG_WAKE_ACK rises (R72, R74): waiting accesses cross, the request falls, CLKGEN_UNRESPONSIVE falls. -/
def execTcgWakeAckRise (site : Nat) (s : State) : Result :=
  let x := s.senOf site
  .next (if x.wakeState != 1 then s
    else if x.inReset then setAlarm site 1 false {} (modSen site (fun y => { y with wakeState := 2 }) s)
    else serveFront site (setAlarm site 1 false {} s))

/-- TCG_WAKE_ACK falls (R72): a new request may rise. -/
def execTcgWakeAckFall (site : Nat) (s : State) : Result :=
  .next (if (s.senOf site).wakeState = 3 then raiseWake site (modSen site (fun y => { y with wakeState := 0 }) s) else s)

/-- No acknowledge within 10 us (R74): the alarm rises, the waiting accesses complete with WAKE_TIMEOUT, and the request
stays. -/
def execWakeTimeout (site : Nat) (s : State) : Result :=
  let x := s.senOf site
  .next (if x.wakeState != 1 then s
    else
      let s := modSen site (fun y => { y with crossErr := y.crossErr ||| 2, wakeWaiting := [] }) s
      setAlarm site 1 true {} (each x.wakeWaiting timeoutAccess s))

/-- A register write (R77, R79). -/
def execWrite (unit offset : Nat) (words : List Word) (tag : Nat) (s : State) : Result :=
  let m := Instr.write unit offset words tag
  arrive m (fun s => if unit < 0x4000 then (if s.answers? unit then senWrite unit offset words tag s else s)
    else if unit < 0x4080 then
      if !s.present (unit - 0x4000) || (s.hubOf (unit - 0x4000)).failed then s
      else if veAsleep s unit offset then waitUnit (unit - 0x4000) 2 m s
      else hubWrite (unit - 0x4000) offset words tag s
    else s) s

/-- A read of SEN.DROP_COUNT: the count is answered and cleared (Table 3.4). -/
def execDropCountRead (site tag : Nat) (s : State) : Result :=
  arrive (.dropCountRead site tag) (fun s => if s.answers? site then senRead site 0x14 1 tag s else s) s

/-- PROGRAM_WRITE (R174): the store lies at the front, which a stopped tile reaches by its wake (R72). -/
def execProgramWrite (site offset : Nat) (words : List Word) (tag : Nat) (s : State) : Result :=
  arrive (.programWrite site offset words tag) (fun s =>
    if !s.answers? site then s
    else if s.mustWait site then waitWake site (.programWrite site offset words tag) s
    else programStore site offset words tag s) s

/-- PROGRAM_READ (R174). -/
def execProgramRead (site offset count tag : Nat) (s : State) : Result :=
  arrive (.programRead site offset count tag) (fun s =>
    if !s.answers? site then s
    else if s.mustWait site then waitWake site (.programRead site offset count tag) s
    else programLoad site offset count tag s) s

/-- A write of word 3 of a generator's seed loads all four words (R217); zero is loaded as 1 (R193, R209). -/
def execSeedLoad (hub : Nat) (sampling : Bool) (value : Word) (s : State) : Result :=
  .next (modHub hub (hubWriteWord (if sampling then 0x82C else 0x81C) value.toNat) s)

/-! ## Events and the front-to-back queue -/

/-- The back takes a code's events and returns its level to idle: under wake where the front is stopped (R70, R72). -/
def sampleEv (site code : Nat) (s : State) : State :=
  let m := Instr.eventLevelRise site code
  if (s.senOf site).evDiff code = 0 || (s.senOf site).wakeWaiting.contains m then s
  else if s.mustWait site then waitWake site m s
  else takeEv site code s

/-- The event level of a code is seen (R70). -/
def execEventLevelRise (site code : Nat) (s : State) : Result :=
  .next (if Sparse.get false (s.senOf site).evLevel code then sampleEv site code s else s)

/-- Every event counter is sampled, whether or not its level is raised (R70). -/
def execEventCounterSampleTimer (site : Nat) (s : State) : Result := .next (each [0, 1, 2] (sampleEv site) s)

/-- One entry of the front-to-back queue reaches the back (R66): under wake where the front is stopped (R75). -/
def execFrontQueueEntry (site : Nat) (s : State) : Result :=
  .next (if (s.senOf site).fq.length ≤ (s.senOf site).drains then s
    else if s.mustWait site then waitFront site (fun x => { x with drains := x.drains + 1 }) s
    else drainOne site s)

/-- A sentinel's count of dropped report items reaches its hub (R45): counted as drops on the path (Table 17.5). -/
def execDropCount (site count : Nat) (s : State) : Result :=
  arrive (.dropCount site count) (modRec fun r => { noteDrop s.recordMs r with dropPath := r.dropPath + count }) s

/-! ## Queue commands (R323, R325, R331, R440) -/

/-- HEAD_DESC of a queue head (Table 14.3). -/
def headDesc (op : QueueOp) : List Byte := le 3 op.handle ++ le 3 op.index ++ le 1 op.gen ++ le 1 op.fmtFlags

/-- A screening window of the partition is open and the instruction is not test or heating content: the breach of R232.
The hub ends every run of the partition and screens no more in this window. -/
def windowBreach (site handle : Nat) (s : State) : State :=
  let p := s.sitePart site
  if !s.inWindow p || testHandle handle || s.tileAt site = 0xFFFF then s
  else
    hubEvent (s.siteHub site) 0x2003 (le 1 p ++ le 1 0 ++ le 2 (s.tileAt site) ++ le 3 handle ++ le 1 0 ++ le 8 (s.slotAt site))
      (endPasses p 0 (modPart p (fun x => { x with breach := true }) s))

/-- The lineage of a job's engine instruction runs in the step (Table 11.3); any value of 32 or more is treated as 0xFE (R268). -/
def markServed (lineage : Nat) (x : Sentinel) : Sentinel :=
  if lineage < 32 then { x with served := x.served ||| 2 ^ lineage } else { x with shared := true }

/-- A command is issued on a tile queue: its shadow entry, the trace record, window breach and served lineages. The BLOCKED
level of a stalled head falls, and rises again where the same head has another target (R327). -/
def issueCommand (site : Nat) (op : QueueOp) (s : State) : State :=
  let code := match op.queue with | 0 => 1 | 1 => 2 | 4 => 7 | 5 => 8 | _ => 0
  let old := Sparse.get {} (s.senOf site).shadow op.queue
  let same := bitOf 0 old.state && old.headDesc == headDesc op
  let slot := if same then old.headSlot else s.slotAt site
  let stalled := bitOf 1 old.state
  let edge : Edge := { queue := op.queue, targetKind := op.targetKind, target := op.target, context := op.context
                       tile := s.tileAt site, stallSlot := BitVec.ofNat 64 slot }
  let s := if stalled then pushAlarm site (.alarmLevel site (16 + op.queue) false {}) s else s
  let s := if stalled && same && bitOf 5 (s.senOf site).ctrlFront then pushAlarm site (.alarmLevel site (16 + op.queue) true edge) s else s
  let s := modSen site (fun x =>
    let x := if code = 0 || same then x else selectedEvent code 1 x
    let x := if op.queue < 2 && !testHandle op.handle then markServed op.lineage x else x
    { x with shadow := Sparse.upd {} x.shadow op.queue fun e =>
        { e with state := if same then e.state else 1, targetKind := op.targetKind, target := op.target, context := op.context
                 depth := op.depth, credits := op.credits, headSlot := slot, headDesc := headDesc op } }) s
  let s := if op.queue < 2 then windowBreach site op.handle s else s
  if same then s else traceRecord site op false false s

/-- QUEUE_COMMAND_ISSUE: a fenced site issues no new instruction (R337). -/
def execQueueCommandIssue (site : Nat) (op : QueueOp) (s : State) : Result :=
  .next (if (s.senOf site).fenced then s else issueCommand site op s)

/-- A command completes, or a fence discards it: the head advances, its BLOCKED level falls, its end is traced. -/
def execQueueCommandComplete (site : Nat) (op : QueueOp) (discarded : Bool) (s : State) : Result :=
  let code := match op.queue with | 6 => 9 | 7 => 10 | _ => 0
  let e := Sparse.get {} (s.senOf site).shadow op.queue
  let s := modSen site (fun x =>
    let x := if code = 0 || discarded then x else selectedEvent code 1 x
    { x with shadow := Sparse.upd {} x.shadow op.queue fun y =>
        { y with state := (if bitOf 2 y.state then 4 else 0) + 8 * flag discarded, depth := op.depth, credits := op.credits,
                 advances := (y.advances + flag (!discarded)) % 2 ^ 32 } }) s
  let s := if bitOf 1 e.state then pushAlarm site (.alarmLevel site (16 + op.queue) false {}) s else s
  .next (fenceIdle site (traceRecord site op true discarded s))

/-! ## Triggers and watch dumps -/

/-- A partition trigger arrives (R443): taken by a sentinel whose own trigger has not fired. -/
def execTraceTrigger (site firing : Nat) (slot : Dword) (s : State) : Result :=
  arrive (.traceTrigger site firing slot) (fun s =>
    let s := respond site 1 9 [] s
    if (s.senOf site).armed then
      modSen site (fun x => { x with traceFired := true, traceRemote := true, traceState := 2, tracePost := x.postCount }) s
    else s) s

/-- A staged block has reached its entry of the dump area (R455): written there, its slot free again. -/
def execWatchDumpComplete (site slot : Nat) (s : State) : Result :=
  .next (match (s.senOf site).staging.find? fun y => y.slot = slot with
    | none => s
    | some y =>
      let s := modSen site (fun x => { x with staging := x.staging.filter fun z => z.slot != slot }) s
      (setDram (Memory.write 0 s.dram (tier2Addr (regionOf (sectorOf site)) y.addr) (y.header ++ blockBytes y.block)) s))

/-! ## SRAM errors (R311) -/

/-- A tile SRAM word was corrected, or could not be: its report crosses to the back (Table 3.1). Of the latter an engine or a fabric
send makes poison consumed (Table 13.6) and, at the engine, the outputs poisoned; a reader through the dump port sees a failing block,
and a test run fails. -/
def execSramErrorReport (site : Nat) (corrected : Bool) (path address : Nat) (desc : Desc) (s : State) : Result :=
  let slot := s.slotAt site
  let s := pushReport site (.sramErrorReport site corrected path address desc) (if corrected then modSen site (selectedEvent 6 1) s else s)
  .next (if corrected then s
    else
      let s := if path = 0 || path = 2 then modSen site (fun x => { x with wordBad := x.wordBad ++ [(path, desc.handle, desc.index)] }) s else s
      if path ≤ 1 then
      raiseEv site 0 (le 3 desc.handle ++ le 3 desc.index ++ le 1 desc.gen ++ le 1 (desc.fmt % 16 + 16 * (desc.spars % 4)) ++ le 8 slot) s
      else if path = 3 then modSen site (fun x => { x with runFailed := true }) s
      else s)

end Sys2Proof.Machine
end

