-- ==== Sys2Proof/Machine/Seals.lean ====
section
/-!
DEFINITION. Tensor block seals (R84 to R105): consumption, re-read, production, entry and exit points, and the digest
entries those points collect (R475, R478).
-/
namespace Sys2Proof.Machine

/-! ## The tests of R94 -/

/-- A tag is invalid (R87). -/
def tagInvalid (t : Tag) : Bool := 8 ≤ t.fmt || ((t.fmt == 6 || t.fmt == 7) && t.spars != 0)

/-- Tests 1 and 2 alone (R101): the first that fails, 0 when both pass. -/
def sealTest2 (b : Block) : Nat :=
  if tagInvalid b.tag then 1 else if sealOf b.payload b.tag != b.tag.crc then 2 else 0

/-- The first failing test of R94, 0 when the block passes. -/
def sealTest (b : Block) (d : Desc) : Nat :=
  if tagInvalid b.tag then 1
  else if sealOf b.payload b.tag != b.tag.crc then 2
  else if b.tag.handle != d.handle || b.tag.index != d.index || b.tag.fmt != d.fmt || b.tag.spars != d.spars then 3
  else if b.tag.gen != d.gen then 4
  else 0

/-- Event of a failing test at consumption (Table 4.4, R93). -/
def consumeCode (test fmt : Nat) : Nat :=
  if test = 1 then (if fmt = 15 then 0x1008 else 0x1002)
  else if test = 2 then 0x1001 else if test = 3 then 0x1003 else 0x1004

/-- Event of a failing test at an exit point. -/
def exitCode (test fmt : Nat) : Nat := if test = 2 then 0x1005 else consumeCode test fmt

/-- What a checker saw of a block (Table 4.5). -/
def sealInfoOf (b : Block) (d : Desc) (slot point : Nat) : SealInfo :=
  { handle := b.tag.handle, index := b.tag.index, gen := b.tag.gen, fmtFlags := Tag.fmtFlags b.tag, sealStored := b.tag.crc
    sealComputed := sealOf b.payload b.tag, slot := BitVec.ofNat 64 slot, exp := d, atRest := 0, point := point }

/-- Seal event payload (Table 4.5). -/
def sealBytes (i : SealInfo) : List Byte :=
  le 3 i.handle ++ le 3 i.index ++ le 1 i.gen ++ le 1 i.fmtFlags ++ le 8 i.sealStored.toNat ++ le 8 i.sealComputed.toNat ++
    le 8 i.slot.toNat ++ le 3 i.exp.handle ++ le 3 i.exp.index ++ le 1 i.exp.gen ++
    le 1 (i.exp.fmt % 16 + 16 * (i.exp.spars % 4)) ++ le 1 i.atRest ++ le 1 0 ++ le 2 i.point

/-- A seal event of a sentinel. -/
def sealEvent (site code : Nat) (i : SealInfo) : Instr := .event { code := code, source := site, payload := sealBytes i }

/-! ## The routing ledger (R151, R152) -/

/-- Token identifiers of a token list block, unused entries left out. -/
def tokensOf (payload : List Byte) : List Nat :=
  ((List.range 1024).map fun t => field payload (4 * t) 4).filter fun v => v != 0xFFFFFFFF

/-- One block's tokens in its group's entry. -/
def addTokens (receipt : Bool) (tokens : List Nat) (e : LedgerEntry) : LedgerEntry :=
  let sum := tokens.foldl (· + ·) 0
  if receipt then
    { e with recvCount := (e.recvCount + tokens.length) % 2 ^ 32, recvSum := (e.recvSum + sum) % residueP }
  else { e with sentCount := (e.sentCount + tokens.length) % 2 ^ 32, sentSum := (e.sentSum + sum) % residueP }

/-- A token list block enters the ledger table; a 17th group is marked invalid, in an entry of its own (log entry 124). -/
def ledgerAdd (group : Nat) (receipt : Bool) (tokens : List Nat) (xs : List LedgerEntry) : List LedgerEntry :=
  if xs.any fun e => e.group = group then xs.map fun e => if e.group = group then addTokens receipt tokens e else e
  else if xs.length < 16 then xs ++ [addTokens receipt tokens { group := group }]
  else xs ++ [{ group := group, invalid := true }]

/-- The ledger's share of a sealed (dispatch) or consumed (receipt) block, by the LEDGER field of its descriptor. -/
def ledgerBlock (receipt : Bool) (d : Desc) (payload : List Byte) (x : Sentinel) : Sentinel :=
  if d.fmt = 7 && d.spars = 0 && bitOf 13 d.ledger && bitOf 12 d.ledger = receipt then
    { x with ledger := ledgerAdd (d.ledger % 4096) receipt (tokensOf payload) x.ledger }
  else x

/-! ## Consumption (R94 to R98) -/

/-- A verdict item of a consumption leaves through a reserved entry, for which it waits: it is never dropped (R96). Test content (R207)
sends none. -/
def sealItem (site test : Nat) (c : Consume) (i : SealInfo) (s : State) : State :=
  if c.lineage = 0xFF && testHandle c.desc.handle then s
  else
    let p := s.sitePart site
    modSen site (enterFront (.sealVerdict site p c.lineage test (s.partOf p).step c.seq i)) s

/-- A consumed block carries POISON and passes tests 1 and 2: poison consumed (R97, R312). -/
def consumePoison (site : Nat) (c : Consume) (slot : Nat) (s : State) : State :=
  raiseEv site 0 (le 3 c.block.tag.handle ++ le 3 c.block.tag.index ++ le 1 c.block.tag.gen ++
    le 1 (Tag.fmtFlags c.block.tag) ++ le 8 slot) s

/-- A consumption that fails a test: counted, the verdict item and the detail sent; a mismatch in tile SRAM waits for its
re-read (R98). -/
def consumeFails (site test : Nat) (c : Consume) (i : SealInfo) (s : State) : State :=
  let s := sealItem site test c i (countSen site 9 1 s)
  if test = 2 && c.engine < 2 then
    modSen site (fun x => { x with rereads := x.rereads ++ [(i, c.holder)] }) s
  else pushReport site (sealEvent site (consumeCode test c.block.tag.fmt) i) s

/-- The engine's counts of a consumed block differ from the block's (R137): recorded as 0x1013. -/
def countsCheck (site : Nat) (c : Consume) (i : SealInfo) (s : State) : State :=
  if c.engine = 0 && (c.nzCount != nzCountOf c.block || c.posSum != posSumOf c.block) then
    pushReport site (sealEvent site 0x1013 i) s
  else s

/-- What an output tile or stream has consumed so far: POISON, TAINT. -/
def markIn (engine seq : Nat) (poison taint : Bool) (x : Sentinel) : Sentinel :=
  if engine < 2 && (poison || taint) then
    { x with inMarks := Sparse.upd (false, false) x.inMarks (2 * seq + engine) fun m => (m.1 || poison, m.2 || taint) }
  else x

/-- The pair codes of a consumed 2:4 block are invalid (R110): handled as a failed test 5. -/
def metaFails (c : Consume) : Bool := c.block.tag.spars == 2 && sparseMetaBad 2 c.block.payload

/-- A block that passes the four tests: metadata, taint and watches (R91, R110, R453). -/
def consumePasses (site : Nat) (c : Consume) (i : SealInfo) (s : State) : State :=
  if metaFails c then pushReport site (sealEvent site 0x1011 i) (sealItem site 5 c i s)
  else watchBlock site 1 c.block (if c.block.tag.taint then pushReport site (sealEvent site 0x1007 i) s else s)

/-- The verification of a consumed block (R94). POISON acts unless test 1 or 2 failed, and then the block is handled as tainted
(R97); a move through the fabric input port is no consumption (Table 13.2). A word that could not be corrected acts on the outputs as POISON
(R311); its event has been raised. -/
def verifyConsumed (site : Nat) (c : Consume) (slot : Nat) (i : SealInfo) (s : State) : State :=
  let test := sealTest c.block c.desc
  let poison : Bool := c.block.tag.poison && test != 1 && test != 2 && c.engine < 2
  let bad : Bool := test != 0 || metaFails c
  let word := (0, c.desc.handle, c.desc.index)
  let spoilt : Bool := c.engine < 2 && (s.senOf site).wordBad.contains word
  let s := countSen site 8 1 (modSen site (fun x =>
    markIn c.engine c.seq (poison || spoilt) (bad || c.block.tag.taint) { x with wordBad := x.wordBad.filter (· != word) }) s)
  let s := if bad && testHandle c.desc.handle then modSen site (fun x => { x with runSeals := true }) s else s
  let s := if test = 0 then consumePasses site c i s else consumeFails site test c i s
  if poison then consumePoison site c slot s else s

/-- BLOCK_CONSUMED: the front verifies the block while SEAL_EN is set (R102, log entry 33), and while RESIDUE_EN is set it compares
the engine's counts and adds a receipt to the ledger, whatever the tests give (R137, R146, R152). -/
def execBlockConsumed (site : Nat) (c : Consume) (s : State) : Result :=
  let x := s.senOf site
  let slot := s.slotAt site
  let i := sealInfoOf c.block c.desc slot 0xFFFF
  let s := if bitOf 0 x.ctrlFront then
      verifyConsumed site c slot i (if c.block.tag.spars != 0 then modSen site (selectedEvent 13 1) s else s)
    else s
  .next (if bitOf 1 x.ctrlFront then
      countsCheck site c i (if c.engine < 2 then modSen site (ledgerBlock true c.desc c.block.payload) s else s)
    else s)

/-- A block as the dump port reads it: one of which a word could not be corrected fails test 2 (R311). -/
def dumpRead (bad : List (Nat × Nat × Nat)) (b : Block) (d : Desc) : Block :=
  if bad.contains (2, d.handle, d.index) then { b with tag := { b.tag with crc := ~~~ sealOf b.payload b.tag } } else b

/-- AT_REST of a re-read (R98, log entry 113): the stored copy verified once more by the tests of R94 against the descriptor; one
that is being written, or that is valid with another GEN, is overwritten. -/
def atRestOf (i : SealInfo) (stored : Block) : Nat :=
  if sealTest stored i.exp = 0 then 1
  else if stored.tag.fmt = 15 then 3
  else if sealTest2 stored = 0 && stored.tag.gen != i.exp.gen then 3
  else 2

/-- SEAL_REREAD (R98): the record of the mismatch is written with AT_REST; a fault on the read path or in storage is
charged to the site whose SRAM holds the block (Table 10.2). -/
def execSealReread (site : Nat) (stored : Block) (s : State) : Result :=
  .next (match (s.senOf site).rereads with
    | [] => s
    | (i, holder) :: rest =>
      let rest' : Nat := atRestOf i (dumpRead (s.senOf site).wordBad stored i.exp)
      let s := modSen site (fun x => { x with rereads := rest, wordBad := x.wordBad.filter fun w => w.1 != 2 }) s
      let s := pushReport site (sealEvent site 0x1001 { i with atRest := rest' }) s
      if rest' = 3 then s else charge holder 2 0 false s)

/-! ## Production (R89, R91, R93, R102) -/

/-- The payload as written: converted where the vector engine writes a FORMAT of 0-5 (R122), with a zero side area for FORMAT 6 and 7
(R88). -/
def writtenPayload (x : Sentinel) (p : Produce) : List Byte :=
  if p.desc.fmt = 6 || p.desc.fmt = 7 then p.payload.take 4096
  else match p.vec with
    | some v => if p.engine = 1 && p.desc.fmt < 6 then (vecConvert p.desc.fmt v x.tk x.sk p.seq).1 else p.payload
    | none => p.payload

/-- The tag that a sentinel writes for a produced block: `marks` is what its tile or stream has consumed. -/
def producedTag (enabled : Bool) (marks : Bool × Bool) (p : Produce) (payload : List Byte) : Tag :=
  let t : Tag := { handle := p.desc.handle, index := p.desc.index, fmt := p.desc.fmt, spars := p.desc.spars
                   poison := marks.1, taint := marks.2 || !enabled, gen := p.desc.gen }
  if enabled then { t with crc := sealOf payload t } else t

/-- What the production of a block leaves in the sentinel: byte 14 goes in as FORMAT 15 with the first payload write and the tag
after the last (R93); the status word of a vector block (R126), without flags where nothing is converted, which stays at the sentinel
(log entry 141); an output block of a run in the test area (R205). -/
def insertTag (p : Produce) (payload : List Byte) (t : Tag) (x : Sentinel) : Sentinel :=
  let x := { x with lastTag := t, inserted := [(14, [15]), (0, Tag.bytes t)] }
  let x := if p.engine != 1 then x
    else { x with vecStatus := match p.vec with
      | some v => if p.desc.fmt < 6 then (vecConvert p.desc.fmt v x.tk x.sk p.seq).2 else statusWord 0 false false false (v.round == 1)
      | none => 0 }
  if p.lineage = 0xFF && testHandle p.desc.handle then
    { x with test := Memory.write 0 x.test (4624 * p.desc.index) (padTo 4608 payload ++ Tag.bytes t) }
  else x

/-- An output block sealed after the last STEP_LAST instruction is the end of the step (R270). -/
def lastSealed (p : Nat) (s : State) : State :=
  if (s.partOf p).opened && (s.partOf p).stepEnded then modPart p (fun x => { x with endAtRas := s.ras }) s else s

/-- BLOCK_PRODUCED (R93): a block that a fence cuts keeps FORMAT 15 of its first payload write and receives no tag (R337); any other is sealed while SEAL_EN is set, then a dispatch enters the ledger while RESIDUE_EN is set (R146) and the block
meets the watches. Heating content is not sealed (R224). -/
def execBlockProduced (site : Nat) (p : Produce) (s : State) : Result :=
  let x := s.senOf site
  let enabled := bitOf 0 x.ctrlFront
  let payload := writtenPayload x p
  let t := producedTag enabled (Sparse.get (false, false) x.inMarks (2 * p.seq + p.engine)) p payload
  .next (if p.lineage = 0xFF && p.desc.handle = 0xFFFF08 then s
    else if x.fenced then modSen site (fun x => { x with inserted := [(14, [15])] }) s
    else
      let s := modSen site (insertTag p payload t) s
      let s := if testHandle p.desc.handle then s else lastSealed (s.sitePart site) s
      let s := if bitOf 1 x.ctrlFront then modSen site (ledgerBlock false p.desc payload) s else s
      if enabled then watchBlock site 0 { payload := payload, tag := t } s else s)

/-! ## Bound hubs (R104) -/

/-- Sectors to which a point is bound, in order (R104). -/
def pointOrder (kind port : Nat) : List Nat :=
  let region (r : Nat) : List Nat := (List.range 5).map (5 * r + ·)
  let ends := rowEnds (port % 10)
  let row := (List.range (ends.2 + 1 - ends.1)).map (ends.1 + ·)
  match kind with
  | 0 => region port
  | 1 => region (port / 4)
  | 2 => region (port % 16)
  | 3 => if port < 32 then row else row.reverse
  | _ => [port]

/-- The sector to which a point is bound: the first of its order that is present and not lost. -/
def State.pointSector (s : State) (t : Transfer) : Nat :=
  ((pointOrder t.kind t.port).find? fun x => s.present x && !(s.hubOf x).lostSector).getD t.port

/-- The hub to which a point is bound: that of its sector, or its adoptive hub. -/
def State.pointHub (s : State) (t : Transfer) : Nat := (s.server (s.pointSector t)).getD (s.pointSector t)

/-- POINT (Table 4.5): the sector is that of the binding, also while an adoptive hub serves it (log entry 133). -/
def State.pointOf (s : State) (t : Transfer) : Nat := 256 * s.pointSector t + t.point % 256

/-! ## Digest entries (R475, R476, R478, R479) -/

/-- A block counts for the digest. -/
def digestCounts (trailer : Nat) (t : Transfer) (handle : Nat) : Bool :=
  !t.reservedSlot && handle != trailer && !(0xFFFF00 ≤ handle && handle ≤ 0xFFFF10)

/-- Entries written into the half of a region's digest area for a step of a partition. -/
def State.digestUsed (s : State) (region p step : Nat) : Nat :=
  (((s.sectors.filter fun x => regionOf x == region).flatMap fun x => (s.hubOf x).digests).map fun (d : HubDigest) =>
    if d.part = p && d.step = step then d.ins.length + d.outs.length else 0).sum

/-- The run in hub SRAM is written to the half; one that does not fit is lost. -/
def closeRun (room : Nat) (d : HubDigest) : HubDigest :=
  let n := d.runIn.length + d.runOut.length
  if n ≤ room then { d with ins := d.ins ++ d.runIn, outs := d.outs ++ d.runOut, runIn := [], runOut := [] }
  else { d with lost := d.lost + n, runIn := [], runOut := [] }

/-- Entries that still fit a half of the region's digest area. -/
def State.digestRoom (s : State) (h p step : Nat) : Nat :=
  (s.jobOf p).digestSize / 2 / 16 - s.digestUsed (regionOf h) p step

/-- One entry at a hub for (partition, step): runs of 65,536 entries. `waits`: collection waits in the point's buffer of
4,096 entries, beyond which an entry is lost. -/
def addEntry (room point : Nat) (out waits : Bool) (t : Tag) (d : HubDigest) : HubDigest :=
  if waits && 4096 ≤ Sparse.get 0 d.buffered point then { d with lost := d.lost + 1 }
  else
    let d := if waits then { d with buffered := bump d.buffered point 1 } else d
    let d := if out then { d with runOut := d.runOut ++ [t] } else { d with runIn := d.runIn ++ [t] }
    if d.runIn.length + d.runOut.length < 65536 then d else closeRun room d

/-- A hub's collections with one changed. -/
def modDigest (p step : Nat) (f : HubDigest → HubDigest) (ds : List HubDigest) : List HubDigest :=
  if ds.any fun d => d.part = p && d.step = step then
    ds.map fun d => if d.part = p && d.step = step then f d else d
  else ds ++ [f { part := p, step := step }]

/-- An entry or exit point's block enters its partition's digest set, but for a replay (Table 19.4). -/
def digestEntry (h : Nat) (out : Bool) (t : Transfer) (tag : Tag) (s : State) : State :=
  let x := s.partOf t.partition
  match x.job with
  | none => s
  | some j =>
    if j.digestSize = 0 || x.state = 6 || !digestCounts j.trailerHandle t tag.handle then s
    else
      let room := s.digestRoom h t.partition t.step
      let waits := x.digestNext.any fun n => n.1 != t.step
      modHub h (fun y => { y with digests := modDigest t.partition t.step (addEntry room (s.pointOf t) out waits tag) y.digests }) s

/-! ## Entry and exit points (R90, R99, R101, R104) -/

/-- A context of a partition that an access names (R316): 0 OPEN, 1 being torn down, 2 TORN, as every context is until JOB_ATTACH opens it
(R315, R319). Reserved slots and the reduction belong to none. -/
def State.ctxOf (s : State) (t : Transfer) : Nat :=
  let x := s.partOf t.partition
  if t.reservedSlot || t.reduced || bitOf t.context x.open_ then 0 else if bitOf t.context x.tearing then 1 else 2

/-- The tag that an entry point writes over the data of a read: POISON when a word was uncorrectable, or the block is synthesized. -/
def entryTag (t : Transfer) (poison : Bool) (payload : List Byte) : Tag :=
  let tag : Tag := { handle := t.desc.handle, index := t.desc.index, fmt := t.desc.fmt, spars := t.desc.spars
                     poison := poison, gen := t.desc.gen }
  { tag with crc := sealOf payload tag }

/-- In a replay of hang recovery exit points write and send nothing (R348). -/
def State.muted (s : State) (t : Transfer) : Bool := (s.partOf t.partition).state == 6 && !t.reservedSlot

/-- A write is refused: its context is TORN, or being torn down and the write was not accepted before (R316). -/
def State.refuses (s : State) (t : Transfer) : Bool := s.ctxOf t == 2 || (s.ctxOf t == 1 && !t.accepted)

/-- A request of a TORN context is refused with an error completion (R316). -/
def refuseRequest (h : Nat) (s : State) : State := modHub h (fun y => { y with refused := y.refused + 1 }) s

/-- MEMORY_ENTRY_READ (R90): the block is sealed over the corrected data, with POISON when a word was uncorrectable. A read that is
outstanding in a context being torn down is answered with a synthesized block: payload zero, POISON set, sealed; a new one is refused
(R316). -/
def execMemoryEntryRead (t : Transfer) (s : State) : Result :=
  let h := s.pointHub t
  let put (tag : Tag) : State := digestEntry h false t tag (modHub h (fun y => { y with entryTag := tag }) s)
  .next (match s.ctxOf t with
    | 0 => put (entryTag t t.uncorrectable t.block.payload)
    | 1 => if t.accepted then put (entryTag t true []) else refuseRequest h s
    | _ => refuseRequest h s)

/-- A tagged block of a step on a port: counted for its peer's trailer (R284). -/
def seeBlock (step port : Nat) (failed : Bool) (xs : List (Nat × Nat × Nat × Bool)) : List (Nat × Nat × Nat × Bool) :=
  if xs.any fun e => e.1 = step && e.2.1 = port then
    xs.map fun e => if e.1 = step && e.2.1 = port then (step, port, e.2.2.1 + 1, e.2.2.2 || failed) else e
  else xs ++ [(step, port, 1, failed)]

/-- A block that a link entry point takes (R101): a tagged block keeps its seal and is verified by tests 1 and 2; an untagged one is
sealed. -/
def takeLinkBlock (t : Transfer) (s : State) : State :=
  let h := s.pointHub t
  let tag0 : Tag := { handle := t.desc.handle, index := t.desc.index, fmt := t.desc.fmt, spars := t.desc.spars, gen := t.desc.gen }
  let tag : Tag := if t.untagged then { tag0 with crc := sealOf t.block.payload tag0 } else t.block.tag
  let s := modHub h (fun y => { y with entryTag := tag }) s
  let test := if t.untagged then 0 else sealTest2 t.block
  let s := if t.untagged then s
    else modPart t.partition (fun x => { x with linkSeen := seeBlock t.step t.port (test != 0) x.linkSeen }) s
  (if test = 0 then digestEntry h false t tag s
    else hubEvent h (if test = 1 then 0x1002 else 0x1006)
      (sealBytes (sealInfoOf t.block t.desc s.slot (s.pointOf t))) (countHub h 59 1 s))

/-- LINK_ENTRY_BLOCK: in a context being torn down an outstanding read is answered with a synthesized block, and what arrives for a TORN
one is refused (R316). -/
def execLinkEntryBlock (t : Transfer) (s : State) : Result :=
  let h := s.pointHub t
  .next (match s.ctxOf t with
    | 0 => takeLinkBlock t s
    | 1 => if t.accepted then
        let tag := entryTag t true []
        digestEntry h false t tag (modHub h (fun y => { y with entryTag := tag }) s)
      else refuseRequest h s
    | _ => refuseRequest h s)

/-- The failure of an exit point goes to the root hub of the writing partition (R99). -/
def exitVerdict (h test : Nat) (t : Transfer) (i : SealInfo) (s : State) : State :=
  send (.sealVerdict (hubAddr h) t.partition t.lineage test t.step 0 i) s

/-- The record of a failing test at an exit point. -/
def exitEvent (h test : Nat) (t : Transfer) (i : SealInfo) (s : State) : State :=
  hubEvent h (exitCode test t.block.tag.fmt) (sealBytes i) (countHub h 59 1 s)

/-- MEMORY_EXIT_WRITE (Table 4.3): a write that has been accepted completes, one of a TORN context is refused (R316); a failing block is written marked uncorrectable and its lineage fails; a poisoned one
is written marked. -/
def execMemoryExitWrite (t : Transfer) (s : State) : Result :=
  let h := s.pointHub t
  let test := sealTest t.block t.desc
  let i := sealInfoOf t.block t.desc s.slot (s.pointOf t)
  if s.muted t then .next s else if s.refuses t then .next (refuseRequest h s) else
  let s := modHub h (fun y => { y with lastExit := if test = 0 && !t.block.tag.poison then 1 else 2 }) s
  .next (if test = 0 then digestEntry h true t t.block.tag s else exitVerdict h test t i (exitEvent h test t i s))

/-- The tag of a reduced block leaving through the tree (Table 4.2): marked with what the contributors that are not masked off
carried, with a zero side area for FORMAT 6 and 7 (R88). -/
def reducedTag (x : Partition) (t : Transfer) : Tag :=
  let ins := x.treeIn.filter fun e =>
    e.step = t.step && e.tag.handle = t.desc.handle && e.tag.index = t.desc.index && bitOf e.lineage x.treeKept
  let tag : Tag := { handle := t.desc.handle, index := t.desc.index, fmt := t.desc.fmt, spars := t.desc.spars, gen := t.desc.gen
                     poison := ins.any (·.tag.poison), taint := ins.any (·.tag.taint) }
  { tag with crc := sealOf (if t.desc.fmt = 6 || t.desc.fmt = 7 then t.block.payload.take 4096 else t.block.payload) tag }

/-- The peers that the reduced blocks of a port contain: those accepted as the first of them is formed (R283). -/
def notePort (port : Nat) (x : Partition) : Sparse (Option (Nat × Nat)) :=
  let ok := x.peers.filter fun e => e.verdict = 1
  if (Sparse.get none x.portPeers port).isSome then x.portPeers
  else Sparse.set none x.portPeers port (some ((ok.map (·.kept)).sum, ok.length))

/-- LINK_EXIT_BLOCK (Table 4.3; TEST of a passing POISON block is 0, log entry 122): a request of a TORN context is refused (R316); a failing or poisoned block is not sent and its lineage fails; of a reduced block, every
lineage and the step (Table 11.4). -/
def execLinkExitBlock (t : Transfer) (s : State) : Result :=
  let h := s.pointHub t
  let test := sealTest t.block t.desc
  let i := sealInfoOf t.block t.desc s.slot (s.pointOf t)
  if s.muted t then .next s else if s.refuses t then .next (refuseRequest h s) else
  let made := reducedTag (s.partOf t.partition) t
  let s := if t.reduced then modPart t.partition (fun x => { x with treeTag := made, portPeers := notePort t.port x }) s else s
  .next (if test = 0 && !t.block.tag.poison && !(t.reduced && made.poison) then
      digestEntry h true t t.block.tag (modHub h (fun y => { y with lastExit := 3 }) s)
    else
      let s := modHub h (fun y => { y with lastExit := 4 }) s
      let s := if test = 0 then s else exitEvent h test t i s
      if t.reduced then modPart t.partition (fun x => { x with exitFailed := true }) s else exitVerdict h test t i s)

end Sys2Proof.Machine
end

