-- ==== Sys2Proof/Machine/Lineage.lean ====
section
/-!
DEFINITION. Lineages at a hub (R268, R274), late detections (R279, R280), and the repeat queue of the verification engine
(R192 to R194).
-/
namespace Sys2Proof.Machine

/-! ## Lineages (R268) -/

/-- Every lineage of a job. -/
def Job.all (j : Job) : Nat := 2 ^ j.lineages - 1

/-- The lineage stands for the whole step: shared work, or a value that the job does not have. -/
def Job.shared (j : Job) (lineage : Nat) : Bool := j.lineages ≤ lineage

/-- Lineages that an item's LINEAGE names. -/
def Job.mask (j : Job) (lineage : Nat) : Nat := if j.shared lineage then j.all else 2 ^ lineage

/-- LINEAGE_INVALID, once per site, value and step. -/
def noteLineage (site lineage : Nat) (s : State) : State :=
  let h := s.siteHub site
  let p := s.sitePart site
  if lineage = 0xFE || !(s.jobOf p).shared lineage || (s.hubOf h).collect.lineageSeen.contains (site, lineage) then s
  else
    hubEvent h 0x1055 (le 8 (s.partOf p).step ++ le 2 (s.tileAt site) ++ le 1 lineage ++ le 1 0)
      (modHub h (fun y => { y with collect := { y.collect with lineageSeen := y.collect.lineageSeen ++ [(site, lineage)] } }) s)

/-- Lineages fail in a hub's open collection; after its contribution, in the one that follows (Table 11.10). -/
def failMask (mask : Nat) (c : Collect) : Collect :=
  if c.sent then { c with carry := c.carry ||| mask } else { c with failed := c.failed ||| mask }

/-- An item that fails its lineage reaches the hub of its site. -/
def failItem (site lineage : Nat) (s : State) : State :=
  let mask := (s.jobOf (s.sitePart site)).mask lineage
  modHub (s.siteHub site) (fun y => { y with collect := failMask mask y.collect }) (noteLineage site lineage s)

/-- A partition whose step verdicts count: a job is attached and no replay runs (R348). -/
def State.judges (s : State) (p : Nat) : Bool := s.hasJob p && (s.partOf p).state != 6

/-! ## Late detections (R279, R280) -/

/-- A late detection in the token of its step. -/
def Token.markLate (step mask : Nat) (t : Token) : Token :=
  if t.step = step then { t with late := t.late ||| mask, flags := t.flags ||| 1 } else t

/-- A late detection in the newest record of its step. -/
def markRing (step mask : Nat) : List StepRec → List StepRec
  | [] => []
  | r :: rs =>
    if r.step = step && r.status != 3 && !rs.any (fun q => q.step = step && q.status != 3) then
      { r with late := r.late ||| mask, flags := r.flags ||| 1 } :: rs
    else r :: markRing step mask rs

/-- The record of the step is marked: that of the open step, of one whose token is out, or the newest in the ring. -/
def markLate (step mask : Nat) (x : Partition) : Partition :=
  if x.opened && x.step = step then { x with lateRec := x.lateRec ||| mask, flagsRec := x.flagsRec ||| 1 }
  else if x.finalKept.isNone && (x.token.map (·.step)) = some step then { x with token := x.token.map (Token.markLate step mask) }
  else if x.later.any (·.step = step) then { x with later := x.later.map (Token.markLate step mask) }
  else { x with records := markRing step mask x.records }

/-- A late detection at the manager: recorded, marked in the step's record, counted, and the check alert raised. -/
def lateDetection (p step lineage outcome tile delay : Nat) (s : State) : State :=
  let j := s.jobOf p
  let lin := if s.hasJob p && j.shared lineage then 0xFE else lineage
  let s := record 0x1052 (le 8 step ++ le 1 lin ++ le 1 outcome ++ le 2 tile ++ le 4 delay) s
  raiseAlert 0 (countGlobal p 5 1 (modPart p (markLate step (if s.hasJob p then j.mask lineage else if lineage < 32 then 2 ^ lineage else 2 ^ 32 - 1)) s))

/-- RAS ticks from a hub's last contribution for a step to now, saturating. -/
def State.sinceContribution (s : State) (h step : Nat) : Nat :=
  match (s.hubOf h).sentLog.reverse.find? fun x => x.1 = step with
  | some x => min (since s.ras x.2) (2 ^ 32 - 1)
  | none => 2 ^ 32 - 1

/-! ## The repeat queue (R193, R194) -/

/-- Queue order of a reason. -/
def reasonOrder (r : Nat) : Nat := if r = 1 then 2 else if r = 5 then 1 else 0

/-- A draw of a hub's sampling generator. -/
def sampleDraw (h : Nat) (s : State) : State × Dword :=
  let d := lfsrDraw (s.hubOf h).sampleGen
  (modHub h (fun y => { y with sampleGen := d.1 }) s, d.2)

/-- An element chosen by a draw. -/
def drawElement (d : Dword) : Nat × Nat := (d.toNat % 64, d.toNat / 64 % 64)

/-- A site's down-counter is loaded with a draw of the mean in force for its tile. -/
def loadSample (site : Nat) (s : State) : State :=
  let h := s.siteHub site
  let y := s.hubOf h
  let div := if y.collect.raised.contains (s.tileAt site) then y.veNcDiv else y.veSampleDiv
  let r := sampleDraw h s
  modSen site (fun x => { x with sampleCount := sampleInterval r.2 div }) r.1

/-- The raised rate for the rest of the step: the counter is loaded at once (R134, R179). -/
def raiseRate (site : Nat) (s : State) : State :=
  let h := s.siteHub site
  let tile := s.tileAt site
  if tile = 0xFFFF || (s.hubOf h).collect.raised.contains tile then s
  else loadSample site (modHub h (fun y => { y with collect := { y.collect with raised := y.collect.raised ++ [tile] } }) s)

/-- The hub takes repeats of a reason (Table 8.7). -/
def Hub.takes (y : Hub) (reason : Nat) : Bool := if reason = 1 || reason = 5 then bitOf 0 y.veCtrl else bitOf 1 y.veCtrl

/-- The capture of a tile. -/
def Sentinel.captureOf (x : Sentinel) (seq step : Nat) : Option Capture :=
  x.captures.find? fun c => c.desc.seq = seq && c.step = step

/-- A repeat that another of the same tile meets. -/
def RepeatReq.meets (a b : RepeatReq) : Bool :=
  a.site == b.site && a.seq == b.seq && a.step == b.step && a.elems.any fun e => b.elems.contains e

/-- Two requests for the same element merged (R194): the reason of the better order, or of the first; the place of the first arrival (log
entry 144). -/
def mergeReq (old new : RepeatReq) : RepeatReq :=
  let better : Bool := reasonOrder new.reason < reasonOrder old.reason
  { old with reason := if better then new.reason else old.reason
             elems := old.elems ++ new.elems.filter fun e => !old.elems.contains e
             whole := old.whole && new.whole }

/-- VE.COUNT_SKIPPED and its hub counter. -/
def skipRepeat (h : Nat) (s : State) : State :=
  countHub h 26 1 (modHub h (fun y => { y with veSkipped := satAdd (2 ^ 32 - 1) y.veSkipped 1 }) s)

/-- VE.COUNTn and its hub counter. -/
def countOutcome (h outcome : Nat) (s : State) : State :=
  countHub h (16 + outcome) 1 (modHub h (fun y =>
    { y with veCounts := Sparse.upd 0 y.veCounts outcome fun v => satAdd (2 ^ 32 - 1) v 1 }) s)

/-- REPEAT_RESULT (Table 8.12). -/
def repeatPayload (v : VerdictItem) (tile outcome : Nat) (r : RepeatReq) (i j : Nat) (scale stored reference : Int)
    (blocks : Nat) : List Byte :=
  verdictBytes v ++ le 2 tile ++ le 1 outcome ++ le 1 r.reason ++ le 1 i ++ le 1 j ++ leInt 1 scale ++ le 1 0 ++
    leInt 4 stored ++ leInt 4 reference ++ le 8 r.step ++ le 2 blocks ++ le 2 0

/-- The verdict of a request's tile: that of its capture, or the one the hub received with the request. -/
def State.reqVerdict (s : State) (r : RepeatReq) : VerdictItem :=
  match (s.senOf r.site).captureOf r.seq r.step with
  | some c => c.verdict
  | none => r.verdict

/-- Repeats of the same capture that still wait. -/
def Hub.wants (y : Hub) (site seq step : Nat) : Bool :=
  y.repeats.any (fun r => r.site = site && r.seq = seq && r.step = step) ||
    (match y.job with | some j => j.req.site = site && j.req.seq = seq && j.req.step = step | none => false)

/-- A capture is released when no repeat of it waits (R148). -/
def releaseCapture (h site seq step : Nat) (s : State) : State :=
  if (s.hubOf h).wants site seq step then s
  else modSen site (fun x => { x with captures := x.captures.filter fun c => !(c.desc.seq = seq && c.step = step) }) s

/-- A repeat ends as OPERANDS_UNAVAILABLE without having been read. -/
def endUnavailable (h : Nat) (r : RepeatReq) (s : State) : State :=
  let e := r.elems.headD (0, 0)
  let s := recordFrom r.site 0x1040 (repeatPayload (s.reqVerdict r) r.tile 7 r e.1 e.2 0 0 0 0) (countOutcome h 7 s)
  releaseCapture h r.site r.seq r.step s

/-- A repeat that the queue does not keep: skipped, or unavailable (R194). -/
def dropRepeat (h : Nat) (r : RepeatReq) (s : State) : State :=
  if r.reason = 1 || r.reason = 5 then releaseCapture h r.site r.seq r.step (skipRepeat h s) else endUnavailable h r s

/-- The last entry of the lowest order below `order`. -/
def lowestEntry (order : Nat) (q : List RepeatReq) : Option RepeatReq :=
  match (q.filter fun r => reasonOrder r.reason = 2 && order < 2).getLast? with
  | some r => some r
  | none => (q.filter fun r => reasonOrder r.reason = 1 && order < 1).getLast?

/-- The next repeat by order, then arrival. -/
def nextRepeat (q : List RepeatReq) : Option RepeatReq :=
  match q.find? fun r => reasonOrder r.reason = 0 with
  | some r => some r
  | none => match q.find? fun r => reasonOrder r.reason = 1 with
    | some r => some r
    | none => q.head?

/-- The REPEAT message for elements of a request; what the sentinel reads is not part of it. -/
def repeatMsg (r : RepeatReq) (elems : List (Nat × Nat)) : Instr := .repeatRead r.site r.seq r.reason elems [] [] 0

/-- The engine starts its next repeat when none is in progress. -/
def serveRepeat (h : Nat) (s : State) : State :=
  let y := s.hubOf h
  if y.job.isSome then s
  else match nextRepeat y.repeats with
    | none => s
    | some r =>
      send (repeatMsg r r.elems)
        (modHub h (fun y => { y with repeats := y.repeats.erase r, job := some { req := r } }) s)

/-- A repeat is requested of a hub (R194). A captured tile of which none is asked keeps its capture (R148, log entry 123). -/
def requestRepeat (h : Nat) (r : RepeatReq) (s : State) : State :=
  let y := s.hubOf h
  if !y.takes r.reason || r.elems.isEmpty then s
  else if y.repeats.any (·.meets r) then
    modHub h (fun y => { y with repeats := y.repeats.map fun o => if o.meets r then mergeReq o r else o }) s
  else if (match y.job with | some j => j.req.meets r | none => false) then
    let old := match y.job with | some j => j.req.elems | none => []
    let more := r.elems.filter fun e => !old.contains e
    let s := modHub h (fun y => { y with job := y.job.map fun j => { j with req := mergeReq j.req r } }) s
    if more.isEmpty then s else send (repeatMsg r more) s
  else if y.repeats.length < 32 then
    serveRepeat h (modHub h (fun y => { y with repeats := y.repeats ++ [r] }) s)
  else match lowestEntry (reasonOrder r.reason) y.repeats with
    | some o => serveRepeat h (dropRepeat h o (modHub h (fun y => { y with repeats := y.repeats.erase o ++ [r] }) s))
    | none => dropRepeat h r s

end Sys2Proof.Machine
end

