-- ==== Sys2Proof/Machine/Outputs.lean ====
section
/-!
DEFINITION. Output tiles and their repeats (chapters 6 and 8): the checks of a sealed output tile, its verdict items at the
hub, sampling, and the repeat of single elements.
-/
namespace Sys2Proof.Machine

/-! ## OUTPUT_TILE_SEALED (R125 to R148, R212 to R216) -/

/-- The item that a disabled checker sends (R146). -/
def disabledItem (v : VerdictItem) : VerdictItem :=
  { seq := v.seq, verdict := 8, lineage := v.lineage, status := v.status }

/-- Event of a failing verdict (Table 6.6); a sparse count is recorded with its block. -/
def verdictEvent (code : Nat) : Nat :=
  if code = 2 || code = 3 then 0x1020 else if code = 4 then 0x1021 else if code = 5 then 0x1022 else if code = 7 then 0x1012 else 0

/-- Elements whose two copies differ (R213): written value, or fine scale of the group. -/
def copyDiffers (t : TileObs) (rows : List (List ElemObs)) (p : Nat × Nat) : Bool :=
  let o := elemOf rows p.1 p.2
  let g := outGroup t.desc.outAxis p.1 p.2
  o.w != o.w2 || (t.desc.outFormat != 6 && t.scales.getD g 0 != t.scales2.getD g 0)

/-- The redundancy item of a tile in a redundant job (R213, R215, R216). -/
def redundancyOf (t : TileObs) (status : Word) : Option RedundancyItem :=
  if !t.desc.pair then some { seq := t.desc.seq, lineage := t.desc.lineage, kind := 2 }
  else
    let rows := elemRows 64 t.elems
    let bad := tilePairs.filter (copyDiffers t rows)
    match bad with
    | p :: _ => some { seq := t.desc.seq, lineage := t.desc.lineage, kind := 1, count := min 255 bad.length, locI := p.1, locJ := p.2 }
    | [] => if t.status2 != status then some { seq := t.desc.seq, lineage := t.desc.lineage, kind := 3 } else none

/-- A CONVERSION verdict that names an element. -/
def namesElement (v : VerdictItem) : Bool := v.verdict == 4 && v.locJ != 0xFF && !bitOf 4 v.also

/-- The tile is captured (R148): sampled, localised, multi, not checkable, a named conversion, or a copy mismatch. -/
def capturesTile (v : VerdictItem) (sampled : Bool) (r : Option RedundancyItem) : Bool :=
  sampled || v.verdict == 1 || v.verdict == 2 || v.verdict == 3 || namesElement v ||
    (match r with | some i => i.kind == 1 | none => false)

/-- What the capture buffer keeps of a tile. -/
def captureTile (t : TileObs) (v : VerdictItem) (d : DetailItem) (red : Option RedundancyItem) (step : Nat) : Capture :=
  let w := tileView t
  { desc := t.desc, window := windowOf w.a w.b w.groups
    maxA := (List.range w.groups).map fun g => (groupMax w.a g).getD (-128)
    maxB := (List.range w.groups).map fun g => (groupMax w.b g).getD (-128)
    verdict := v, detail := d
    twin := match red with
      | some i => if i.kind = 1 then some (i.locI, i.locJ) else none
      | none => none
    outDescs := t.outDescs, operands := (t.aBlocks ++ t.bBlocks).map (·.desc)
    aCount := t.aBlocks.length, layout := t.layout, step := step }

/-- Counters of an output tile (Tables 18.9, 18.10). -/
def countTile (v : VerdictItem) (x : Sentinel) : Sentinel :=
  let inc (k : Nat) (m : Sparse Nat) : Sparse Nat := Sparse.upd 0 m k fun n => (n + 1) % 2 ^ 32
  let c := inc 5 x.counters
  let c := if verdictFails v.verdict then inc 6 c else c
  let c := if v.verdict = 1 || v.verdict = 8 then inc 7 c else c
  let x := { x with counters := c }
  if bitOf 24 v.status.toNat then selectedEvent 15 1 x else x

/-- Output blocks of the recipe of a run, as the test area holds them (R205, R210). -/
def Sentinel.outBlock (x : Sentinel) (recipe k : Nat) : Block :=
  let r := recipeOf recipe
  { payload := Memory.bytes 0 x.test (4624 * (r.blocksA + r.blocksB + k)) 4608 }

/-- A test tile's verdict, status word and signature return to the hub (R207), with what a replay reports (R203). -/
def reportRun (site : Nat) (t : TileObs) (v : VerdictItem) (s : State) : State :=
  let x := s.senOf site
  match x.run with
  | none => s
  | some (_, recipe, _) =>
    let sig := signatureOf ((List.range (recipeOf recipe).blocksOut).map fun k => (x.outBlock recipe k).payload)
    let rep := match x.product with
      | some p => replayReport t p.locI p.locJ
      | none => {}
    send (.runResult site recipe v.verdict (flag x.runSeals) sig v.status rep) s

/-- OUTPUT_TILE_SEALED: the verdict item, a detail item, the record of a failing check, the redundancy item, the capture
and the sampling choice. The verdict of test content returns with its run (R207); heating content is not checked (R224). -/
def execOutputTileSealed (site : Nat) (t : TileObs) (s : State) : Result :=
  if t.desc.lineage = 0xFF && t.desc.handle = 0xFFFF08 then .next s else
  let x := s.senOf site
  let r := residueVerdictOf t
  let v := if bitOf 1 x.ctrlFront then r.1 else disabledItem r.1
  let d : DetailItem := if v.verdict = 8 then {} else r.2
  let p := s.sitePart site
  let step := (s.partOf p).step
  let s := modSen site (countTile v) s
  let code := verdictEvent v.verdict
  let s := if code = 0 then s
    else
      let payload := mismatchPayload v d (s.slotAt site) (s.tileAt site)
      pushReport site (.event { code := code, source := site, payload := payload }) s
  .next (if t.desc.lineage = 0xFF && testHandle t.desc.handle then reportRun site t v s
    else
      let red := if (s.jobOf p).redundant then redundancyOf t v.status else none
      let sampled := x.sampleCount == 1
      let s := modSen site (fun y => { y with outputs := y.outputs + 1, sampleCount := y.sampleCount - 1 }) s
      let s := if capturesTile v sampled red && x.captures.length < 8 then
          modSen site (fun y => { y with captures := y.captures ++ [captureTile t v d red step] }) s
        else s
      let s := pushVerdict site (if v.verdict = 2 || v.verdict = 3 then 2 else 1) (.residueVerdict site v d) s
      let s := match red with
        | some i => pushVerdict site 1 (.redundancy site i) s
        | none => s
      if sampled then send (.sampleSelect site t.desc.seq) s else s)

/-! ## Sampling (R193) -/

/-- SAMPLE_SELECT: the hub loads the counter again and, while SAMPLE_EN is set, asks a repeat of one element of the tile. -/
def execSampleSelect (site seq : Nat) (s : State) : Result :=
  let s := receive (.sampleSelect site seq) s
  let h := s.siteHub site
  let step := (s.partOf (s.sitePart site)).step
  let r := sampleDraw h (loadSample site s)
  let e := drawElement r.2
  let s := if bitOf 0 (s.hubOf h).veCtrl then countHub h 27 1 r.1 else r.1
  .next (requestRepeat h { site := site, seq := seq, step := step, reason := 1, elems := [e], tile := s.tileAt site } s)

/-! ## Verdict items at the hub (R142, R144, R175, R216) -/

/-- Lanes of a compared sum under merging by f (R131, R144). -/
def mergedLanes (f n : Nat) : List Nat := (List.range f).map fun k => n + 64 / f * k

/-- Set bits of a 64-bit map. -/
def mapBits (m : Nat) : List Nat := (List.range 64).filter fun k => bitOf k m

/-- Rows and columns of a failing product that a repeat covers (R144), and whether it covers every intersection. -/
def repeatElems (v : VerdictItem) (d : DetailItem) : List (Nat × Nat) × Bool :=
  let f := if v.merge % 4 = 1 then 2 else if v.merge % 4 = 2 then 4 else 1
  let rows := bitOf 2 v.merge
  let fr := if rows then f else 1
  let fc := if rows then 1 else f
  if v.verdict = 2 then
    ((mergedLanes fr v.locI).flatMap fun i => (mergedLanes fc v.locJ).map fun j => (i, j), true)
  else
    let is := (mapBits d.deltaOrRows.toNat).flatMap (mergedLanes fr)
    let js := (mapBits d.colsMap.toNat).flatMap (mergedLanes fc)
    let sorted := (List.range 64).flatMap fun i =>
      if is.contains i then ((List.range 64).filter fun j => js.contains j).map fun j => (i, j) else []
    (sorted.take 16, sorted.length ≤ 16)

/-- What a hub counts of a residue verdict item (R126, R135, R274). -/
def collectItem (site tile : Nat) (v : VerdictItem) (c : Collect) : Collect :=
  let st := v.status.toNat
  let nc : Bool := v.verdict == 1 || v.verdict == 8
  let flagged : Bool := bitOf 24 st || bitOf 25 st || bitOf 26 st
  { c with
    items := bump c.items site 1
    notCheckable := c.notCheckable + flag nc
    ncTile := if nc && c.ncTile.isNone then some tile else c.ncTile
    sat := c.sat + flag (bitOf 24 st), under := c.under + flag (bitOf 25 st), invalid := c.invalid + flag (bitOf 26 st)
    dropped := c.dropped + flag (st % 2 ^ 24 != 0)
    flagTile := if flagged && c.flagTile.isNone then some tile else c.flagTile }

/-- RESIDUE_VERDICT at the hub: counted, its lineage failed, its repeat asked (R142, R144, R192, R134). Of a NOT_CHECKABLE tile the element
is drawn before the counter is reloaded (R193; log entry 143). -/
def execResidueVerdict (site : Nat) (item : VerdictItem) (detail : DetailItem) (s : State) : Result :=
  arrive (.residueVerdict site item detail) (fun s =>
    let h := s.siteHub site
    let p := s.sitePart site
    (if !s.judges p then s
    else
      let tile := s.tileAt site
      let step := (s.partOf p).step
      let req : RepeatReq := { site := site, seq := item.seq, step := step, verdict := item, tile := tile }
      let s := modHub h (fun y => { y with collect := collectItem site tile item y.collect }) s
      let s := if item.verdict = 1 || item.verdict = 8 then countHub h 58 1 s else s
      let s := if verdictFails item.verdict then failItem site item.lineage s else noteLineage site item.lineage s
      if item.verdict = 2 || item.verdict = 3 then
        let e := repeatElems item detail
        requestRepeat h { req with reason := item.verdict, elems := e.1, whole := e.2 } s
      else if namesElement item then requestRepeat h { req with reason := 4, elems := [(item.locI, item.locJ)] } s
      else if item.verdict = 1 then
        let r := sampleDraw h s
        raiseRate site (requestRepeat h { req with reason := 5, elems := [drawElement r.2] } r.1)
      else s)) s

/-- PLAUS_VERDICT at the hub: its lineage fails (R175). -/
def execPlausVerdict (site : Nat) (item : PlausItem) (s : State) : Result :=
  arrive (.plausVerdict site item) (fun s =>
    (if s.judges (s.sitePart site) then failItem site item.lineage s else s)) s

/-- Bytes of a redundancy item (Table 8.5). -/
def redundancyBytes (i : RedundancyItem) : List Byte :=
  le 4 i.seq ++ le 1 i.lineage ++ le 1 i.kind ++ le 1 i.count ++ le 1 i.locI ++ le 1 i.locJ ++ List.replicate 7 0

/-- REDUNDANCY at the hub (R216): the lineage fails, the record is written, an item of KIND 1 is repeated. -/
def execRedundancy (site : Nat) (item : RedundancyItem) (s : State) : Result :=
  arrive (.redundancy site item) (fun s =>
    let p := s.sitePart site
    (if !s.judges p then s
    else
      let step := (s.partOf p).step
      let s := recordFrom site 0x1042 (redundancyBytes item ++ le 8 step ++ le 2 (s.tileAt site) ++ le 2 0)
        (failItem site item.lineage s)
      if item.kind = 1 then
        requestRepeat (s.siteHub site) { site := site, seq := item.seq, step := step, reason := 6, elems := [(item.locI, item.locJ)],
                                             tile := s.tileAt site } s
      else s)) s

/-! ## Repeats at the sentinel (R149, R195, R196) -/

/-- Tests of blocks read against their descriptors, in order: those that fail. -/
def badBlocks (xs : List (Block × Desc)) : List (Block × Desc × Nat) :=
  xs.filterMap fun x => if sealTest x.1 x.2 = 0 then none else some (x.1, x.2, sealTest x.1 x.2)

/-- RETENTION_BREACH (Table 6.6). -/
def breachPayload (b : Block) (d : Desc) (seq slot test : Nat) : List Byte :=
  le 3 d.handle ++ le 3 d.index ++ le 1 d.gen ++ le 1 b.tag.gen ++ le 4 seq ++ le 8 slot ++ le 1 test ++
    le 3 b.tag.handle ++ le 3 b.tag.index ++ le 1 0

/-- Output blocks that hold the elements, each once, in the order of the elements. -/
def outBlocks (c : Capture) (elems : List (Nat × Nat)) : List Nat :=
  (elems.map fun e => (outPlace c.layout c.desc e.1 e.2).1).eraseDups

/-- Lane data of one element from the blocks as read: every operand block is judged, and a fault of test 1 or 2 in any of them is a storage
fault (R196; log entry 142). -/
def laneDataOf (c : Capture) (elems : List (Nat × Nat)) (outs operands : List Block) (e : Nat × Nat) : LaneData :=
  let pl := outPlace c.layout c.desc e.1 e.2
  let out := outs.getD ((outBlocks c elems).idxOf pl.1) {}
  let bad := badBlocks (operands.zip c.operands)
  let st := storedElem c.desc.outFormat pl out
  let as := operands.take c.aCount
  let bs := operands.drop c.aCount
  { locI := e.1, locJ := e.2, a := laneGroups as e.1, b := laneGroups bs e.2
    rawA := as.map (laneBytesOf · e.1), rawB := bs.map (laneBytesOf · e.2)
    stored := st.1, storedE := st.2, outTest := sealTest out (c.outDescs.getD pl.1 {})
    operandsOk := !bad.any fun x => 3 ≤ x.2.2, storageFault := bad.any fun x => x.2.2 < 3
    blocksRead := if elems.head? = some e then (outBlocks c elems).length + operands.length else 0 }

/-- The capture that a repeat reads: of the tile with the repeat's sequence number in its step, as numbers start again in each step (R123). -/
def State.captureFor (s : State) (site seq : Nat) : Option Capture :=
  (s.senOf site).captures.find? fun c => c.desc.seq = seq && (match (s.hubOf (s.siteHub site)).job with
    | some j => j.req.site != site || j.req.seq != seq || c.step = j.req.step
    | none => true)

/-- REPEAT at the sentinel (R195): one header, then lane data of each element; an operand block that changed too early is a breach
charged to the program where its read began in time (R149), which the first `early` blocks' did; without a capture the operands are
unavailable (R148). -/
def execRepeatRead (site seq reason : Nat) (elems : List (Nat × Nat)) (outs operands : List Block) (early : Nat) (s : State) : Result :=
  let s := respond site 1 0xA [] (receive (.repeatRead site seq reason elems [] [] 0) s)
  .next (match s.captureFor site seq with
    | none => sendAll (.repeatHeader site { reason := reason } ::
        elems.map fun e => .laneData site { locI := e.1, locJ := e.2, operandsOk := false }) s
    | some c =>
      let bad := (s.senOf site).wordBad
      let operands := (operands.zip c.operands).map fun x => dumpRead bad x.1 x.2
      let outs := (outs.zip (outBlocks c elems)).map fun x => dumpRead bad x.1 (c.outDescs.getD x.2 {})
      let s := modSen site (fun x => { x with wordBad := x.wordBad.filter fun w => w.1 != 2 }) s
      let hdr : RepeatHeader := { desc := c.desc, window := c.window, step := c.step, maxA := c.maxA, maxB := c.maxB, reason := reason,
                                  locI := (elems.headD (0, 0)).1, locJ := (elems.headD (0, 0)).2 }
      let s := each ((badBlocks ((operands.zip c.operands).take early)).filter fun x => 3 ≤ x.2.2) (fun x s =>
          senEvent site 0x1025 (breachPayload x.1 x.2.1 seq (s.slotAt site) x.2.2) s) s
      sendAll (.repeatHeader site hdr :: elems.map fun e => .laneData site (laneDataOf c elems outs operands e)) s)

/-! ## Repeats at the engine (R191, R198 to R201) -/

/-- REPEAT_HEADER at the engine. -/
def execRepeatHeader (site : Nat) (hdr : RepeatHeader) (s : State) : Result :=
  arrive (.repeatHeader site hdr) (fun s =>
    (modHub (s.siteHub site) (fun y => { y with job := y.job.map fun j =>
    if j.req.site = site then { j with header := some hdr } else j }) s)) s

/-- The step key that the hub holds for a step (R191): the open step's and the one before. -/
def Collect.stepKeyOf (c : Collect) (step : Nat) : Option Dword :=
  if c.step = step then some c.skCur else if c.stepPrev = step then some c.skPrev else none

/-- A replay record enters the replay area; the oldest of nine leaves it NOT_REPLAYED (R201). The replay of a site that is not
in service runs at once (R203). -/
def putReplay (h : Nat) (r : ReplayRec) (s : State) : State :=
  let q := (s.hubOf h).replays ++ [r]
  let s := modHub h (fun y => { y with replays := ringLast 8 q }) s
  let s := match q with
    | o :: _ => if 8 < q.length then replayResult o 4 s else s
    | [] => s
  if s.tileAt r.site = 0xFFFF then joinPass h [] s else s

/-- Kinds of Table 10.2 that an outcome charges (Table 8.2). -/
def outcomeKinds (o : Nat) : List Nat :=
  match o with
  | 1 | 2 | 5 => [1]
  | 3 => [2]
  | 4 => [3]
  | 6 => [1, 3]
  | 9 => [4]
  | _ => []

/-- The lineage's fate after an outcome (R200, R279): in time for the contribution, or late. -/
def outcomeLineage (h o : Nat) (r : RepeatReq) (v : VerdictItem) (s : State) : State :=
  let p := s.sitePart r.site
  let c := (s.hubOf h).collect
  if !(o = 1 || o = 3 || o = 5 || o = 6) then s
  else if s.judges p && c.step = r.step && !c.sent then failItem r.site v.lineage s
  else if o = 3 || verdictFails v.verdict || r.reason = 6 || !s.defined p || (s.partOf p).state = 6 then s
  else lateDetection p r.step v.lineage o r.tile (s.sinceContribution h r.step) s

/-- One element classified (R191, R198), with the TK and SK that the hub keeps. -/
def classifyLane (s : State) (h : Nat) (j : RepeatJob) (l : LaneData) : Nat × Int :=
  let hdr := j.header.getD {}
  let v := s.reqVerdict j.req
  match (s.hubOf h).collect.stepKeyOf j.req.step with
  | some sk =>
    classify hdr l v.verdict j.req.reason (elementRandom (Sparse.get 0 (s.hubOf h).tks j.req.tile) sk j.req.seq l.locI l.locJ)
  | none => if hdr.desc.round = 1 then (7, 0) else classify hdr l v.verdict j.req.reason 0

/-- (i, j) order of elements. -/
def elemBefore (a b : LaneData) : Bool := 64 * a.locI + a.locJ < 64 * b.locI + b.locJ

/-- Lane data in (i, j) order. -/
def insertLane (x : LaneData) : List LaneData → List LaneData
  | [] => [x]
  | y :: ys => if elemBefore x y then x :: y :: ys else y :: insertLane x ys

/-- A repeat concludes: counted, recorded unless MATCH, charged to its site, replayed where Table 8.2 says so with the first element
that gave COMPUTE or else the lowest (R201); its capture is released, the next repeat starts, and a deep screen that waited for
it (R219). -/
def concludeRepeat (h : Nat) (j : RepeatJob) (s : State) : State :=
  let r := j.req
  let v := s.reqVerdict r
  let done := (j.lanes.foldr insertLane []).map fun l => (l, classifyLane s h j l)
  let o := repeatOutcome r.reason (done.map (·.2.1)) r.whole
  let d := ((done.find? fun d => d.2.1 = o).orElse fun _ => done.head?).getD ({}, 0, 0)
  let tk := Sparse.get 0 (s.hubOf h).tks r.tile
  let sk := ((s.hubOf h).collect.stepKeyOf r.step).getD 0
  let s := countOutcome h o s
  let s := if o = 0 then s
    else recordFrom r.site 0x1040 (repeatPayload v r.tile o r d.1.locI d.1.locJ d.1.storedE d.1.stored d.2.2 j.blocks) s
  let s := outcomeLineage h o r v s
  let s := each (outcomeKinds o) (fun k s => charge r.site k 0 false s) s
  let s := if o = 1 || o = 2 || o = 4 || o = 5 || o = 6 || o = 9 then
      putReplay h { site := r.site, header := j.header.getD {}, lane := d.1, outcome := o, step := r.step, tk := tk, sk := sk } s
    else s
  let s := serveRepeat h (releaseCapture h r.site r.seq r.step (modHub h (fun y => { y with job := none }) s))
  startDeep r.site s

/-- LANE_DATA at the engine: the repeat concludes with its last element. -/
def execLaneData (site : Nat) (data : LaneData) (s : State) : Result :=
  arrive (.laneData site data) (fun s =>
    let h := s.siteHub site
    (match (s.hubOf h).job with
    | none => s
    | some j =>
      if j.req.site != site || !j.req.elems.contains (data.locI, data.locJ) ||
          j.lanes.any (fun l => l.locI = data.locI && l.locJ = data.locJ) then s
      else
        let j := { j with lanes := j.lanes ++ [data], blocks := j.blocks + data.blocksRead }
        if j.lanes.length < j.req.elems.length then modHub h (fun y => { y with job := some j }) s
        else concludeRepeat h j s)) s

end Sys2Proof.Machine
end

