-- ==== Sys2Proof/Machine/Plaus.lean ====
section
/-!
DEFINITION. Element programs and the loss sentinel (chapter 7): streams at the gate, summaries at the hub's sequencer, the
switch of a plausibility set, loss reports.
-/
namespace Sys2Proof.Machine

/-! ## The gate (R155 to R169, R175, R176) -/

/-- A stream's program starts at its first beat (R155, R174). -/
def startStream (x : Sentinel) (b : Beat) : Option Stream :=
  if b.fmt = 7 || b.operator % 4096 = 0 then none
  else (programFor x.progActive (b.operator % 4096)).map fun e =>
    { number := e.1, entry := e.2, operator := b.operator % 4096, lineage := b.lineage, seq := b.streamSeq, handle := b.handle }

/-- A beat at a sentinel: the program that the stream has kept since its first beat goes on while PLAUS_EN is set (R174, R182); a
stream whose first beat finds no program, or the gate off, is unchecked to its end (log entry 119). -/
def Sentinel.takeBeat (x : Sentinel) (b : Beat) : Sentinel :=
  let on := bitOf 2 x.ctrlFront
  match x.stream with
  | some st => if on then { x with stream := some (streamBeat st (b.lanes.map (·.toNat))) } else x
  | none =>
    match if on && !x.streamFree then startStream x b else none with
    | some st => { x with stream := some (streamBeat st (b.lanes.map (·.toNat))) }
    | none => { x with streamFree := true }

/-- VECTOR_BEAT (R157). -/
def execVectorBeat (site : Nat) (b : Beat) (s : State) : Result := .next (modSen site (·.takeBeat b) s)

/-- The verdict item of a flagged FAIL stream, at most one per lineage and step, with its record (R175, R176). -/
def plausFail (site : Nat) (m : Summary) (s : State) : State :=
  let x := s.senOf site
  if x.plausSent.contains m.lineage then s
  else
    let item : PlausItem := { streamSeq := m.streamSeq, program := m.program, lineage := m.lineage, operator := m.operator
                              flagCount := m.flagCount, segFlags := m.segFlags, status := flag m.partialCut }
    let payload := plausItemBytes item ++ le 8 (s.partOf (s.sitePart site)).step ++ le 2 (s.tileAt site) ++ le 2 0
    let s := modSen site (fun y => { y with plausSent := y.plausSent ++ [m.lineage] }) s
    pushReport site (.event { code := 0x1033, source := site, payload := payload })
      (pushVerdict site 1 (.plausVerdict site item) s)

/-- A stream ends, or is cut by a fence: its verdict item, then its summary as SEND says; with PLAUS_EN 0 neither, and it is not
counted (R182). -/
def endStream (site : Nat) (cut : Bool) (s : State) : State :=
  let x := s.senOf site
  let s := modSen site (fun y => { y with stream := none, streamFree := false }) s
  match if bitOf 2 x.ctrlFront then x.stream else none with
  | none => s
  | some st =>
    let pr := programOf st.entry
    let m := streamSummary (streamClose st) cut
    let flagged : Bool := m.flagCount != 0 || m.segFlags != 0
    let s := countSen site 10 1 s
    let s := if flagged && pr.failBit then plausFail site m s else s
    if pr.send = 0 || (pr.send = 1 && flagged) then pushReport site (.summary site m) s else s

/-- STREAM_END (R167). -/
def execStreamEnd (site : Nat) (s : State) : Result := .next (endStream site false s)

/-! ## The sequencer (R178 to R181) -/

/-- A Watch request for a site, once per step (R179, R54). -/
def watchRequest (site : Nat) (s : State) : State :=
  let h := s.siteHub site
  if (s.hubOf h).collect.watchSeen.contains site then s
  else charge site 8 0 false (modHub h (fun y => { y with collect := { y.collect with
    watchSeen := y.collect.watchSeen ++ [site] } }) s)

/-- What an action does (Table 7.11). -/
def ruleEffect (site action rule : Nat) (m : Summary) (entry : List Byte) (s : State) : State :=
  let payload := summaryBytes m ++ le 1 rule ++ le 1 action ++ le 2 0 ++ le 8 (s.partOf (s.sitePart site)).step ++
    le 4 (programOf entry).version
  match action with
  | 0 => s
  | 1 => recordFrom site 0x1030 payload s
  | 2 => watchRequest site (noteReason site 0 (recordFrom site 0x1031 payload s))
  | _ => raiseRate site (watchRequest site (noteReason site 0 (recordFrom site 0x1032 payload s)))

/-- A summary at the rule sequencer (R178): the strongest action of the rules of its sector's table that match (R182). -/
def takeSummary (site : Nat) (sum : Summary) (s : State) : State :=
  let h := s.siteHub site
  let set := (s.hubOf (sectorOf site)).set
  let s := countHub h 36 1 s
  match ruleAction set sum with
  | none => countHub h 37 1 s
  | some (a, n) => ruleEffect site a n sum ((setPrograms set).getD sum.program []) (countHub h (32 + a) 1 s)

/-- SUMMARY at the hub (R178); it waits for a sequencer that is retained (R376). -/
def execSummary (site : Nat) (sum : Summary) (s : State) : Result :=
  arrive (.summary site sum) (fun s =>
    let h := s.siteHub site
    (if 2 ≤ (s.hubOf h).sequencer then waitUnit h 1 (.summary site sum) s else takeSummary site sum s)) s

/-! ## Loading a set (R172, R173) -/

/-- First 8 bytes of SHA-256 over a set. -/
def setDigest (set : List Byte) : List Byte := (sha256 set).take 8

/-- A hub and the sentinels it serves make a partition's pending set active. -/
def switchHub (p h : Nat) (s : State) : State :=
  let s := each (s.setSectors p h) (fun z s => modHub z (fun y => { y with set := y.setPending, setPending := [] }) s) s
  each (s.setSites p h) (fun x s => modSen x (fun y => { y with progActive := y.progPending }) s) s

/-- The manager sends a set to the hubs of a partition as a pending set; each confirms (R172, steps 2 and 3). -/
def startLoad (p : Nat) (l : PlausLoad) (s : State) : State :=
  let hubs := s.partHubs p
  let s := modPart p (fun x => { x with load := some { l with waiting := hubs } }) s
  sendAll (hubs.map fun h => .plausibilitySetConfirmed h p) (each (s.partSectors p) (fun z s => modHub z (fun y => { y with setPending := l.set }) s) s)

/-- The load of a partition has taken effect: recorded, and its command answered; one that waited for the default set follows. -/
def finishLoad (p : Nat) (s : State) : State :=
  match (s.partOf p).load with
  | none => s
  | some l =>
    let step := (s.partOf p).step
    let s := record 0x0030 (le 1 p ++ le 3 0 ++ le 8 step ++ setDigest l.set) (modPart p (fun x => { x with load := none }) s)
    let s := if l.seq = 0 then s else complete l.seq 0 (le 8 step ++ setDigest l.set) s
    match l.after with
    | some a => startLoad p { set := a.1, seq := a.2 } s
    | none => s

/-- Every hub of the partition switches at once. -/
def switchNow (p : Nat) (s : State) : State := finishLoad p (each (s.partHubs p) (switchHub p) s)

/-- The default set goes to the hubs of a partition by the sequence of R172, before JOB_ATTACH completes with `seq` and `response` and
the first step opens (R173, R504; log entry 43). -/
def loadDefault (p seq : Nat) (response : List Byte) (s : State) : State :=
  let s := modPart p (fun x => { x with starting := some (seq, response) }) s
  if (s.partHubs p).isEmpty then openStep p false s
  else startLoad p { set := s.image.plausDefault, after := (s.partOf p).load.map fun l => (l.set, l.seq) } s

/-- A partition whose JOB_ATTACH waits for the default set. -/
def State.starts (s : State) (p : Nat) : Bool := (s.partOf p).starting.isSome && (s.partOf p).state == 2

/-- The default set was not confirmed in time: JOB_ATTACH ends TIMEOUT and the job detaches. -/
def failAttach (p : Nat) (s : State) : State :=
  match (s.partOf p).starting with
  | some a => detachJob p (complete a.1 6 [] (modPart p (fun x => { x with starting := none }) s))
  | none => s

/-- PLAUSIBILITY_SET_CONFIRMED: the hub has written its sentinels' pending stores; when every hub has, the switch is
marked, or made at once without a job or in FENCED and DOWN. -/
def execPlausibilitySetConfirmed (hub partition : Nat) (s : State) : Result :=
  let s := receive (.plausibilitySetConfirmed hub partition) s
  .next (match (s.partOf partition).load with
    | none => s
    | some l =>
      if !l.waiting.contains hub then s
      else
        let s := each (s.setSites partition hub)
          (fun x s => modSen x (fun y => { y with progPending := l.set.take 3584 }) s) s
        let left := l.waiting.filter (· != hub)
        let s := modPart partition (fun x => { x with load := some { l with waiting := left } }) s
        let st := (s.partOf partition).state
        if !left.isEmpty then s
        else if s.starts partition then openStep partition false (switchNow partition s)
        else if !s.hasJob partition || st = 4 || st = 7 then switchNow partition s
        else modPart partition (fun x => { x with setSwitch := true }) s)

/-- PLAUSIBILITY_LOAD_TIMEOUT: not confirmed within 1 s, the pending sets are discarded and the command ends TIMEOUT. -/
def execPlausibilityLoadTimeout (partition : Nat) (s : State) : Result :=
  .next (match (s.partOf partition).load with
    | none => s
    | some l =>
      if l.waiting.isEmpty then s
      else
        let s := discardLoad partition 6 s
        if s.starts partition then failAttach partition s else s)

/-! ## The control core port (R527) -/

/-- A message to the control core. -/
def coreSend (type tag : Nat) (payload : List Byte) (s : State) : State :=
  setCoreTx (s.coreTx ++ [{ type := type, tag := tag, payload := payload }]) s

/-- A message of unknown type or wrong length: discarded, counted, answered with CORE_NAK. -/
def coreNak (type tag : Nat) (s : State) : State := coreSend 0x1F tag (le 1 type ++ le 3 0) (setCoreNaks (s.coreNaks + 1) s)

/-- UNKNOWN_CORE_MESSAGE. -/
def execUnknownCoreMessage (type tag : Nat) (s : State) : Result := .next (coreNak type tag s)

/-! ## The loss sentinel (R183 to R187) -/

/-- Binary64 values in rising order. -/
def insertF64 (x : Nat) : List Nat → List Nat
  | [] => [x]
  | y :: ys => if f64.le x y then x :: y :: ys else y :: insertF64 x ys

def sortF64 (xs : List Nat) : List Nat := xs.foldr insertF64 []

/-- Median of binary64 values: the mean of the two middle values for an even count. -/
def medianF64 (xs : List Nat) : Nat :=
  let ys := sortF64 xs
  let n := ys.length
  if n % 2 = 1 then ys.getD (n / 2) 0
  else f64.mul (f64.add (ys.getD (n / 2 - 1) 0) (ys.getD (n / 2) 0)) 0x3FE0000000000000

/-- Median and scale of a window of binary32 losses (R184). -/
def lossScale (pol : Policy) (window : List Nat) : Nat × Nat :=
  let xs := window.map widen
  let med := medianF64 xs
  let mad := medianF64 (xs.map fun x => f64.abs (f64.sub x med))
  let scale := f64.fmax (f64.fmax (f64.mul 0x3FF7B8BAC710CB29 mad) (f64.mul (widen pol.lossRelFloor) (f64.abs med))) (widen pol.lossAbsFloor)
  (med, scale)

/-- z of a loss. -/
def lossZ (pol : Policy) (window : List Nat) (loss : Nat) : Nat :=
  let ms := lossScale pol window
  f64.div (f64.sub (widen loss) ms.1) ms.2

/-- The report is a spike. -/
def isSpike (pol : Policy) (window : List Nat) (loss : Nat) : Bool :=
  !f32.finite loss || (pol.lossWarmup ≤ window.length && f64.lt (widen pol.lossZ) (f64.abs (lossZ pol window loss)))

/-- Reason bits of a site and the step of its latest reason, in the steps that count; of the health state, the step itself. -/
def reasonsOf (s : State) (p step site : Nat) : Nat × Nat :=
  let x := s.partOf p
  let rs := x.loss.reasons.filter fun r => r.1 == site && r.2.1 ≤ step && step ≤ r.2.1 + s.image.policy.lossLookback &&
    (r.2.2 != 2 || r.2.1 == step)
  (rs.foldl (fun b r => b ||| 2 ^ r.2.2) 0, rs.foldl (fun b r => max b r.2.1) 0)

/-- Suspects in the order of R186: (site, bits, step). -/
def suspectBefore (a b : Nat × Nat × Nat) : Bool := b.2.2 < a.2.2 || (a.2.2 == b.2.2 && a.1 < b.1)

def insertSuspect (x : Nat × Nat × Nat) : List (Nat × Nat × Nat) → List (Nat × Nat × Nat)
  | [] => [x]
  | y :: ys => if suspectBefore x y then x :: y :: ys else y :: insertSuspect x ys

/-- The suspects of a spike at a step. -/
def suspectsOf (s : State) (p step : Nat) : List (Nat × Nat × Nat) :=
  (((s.partAllSites p).map fun x => (x, reasonsOf s p step x)).filter fun x => x.2.1 != 0).foldr insertSuspect []

/-- A screen of a site is requested, by UNIT_SCREEN (0) or the loss sentinel (1): once, and merged with one in progress (R54, R187,
Table 9.6). -/
def requestScreen (site source : Nat) (s : State) : State :=
  if (s.screenReqs.any fun x => x.1 = site) || (Sparse.get none s.screens site).isSome then s
  else setScreenReqs (s.screenReqs ++ [(site, source)]) s

/-- LOSS_SPIKE: the suspects named, and screens requested of those in WATCH or SUSPECT. -/
def spike (p step loss : Nat) (window : List Nat) (s : State) : State :=
  let ms := lossScale s.image.policy window
  let empty := window.isEmpty
  let f (k v : Nat) : Nat := if empty then (Config.lossFree (s.free + k)).toNat else narrow v
  let all := suspectsOf s p step
  let named := all.take 16
  let entries := named.flatMap fun x => le 2 x.1 ++ le 1 x.2.1 ++ le 1 (min 255 (step - x.2.2))
  let payload := le 8 step ++ le 4 loss ++ le 4 (f 0 ms.1) ++ le 4 (f 1 ms.2) ++ le 4 (f 2 (lossZ s.image.policy window loss)) ++
    le 1 p ++ le 1 (min 255 all.length) ++ le 2 0 ++ padTo 64 entries
  let s := record 0x1038 payload (if empty then setFree (s.free + 3) s else s)
  each ((named.map (·.1)).filter fun x => (s.siteRec x).suspected) (fun x s => requestScreen x 1 s) s

/-- LOSS_SHIFT after the last of LOSS_SHIFT_RUN finite spikes (R185). -/
def lossShift (p step : Nat) (s : State) : State :=
  let x := (s.partOf p).loss
  if x.spikes.length < s.image.policy.lossShiftRun then s
  else
    let w := ringLast s.image.policy.lossWindow x.spikes
    let med (l : List Nat) : Nat := narrow (lossScale s.image.policy l).1
    record 0x1039 (le 8 step ++ le 4 (med x.losses) ++ le 4 (med w) ++ le 1 p ++ le 3 0)
      (modPart p (fun y => { y with loss := { y.loss with losses := w, spikes := [] } }) s)

/-- An accepted report: a spike, or a loss that enters the window. -/
def takeLoss (p step loss : Nat) (s : State) : State :=
  let pol := s.image.policy
  let x := (s.partOf p).loss
  let s := modPart p (fun y => { y with loss := { y.loss with lastStep := some step } }) s
  if isSpike pol x.losses loss then
    let s := modPart p (fun y => { y with loss := { y.loss with
      spikes := if f32.finite loss then y.loss.spikes ++ [loss] else [] } }) s
    lossShift p step (spike p step loss x.losses s)
  else
    modPart p (fun y => { y with loss := { y.loss with
      losses := ringLast pol.lossWindow (y.loss.losses ++ [loss]), spikes := [] } }) s

/-- REASON of a rejection (R183), 0 accepted. -/
def lossReason (s : State) (step p : Nat) : Nat :=
  if 16 ≤ p then 3
  else if !s.hasJob p then 1
  else match (s.partOf p).loss.lastStep with
    | some l => if step ≤ l then 2 else 0
    | none => 0

/-- LOSS_REPORT (R183, R527). -/
def execLossReport (step : Nat) (loss : Word) (partition length tag : Nat) (s : State) : Result :=
  .next (if length != 4 then coreNak 1 tag s
    else
      let r := lossReason s step partition
      let s := coreSend 2 tag (le 1 r ++ le 3 0) s
      if r = 0 then takeLoss partition step loss.toNat s
      else
        let s := setLossRejected (s.lossRejected + 1) s
        record 0x103A (le 8 step ++ le 1 partition ++ le 1 r ++ le 2 0) s)

end Sys2Proof.Machine
end

