-- ==== Sys2Proof/Machine/Containment.lean ====
section
/-!
DEFINITION. Poison, fences, context teardown and resets (chapters 13 and 14): memory error reports, alarm levels, the fence
of a partition, tile and partition resets, and what follows a reset (hang recovery's replays, R346 to R349).
-/
namespace Sys2Proof.Machine

/-! ## Memory errors (R306 to R308, R318) -/

/-- A memory error report (Table 13.1). -/
def memReportBytes (r : MemReport) : List Byte :=
  le 2 r.source ++ le 1 r.kind ++ le 1 r.symbols ++ le 6 r.address ++ le 1 r.partition ++ le 1 (r.context % 4) ++
    le 3 r.handle ++ le 3 r.blockIndex ++ le 2 0

/-- A tier-2 read of the partition met an uncorrectable word: the tier-2 copies that are being read for a fill are unavailable (R302). -/
def spoilFills (x : Partition) : Partition :=
  { x with swaps := x.swaps.map fun w => if w.filling && w.resSource = 2 then { w with spoilt := true } else w }

/-- The hub to which the entry point of a report is bound (R104, R306). -/
def State.reportHub (s : State) (r : MemReport) : Nat := s.pointHub { kind := r.source / 2 ^ 14 - 1, port := r.source % 64 }

/-- MEMORY_ERROR (R306 to R308), at the hub to which the reporting point is bound: a corrected codeword is counted, and recorded once in the hour in which the count passes
MEM_CE_LIMIT; an uncorrectable one is recorded, alerted and due for soft repair. -/
def execMemoryError (hub : Nat) (report : MemReport) (s : State) : Result :=
  arrive (.memoryError hub report) (fun s =>
    (if hub != s.reportHub report then s
    else if report.symbols = 0xFF then
      let s := if report.kind = 0 && report.source / 2 ^ 14 = 2 then modPart report.partition spoilFills s else s
      logMemRepair report.source report.address (raiseAlert 1 (hubEvent hub 0x4001 (memReportBytes report) s))
    else
      let s := modHub hub (fun y => { y with ceCount := bump y.ceCount report.source 1 }) s
      let y := s.hubOf hub
      let n := Sparse.get 0 y.ceCount report.source
      if s.image.policy.memCeLimit < n && !y.ceSeen.contains report.source then
        hubEvent hub 0x4002 (le 2 report.source ++ le 2 0 ++ le 4 (min n (2 ^ 32 - 1)))
          (modHub hub (fun y => { y with ceSeen := y.ceSeen ++ [report.source] }) s)
      else s)) s

/-- MEM_CE_HOUR: every count of corrected codewords clears (R307). -/
def execMemCeHour (s : State) : Result :=
  .next (setHub (Sparse.mapAll {} s.hub fun _ y => { y with ceCount := [], ceSeen := [] }) s)

/-- MEMORY_COMPLETION (R318): one with an old CTX_GEN is discarded at the point where it arrives, and counted there. -/
def execMemoryCompletion (hub point partition context gen : Nat) (s : State) : Result :=
  .next (if Sparse.get 0 (s.partOf partition).gens context = gen then s
    else countHub hub 60 1 (modHub hub (fun y => { y with
      stale := bump y.stale (4 * partition + context) 1, stalePoint := bump y.stalePoint point 1 }) s))

/-- STALE_COMPLETION_SECOND: one record for each context with discards in the second. -/
def execStaleCompletionSecond (hub : Nat) (s : State) : Result :=
  let xs := (s.hubOf hub).stale
  .next (each xs (fun x s => hubEvent hub 0x4007 (le 1 (x.1 / 4) ++ le 1 (x.1 % 4) ++ le 2 0 ++ le 4 (min x.2 (2 ^ 32 - 1))) s)
    (modHub hub (fun y => { y with stale := [] }) s))

/-! ## Alarms (R40, R42, R312, R313, R328, R367) -/

/-- Poison consumed at a site (R312, R313, R321): its partition is fenced and reset and its job ends; in DOWN it is only
recorded, in REPLAYING only counted (R348). -/
def poisonAlarm (site : Nat) (s : State) : State :=
  let p := s.sitePart site
  let x := s.partOf p
  let detail := padTo 16 (Sparse.get (0, []) (s.senOf site).evDelivered 0).2
  if !s.defined p then s
  else if x.state = 6 then modPart p (fun x => { x with hang := x.hang.map fun h => { h with poison := h.poison + 1 } }) s
  else
    let s := modPart p (fun x => { x with poison := match x.poison with
      | some (d, y, n, st) => some (d, y, satAdd 255 n 1, st)
      | none => some (detail, site, 0, x.step) }) s
    if x.state = 7 then recordPoison p s else startFence p 2 [] (some 2) s

/-- THROTTLE_LATE at the manager (R367): recorded; the partition is fenced and reset and keeps its job. -/
def lateAlarm (site : Nat) (s : State) : State :=
  let l := (s.senOf site).late
  let s := recordFrom site 0x6006 (le 2 site ++ le 2 0 ++ le 8 l.1 ++ le 8 l.2) s
  let p := s.sitePart site
  if s.defined p && (s.partOf p).state != 7 then startFence p 6 [] (some 6) s else s

/-- A BLOCKED_Qn level at the hub (R328): its segment of the wait-for graph, forwarded to the manager. -/
def edgeAlarm (site queue : Nat) (raised : Bool) (edge : Edge) (s : State) : State :=
  let h := s.siteHub site
  if raised then
    let t := s.hubRas h
    send (.edgeChange h true edge) (modHub h (fun y => { y with edges := y.edges ++ [(site, edge, t)] }) s)
  else
    let gone := (s.hubOf h).edges.filter fun e => e.1 == site && e.2.1.queue == queue
    sendAll (gone.map fun e => .edgeChange h false e.2.1)
      (modHub h (fun y => { y with edges := y.edges.filter fun e => !(e.1 == site && e.2.1.queue == queue) }) s)

/-- What a sentinel's level does when it changes. -/
def sentinelAlarm (site code : Nat) (raised : Bool) (edge : Edge) (s : State) : State :=
  if 16 ≤ code && code < 24 then edgeAlarm site (code - 16) raised edge s
  else if !raised then s
  else if code = 0 then poisonAlarm site s
  else if code = 1 then chargeLoss site s
  else if code = 2 then lateAlarm site s
  else s

/-- EDGE_CHANGE at the manager (R328): its merged graph. -/
def execEdgeChange (hub : Nat) (raised : Bool) (edge : Edge) (s : State) : Result :=
  arrive (.edgeChange hub raised edge) (fun s =>
    let t := match (s.hubOf hub).edges.find? fun e => e.2.1 = edge with
      | some e => e.2.2
      | none => s.ras
    (if raised then setGraph ((s.graph.filter fun e => e.1 != edge) ++ [(edge, t)]) s
    else (setGraph (s.graph.filter fun e => e.1 != edge) s))) s

/-! ## The fence at hubs and sentinels (R337 to R339, R343) -/

/-- A fence reaches a sentinel: engines stop, a stream is cut, SHADOW shows FENCED. -/
def fenceSite (site : Nat) (s : State) : State :=
  let s := endStream site true s
  let s := modSen site (fun x => { x with
    fenced := true
    shadow := (List.range 8).foldl (fun m n => Sparse.upd {} m n fun e =>
      { e with state := if bitOf 2 e.state then e.state else e.state + 4 }) x.shadow }) s
  fenceIdle site s

/-- FENCE (R337): a hub passes it to the sentinels of the partition that it serves; a sentinel carries it out. -/
def execFence (unit partition cause : Nat) (s : State) : Result :=
  arrive (.fence unit partition cause) (fun s =>
    (if unit < 0x4000 then (if (s.senOf unit).silent then s else fenceSite unit s)
    else sendAll (((s.actionSites partition).filter fun x => s.siteHub x = unit - 0x4000).map fun x => .fence x partition cause) s)) s

/-- FENCE_DONE (R339). -/
def execFenceDone (site : Nat) (s : State) : Result :=
  arrive (.fenceDone site) (fun s =>
    let p := s.sitePart site
    (match (s.partOf p).fence with
    | none => s
    | some f =>
      if f.commitWait || !f.waiting.contains site then s
      else checkFence p (modPart p (fun x => { x with fence := some { f with waiting := f.waiting.filter (· != site) } }) s))) s

/-- FENCE_DEADLINE (R339): 50 us after the fence began, a site has not returned fence done: the fence has failed. -/
def execFenceDeadline (partition : Nat) (s : State) : Result :=
  .next (match (s.partOf partition).fence with
    | none => s
    | some f => if f.commitWait || f.waiting.isEmpty then s else failFence partition 1 f.waiting s)

/-- COMMIT_WAIT_EXPIRY (R340): the fence proceeds and cuts the commit; the recovery that follows detaches the job. -/
def execCommitWaitExpiry (partition : Nat) (s : State) : Result :=
  let x := s.partOf partition
  .next (match x.fence with
    | none => s
    | some f =>
      if !f.commitWait then s
      else
        let step := (x.token.map (·.step)).getD x.step
        let s := record 0x5008 (le 1 partition ++ le 3 0 ++ le 8 step ++ le 4 (s.ticksSince f.waitBegan)) s
        issueFence partition (abortSteps partition false
          (modPart partition (fun x => { x with killed := true, committing := false, committed := true }) s)))

/-- FLIT_INTO_FENCED_PARTITION (R343): the router sinks and counts the flit, and answers one that expects a completion. -/
def execFlitIntoFencedPartition (site : Nat) (expects : Bool) (s : State) : Result :=
  let st := (s.partOf (s.sitePart site)).state
  .next (if st = 3 || st = 4 || st = 5 || st = 7 then
      countHub (s.siteHub site) 61 1 (modSen site (fun x => { x with sunk := x.sunk + 1, errored := x.errored + flag expects }) s)
    else s)

/-- TEARDOWN_WRITES_DRAINED (R316). -/
def execTeardownWritesDrained (partition context reads writes : Nat) (s : State) : Result :=
  .next (endTeardown partition context reads writes false s)

/-- TEARDOWN_WRITE_TIMEOUT (R317): a write is abandoned, its block's address marked uncorrectable, and the context is DIRTY. -/
def execTeardownWriteTimeout (partition context reads writes : Nat) (s : State) : Result :=
  .next (if bitOf context (s.partOf partition).tearing then
      endTeardown partition context reads writes true (modPart partition (fun x => { x with abandoned := x.abandoned + 1 }) s)
    else s)

/-! ## Hang recovery's replays (R347 to R349) -/

/-- HANG_RESOLVED (Table 14.15). -/
def hangResolved (p outcome resumed : Nat) (h : Hang) (s : State) : State :=
  record 0x5007 (le 1 p ++ le 1 h.refused ++ le 1 resumed ++ le 1 outcome ++ le 8 h.step ++ le 4 (s.ticksSince h.began)) s

/-- The job's contexts but the refused ones resume, and the aborted step starts again. -/
def finishHang (p : Nat) (h : Hang) (s : State) : State :=
  let s := modPart p (fun x => { x with hang := none, refusedCtx := x.refusedCtx ||| h.refused, hangStep := some h.declaredIn }) s
  resumeJob p h.contexts (hangResolved p 0 (h.contexts &&& (15 ^^^ (s.partOf p).refusedCtx)) h s)

/-- The next replay: the aborted step with one context open; or the end of the replays. -/
def nextReplay (p : Nat) (s : State) : State :=
  match (s.partOf p).hang with
  | none => s
  | some h =>
    match h.todo with
    | [] => finishHang p h s
    | c :: cs =>
      let was := (s.partOf p).setSwitch
      let s := openStep p true (modPart p (fun x => { x with
        state := 6, open_ := 2 ^ c, setSwitch := false
        hang := some { h with todo := cs, current := some c, replayBegan := s.ras, ended := [] } }) s)
      modPart p (fun x => { x with setSwitch := was }) s

/-- HANG_REPLAY (Table 14.15): outcome 0 completed, 1 hung, 2 limit reached. -/
def hangReplay (p outcome : Nat) (h : Hang) (s : State) : State :=
  record 0x5006 (le 1 p ++ le 1 (h.current.getD 0) ++ le 1 outcome ++ le 1 0 ++ le 8 h.step ++ le 4 (s.ticksSince h.replayBegan)) s

/-- A replay that does not reach the end of step marks its context as refused (R348). -/
def refuseContext (p outcome : Nat) (s : State) : State :=
  match (s.partOf p).hang with
  | none => s
  | some h =>
    match h.current with
    | none => s
    | some c =>
      hangReplay p outcome h (modPart p (fun x => { x with hang := some { h with refused := h.refused ||| 2 ^ c, current := none } }) s)

/-- A site has reached the end of step in a replay; when every site has, the replay is complete. -/
def replayEnded (p site : Nat) (s : State) : State :=
  match (s.partOf p).hang with
  | none => s
  | some h =>
    if h.current.isNone then s
    else
      let ended := if h.ended.contains site then h.ended else h.ended ++ [site]
      let s := modPart p (fun x => { x with hang := some { h with ended := ended } }) s
      if (s.partSites p).all fun x => ended.contains x then
        nextReplay p (hangReplay p 0 h (modPart p (fun x => { x with
          opened := false, hang := some { h with current := none, ended := [] } }) s))
      else s

/-- REPLAY_STEP_LIMIT_EXPIRY (R348). -/
def execReplayStepLimitExpiry (partition : Nat) (s : State) : Result :=
  let x := s.partOf partition
  .next (if x.state = 6 && (x.hang.bind (·.current)).isSome then
      startFence partition 1 [] (some 1) (refuseContext partition 2 s)
    else s)

/-! ## Resets (R344, R345, R351) -/

/-- Repeats of a site end as operands unavailable (R150, R219). -/
def endRepeats (site : Nat) (s : State) : State :=
  let h := s.siteHub site
  let y := s.hubOf h
  let mine := y.repeats.filter fun r => r.site = site
  let running := match y.job with
    | some j => if j.req.site = site then [j.req] else []
    | none => []
  let s := modHub h (fun y => { y with repeats := y.repeats.filter (fun r => r.site != site)
                                       job := if running.isEmpty then y.job else none }) s
  let s := each (running ++ mine) (endUnavailable h) s
  if running.isEmpty then s else serveRepeat h s

/-- TILE_RESET at the sentinel (R76, R344, R351): a tile reset of a site joins one in progress, with its CAUSE (R54). It cancels the
site's screen and disarms its watches (Table 2.6); the reset before a deep screen belongs to that screen. The reset of a site
that a tile has left waits for the site's repeats (Table 8.10; log entry 110). A spare
that is about to be filled has no window left: its replays end (R204). -/
def execTileReset (site cause : Nat) (s : State) : Result :=
  if cause = 1 && s.repeatPending site then .next s
  else
    let s := receive (.tileReset site cause) s
    let merged (x : Sentinel) : Nat := if x.resetCause = 0 || x.resetCause = 4 then cause else x.resetCause
    let s := if cause = 2 then endReplays site s else s
    let s := holdSlot site (if cause = 1 || cause = 2 then cancelScreen site s else s)
    .next (if (s.senOf site).silent then modSen site (fun x => { x with resetCause := merged x }) s
      else modSen site (fun x => disarmWatches { x with inReset := true, resetCause := merged x }) (resetSentinel site (endRepeats site s)))

/-- TILE_RESET event (Table 14.15). -/
def tileResetEvent (site cause result : Nat) (s : State) : State :=
  record 0x5009 (le 2 site ++ le 1 cause ++ le 1 result) s

/-- What a completed partition reset clears (Table 14.10, step 7): graph segments, edge levels, SEN.VERDICT, SEN.MIRROR,
and the poison levels (Table 3.9). -/
def clearPartition (p : Nat) (s : State) : State :=
  let sites := s.partAllSites p
  let s := setGraph (s.graph.filter fun e => s.tilePart e.1.tile != p)
    (setHub (Sparse.mapAll {} s.hub fun _ y => { y with edges := y.edges.filter fun e => !sites.contains e.1 }) s)
  each sites (fun x s => setAlarm x 0 false {} (modSen x (fun y => { y with verdict := 0, mirrorState := 0 }) s)) s

/-- What follows a completed reset (Table 14.8): replays, the restart of the aborted step, or the end of the job. -/
def afterReset (p : Nat) (r : Reset) (s : State) : State :=
  let x := s.partOf p
  if r.keepJob && x.job.isSome && x.state != 7 then
    match x.hang with
    | none => resumeJob p x.resumeCtx s
    | some h =>
      if h.repeated then detachJob p (hangResolved p 2 0 h s) else nextReplay p s
  else
    let s := match x.hang with
      | some h => hangResolved p (if h.repeated then 2 else 1) 0 h s
      | none => s
    detachJob p s

/-- A partition reset is complete (Table 14.10, steps 7 and 8). -/
def finishReset (p : Nat) (s : State) : State :=
  match (s.partOf p).reset with
  | none => s
  | some r =>
    let time := s.ticksSince r.began
    let s := clearPartition p (modPart p (fun x => { x with reset := none }) s)
    let s := record 0x5004 (resetPayload p r.cause 0 0xFF 0 time (s.partOf p).step) s
    completeAll r.seqs 0 (le 4 time) (afterReset p r (recordPoison p s))

/-- A partition reset has failed (R345): DOWN, its commands TIMEOUT. -/
def failReset (p result channel : Nat) (failed : List Nat) (s : State) : State :=
  match (s.partOf p).reset with
  | none => s
  | some r =>
    let s := modPart p (fun x => { x with reset := none }) s
    let s := record 0x5004 (resetPayload p r.cause result channel (failed.headD 0) (s.ticksSince r.began) (s.partOf p).step) s
    completeAll r.seqs 6 [] (goDown p 2 (each failed chargeLoss (recordPoison p s)))

/-- The reset goes on when every tile and the memory are ready. -/
def checkReset (p : Nat) (s : State) : State :=
  match (s.partOf p).reset with
  | none => s
  | some r => if r.waiting.isEmpty && r.memory then finishReset p s else s

/-- RESET_DONE (R344, R345): the tile's reset has ended. -/
def execResetDone (site : Nat) (s : State) : Result :=
  arrive (.resetDone site) (fun s =>
    let x := s.senOf site
    (if !x.inReset then s
    else
      let s := modSen site (fun y => { y with inReset := false, resetCause := 0, slotHeld := s.slot }) s
      let s := if x.wakeState = 2 then serveFront site s else raiseWake site s
      let s := if x.resetCause = 0 || x.resetCause = 4 then s else tileResetEvent site x.resetCause 0 s
      let s := if (Sparse.get none s.screens site).isSome then joinPass (s.siteHub site) [site] s else s
      let p := s.sitePart site
      checkReset p (modPart p (fun y => { y with reset := y.reset.map fun r =>
        { r with waiting := r.waiting.filter (· != site) } }) s))) s

/-- TILE_RESET_TIMEOUT (R345): no reset done within 1 ms: a loss, and a failed partition reset. -/
def execTileResetTimeout (site : Nat) (s : State) : Result :=
  let c := (s.senOf site).resetCause
  let p := s.sitePart site
  let s := if c = 0 || c = 4 then s
    else chargeLoss site (tileResetEvent site c 1 (modSen site (fun x => { x with resetCause := 0 }) s))
  .next (match (s.partOf p).reset with
    | some r => if r.waiting.contains site then failReset p 1 0xFF r.waiting s else s
    | none => s)

/-- RESET_MEMORY_READY (R344, R345): the memory of the partition is ready, or one stack or channel misses its check. -/
def execResetMemoryReady (partition failing : Nat) (s : State) : Result :=
  .next (if failing != 0xFF then failReset partition 2 failing [] s
    else checkReset partition (modPart partition (fun x => { x with reset := x.reset.map fun r => { r with memory := true } }) s))

end Sys2Proof.Machine
end

