-- ==== Sys2Proof/Machine/Hangs.lean ====
section
/-!
DEFINITION. Hang detection (R323 to R334): edge ticks, the wait-for cycle search, and hang snapshots.
-/
namespace Sys2Proof.Machine

/-! ## Edge ticks (R324 to R327) -/

/-- EDGE_TICK_TIMER: the hub ticks every sentinel it serves. -/
def execEdgeTickTimer (hub : Nat) (s : State) : Result :=
  .next (sendAll (((s.sen.map (·.1)).filter fun x => s.siteHub x = hub).map fun x => .edgeTick x) s)

/-- The edge of a queue head (Table 14.2). -/
def edgeOf (site n : Nat) (e : Shadow) (s : State) : Edge :=
  { queue := n, targetKind := e.targetKind, target := e.target, context := e.context, tile := s.tileAt site
    stallSlot := BitVec.ofNat 64 e.headSlot }

/-- A queue at a tick: stalled when its head was pending at the previous one, still is, and has not advanced. Its edge is reported only
while EDGE_EN is 1 (R326): a queue that stalled before then reports none later (log entry 138). -/
def tickQueue (site n : Nat) (s : State) : State :=
  let x := s.senOf site
  let e := Sparse.get {} x.shadow n
  let b := Sparse.get {} x.ticks n
  let now : TickBase := { seen := true, pending := bitOf 0 e.state, advances := e.advances, headSlot := e.headSlot }
  let still := b.seen && b.pending && now == b && !testHandle (field e.headDesc 0 3)
  let stalls := still && !bitOf 1 e.state
  let s := if still then countSen site 15 1 s else s
  let s := modSen site (fun y => { y with ticks := Sparse.set {} y.ticks n now }) s
  let s := if stalls then
      modSen site (fun y => { y with shadow := Sparse.upd {} y.shadow n fun e => { e with state := e.state + 2 } }) s else s
  if stalls && bitOf 5 x.ctrlFront then pushAlarm site (.alarmLevel site (16 + n) true (edgeOf site n e s)) s else s

/-- EDGE_TICK (R325, R326): ignored while the core clock is stopped; the first tick afterwards only sets the baselines. -/
def execEdgeTick (site : Nat) (s : State) : Result :=
  arrive (.edgeTick site) (fun s =>
    if !s.clockRuns site then modSen site (fun y => { y with ticks := [] }) s
    else each (List.range 8) (tickQueue site) s) s

/-! ## The wait-for cycle search (R329) -/

/-- Edges that leave a logical tile. -/
def edgesFrom (g : List Edge) (tile : Nat) : List Edge := g.filter fun e => e.tile = tile

/-- A path of edges from `tile` back to `goal` among logical tiles, by depth first search: the path, and the tiles seen. -/
def cycleFrom : Nat → List Edge → Nat → Nat → List Nat → Option (List Edge) × List Nat
  | 0, _, _, _, seen => (none, seen)
  | n + 1, g, goal, tile, seen =>
    (edgesFrom g tile).foldl (fun (r : Option (List Edge) × List Nat) e =>
      match r.1 with
      | some _ => r
      | none =>
        if e.targetKind != 0 then r
        else if e.target = goal then (some [e], r.2)
        else if r.2.contains e.target then r
        else
          let q := cycleFrom n g goal e.target (r.2 ++ [e.target])
          (q.1.map fun p => e :: p, q.2)) (none, seen)

/-- The longest path without repeated nodes from `tile`, of at most `n` edges. -/
def longestFrom : Nat → List Edge → Nat → List Nat → List Edge
  | 0, _, _, _ => []
  | n + 1, g, tile, seen =>
    (edgesFrom g tile).foldl (fun best e =>
      if e.targetKind = 0 && seen.contains e.target then best
      else
        let path := if e.targetKind = 0 then e :: longestFrom n g e.target (seen ++ [e.target]) else [e]
        if best.length < path.length then path else best) []

/-- The first cause of R329 that a partition's part of the graph shows, with its edges; tiles in rising order. -/
def searchGraph (pol : Policy) (ras : Dword) (p : Nat) (tilePart : Nat → Nat) (graph : List (Edge × Dword)) :
    Option (Nat × List Edge) :=
  let g := graph.map (·.1)
  let mine := graph.filter fun e => tilePart e.1.tile = p
  let tiles := (mine.map (·.1.tile)).eraseDups
  let fuel := g.length
  match tiles.findSome? fun t => (cycleFrom (fuel + 1) g t t [t]).1 with
  | some path => some (1, path)
  | none =>
    match tiles.findSome? fun t => (let l := longestFrom (fuel + 1) g t [t]; if 64 < l.length then some l else none) with
    | some path => some (2, path)
    | none =>
      match mine.find? fun e => e.1.targetKind = 1 && 100 * pol.memWaitLimit < since ras e.2 with
      | some e => some (3, [e.1])
      | none => match mine.find? fun e => e.1.targetKind = 2 && 100000 * pol.linkWaitLimit < since ras e.2 with
        | some e => some (4, [e.1])
        | none => none

/-- Contexts of every pending head of the sites whose queues lie on a path (R348). -/
def suspectMask (s : State) (path : List Edge) : Nat :=
  let sites := (path.map (·.tile)).eraseDups.filterMap s.siteOf
  (sites.flatMap fun x => ((s.senOf x).shadow.filter fun e => bitOf 0 e.2.state).map fun e => e.2.context % 4).foldl
    (fun m c => m ||| 2 ^ c) 0

/-- HANG_DETECTED (Table 14.15). -/
def hangDetected (p cause : Nat) (path : List Edge) (s : State) : State :=
  let e := path.headD {}
  let old := (path.filterMap fun e => (s.graph.find? fun g => g.1 = e).map (·.2)).foldl (fun m t => max m (s.ticksSince t)) 0
  record 0x5001 (le 1 p ++ le 1 cause ++ le 2 path.length ++ le 1 (suspectMask s path) ++ le 3 0 ++ le 8 (s.partOf p).step ++
    le 2 e.tile ++ le 2 e.target ++ le 1 e.targetKind ++ le 3 0 ++ le 4 old) s

/-- The fence that follows a hang's snapshot (R346, R348); a snapshot that no hang asked for starts none. -/
def fenceHang (p : Nat) (s : State) : State :=
  let x := s.partOf p
  match x.hang, x.snapshot with
  | some h, some snap =>
    if !snap.done || snap.cause = 0 || x.fence.isSome || x.reset.isSome || !(x.state = 2 || x.state = 6) then s
    else startFence p 1 [] (some 1) (modPart p (fun y => { y with killed := y.killed || h.repeated }) s)
  | _, _ => s

/-- A hang of a partition is declared (R329, R346, R348, R349). -/
def declareHang (p cause : Nat) (path : List Edge) (s : State) : State :=
  let x := s.partOf p
  let s := hangDetected p cause path s
  -- a cycle that spans into a partition that is neither ACTIVE nor REPLAYING: recorded only (Table 14.14)
  let others := ((path.map fun e => s.tilePart e.tile).eraseDups).filter fun q => q != p && s.defined q &&
    (s.partOf q).state != 2 && (s.partOf q).state != 6
  let s := each others (fun q s => hangDetected q cause path s) s
  if x.state = 6 then fenceHang p (takeSnapshot p cause 0 path (refuseContext p 1 s))
  else
    let h : Hang := { cause := cause, contexts := x.open_, repeated := x.hangStep == some x.step
                      step := x.uncommitted.headD x.step, declaredIn := x.step, began := s.ras }
    fenceHang p (takeSnapshot p cause 0 path (modPart p (fun y => { y with hang := some h }) s))

/-- The search of one partition, when nothing of an earlier declaration is in progress. -/
def searchPartition (p : Nat) (s : State) : State :=
  let x := s.partOf p
  let busy := if x.state = 2 then x.hang.isSome else (x.hang.bind (·.current)).isNone
  if !(x.state = 2 || x.state = 6) || busy then s
  else match searchGraph s.image.policy s.ras p s.tilePart s.graph with
    | some (cause, path) => declareHang p cause path s
    | none => s

/-- Effective T_block in RAS ticks (R324). -/
def State.tBlock (s : State) : Nat :=
  100 * s.image.policy.tBlock * (if s.throttle.stage = 3 then 2 else if s.throttle.stage = 4 then 4 else 1)

/-- WAIT_FOR_SEARCH_TIMER: not while a stop holds, nor within two T_block of its release (R330). -/
def execWaitForSearchTimer (s : State) : Result :=
  let soon : Bool := match s.stop.releasedAt with
    | some t => since s.ras t < 2 * s.tBlock
    | none => false
  .next (if 2 ≤ s.stop.state || soon then s else each (List.range 16) searchPartition s)

/-! ## Snapshots (R332 to R334) -/

/-- Answers of a hub's sites enter the snapshot; it is complete when every site has answered or is absent. -/
def takeAnswers (p hub : Nat) (sites : List SnapSite) (edges : List Edge) (s : State) : State :=
  match (s.partOf p).snapshot with
  | none => s
  | some x =>
    if x.done then s
    else
      let x := { x with sites := sites.foldl (fun l e => insertSnap e l) x.sites, edges := x.edges.filter (·.1 ≤ hub) ++ edges.map (hub, ·) ++ x.edges.filter (hub < ·.1)
                        waiting := x.waiting.filter fun w => !sites.any fun e => e.site = w }
      let s := modPart p (fun y => { y with snapshot := some x }) s
      if x.waiting.isEmpty then fenceHang p (finishSnapshot p s) else s

/-- SNAPSHOT_PART. -/
def execSnapshotPart (hub partition : Nat) (sites : List SnapSite) (edges : List Edge) (s : State) : Result :=
  arrive (.snapshotPart hub partition sites edges) (takeAnswers partition hub sites edges) s

/-- SNAPSHOT_SITE_TIMEOUT: the site is recorded as absent (Table 14.6). -/
def execSnapshotSiteTimeout (site : Nat) (s : State) : Result :=
  let p := s.sitePart site
  let waits := match (s.partOf p).snapshot with
    | some x => x.waiting.contains site
    | none => false
  .next (if waits then
      takeAnswers p (s.siteHub site) [absentSite s false { site := site }] [] s
    else s)

end Sys2Proof.Machine
end

