-- ==== Sys2Proof/Machine/SafetyNet.lean ====
section
/-!
DEFINITION. Partner copies and takeovers (chapter 12): fill sources, the step boundary at which takeovers run, copies to the
holders, and resident replays of the control core.
-/
namespace Sys2Proof.Machine

/-! ## Copies (R290 to R296) -/

/-- Blocks of a resident region (R290). -/
def residentBlocks (size : Nat) : Nat := if size = 1 then 113 else if size = 2 then 226 else 0

/-- Bytes of a resident region. -/
def residentBytes (size : Nat) : Nat := if size = 1 then 524288 else if size = 2 then 1048576 else 0

/-- A tile's mirror is current (R294): VALID, and no block written by a commit is still to be sent. -/
def State.mirrorCurrent (s : State) (p tile : Nat) : Bool :=
  match s.siteOf (s.holderOf p tile), s.siteOf tile with
  | some h, some o => (s.senOf h).mirrorState == 1 && (s.senOf o).marks.isEmpty
  | _, _ => false

/-! ## Fills (R299 to R303) -/

/-- The tier-2 slot with the latest valid copy. -/
def latestSlot (xs : List Tier2Slot) : Option Tier2Slot :=
  (xs.filter fun t => t.state = 2).foldl (fun b t => match b with
    | none => some t
    | some u => if u.step < t.step then some t else some u) none

/-- The latest valid copy of a tile (R297): a slot that is still being written holds one for the regions that are complete. -/
def State.latestFor (s : State) (p tile : Nat) : Option Tier2Slot :=
  let x := s.partOf p
  let left := x.tier2Left.contains (regionOf (s.homeSector tile))
  latestSlot (x.tier2.zipIdx.map fun e => if x.tier2Busy = some e.2 && !left then { e.1 with state := 2 } else e.1)

/-- SAFETY_NET_LOST (R303): the partition is fenced and reset, and the job is lost. -/
def safetyNetLost (p tile : Nat) (s : State) : State :=
  startFence p 4 [] (some 4) (record 0x9007 (le 2 tile ++ le 1 p ++ le 1 0 ++ le 8 (s.partOf p).step) s)

/-- The resident fill from tier 2 (R302): unless the slot holds step `st` itself, the control core is asked for the replay
and every lineage of the next step fails. -/
def replayFill (p tile st c : Nat) (s : State) : State :=
  if st ≤ c then s
  else
    let tag := s.coreTag % 65536
    let s := coreSend 0x10 tag (le 1 p ++ le 1 0 ++ le 2 tile ++ le 4 0 ++ le 8 (c + 1) ++ le 8 st) (setCoreTag (tag + 1) s)
    let s := record 0x9006 (le 2 tile ++ le 2 0 ++ le 8 (c + 1) ++ le 8 st) s
    modPart p (fun x => { x with
      failNext := true
      replays := x.replays ++ [{ tile := tile, fromStep := c + 1, toStep := st, tag := tag }] }) s

/-- The resident fill takes the first source from `src` on that is available (Table 12.4). -/
def residentFill (p : Nat) (w : Swap) (src : Nat) (s : State) : State :=
  let x := s.partOf p
  if src ≤ 1 && s.mirrorCurrent p w.tile && !s.cannotCopy (s.siteOf (s.holderOf p w.tile)) then
    modSwap p w.tile (fun w => { w with resSource := 1 }) s
  else if src ≤ 2 && (s.latestFor p w.tile).isSome then
    let c := ((s.latestFor p w.tile).getD {}).step
    let s := modSwap p w.tile (fun w => { w with resSource := 2 }) s
    if x.replays.any fun r => r.tile = w.tile && r.fromStep = c + 1 && r.toStep = x.step then s else replayFill p w.tile x.step c s
  else safetyNetLost p w.tile s

/-- The mirror refill takes the first source from `src` on that is available (Table 12.4). -/
def mirrorFill (p : Nat) (w : Swap) (src : Nat) (s : State) : State :=
  let owner := s.ownerOf p w.tile
  let source := if src ≤ 1 && !s.cannotCopy (s.siteOf owner) then 1
    else if src ≤ 2 && !s.cannotCopy (some w.old) && s.mirrorCurrent p owner then 2
    else if src ≤ 3 && (s.latestFor p owner).isSome then 3 else 0
  modSwap p w.tile (fun w => { w with mirSource := source }) s

/-- Chosen takeovers whose remaining copy is complete start their fills (R300); with RESIDENT_SIZE 0 nothing is filled. -/
def tryFills (p : Nat) (s : State) : State :=
  let s := pruneCopies p s
  let x := s.partOf p
  if !x.boundary then s
  else if (s.jobOf p).residentSize = 0 then
    modPart p (fun y => { y with swaps := y.swaps.map fun w => if w.chosen && w.new.isSome then { w with filled := true } else w }) s
  else if !x.tokens.isEmpty then s
  else
    each (x.swaps.filter fun w => w.chosen && w.new.isSome && !w.filling && !w.filled && !x.copying.contains w.tile) (fun w s =>
      mirrorFill p w 1 (residentFill p w 1 (modSwap p w.tile (fun w => { w with filling := true }) s))) s

/-! ## The boundary (R253, R259, R270, R301) -/

/-- Losses first, then decision time, then logical number (R256). -/
def swapBefore (s : State) (a b : Swap) : Bool :=
  let la := (s.siteRec a.old).lost
  let lb := (s.siteRec b.old).lost
  if la != lb then la else if a.decided != b.decided then a.decided < b.decided else a.tile < b.tile

def insertSwap (s : State) (w : Swap) : List Swap → List Swap
  | [] => [w]
  | x :: xs => if swapBefore s w x then w :: x :: xs else x :: insertSwap s w xs

/-- Tiles of the takeovers of this boundary: every loss, and others up to 8 in all (R301). -/
def chosenTiles (s : State) (p : Nat) : List Nat :=
  let ws := (((s.partOf p).swaps.filter fun w => w.new.isSome).foldr (insertSwap s) [])
  let losses := (ws.filter fun w => (s.siteRec w.old).lost).length
  (ws.take (max losses 8)).map (·.tile)

/-- A LOST site without a candidate: the partition is marked DEGRADED and fenced (R259). -/
def lostWithoutSpare (p : Nat) (s : State) : State :=
  match (s.partOf p).swaps.find? fun w => w.new.isNone && (s.siteRec w.old).lost with
  | none => s
  | some w => startFence p 3 [] none (degrade p w.old (s.partOf p).step s)

/-- The boundary goes on when every chosen takeover is filled and no replay holds it; a stop holds the step start of a
takeover (Table 12.6). A loss without a spare fences the partition meanwhile too (R259). -/
def checkBoundary (p : Nat) (s : State) : State :=
  let s := if (s.partOf p).boundary && (s.partOf p).state = 2 then lostWithoutSpare p s else s
  let x := s.partOf p
  if !x.boundary || x.held || x.state != 2 || x.swaps.any (fun w => w.chosen && w.new.isSome && !w.filled) ||
      x.replays.any (fun r => r.toStep < x.step) then s
  else if x.swaps.any (fun w => w.filled) && (2 ≤ s.stop.state || s.stop.releasing) then
    modPart p (fun y => { y with held := true, swaps := y.swaps.map fun w => if w.filled then { w with flags := w.flags ||| 4 } else w }) s
  else openNext p s

/-- Every SUSPECT site of a partition has its swap-out in the list (R253). -/
def retrySwaps (p : Nat) (s : State) : State :=
  each ((s.partSites p).filter fun x => (s.siteRec x).suspect && !(s.partOf p).swaps.any fun w => w.tile = s.tileAt x)
    (fun x s => addSwap p (s.tileAt x) x (flag (s.siteRec x).lost) [] s) s

/-- The step boundary is reached: swap-outs without a spare are tried again in the order of R256, the takeovers of this boundary
are chosen, and their fills start. -/
def startBoundary (p : Nat) (s : State) : State :=
  let s := retrySwaps p (modPart p (fun x => { x with boundary := true, boundaryAt := s.ras }) s)
  let s := each (((s.partOf p).swaps.filter fun w => w.new.isNone).foldr (insertSwap s) []) (fun w s => prepareSwap p w.tile w.old s) s
  if (s.partOf p).state != 2 then s
  else
    let tiles := chosenTiles s p
    let s := modPart p (fun x => { x with swaps := x.swaps.map fun w => { w with chosen := tiles.contains w.tile } }) s
    checkBoundary p (tryFills p s)

/-! ## What ends a fill (R299, R303, R304) -/

/-- One stream's result: its source has gone, or a block failed its tests; the first failure restarts the stream from the
same source, the second moves on. -/
def retrySource (gone failed : Bool) (source retries : Nat) : Option Nat :=
  if gone then some (source + 1) else if !failed then none else if retries = 0 then some source else some (source + 1)

/-- Takeovers of losses that have come since, and those whose spare has changed, start their fills; the boundary goes on when it can
(R301, Table 12.6). -/
def resumeBoundary (p : Nat) (s : State) : State := checkBoundary p (tryFills p s)

/-- Every open boundary after a loss: a copy of its site that was awaited does not complete (Table 12.6). -/
def resumeBoundaries (s : State) : State :=
  each ((List.range 16).filter fun p => (s.partOf p).boundary) resumeBoundary s

/-- TAKEOVER_FILL_COMPLETE: the streams of a spare have ended (Table 12.6). A stream that must run again leaves the fill
open; without a spare the takeover leaves the boundary, or the partition is fenced for a loss. A tier-2 copy with an uncorrectable word
is unavailable at once (R302). -/
def execTakeoverFillComplete (tile : Nat) (resFailed mirFailed : Bool) (s : State) : Result :=
  let p := s.tilePart tile
  .next (match (s.partOf p).swaps.find? fun w => w.tile = tile && w.filling && !w.filled with
    | none => resumeBoundary p s
    | some w =>
      if w.new.isNone then
        resumeBoundary p (modSwap p tile (fun w => { w with chosen := false, filling := false }) s)
      else
        let r := retrySource ((w.resSource == 1 && s.cannotCopy (s.siteOf (s.holderOf p tile))) || (w.resSource == 2 && w.spoilt)) resFailed w.resSource w.resRetries
        let m := retrySource (w.mirSource == 1 && s.cannotCopy (s.siteOf (s.ownerOf p tile))) mirFailed w.mirSource w.mirRetries
        if r.isNone && m.isNone then resumeBoundary p (modSwap p tile (fun w => { w with filled := true, filling := false }) s)
        else
          let s := modSwap p tile (fun w => { w with
            flags := w.flags ||| 1, spoilt := false
            resRetries := if r = some w.resSource then 1 else if r.isSome then 0 else w.resRetries
            mirRetries := if m = some w.mirSource then 1 else if m.isSome then 0 else w.mirRetries }) s
          let s := match m with
            | some k => if k = w.mirSource then s else mirrorFill p w k s
            | none => s
          match r with
          | some k => if k = w.resSource then s else residentFill p w k s
          | none => s)

/-! ## Resident replays (R302, R527) -/

/-- REPLAY_DONE: the replay is complete, or has failed (R303). LAST_STEP only reports. -/
def execReplayDone (partition result tile _lastStep length tag : Nat) (s : State) : Result :=
  .next (if length != 4 then coreNak 0x11 tag s
    else if !(s.partOf partition).replays.any (fun r => r.tile = tile) then s
    else if result = 0 then
      checkBoundary partition (modPart partition (fun x => { x with replays := x.replays.filter fun r => r.tile != tile }) s)
    else safetyNetLost partition tile s)

/-- REPLAY_DONE_TIMEOUT: not within REPLAY_STEP_LIMIT (R303). -/
def execReplayDoneTimeout (partition tile : Nat) (s : State) : Result :=
  .next (if (s.partOf partition).replays.any fun r => r.tile = tile then safetyNetLost partition tile s else s)

/-! ## Alarm levels at the hub (R40, R301) -/

/-- ALARM_LEVEL (R40): the hub keeps one level per unit and code; a message that carries the level it holds changes
nothing. A thermal trip is fatal (R368), a failed link raises the link alert. -/
def execAlarmLevel (unit code : Nat) (raised : Bool) (edge : Edge) (s : State) : Result :=
  arrive (.alarmLevel unit code raised edge) (fun s =>
    let h := if unit < 0x4000 then s.siteHub unit else unit - 0x4000
    let old := Sparse.get 0 (s.hubOf h).alarms unit
    (if 0x8000 ≤ unit then (if code = 34 && raised then raiseAlert 5 s else s)
    else if bitOf code old = raised then s
    else
      let new := if raised then old + 2 ^ code else old - 2 ^ code
      let s := modHub h (fun y => { y with alarms := Sparse.set 0 y.alarms unit new }) s
      if code = 34 then (if raised then raiseAlert 5 s else s)
      else if unit < 0x4000 then resumeBoundaries (sentinelAlarm unit code raised edge s)
      else if code = 33 && raised then raiseFatal 0 (modThrottle (fun t => { t with trip := true }) s)
      else s)) s

end Sys2Proof.Machine
end

