-- ==== Sys2Proof/Machine/StepVerdict.lean ====
section
/-!
DEFINITION. Step verdicts (chapter 11): the step boundary at a hub, step-done items, contributions, the token, the reduction
tree's final KEPT, and verdict trailers of peers.
-/
namespace Sys2Proof.Machine

/-! ## The step boundary at a hub and its sentinels (R79, R124, R172, R253) -/

/-- Tiles that a hub samples at the raised rate in every step: SUSPECT sites that are not LOST (R253). -/
def State.alwaysRaised (s : State) (h p : Nat) : List Nat :=
  ((s.hubPartSites h p).filter fun x => (s.siteRec x).suspect && !(s.siteRec x).lost).map s.tileAt

/-- What a boundary changes at a sentinel: settings reach the front, the step's counts start again, a new trace configuration
arms the writer. A restart also clears what the aborted attempt left. -/
def boundaryFront (sk : Dword) (restart : Bool) (x : Sentinel) : Sentinel :=
  let x := applySettings x
  let x := { x with sk := sk, outputs := 0, served := 0, shared := false, overrun := false, stepLast := false, ledger := [], plausSent := [], inMarks := [] }
  if restart then { x.unfence with verdict := 0 } else x

/-- The collection that a boundary opens (R191, R274). -/
def newCollect (c : Collect) (step : Nat) (sk : Dword) (raised : List Nat) : Collect :=
  let same : Bool := c.step == step
  { step := step, failed := c.carry, skCur := sk, skPrev := if same then c.skPrev else c.skCur
    stepPrev := if same then c.stepPrev else c.step, raised := raised }

/-- The commands that waited for the boundary are answered (Table 20.15). -/
def answerBoundary (p step : Nat) (s : State) : State :=
  let seqs := (s.partOf p).boundarySeqs
  let s := modPart p (fun x => { x with boundarySeqs := [] }) s
  completeAll seqs 0 (le 8 step) s

/-- Sites in ascending order of the logical tiles they hold (R193). -/
def State.insertTile (s : State) (x : Nat) : List Nat → List Nat
  | [] => [x]
  | y :: ys => if s.tileAt x ≤ s.tileAt y then x :: y :: ys else y :: s.insertTile x ys

/-- A step boundary of a partition is on its way to a hub. -/
def State.boundaryAway (s : State) (p : Nat) : Bool :=
  let mine : Instr → Bool := fun m => match m with
    | .stepBoundary _ q _ _ _ => q == p
    | _ => false
  s.sent.any mine || s.hub.any fun h => !h.2.failed && h.2.linkWait.any fun w => mine w.msg

/-- The boundary has reached every hub of the partition: what waited for it is answered, and a switched set has taken effect at all of
them (R172). -/
def endBoundary (p step flags : Nat) (s : State) : State :=
  if s.boundaryAway p then s else answerBoundary p step (if bitOf 0 flags then finishLoad p s else s)

/-- STEP_BOUNDARY (R124) at a hub and the sentinels it serves. -/
def execStepBoundary (hub partition step : Nat) (sk : Dword) (flags : Nat) (s : State) : Result :=
  arrive (.stepBoundary hub partition step sk flags) (fun s =>
    let sites := s.hubPartSites hub partition
    let was := (s.hubOf hub).collect.raised
    let raised := s.alwaysRaised hub partition
    let s := modHub hub (fun y => { y with collect := newCollect y.collect step sk raised }) s
    let s := each sites (fun x s => modSen x (boundaryFront sk (bitOf 2 flags)) s) s
    let s := each ((sites.foldr s.insertTile []).filter fun x => (s.senOf x).sampleCount = 0 || was.contains (s.tileAt x) != raised.contains (s.tileAt x))
      loadSample s
    let s := if bitOf 0 flags then switchHub partition hub s else s
    endBoundary partition step flags (respond (hubAddr hub) 1 0xD [] s)) s

/-! ## The end of the step at a tile (R270, R272) -/

/-- STEP_LAST_COMPLETE (R272): the ledger entries, then the step-done item. When every tile has reached it, the step has
ended (R270), or a replay is complete (R348). -/
def execStepLastComplete (site : Nat) (s : State) : Result :=
  let p := s.sitePart site
  let x := s.senOf site
  .next (if s.tileAt site = 0xFFFF || !s.hasJob p || x.stepLast || !(s.partOf p).opened then s
    else
      let item : StepDoneItem := { outputs := x.outputs, served := BitVec.ofNat 32 x.served, shared := x.shared, overrun := x.overrun
                                   groups := min x.ledger.length 16 }
      let s := modSen site (fun y =>
        { enterFront (.stepDone site item) (y.ledger.foldl (fun y e => enterFront (.ledger site e) y) y) with stepLast := true, ledger := [] }) s
      if (s.partOf p).state = 6 then replayEnded p site s
      else if (s.partSites p).all fun y => (s.senOf y).stepLast then
        modPart p (fun y => { y with stepEnded := true, endAtRas := s.ras }) s
      else s)

/-! ## Contributions (R126, R135, R153, R274, R275) -/

/-- Two entries of one routing group added. -/
def addLedger (a b : LedgerEntry) : LedgerEntry :=
  { group := a.group, sentCount := (a.sentCount + b.sentCount) % 2 ^ 32, sentSum := (a.sentSum + b.sentSum) % residueP
    recvCount := (a.recvCount + b.recvCount) % 2 ^ 32, recvSum := (a.recvSum + b.recvSum) % residueP
    invalid := a.invalid || b.invalid }

/-- Ledger partials merged per routing group. -/
def mergeLedger (xs : List LedgerEntry) (e : LedgerEntry) : List LedgerEntry :=
  if xs.any fun x => x.group = e.group then xs.map fun x => if x.group = e.group then addLedger x e else x else xs ++ [e]

/-- LEDGER at the hub. -/
def execLedger (site : Nat) (entry : LedgerEntry) (s : State) : Result :=
  arrive (.ledger site entry) (fun s =>
    (if s.judges (s.sitePart site) then
      modHub (s.siteHub site) (fun y => { y with collect := { y.collect with ledger := mergeLedger y.collect.ledger entry } }) s
    else s)) s

/-- NOT_CHECKABLE (Table 6.6) and ARITH_FLAGS (R126) of a hub's step. -/
def stepEndEvents (h step : Nat) (c : Collect) (s : State) : State :=
  let sat (n : Nat) : List Byte := le 4 (min n (2 ^ 32 - 1))
  let s := if c.notCheckable = 0 then s
    else hubEvent h 0x1023 (sat c.notCheckable ++ le 8 step ++ le 2 (c.ncTile.getD 0) ++ le 2 0) s
  if c.sat + c.under + c.invalid = 0 then s
  else hubEvent h 0x1010 (sat c.sat ++ sat c.under ++ sat c.invalid ++ sat c.dropped ++ le 8 step ++ le 2 (c.flagTile.getD 0) ++ le 2 0) s

/-- The hub sends its contribution to the root hub (R275). -/
def sendContribution (h p : Nat) (s : State) : State :=
  let c := (s.hubOf h).collect
  let s := stepEndEvents h c.step c s
  let now := s.hubRas h
  send (.contribution h p c.step (BitVec.ofNat 32 c.failed) c.ledger)
    (modHub h (fun y => { y with collect := { y.collect with sent := true, sentAt := now }
                                 sentLog := ringLast 256 (y.sentLog ++ [(c.step, now)]) }) s)

/-- The contribution is sent once every site's step-done item has arrived or is given up. -/
def checkContribution (h p : Nat) (s : State) : State :=
  let c := (s.hubOf h).collect
  if c.sent || !(s.hubPartSites h p).all fun x => c.done.contains x then s else sendContribution h p s

/-- A site's step-done item as the hub judges it (R274). A lineage that the job does not have is treated as 0xFE (R268). -/
def judgeDone (site : Nat) (item : StepDoneItem) (j : Job) (c : Collect) : Collect :=
  let wrong : Bool := Sparse.get 0 c.items site != item.outputs || item.overrun
  let lineages (n : Nat) : Nat := if j.all < n then j.all else n
  let mask := if !wrong then 0 else if item.shared then j.all else lineages item.served.toNat
  { failMask (mask ||| lineages item.failed.toNat) c with
    done := c.done ++ [site], reading := c.reading.filter (· != site) }

/-- STEP_DONE at the hub. -/
def execStepDone (site : Nat) (item : StepDoneItem) (s : State) : Result :=
  arrive (.stepDone site item) (fun s =>
    let p := s.sitePart site
    let h := s.siteHub site
    (if !s.judges p || (s.hubOf h).collect.done.contains site then s
    else checkContribution h p (countHub h 56 1 (modHub h (fun y => { y with collect := judgeDone site item (s.jobOf p) y.collect })
      (each ((List.range 32).filter fun n => bitOf n item.served.toNat) (noteLineage site) s))))) s

/-- STEP_DONE_WAIT_EXPIRY: the hub reads SEN.VERDICT of each site whose item is missing (R274). -/
def execStepDoneWaitExpiry (hub partition : Nat) (s : State) : Result :=
  let c := (s.hubOf hub).collect
  .next (if !s.judges partition || c.sent then s
    else
      let missing := (s.hubPartSites hub partition).filter fun x => !c.done.contains x && !c.reading.contains x
      let first := (s.hubOf hub).tag
      sendAll (missing.zipIdx.map fun x => .read x.1 0x18 1 ((first + x.2) % 256))
        (modHub hub (fun y => { y with tag := (first + missing.length) % 256
                                       collect := { y.collect with reading := y.collect.reading ++ missing } }) s))

/-- A hub gives up a site's step-done item: every lineage of the step fails (Table 11.4), and the contribution goes on. -/
def giveUpDone (site : Nat) (loss : Bool) (s : State) : State :=
  let h := s.siteHub site
  let p := s.sitePart site
  let all := (s.jobOf p).all
  let s := modHub h (fun y => { y with collect := { failMask all y.collect with
    done := y.collect.done ++ [site], reading := y.collect.reading.filter (· != site), loss := y.collect.loss || loss } }) s
  resumeBoundaries (checkContribution h p (if loss then loseSentinel site s else s))

/-- The hub's read of SEN.VERDICT is answered (R274): the site is no loss, its step-done item stays missing. -/
def readAnswered (unit offset count : Nat) (s : State) : State :=
  if offset = 0x18 && count = 1 && (s.hubOf (s.siteHub unit)).collect.reading.contains unit then giveUpDone unit false s else s

/-- A register read (R77): a front register of a tile whose clock is stopped, or in reset, goes through the wake
protocol. -/
def execRead (unit offset count tag : Nat) (s : State) : Result :=
  let m := Instr.read unit offset count tag
  arrive m (fun s => if unit < 0x4000 then
      if !s.answers? unit then s
      else if (wordOffsets offset count).all senKnown && (wordOffsets offset count).any senFront &&
          s.mustWait unit then waitWake unit m s
      else readAnswered unit offset count (senRead unit offset count tag s)
    else if unit < 0x4080 then
      if !s.present (unit - 0x4000) || (s.hubOf (unit - 0x4000)).failed then s
      else if veAsleep s unit offset then waitUnit (unit - 0x4000) 2 m s
      else hubRead (unit - 0x4000) offset count tag s
    else s) s

/-- SENTINEL_READ_TIMEOUT: a silent sentinel is a loss and fails every lineage of the step (R24, R274). -/
def execSentinelReadTimeout (site : Nat) (s : State) : Result :=
  .next (if !(s.hubOf (s.siteHub site)).collect.reading.contains site then s else giveUpDone site true s)

/-! ## The token (R153, R271, R275) -/

/-- A routing group whose ledger does not balance. -/
def ledgerBad (e : LedgerEntry) : Bool := e.invalid || e.sentCount != e.recvCount || e.sentSum != e.recvSum

/-- ROUTING_LEDGER_MISMATCH (Table 6.6). -/
def ledgerEvent (root step : Nat) (e : LedgerEntry) (s : State) : State :=
  let n (v : Nat) : List Byte := le 4 (if e.invalid then 0xFFFFFFFF else v)
  hubEvent root 0x1024 (le 2 e.group ++ le 2 0 ++ le 8 step ++ n e.sentCount ++ n e.recvCount ++ le 8 e.sentSum ++ le 8 e.recvSum) s

/-- The lineages that a partition's unbalanced groups fail. -/
def ledgerMask (j : Job) (xs : List LedgerEntry) : Nat :=
  (xs.filter ledgerBad).foldl (fun m e => m ||| j.mask (Config.groupLineage j.jobId e.group)) 0

/-- STATUS of a mask of kept lineages (R275, R278). -/
def statusKept (j : Job) (kept : Nat) : Nat := if kept = j.all then 0 else if j.minKeep ≤ bits32 kept then 1 else 2

/-- Hubs of a partition that serve a site with a logical tile. -/
def State.contributors (s : State) (p : Nat) : List Nat := (s.partHubs p).filter fun h => !(s.hubPartSites h p).isEmpty

/-- The root hub forms the token (R275); while the tree works on an earlier step it waits there for its turn (log entry 44). -/
def issueToken (p : Nat) (s : State) : State :=
  let x := s.partOf p
  let j := s.jobOf p
  let root := s.rootHub p
  let failed := (x.rootFailed ||| ledgerMask j x.rootLedger ||| (if x.failNext then j.all else 0)) &&& j.all
  let kept := j.all - failed
  let status := statusKept j kept
  let kept := if status = 2 then 0 else kept
  let s := each (x.rootLedger.filter ledgerBad) (ledgerEvent root x.step) s
  let t : Token := { step := x.step, status := status, kept := kept, keptCount := bits32 kept, time := s.hubRas root
                     ended := x.endAtRas, flags := x.flagsRec ||| s.openFlags p, late := x.lateRec }
  let s := modPart p (fun y => { y with
    token := some (y.token.getD t), later := if y.token.isSome then y.later ++ [t] else y.later
    failNext := false, opened := false, contrib := [], rootFailed := 0, rootLedger := [], flagsRec := 0, lateRec := 0 }) s
  send (.stepToken p) (countHub root 57 1 s)

/-- The token is formed when every contribution has arrived. -/
def formToken (p : Nat) (s : State) : State :=
  let x := s.partOf p
  if !x.opened || !(s.contributors p).all fun h => x.contrib.contains h then s else issueToken p s

/-- CONTRIBUTION at the root hub. -/
def execContribution (hub partition step : Nat) (failed : Word) (groups : List LedgerEntry) (s : State) : Result :=
  arrive (.contribution hub partition step failed groups) (fun s =>
    let x := s.partOf partition
    (if !s.judges partition || step != x.step || !x.opened || x.contrib.contains hub then s
    else
      formToken partition (modPart partition (fun y => { y with
        contrib := y.contrib ++ [hub], rootFailed := y.rootFailed ||| failed.toNat
        rootLedger := groups.foldl mergeLedger y.rootLedger }) s))) s

/-- The token of a step has been formed. -/
def Partition.decided (x : Partition) (step : Nat) : Bool :=
  decide (step < x.step) || (x.tokens.any fun t => t.step == step) || (x.boundary && step == x.step)

/-- RAS ticks since the token of a step, saturating. -/
def State.sinceToken (s : State) (p step : Nat) : Nat :=
  let x := s.partOf p
  match x.tokens.find? fun t => t.step = step with
  | some t => s.ticksSince t.time
  | none => match x.records.reverse.find? fun r => r.step = step && r.status != 3 with
    | some r => s.ticksSince r.tokenTime
    | none => 2 ^ 32 - 1

/-- SEAL_VERDICT (R96, R99): of a sentinel, at its hub; of an exit point, at the root hub of the writing partition, where it
fails its lineage in the writing instruction's step or is a late detection (R279). -/
def execSealVerdict (unit partition lineage test step seq : Nat) (info : SealInfo) (s : State) : Result :=
  arrive (.sealVerdict unit partition lineage test step seq info) (fun s =>
    (if unit < 0x4000 then (if s.judges partition then failItem unit lineage s else s)
    else if !s.defined partition || (s.partOf partition).state = 6 then s
    else if !s.judges partition || (s.partOf partition).decided step then
      lateDetection partition step lineage 0xFF 0xFFFF (s.sinceToken partition step) s
    else modPart partition (fun x => { x with rootFailed := x.rootFailed ||| (s.jobOf partition).mask lineage }) s)) s

/-! ## Peers and trailers (R283 to R286) -/

/-- The peer release is issued when every entry has been accepted, rejected or timed out (R285). -/
def checkRelease (p : Nat) (s : State) : State :=
  let x := s.partOf p
  match x.token with
  | none => s
  | some t =>
    if x.livePeers.isEmpty || x.release.isSome || !x.treeHas || x.livePeers.any fun e => e.verdict = 0 then s
    else
      let ok := x.peers.filter fun e => e.verdict = 1
      let mask := ((List.range x.peers.length).map fun n => if (x.peers.getD n {}).verdict = 1 then 2 ^ n else 0).sum
      let r : Token := { t with kind := 1, keptCount := t.keptCount + (ok.map (·.kept)).sum, peersIn := ok.length, peersMask := mask
                                time := s.hubRas (s.rootHub p) }
      send (.peerRelease p) (modPart p (fun y => { y with release := some r }) s)

/-- Tagged blocks of a step on a port, and whether one failed. -/
def Partition.seenOn (x : Partition) (step port : Nat) : Nat × Bool :=
  match x.linkSeen.find? fun e => e.1 = step && e.2.1 = port with
  | some e => e.2.2
  | none => (0, false)

/-- Why a trailer is rejected (Table 11.11), 0 accepted. -/
def trailerReason (j : Job) (e : Peer) (step : Nat) (seen : Nat × Bool) (t : Trailer) : Nat :=
  if !t.sealOk then 1
  else if t.tag.fmt != 7 || t.tag.spars != 0 || t.tag.handle != j.trailerHandle || t.tag.index != step % 2 ^ 24 ||
      t.tag.gen != step % 256 || t.step != step || t.jobId != j.jobId || t.moduleId != e.moduleId then 2
  else if 2 ≤ t.status then 3
  else if t.blocks != seen.1 then 4
  else if seen.2 then 5
  else 0

/-- One peer entry judges a trailer on one of its ports (R284). -/
def judgeEntry (p n : Nat) (t : Trailer) (s : State) : State :=
  let x := s.partOf p
  let e := x.peers.getD n {}
  let step := (x.token.map (·.step)).getD x.step
  if e.verdict != 0 then modPart p (fun y => { y with trailersDropped := y.trailersDropped + 1 }) s
  else
    let seen := x.seenOn step t.port
    let reason := trailerReason (s.jobOf p) e step seen t
    if reason = 0 then
      let got := e.got ||| 2 ^ t.port
      modPart p (fun y => { y with peers := y.peers.set n { e with got := got, kept := t.keptCount, verdict := if got = e.ports then 1 else 0 } }) s
    else
      record 0x1053 (le 8 step ++ le 2 e.moduleId ++ le 1 t.port ++ le 1 reason ++ le 4 seen.1)
        (modPart p (fun y => { y with peers := y.peers.set n { e with verdict := 2 } }) s)

/-- A trailer of the step whose token has been issued. -/
def judgeTrailer (p : Nat) (t : Trailer) (s : State) : State :=
  let ns := (List.range (s.partOf p).peers.length).filter fun n =>
    bitOf t.port ((s.partOf p).peers.getD n {}).ports && !((s.partOf p).peers.getD n {}).gone
  if ns.isEmpty then modPart p (fun y => { y with trailersDropped := y.trailersDropped + 1 }) s
  else checkRelease p (each ns (fun n s => judgeEntry p n t s) s)

/-- The earliest step whose token the tree does not hold yet. -/
def Partition.nextToken (x : Partition) : Nat :=
  match x.token with
  | some t => if x.treeHas then t.step + 1 else t.step
  | none => if x.boundary then x.step + 1 else x.step

/-- A trailer is what a peer sent for the step that it names: its seal holds, and its tag names that step. -/
def trailerSound (t : Trailer) : Bool := t.sealOk && t.tag.index == t.step % 2 ^ 24 && t.tag.gen == t.step % 256

/-- A trailer is judged against the token of a step: it names that step, or nothing that can be trusted. -/
def trailerFor (t : Trailer) (step : Nat) : Bool := t.step == step || !trailerSound t

/-- A trailer block as it is read (Table 11.9), with tests 1 and 2 of R94. -/
def trailerOf (port : Nat) (b : Block) : Trailer :=
  { port := port, sealOk := sealTest2 b == 0, tag := b.tag, step := field b.payload 0 8, jobId := BitVec.ofNat 64 (field b.payload 8 8)
    moduleId := field b.payload 16 2, status := field b.payload 19 1, keptCount := field b.payload 22 2, blocks := field b.payload 32 4
    peersIn := field b.payload 36 2 }

/-- TRAILER_RECEIVED (R284, R285): judged against the own token of its step, and one that names no step soundly against the token that its
port awaits (log entry 134); one for a step whose token is to come waits for it; any other is discarded and counted. -/
def execTrailerReceived (partition port : Nat) (block : Block) (s : State) : Result :=
  let t := trailerOf port block
  let x := s.partOf partition
  .next (if x.treeHas && x.token.any (fun k => trailerFor t k.step) then judgeTrailer partition t s
    else if s.hasJob partition && (!trailerSound t || x.nextToken ≤ t.step) then modPart partition (fun y => { y with early := y.early ++ [t] }) s
    else modPart partition (fun y => { y with trailersDropped := y.trailersDropped + 1 }) s)

/-- PEER_TIMEOUT (R285). -/
def execPeerTimeout (partition entry : Nat) (s : State) : Result :=
  let x := s.partOf partition
  let e := x.peers.getD entry {}
  .next (match x.token with
    | none => s
    | some t =>
      if !x.treeHas || x.peers.length ≤ entry || e.verdict != 0 || e.gone then s
      else
        let s := modPart partition (fun y => { y with peers := y.peers.set entry { e with verdict := 3 } }) s
        checkRelease partition (record 0x1054 (le 8 t.step ++ le 2 e.moduleId ++ le 2 0 ++ le 4 e.timeout) s))

/-- PEER_RELEASE at the commit ports. -/
def execPeerRelease (partition : Nat) (s : State) : Result :=
  arrive (.peerRelease partition) (fun s =>
    if (s.partOf partition).release.isSome then tryCommit partition (modPart partition (fun x => { x with releaseHas := true }) s) else s) s

/-! ## The token at hubs, tree and manager (R270, R271, R456) -/

/-- Watches end with their step: dropped matches of each sector are recorded (R456). -/
def endWatches (p step : Nat) (s : State) : State :=
  let x := s.partOf p
  let overflow (sec n : Nat) (s : State) : State :=
    let h := (s.server sec).getD sec
    let dropped := Sparse.get 0 (s.hubOf h).watchDrop (8 * sec + n)
    if dropped = 0 then s
    else
      hubEvent h 0xB002 (le 1 n ++ le 1 sec ++ le 2 0 ++ le 4 (min dropped (2 ^ 32 - 1)) ++ le 8 step)
        (modPart p (fun y => { y with watches := Sparse.upd {} y.watches n fun w => { w with dropped := w.dropped + dropped } })
          (modHub h (fun y => { y with watchDrop := Sparse.set 0 y.watchDrop (8 * sec + n) 0 }) s))
  let s := each (s.partSectors p) (fun sec s => each (List.range 8) (overflow sec) s) s
  let ended := (List.range 8).filter fun n => (Sparse.get {} x.watches n).armed &&
    (Sparse.get {} x.watches n).entry.toNat / 2 ^ 32 = step % 2 ^ 32
  let s := modPart p (fun y => { y with watches := ended.foldl (fun m n => Sparse.upd {} m n fun w => { w with armed := false }) y.watches }) s
  let clear (m : Sparse Nat) : Sparse Nat := ended.foldl (fun m n => Sparse.set 0 m (0x220 + 8 * n) 0) m
  each (s.partAllSites p) (fun x s => modSen x (fun y => { y with obs := clear y.obs, obsFront := clear y.obsFront }) s) s

/-- The tree takes a token that has arrived, when its step is the next to commit (R278): lineages that failed before are masked off, and
the trailers that waited for it are judged. -/
def takeToken (p : Nat) (s : State) : State :=
  let x := s.partOf p
  match x.token with
  | none => s
  | some t =>
    if x.treeHas || !t.arrived then s
    else
      let s := modPart p (fun y => { y with
        treeHas := true, treeKept := t.kept &&& (2 ^ 32 - 1 - Sparse.get 0 y.treeEarly t.step), treeEarly := Sparse.set 0 y.treeEarly t.step 0
        early := y.early.filter fun e => !trailerFor e t.step }) s
      each (x.early.filter fun e => trailerFor e t.step) (judgeTrailer p) s

/-- The first token that is still on its way has reached the hubs. -/
def tokenArrives (x : Partition) : Partition :=
  let mark (t : Token) : Token := { t with arrived := true }
  if x.token.any fun t => !t.arrived then { x with token := x.token.map mark }
  else { x with later := (x.later.takeWhile (·.arrived)) ++ ((x.later.dropWhile (·.arrived)).take 1).map mark ++
                          (x.later.dropWhile (·.arrived)).drop 1 }

/-- STEP_TOKEN (R270, R271, R275): SEN.VERDICT clears, the tree may begin, trailers that waited are judged, and the step
boundary follows. -/
def execStepToken (partition : Nat) (s : State) : Result :=
  arrive (.stepToken partition) (fun s =>
    match (s.partOf partition).tokens.find? fun t => !t.arrived with
    | none => s
    | some t =>
      let s := each (s.partSites partition) (fun y s => modSen y (fun z => { z with verdict := 0 }) s) s
      let s := endWatches partition t.step s
      startBoundary partition (takeToken partition (modPart partition tokenArrives s))) s

/-! ## The reduction tree (R277, R278, R309) -/

/-- A contributor fails at the tree's input: before the token its bit waits; afterwards the reduction restarts. -/
def dropContributor (p step mask : Nat) (s : State) : State :=
  let x := s.partOf p
  if x.treeHas && (x.token.map (·.step)) == some step then
    if x.treeKept &&& mask = 0 || x.finalKept.isSome then s
    else modPart p (fun y => { y with treeKept := y.treeKept &&& (2 ^ 32 - 1 - mask % 2 ^ 32), restarts := y.restarts + 1 }) s
  else modPart p (fun y => { y with treeEarly := Sparse.upd 0 y.treeEarly step fun m => m ||| mask % 2 ^ 32 }) s

/-- REDUCTION_INPUT_BLOCK (R278, R309): a block that fails its tests, or that carries POISON, clears its contributor. -/
def execReductionInputBlock (t : Transfer) (s : State) : Result :=
  let h := s.pointHub t
  let p := t.partition
  let test := sealTest t.block t.desc
  let tag := t.block.tag
  let s := modPart p (fun x => { x with treeIn := x.treeIn ++ [{ step := t.step, lineage := t.lineage, tag := tag }] }) s
  .next (if test = 0 && !tag.poison then s
    else
      let s := if test = 0 then
          hubEvent h 0x4005 (le 3 tag.handle ++ le 3 tag.index ++ le 1 t.lineage ++ le 1 p ++ le 8 t.step) s
        else exitEvent h test t (sealInfoOf t.block t.desc s.slot (s.pointOf t)) s
      if s.judges p then dropContributor p t.step ((s.jobOf p).mask t.lineage) s else s)

/-- REDUCTION_COMPARE_MISMATCH (R278): the first restarts the reduction. -/
def execReductionCompareMismatch (partition : Nat) (s : State) : Result :=
  let x := s.partOf partition
  .next (if !x.treeHas || x.finalKept.isSome || !s.judges partition then s
    else modPart partition (fun y => { y with
      mismatches := y.mismatches + 1, restarts := if y.mismatches = 0 then y.restarts + 1 else y.restarts }) s)

/-- The trailer of a step (Table 11.9) for one port, sealed (R283): its sum contains the peers that were accepted before the port's reduced
blocks were formed, or, of a port whose blocks no row has shown, those accepted by now; a FAILED step sends no sum. -/
def trailerBlock (p port : Nat) (s : State) (t : Token) (status kept blocks : Nat) : Block :=
  let x := s.partOf p
  let j := s.jobOf p
  let ok := x.peers.filter fun e => e.verdict = 1
  let ins : Nat × Nat := if status = 2 then (0, 0) else (Sparse.get none x.portPeers port).getD ((ok.map (·.kept)).sum, ok.length)
  let out := (x.livePeers.filter fun e => 2 ≤ e.verdict).length
  let digest := match x.digests.find? fun d => d.step + 1 = t.step && d.status = 0 with
    | some d => if t.step = j.firstStep then [] else d.digest
    | none => []
  let data := le 8 t.step ++ le 8 j.jobId.toNat ++ le 2 j.moduleId ++ le 1 p ++ le 1 status ++ le 1 j.lineages ++ le 1 0 ++
    le 2 (bits32 kept + ins.1) ++ le 4 kept ++ le 4 (j.all - kept) ++ le 4 blocks ++ le 2 ins.2 ++ le 2 out ++
    padTo 32 digest
  let tag : Tag := { handle := j.trailerHandle, index := t.step % 2 ^ 24, fmt := 7, gen := t.step % 256 }
  { payload := data, tag := { tag with crc := sealOf data tag } }

/-- Ports that carry a trailer: every port that carried reduced blocks, and every peer port of a FAILED step (R283). -/
def trailerPorts (x : Partition) (status : Nat) (blocks : List (Nat × Nat)) : List Nat :=
  (List.range 64).filter fun n => (blocks.any fun b => b.1 == n && b.2 != 0) || (status == 2 && x.livePeers.any fun e => bitOf n e.ports)

/-- Trailers go out; a FAILED step's say BLOCKS 0. -/
def sendTrailers (p : Nat) (t : Token) (status kept : Nat) (blocks : List (Nat × Nat)) (s : State) : State :=
  let count (n : Nat) : Nat := if status = 2 then 0 else ((blocks.find? fun b => b.1 = n).map (·.2)).getD 0
  let sent := (trailerPorts (s.partOf p) status blocks).map fun n => (n, trailerBlock p n s t status kept (count n))
  modPart p (fun x => { x with trailers := sent }) s

/-- FINAL_KEPT at the root hub (R278, R281): MIN_KEEP applied, the step verdict record written, trailers sent. -/
def execFinalKept (partition step : Nat) (kept : Word) (restarted failed : Bool) (blocks : List (Nat × Nat)) (s : State) : Result :=
  arrive (.finalKept partition step kept restarted failed blocks) (fun s =>
    let x := s.partOf partition
    let j := s.jobOf partition
    (match x.token with
    | none => s
    | some t =>
      if !x.treeHas || t.step != step || x.finalKept.isSome || x.state = 6 then s
      else
        let mask := kept.toNat &&& x.treeKept
        let status := if t.status = 2 || failed || 2 ≤ x.mismatches || x.exitFailed then 2 else statusKept j mask
        let mask := if status = 2 then 0 else mask
        let r : StepRec := { step := step, lineages := j.lineages, status := status, kept := mask, late := t.late
                             flags := t.flags ||| (2 * flag (!(trailerPorts x status blocks).isEmpty) + 4 * flag (restarted || x.restarts != 0))
                             tokenDelay := min (since t.time t.ended) (2 ^ 32 - 1), tokenTime := t.time }
        let s := putStepRec partition r s
        let s := modPart partition (fun y => { y with finalKept := some (status, mask, bits32 mask), finalAt := s.ras }) s
        tryCommit partition (sendTrailers partition t status mask blocks s))) s

end Sys2Proof.Machine
end

