-- ==== Sys2Proof/Machine/Stop.lean ====
section
/-!
DEFINITION. The global stop (R457 to R463) and scan-out (R464, R465).
-/
namespace Sys2Proof.Machine

/-! ## Halting (R458, R459) -/

/-- Response of a stop command (Table 20.15): STOP_AT_SLOT and STOP_NOW. -/
def stopResponse (op : Nat) (x : Stop) : List Byte :=
  if op = 0x0500 then le 8 x.sMin ++ le 1 (flag x.exact) ++ le 3 0 else le 8 x.sMin ++ le 8 x.sMax

/-- The commands of a stop complete with its outcome: PARTIAL for STOP_AT_SLOT when the cut is inexact. -/
def completeStop (x : Stop) (s : State) : State :=
  each x.seqs (fun q s =>
    let op := ((s.cmd q).getD {}).op
    complete q (if op = 0x0500 && !x.exact then 8 else 0) (stopResponse op x) s) s

/-- Takeovers whose fills the stop meets show it (Table 12.7). -/
def markStopped (p : Nat) (s : State) : State :=
  if (s.partOf p).swaps.any (·.filling) then
    modPart p (fun x => { x with swaps := x.swaps.map fun w => if w.filling then { w with flags := w.flags ||| 4 } else w }) s
  else s

/-- Every tile has halted and every SEN.STOP has been read: STOPPED, STOP_RESULT recorded, the commands complete. -/
def checkStopped (s : State) : State :=
  let x := s.stop
  if x.state != 1 || x.releasing || !x.waiting.isEmpty then s
  else
    let sMin := x.slots.foldl min (x.slots.headD s.slot)
    let sMax := x.slots.foldl max (x.slots.headD s.slot)
    let y : Stop := { x with state := 2, sMin := sMin, sMax := sMax, exact := sMin == sMax && x.late == 0, stoppedAt := s.ras }
    let s := each (List.range 16) markStopped s
    let s := record 0xB003 (le 1 y.kind ++ le 1 (flag y.exact) ++ le 2 y.late ++ le 8 (if y.kind = 0 then y.n else 0) ++
      le 8 sMin ++ le 8 sMax) (setStop ({ y with seqs := [] }) (setSlot sMin s))
    completeStop y s

/-- A tile halts with its slot counter at `n` (R326, R447, R458): a run of its hub is discarded (Table 9.6). -/
def haltSite (site n : Nat) (s : State) : State :=
  let s := discardRun (s.siteHub site) 2 s
  modStop (fun x => { x with waiting := x.waiting.filter (· != site), slots := x.slots ++ [n] })
    (modSen site (fun y => { y with halted := some n, stopSlot := n, stopped := true, stopAt := none, ticks := [] }) s)

/-- A predictive stop is under way. -/
def State.stopping (s : State) (kind : Nat) : Bool := s.stop.state == 1 && s.stop.kind == kind && !s.stop.releasing

/-- STOP_SLOT at a sentinel: loaded into the clock generator. One that receives N after slot N halts at once. -/
def execStopSlot (site : Nat) (n : Dword) (s : State) : Result :=
  arrive (.stopSlot site n) (fun s =>
    let now := s.slotAt site
    let s := respond site 1 3 [] s
    if !s.stopping 0 || !s.stop.waiting.contains site then s
    else if n.toNat < now then
      checkStopped (haltSite site now (modStop (fun x => { x with late := satAdd 65535 x.late 1 }) s))
    else modSen site (fun y => { y with stopAt := some n.toNat }) s) s

/-- STOP_SLOT_REACHED: the tile and its router have completed slot N - 1 and halt with the slot counter at N. -/
def execStopSlotReached (site : Nat) (s : State) : Result :=
  .next (match (s.senOf site).stopAt with
    | some n => if s.stopping 0 && s.stop.waiting.contains site then checkStopped (haltSite site n (setSlot n s)) else s
    | none => s)

/-- STOP_CODE_DECODED: an immediate stop's code has reached the generator, which halts with this slot counter value. -/
def execStopCodeDecoded (site : Nat) (slot : Dword) (s : State) : Result :=
  .next (if s.stopping 1 && s.stop.waiting.contains site then checkStopped (haltSite site slot.toNat s) else s)

/-! ## Requests (R458, R459, R443, R463) -/

/-- Edge die A drives the sync line. -/
def State.noSync (s : State) : Bool := !s.mgrA.running

/-- An immediate stop starts, or replaces the predictive stop that waits. -/
def stopImmediately (seqs : List Nat) (s : State) : State :=
  if s.stopping 1 then modStop (fun x => { x with seqs := x.seqs ++ seqs }) s
  else
    let live := s.liveSites.filter fun x => (s.senOf x).halted.isNone
    let s := each live (fun x s => modSen x (fun y => { y with stopAt := none }) s) s
    checkStopped (modStop (fun x => { x with state := 1, n := 0, kind := 1, waiting := live, seqs := x.seqs ++ seqs }) s)

/-- STOP_AT_SLOT. -/
def execStopAtSlot (seq : Nat) (s : State) : Result :=
  match s.begun seq 0x0500 with
  | none => .next s
  | some c =>
    let n := c.arg 0 8
    runCmd seq (statusOf (decide (n < s.slot / 8 * 8 + 4096)) s.noSync (decide (2 ≤ s.stop.state)) false false) (fun s =>
      if s.stop.state = 1 && !s.stop.releasing then modStop (fun x => { x with seqs := x.seqs ++ [seq] }) s
      else if s.blocked 2 3 0 || s.stop.releasing then waitFor 2 3 0 seq (.stopAtSlot seq) s
      else
        let live := s.liveSites
        let s := modStop (fun x => { x with state := 1, n := n, kind := 0, waiting := live, slots := [], late := 0, seqs := [seq] }) s
        checkStopped (sendAll (live.map fun x => .stopSlot x (BitVec.ofNat 64 n)) s)) s

/-- STOP_NOW. -/
def execStopNow (seq : Nat) (s : State) : Result :=
  match s.begun seq 0x0501 with
  | none => .next s
  | some _ =>
    runCmd seq (statusOf false s.noSync (decide (2 ≤ s.stop.state)) false false) (fun s =>
      if s.blocked 2 3 0 || s.stop.releasing then waitFor 2 3 0 seq (.stopNow seq) s else stopImmediately [seq] s) s

/-- A stop that a trace trigger asks for (R443). -/
def requestStop (site : Nat) (s : State) : State :=
  if s.noSync || 2 ≤ s.stop.state then s
  else if s.blocked 2 3 0 || s.stop.releasing then waitFor 2 3 0 0 (.stopRequest site) s
  else stopImmediately [] s

/-- STOP_REQUEST of a trace trigger at the active manager. -/
def execStopRequest (site : Nat) (s : State) : Result := arrive (.stopRequest site) (fun s => requestStop site (respond (mgrAddr s.active) 1 0xB [] s)) s

/-! ## Release (R461) -/

/-- STOP_RELEASE: accepted only in STOPPED. -/
def execStopRelease (seq : Nat) (s : State) : Result :=
  match s.begun seq 0x0502 with
  | none => .next s
  | some _ => runCmd seq (statusOf false s.noSync (s.stop.state != 2) false false) (releaseStop 0 [seq]) s

/-- STOP_RELEASE_MESSAGE: the generator loads its delay. -/
def execStopReleaseMessage (site : Nat) (sMin : Dword) (s : State) : Result :=
  arrive (.stopReleaseMessage site sMin) (fun s =>
    respond site 1 4 [] (modSen site (fun x => { x with releaseDelay := (x.halted.getD sMin.toNat) - sMin.toNat }) s)) s

/-- TILE_RESTART: the tile runs again; when every tile does, the wafer is RUNNING. -/
def execTileRestart (site : Nat) (s : State) : Result :=
  .next (if !s.stop.releasing || !s.stop.restarting.contains site then s
    else
      let s := modSen site (fun x => { x with halted := none, stopped := false, releaseDelay := 0 }) s
      let s := modStop (fun x => { x with restarting := x.restarting.filter (· != site) }) s
      if s.stop.restarting.isEmpty then finishRelease s else s)

/-! ## Scan-out (R464, R465, Table 18.18) -/

/-- Stride of a scan record. -/
def scanStride (sram : Bool) : Nat := if sram then 6389760 else 98304

/-- A scan record: its header, and the images unless the site did not answer. -/
def scanRecord (s : State) (id site : Nat) (absent sram : Bool) : List Byte :=
  let x := s.senOf site
  let flop := (Config.scanFlop id site).take 81920
  let router := (Config.scanRouter id site).take 16320
  let image := padTo 81920 flop ++ padTo 16320 router ++ (if sram then padTo 6291456 (Config.scanSram id site) else [])
  let zeros := List.replicate (scanStride sram - 64) 0
  let flags := flag absent + 2 * flag sram + 4 * flag (s.clockBefore site) + 8 * flag (sram && Config.scanBad id site)
  le 2 site ++ le 2 (s.tileAt site) ++
    (if absent then le 1 (1 + 2 * flag sram) ++ le 1 Config.sentinelStepping.toNat ++ List.replicate 18 0 ++ le 8 id ++
        le 8 (crc64 zeros).toNat ++ List.replicate 24 0 ++ zeros
     else le 1 flags ++ le 1 Config.sentinelStepping.toNat ++ le 2 (x.stopSlot - s.stop.sMin) ++ le 8 x.stopSlot ++
        le 4 flop.length ++ le 4 router.length ++ le 8 id ++ le 8 (crc64 image).toNat ++ List.replicate 24 0 ++ image)

/-- Repeats in progress and waiting end as operands unavailable. -/
def endAllRepeats (s : State) : State :=
  let sites := s.hubs.flatMap fun h => (match (s.hubOf h).job with | some j => [j.req.site] | none => []) ++ (s.hubOf h).repeats.map (·.site)
  each sites.eraseDups endRepeats s

/-- A takeover fill is in progress. -/
def State.someFill (s : State) : Bool := (List.range 16).any fun p => (s.partOf p).swaps.any (·.filling)

/-- SCAN_OUT: `absent` names the sites that do not answer, `time` is the scan's length in ms. It waits for takeover fills, at most 5 ms
(`expired`). -/
def execScanOut (seq : Nat) (absent : List Nat) (time : Nat) (expired : Bool) (s : State) : Result :=
  match s.begun seq 0x0503 with
  | none => .next s
  | some c =>
    let base := c.arg 8 8
    let sram := bitOf 0 (c.arg 0 1)
    let bad : Bool := 1 < c.arg 0 1 || c.arg 1 7 != 0 || base % 4096 != 0 || tier2Space < base + 840 * scanStride sram
    let status := statusOf bad (s.image.grade == 2) (s.stop.state != 2 || s.stop.releasing) false false
    if status = 0 && s.someFill && !expired then .next s
    else runCmd seq status (fun s =>
      let s := endAllRepeats s
      let id := s.scanId + 1
      let sites := s.sectors.flatMap sitesOfSector
      let gone (x : Nat) : Bool := absent.contains x || (s.senOf x).silent
      let missing := (sites.filter gone).length
      let put (x : Nat) (t : State) : State :=
        let at_ := tier2Addr (regionOf (sectorOf x)) (base + (sectorOf x % 5 * 168 + x % 168) * scanStride sram)
        setDram (Memory.write 0 t.dram at_ (scanRecord s id x (gone x) sram)) t
      let s := each sites put (setScanId id s)
      let s := modStop (fun x => { x with state := 3 }) s
      let s := record 0xB005 (le 1 (flag sram) ++ le 1 0 ++ le 2 missing ++ le 8 id ++ le 4 time) s
      complete seq (if missing = 0 then 0 else 8) (le 8 id ++ le 2 missing ++ le 2 0 ++ le 4 time) s) s

end Sys2Proof.Machine
end

