-- ==== Sys2Proof/Machine/Commit.lean ====
section
/-!
DEFINITION. The commit of a step and what follows it: partner copies and tier-2 copies (R293 to R297), and the per-step
digest (R475 to R482).
-/
namespace Sys2Proof.Machine

/-! ## Partner copies (R293 to R295) -/

/-- The blocks that a commit has written are marked at the owner's sentinel; no row shows what it wrote. -/
def markBlocks (size : Nat) (idx : List Nat) (x : Sentinel) : Sentinel :=
  { x with marks := x.marks ++ ((idx.filter fun n => n < residentBlocks size && !x.marks.contains n).eraseDups)
           resident := x.resident.filter fun e => !idx.contains e.1 }

/-- One owner's copy begins: its marked blocks, or every block when the holder's mirror is INVALID. -/
def startCopy (p st size tile : Nat) (s : State) : State :=
  match s.siteOf tile, s.siteOf (s.holderOf p tile) with
  | some o, some h =>
    if s.cannotCopy (some o) || s.cannotCopy (some h) then s
    else
      let blocks := if (s.senOf h).mirrorState = 0 then List.range (residentBlocks size) else (s.senOf o).marks
      if blocks.isEmpty then s
      else
        let s := modSen o (fun x => { x with marks := blocks }) s
        let s := modSen h (fun x => { x with mirrorState := 2, mirrorStep := st }) s
        modPart p (fun x => { x with copying := x.copying ++ [tile] }) s
  | _, _ => s

/-- After commit-done of step `st`, every owner of the partition marks what was written and copies it to its holder. -/
def startCopies (p st : Nat) (written : List (Nat × List Nat)) (s : State) : State :=
  let size := (s.jobOf p).residentSize
  if size = 0 then s
  else
    let tiles := (s.partSites p).map s.tileAt
    let s := each (written.filter fun w => tiles.contains w.1) (fun w s => match s.siteOf w.1 with
      | some o => modSen o (markBlocks size w.2) s
      | none => s) s
    each tiles (startCopy p st size) s

/-! ## The tier-2 copy (R296, R297) -/

/-- Regions of a partition that have a present sector. -/
def State.partRegions (s : State) (p : Nat) : List Nat := ((s.partSectors p).map regionOf).eraseDups

/-- Tiles of a region whose owner can write its copy. -/
def State.regionTiles (s : State) (p region : Nat) : Nat :=
  ((s.partSites p).filter fun x => regionOf (s.homeSector (s.tileAt x)) == region && !s.cannotCopy (some x)).length

/-- The header block of a tier-2 slot (Table 12.3). -/
def tier2Header (p slot step state tiles : Nat) (j : Job) : Block :=
  let data := le 8 step ++ le 8 j.jobId.toNat ++ le 1 state ++ le 1 j.residentSize ++ le 1 p ++ le 1 0 ++ le 2 tiles
  let tag : Tag := { handle := 0xFFFF10, index := slot, fmt := 7 }
  { payload := data, tag := { tag with crc := sealOf data tag } }

/-- A region's header is written in its tier-2 space. -/
def putHeader (p slot step state region : Nat) (s : State) : State :=
  let j := s.jobOf p
  let tiles := if state = 2 then s.regionTiles p region else 0
  let addr := j.tier2Base + slot * (8192 + 780 * residentBytes j.residentSize)
  (setDram (Memory.write 0 s.dram (tier2Addr region addr) (blockBytes (tier2Header p slot step state tiles j))) s)

/-- The slot that does not hold the latest valid copy. -/
def freeTier2 (xs : List Tier2Slot) : Nat :=
  match latestSlot xs with
  | none => 0
  | some t => if xs.head? = some t then 1 else 0

/-- After the commit of a step that is a multiple of K every region begins its tier-2 copy. -/
def startTier2 (p st : Nat) (s : State) : State :=
  let j := s.jobOf p
  if j.residentSize = 0 || j.tier2Interval = 0 || st % j.tier2Interval != 0 then s
  else
    let slot := freeTier2 (s.partOf p).tier2
    let regions := s.partRegions p
    each regions (putHeader p slot st 1) (modPart p (fun x => { x with
      tier2 := x.tier2.set slot { step := st, state := 1 }, tier2Busy := some slot, tier2Left := regions, tier2Held := none }) s)

/-- Where a tile's copy lies in a slot (R297). -/
def tier2Tile (j : Job) (slot sector tile : Nat) : Nat :=
  j.tier2Base + slot * (8192 + 780 * residentBytes j.residentSize) + 8192 + (sector % 5 * 156 + tile % 156) * residentBytes j.residentSize

/-- The resident blocks of a region's owners that are known are in its tier-2 slot (R296, R297; log entry 137). -/
def copyTier2 (p slot region : Nat) (s : State) : State :=
  let j := s.jobOf p
  let owners := (s.partSites p).filter fun x => regionOf (s.homeSector (s.tileAt x)) == region && !s.cannotCopy (some x)
  each owners (fun x s =>
    let at_ := tier2Tile j slot (s.homeSector (s.tileAt x)) (s.tileAt x)
    each (s.senOf x).resident (fun e s =>
      setDram (Memory.write 0 s.dram (tier2Addr region (at_ + 4624 * e.1)) (blockBytes e.2)) s) s) s

/-- TIER2_COPY_COMPLETE: a region's copy is complete; with the last one the slot is valid, TIER2_COPY is recorded with the
hold of the next commit, and that commit goes on. -/
def execTier2CopyComplete (partition region : Nat) (s : State) : Result :=
  let x := s.partOf partition
  .next (match x.tier2Busy with
    | none => s
    | some slot =>
      if !x.tier2Left.contains region then s
      else
        let t := x.tier2.getD slot {}
        let n := s.regionTiles partition region
        let left := x.tier2Left.filter (· != region)
        let s := putHeader partition slot t.step 2 region (copyTier2 partition slot region s)
        let s := modPart partition (fun y => { y with
          tier2Left := left
          tier2 := y.tier2.set slot { t with tiles := t.tiles + n, state := if left.isEmpty then 2 else 1 }
          tier2Busy := if left.isEmpty then none else some slot
          tier2Held := if left.isEmpty then none else y.tier2Held }) s
        if !left.isEmpty then s
        else
          let hold := match x.tier2Held with
            | some t0 => s.ticksSince t0
            | none => 0
          tryCommit partition (record 0x9004 (le 1 partition ++ le 1 slot ++ le 2 0 ++ le 8 t.step ++ le 4 hold) s))

/-! ## The digest (R475 to R482) -/

/-- The ordering key of an entry (R476), as one number. -/
def digestKey (t : Tag) : Nat :=
  (((t.handle % 2 ^ 24 * 2 ^ 24 + t.index % 2 ^ 24) * 256 + t.gen % 256) * 256 + Tag.fmtFlags t % 256) * 2 ^ 64 + t.crc.toNat

/-- Entries in ascending order, equal ones once. -/
def insertByIndex (t : Tag) : List Tag → List Tag
  | [] => [t]
  | u :: us => if digestKey t < digestKey u then t :: u :: us else if digestKey t = digestKey u then u :: us else u :: insertByIndex t us

def sortTags (xs : List Tag) : List Tag := xs.foldr insertByIndex []

/-- The 16 bytes of an entry (R476). -/
def tagEntry (t : Tag) : List Byte := Tag.bytes8 t ++ le 8 t.crc.toNat

/-- The bytes that the digest of a step hashes (R477). -/
def digestMessage (program : List Byte) (step : Nat) (ins outs : List Tag) : List Byte :=
  [5] ++ padTo 32 program ++ le 8 step ++ le 8 ins.length ++ ins.flatMap tagEntry ++ le 8 outs.length ++ outs.flatMap tagEntry

/-- The digest record of a step (Table 19.3): no digest where entries were lost. -/
def digestRecord (d : DigestSet) : DigestRec :=
  let ins := sortTags d.ins
  let outs := sortTags d.outs
  if d.lost = 0 then
    { step := d.step, status := 0, nIn := ins.length, nOut := outs.length, digest := sha256 (digestMessage d.program d.step ins outs) }
  else { step := d.step, status := 1, lost := min d.lost (2 ^ 32 - 1), nIn := ins.length, nOut := outs.length }

/-- A digest record enters the ring of 256 and the journal (R480). -/
def putDigest (p : Nat) (r : DigestRec) (s : State) : State :=
  journalize 3 p r.status 0 0 0 (modPart p (fun x => { x with digests := ringLast 256 (x.digests ++ [r]) }) s)

/-- A hub's entries of a step, its last run written, as it streams them (R478). -/
def State.hubEntries (s : State) (h p step : Nat) : HubDigest :=
  match (s.hubOf h).digests.find? fun d => d.part = p && d.step = step with
  | some d => closeRun (s.digestRoom h p step) d
  | none => {}

/-- Each hub of the partition merges its runs of the step and streams them to the active manager. -/
def streamDigest (p step : Nat) (program : List Byte) (s : State) : State :=
  let hubs := s.partHubs p
  let s := modPart p (fun x => { x with digestBusy := some { step := step, program := program, waiting := hubs } }) s
  each hubs (fun h s =>
    let d := s.hubEntries h p step
    send (.digestRun h p d.ins d.outs d.lost)
      (modHub h (fun y => { y with digests := y.digests.filter fun d => !(d.part = p && d.step = step) }) s)) s

/-- The digest of a step begins at its commit-done, or waits for the one in progress (R478, R479). -/
def startDigest (p step : Nat) (s : State) : State :=
  if (s.jobOf p).digestSize = 0 then putDigest p { step := step, status := 2 } s
  else if (s.partOf p).digestBusy.isSome then modPart p (fun x => { x with digestNext := x.digestNext ++ [(step, (s.jobOf p).programDigest)] }) s
  else streamDigest p step (s.jobOf p).programDigest s

/-- A hub's stream merged into the digest in progress. -/
def mergeRun (hub : Nat) (inputs outputs : List Tag) (lost : Nat) (d : DigestSet) : DigestSet :=
  if d.waiting.contains hub then
    { d with waiting := d.waiting.filter (· != hub), ins := d.ins ++ inputs, outs := d.outs ++ outputs, lost := d.lost + lost }
  else d

/-- DIGEST_RUN: the active manager merges a hub's stream. -/
def execDigestRun (hub partition : Nat) (inputs outputs : List Tag) (lost : Nat) (s : State) : Result :=
  arrive (.digestRun hub partition inputs outputs lost) (fun s =>
    (modPart partition (fun x => { x with digestBusy := x.digestBusy.map (mergeRun hub inputs outputs lost) }) s)) s

/-- DIGEST_COMPLETE: the merged entries are hashed and the record is written; the digest that waits begins (R479). -/
def execDigestComplete (partition : Nat) (s : State) : Result :=
  let x := s.partOf partition
  .next (match x.digestBusy with
    | none => s
    | some d =>
      if !d.waiting.isEmpty then s
      else
        let s := putDigest partition (digestRecord d) (modPart partition (fun y => { y with
          digestBusy := none, digestNext := y.digestNext.drop 1 }) s)
        match x.digestNext with
        | [] => s
        | n :: _ => streamDigest partition n.1 n.2 s)

/-! ## Commit-done (R277, R293, R340) -/

/-- What a partition holds of the committed step is cleared; what it holds of a later one stays. -/
def closeStep (st : Nat) (x : Partition) : Partition :=
  { x with
    token := x.later.head?, later := x.later.drop 1, release := none, committing := false, committed := false, treeHas := false, releaseHas := false
    finalKept := none, treeKept := 0, restarts := 0, mismatches := 0, exitFailed := false
    tier2Held := none, peers := x.peers.map fun e => { e with got := 0, verdict := 0, kept := 0 }
    portPeers := [], treeEarly := x.treeEarly.filter (st < ·.1), treeIn := x.treeIn.filter (st < ·.step), linkSeen := x.linkSeen.filter fun e => st < e.1, early := x.early.filter fun e => st < e.step }

/-- The blocks that left the reduction tree's output in the step: sealed there (Table 4.2), and entries of the step's digest (R475),
booked at the root hub (log entry 133). -/
def sealReduced (p step : Nat) (reduced : List (Desc × List Byte)) (s : State) : State :=
  each reduced (fun b s =>
    let t : Transfer := { partition := p, step := step, desc := b.1, block := { payload := b.2 }, reduced := true }
    let tag := reducedTag (s.partOf p) t
    digestEntry (s.rootHub p) true t tag (modPart p (fun x => { x with treeTag := tag }) s)) s

/-- COMMIT_DONE of the step whose commit the tree writes: the copies and the digest of the step begin, a fence that waited
goes on, and the tree takes the token of the next step. With STATUS FAILED or a divisor of zero the tree has
written nothing (R277). -/
def execCommitDone (partition : Nat) (written : List (Nat × List Nat)) (reduced : List (Desc × List Byte)) (s : State) : Result :=
  let x := s.partOf partition
  .next (match x.token with
    | none => s
    | some t =>
      if !x.committing then s
      else
        let update : Bool := x.divisor != 0 && (match x.finalKept with
          | some k => k.1 != 2
          | none => false)
        let s := modPart partition (closeStep t.step) (if update then sealReduced partition t.step reduced s else s)
        let s := startCopies partition t.step (if update then written else []) s
        let s := startTier2 partition t.step s
        let s := startDigest partition t.step s
        match x.fence with
        | some f => if f.commitWait then issueFence partition (abortSteps partition (x.state == 6) s) else s
        | none => checkBoundary partition (tryFills partition (takeToken partition s)))

/-- MIRROR_BLOCK_RECEIVED: the holder applies tests 1 and 2 of R94 and writes the block into its mirror region; a failing one leaves the
mirror INVALID and COPY_FAILED is recorded. The owner's mark of the block is cleared. -/
def execMirrorBlockReceived (owner index : Nat) (block : Block) (markedFailed : Bool) (s : State) : Result :=
  let p := s.tilePart owner
  .next (match s.siteOf owner, s.siteOf (s.holderOf p owner) with
    | some o, some h =>
      if !(s.partOf p).copying.contains owner then s
      else
        let test := if markedFailed then 2 else sealTest2 block
        let s := modSen o (fun x => { x with marks := x.marks.filter (· != index) }) s
        if test = 0 then
          modSen h (fun x => { x with mirrorBlocks := Sparse.set {} x.mirrorBlocks index block })
            (modSen o (fun x => { x with resident := Sparse.set {} x.resident index block }) s)
        else
          senEvent h 0x9005 (le 2 owner ++ le 1 index ++ le 1 test ++ le 8 (s.senOf h).mirrorStep)
            (modSen h (fun x => { x with mirrorState := 0 }) s)
    | _, _ => s)

/-- PARTNER_COPY_COMPLETE: the last block has been written; the mirror is VALID unless a block failed. The commit that
waited for the copy, and a fill, go on. -/
def execPartnerCopyComplete (owner : Nat) (s : State) : Result :=
  let p := s.tilePart owner
  .next (if !(s.partOf p).copying.contains owner then s
    else
      let s := modPart p (fun x => { x with copying := x.copying.filter (· != owner) }) s
      let s := match s.siteOf owner, s.siteOf (s.holderOf p owner) with
        | some o, some h => modSen o (fun x => { x with marks := [] })
            (modSen h (fun x => { x with mirrorState := if x.mirrorState = 2 then 1 else x.mirrorState }) s)
        | _, _ => s
      checkBoundary p (tryFills p (tryCommit p s)))

end Sys2Proof.Machine
end

