-- ==== Sys2Proof/Machine/Screening.lean ====
section
/-!
DEFINITION. Screening commands (chapter 9, R210, R211, R252): windows, spare and deep screens, the voltage port, heating,
run results, and the end of a clean period.
-/
namespace Sys2Proof.Machine

/-! ## What is due (R234, R236, R253) -/

/-- A screen is due: SCREEN_INTERVAL since the last passed one, an eighth of it under suspicion. -/
def State.screenDue (s : State) (site : Nat) : Bool :=
  let r := s.siteRec site
  let span := if r.condition = 0 then s.image.policy.screenInterval else s.image.policy.screenInterval / 8
  (r.state = 3 || r.state = 4 || ((r.state = 8 || r.state = 5) && !r.lost)) &&
    (r.lastScreenPass == 0 || span ≤ s.secs - r.lastScreenPass)

/-- KIND of the screen that a window gives a site: requested, watch, routine; none when nothing is due. -/
def State.windowKind (s : State) (site : Nat) : Option Nat :=
  if (Sparse.get none s.screens site).isSome then none
  else if s.screenReqs.any (fun x => x.1 = site) then some 2
  else if !s.screenDue site then none
  else if (s.siteRec site).condition = 0 then some 0 else some 1

/-- At a window's start a hub plans its pass: requested screens, those of WATCH and HEALTHY sites that are due, and the
screens that still need points (R234). -/
def planPass (p h : Nat) (s : State) : State :=
  let mine := (s.hubPartSites h p).filter fun x => !s.blocked 4 0 x
  let begin_ := mine.filterMap fun x => (s.windowKind x).map fun k => (x, k)
  let s := each begin_ (fun x s =>
    newScreen x.1 { kind := x.2 } (setScreenReqs (s.screenReqs.filter fun q => q.1 != x.1) s)) s
  let deep := (s.partAllSites p).filter fun x => s.siteHub x = h && ((s.siteRec x).state = 6 || ((s.siteRec x).state = 1 &&
    (s.siteRec x).deepPending))
  let s := each deep startDeep s
  let order (k : Nat) : List Nat := (begin_.filter fun x => x.2 = k).map (·.1)
  let going := s.screens.keys.filter fun x => s.siteHub x = h && s.sitePart x = p
  joinPass h (order 2 ++ order 1 ++ order 0 ++ going) s

/-- First slot of the window in which the slot counter stands (R229): WINDOW_OFFSET + k × WINDOW_PERIOD. -/
def State.windowStart (s : State) (p : Nat) : Option Nat :=
  let j := s.jobOf p
  let past := s.slot - j.windowOffset
  if j.windowPeriod = 0 || s.slot < j.windowOffset || j.windowLength ≤ past % j.windowPeriod then none
  else some (s.slot - past % j.windowPeriod)

/-- SCREENING_WINDOW_START (R229, R234): the window of the descriptor opens, once, and every hub of the partition plans. -/
def execScreeningWindowStart (partition : Nat) (s : State) : Result :=
  let x := s.partOf partition
  .next (match s.windowStart partition with
    | none => s
    | some a =>
      if x.state != 2 || x.windowAt = some a then s
      else each (s.partHubs partition) (planPass partition) (modPart partition (fun y => { y with windowAt := some a, breach := false }) s))

/-- SPARE_SCREEN_START (R237, R242, R500): a free spare, at most once per SPARE_GAP, or a site whose screen or deep screen was asked; a
screen that a pass has left goes on. -/
def execSpareScreenStart (site : Nat) (heaters : Bool) (s : State) : Result :=
  let r := s.siteRec site
  let h := s.siteHub site
  let asked := s.screenReqs.find? fun x => x.1 = site
  let last := Sparse.get 0 s.spareAt site
  let gap : Bool := r.state == 1 && last != 0 && s.secs + 1 < last + s.image.policy.spareGap
  let mark (s : State) : State := if r.state = 1 then setSpareAt (Sparse.set 0 s.spareAt site (s.secs + 1)) s else s
  .next (if (Sparse.get none s.screens site).isSome then
      (if s.blocked 4 0 site || s.nearLimit (sectorOf site) then s else joinPass h [site] s)
    else if s.nearLimit (sectorOf site) || s.blocked 4 0 site ||
      s.breached (s.sitePart site) then s
    else
      let byCommand : Bool := asked.any fun x => x.2 == 0
      if byCommand && (r.state = 1 || r.state = 6) then
        if gap then s
        else joinPass h [site] (newScreen site { kind := 2, inert := true }
          (mark (setScreenReqs (s.screenReqs.filter fun x => x.1 != site) s)))
      else if r.state = 6 || (r.state = 1 && r.deepPending) then startDeep site s
      else if r.state != 1 || gap then s
      else if asked.isSome then
        joinPass h [site] (newScreen site { kind := 2, noHeat := !heaters } (mark (setScreenReqs (s.screenReqs.filter fun x => x.1 != site) s)))
      else joinPass h [site] (newScreen site { kind := 4, noHeat := !heaters } (mark s)))

/-- DEEP_SCREEN_START (R219): 1 ms after the quarantine the deep screen waits for no repeat any more; its tile reset ends the repeats of
the site. A rotated-out site's goes on waiting: the repeats of a tile that has moved complete where they are. -/
def execDeepScreenStart (site : Nat) (s : State) : Result :=
  .next (if (s.siteRec site).state = 6 then forceDeep site s else startDeep site s)

/-! ## At the sentinels (R223, R224) -/

/-- SCREEN_RUN: the stress point is set and the run starts, at one site or at the group of a sector under test. -/
def execScreenRun (site sector point recipe : Nat) (epoch : Dword) (s : State) : Result :=
  arrive (.screenRun site sector point recipe epoch) (fun s =>
  let sites := if site = 0xFFFF then
      (match (s.hubOf ((s.server sector).getD sector)).pass with
        | some x => x.testing.filter fun y => sectorOf y = sector
        | none => [])
    else [site]
  (each sites (fun y s => respond y 1 8 [] (modSen y (fun x => { x with
    run := some (point, recipe, epoch), runFailed := false, runSeals := false, heater := false, duty := 0, freqStep := if 1 ≤ point && point ≤ 4 then point else 0 }) s)) s)) s

/-- CONTENT: the sites under test of a sector write a block into their test areas. -/
def execContent (sector offset : Nat) (bytes : List Byte) (s : State) : Result :=
  let s := receive (.content sector offset bytes) s
  let sites := match (s.hubOf ((s.server sector).getD sector)).pass with
    | some x => x.testing.filter fun y => sectorOf y = sector
    | none => []
  .next (each sites.eraseDups (fun y s => modSen y (fun x => { x with test := Memory.write 0 x.test offset bytes }) s) s)

/-! ## Voltage and heat (R242, R245) -/

/-- VMARGIN_ACK: the regulator has settled; the run that waited for it is set up. -/
def execVmarginAck (sector : Nat) (s : State) : Result :=
  let y := s.hubOf sector
  .next (if !y.vmReq then s
    else
      let s := modHub sector (fun y => { y with vmStep := y.vmWant, vmReq := false }) s
      match y.pass with
      | some x => if x.stage = 1 then setUpRun sector x.point x.phase x.epoch x.testing x s else s
      | none => s)

/-- VMARGIN_KEEPALIVE_TIMER: HUB_VMARGIN_ALIVE toggles. -/
def execVmarginKeepaliveTimer (sector : Nat) (s : State) : Result :=
  .next (if !s.present sector || (s.hubOf sector).failed then s else modHub sector (fun y => { y with vmAlive := !y.vmAlive }) s)

/-- HEATING_TIMEOUT: the phase is not measured, and the temperature axis of its sites ends. -/
def execHeatingTimeout (sector : Nat) (s : State) : Result :=
  let h := (s.server sector).getD sector
  .next (match (s.hubOf h).pass with
    | none => s
    | some x =>
      if x.stage != 2 then s
      else
        let s := endHeat h (modHub h (fun y => { y with pass := some { sites := x.sites } }) s)
        let s := setScreens (x.testing.foldl (fun m site =>
          Sparse.upd none m site fun c => c.map fun c => { c with point := 10, mT := 7 }) s.screens) s
        nextRun h (each x.testing (fun site s => finishScreen site 0 s) s))

/-- STAGE_ZERO_HOLD (R243): stage 0 has held for 10 ms; runs may start. -/
def execStageZeroHold (s : State) : Result :=
  .next (if s.throttle.stage != 0 then s
    else resumePasses (modThrottle (fun x => { x with screensAllowed := true }) s))

/-! ## Run results (R204, R211, R226, R227) -/

/-- Sites of a recipe's rows that produced a signature with passing checks. -/
def sigSites (rows : List RunRow) (sig : Dword) : List Nat := (rows.filter fun r => r.passed && r.sig = sig).map (·.site)

/-- The reference signature of a recipe at N (R226): three sites, one of them a reference; that of the most sites. -/
def refSignature (s : State) (rows : List RunRow) : Option Dword :=
  let sigs := (rows.map (·.sig)).eraseDups.filter fun g =>
    3 ≤ (sigSites rows g).length && (sigSites rows g).any s.isReference
  sigs.foldl (fun b g => match b with
    | none => some g
    | some k => if (sigSites rows k).length < (sigSites rows g).length then some g else some k) none

/-- Sites that dissent in a cross-check of a recipe (Table 8.4): those whose checks fail, whatever their signature, and the one whose
signature differs from two equal ones; where all three differ, or the engine is the reference, those that differ from the
engine. -/
def mirrorDissent (rows : List RunRow) : List Nat :=
  let odd := rows.filter fun r => (rows.filter fun q => q.sig = r.sig).length = 1
  let out (r : RunRow) : Bool := !r.passed || (if rows.length = 3 && odd.length ≤ 1 then odd.contains r else
    (rows.length < 3 || odd.length = 3) && !r.agrees)
  (rows.filter out).map (·.site)

/-- A nominal run is a cross-check as well (R211; log entry 60): of three sites with one reference among them, or of two candidates
in a sector that has no reference. -/
def State.crossCheck (s : State) (rows : List RunRow) : Bool :=
  let sector := sectorOf ((rows.headD {}).site)
  let refs := (rows.filter fun r => s.isReference r.site).length
  (rows.length = 3 && refs = 1) ||
    (rows.length = 2 && !s.health.any fun x => sectorOf x.1 == sector && s.isReference x.1)

/-- Sites that fail a recipe of the nominal run (R226, R227), and the reference signature: without one each site is checked against
the engine. -/
def judgeNominal (s : State) (rows : List RunRow) : List Nat × Option Dword :=
  let dissent := if s.crossCheck rows then mirrorDissent rows else []
  let ref := refSignature s rows
  let bad (r : RunRow) : Bool := !r.passed || (match ref with | some g => r.sig != g | none => !r.agrees)
  ((rows.filter fun r => bad r || dissent.contains r.site).map (·.site), ref)

/-- A site fails a recipe at a stressed point: its checks, or the reference of its N run; without one, the engine. -/
def failsStressed (s : State) (r : RunRow) : Bool :=
  let c := (Sparse.get none s.screens r.site).getD {}
  !r.passed || (match c.refs.find? fun x => x.1 = r.recipe with
    | some x => x.2 != r.sig
    | none => !r.agrees)

/-- MIRROR_RESULT (Table 8.11) of a cross-check with a dissent: the candidates, then the reference or the engine. -/
def mirrorResult (h recipe : Nat) (epoch : Dword) (rows : List RunRow) (s : State) : State :=
  let dissent := mirrorDissent rows
  if !s.crossCheck rows || dissent.isEmpty then s
  else
    let ref := rows.find? fun r => s.isReference r.site
    let cands := rows.filter fun r => some r != ref
    let order := cands.take 2 ++ ref.toList
    let row (k : Nat) : Option RunRow := if k < 2 then cands[k]? else ref
    let site (k : Nat) : Nat := ((row k).map (·.site)).getD 0xFFFF
    let mask := ((List.range 3).map fun k => if order.length ≤ k && k < 2 then 0 else if dissent.contains (site k) then 2 ^ k else 0).sum
    let sig (k : Nat) : Nat := ((row k).map (·.sig.toNat)).getD 0
    hubEvent h 0x2010 (le 2 (site 0) ++ le 2 (site 1) ++ le 2 (site 2) ++ le 1 mask ++ le 1 recipe ++ le 2 0 ++
      le 8 epoch.toNat ++ le 8 (sig 0) ++ le 8 (sig 1) ++ le 8 (sig 2)) s

/-- A screen after its N run. -/
def nominalDone (failRecipes : Nat) (refs : List (Nat × Dword)) (c : Screen) : Screen :=
  { c with nDone := failRecipes == 0, failRecipes := failRecipes, refs := refs, point := if failRecipes = 0 then 1 else 0 }

/-- First point of the axis after a point's own, and the axis's first point. -/
def axisEnd (point : Nat) : Nat := if point ≤ 4 then 5 else if point ≤ 7 then 8 else 10
def axisStart (point : Nat) : Nat := if point ≤ 4 then 1 else if point ≤ 7 then 5 else 8

/-- A screen after a run at a stressed point: the margin counts the steps passed; a failed step ends the axis. -/
def stressDone (point : Nat) (pass : Bool) (c : Screen) : Screen :=
  let m := point - axisStart point + flag pass
  let c := if point ≤ 4 then { c with mF := m } else if point ≤ 7 then { c with mV := m } else { c with mT := m }
  { c with point := if pass then point + 1 else axisEnd point }

/-- A run has computed every recipe: the screen of each site that has reported all of them advances, and those with no point left, or a
failed N run, end. A site that stopped answering neither passes nor fails. A reference that dissents has failed a screen (R211). -/
def concludeRun (h : Nat) (x : Pass) (s : State) : State :=
  let rowsOf (n : Nat) : List RunRow := x.rows.filter fun r => r.recipe = n
  let judged := (List.range 8).map fun n => if x.point = 0 then judgeNominal s (rowsOf n)
    else (((rowsOf n).filter (failsStressed s)).map (·.site), none)
  let fails (site : Nat) : Nat := ((List.range 8).map fun n => if (judged.getD n ([], none)).1.contains site then 2 ^ n else 0).sum
  let refs : List (Nat × Dword) := (List.range 8).filterMap fun n => (judged.getD n ([], none)).2.map fun g => (n, g)
  let checks := if x.point = 0 then ((List.range 8).filter fun n => s.crossCheck (rowsOf n)).length else 0
  let s := countHub h 29 checks s
  let s := if x.point != 0 then s
    else each (List.range 8) (fun n s => mirrorResult h n x.epoch (rowsOf n) s) s
  let s := each x.testing endRun (endHeat h (modHub h (fun y => { y with pass := some { sites := x.sites } }) s))
  let told := x.testing.filter fun site => (List.range 8).all fun n => (rowsOf n).any fun r => r.site = site
  let s := setScreens (told.foldl (fun m site => Sparse.upd none m site fun c => c.map
    (if x.point = 0 then nominalDone (fails site) refs else stressDone x.point (fails site == 0))) s.screens) s
  let s := each told (fun site s => match Sparse.get none s.screens site with
    | none => if x.point = 0 && fails site != 0 then charge site 5 0 false s else s
    | some c => if c.failRecipes != 0 then finishScreen site 1 s else if c.point = 10 then finishScreen site 0 s else s) s
  nextRun h s

/-- The run goes on once every site under test has reported the recipe: with the next one, or to its conclusion. -/
def advanceRun (h : Nat) (s : State) : State :=
  match (s.hubOf h).pass with
  | none => s
  | some x =>
    if x.stage = 0 then s
    else if x.testing.isEmpty then nextRun h (endHeat h (modHub h (fun y => { y with pass := some { sites := x.sites } }) s))
    else if x.stage != 3 || x.replay then s
    else if !x.testing.all (fun site => !s.usable site || x.rows.any fun r => r.site = site && r.recipe = x.recipe) then s
    else if x.recipe < 7 then sendRecipe h (modHub h (fun y => { y with pass := some { x with recipe := x.recipe + 1 } }) s)
    else concludeRun h x s

/-- A run of a replay; one whose read met an uncorrectable word has failed and reproduces nothing (R311): what it reproduces against the engine's own res(acc) and written value is kept, and after REPLAY_RUNS runs the
replay concludes (R203, R204). -/
def takeReplay (h site : Nat) (rep : ReplayReport) (x : Pass) (s : State) : State :=
  let s := endRun site (modHub h (fun y => { y with pass := some { sites := x.sites } }) s)
  match (s.hubOf h).replays.find? fun r => r.site = site with
  | none => nextRun h s
  | some r =>
    let o := if (s.senOf site).runFailed then (false, false) else reproduces (replayValue r.header r.lane r.tk r.sk) rep
    let r' := { r with runs := r.runs + 1, reproCompute := r.reproCompute || o.1, reproChecker := r.reproChecker || o.2 }
    let s := modHub h (fun y => { y with replays := y.replays.map fun q => if q = r then r' else q }) s
    nextRun h (if r'.runs < s.image.policy.replayRuns then s else finishReplay h r' s)

/-- Four elements chosen by the next draws of the content generator (R211; log entry 60). -/
def nextElements : Nat → BitVec 128 → List (Nat × Nat)
  | 0, _ => []
  | n + 1, g => drawElement (lfsrDraw g).2 :: nextElements n (lfsrDraw g).1

/-- A site's outputs agree with the engine at the four elements (Table 8.4). -/
def State.engineAgrees (s : State) (h site recipe : Nat) (epoch : Dword) : Bool :=
  let x := s.senOf site
  let d := recipeDesc recipe
  (nextElements 4 (s.hubOf h).contentGen).all fun e =>
    let pl := outPlace [] d e.1 e.2
    let st := storedElem d.outFormat pl (x.outBlock recipe pl.1)
    recipeElement (sectorOf site) epoch recipe e.1 e.2 st.2 == st.1

/-- RUN_RESULT at the hub. A read of the run's content that met an uncorrectable word fails it (R311). -/
def execRunResult (site recipe verdict seals : Nat) (signature : Dword) (status : Word) (replay : ReplayReport) (s : State) : Result :=
  arrive (.runResult site recipe verdict seals signature status replay) (fun s =>
    let h := s.siteHub site
    let failed := (s.senOf site).runFailed
    (match (s.hubOf h).pass with
    | none => s
    | some x =>
      if x.stage != 3 || !x.testing.contains site then s
      else if x.replay then takeReplay h site replay x s
      else if recipe != x.recipe || x.rows.any (fun r => r.site = site && r.recipe = recipe) then s
      else
        let row : RunRow := { site := site, recipe := recipe, passed := verdict == 0 && seals == 0 && !failed
                              agrees := s.engineAgrees h site recipe x.epoch, sig := signature, status := status }
        advanceRun h (modHub h (fun y => { y with pass := some { x with rows := x.rows ++ [row] } }) s))) s

/-! ## A screen's end from outside (R219, R236, R252) -/

/-- SCREEN_SPAN_EXPIRY (R236): the screen ends with the points measured so far. -/
def execScreenSpanExpiry (site : Nat) (s : State) : Result :=
  .next (match Sparse.get none s.screens site with
    | none => s
    | some c => advanceRun (s.siteHub site) (finishScreen site (if c.nDone then 0 else 2) (leavePass site s)))

/-- QUARANTINE at a hub (R252): the site leaves sampling and the pass, its screen is cancelled, and its deep screen starts
when no repeat of it is pending (R219). -/
def execQuarantine (site : Nat) (s : State) : Result :=
  arrive (.quarantine site) (fun s =>
    let s := respond (hubAddr (s.siteHub site)) 1 7 [] s
    (if (s.siteRec site).state != 6 then s
    else
      let s := modSen site (fun x => { x with sampleCount := 0 }) (cancelScreen site s)
      startDeep site (advanceRun (s.siteHub site) s))) s

/-! ## Clean periods (R249, R252) -/

/-- CLEAN_PERIOD_END: a site in WATCH for CLEAN_DAYS without an event, with CLEAN_SCREENS passed screens, returns to HEALTHY. -/
def execCleanPeriodEnd (site : Nat) (s : State) : Result :=
  let r := s.siteRec site
  .next (if !s.cleanDue r then s
    else changeSite site 10 0 (fun r => { r with condition := 0, state := if r.state = 4 then 3 else r.state }) s)

end Sys2Proof.Machine
end

