-- ==== Sys2Proof/Machine/Thermal.lean ====
section
/-!
DEFINITION. The thermal guard (chapter 15): sector models, sensors, the throttle ladder, trips, hub unit power states, and
the THM block.
-/
namespace Sys2Proof.Machine

/-! ## Numbers -/

/-- A binary64 temperature in 1/16 °C, rounded down (log entry 12). -/
def sixteenth (x : Nat) : Int :=
  let e := f64.unitExp x + 4
  if 0 ≤ e then f64.sigInt x * 2 ^ e.toNat else f64.sigInt x / (2 ^ (-e).toNat : Nat)

/-- A reading in 1/8 °C as binary64. -/
def ofEighth (i : Int) : Nat := f64.ofDyadic i (-3)

/-- A whole number of degrees as binary64. -/
def deg (i : Int) : Nat := f64.ofInt i

/-- 10 us in seconds, binary64. -/
def tenUs : Nat := 0x3EE4F8B588E368F1

/-- TJ_LIMIT in force, binary64. -/
def State.tjLimit (s : State) : Nat := s.throttle.limitBits

/-! ## Sector models (R355 to R357) -/

/-- A sector has a model: it is present, not lost, and its model has started. -/
def State.modelled (s : State) (sector : Nat) : Bool :=
  s.present sector && !(s.hubOf sector).lostSector && !(s.hubOf sector).thermal.t.isEmpty

/-- A model that starts: every node and the spreader at the coolant's temperature (log entry 12); the request and the trip of the
sector stay, and the counters as they were last read (log entry 139). -/
def State.startModel (s : State) (x : Thermal) : Thermal :=
  let c := widen s.image.thermal.tCoolant
  { t := List.replicate 168 c, spr := c, tg := c, last := x.last, lastAt := x.lastAt, request := x.request, tripped := x.tripped }

/-- Sum of binary64 numbers, in order. -/
def f64Sum (xs : List Nat) : Nat := xs.foldl f64.add (f64.zero false)

/-- Mean of readings, binary64. -/
def meanReading (xs : List Int) : Nat := f64.div (ofEighth xs.sum) (f64.ofInt xs.length)

/-- Readings of an edge die's sensors that are in use (R370). -/
def State.edgeReadings (s : State) (die : Nat) : List Int :=
  (List.range 8).filterMap fun k => let x := s.sensorOf (80 + 8 * die + k)
    if x.state = 0 then x.reading else none

/-- The boundary temperature of an edge die (R357, R371). -/
def State.boundary (s : State) (die : Nat) : Nat :=
  let xs := s.edgeReadings die
  if xs.isEmpty then f64.add (widen s.image.thermal.tEdgeDefault) (deg 5) else meanReading xs

/-- Temperature that a site sees across its sector's edge: of an adjacent sector as last published, of an edge die at a row
end, none on another outer edge. `n` is the neighbour's number in its own sector. -/
def State.across (s : State) (sector row col n : Nat) (left right : Bool) : Option Nat :=
  match sectorAt row col with
  | some x =>
    if s.modelled x then some ((s.hubOf x).thermal.edge.getD n (s.hubOf sector).thermal.spr)
    else some (s.hubOf sector).thermal.spr
  | none => if left then some (s.boundary 0) else if right && bitOf 0 s.image.dies then some (s.boundary 1) else none

/-- Temperatures of the four neighbours of site n: above, below, left, right. -/
def State.lateral (s : State) (sector : Nat) (t : List Nat) (n : Nat) : List Nat :=
  let r := n / 14
  let c := n % 14
  let gr := gridRow sector
  let gc := gridCol sector
  let inside (k : Nat) : Option Nat := some (t.getD k 0)
  let up := if r = 0 then (if gr = 0 then none else s.across sector (gr - 1) gc (154 + c) false false) else inside (n - 14)
  let down := if r = 11 then s.across sector (gr + 1) gc c false false else inside (n + 14)
  let left := if c = 0 then (if gc = 0 then some (s.boundary 0) else s.across sector gr (gc - 1) (n + 13) true false) else inside (n - 1)
  let right := if c = 13 then s.across sector gr (gc + 1) (n - 13) false true else inside (n + 1)
  [up, down, left, right].filterMap id

/-- One step of 10 us of a sector's model (R357). -/
def modelStep (sector : Nat) (s : State) : State :=
  let k := s.image.thermal
  let x := (s.hubOf sector).thermal
  let gVert := widen k.gVert
  let gLat := widen k.gLat
  let node (n : Nat) : Nat :=
    let tn := x.t.getD n 0
    let q := f64.add (x.p.getD n 0) (f64.mul gVert (f64.sub x.spr tn))
    let q := (s.lateral sector x.t n).foldl (fun q tm => f64.add q (f64.mul gLat (f64.sub tm tn))) q
    f64.add tn (f64.div (f64.mul q tenUs) (widen k.cSite))
  let qs := f64.mul (widen k.gSink) (f64.sub (widen k.tCoolant) x.spr)
  let qs := x.t.foldl (fun q tn => f64.add q (f64.mul gVert (f64.sub tn x.spr))) qs
  let spr := f64.add x.spr (f64.div (f64.mul qs tenUs) (widen k.cSpread))
  modHub sector (fun y => { y with thermal := { y.thermal with t := (List.range 168).map node, spr := spr } }) s

/-- A heated phase has reached its target at every site under test: its run computes (R224). -/
def checkHeating (h : Nat) (s : State) : State :=
  match (s.hubOf h).pass with
  | none => s
  | some x =>
    let reached (site : Nat) : Bool :=
      let c := (Sparse.get none s.screens site).getD {}
      let t := (s.hubOf (sectorOf site)).thermal.t.getD (site % 168) 0
      f64.le (f64.add c.base (deg (if x.point = 8 then 5 else 10))) t
    if x.stage = 2 && x.testing.all reached then beginRun h s else s

/-- Heaters stop where the model is near the limit (R242). -/
def coolHeaters (sector : Nat) (s : State) : State :=
  if s.nearLimit sector then
    each ((s.sen.filter fun x => x.2.heater && sectorOf x.1 == sector).map (·.1)) (fun x s => modSen x (fun y => { y with heater := false, duty := 0 }) (holdSlot x s)) s
  else s

/-- MODEL_STEP (R242, R357). -/
def execModelStep (sector : Nat) (s : State) : Result :=
  .next (if !s.modelled sector then s
    else checkHeating ((s.server sector).getD sector) (coolHeaters sector (modelStep sector s)))

/-! ## The throttle ladder (R363 to R367, R374) -/

/-- The throttle master: the hub that serves the first served sector of six, else the working hub of the lowest number. -/
def State.masterHub (s : State) : Nat :=
  match [44, 45, 34, 35, 54, 55].find? fun x => (s.server x).isSome with
  | some x => (s.server x).getD x
  | none => s.hubs.headD 0

/-- Threshold of a stage (R364). -/
def State.threshold (s : State) (k : Nat) : Nat :=
  let t := s.image.thermal
  f64.sub s.tjLimit (widen (if k = 1 then t.stage1 else if k = 2 then t.stage2 else if k = 3 then t.stage3 else 0))

/-- Highest stage whose threshold a temperature has reached. -/
def State.stageFor (s : State) (tg : Nat) : Nat :=
  if f64.le (s.threshold 4) tg then 4 else if f64.le (s.threshold 3) tg then 3 else if f64.le (s.threshold 2) tg then 2
  else if f64.le (s.threshold 1) tg then 1 else 0

/-- Row ends at an edge die: the sectors that face it (R357). -/
def rowEndSectors (die : Nat) : List Nat := (List.range 10).map fun r => if die = 0 then (rowEnds r).1 else (rowEnds r).2

/-- A broken sensor holds the request of a sector (R364). -/
def State.brokenHold (s : State) (sector : Nat) : Bool :=
  (s.sensorOf sector).state == 1 || [0, 1].any fun die =>
    (rowEndSectors die).contains sector && (List.range 8).any fun k => (s.sensorOf (80 + 8 * die + k)).state == 1

/-- The stage last fixed. -/
def Throttle.fixed (t : Throttle) : Nat := match t.pending.getLast? with
  | some x => x.2
  | none => t.stage

/-- Distance of the engage slot (R365). -/
def State.engageAhead (s : State) : Nat :=
  let adopted := (s.sectors.filter fun x => (s.hubOf x).failed && (s.hubOf x).adoptedBy.isSome).length
  (2400 + 120 * adopted) / (if s.throttle.stage = 3 then 2 else if s.throttle.stage = 4 then 4 else 1)

/-- CAUSE of THROTTLE_CHANGE. -/
def State.changeCause (s : State) (sector old new : Nat) : Nat :=
  if new < old then 4 else if s.throttle.trip || (s.hubOf sector).thermal.tripped then 3
  else if s.stageFor (s.hubOf sector).thermal.tg < new then 2 else 1

/-- The wafer stage follows the highest request held: the master fixes the stage and its engage slot and sends both to every
hub. After a change of master it is lowered only with every sector's request (R374). -/
def decideStage (sector : Nat) (s : State) : State :=
  let t := s.throttle
  let want := if t.trip then 4 else t.requests.foldl (fun m x => max m x.2) 0
  let cur := t.fixed
  if want = cur || (want < cur && !t.waiting.isEmpty) then s
  else
    let by_ := if Sparse.get 0 t.requests sector = want then sector
      else ((t.requests.find? fun x => x.2 = want).map (·.1)).getD sector
    let e := (if 2 ≤ s.stop.state then s.slot else s.slot / 8 * 8) + s.engageAhead
    let payload := le 1 cur ++ le 1 want ++ le 1 (s.changeCause by_ cur want) ++ le 1 by_ ++
      leInt 2 (sixteenth (s.hubOf by_).thermal.tg) ++ le 2 0 ++ le 8 e
    let s := modThrottle (fun t => { t with
      sector := by_, engage := e, pending := (t.pending.filter fun x => x.1 < e) ++ [(e, want)] }) s
    hubEvent s.masterHub 0x6001 payload
      (sendAll (s.hubs.map fun h => .throttleStage (hubAddr h) want (BitVec.ofNat 64 e)) s)

/-- THROTTLE_REQUEST at the master. -/
def execThrottleRequest (sector stage : Nat) (s : State) : Result :=
  arrive (.throttleRequest sector stage) (fun s =>
    (decideStage sector (modThrottle (fun t => { t with
    requests := Sparse.set 0 t.requests sector stage, waiting := t.waiting.filter (· != sector) })
      (respond (hubAddr s.masterHub) 1 6 [] s)))) s

/-- A sector's request changes and goes to the master. -/
def requestStage (sector k : Nat) (s : State) : State :=
  if (s.hubOf sector).thermal.request = k && !s.throttle.waiting.contains sector then s
  else
    let old := (s.hubOf sector).thermal.request
    let h := (s.server sector).getD sector
    let s := if old < k then countHub h 50 1 s else if k < old then countHub h 51 1 s else s
    send (.throttleRequest sector k) (modHub sector (fun y => { y with thermal := { y.thermal with request := k } }) s)

/-- A stage that waits at a sentinel for its slot; a later one replaces it when its slot is not later (R366). -/
def pendStage (e stage : Nat) (x : Sentinel) : Sentinel :=
  { x with stagePending := (x.stagePending.filter fun y => y.1 < e) ++ [(e, stage)] }

/-- THROTTLE_STAGE (R365, R367): a hub passes it to its sentinels; a sentinel that it reaches after slot E applies it at once
and raises THROTTLE_LATE. -/
def execThrottleStage (unit stage : Nat) (engage : Dword) (s : State) : Result :=
  arrive (.throttleStage unit stage engage) (fun s =>
    let e := engage.toNat
    let s := if unit < 0x4000 && (s.senOf unit).silent then s else respond unit 1 5 [] s
    (if 0x4000 ≤ unit then
      sendAll ((s.liveSites.filter fun x => s.siteHub x = unit - 0x4000).map fun x => .throttleStage x stage engage) s
    else if (s.senOf unit).silent then s
    else
      let slot := s.slotAt unit
      if e < slot then
        setAlarm unit 2 true {} (modSen unit (fun x => { x with stage := stage, late := (e, slot) }) s)
      else modSen unit (pendStage e stage) s)) s

/-- The stages of a sentinel whose slot has come. -/
def engageSite (e : Nat) (x : Sentinel) : Sentinel :=
  match (x.stagePending.filter fun y => y.1 ≤ e).getLast? with
  | some y => { x with stage := y.2, stagePending := x.stagePending.filter fun y => e < y.1 }
  | none => x

/-- THROTTLE_ENGAGE (R363): the slot counter has reached the engage slot; no slot is reached while the wafer is stopped
(R374). When the stage leaves 0, every screening run is discarded (R243). -/
def execThrottleEngage (s : State) : Result :=
  .next (match s.throttle.pending with
    | [] => s
    | (e, k) :: rest =>
      if 2 ≤ s.stop.state then s
      else
        let s := setSen (Sparse.mapAll {} s.sen fun _ x => engageSite e x) s
        let s := if k = 0 then s else discardRuns 1 s
        modThrottle (fun t => { t with stage := k, pending := rest, screensAllowed := t.screensAllowed && k == 0 }) s)

/-- RELEASE_HOLD_EXPIRY (R364): Tg has stayed below for RELEASE_HOLD; the request falls by one stage, never below 2 while a
broken sensor holds it. -/
def execReleaseHoldExpiry (sector : Nat) (s : State) : Result :=
  let x := (s.hubOf sector).thermal
  let low := if x.tripped then 4 else if s.brokenHold sector then 2 else 0
  .next (if !s.modelled sector || !x.releasing || x.request ≤ low then s
    else
      let k := x.request - 1
      let below := k != 0 && f64.lt x.tg (f64.sub (s.threshold k) (widen s.image.thermal.hyst))
      requestStage sector k (modHub sector (fun y => { y with thermal := { y.thermal with releasing := below } }) s))

/-! ## Sensors (R359 to R361, R370 to R372) -/

/-- A sensor table entry (Table 15.4). -/
def sensorBytes (n : Nat) (x : Sensor) : List Byte :=
  let b := le 1 n ++ le 1 x.state ++ le 2 0 ++ le 4 x.since ++ le 2 x.brokenCount ++ le 2 0
  b ++ le 4 (check32 b)

/-- It goes to both MRAMs. -/
def writeSensor (n : Nat) (s : State) : State := mramBoth (0x7D2000 + 16 * n) (sensorBytes n (s.sensorOf n)) s

/-- Readings are valid from −40 to 150 °C. -/
def readingValid (i : Int) : Bool := decide (-320 ≤ i) && decide (i ≤ 1200)

/-- What the tests of R370 find of a new reading: the reason, 0 none, and the sensor with the reading taken. `model` is the
temperature at its location, binary64. -/
def judgeReading (i : Int) (model : Option Nat) (x : Sensor) : Nat × Sensor :=
  let y := { x with reading := some i }
  if !readingValid i then (1, y)
  else match model with
    | none => (0, y)
    | some m =>
      let far (a b : Nat) (d : Int) : Bool := f64.lt (deg d) (f64.abs (f64.sub a b))
      let held : Bool := match x.stuckAt with
        | some a => decide (i - a.1 ≤ 1) && decide (a.1 - i ≤ 1)
        | none => false
      let anchor := if held then x.stuckAt else some (i, m)
      let stuck : Bool := match x.stuckAt with
        | some a => held && far m a.2 5
        | none => false
      let bad := if far (ofEighth i) m 15 then x.disagree + 1 else 0
      let y := { y with stuckAt := anchor, disagree := bad }
      if stuck then (2, y) else if 3 ≤ bad then (3, y) else (0, y)

/-- A sensor is broken: recorded, the thermal alert raised, its table entry written. `source` is its hub or the manager. -/
def sensorBroken (n reason : Nat) (i : Int) (model : Option Nat) (source : Option Nat) (s : State) : State :=
  let payload := le 1 n ++ le 1 reason ++ leInt 2 (2 * i) ++ leInt 2 (match model with
    | some m => sixteenth m
    | none => 0) ++ le 2 0
  let s := modSensor n (fun x => { x with
    state := 1, since := s.secs, brokenCount := satAdd 65535 x.brokenCount 1, disagree := 0, stuckAt := none }) s
  let s := match source with
    | some h => hubEvent h 0x6002 payload s
    | none => record 0x6002 payload s
  raiseAlert 4 (writeSensor n s)

/-- A reading enters the sensor and is judged, when the sensor is in use. -/
def takeReading (n : Nat) (i : Int) (model : Option Nat) (source : Option Nat) (s : State) : State :=
  if (s.sensorOf n).state != 0 then modSensor n (fun x => { x with reading := some i }) s
  else
    let j := judgeReading i model (s.sensorOf n)
    let s := modSensor n (fun _ => j.2) s
    if j.1 = 0 then s else sensorBroken n j.1 i model source s

/-! ## Trips (R368) -/

/-- A trip: recorded by the active manager, the fatal alarm raised by the hub, stage 4 requested and held. -/
def raiseTrip (h sector sensor kind : Nat) (temp : Int) (sectors : List Nat) (s : State) : State :=
  let s := record 0x6004 (le 1 sector ++ le 1 sensor ++ le 1 kind ++ le 1 0 ++ leInt 2 temp ++ le 2 0) s
  let s := each sectors (fun x s => requestStage x 4 (modHub x (fun y => { y with thermal := { y.thermal with tripped := true } }) s)) s
  send (.alarmLevel (hubAddr h) 33 true {}) s

/-- A reading trips: valid, from a sensor neither broken nor retired, at 110 °C or more. -/
def State.readingTrips (s : State) (n : Nat) (i : Int) : Bool :=
  (s.sensorOf n).state == 0 && readingValid i && decide (880 ≤ i)

/-! ## A sector's sample (R356, R360 to R362, R364) -/

/-- Sample period of a governing temperature, in 10 us (R362). -/
def State.samplePeriod (s : State) (tg : Nat) : Nat :=
  if f64.lt tg (f64.sub s.tjLimit (deg 8)) then 100 else if f64.lt tg (f64.sub s.tjLimit (deg 3)) then 10 else 1

/-- Power of a site over a period (R356): ABSENT has none. -/
def sitePower (k : ThermalImage) (state : Nat) (h_s t : Nat) (d : List Nat) : Nat :=
  if state = 0 then f64.zero false
  else
    let e := [k.eArray, k.eVec, k.eSram, k.eFlit, k.eClock]
    let dyn := f64Sum ((List.range 5).map fun c => f64.div (f64.mul (widen (e.getD c 0)) (f64.ofInt (d.getD c 0))) h_s)
    let x := f64.div (f64.sub t (deg 65)) (widen k.leakDouble)
    f64.add dyn (f64.mul (widen k.pLeak) (Config.exp2 (BitVec.ofNat 64 x)).toNat)

/-- Differences of the five counters modulo 2^32. -/
def countDiffs (new : List Word) (old : List Nat) : List Nat :=
  (List.range 5).map fun c => ((new.getD c 0).toNat + 2 ^ 32 - (old.getD c 0) % 2 ^ 32) % 2 ^ 32

/-- Length of the sample period that ends now (R356): the time since the counters were read, or the nominal period where no RAS tick has
passed (log entry 139). -/
def State.elapsed (s : State) (x : Thermal) (h : Nat) : Nat :=
  let ticks := since (s.hubRas h) x.lastAt
  if ticks = 0 then f64.mul (f64.ofInt (s.samplePeriod x.tg)) tenUs else f64.div (f64.ofInt ticks) (f64.ofInt 100000000)

/-- The calibration offset after a valid reading, clamped to ±10 °C. -/
def calibrate (b t89 : Nat) (reading : Int) : Nat :=
  let n := f64.add b (f64.div (f64.sub (ofEighth reading) (f64.add t89 b)) (deg 16))
  if f64.lt (deg 10) n then deg 10 else if f64.lt n (deg (-10)) then deg (-10) else n

/-- State of a sector's diode for its guard: one that an adoptive hub cannot read counts as retired (R57). -/
def State.diodeState (s : State) (sector : Nat) : Nat := if (s.hubOf sector).failed then 2 else (s.sensorOf sector).state

/-- The offset's part of a sample: updated by a valid reading, frozen with a broken sensor, 0 with a retired one. -/
def stepOffset (sector : Nat) (diode : Int) (s : State) : State :=
  let x := (s.hubOf sector).thermal
  let st := s.diodeState sector
  if st = 2 then modHub sector (fun y => { y with thermal := { y.thermal with b := f64.zero false } }) s
  else if st != 0 then s
  else
    let b := calibrate x.b (x.t.getD 89 0) diode
    let clamped : Bool := b == deg 10 || b == deg (-10)
    let s := modHub sector (fun y => { y with thermal := { y.thermal with b := b, clamped := clamped } }) s
    if clamped && !x.clamped then
      hubEvent ((s.server sector).getD sector) 0x6005 (le 1 sector ++ le 1 0 ++ leInt 2 (sixteenth b)) s
    else s

/-- The governing temperature (R361). -/
def State.governing (s : State) (sector : Nat) (diode : Int) : Nat :=
  let x := (s.hubOf sector).thermal
  let top := x.t.foldl f64.fmax (x.t.headD 0)
  let st := s.diodeState sector
  if st = 2 then f64.add top (deg 5)
  else if st = 0 then f64.fmax (f64.add top x.b) (ofEighth diode)
  else f64.add top x.b

/-- The request after a sample: raised at once to the stage reached, held by a broken sensor or a trip; the release hold
runs while Tg stays below (R364). -/
def stepRequest (sector : Nat) (s : State) : State :=
  let x := (s.hubOf sector).thermal
  let hold := if x.tripped then 4 else if s.brokenHold sector then 2 else 0
  let k := max (max (s.stageFor x.tg) hold) x.request
  let below := k != 0 && f64.lt x.tg (f64.sub (s.threshold k) (widen s.image.thermal.hyst))
  requestStage sector k (modHub sector (fun y => { y with thermal := { y.thermal with releasing := below } }) s)

/-- The five activity counters of a sentinel stand as they were read (Table 18.9). -/
def readActivity (ws : List Word) (x : Sentinel) : Sentinel :=
  { x with counters := (List.range 5).foldl (fun m k => Sparse.set 0 m k (ws.getD k 0).toNat) x.counters }

/-- THERMAL_SAMPLE (R362): the trip check, the tests of R370, calibration, Tg, the powers of the next period, the published
edges, and the request. -/
def execThermalSample (sector : Nat) (counts : List (Nat × List Word)) (diode : Int) (s : State) : Result :=
  let h := (s.server sector).getD sector
  .next (if !s.modelled sector then s
    else
      let x := (s.hubOf sector).thermal
      let own := !(s.hubOf sector).failed
      let trips := own && s.readingTrips sector diode && !x.tripped
      let s := if trips then raiseTrip h sector sector 2 (2 * diode) [sector] s else s
      let s := if own then takeReading sector diode (some (f64.add (x.t.getD 89 0) x.b)) (some h) s else s
      let s := stepOffset sector diode s
      let tg := s.governing sector diode
      let period := s.samplePeriod x.tg
      let secs := s.elapsed x h
      let count (n : Nat) : List Nat :=
        match counts.find? fun c => c.1 = 168 * sector + n with
        | some c => countDiffs c.2 (Sparse.get [] x.last (168 * sector + n))
        | none => []
      let p := (List.range 168).map fun n =>
        sitePower s.image.thermal (s.siteRec (168 * sector + n)).state secs (x.t.getD n 0) (count n)
      let last := counts.foldl (fun m c => Sparse.set [] m c.1 (c.2.map (·.toNat))) x.last
      let s := each counts (fun c s => modSen c.1 (readActivity c.2) s) s
      let s := countHub h 48 1 (if period = 1 then countHub h 49 1 s else s)
      let s := modHub sector (fun y => { y with
        solver := if s.samplePeriod tg = 100 then 2 else 0
        thermal := { y.thermal with tg := tg, p := p, last := last, lastAt := s.hubRas h, edge := y.thermal.t } }) s
      let s := if f64.le (deg 115) tg && !(s.hubOf sector).thermal.tripped then
          raiseTrip h sector 0xFF 1 (sixteenth tg) [sector] s else s
      coolHeaters sector (stepRequest sector s))

/-- Mean of the other sensors of a die that are in use. -/
def State.otherMean (s : State) (die k : Nat) : Option Nat :=
  let xs := (List.range 8).filterMap fun j => let x := s.sensorOf (80 + 8 * die + j)
    if j != k && x.state = 0 then x.reading else none
  if xs.isEmpty then none else some (meanReading xs)

/-- EDGE_DIODE_READ (R359, R368, R370): the eight readings of a die, judged one by one, those out of range first: a broken sensor enters
no mean of the others. A broken one holds the row ends at stage 2. -/
def execEdgeDiodeRead (die : Nat) (readings : List Int) (s : State) : Result :=
  let ends := (rowEndSectors die).filter fun x => s.modelled x && (s.server x).isSome
  let h := (s.server (ends.headD 0)).getD (ends.headD 0)
  let ks := (List.range 8).filter fun k => k < readings.length
  let trip := ks.find? fun k => s.readingTrips (80 + 8 * die + k) (readings.getD k 0)
  let s := match trip with
    | some k => if ends.all fun x => (s.hubOf x).thermal.tripped then s
      else raiseTrip h 0xFF (80 + 8 * die + k) 2 (2 * readings.getD k 0) ends s
    | none => s
  let bad := ks.filter fun k => !readingValid (readings.getD k 0)
  let good := ks.filter fun k => readingValid (readings.getD k 0)
  let s := each bad (fun k s => takeReading (80 + 8 * die + k) (readings.getD k 0) none none s) s
  let s := each good (fun k s => modSensor (80 + 8 * die + k) (fun x => { x with reading := some (readings.getD k 0) }) s) s
  let s := each good (fun k s => takeReading (80 + 8 * die + k) (readings.getD k 0) (s.otherMean die k) none s) s
  .next (each ends (fun x s => if s.brokenHold x then requestStage x (max 2 (s.hubOf x).thermal.request) s else s) s)

/-! ## Hub units (R375, R376) -/

/-- UNIT_WAKE_START: the wake of a unit that is retained or off. -/
def execUnitWakeStart (hub unit : Nat) (s : State) : Result :=
  let y := s.hubOf hub
  let st := if unit = 0 then y.solver else if unit = 1 then y.sequencer else y.engine
  .next (if st < 2 || y.waking.contains unit then s else modHub hub (fun y => { y with waking := y.waking ++ [unit] }) s)

/-- A message that waits for a unit. -/
def waitsFor (unit : Nat) (m : Instr) : Bool :=
  match m with
  | .summary _ _ => unit == 1
  | .read _ _ _ _ | .write _ _ _ _ => unit == 2
  | _ => false

/-- A message that waited for a hub unit is taken. -/
def takeWaiting (h : Nat) (m : Instr) (s : State) : State :=
  match m with
  | .summary site sum => takeSummary site sum s
  | .read _ off n tag => hubRead h off n tag s
  | .write _ off ws tag => hubWrite h off ws tag s
  | _ => s

/-- UNIT_WAKE_COMPLETE (R376): the unit is active, and what waited for it is taken. -/
def execUnitWakeComplete (hub unit : Nat) (s : State) : Result :=
  let y := s.hubOf hub
  .next (if !y.waking.contains unit then s
    else
      let ms := y.wakeWaiting.filter (waitsFor unit)
      each ms (takeWaiting hub) (modHub hub (fun y => { y with
        waking := y.waking.filter (· != unit), wakeWaiting := y.wakeWaiting.filter fun m => !waitsFor unit m
        pool := y.pool.filter fun w => !ms.contains w.msg
        solver := if unit = 0 then 0 else y.solver, sequencer := if unit = 1 then 0 else y.sequencer
        engine := if unit = 2 then 0 else y.engine }) s))

/-! ## The THM block and the policy commands (R371 to R373, R488, Table 20.7) -/

/-- Sector of the largest governing temperature. -/
def State.hottest (s : State) : Option (Nat × Nat) :=
  (s.sectors.filter s.modelled).foldl (fun b x =>
    let tg := (s.hubOf x).thermal.tg
    match b with
    | none => some (x, tg)
    | some y => if f64.lt y.2 tg then some (x, tg) else some y) none

/-- Highest reading among the sensors in use. -/
def State.hotSensor (s : State) : Option (Nat × Int) :=
  (List.range 96).foldl (fun b n => match (s.sensorOf n).state, (s.sensorOf n).reading with
    | 0, some r => (match b with
      | none => some (n, r)
      | some y => if y.2 < r then some (n, r) else some y)
    | _, _ => b) none

/-- THM_UPDATE (R488). -/
def execThmUpdate (s : State) : Result :=
  let hot := s.hottest.getD (0, 0)
  let sens := s.hotSensor.getD (0, 0)
  let u16 (i : Int) : Nat := (i % 65536).toNat
  .next (modWin (fun w => { w with thm := {
    stage := s.throttle.stage, sector := s.throttle.sector, trip := s.throttle.trip, limit := u16 s.throttle.limit
    hotModel := u16 (sixteenth hot.2), hotSector := hot.1, hotSensor := u16 (2 * sens.2), hotSensorNo := sens.1
    broken := (List.range 96).filter fun n => (s.sensorOf n).state = 1
    retired := (List.range 96).filter fun n => (s.sensorOf n).state = 2
    engage := BitVec.ofNat 64 s.throttle.engage } }) s)

/-- THERMAL_POLICY (R373): TJ_LIMIT for this power cycle, 85 to 105 °C. -/
def execThermalPolicy (seq : Nat) (s : State) : Result :=
  match s.begun seq 0x0600 with
  | none => .next s
  | some c =>
    let new := toSigned 16 (c.arg 0 2)
    let old := s.throttle.limit
    runCmd seq (statusOf (new < 1360 || 1680 < new) false false false false) (fun s =>
      let s := record 0x6007 (leInt 1 (old / 16) ++ leInt 1 (new / 16) ++ le 2 0) (modThrottle (fun t => { t with limit := new, limitBits := f64.ofDyadic new (-4), limitSet := true }) s)
      complete seq 0 (leInt 2 old ++ le 2 0) s) s

/-- SENSOR_RETIRE (R371, R372). -/
def execSensorRetire (seq : Nat) (s : State) : Result :=
  match s.begun seq 0x0601 with
  | none => .next s
  | some c =>
    let n := c.arg 0 1
    let act := c.arg 1 1
    let bad : Bool := 96 ≤ n || 2 ≤ act || (n < 80 && !s.present n)
    runCmd seq (statusOf bad (88 ≤ n && s.image.grade == 2) false false false) (fun s =>
      let s := modSensor n (fun x => { x with
        state := if act = 1 then 2 else 0, since := s.secs, disagree := 0, stuckAt := none, reading := none }) s
      let s := if n < 80 && act = 1 then modHub n (fun y => { y with thermal := { y.thermal with b := f64.zero false, clamped := false } }) s else s
      let s := recordFrom (if n < 80 then hubAddr ((s.server n).getD n) else mgrAddr s.active) 0x6003 (le 1 n ++ le 1 act ++ le 2 0)
        (writeSensor n s)
      complete seq 0 (le 1 (s.sensorOf n).state ++ le 3 0) s) s

end Sys2Proof.Machine
end

