-- ==== Sys2Proof/Machine/Midway.lean ====
section
/-!
DEFINITION. The Midway (chapter 2): failed links and split chains, hub buffers, RAS time, hub watch and adoption, and
responses.
-/
namespace Sys2Proof.Machine

/-! ## RAS time (R48, R49) -/

/-- TIME_LOAD: a hub or manager B arms its counter. -/
def execTimeLoad (unit : Nat) (v : Dword) (s : State) : Result :=
  arrive (.timeLoad unit v) (fun s =>
    (if unit = mgrAddr 1 then setRasArmedB (some v) s
    else if 0x4000 ≤ unit && unit < 0x8000 && s.works (unit - 0x4000) then modHub (unit - 0x4000) (fun y => { y with rasArmed := some v }) s
    else s)) s

/-- TIME_CHECK: the hub will report its count at the next sync edge. -/
def execTimeCheck (hub : Nat) (s : State) : Result :=
  arrive (.timeCheck hub) (fun s =>
    (if s.works hub && !s.rasCheck.contains hub then setRasCheck (s.rasCheck ++ [hub]) s else s)) s

/-- The active manager starts an alignment check of every working hub. -/
def startAlignment (s : State) : State := sendGroup (groupAddr 0 0) (fun u => .timeCheck (u - 0x4000)) s

/-- RAS_ALIGNMENT_TIMER: once per hour. -/
def execRasAlignmentTimer (s : State) : Result :=
  .next (if (s.mgr s.active).running && 4 ≤ s.boot.step then startAlignment s else s)

/-- A hub reports its count at the sync edge: the response to TIME_CHECK carries COUNT behind its status word. -/
def reportRas (h : Nat) (s : State) : State :=
  let n := s.hubRas h
  respond (hubAddr h) 3 2 [n.setWidth 32, (n >>> 32).setWidth 32] s

/-- The COUNT of a hub's report at the active manager: one that differs by more than 1 tick is recorded and loaded again. -/
def judgeRas (h : Nat) (ws : List Word) (s : State) : State :=
  let n : Dword := (ws.getD 1 0).setWidth 64 <<< 32 ||| (ws.getD 0 0).setWidth 64
  let d := toSigned 64 (n - s.syncRas).toNat
  if -1 ≤ d && d ≤ 1 then s
  else send (.timeLoad (hubAddr h) (s.ras + BitVec.ofNat 64 syncLead)) (record 0x0005 (le 1 h ++ le 3 0 ++ leInt 8 d) s)

/-- SYNC_PULSE: every armed counter loads its value, every hub under check reports. Edge die A drives the line. -/
def execSyncPulse (s : State) : Result :=
  .next (if s.noSync then s
    else
      let load (h : Nat) (s : State) : State := match (s.hubOf h).rasArmed with
        | some v => modHub h (fun y => { y with rasBase := v, rasAt := s.ticks, rasArmed := none }) s
        | none => s
      let s : State := match s.rasArmedB with
        | some v => setRasBaseB v (setRasAtB s.ticks (setRasArmedB none s))
        | none => s
      let s := each s.hubs load s
      let hs := s.rasCheck
      each hs reportRas (setRasCheck [] (setSyncRas s.ras s)))

/-! ## Sites that change their hub (R33, R58) -/

/-- What hub `x` keeps per site goes with the sites to hub `y`: alarm levels, wait-for edges, the tile keys (R124),
items and step-done marks. -/
def moveSites (x y : Nat) (sites : List Nat) (s : State) : State :=
  let a := s.hubOf x
  let mine (k : Nat) : Bool := sites.contains k
  let put (m : Sparse Nat) (e : Nat × Nat) : Sparse Nat := Sparse.set 0 m e.1 e.2
  let c := a.collect
  let s := modHub x (fun h => { h with
    alarms := h.alarms.filter fun e => !mine e.1
    edges := h.edges.filter fun e => !mine e.1
    collect := { h.collect with items := h.collect.items.filter fun e => !mine e.1, done := h.collect.done.filter fun k => !mine k
                                reading := h.collect.reading.filter fun k => !mine k } }) s
  modHub y (fun h => { h with
    alarms := (a.alarms.filter fun e => mine e.1).foldl put h.alarms
    edges := h.edges ++ a.edges.filter fun e => mine e.1
    tks := (sites.map s.tileAt).foldl (fun m k => if (a.tks.map (·.1)).contains k then Sparse.set 0 m k (Sparse.get 0 a.tks k) else m) h.tks
    collect := { h.collect with
      items := (c.items.filter fun e => mine e.1).foldl put h.collect.items
      done := h.collect.done ++ c.done.filter mine, reading := h.collect.reading ++ c.reading.filter mine
      lineageSeen := h.collect.lineageSeen ++ c.lineageSeen.filter (fun e => mine e.1)
      watchSeen := h.collect.watchSeen ++ c.watchSeen.filter mine, watchRose := h.collect.watchRose ++ c.watchRose.filter mine } }) s

/-- A contribution of a hub that is on its way. -/
def isContribution (h p : Nat) : Instr → Bool
  | .contribution x q _ _ _ => x == h && q == p
  | _ => false

/-- Hub `y` contributes again for the sites it has taken over (R59): a contribution on its way is withdrawn; with one that
has arrived, only what is new follows. -/
def reopenContribution (y p : Nat) (fresh : List LedgerEntry) (s : State) : State :=
  let c := (s.hubOf y).collect
  let away := s.sent.any (isContribution y p)
  let ledger := if c.sent && !away then fresh else fresh.foldl mergeLedger c.ledger
  let s : State := setSent (s.sent.filter fun m => !isContribution y p m) s
  let s := modPart p (fun x => { x with contrib := x.contrib.filter (· != y) }) s
  modHub y (fun h => { h with collect := { h.collect with sent := false, ledger := ledger } }) s

/-- An alarm message of a site and code is on its way. -/
def State.alarmAway (s : State) (site code : Nat) : Bool := s.sent.any fun m => match m with
  | .alarmLevel u c _ _ => u == site && c == code
  | _ => false

/-- The blocked-on edge that a shadow entry of a stalled queue stands for (Tables 14.2, 14.3). -/
def shadowEdge (tile queue : Nat) (e : Shadow) : Edge :=
  { queue := queue, targetKind := e.targetKind, target := e.target, context := e.context, tile := tile
    stallSlot := BitVec.ofNat 64 e.headSlot }

/-- The census of an adopted sentinel (Table 2.7, steps 4 and 5): its alarm levels as SEN.ALARM shows them and its segment of the
wait-for graph from its shadow registers; a level whose message is on its way is left to that message. -/
def census (y site : Nat) (s : State) : State :=
  let x := s.senOf site
  let levels := ((List.range 24).filter fun c => bitOf c x.alarm && !s.alarmAway site c).foldl (fun m c => m + 2 ^ c) 0
  let edges := (x.shadow.filter fun e => bitOf 1 e.2.state && bitOf (16 + e.1) x.alarm && !s.alarmAway site (16 + e.1)).map fun e =>
    (site, shadowEdge (s.tileAt site) e.1 e.2, s.hubRas y)
  modHub y (fun h => { h with alarms := Sparse.set 0 h.alarms site levels, edges := h.edges.filter (fun e => e.1 != site) ++ edges }) s

/-! ## Links (R31, R33) -/

/-- An event of a unit, recorded or sent by it. -/
def unitEvent (unit code : Nat) (payload : List Byte) (s : State) : State :=
  if unit < 0x4000 then senEvent unit code payload s
  else if unit < 0x8000 then hubEvent (unit - 0x4000) code payload s
  else recordFrom unit code payload s

/-- LINK_WATCHDOG_EXPIRY: the link is failed for its declaring end, `endA`; a chain is served from both ends. -/
def execLinkWatchdogExpiry (link : MidLink) (s : State) : Result :=
  .next (if s.links.contains link then s
    else
      let a := link.endA
      let h := if a < 0x4000 then s.siteHub a else if a < 0x8000 then a - 0x4000 else 80
      let s := unitEvent a 0xA001 (le 2 a ++ le 2 link.endB ++ le 1 link.kind ++ le 3 0) s
      let s := if h < 80 then countHub h 10 1 s else s
      let s := send (.alarmLevel a 34 true {}) s
      let own := s.server link.sector
      let row := (sitesOfSector link.sector).filter fun x => siteRow x = link.row
      let was := row.map fun x => (x, s.siteHub x)
      let s : State := setLinks (s.links ++ [link]) s
      if link.kind != 0 then s
      else
        let s := if a < 0x4000 && link.endB < 0x4000 then
            hubEvent (own.getD link.sector) 0xA002 (le 1 link.sector ++ le 1 link.row ++ le 1 link.column ++ le 1 0) s else s
        let s := each (row.filter s.unreached) loseSentinel s
        let moved := (was.filter fun e => s.siteHub e.1 != e.2).map (·.1)
        let x := own.getD link.sector
        let y := farHub link.sector
        let p := s.sectorPart link.sector
        if moved.isEmpty then resumeBoundaries s
        else
          let s := moveSites x y moved s
          resumeBoundaries (if s.judges p && !(s.hubOf x).collect.sent && (s.hubOf y).collect.sent then
            checkContribution y p (reopenContribution y p [] s)
          else s))

/-! ## Hub buffers (R37 to R39, R43, R44, R53) -/

/-- Channels in the order of their turns: those behind the one granted last first (41 channels, R43). -/
def turnOf (last channel : Nat) : Nat := (channel + 41 - last) % 41

/-- The message granted next: one that has waited through 64 grants, else of the lowest class, its channels in turn from the one behind
the channel granted last, a channel's own in the order of arrival (R37, R39, R52, R53). -/
def nextHeld (lastGrant : Sparse Nat) (ws : List Held) : Option Held :=
  match ws.find? fun w => 64 ≤ w.waited with
  | some w => some w
  | none =>
    let cls := ws.foldl (fun m w => min m w.cls) 8
    let last := Sparse.get 0 lastGrant cls
    (ws.filter fun w => w.cls = cls).foldl (fun b w => match b with
      | some v => if turnOf last w.channel < turnOf last v.channel then some w else b
      | none => some w) none

/-- HUB_BUFFER_FREED: the message granted next of those that may use the buffer is accepted into it. -/
def execHubBufferFreed (hub index : Nat) (s : State) : Result :=
  let y := s.hubOf hub
  let s := modHub hub (fun y => { y with pool := y.pool.filter fun w => w.index != index }) s
  .next (if !s.works hub then s
    else match nextHeld y.lastGrant (y.linkWait.filter fun w => s.mayUse hub index w.channel w.cls) with
      | none => s
      | some w =>
        let rest := (y.linkWait.erase w).map fun z => { z with waited := z.waited + 1 }
        modHub hub (fun y => { y with
          linkWait := rest, pool := y.pool ++ [{ w with index := index, waited := 0 }]
          lastGrant := Sparse.set 0 y.lastGrant w.cls (w.channel + 1) }) (send w.msg s))

/-! ## Reserved classes and operations (R37, R41) -/

/-- Messages that the tables of the classes list. -/
def messageListed (cls opcode : Nat) : Bool :=
  let known : List (Nat × Nat) := [(0, 1), (3, 1), (3, 2), (3, 8), (3, 9), (4, 1), (4, 2), (4, 0x10), (4, 0x11), (5, 1), (5, 2), (5, 0x20)] ++
    [(5, 0x50), (5, 0x51), (5, 0x52)]
  known.contains (cls, opcode) || (cls == 1 && 1 ≤ opcode && opcode ≤ 13) ||
    (cls == 2 && ((0x20 ≤ opcode && opcode ≤ 0x27) || opcode == 0x30 || opcode == 0x31)) ||
    (cls == 6 && 0x40 ≤ opcode && opcode ≤ 0x44) || (cls == 7 && 1 ≤ opcode && opcode ≤ 8)

/-- RESERVED_CLASS_DISCARD: counted, and recorded at most once per second. -/
def execReservedClassDiscard (hub cls opcode : Nat) (s : State) : Result :=
  .next (if messageListed cls opcode || !s.works hub then s
    else
      let y := s.hubOf hub
      let n := y.discardNew + 1
      let now := s.hubRas hub
      let s := countHub hub 9 1 (modHub hub (fun y => { y with discards := y.discards + 1 }) s)
      if y.discardAt.isSome && since now (y.discardAt.getD 0) < 100000000 then modHub hub (fun y => { y with discardNew := n }) s
      else hubEvent hub 0xA004 (le 1 hub ++ le 1 cls ++ le 2 0 ++ le 4 (min n (2 ^ 32 - 1)))
        (modHub hub (fun y => { y with discardNew := 0, discardAt := some now }) s))

/-! ## Hub watch and adoption (R25, R56 to R60, Table 2.7) -/

/-- HUB_WATCH_TIMER: every 10 us a hub sends its watch message to the hub at the far end of its chains. -/
def execHubWatchTimer (hub : Nat) (s : State) : Result :=
  .next (if s.works hub && s.works (farHub hub) then send (.hubWatch hub) s else s)

/-- HUB_WATCH at the hub that watches `sector`'s. -/
def execHubWatch (sector : Nat) (s : State) : Result :=
  arrive (.hubWatch sector) (fun s => modHub sector (fun y => { y with lastWatch := s.hubRas (farHub sector) }) s) s

/-- A sector is lost as a sector failure: its hub and its sentinels answer nobody, and its tiles leave service (R25). -/
def loseSector (x : Nat) (s : State) : State :=
  let s := modHub x (fun y => { y with failed := true, adoptedBy := none, lostSector := true, thermal := { tripped := y.thermal.tripped } }) s
  let sites := (s.health.map (·.1)).filter fun y => sectorOf y == x
  let s := each sites loseSentinel s
  decideStage x (modThrottle (fun t => { t with requests := Sparse.set 0 t.requests x 0, waiting := t.waiting.filter (· != x) }) s)

/-- The repeat that a capture still held asks for again. -/
def captureRepeat (h site : Nat) (c : Capture) (s : State) : State :=
  let v := c.verdict
  let req : RepeatReq := { site := site, seq := c.desc.seq, step := c.step, verdict := v, tile := s.tileAt site }
  if v.verdict = 2 || v.verdict = 3 then
    let e := repeatElems v c.detail
    requestRepeat h { req with reason := v.verdict, elems := e.1, whole := e.2 } s
  else if namesElement v then requestRepeat h { req with reason := 4, elems := [(v.locI, v.locJ)] } s
  else match c.twin with
    | some e => requestRepeat h { req with reason := 6, elems := [e] } s
    | none =>
      let r := sampleDraw h s
      requestRepeat h { req with reason := if v.verdict = 1 then 5 else 1, elems := [drawElement r.2] } r.1

/-- The throttle master of R365 after a change of hubs: a new one holds no request yet and waits for each (R374). -/
def moveMaster (s : State) : State :=
  let m := s.masterHub
  if m = s.throttle.master then s
  else modThrottle (fun t => { t with master := m, requests := [], waiting := s.sectors.filter fun x => (s.server x).isSome }) s

/-- A message addressed to the failed hub `x` is carried out by `y` for the sites of `x` alone. -/
def readdress (x y : Nat) (sites : List Nat) (s : State) : Instr → List Instr
  | .fence u p c => if u = hubAddr x then sites.map fun z => .fence z p c else [.fence u p c]
  | .throttleStage u k e => if u = hubAddr x then (sites.filter fun z => (s.senOf z).bistPass).map fun z => .throttleStage z k e else [.throttleStage u k e]
  | .stepBoundary h p n sk f => if h = x then [] else [.stepBoundary h p n sk f]
  | .plausibilitySetConfirmed h p => if h = x then [] else [.plausibilitySetConfirmed h p]
  | .takeover h => if h = x then [] else [.takeover h]
  | .timeLoad u v => if u = hubAddr x then [] else [.timeLoad u v]
  | .timeCheck h => if h = x then [] else [.timeCheck h]
  | .hubWatch k => if k = x || farHub k = x then [] else [.hubWatch k]
  | .edgeTick z => [.edgeTick z]
  | .memoryError h r => [.memoryError (if h = x then y else h) r]
  | m => [m]

/-- A verdict item of a sentinel that a failed hub's pool loses; the sentinel's registers restore it (R58). -/
def isItem : Instr → Bool
  | .residueVerdict _ _ _ | .plausVerdict _ _ | .redundancy _ _ | .stepDone _ _ => true
  | .sealVerdict u _ _ _ _ _ _ => u < 0x4000
  | _ => false

/-- Residue verdict items and step-done items of a site among messages. -/
def residueItems (z : Nat) (ms : List Instr) : Nat :=
  (ms.filter fun m => match m with | .residueVerdict u _ _ => u == z | _ => false).length
def doneItems (z : Nat) (ms : List Instr) : Bool := ms.any fun m => match m with | .stepDone u _ => u == z | _ => false

/-- What an adoptive hub learns of a site's step in the census (R58): the residue verdict items that have left the sentinel and are not
on their way, and whether its step-done item has. -/
def State.itemsSeen (s : State) (z : Nat) (ms : List Instr) : Nat :=
  let x := s.senOf z
  x.outputs - residueItems z (x.fq.map (·.item) ++ x.fwait ++ ms)
def State.doneSeen (s : State) (z : Nat) (ms : List Instr) : Bool :=
  let x := s.senOf z
  x.stepLast && !doneItems z (x.fq.map (·.item) ++ x.fwait ++ ms)

/-- The step of the failed hub's sites, taken over by `y` (R58, R59): verdicts, item counts and step-done marks from the sentinels'
registers; the ledger, of which no micro-batch may be dropped, goes on; unless the failed hub's contribution has arrived. -/
def adoptStep (x y p : Nat) (sites : List Nat) (late : Option Instr) (s : State) : State :=
  let c := (s.hubOf x).collect
  let all := (s.jobOf p).all
  let arrived := (s.partOf p).contrib.contains x
  let s : State := setSent (s.sent.filter fun m => !isContribution x p m) s
  let away := s.sent ++ (s.hubOf x).linkWait.map (·.msg)
  let seen := sites.map fun z => (z, s.itemsSeen z away)
  let told := sites.filter fun z => s.doneSeen z away
  let s := moveSites x y sites s
  let s := modHub y (fun h => { h with collect := { h.collect with
    items := seen.foldl (fun m e => Sparse.set 0 m e.1 e.2) h.collect.items
    done := h.collect.done.filter (fun z => !sites.contains z) ++ told, reading := h.collect.reading.filter fun z => !sites.contains z } }) s
  let s := match late with
    | some (.stepBoundary _ _ n sk f) =>
      if (s.hubOf y).collect.step = n then
        let s := each (sites.filter fun z => s.tileAt z != 0xFFFF) (fun z s => modSen z (boundaryFront sk (bitOf 2 f)) s) s
        let s := if bitOf 0 f then modHub x (fun w => { w with set := w.setPending, setPending := [] }) s else s
        endBoundary p n f s
      else s
    | _ => s
  let s := modHub y (fun h => { h with collect := { h.collect with adopted := true, carry := h.collect.carry ||| c.carry
                                                                   raised := h.collect.raised ++ c.raised } }) s
  if !s.judges p || arrived || !(s.partOf p).opened then s
  else
    let mask := sites.foldl (fun m z => if s.tileAt z = 0xFFFF then m else m ||| (s.senOf z).verdict) 0 &&& all
    let s := if (s.hubOf y).collect.sent then reopenContribution y p c.ledger s
      else modHub y (fun h => { h with collect := { h.collect with ledger := c.ledger.foldl mergeLedger h.collect.ledger } }) s
    checkContribution y p (modHub y (fun h => { h with collect := failMask mask h.collect }) s)

/-- The hub keeps what is in flight on its chains; what its pool, engine, regulator and collection held is lost. -/
def emptyHub (y : Hub) : Hub :=
  { y with pool := [], linkWait := [], repeats := [], job := none, replays := [], collect := {}, pass := none, edges := [], alarms := []
           watchSeq := [], watchDrop := [], vmStep := 0, vmWant := 0, vmReq := false, waking := [], wakeWaiting := []
           digests := y.digests.map fun d => { d with lost := d.lost + d.runIn.length + d.runOut.length, runIn := [], runOut := [] } }

/-- Hub `y` adopts the sector of the failed hub `x` (Table 2.7). Alarm, verdict, report and bulk messages of its pool are lost (R58); the
census and the sentinels' registers restore the levels and the verdicts, and the manager issues the control actions again. A
set switch of the step that is on its way to the failed hub takes effect, and the manager loads the sector's active set into its
sentinels (step 6). -/
def adoptSector (x y : Nat) (s : State) : State :=
  let a := s.hubOf x
  let last := a.lastWatch
  let p := s.sectorPart x
  let late := (s.sent ++ a.linkWait.map (·.msg)).find? fun m => match m with
    | .stepBoundary h q _ _ _ => h == x && q == p
    | _ => false
  let lost := (a.pool.filter fun w => 5 ≤ w.cls || w.cls = 0 || isItem w.msg).map (·.msg)
  let sites := (s.sen.map (·.1)).filter fun z => s.siteHub z = x
  let s := send (.alarmLevel (hubAddr y) 32 true {}) s
  let s := discardRun x 5 s
  let s := each a.replays (fun r s => replayResult r 4 s) s
  let s := modHub x (fun h => { h with failed := true, adoptedBy := some y }) s
  let sites := sites.filter fun z => sectorOf z == x
  let s : State := setSent ((s.sent.filter fun m => !lost.contains m).flatMap (readdress x y sites s))
    (setTakeover (s.takeover.filter (· != x)) (setRasCheck (s.rasCheck.filter (· != x)) s))
  let s := each (sites.filter s.unreached) loseSentinel s
  let sites := sites.filter fun z => !(s.senOf z).silent
  let s := adoptStep x y p sites late s
  let set := (s.hubOf x).set
  let s := each sites (fun z s => census y z (modSen z (fun w => { w with progActive := set.take 3584 }) s)) s
  let s := modHub y (fun h => { h with
    linkWait := h.linkWait ++ (a.linkWait.filter fun w => w.channel < 12).map fun w =>
      { w with channel := 12 * (1 + (farSectors y).idxOf x) + w.channel }
    tks := a.tks.foldl (fun m e => Sparse.set 0 m e.1 e.2) h.tks
    watchSeq := a.watchSeq.foldl (fun m e => Sparse.set 0 m e.1 e.2) h.watchSeq
    watchDrop := a.watchDrop.foldl (fun m e => Sparse.set 0 m e.1 e.2) h.watchDrop }) s
  let s := modPart p (fun z => { z with load := z.load.map fun l => { l with waiting := (l.waiting.map fun h => if h = x then y else h).eraseDups } }) s
  let s := match (s.partOf p).load with
    | some l => if l.waiting.contains y && !s.sent.contains (.plausibilitySetConfirmed y p) then send (.plausibilitySetConfirmed y p) s else s
    | none => s
  let s := sendAll ((a.linkWait.filter fun w => 12 ≤ w.channel).flatMap fun w => readdress x y sites s w.msg) s
  let s := modHub x (fun h => { emptyHub h with thermal := s.startModel h.thermal }) s
  let s := hubEvent y 0xA003 (le 1 x ++ le 3 0) s
  let s := each sites (fun z s => each (s.senOf z).captures (fun c s => captureRepeat y z c s) s) s
  let s := hubEvent y 0x5010 (le 1 x ++ le 1 y ++ le 2 0 ++ le 4 (min (since (s.hubRas y) last) (2 ^ 32 - 1))) s
  let going := s.screens.keys.filter fun z => sectorOf z == x && !s.hasJob (s.sitePart z)
  moveMaster (if going.isEmpty then s else joinPass y going s)

/-- A hub is lost (R25, R60): the sectors it had adopted are sector failures, its own is adopted from the far end of its chains
where that hub works. -/
def failHub (x : Nat) (s : State) : State :=
  let had := s.sectors.filter fun z => (s.hubOf z).adoptedBy = some x
  let y := farHub x
  let s := if s.works y then adoptSector x y s else moveMaster (loseSector x s)
  let s := each had loseSector s
  let gone := (s.sen.map (·.1)).filter fun z => farHub (sectorOf z) = x && s.unreached z
  resumeBoundaries (moveMaster (each gone loseSentinel s))

/-! ## Responses (R41, R533) -/

/-- An answer that a response carries. -/
def sameAnswer (unit cls opcode tag status : Nat) (a : Answer) : Bool :=
  a.unit == unit && a.cls == cls && a.opcode == opcode && a.tag == tag && a.status == status

/-- The first answer that a response carries is taken. -/
def takeAnswer (unit cls opcode tag status : Nat) : List Answer → List Answer
  | [] => []
  | a :: r => if sameAnswer unit cls opcode tag status a then r else a :: takeAnswer unit cls opcode tag status r

end Sys2Proof.Machine
end

