-- ==== Sys2Proof/Machine/BringUp.lean ====
section
/-!
DEFINITION. Bring-up (chapter 16; R263 to R265, R351, R372, R379 to R391): slot selection and recovery, the start of the recorder,
steps 3 to 8, the saved settings, and the wafer reset.
-/
namespace Sys2Proof.Machine

/-! ## Step 1: counters and slot selection (R379 to R381, R383) -/

/-- Step times grow by the RAS time at the end of a step, saturating. -/
def endStep (n : Nat) (s : State) : State :=
  modBoot (fun b => { b with step := n, times := b.times ++ [min s.ras.toNat (2 ^ 32 - 1)] }) s

/-- The island of a die counts the power cycle and keeps the larger of its counters and the boot control copies. -/
def countCycle (die offTime : Nat) (s : State) : State :=
  let i := s.island die
  let raw := Memory.bytes 0 (s.mram die) 0x7FF000 64
  let copy : BootCtl := if checkOk raw && (s.mgr die).mramOk then bootOf raw else {}
  let cycles := (i.cycles + 1) % 2 ^ 32
  let new := max cycles copy.cycles
  let ms := max i.ms copy.ms
  let s := modIsland die (fun i => { i with
    cycles := new, ms := ms, cal := i.cal + offTime, calAt := s.ticks, calValid := i.calValid && !i.vbatLow }) s
  if new = cycles && ms = i.ms then s
  else record 0x7004 (le 1 die ++ le 3 0 ++ le 4 cycles ++ le 4 new ++ le 8 i.ms ++ le 8 ms) s

/-- IMAGE_INVALID; the test is kept for NO_VALID_IMAGE. -/
def noteInvalid (die slot test type : Nat) (s : State) : State :=
  let s := record 0x7003 (le 1 slot ++ le 1 test ++ le 1 die ++ le 1 0 ++ le 2 type) s
  if die != s.active then s
  else modBoot (fun b => if slot = 0 then { b with testA := test } else { b with testB := test }) s

/-- Slots still to try, and whether the first of them is with the security block. -/
def setTry (die : Nat) (slots : List Nat) (auth : Bool) (s : State) : State :=
  modBoot (fun b => if die = 0 then { b with tryA := slots, authA := auth } else { b with tryB := slots, authB := auth }) s

/-- The first slot that passes tests 1 to 5 of R381 goes to the security block; the slots that fail are recorded. -/
def trySlots (die : Nat) (p : PowerUp) : List Nat → State → State
  | [], s => setTry die [] false s
  | k :: ks, s =>
    let t := slotTest (s.flash die) k p.serial p.moduleType
    if t.1 = 0 then setTry die (k :: ks) true s else trySlots die p ks (noteInvalid die k t.1 t.2 s)

/-- First-stage boot of a die (R380): `cause` of a failed trial. The record is written to the die's own MRAM. -/
def selectSlot (die cause : Nat) (p : PowerUp) (s : State) : State :=
  let raw := Memory.bytes 0 (s.mram die) 0x7FF000 64
  let valid := checkOk raw && (s.mgr die).mramOk
  let c : BootCtl := if valid then bootOf raw else {}
  let f := s.flash die
  let named (k : Nat) : Nat := if k = 0xFF then 0 else k
  let first := if !valid then (if later64 (slotSequence f 1) (slotSequence f 0) then 1 else 0)
    else if c.trialState = 1 then named c.trial else named c.confirmed
  let s := if valid && c.trialState = 2 then
      record 0x700C (le 1 c.trial ++ le 1 cause ++ le 2 0 ++ le 8 (slotSequence f c.trial)) s else s
  let c := { c with
    trialState := if c.trialState = 2 then 3 else if c.trialState = 1 then 2 else c.trialState
    cycles := (s.island die).cycles, ms := (s.island die).ms, writes := (c.writes + 1) % 2 ^ 32 }
  let s := mramPut die 0x7FF000 (bootBytes c) s
  let s := if die = s.active then modBoot (fun b => { b with bootCtl := c }) s else s
  trySlots die p [first, 1 - first] s

/-! ## The recorder at power-up (R414, R421, R431) -/

/-- The ring control that an MRAM holds. -/
def ringOf (m : Memory) : RingCtl :=
  match laterCopy (Memory.bytes 0 m 0 64) (Memory.bytes 0 m 0x1000 64) 56 with
  | some b => ringCtlOf b
  | none => {}

/-- Operating time of the newest record of a ring. -/
def lastOptime (m : Memory) (c : RingCtl) : Nat :=
  if c.first < c.next then field (ringGet m (ringSkip (c.next - 1 - c.first) m c.firstOff) 16) 8 6 else 0

/-- The recorder starts: the power-up calendar mark, then what step 1 held. -/
def startRecorder (s : State) : State :=
  if s.recorder.running then s
  else
    let notes := s.boot.notes
    let ring := ringOf (s.mram s.active)
    let last := lastOptime (s.mram s.active) ring
    let degraded := !s.standby && s.image.grade != 2
    let s := modRec (fun r => { r with
      running := true, ring := ring, nextIndex := ring.next, mirrorRing := ringOf (s.mram s.other), lastMs := last
      mirrorDegraded := degraded, dropPower := ring.powerFailDrops }) s
    let s := calendarMark 0 0 (modBoot (fun b => { b with notes := [] }) s)
    let s := each notes (fun e s => accept { code := e.code, source := e.source, payload := e.payload, merge := e.merge } s) s
    if ring.powerFailDrops = 0 then s
    else
      let s := dropSummary s
      let b := ringCtlPut (s.mram s.active) { s.recorder.ring with powerFailDrops := 0 }
      let s : State := if s.active = 0 then setMramA b.1 s else setMramB b.1 s
      modRec (fun r => { r with ring := b.2 }) s

/-- No slot is valid: the manager serves in recovery mode (R383). -/
def enterRecovery (s : State) : State :=
  let s := modMgr s.active (fun m => { m with running := true }) (modBoot (fun b => { b with recovery := true }) (endStep 2 s))
  let s := raiseFatal 1 (startRecorder s)
  serveMailbox (record 0xF001 (le 1 s.boot.testA ++ le 1 s.boot.testB ++ le 2 0) s)

/-! ## Step 3: time, hubs, census, thermal guard (R48, R372, R384) -/

/-- A latched trip of a sector is held, with its request, until the next power cycle (R368). -/
def heldTrip (x : Thermal) : Thermal := if x.tripped then { tripped := true, request := 4 } else {}

/-- A hub after its self-test: its RAS counter starts at 0 (log entry 108). -/
def freshHub (p : PowerUp) (s : State) (h : Nat) : Hub :=
  let failed := p.hubsFailed.contains h
  let far := farHub h
  let up := s.present far && !p.hubsFailed.contains far
  { failed := failed, adoptedBy := if failed && up then some far else none, lostSector := failed && !up
    rasBase := 0, rasAt := s.ticks
    thermal := if failed && !up then {} else s.startModel (heldTrip (s.hubOf h).thermal) }

/-- A sentinel after the census: a site that fails its tests, or stays silent, shows it. -/
def freshSentinel (p : PowerUp) (lost : Bool) (site : Nat) : Sentinel :=
  let dead := lost || p.sentinelsFailed.contains site
  { bistPass := !(dead || p.tilesFailed.contains site), silent := dead, inReset := false }

/-- A sensor table entry from its two copies, when one is valid. -/
def sensorEntry (s : State) (n : Nat) : Option Sensor :=
  let a := Memory.bytes 0 (s.mram s.active) (0x7D2000 + 16 * n) 16
  let b := Memory.bytes 0 (s.mram s.other) (0x7D2000 + 16 * n) 16
  let ok (x : List Byte) : Bool := field x 12 4 == check32 (x.take 12)
  if !ok a && !ok b then none
  else
    let x := if ok a then a else b
    some { state := field x 1 1, since := field x 4 4, brokenCount := field x 8 2 }

/-- A sensor at bring-up: one recorded as broken is judged again (R372). -/
def sensorFrom (s : State) (n : Nat) : Sensor :=
  let x := (sensorEntry s n).getD {}
  { x with state := if x.state = 2 then 2 else 0 }

/-- The throttle after step 3: the limit is the image's, or the one that THERMAL_POLICY has set in this power cycle (R373); a latched trip
holds stage 4 (R368). -/
def freshThrottle (s : State) : Throttle :=
  let keep := s.boot.wafer && s.throttle.limitSet
  let image := widen s.image.thermal.tjLimit
  { limit := if keep then s.throttle.limit else sixteenth image
    limitBits := if keep then s.throttle.limitBits else image
    limitSet := keep, trip := s.throttle.trip, stage := if s.throttle.trip then 4 else 0
    requests := Sparse.tabulate 0 (s.sectors.filter fun x => (s.hubOf x).thermal.tripped) fun _ => 4
    screensAllowed := !s.throttle.trip, master := s.masterHub }

/-- The counters of a sector count from here on. -/
def startSample (s : State) (h : Nat) (y : Hub) : Hub := { y with thermal := { y.thermal with lastAt := s.hubRas h } }

/-- Step 3. -/
def stepThree (p : PowerUp) (s : State) : State :=
  let s := loadTime (setHub (Sparse.tabulate {} s.sectors (freshHub p s)) (setSlot 0 s))
  let s := setHub (Sparse.mapAll {} s.hub fun h y => startSample s h y) s
  let s := setSen (Sparse.tabulate {} (s.sectors.flatMap sitesOfSector) fun y => freshSentinel p (s.hubOf (sectorOf y)).lostSector y) s
  let s : State := if s.boot.wafer then setSensors (Sparse.mapAll {} s.sensors fun _ x => { x with state := if x.state = 1 then 0 else x.state }) s
    else setSensors ((List.range 96).foldl (fun m n => Sparse.set {} m n (sensorFrom s n)) []) s
  let stage := (freshThrottle s).stage
  endStep 3 (setThrottle (freshThrottle s) (setSen (Sparse.mapAll {} s.sen fun _ x => { x with stage := stage }) s))

/-! ## Step 4: repair and self-test (R385) -/

/-- The applied entries of the SRAM repair log of an MRAM. -/
def sramLogOf (m : Memory) : List SramRepair :=
  ((List.range 8192).map fun n => sramRepairOf (Memory.bytes 0 m (0x7E4000 + 8 * n) 8)).filter fun r => r.site != 0xFFFF && r.state == 1

/-- An entry of the SRAM repair log. -/
def sramRepairBytes (r : SramRepair) : List Byte := le 2 r.site ++ le 1 r.bank ++ le 1 r.spare ++ le 2 r.row ++ le 1 r.state ++ le 1 0

/-- A row that the self-test found failing and mapped out. -/
def logSramRepair (r : SramRepair) (s : State) : State :=
  let r := { r with state := 1 }
  if s.sramLog.contains r || 8192 ≤ s.sramLog.length then s
  else mramBoth (0x7E4000 + 8 * s.sramLog.length) (sramRepairBytes r) (setSramLog (s.sramLog ++ [r]) s)

/-- The rows that the self-test maps out, each into a redundant row that no repair uses yet (R385). -/
def freeRows : List SramRepair → List SramRepair → List SramRepair
  | _, [] => []
  | used, r :: rs =>
    if r.spare ≤ 7 && !used.any fun x => x.site == r.site && x.bank == r.bank && x.spare == r.spare then r :: freeRows (used ++ [r]) rs
    else freeRows used rs

/-- Step 4. -/
def stepFour (p : PowerUp) (s : State) : State :=
  let s : State := setSramLog (if s.boot.wafer then s.sramLog else sramLogOf (s.mram s.active)) s
  let rows := freeRows (s.image.sramRepair ++ s.sramLog) p.rowsRepaired
  let s := each rows logSramRepair s
  let failed := (s.sen.filter fun x => !x.2.bistPass).length
  endStep 4 (record 0x7006 (le 2 failed ++ le 1 (s.sectors.filter p.hubsFailed.contains).length ++ le 1 0 ++ le 4 rows.length) s)

/-! ## Step 5: health (R251, R264 to R266, R386) -/

/-- The history record of a site from its two copies. -/
def siteCopy (s : State) (site : Nat) : Option SiteRec :=
  match laterCopy (Memory.bytes 0 (s.mram s.active) (0x700000 + 64 * site) 64)
      (if (s.mgr s.other).running then Memory.bytes 0 (s.mram s.other) (0x700000 + 64 * site) 64 else []) 56 with
  | some b => if field b 0 2 = site then some (siteOfBytes b) else none
  | none => none

/-- A rebuilt record (R264). -/
def rebuiltRec (s : State) (site : Nat) : SiteRec :=
  let state := if !s.present (sectorOf site) then 0 else if s.image.defects.any fun d => d.1 = site then 9 else 1
  let ref := Sparse.get 0xFFFF s.image.marginRef site
  { state := state, condition := if state = 1 then 1 else 0, marginRef := if ref = 0xFFFF then 0x1FF else ref, refFactory := ref != 0xFFFF }

/-- The record with which a site enters step 5; one with no valid copy is rebuilt and recorded. -/
def loadSite (site : Nat) (s : State) : State :=
  if s.boot.wafer then s
  else match siteCopy s site with
    | some r => setMarginPrev (Sparse.set 0x1FF s.marginPrev site r.marginLast) (modSite site (fun _ => r) s)
    | none =>
      let s := modSite site (fun _ => rebuiltRec s site) s
      record 0x3005 (le 2 site ++ le 2 0) (writeSite site s)

/-- What bring-up makes of a record (R265): `bist` says that the site fails its built-in self-test. -/
def bootState (present defect bist : Bool) (r : SiteRec) : SiteRec :=
  if !present then { r with state := 0, condition := 0 }
  else if defect then { r with state := 9, condition := 0 }
  else if r.state = 7 || r.state = 9 || r.state = 0 then r
  else if bist then
    if r.state = 6 && r.bistFail then { r with state := 7, condition := 0, bistFails := satAdd 65535 r.bistFails 1 }
    else { r with state := 6, condition := 0, bistFail := true, bistFails := satAdd 65535 r.bistFails 1 }
  else
    let r := { r with bistFail := false }
    if r.state = 6 then r
    else if r.condition = 2 || (r.permanent && r.lastEvent != 0) then quarantined r
    else if r.state = 2 then { r with state := 1 }
    else r

/-- Step 5 for one site. -/
def decideSite (site : Nat) (s : State) : State :=
  let s := loadSite site s
  let r := s.siteRec site
  let new := bootState (s.present (sectorOf site)) (s.image.defects.any fun d => d.1 = site) (!(s.senOf site).bistPass) r
  if new = r then s else changeSite site 12 0 (fun _ => new) s

/-- Sites of a sector that can hold a logical tile. -/
def State.ableSites (s : State) (sector : Nat) : Nat :=
  (s.health.filter fun x => sectorOf x.1 == sector && (x.2.state == 1 || x.2.state == 3 || x.2.state == 4 || x.2.state == 8)).length

/-- A present sector with fewer than 156 such sites is SHORT. -/
def checkShort (sector : Nat) (s : State) : State :=
  let n := s.ableSites sector
  if 156 ≤ n then s
  else
    let s := modBoot (fun b => { b with short := b.short ++ [sector] }) s
    raiseAlert 3 (hubEvent ((s.server sector).getD sector) 0x7007 (le 1 sector ++ le 1 n ++ le 2 0) s)

/-- Step 5. -/
def stepFive (s : State) : State :=
  let s := each (List.range 13440) decideSite (modBoot (fun b => { b with step := 5 }) s)
  let s := each s.sectors checkShort s
  endStep 5 (each s.sectors checkSpares s)

/-! ## Step 6: placement and settings (R265, R387) -/

/-- The best spare of a tile's own sector when the site it held is not known: items 1, 2 and 4 of R256. -/
def State.ownSpare (s : State) (sector : Nat) : Option Nat :=
  let own := s.health.filter fun x => sectorOf x.1 == sector && x.2.state == 1
  match bestSpare s.secs s.image.policy.spareFresh (own.filter fun x => x.2.clearSpare) with
  | some x => some x
  | none => ((own.filter fun x => x.2.condition == 1 && !x.2.deepPending).map (·.1)).head?

/-- Both banks hold a tile at a site. -/
def placeAt (tile site : Nat) (s : State) : State :=
  setXlat0 (Sparse.set 0 s.xlat0 tile (site + 2 ^ 14)) (setXlat1 (Sparse.set 0 s.xlat1 tile (site + 2 ^ 14)) s)

/-- A logical tile is placed: where its record says while that site is in state 3, 4 or 8, else anew. -/
def placeTile (tile : Nat) (s : State) : State :=
  let held := (s.health.filter fun x => x.2.logical == tile).map fun x => (x.1, x.2.state)
  match held.find? fun x => x.2 = 3 || x.2 = 4 || x.2 = 8 with
  | some x => placeAt tile x.1 s
  | none =>
    let sector := s.homeSector tile
    match held.head? with
    | some old =>
      let s' := changeSite old.1 12 0 leaveTile s
      match s'.candidate old.1 14 with
      | some new =>
        let st := s'.servingState new tile
        let s' := changeSite new 12 0 (fun r => { r with state := st, logical := tile }) s'
        let s' := putBoth tile old.1 new s'
        recordFrom old.1 0x3002 (remapPayload tile old.1 new 0 14 (st == 8)) s'
      | none => s'
    | none => match s.ownSpare sector with
      | some new =>
        let st := s.servingState new tile
        placeAt tile new (changeSite new 12 0 (fun r => { r with state := st, logical := tile }) s)
      | none => s

/-- Step 6: every present sector's 156 logical tiles, SEN.CTRL, VE.CTRL and the sampling means; no job runs yet. -/
def stepSix (s : State) : State :=
  let s := each (List.range (156 * s.sectors.length)) placeTile (setXlat0 [] (setXlat1 [] (setRoutes0 [] (setRoutes1 [] (modBoot (fun b => { b with step := 6 }) s)))))
  let s : State := setSen (Sparse.mapAll {} s.sen fun _ x => { x with ctrl := 0x3F, ctrlFront := 0x3F }) (setHub (Sparse.mapAll {} s.hub fun _ y =>
      { y with veCtrl := 0xF, veSampleDiv := s.image.policy.sampleDiv, veNcDiv := s.image.policy.ncSampleDiv }) s)
  endStep 6 (each s.hubs restUnits s)

/-! ## Step 7: memory repairs and training (R388, R389, R402 to R404) -/

/-- The entries of the memory repair log of an MRAM: source, address, state. -/
def memLogOf (m : Memory) : List (Nat × Nat × Nat) :=
  (((List.range 4096).map fun n => Memory.bytes 0 m (0x7D4000 + 16 * n) 16).filter fun b => field b 0 2 != 0xFFFF && field b 2 1 == 1).map
    fun b => (field b 0 2, field b 4 6, field b 3 1)

/-- One memory repair: passed to its controller, its resulting state recorded. -/
def repairMemory (p : PowerUp) (source addr : Nat) (s : State) : State :=
  let st := if p.repairFailed.contains (source, addr) then 2 else 1
  record 0x7009 (memRepairBytes source st addr) s

/-- A pending entry of the log, number `n`. -/
def repairLogged (p : PowerUp) (n : Nat) (s : State) : State :=
  let e := s.memLog.getD n (0, 0, 1)
  if e.2.2 != 0 then s
  else
    let st := if p.repairFailed.contains (e.1, e.2.1) then 2 else 1
    let s := repairMemory p e.1 e.2.1 s
    mramBoth (0x7D4000 + 16 * n) (memRepairBytes e.1 st e.2.1) (setMemLog (s.memLog.set n (e.1, e.2.1, st)) s)

/-- Place of a link port, stack, channel or tier-3 port in NET_STATUS. -/
def netIndex (kind index : Nat) : Nat :=
  index + (if kind = 1 then 0 else if kind = 2 then 64 else if kind = 3 then 80 else 144)

/-- Number of link ports, stacks, channels and tier-3 ports that the module has of a kind (R402). -/
def State.netCount (s : State) (kind : Nat) : Nat :=
  if kind = 1 then (if bitOf 0 s.image.dies then 64 else 32)
  else if kind = 2 then 16
  else if kind = 3 then (if bitOf 1 s.image.dies then 64 else 0)
  else if kind = 4 then (if bitOf 2 s.image.dies then 64 else 0)
  else 0

/-- Every link and channel of the module, KIND × 256 + INDEX. -/
def State.netUnits (s : State) : List Nat := [1, 2, 3, 4].flatMap fun k => (List.range (s.netCount k)).map fun i => 256 * k + i

/-- Step 7 begins: repairs, then training of every link and channel. -/
def stepSeven (p : PowerUp) (s : State) : State :=
  let s : State := setMemLog (if s.boot.wafer then s.memLog else memLogOf (s.mram s.active)) s
  let s := each s.image.memRepair (fun r s => repairMemory p r.1 r.2 s) s
  let s := each (List.range s.memLog.length) (repairLogged p) s
  modBoot (fun b => { b with training := s.netUnits, full := false }) (setNet [] s)

/-- Steps 3 to 7, up to the results of training. -/
def bringUp (s : State) : State :=
  let p := (s.boot.power).getD {}
  stepSeven p (stepSix (stepFive (stepFour p (stepThree p s))))

/-- A record of saved settings (R402). -/
def settingsRecord (u : Nat) (bs : List Byte) : List Byte :=
  le 1 (u / 256) ++ le 1 u ++ le 2 0 ++ le 4 bs.length ++ padTo ((bs.length + 15) / 16 * 16) bs

/-- The bytes of a copy in flash: the header of Table 16.12, then its records. -/
def Settings.bytes (x : Settings) : List Byte :=
  let rs := x.records.flatMap fun u => settingsRecord u (Sparse.get [] x.data u)
  le 4 0x53544D4C ++ le 2 1 ++ le 1 x.state ++ le 1 0 ++ le 4 x.sequence ++ le 8 x.serial ++ le 2 x.records.length ++ le 2 0 ++
    le 4 rs.length ++ sha256 rs ++ le 4 0 ++ rs

/-- A valid copy (R404); its format and digest are those it was written with (log entry 15). -/
def Settings.valid (serial : Nat) (x : Settings) : Bool := x.state == 0xFC && x.serial == serial

/-- The copy that saved settings go to: the one that does not hold the latest valid settings. -/
def nextCopy (serial : Nat) (xs : List Settings) : Nat :=
  let a := xs.getD 0 {}
  let b := xs.getD 1 {}
  if a.valid serial && (!b.valid serial || !later32 b.sequence a.sequence) then 1 else 0

/-- The latest valid settings of a die's flash. -/
def State.settings (s : State) : Settings :=
  let xs := if s.active = 0 then s.setA else s.setB
  let x := xs.getD (1 - nextCopy s.image.serial xs) {}
  if x.valid s.image.serial then x else {}

/-- A write of the saved settings starts (R403): `cause` 0 command, 1 full training; every link and channel that is up. -/
def writeSettings (cause seq : Nat) (s : State) : State :=
  let k := nextCopy s.image.serial (if s.active = 0 then s.setA else s.setB)
  let up := s.netUnits.filter fun u => let v := Sparse.get 0 s.net (netIndex (u / 256) (u % 256)); v == 1 || v == 2
  let x : Settings := { state := 0xFE, sequence := (s.settings.sequence + 1) % 2 ^ 32, serial := s.image.serial, records := up
                        data := up.foldl (fun m u => Sparse.set [] m u (Sparse.get [] s.boot.phy u)) [] }
  (setSetA (s.setA.set k x) (setSetB (if s.image.grade = 2 then s.setB else s.setB.set k x) (setSetBusy (some (k, cause, seq)) s)))

/-! ## Step 8: READY (R380, R390) -/

/-- A memory stack or channel of the region is down or disabled (R389, R503). -/
def State.regionDown (s : State) (r : Nat) : Bool :=
  let off (v : Nat) : Bool := v == 3 || v == 4
  off (Sparse.get 0 s.net (netIndex 2 r)) || (List.range 4).any fun k => off (Sparse.get 0 s.net (netIndex 3 (4 * r + k)))

/-- A default partition without its unusable regions, IDLE. -/
def defaultPartition (n : Nat) (s : State) : State :=
  let mask := s.image.plan.getD n 0
  let use := ((List.range 16).filter fun r => bitOf r mask && !s.regionDown r).map (2 ^ ·)
  if use.isEmpty then s else modPart n (fun x => { records := x.records, digests := x.digests, regions := use.sum, state := 1 }) s

/-- A trial that has reached step 8 is confirmed. -/
def confirmTrial (s : State) : State :=
  let c := s.boot.bootCtl
  if c.trialState = 2 && c.trial = (s.mgr s.active).slot then
    writeBoot (fun c => { c with confirmed := c.trial, confirmedSeq := s.image.sequence, trialState := 0 }) s
  else s

/-- READY's payload. -/
def readyPayload (s : State) : List Byte :=
  le 1 (s.mgr s.active).slot ++ le 1 (flag s.boot.full) ++ le 2 0 ++ (List.range 8).flatMap fun n => le 4 (s.boot.times.getD n 0)

/-- Step 8. -/
def becomeReady (s : State) : State :=
  let s := endStep 8 (each (List.range s.image.plan.length) defaultPartition s)
  let s := modBoot (fun b => { b with lock := true, ready := true, wafer := false }) s
  let s := confirmTrial (record 0x7001 (readyPayload s) s)
  let deep := (s.health.filter fun x => x.2.state == 6 || (x.2.state == 1 && x.2.deepPending)).map (·.1)
  let deep := deep.filter fun x => (s.senOf x).bistPass
  let s := each deep startDeep (modBoot (fun b => { b with deep := deep }) s)
  let seqs := s.boot.seqs
  completeAll seqs 0 (le 4 (s.ticksSince s.boot.began)) (modBoot (fun b => { b with seqs := [] }) s)

/-- Training is over: settings are saved when anything fell back to full training, behind a save in progress; then READY. -/
def endTraining (s : State) : State :=
  let s := endStep 7 s
  if !s.boot.full then becomeReady s else if s.setBusy.isSome then s else writeSettings 1 0 s

/-! ## Step 2 (R381, R382, R397) -/

/-- Dies that the hardware shows (R397). -/
def detectedDies (p : PowerUp) : Nat := flag p.edgeB + 2 * flag p.bridges + 4 * flag p.tier3

/-- Step 2 is complete: the recorder runs, what is held is recorded, the standby follows, and steps 3 to 7 go on. -/
def endStepTwo (s : State) : State :=
  let p := (s.boot.power).getD {}
  let configured := s.image.dies
  let s := endStep 2 (setImage ({ s.image with dies := detectedDies p }) s)
  let s := startRecorder s
  let s := record 0x7002 (le 1 (s.mgr s.active).slot ++ le 1 s.boot.bootCtl.trialState ++ le 2 0 ++ le 8 s.image.sequence ++
    le 4 s.image.fwVersion ++ s.image.digest.take 8) s
  let s := if configured = detectedDies p then s else record 0x700D (le 1 configured ++ le 1 (detectedDies p) ++ le 2 0) s
  let s := if s.standby && (s.mgr s.other).mramOk then rejoinMirror s else s
  bringUp (serveMailbox s)

/-- The manager of a die runs the firmware of a slot. -/
def runManager (die slot : Nat) (s : State) : State :=
  let s := modMgr die (fun m => { m with running := true, standby := false, deposed := false, slot := slot
                                         digest := slotDigest (s.flash die) slot, sequence := slotSequence (s.flash die) slot }) s
  let s := setTry die [] false s
  if die = s.active then setImage (imageOf (s.flash die) slot) s else s

/-- Manager B finds no slot with A's digest (R382): no standby, the fatal status without UHL_FAULT_N. -/
def mismatch (s : State) : State :=
  let b := s.mgr s.other
  raiseFatal 2 (record 0x7005 (le 1 (s.mgr s.active).slot ++ le 1 b.slot ++ le 2 0 ++ padTo 8 (s.mgr s.active).digest ++ padTo 8 b.digest)
    (modMgr s.other (fun m => { m with running := false }) s))

/-- The standby manager joins with the active one's image; after step 2 it copies the records it lacks (STANDBY_REJOIN). -/
def joinStandby (s : State) : State :=
  modMgr s.other (fun m => { m with standby := true, deposed := false }) (setChecked (decide (s.boot.step < 2)) s)

/-! ## Wafer reset (R351, R391) -/

/-- Messages that do not travel between hubs and sentinels: those of the managers, and events on their way to the recorder. -/
def managerMessage : Instr → Bool
  | .event _ | .journalEntry _ | .audit _ _ | .heartbeat _ _ _ | .recordMirror _ _ | .mirrorAck _ | .mramWrite _ _ _ => true
  | .windowForward _ | .pinState _ | .oobForward _ => true
  | _ => false

/-- Commands that wait for something that a wafer reset ends. -/
def State.waitingSeqs (s : State) : List Nat :=
  let ofPart (x : Partition) : List Nat :=
    (match x.fence with | some f => f.seqs | none => []) ++ (match x.reset with | some r => r.seqs | none => []) ++
    (match x.snapshot with | some y => y.seqs | none => []) ++ (x.starting.map (·.1)).toList ++ (match x.load with | some l => l.seq :: (l.after.map (·.2)).toList | none => []) ++
    x.tearSeqs ++ x.boundarySeqs ++ x.swaps.flatMap (·.seqs)
  ((s.part.flatMap fun x => ofPart x.2) ++ s.stop.seqs ++ s.waits.map (·.seq)).filter (· != 0)

/-- The hubs, sentinels, tiles and memory as the self-tests of a new bring-up find them (R60, R384, R385); detected dies, straps and
the security block's answers stay. -/
def retest (p tests : PowerUp) : PowerUp :=
  { p with hubsFailed := tests.hubsFailed, sentinelsFailed := tests.sentinelsFailed, tilesFailed := tests.tilesFailed
           rowsRepaired := tests.rowsRepaired, repairFailed := tests.repairFailed }

/-- The wafer is reset: what Table 14.12 says it does not keep is gone, the managers' step verdict and digest records stay (R351),
and bring-up runs from step 3. -/
def resetWafer (tests : PowerUp) (seqs : List Nat) (s : State) : State :=
  let s := record 0x500A (le 1 0 ++ le 3 0 ++ le 4 s.cycles) s
  let s := each s.sectors (fun h s => each (s.hubOf h).replays (fun r s => replayResult r 4 s) s) s
  let wait := s.waitingSeqs
  let s := setSent (s.sent.filter managerMessage) (setHub (Sparse.mapAll {} s.hub fun _ y => { thermal := heldTrip y.thermal }) (setSen [] (setPart (Sparse.mapAll {} s.part fun _ x => { records := x.records, digests := x.digests }) s)))
  let s := setXlat0 [] (setXlat1 [] (setRoutes0 [] (setRoutes1 [] s)))
  let s := setScreens [] (setScreenReqs [] (setNet [] (setLinks [] (setGraph [] s))))
  let s := setStop {} (setWaits [] (setDram [] (setAnswers [] (setTakeover [] (setRasCheck [] s)))))
  let s := modBoot (fun b => { b with
    power := some (retest (b.power.getD {}) tests), step := 2, ready := false, lock := false, wafer := true, seqs := seqs, began := s.ras, training := [], full := false, short := []
    times := b.times.take 2 }) s
  completeAll wait 4 [] s

/-! ## Power (R378, R514, R519, R529) -/

/-- MAIN_POWER_GOOD: straps, counters and slots of both islands (step 1). -/
def execMainPowerGood (p : PowerUp) (s : State) : Result :=
  .next (if s.powered then s
    else
      let s := modBoot (fun b => { b with power := some p }) (setPowered true (setRasAtA s.ticks (setRasAtB s.ticks s)))
      let s := modPort 1 (fun x => { x with addr := 0x64 + p.strapB % 4 }) (modPort 0 (fun x => { x with addr := 0x64 + p.strapA % 4 }) s)
      let s := countCycle 0 p.offTime s
      let s := if p.edgeB then countCycle 1 p.offTime s else s
      let s := selectSlot 0 2 p s
      let s := if p.edgeB then selectSlot 1 2 p s else s
      let s := endStep 1 s
      if s.boot.tryA.isEmpty then enterRecovery s else s)

/-- MAIN_POWER_LOSS: what backup power, MRAM and flash keep. -/
def execMainPowerLoss (s : State) : Result :=
  let keep (i : Island) : Island := { i with cal := i.calNow s.ticks, calAt := s.ticks }
  .next (if !s.powered then s
    else
      { ({} : State) with
        pending := s.pending, ticks := s.ticks, free := s.free, islandA := keep s.islandA, islandB := keep s.islandB
        mgrA := { mramOk := s.mgrA.mramOk }, mgrB := { mramOk := s.mgrB.mramOk }, flashA := s.flashA, flashB := s.flashB
        setA := s.setA, setB := s.setB, mramA := s.mramA, mramB := s.mramB })

/-- BACKUP_SUPPLY_LOSS: the island loses what VBAT holds; under main power, only that the calendar can be trusted. -/
def execBackupSupplyLoss (die : Nat) (s : State) : Result :=
  .next (modIsland die (fun i => if s.powered then { i with vbatLow := true }
    else { i with cycles := 0, ms := 0, cal := 0, calAt := s.ticks, calValid := false, vbatLow := true }) s)

/-! ## Authentication and the digests (R381, R382) -/

/-- With manager A running, step 2 ends when there is no manager B to wait for. -/
def settleOther (s : State) : State :=
  let pending := if s.active = 0 then s.boot.authB else s.boot.authA
  if s.boot.step != 1 || !(s.mgr s.active).running then s
  else if s.image.grade = 2 || s.active = 1 || !(s.boot.power.getD {}).edgeB then endStepTwo s
  else if pending || (s.mgr s.other).running then s
  else endStepTwo (mismatch s)

/-- Recovery in place (R535): what manager SRAM held is lost, jobs that ran are fenced, reset and detached. -/
def recoverInPlace (s : State) : State :=
  let ring := ringOf (s.mram s.active)
  let raw := Memory.bytes 0 (s.mram s.active) 0x7FF000 64
  let fresh : Recorder :=
    { running := true, ring := ring, nextIndex := ring.next, mirrorRing := ringOf (s.mram s.other)
      lastMs := lastOptime (s.mram s.active) ring, mirrorDegraded := !s.standby && s.image.grade != 2
      windowStart := BitVec.ofNat 64 (s.ras.toNat / 100000000 * 100000000)
      suppressed := s.recorder.suppressed, intakeDrops := s.recorder.intakeDrops, skipped := s.recorder.skipped
      cursorLo := s.recorder.cursorLo, cursorHi := s.recorder.cursorHi, winFirst := s.recorder.winFirst
      winNext := s.recorder.winNext, winRecords := s.recorder.winRecords, winBytes := s.recorder.winBytes
      window := s.recorder.window }
  let s := setRecorder fresh s
  let s := setJournal [] (setJournalSeq 0 (setGraph [] (setUnflushed [] (setMarginPrev [] (setAnswers [] s)))))
  let s := modBoot (fun b => { b with bootCtl := if checkOk raw then bootOf raw else b.bootCtl }) s
  let s := record 0x0006 (le 8 ring.next ++ le 8 (2 ^ 64 - 1)) s
  let again (site : Nat) (s : State) : State := match siteCopy s site with
    | some r => setMarginPrev (Sparse.set 0x1FF s.marginPrev site r.marginLast) (modSite site (fun _ => r) s)
    | none => s
  let s := each (s.health.map (·.1)) again s
  let s := each (List.range 96) (fun n s => modSensor n (fun x =>
    { (sensorEntry s n).getD x with reading := x.reading, disagree := x.disagree, stuckAt := x.stuckAt }) s) s
  let stop (p : Nat) (s : State) : State :=
    let x := s.partOf p
    let s := modPart p (fun x => { x with records := [], digests := [], digestBusy := none, digestNext := [], loss := {}, hang := none }) s
    if x.state = 2 || x.state = 3 || x.state = 5 || x.state = 6 || (x.state = 4 && x.job.isSome) then startFence p 5 [] (some 0) s else s
  serveMailbox (startAlignment (each (List.range 16) stop s))

/-- The manager of a die has its slot authenticated: it runs, and joins what its module does. -/
def managerStarted (die slot : Nat) (s : State) : State :=
  let s := runManager die slot s
  if die = s.active then if s.boot.ready then recoverInPlace s else settleOther s
  else if s.boot.recovery then s
  else if s.boot.exchanged && s.boot.step = 1 then endStepTwo (joinStandby s)
  else if 2 ≤ s.boot.step && (s.mgr die).digest = (s.mgr s.active).digest then joinStandby s
  else s

/-- No slot of a die is left to try. -/
def noSlotLeft (die : Nat) (s : State) : State :=
  if die != s.active then settleOther s
  else if s.boot.ready then serveMailbox (raiseFatal 1
      (modBoot (fun b => { b with recovery := true }) (modMgr die (fun m => { m with running := true }) s)))
  else enterRecovery s

/-- The slots that a die has still to try. -/
def Boot.tries (b : Boot) (die : Nat) : List Nat := if die = 0 then b.tryA else b.tryB

/-- SECURITY_AUTHENTICATION: the sixth test. -/
def execSecurityAuthentication (die : Nat) (authentic : Bool) (s : State) : Result :=
  let p := s.boot.power.getD {}
  .next (if !(if die = 0 then s.boot.authA else s.boot.authB) then s
    else match s.boot.tries die with
      | [] => s
      | k :: ks =>
        if authentic then managerStarted die k s
        else
          let s := trySlots die p ks (noteInvalid die k 6 0 s)
          if (s.boot.tries die).isEmpty then noSlotLeft die s else s)

/-- IMAGE_DIGEST_EXCHANGE: one image for both managers, or B restarts on the slot of A's digest (R382). -/
def execImageDigestExchange (s : State) : Result :=
  let a := s.mgr s.active
  let b := s.mgr s.other
  let p := s.boot.power.getD {}
  let f := s.flash s.other
  .next (if s.boot.step != 1 || !a.running || !b.running then s
    else if a.digest = b.digest then endStepTwo (joinStandby s)
    else match [0, 1].find? fun k => slotDigest f k = a.digest && (slotTest f k p.serial p.moduleType).1 = 0 with
      | some k => setTry s.other [k] true (modBoot (fun b => { b with exchanged := true }) (modMgr s.other (fun m => { m with running := false }) s))
      | none => endStepTwo (mismatch s))

/-! ## Training and settings (R388 to R390, R403) -/

/-- A link or channel is up in a way, 0 saved settings, 1 full training, or down: one without a record is trained in full (R388). -/
def State.trained (s : State) (u result : Nat) : Nat := if result = 0 && !s.settings.records.contains u then 1 else result

/-- The settings that a unit runs with after its training: those saved, those that a full training found, none when it is down (R388,
R402). -/
def keepSettings (u result : Nat) (found : List Byte) (s : State) : State :=
  let bs := if result = 0 then Sparse.get [] s.settings.data u else if result = 1 then found else []
  modBoot (fun b => { b with phy := Sparse.set [] b.phy u bs }) s

/-- TRAINING_RESULT. -/
def trainingResult (kind index result time : Nat) (s : State) : State :=
  let s := record 0x7008 (le 1 kind ++ le 1 index ++ le 1 result ++ le 1 0 ++ le 4 time) s
  if result = 2 then raiseAlert 5 s else s

/-- LINK_TRAINING_RESULT in step 7. -/
def execLinkTrainingResult (kind index result time : Nat) (settings : List Byte) (s : State) : Result :=
  let u := 256 * kind + index
  .next (if !s.boot.training.contains u then s
    else
      let r := s.trained u result
      let s := modBoot (fun b => { b with training := b.training.filter (· != u), full := b.full || r != 0 })
        (keepSettings u r settings (setNet (Sparse.set 0 s.net (netIndex kind index) (r + 1)) s))
      let s := if r = 2 then trainingResult kind index r time s else s
      if s.boot.training.isEmpty then endTraining s else s)

/-- SETTINGS_WRITE_COMPLETE: both flashes hold the copy. -/
def execSettingsWriteComplete (s : State) : Result :=
  .next (match s.setBusy with
    | none => s
    | some (k, cause, seq) =>
      let x := (if s.active = 0 then s.setA else s.setB).getD k {}
      let done (xs : List Settings) : List Settings := xs.set k { xs.getD k {} with state := 0xFC }
      let s : State := setSetA (done s.setA) (setSetB (if s.image.grade = 2 then s.setB else done s.setB) (setSetBusy none s))
      let s := record 0x700A (le 1 k ++ le 1 cause ++ le 2 x.records.length ++ le 4 x.sequence) s
      if cause = 1 then becomeReady s
      else
        let s := complete seq 0 (le 1 k ++ le 1 0 ++ le 2 x.records.length ++ le 4 x.sequence) s
        if s.boot.step = 7 && s.boot.full && !s.boot.ready then writeSettings 1 0 s else s)

/-! ## Wafer reset and restarts (R351, R391, R408, R409, R534) -/

/-- WAFER_RESET: PARTITION_RESET with its wafer scope. -/
def execWaferReset (seq : Nat) (tests : PowerUp) (s : State) : Result :=
  match s.begun seq 0x0202 with
  | none => .next s
  | some c =>
    if c.arg 1 1 != 1 then .next s
    else runCmd seq (statusOf (c.arg 2 2 != 0 || 16 ≤ c.arg 0 1) false (!s.boot.ready) false false) (fun s => bringUp (resetWafer tests [seq] s)) s

/-- Both managers restart from step 2 on the trial slot; the wafer is reset (R408). -/
def restartManagers (tests : PowerUp) (s : State) : State :=
  let p := s.boot.power.getD {}
  let s := resetWafer tests [] s
  let s := modBoot (fun b => { b with step := 1, recovery := false, exchanged := false, times := b.times.take 1 }) s
  let off (m : Manager) : Manager := { m with running := false, standby := false }
  let s := selectSlot 0 1 p (modMgr 1 off (modMgr 0 off s))
  let s := if p.edgeB then selectSlot 1 1 p s else s
  if (s.boot.tries s.active).isEmpty then enterRecovery s else s

/-- MANAGER_WATCHDOG_EXPIRY: the island restarts its manager, before READY from slot selection, later on the slot it booted. -/
def execManagerWatchdogExpiry (die : Nat) (s : State) : Result :=
  let p := s.boot.power.getD {}
  let m := s.mgr die
  .next (if !s.powered || s.boot.step = 0 || m.dieLost then s
    else
      let was := s.recorder
      let s := modMgr die (fun m => { m with running := false, standby := false }) s
      let s := recorderAlert was (modRec (fun r => { r with mirrorDegraded := r.mirrorDegraded || (die != s.active && s.image.grade != 2) }) s)
      if !s.boot.ready then
        let s := if die = s.active then modBoot (fun b => { b with step := 1, exchanged := false, recovery := false, training := []
                                                                   times := b.times.take 1 }) s else s
        let s := selectSlot die 1 p s
        if (s.boot.tries die).isEmpty then noSlotLeft die s else s
      else
        let s := trySlots die p [m.slot] s
        if (s.boot.tries die).isEmpty then noSlotLeft die s else s)

end Sys2Proof.Machine
end

