-- ==== Sys2Proof/Machine/HealthCmd.lean ====
section
/-!
DEFINITION. Health and spare commands (R261, R264, R500, R501; Tables 20.11, 20.12).
-/
namespace Sys2Proof.Machine

/-! ## Queries -/

/-- Codes of 4 bits packed two to a byte, the first in bits [3:0] (R489). -/
def packHealth : List Nat → List Byte
  | [] => []
  | [a] => le 1 (a % 16)
  | a :: b :: xs => le 1 (a % 16 + 16 * (b % 16)) ++ packHealth xs

/-- The code that HEALTH_QUERY gives a requester: 15 for a site without a logical tile of the tenant's partition (R500). -/
def State.codeFor (s : State) (priv : Priv) (site : Nat) : Nat :=
  if priv.level = 0 && (s.tileAt site = 0xFFFF || s.tilePart (s.tileAt site) != priv.tenant) then 15 else (s.siteRec site).state

/-- HEALTH_QUERY. -/
def execHealthQuery (seq : Nat) (s : State) : Result :=
  match s.begun seq 0x0100 with
  | none => .next s
  | some c =>
    let first := c.arg 0 2
    let count := c.arg 2 2
    runCmd seq (statusOf (count = 0 || 13440 < first + count) false false false false)
      (complete seq 0 (le 8 s.ms ++ packHealth ((List.range count).map fun k => s.codeFor c.priv (first + k)))) s

/-- A stored record of one MRAM or the other: the later valid copy, else the active die's bytes (R263). -/
def storedCopy (s : State) (off writes : Nat) : List Byte :=
  let a := Memory.bytes 0 (s.mram s.active) off 64
  let b := Memory.bytes 0 (s.mram s.other) off 64
  (laterCopy a (if (s.mgr s.other).running then b else []) writes).getD a

/-- The records of a HISTORY_READ area, as bytes (Table 20.12): how many exist, and record n. -/
def historyCount (s : State) (area : Nat) : Nat :=
  match area with
  | 0 => 13440 | 1 => 96 | 2 => 1 | 3 => (sramLogOf (s.mram s.active)).length | _ => (memLogOf (s.mram s.active)).length

def historyRecord (s : State) (area n : Nat) : List Byte :=
  match area with
  | 0 => storedCopy s (0x700000 + 64 * n) 56
  | 1 => if s.boot.step < 3 && !s.boot.wafer then Memory.bytes 0 (s.mram s.active) (0x7D2000 + 16 * n) 16 else sensorBytes n (s.sensorOf n)
  | 2 => storedCopy s 0x7FF000 56
  | 3 => sramRepairBytes ((sramLogOf (s.mram s.active)).getD n {})
  | _ => let e := (memLogOf (s.mram s.active)).getD n (0, 0, 0)
    memRepairBytes e.1 e.2.2 e.2.1

/-- COUNT limit of an area. -/
def historyLimit (area : Nat) : Nat :=
  match area with
  | 0 => 255 | 1 => 96 | 2 => 1 | 3 => 2047 | _ => 1023

/-- HISTORY_READ. -/
def execHistoryRead (seq : Nat) (s : State) : Result :=
  match s.begun seq 0x0104 with
  | none => .next s
  | some c =>
    let area := c.arg 0 1
    let first := c.arg 4 4
    let count := c.arg 8 4
    let n := min count (historyCount s area - first)
    runCmd seq (statusOf (4 < area || historyLimit area < count) false false false false)
      (complete seq 0 (le 4 n ++ le 4 0 ++ (List.range n).flatMap fun k => historyRecord s area (first + k))) s

/-! ## Swap-outs by command (R261) -/

/-- A site in service. -/
def SiteRec.serving (r : SiteRec) : Bool := r.state == 3 || r.state == 4 || r.state == 5 || r.state == 8

/-- A swap-out of a site in service for a command: with a job at the next step boundary, merged with one that is requested
already (R254); without one, at once. -/
def swapFor (site cause seq : Nat) (s : State) : State :=
  let tile := s.tileAt site
  let p := s.sitePart site
  if s.hasJob p then
    match (s.partOf p).swaps.find? fun w => w.tile = tile with
    | some w => if w.new.isNone && (s.candidate site (s.jobOf p).detour).isNone then complete seq 5 [] s
      else
        let s := requestSwap site cause [seq] s
        if w.new.isNone then prepareSwap p tile site s else s
    | none => if (s.candidate site (s.jobOf p).detour).isNone then complete seq 5 [] s else requestSwap site cause [seq] s
  else
    match s.candidate site 14 with
    | none => complete seq 5 [] s
    | some new => complete seq 0 (le 2 new ++ le 2 0 ++ le 8 0) (moveOut tile site new quarantined s)

/-- UNIT_QUARANTINE. -/
def execUnitQuarantine (seq : Nat) (s : State) : Result :=
  match s.begun seq 0x0101 with
  | none => .next s
  | some c =>
    let site := c.arg 0 2
    let r := s.siteRec site
    if s.blocked 3 0 site && site < 13440 then .next (waitFor 3 0 site seq (.unitQuarantine seq) s)
    else runCmd seq (statusOf (decide (13440 ≤ site)) false (!(r.serving || r.state == 1)) false false) (fun s =>
      if r.state = 1 then
        complete seq 0 (le 2 0xFFFF ++ le 2 0 ++ le 8 0) (changeSite site 0 0 quarantined s)
      else swapFor site 2 seq s) s

/-- SPARE_TAKEOVER. -/
def execSpareTakeover (seq : Nat) (s : State) : Result :=
  match s.begun seq 0x0402 with
  | none => .next s
  | some c =>
    let site := c.arg 0 2
    if s.blocked 3 0 site && site < 13440 then .next (waitFor 3 0 site seq (.spareTakeover seq) s)
    else runCmd seq (statusOf (decide (13440 ≤ site)) false (!(s.siteRec site).serving) false false) (swapFor site 3 seq) s

/-! ## Edits of a site's state (R500) -/

/-- A record as a defect-map edit leaves it: rebuilt with CONDITION 0, its write counter goes on (R264). -/
def editedRec (s : State) (site : Nat) (r : SiteRec) : SiteRec :=
  { rebuiltRec s site with state := 1, condition := 0, writes := r.writes }

/-- UNIT_RELEASE: after a passed deep screen, or with FORCE the defect-map edit. -/
def execUnitRelease (seq : Nat) (s : State) : Result :=
  match s.begun seq 0x0102 with
  | none => .next s
  | some c =>
    let site := c.arg 0 2
    let force := bitOf 0 (c.arg 2 1)
    let r := s.siteRec site
    let ok := if force then r.state == 7 || r.state == 9 else r.state == 6 && s.deepPassed.contains site
    runCmd seq (statusOf (decide (13440 ≤ site)) false (!ok) false false) (fun s =>
      let s := if force then
          changeSite site 0 0 (editedRec s site)
            (setMarginPrev (Sparse.set 0x1FF s.marginPrev site 0x1FF) (setDeepPassed (s.deepPassed.filter (· != site)) s))
        else changeSite site 0 0 (fun r => { r with state := 1, condition := 1, cleanScreens := 0 }) s
      let s := spareFreed site s
      complete seq 0 (le 1 (s.siteRec site).byte ++ le 3 0) s) s

/-- UNIT_SCREEN. -/
def execUnitScreen (seq : Nat) (s : State) : Result :=
  match s.begun seq 0x0103 with
  | none => .next s
  | some c =>
    let site := c.arg 0 2
    let kind := c.arg 2 1
    let st := (s.siteRec site).state
    let ok := st == 1 || st == 6 || (kind == 0 && (s.siteRec site).serving)
    if s.blocked 4 0 site && site < 13440 then .next (waitFor 4 0 site seq (.unitScreen seq) s)
    else runCmd seq (statusOf (decide (13440 ≤ site) || decide (1 < kind)) false (!ok) false false) (fun s =>
      let s := if kind = 0 then requestScreen site 0 s
        else if st = 1 then changeSite site 0 0 quarantined s
        else startDeep site s
      complete seq 0 [] s) s

/-- UNIT_RETIRE: SPARE_FREE and QUARANTINED sites. -/
def execUnitRetire (seq : Nat) (s : State) : Result :=
  match s.begun seq 0x0105 with
  | none => .next s
  | some c =>
    let site := c.arg 0 2
    let st := (s.siteRec site).state
    runCmd seq (statusOf (decide (13440 ≤ site)) false (!(st == 1 || st == 6)) false false) (fun s =>
      let s := advanceRun (s.siteHub site) (cancelScreen site s)
      complete seq 0 [] (changeSite site 0 0 (fun r => { r with state := 7, condition := 0 }) s)) s

end Sys2Proof.Machine
end

