-- ==== Sys2Proof/Machine/ImageCmd.lean ====
section
/-!
DEFINITION. Image commands (R403, R405 to R408, R410; Table 20.15).
-/
namespace Sys2Proof.Machine

/-! ## Staging (R405, R406) -/

/-- The staging slot: the slot not CONFIRMED, never the one that runs (R406); with none of either, slot B. -/
def State.stagingSlot (s : State) : Nat :=
  let booted := (s.mgr s.active).slot
  if booted < 2 then 1 - booted else if s.boot.bootCtl.confirmed < 2 then 1 - s.boot.bootCtl.confirmed else 1

/-- A trial is PENDING on the staging slot. -/
def State.trialPending (s : State) : Bool := s.boot.bootCtl.trialState == 1 && s.boot.bootCtl.trial == s.stagingSlot

/-- Both flashes hold staged images; one in the test-fixture configuration, or without edge die B. -/
def State.twoFlashes (s : State) : Bool := s.image.grade != 2 && (s.boot.power.getD {}).edgeB

/-- A pending trial is withdrawn (R405). -/
def withdrawTrial (s : State) : State :=
  if !s.trialPending then s
  else
    let slot := s.boot.bootCtl.trial
    let s := record 0x700C (le 1 slot ++ le 1 3 ++ le 2 0 ++ le 8 (slotSequence (s.flash s.active) slot)) s
    writeBoot (fun c => { c with trial := 0xFF, trialState := 0 }) s

/-- One flash with a chunk of the slot programmed; `erase` lists the 64 KiB blocks of the slot that are erased first. -/
def programSlot (slot off : Nat) (erase : List Nat) (bs : List Byte) (m : Memory) : Memory :=
  let base := slotSize * slot
  let kept := m.filter fun c => !(erase.any fun k => decide (base + 65536 * k ≤ c.1) && decide (c.1 < base + 65536 * (k + 1)))
  Memory.write 0xFF kept (base + off) bs

/-- A chunk of the session: erase blocks are erased when first written, both flashes are programmed. -/
def stageChunk (off : Nat) (bs : List Byte) (s : State) : State :=
  let s := if off = 0 then
      let s := withdrawTrial s
      (setStageOpen true (setStageErased [] s))
    else s
  let slot := s.stagingSlot
  let blocks := ((List.range bs.length).map fun k => (off + k) / 65536).eraseDups
  let new := blocks.filter fun k => !s.stageErased.contains k
  let s := setFlashA (if s.active = 0 || s.twoFlashes then programSlot slot off new bs s.flashA else s.flashA) s
  let s := setFlashB (if s.active = 1 || s.twoFlashes then programSlot slot off new bs s.flashB else s.flashB) s
  setStageNext (off + bs.length) (setStageErased (s.stageErased ++ new) s)

/-- IMAGE_STAGE. -/
def execImageStage (seq : Nat) (s : State) : Result :=
  match s.begun seq 0x0700 with
  | none => .next s
  | some c =>
    let off := c.arg 0 4
    let n := c.bulk.length
    let bad := n % 16 != 0 || decide (16384 < n) || decide (slotSize < off + n)
    let gap := off != 0 && !s.trialPending && (!s.stageOpen || off != s.stageNext)
    runCmd seq (statusOf (bad || gap) false (off != 0 && s.trialPending) false false)
      (fun s => complete seq 0 [] (stageChunk off c.bulk s)) s

/-! ## Commit (R407, R408, R410) -/

/-- A slot of a die's flash passes the tests of R381, with the security block's answer. -/
def State.slotGood (s : State) (die slot : Nat) (authentic : Bool) : Bool :=
  let p := s.boot.power.getD {}
  (slotTest (s.flash die) slot p.serial p.moduleType).1 == 0 && authentic

/-- The staging slot can be committed: valid on the flashes, one digest, a larger sequence than the confirmed image's. -/
def State.commitGood (s : State) (authenticA authenticB : Bool) : Bool :=
  let k := s.stagingSlot
  let auth (die : Nat) : Bool := if die = 0 then authenticA else authenticB
  s.slotGood s.active k (auth s.active) &&
    (!s.twoFlashes || (s.slotGood s.other k (auth s.other) && slotDigest s.flashA k == slotDigest s.flashB k)) &&
    later64 (slotSequence (s.flash s.active) k) s.boot.bootCtl.confirmedSeq

/-- MRAM writes on their way to the other die have arrived there. -/
def settleMram (s : State) : State :=
  let isWrite : Instr → Bool
    | .mramWrite _ _ _ => true
    | _ => false
  s.sent.foldl (fun t m => match m with
    | .mramWrite die off bs => mramPut die off bs t
    | _ => t) (setSent (s.sent.filter fun m => !isWrite m) s)

/-- IMAGE_COMMIT: it closes a staging session (R410); in recovery mode every commit is one of mode 1 (R383). -/
def execImageCommit (seq : Nat) (authenticA authenticB : Bool) (tests : PowerUp) (s : State) : Result :=
  match s.begun seq 0x0701 with
  | none => .next s
  | some c =>
    let mode := if s.boot.recovery then 1 else c.arg 0 1
    let slot := s.stagingSlot
    let sequence := slotSequence (s.flash s.active) slot
    let idle := (List.range 16).all fun p => (s.partOf p).state == 0 || (s.partOf p).state == 1
    runCmd seq (statusOf (decide (1 < c.arg 0 1) || !s.commitGood authenticA authenticB) false (mode == 1 && !idle) false false) (fun s =>
      let s := writeBoot (fun b => { b with trial := slot, trialState := 1 }) s
      let s := record 0x700B (le 1 slot ++ le 1 mode ++ le 2 0 ++ le 8 sequence) s
      let s := complete seq 0 (le 1 slot ++ le 3 0 ++ le 8 sequence) s
      if mode = 1 then restartManagers tests (settleMram s) else s) (setStageOpen false s)

/-! ## TRAINING_SAVE (R403, R410) -/

/-- TRAINING_SAVE: waits while a partition reset retrains memory; its completion is SETTINGS_WRITE_COMPLETE's. -/
def execTrainingSave (seq : Nat) (s : State) : Result :=
  match s.begun seq 0x0702 with
  | none => .next s
  | some _ =>
    if s.blocked 1 3 0 then .next (waitFor 1 3 0 seq (.trainingSave seq) s)
    else runCmd seq (statusOf false false false false s.setBusy.isSome) (writeSettings 0 seq) s

end Sys2Proof.Machine
end

