-- ==== Sys2Proof/Machine/Managers.lean ====
section
/-!
DEFINITION. The two managers (R26, R422 to R424, R506, R518, R524, R525, R532 to R536): heartbeat, audit, takeover, MRAM failure
and the power-fail warning.
-/
namespace Sys2Proof.Machine

/-! ## Takeover (R424, R532, Table 21.4) -/

/-- The standby's own records become the recorder's (R424, R437). -/
def adoptRecorder (s : State) : State :=
  let former := ringOf (s.mram s.active)
  let degraded := s.image.grade != 2
  modRec (fun r => { r with
    ring := r.mirrorRing, nextIndex := r.mirrorNext, intake := [], staging := r.mirrorStaging, mirrorStaging := [], mirrorRing := former
    mirrorDegraded := r.mirrorDegraded || degraded }) s

/-- Records and acknowledges between the managers that a takeover cuts off. -/
def mirrorTraffic : Instr → Bool
  | .recordMirror _ _ | .mirrorAck _ | .journalEntry _ | .audit _ _ => true
  | _ => false

/-- A replay in progress is repeated by the new active manager (Table 14.14). -/
def repeatReplay (p : Nat) (s : State) : State :=
  match (s.partOf p).hang with
  | some h => match h.current with
    | some c => nextReplay p (modPart p (fun x => { x with hang := some { h with current := none, todo := c :: h.todo, ended := [] } }) s)
    | none => s
  | none => s

/-- Step 6: the standby is active. RECORDER_TAKEOVER comes first; fills restart, alignment is checked (R49), pins follow. -/
def completeTakeover (s : State) : State :=
  let next := s.recorder.mirrorNext
  let ok := s.switchOk
  let old := s.active
  let seq := s.switchSeq
  let was := s.recorder
  let s := adoptRecorder (setSent (s.sent.filter fun m => !mirrorTraffic m) s)
  let lacks := s.recorder.mirrorRing.next
  let s : State := setActive s.other (setFailover false (setTakeover [] (setSwitchSeq 0 (setSwitchOk false (setChecked ok s)))))
  let s := modMgr s.active (fun m => { m with standby := false, deposed := false }) s
  let s := modMgr old (fun m => { m with standby := ok, deposed := !ok }) s
  let s := record 0x0006 (le 8 next ++ le 8 (if ok && lacks < next then lacks else 2 ^ 64 - 1)) (recorderAlert was s)
  let filling (p : Nat) (s : State) : State :=
    modPart p (fun x => { x with swaps := x.swaps.map fun w => if w.chosen then { w with flags := w.flags ||| 2 } else w }) s
  let s := each (List.range 16) (fun p s => repeatReplay p (filling p s)) s
  let s := syncPins (startAlignment s)
  serveMailbox (if seq = 0 then s else complete seq 0 (le 1 s.active ++ le 3 0) s)

/-- The takeover completes when every hub has acknowledged. -/
def checkTakeover (s : State) : State := if s.failover && s.takeover.isEmpty then completeTakeover s else s

/-- Step 3: the takeover message to every hub. -/
def beginTakeover (seq : Nat) (ok : Bool) (s : State) : State :=
  let hs := s.hubs
  checkTakeover (sendAll (hs.map fun h => .takeover h) (setFailover true (setTakeover hs (setSwitchSeq seq (setSwitchOk ok s)))))

/-- TAKEOVER at a hub: control and access messages of the new manager only (R533). -/
def execTakeover (hub : Nat) (s : State) : Result :=
  arrive (.takeover hub) (fun s =>
    let onlyB := s.active = 0
    (if s.works hub then send (.controlResponse (hubAddr hub) 1 0x0C 0 0 false) (modHub hub (fun y => { y with onlyB := onlyB }) s) else s)) s

/-- CONTROL_RESPONSE (R41, R533): an acknowledge, an answer, or the empty response to a manager that a hub no longer takes. -/
def execControlResponse (unit cls opcode tag status : Nat) (empty : Bool) (s : State) : Result :=
  arrive (.controlResponse unit cls opcode tag status empty) (fun s => if empty && (cls = 1 || cls = 4) && 0x4000 ≤ unit && unit < 0x8000 then
      modMgr (if (s.hubOf (unit - 0x4000)).onlyB then 0 else 1) (fun m => { m with deposed := true }) s
    else if cls = 1 && opcode = 0x0C then checkTakeover (setTakeover (s.takeover.filter fun h => hubAddr h != unit) s)
    else
      let found := s.answers.find? (sameAnswer unit cls opcode tag status)
      let s := setAnswers (takeAnswer unit cls opcode tag status s.answers) s
      match found with
      | some a => if cls = 3 && opcode = 2 then judgeRas (unit - 0x4000) a.words s else s
      | none => s) s

/-- HUB_WATCH_MISSED (R56): the third watch message in a row is missing. A takeover does not wait for a failed hub. -/
def execHubWatchMissed (sector : Nat) (s : State) : Result :=
  .next (if s.works sector then
      checkTakeover (setTakeover ((failHub sector s).takeover.filter (· != sector)) (failHub sector s))
    else s)

/-! ## Heartbeat (R532 to R536) -/

/-- HEARTBEAT_TIMER: every 1 ms; a manager halted over JTAG sends none (R511). -/
def execHeartbeatTimer (die : Nat) (s : State) : Result :=
  let other := s.mgr (1 - die)
  .next (if (s.mgr die).running && !(s.port die).halted && s.image.grade != 2 && other.running then
      send (.heartbeat (1 - die) (s.dieRas die) (if die = s.active then 0 else 1)) s
    else s)

/-- HEARTBEAT at the manager of a die; one that arrives after a loss was declared does not stop the takeover. -/
def execHeartbeat (die : Nat) (ras : Dword) (role : Nat) (s : State) : Result :=
  .next (modMgr die (fun m => { m with lastBeat := s.dieRas die }) (receive (.heartbeat die ras role) s))

/-- Before step 2 is complete, manager B runs bring-up as the active manager (R382). -/
def bringUpAsActive (s : State) : State :=
  let old := s.active
  let s := setTry old [] false (modMgr old (fun m => { m with running := false, standby := false }) s)
  let s : State := setActive s.other s
  let m := s.mgr s.active
  if m.running then settleOther (setImage (imageOf (s.flash s.active) m.slot) s)
  else if (s.boot.tries s.active).isEmpty then noSlotLeft s.active s else s

/-- The edge die of a manager is lost as a whole (R23): manager, ports and, for die A, the service window are gone. -/
def loseDie (die : Nat) (s : State) : State :=
  modMgr die (fun m => { m with running := false, standby := false, dieLost := true }) s

/-- HEARTBEAT_LOSS: the standby takes over; with its journal check open no manager is active (Table 21.5). `die`: the edge die is
lost with its manager. -/
def execHeartbeatLoss (die : Bool) (s : State) : Result :=
  let s := if die && s.image.grade != 2 then loseDie s.active s else s
  .next (if s.image.grade = 2 || s.failover then s
    else if s.boot.step = 1 && !s.boot.ready then
      if s.active = 0 && (s.boot.power.getD {}).edgeB then bringUpAsActive s else s
    else if !s.standby then s
    else if !s.checked then modMgr s.active (fun m => { m with running := false }) s
    else beginTakeover 0 false s)

/-- STANDBY_LOSS (R534). `die`: the edge die of the manager that is not active is lost as a whole, be that manager in standby or not. -/
def execStandbyLoss (die : Bool) (s : State) : Result :=
  let was := (s.standby, s.recorder)
  let drop (q : Queued) : Queued := { q with mirror := if q.mirror = 0 then 2 else q.mirror }
  let s := if die && s.image.grade != 2 then loseDie s.other s else s
  .next (if s.image.grade = 2 || !was.1 then s
    else
      let s := modMgr s.other (fun m => { m with standby := false }) (setChecked false s)
      recorderAlert was.2 (modRec (fun r => { r with mirrorDegraded := true, intake := r.intake.map drop, staging := r.staging.map drop }) s))

/-- MANAGER_SWITCHOVER (R506, R536). -/
def execManagerSwitchover (seq : Nat) (journalOk : Bool) (s : State) : Result :=
  match s.begun seq 0x0F00 with
  | none => .next s
  | some _ => runCmd seq (statusOf false (s.image.grade == 2) (s.failover || !s.standby || !s.checked) false false) (beginTakeover seq journalOk) s

/-- MRAM_FAILURE (R437): the active manager's asks for a switchover, the standby's leaves records unmirrored. -/
def execMramFailure (die : Nat) (s : State) : Result :=
  let was := s.recorder
  .next (if !(s.mgr die).mramOk then s
    else
      let s := modMgr die (fun m => { m with mramOk := false }) s
      if !s.powered then s
      else if die = s.active then
        let s := raiseFatal 3 s
        if s.standby && s.checked && !s.failover then beginTakeover 0 true s else s
      else if s.image.grade = 2 then s
      else recorderAlert was (modRec (fun r => { r with mirrorDegraded := true }) s))

/-! ## Journal, audit, pins (R26, R522) -/

/-- The health that a STATE byte shows. -/
def healthOfByte (b : Nat) : Health := { state := b % 16, cond := bitsOf 4 2 b, perm := bitOf 6 b, lost := bitOf 7 b }

/-- A change of Table 10.3 that no event of Table 10.2 causes: a takeover or a command (trigger 0), a clean period (10), a passed
deep screen (11), bring-up (12). -/
def listedChange (trigger : Nat) (a b : Health) : Bool :=
  let cleared : Bool := b == { a with state := 6, cond := 0 }
  if trigger = 0 then
    if a.state = 1 then b == { a with state := 2 } || cleared || b == { a with state := 7, cond := 0 } ||
      b == { a with state := 3 + a.cond } || b == { a with state := 8 }
    else if a.state = 2 then b == { a with state := 1 } || b == { a with state := 3 + a.cond } || b == { a with state := 8 } ||
      b == { a with cond := 2, perm := true }
    else if a.state = 6 then b == { a with state := 1, cond := 1 } || b == { a with state := 7, cond := 0 }
    else if a.state = 7 || a.state = 9 then b == { state := 1, cond := 0, perm := false, lost := false }
    else if a.state = 3 || a.state = 4 || a.state = 5 || a.state = 8 then
      cleared || b == { a with state := 1 } || b == nextHealth 1 a 1 0 true false
    else false
  else if trigger = 10 then a.cond == 1 && b == { a with cond := 0, state := if a.state = 4 then 3 else a.state }
  else if trigger = 11 then a.state == 6 && b == { a with state := 1, cond := 1, perm := false }
  else if trigger = 12 then b.state == 0 || b.state == 9 || cleared || b == { a with state := 7, cond := 0 } ||
    (a.state == 2 && b == { a with state := 1 }) || (a.state == 1 && (b == { a with state := 3 + a.cond } || b == { a with state := 8 }))
  else false

/-- A site's record by the standby's own MRAM, the one both managers hold where that copy is not valid (R263). -/
def standbyRec (s : State) (site : Nat) (r : SiteRec) : SiteRec :=
  match laterCopy (Memory.bytes 0 (s.mram s.other) (0x700000 + 64 * site) 64) [] 56 with
  | some b => siteOfBytes b
  | none => r

/-- The standby's own decision is the active manager's (R26): a health change by Table 10.3, a reset by Table 14.8 (a missing spare only
fences, R259), the spare that R256 chooses by the standby's own records. -/
def auditAgrees (s : State) (e : JournalEntry) : Bool :=
  match e.kind with
  | 0 =>
    let a := healthOfByte e.before
    let b := healthOfByte e.after
    if e.trigger = 0 || 8 < e.trigger then listedChange e.trigger a b
    else if a.state = 6 then e.trigger == 5 && b == { a with state := 7, cond := 0 }
    else if a.state = 2 && bitOf 0 e.aux && b == { a with cond := 2, perm := true } then true
    else nextHealth s.image.policy.suspectDeclineSteps a e.trigger (e.aux / 4) (bitOf 0 e.aux) (bitOf 1 e.aux) == b
  | 1 => e.object < 16 && (e.trigger ≤ 2 || e.trigger = 4 || e.trigger = 6) &&
    (((e.before = 3 || e.before = 4) && e.after = 5) || (e.before = 7 && e.after = 7))
  | 2 => s.pick (s.health.map fun x => (x.1, standbyRec s x.1 x.2)) e.object e.aux == some e.trigger
  | _ => true

/-- JOURNAL_ENTRY at the standby: audited. -/
def execJournalEntry (entry : JournalEntry) (s : State) : Result :=
  let s := receive (.journalEntry entry) s
  .next (if s.standby then send (.audit entry.sequence (auditAgrees s entry)) s else s)

/-- AUDIT at the active manager: a disagreement raises the audit alarm; the standby takes no action of its own. -/
def execAudit (sequence : Nat) (agree : Bool) (s : State) : Result :=
  let s := receive (.audit sequence agree) s
  .next (setAuditAlarm (s.auditAlarm || !agree) s)

/-- PIN_STATE at the other manager: it drives its own die's pins. -/
def execPinState (pins : Nat) (s : State) : Result := .next (modPort s.other (fun p => p.drive pins) (receive (.pinState pins) s))

/-! ## Power-fail warning (R246, R304, R353, R410, R436, R512, R524, R525) -/

/-- Commands whose work the warning abandons, UNAVAILABLE. -/
def failCmds (seqs : List Nat) (s : State) : State := completeAll (seqs.filter (· != 0)) 7 [] s

/-- Fills, copies, a reset and the hashing of a partition are abandoned. -/
def abandonWork (p : Nat) (s : State) : State :=
  let x := s.partOf p
  let s := failCmds (x.swaps.flatMap (·.seqs) ++ (match x.reset with | some r => r.seqs | none => [])) s
  let s := abandonSwaps p (modPart p (fun x => { x with swaps := x.swaps.map fun w => { w with seqs := [] } }) s)
  modPart p (fun x => { x with copying := [], tier2Busy := none, tier2Left := [], tier2Held := none, reset := none, digestBusy := none
                               digestNext := [] }) s

/-- Bring-up stops. -/
def stopBringUp (b : Boot) : Boot :=
  if b.ready || b.recovery then b else { b with tryA := [], tryB := [], authA := false, authB := false, training := [] }

/-- A queued record is protected. -/
def Queued.kept (q : Queued) : Bool := recProtected q.r

/-- Tier of a queued record. -/
def Queued.tier (q : Queued) : Nat := codeTier q.r.code

/-- Step 4 and 5 of Table 21.2: protected records, then tier 2, then tier 1, of which power lasts for `written`; the number of those
that are left is stored. -/
def flushRecords (written : Nat) (s : State) : State :=
  let qs := s.recorder.intake ++ s.recorder.staging
  let first := qs.filter Queued.kept
  let rest := (qs.filter fun q => !q.kept && q.tier == 2) ++ (qs.filter fun q => !q.kept && q.tier != 2)
  let out := first ++ rest.take written
  let s := ringWriteAll out.length out (modRec (fun r => { r with intake := [], staging := [], powerFail := true }) s)
  let b := if (s.mgr s.active).mramOk then ringCtlPut (s.mram s.active) { s.recorder.ring with powerFailDrops := rest.length - written }
    else (s.mram s.active, s.recorder.ring)
  let s : State := if s.active = 0 then setMramA b.1 s else setMramB b.1 s
  modRec (fun r => { r with ring := b.2, nextIndex := b.2.next }) s

/-- The takeover stops after step 4: the new manager is active and does the flushes (Table 21.5). -/
def cutTakeover (s : State) : State :=
  if !s.failover then s
  else
    let seq := s.switchSeq
    let old := s.active
    let s := adoptRecorder (setSent (s.sent.filter fun m => !mirrorTraffic m) s)
    let s : State := setActive s.other (setFailover false (setTakeover [] (setSwitchSeq 0 (setSwitchOk false (setChecked false s)))))
    let s := modMgr old (fun m => { m with standby := false, deposed := true }) (modMgr s.active (fun m => { m with standby := false }) s)
    serveMailbox (failCmds [seq] s)

/-- PWR_WARN_N. -/
def execPwrWarnN (written : Nat) (s : State) : Result :=
  .next (if !s.powered || s.warn then s
    else
      let s := cutTakeover (discardRuns 4 (setWarn true (setNoRuns true s)))
      let s := each (List.range 16) abandonWork (modBoot stopBringUp s)
      let saving := match s.setBusy with
        | some (_, _, seq) => [seq]
        | none => []
      let s := failCmds saving (setSetBusy none s)
      if !(s.mgr s.active).running || !s.recorder.running then modRec (fun r => { r with powerFail := true }) s
      else flushRecords written (each s.unflushed flushCount (writeBoot id s)))

/-- PWR_WARN_RETURN: commands and records are accepted again; what was abandoned stays so. -/
def execPwrWarnReturn (s : State) : Result :=
  .next (if !s.warn then s
    else each (List.range 16) (fun p s => checkBoundary p (tryCommit p s)) (modRec (fun r => { r with powerFail := false }) (setWarn false s)))

end Sys2Proof.Machine
end

