-- ==== Sys2Proof/Machine/Net.lean ====
section
/-!
DEFINITION. Link and memory-channel commands (R389, R402, R503; Table 20.13).
-/
namespace Sys2Proof.Machine

/-- Numbers of INDEX of a KIND (R402), 0 for a KIND that is not listed. -/
def netMax (kind : Nat) : Nat := if kind = 2 then 16 else if 1 ≤ kind && kind ≤ 4 then 64 else 0

/-- Region of a memory stack or channel; none for links and tier-3 ports (R21). -/
def netRegion (kind index : Nat) : Option Nat := if kind = 2 then some index else if kind = 3 then some (index / 4) else none

/-- A peer entry of a partition's job names a link port. -/
def Partition.names (x : Partition) (port : Nat) : Bool := x.livePeers.any fun e => bitOf port e.ports

/-- The unit is in use (R503): its region lies in a partition that is neither IDLE nor DOWN, or an ACTIVE job names it. -/
def State.netInUse (s : State) (kind index : Nat) : Bool :=
  match netRegion kind index with
  | some r => let q := s.regionPart r
    q != 0xFF && (s.partOf q).state != 1 && (s.partOf q).state != 7
  | none => kind == 1 && (List.range 16).any fun p => (s.partOf p).state == 2 && (s.partOf p).names index

/-- A down link port removes the peers bound to it (R389). -/
def removePeers (port : Nat) (s : State) : State :=
  each ((List.range 16).filter fun p => (s.partOf p).names port) (fun p s =>
    modPart p (fun x => { x with peers := x.peers.map fun e => { e with gone := e.gone || bitOf port e.ports } }) s) s

/-- RESULT of a NET_CONFIGURE: 0 saved settings, 1 full training, 2 down, 3 disabled. Full training never ends in 0. -/
def State.netResult (s : State) (kind index action result : Nat) : Nat :=
  if action = 0 then 3
  else if action = 2 && result = 0 then 1
  else s.trained (256 * kind + index) (min result 2)

/-- The unit's state as NET_STATUS shows it, its settings, the record of its training, and the peers of a link that is down. -/
def configureNet (kind index result time : Nat) (settings : List Byte) (s : State) : State :=
  let s : State := keepSettings (256 * kind + index) result settings (setNet (Sparse.set 0 s.net (netIndex kind index) (result + 1)) s)
  if result = 3 then s
  else
    let s := trainingResult kind index result time s
    if kind = 1 && result = 2 then removePeers index s else s

/-- NET_CONFIGURE: `result`, `time` and `settings` are those of the training. -/
def execNetConfigure (seq result time : Nat) (settings : List Byte) (s : State) : Result :=
  match s.begun seq 0x0400 with
  | none => .next s
  | some c =>
    let kind := c.arg 0 1
    let index := c.arg 1 1
    let action := c.arg 2 1
    let r := s.netResult kind index action result
    runCmd seq (statusOf (decide (netMax kind ≤ index) || decide (2 < action)) (decide (s.netCount kind ≤ index))
      (s.netInUse kind index) false false) (fun s =>
        complete seq 0 (le 1 r ++ le 3 0 ++ le 4 time) (configureNet kind index r time settings s)) s

/-- NET_STATUS: one byte for each link port, tier-1 stack, tier-2 channel and tier-3 port, 0 where the module has none. -/
def State.netBytes (s : State) : List Byte :=
  [(1, 64), (2, 16), (3, 64), (4, 64)].flatMap fun k => (List.range k.2).flatMap fun i =>
    le 1 (if i < s.netCount k.1 then Sparse.get 0 s.net (netIndex k.1 i) else 0)

def execNetStatus (seq : Nat) (s : State) : Result :=
  match s.begun seq 0x0401 with
  | none => .next s
  | some _ => runCmd seq 0 (complete seq 0 s.netBytes) s

end Sys2Proof.Machine
end

