-- ==== Sys2Proof/Machine/PartitionCmd.lean ====
section
/-!
DEFINITION. Partition and job commands (R229, R230, R238, R260, R282, R290 to R292, R320, R350, R352, R470, R471, R502 to R504;
Tables 9.3, 11.6, 12.1, 14.13, 19.1, 20.13, 20.14).
-/
namespace Sys2Proof.Machine

/-! ## PARTITION_DEFINE (R502) -/

/-- Present sectors of the regions of a mask, ascending. -/
def State.maskSectors (s : State) (mask : Nat) : List Nat := s.sectors.filter fun x => bitOf (regionOf x) mask

/-- Lowest logical tile of a partition, and its number of logical tiles. -/
def State.firstTile (s : State) (p : Nat) : Nat := 156 * s.rank ((s.partSectors p).headD 0)
def State.tileCount (s : State) (p : Nat) : Nat := 156 * (s.partSectors p).length

/-- An IDLE partition gives regions up; left with none it is UNDEFINED. -/
def giveUp (mask q : Nat) (s : State) : State :=
  let x := s.partOf q
  if x.state != 1 || x.regions &&& mask = 0 then s
  else
    let left := x.regions &&& (0xFFFF ^^^ mask)
    modPart q (fun x => { x with regions := left, state := if left = 0 then 0 else 1, degraded := x.degraded && left != 0 }) s

/-- The partition comprises exactly the regions of the mask and is IDLE; its global counters are clear (R448). -/
def definePartition (p mask : Nat) (s : State) : State :=
  let s := each ((List.range 16).filter (· != p)) (giveUp mask) s
  let s := modPart p (fun x => { x with regions := mask, state := if mask = 0 then 0 else 1, degraded := x.degraded && x.regions == mask }) s
  (setGcount ((List.range 8).foldl (fun m k => Sparse.set 0 m (8 * p + k) 0) s.gcount) s)

/-- PARTITION_DEFINE's response. -/
def State.defineResponse (s : State) (p : Nat) : List Byte :=
  le 10 (((s.partSectors p).map (2 ^ ·)).sum) ++ le 2 (if (s.partSectors p).isEmpty then 0 else s.firstTile p) ++
    le 2 (s.tileCount p) ++ le 2 0

/-- PARTITION_DEFINE. -/
def execPartitionDefine (seq : Nat) (s : State) : Result :=
  match s.begun seq 0x0200 with
  | none => .next s
  | some c =>
    let p := c.arg 0 1
    let mask := c.arg 2 2
    let regions := (List.range 16).filter fun r => bitOf r mask
    let st := (s.partOf p).state
    let taken := regions.any fun r => let q := s.regionPart r; q != 0xFF && q != p && (s.partOf q).state != 1
    runCmd seq (statusOf (decide (16 ≤ p)) (regions.any s.regionDown)
      (if mask = 0 then st != 1 else (st != 0 && st != 1) || taken)
      ((s.maskSectors mask).any s.boot.short.contains) false) (fun s =>
        let s := definePartition p mask s
        complete seq 0 (s.defineResponse p) s) s

/-! ## Fences and resets by command (R350, R352, Table 14.13) -/

/-- The wafer has been scanned out: only a reset or a power cycle of it goes on (R465). -/
def State.scanned (s : State) : Bool := s.stop.state == 3

/-- PARTITION_FENCE. -/
def execPartitionFence (seq : Nat) (s : State) : Result :=
  match s.begun seq 0x0201 with
  | none => .next s
  | some c =>
    let p := c.arg 0 1
    let st := (s.partOf p).state
    runCmd seq (statusOf (decide (16 ≤ p)) false (s.scanned || st == 0 || st == 6 || st == 7) false false)
      (startFence p 0 [seq] none) s

/-- PARTITION_RESET of a partition; its wafer scope is WAFER_RESET. -/
def execPartitionReset (seq : Nat) (s : State) : Result :=
  match s.begun seq 0x0202 with
  | none => .next s
  | some c =>
    let p := c.arg 0 1
    if c.arg 1 1 = 1 then .next s
    else runCmd seq (statusOf (decide (16 ≤ p) || decide (1 < c.arg 1 1)) false (s.scanned || !s.defined p) false false)
      (startFence p 5 [seq] (some 0)) s

/-- A fenced partition runs on: with a job it goes on as after a reset, without one it is IDLE. -/
def releasePartition (p : Nat) (s : State) : State :=
  let x := s.partOf p
  let s := each (s.partAllSites p) (fun y s => modSen y Sentinel.unfence s) s
  if x.killed then detachJob p s
  else if x.job.isSome then resumeJob p x.resumeCtx s else modPart p (fun x => { x with state := 1, resumeCtx := 0 }) s

/-- PARTITION_RELEASE. -/
def execPartitionRelease (seq : Nat) (s : State) : Result :=
  match s.begun seq 0x0203 with
  | none => .next s
  | some c =>
    let p := c.arg 0 1
    runCmd seq (statusOf (decide (16 ≤ p)) false (s.scanned || (s.partOf p).state != 4) false false) (fun s =>
      let s := releasePartition p s
      complete seq 0 (le 1 (s.partOf p).state ++ le 3 0) s) s

/-! ## CONTEXT_TEARDOWN (R316, R320) -/

/-- Contexts that are open, or would open again on release of the fence (log entry 18); those that a command tears down now
count as open for another. -/
def Partition.openSet (x : Partition) : Nat := x.open_ ||| x.resumeCtx ||| (x.tearing &&& x.tearMask)

/-- The teardowns of a command begin. -/
def startTeardown (p mask seq : Nat) (s : State) : State :=
  finishTeardown p (modPart p (fun x => { x with
    tearing := x.tearing ||| mask, tearMask := x.tearMask ||| mask, tearSeqs := x.tearSeqs ++ [seq]
    resumeCtx := x.resumeCtx &&& (15 ^^^ mask) }) s)

/-- CONTEXT_TEARDOWN: the contexts of a fenced partition; it merges with a fence's own teardown of them (R321). -/
def execContextTeardown (seq : Nat) (s : State) : Result :=
  match s.begun seq 0x0204 with
  | none => .next s
  | some c =>
    let p := c.arg 0 1
    let mask := c.arg 1 1
    let x := s.partOf p
    if x.state = 3 && mask != 0 && mask &&& x.tearing == mask then
      .next (modPart p (fun x => { x with
        tearSeqs := x.tearSeqs ++ [seq], tearMask := x.tearMask ||| mask, resumeCtx := x.resumeCtx &&& (15 ^^^ mask) }) s)
    else runCmd seq (statusOf (decide (16 ≤ p) || mask &&& x.openSet != mask) false (x.state != 4) false false)
      (startTeardown p mask seq) s

/-! ## JOB_ATTACH's argument (Table 20.14) -/

/-- Bytes of a tile's SRAM, and its observation area (R438). -/
def sramBytes : Nat := 6291456
def obsBase : Nat := 0x5E8000

/-- A range of tile SRAM that a job may use: within it, and clear of the observation area. -/
def sramRange (a n : Nat) : Bool := decide (a + n ≤ sramBytes) && !overlaps a n obsBase (sramBytes - obsBase)

/-- The job descriptors. -/
def jobOfBytes (b : List Byte) : Job :=
  { redundant := bitOf 0 (field b 1 1), detour := field b 2 1, contexts := field b 3 1
    windowPeriod := field b 8 8, windowOffset := field b 16 8, windowLength := field b 24 4, testArea := field b 28 4
    residentSize := field b 32 1, shift := field b 33 1, forced := field b 33 1 != 0, tier2Interval := field b 34 2
    residentAddr := field b 36 4, mirrorAddr := field b 40 4, tier2Base := field b 48 8
    programDigest := (b.drop 56).take 32, seed := BitVec.ofNat 64 (field b 88 8), firstStep := field b 96 8
    digestBase := field b 104 8, digestSize := field b 112 4, jobId := BitVec.ofNat 64 (field b 128 8)
    moduleId := field b 136 2, lineages := field b 138 1, minKeep := field b 139 1, trailerHandle := field b 140 3 }

/-- The peer entries (Table 11.8). -/
def peersOf (b : List Byte) : List Peer :=
  (List.range (field b 143 1)).map fun k =>
    { moduleId := field b (144 + 16 * k) 2, timeout := field b (148 + 16 * k) 4, ports := field b (152 + 16 * k) 8 }

/-- The two tier-2 slots of a region, in bytes (R297). -/
def copyBytes (j : Job) : Nat := if j.tier2Interval = 0 then 0 else 2 * (8192 + 780 * residentBytes j.residentSize)

/-- The screening descriptor keeps R230 and R438. -/
def Job.screeningOk (j : Job) : Bool :=
  if j.windowPeriod = 0 then j.windowOffset == 0 && j.windowLength == 0 && j.testArea == 0
  else
    let n := residentBytes j.residentSize
    decide (1200000 ≤ j.windowLength) && decide (j.windowLength ≤ j.windowPeriod) && decide (j.windowPeriod ≤ 10000 * j.windowLength) &&
      j.testArea % 4096 == 0 && sramRange j.testArea 65536 &&
      !overlaps j.testArea 65536 j.residentAddr n && !overlaps j.testArea 65536 j.mirrorAddr n

/-- The safety-net descriptor keeps R290 and R438; `n` present sectors. -/
def Job.safetyOk (j : Job) (n : Nat) : Bool :=
  if j.residentSize = 0 then
    j.shift == 0 && j.tier2Interval == 0 && j.residentAddr == 0 && j.mirrorAddr == 0 && j.tier2Base == 0
  else
    let r := residentBytes j.residentSize
    j.residentSize ≤ 2 && j.residentAddr % 4096 == 0 && j.mirrorAddr % 4096 == 0 && j.tier2Base % 4096 == 0 &&
      sramRange j.residentAddr r && sramRange j.mirrorAddr r && !overlaps j.residentAddr r j.mirrorAddr r &&
      (j.shift == 0 || decide (j.shift < n)) && (j.tier2Interval == 0 || decide (j.tier2Base + copyBytes j ≤ tier2Space))

/-- The digest area keeps R470 and R471. -/
def Job.digestOk (j : Job) : Bool :=
  j.digestBase % 4096 == 0 && j.digestSize % 65536 == 0 && (j.digestSize != 0 || j.digestBase == 0) &&
    decide (j.digestBase + j.digestSize ≤ tier2Space) && !overlaps j.digestBase j.digestSize j.tier2Base (copyBytes j)

/-- The verdict descriptor and the peer entries keep R282. -/
def Job.verdictOk (j : Job) (peers : List Peer) : Bool :=
  1 ≤ j.lineages && j.lineages ≤ 32 && 1 ≤ j.minKeep && j.minKeep ≤ j.lineages && peers.length ≤ 32 &&
    peers.all fun e => 100 ≤ e.timeout && e.timeout ≤ 10000

/-- Reserved bytes of the argument are zero. -/
def attachReserved (b : List Byte) : Bool :=
  field b 1 1 ≤ 1 && field b 4 4 == 0 && field b 44 4 == 0 && field b 124 4 == 0 &&
    (List.range (field b 143 1)).all fun k => field b (146 + 16 * k) 2 == 0

/-- FIRST_TILE and TILES match the partition (R470). -/
def State.tilesMatch (s : State) (p : Nat) (b : List Byte) : Bool :=
  !s.defined p || (field b 120 2 == s.firstTile p && field b 122 2 == s.tileCount p)

/-- JOB_ATTACH is refused with BAD_ARG. -/
def State.attachBad (s : State) (b : List Byte) : Bool :=
  let p := field b 0 1
  let j := jobOfBytes b
  !(p < 16 && j.detour < 64 && j.contexts < 16 && bitOf 0 j.contexts && attachReserved b && j.screeningOk && j.digestOk &&
    (j.safetyOk (if s.defined p then (s.partSectors p).length else 80)) && j.verdictOk (peersOf b) && s.tilesMatch p b)

/-- JOB_ATTACH is refused with UNAVAILABLE: in the test-fixture configuration, what needs tier 2 or edge die B. -/
def State.attachUnavailable (s : State) (b : List Byte) : Bool :=
  let j := jobOfBytes b
  s.image.grade == 2 && (j.tier2Interval != 0 || j.digestSize != 0 || (peersOf b).any fun e => decide (2 ^ 32 ≤ e.ports))

/-- Sites able to hold a sector's logical tiles: its free spares and the sites that hold its tiles, not LOST (R259). -/
def State.ableFor (s : State) (sector : Nat) : Nat :=
  (s.health.filter fun x => !x.2.lost &&
    ((sectorOf x.1 == sector && (x.2.state == 1 || x.2.state == 3 || x.2.state == 4 || x.2.state == 5)) ||
      (x.2.state == 8 && x.2.logical != 0xFFFF && s.homeSector x.2.logical == sector))).length

/-! ## JOB_ATTACH (R173, R193, R253, R259, R291, R292, R315, R504) -/

/-- The partner shift d (R291). -/
def autoShift (xs : List Nat) : Nat :=
  let n := xs.length
  ((List.range n).find? fun d => d != 0 &&
    (List.range n).all fun k => xs.getD k 0 % 8 != xs.getD ((k + d) % n) 0 % 8).getD 1

/-- Logical tiles of a partition, ascending. -/
def State.partTiles (s : State) (p : Nat) : List Nat := (s.partSectors p).flatMap fun x => (List.range 156).map (156 * s.rank x + ·)

/-- Pairs that are exposed (R292). -/
def State.exposedPairs (s : State) (p : Nat) : Nat :=
  ((s.partTiles p).filter fun t => s.exposure t (s.holderOf p t) != 0).length

/-- A hub at attach: its units awake, the sampling seed written, no collection of an earlier job. -/
def attachHub (seed : Dword) (h : Nat) (s : State) : State :=
  let k := samplingSeed h seed
  modHub h (fun y => { y with sampleSeed := k, sampleGen := k, collect := {} }) (wakeUnits h s)

/-- The site of a logical tile at attach: its tile key, an INVALID mirror, the first load of its sampling counter. -/
def attachTile (seed : Dword) (tile : Nat) (s : State) : State :=
  match s.siteOf tile with
  | none => s
  | some x => loadSample x (modSen x (fun y => { y with mirrorState := 0, marks := [], resident := [], mirrorBlocks := [] }) (keepKey x tile seed s))

/-- A link port that the peer entry names is down: the peer is removed (R389). -/
def State.peerDown (s : State) (e : Peer) : Bool := (List.range 64).any fun n => bitOf n e.ports && Sparse.get 0 s.net (netIndex 1 n) == 3

/-- A partition with its new job. -/
def attachPart (j : Job) (peers : List Peer) (x : Partition) : Partition :=
  { clearStep x with
    job := some j, peers := peers, step := j.firstStep, state := 2, open_ := j.contexts, resumeCtx := 0, refusedCtx := 0
    hang := none, hangStep := none, tier2 := [{}, {}], tier2Busy := none, tier2Left := [], tier2Held := none, copying := []
    replays := [], loss := { x.loss with losses := [], spikes := [], reasons := [] }, windowAt := none, breach := false
    killed := false, failNext := false, divisor := 0 }

/-- Stress that only a partition without a job may carry ends: a hub's voltage or temperature run, and its heaters (R224, R237). The run
is discarded without an event, as Table 9.7 gives it no reason. -/
def endStress (h : Nat) (s : State) : State :=
  match (s.hubOf h).pass with
  | some x => if 5 ≤ x.point && !x.replay then discardRun h 0 s else s
  | none => s

/-- The job starts: stress of screens ends, keys, seeds, counters and the default set, then PAIRING and, with
the default set, the boundary of FIRST_STEP. -/
def attachJob (p seq : Nat) (j : Job) (peers : List Peer) (s : State) : State :=
  let s := each (s.partHubs p) endStress (each (s.partSectors p) retrySuspects s)
  let d := if j.forced then j.shift else autoShift (s.partSectors p)
  let s := modPart p (attachPart { j with shift := d } (peers.map fun e => { e with gone := s.peerDown e })) s
  let s := each (s.partHubs p) (attachHub j.seed) s
  let s := each (s.partTiles p) (attachTile j.seed) s
  let s := record 0x9001 (le 1 p ++ le 1 d ++ le 1 (flag j.forced) ++ le 1 0 ++ le 2 (s.exposedPairs p) ++ le 2 0) s
  let suspects := (s.partSites p).filter fun x => (s.siteRec x).suspect
  let response := le 1 d ++ le 1 0 ++ le 2 (s.exposedPairs p) ++ le 2 (s.firstTile p) ++ le 2 (s.tileCount p) ++ le 8 j.firstStep
  let s := each ((s.partHubs p).filter fun h => (s.hubOf h).pass.isSome) nextRun s
  loadDefault p seq response (each suspects (fun x s => requestSwap x (if (s.siteRec x).lost then 1 else 0) [] s) s)

/-- Deep screens that bring-up has started on sites of a partition still run (R265). -/
def State.bootScreens (s : State) (p : Nat) : Bool :=
  s.boot.deep.any fun x => s.sitePart x == p && (match Sparse.get none s.screens x with
    | some c => c.kind == 3
    | none => false)

/-- JOB_ATTACH: it waits for the deep screens of bring-up (R265; log entry 121). -/
def execJobAttach (seq : Nat) (s : State) : Result :=
  match s.begun seq 0x0300 with
  | none => .next s
  | some c =>
    let b := c.bulk
    let p := field b 0 1
    let j := jobOfBytes b
    let version := field b 116 4
    let x := s.partOf p
    if s.bootScreens p && p < 16 then .next s
    else runCmd seq (statusOf (s.attachBad b) (s.attachUnavailable b)
      (x.state != 1 || s.scanned || (version != 0 && version != s.image.fwVersion))
      (x.degraded && (s.partSectors p).any fun y => decide (s.ableFor y < 156)) false) 
        (attachJob p seq j (peersOf b)) s

/-! ## JOB_DETACH (R204, R238, R260) -/

/-- Sites of a sector in the order of rotation: WATCH first, then the oldest screen that measured all points. -/
def rotateBefore (a b : Nat × SiteRec) : Bool :=
  if a.2.state != b.2.state then a.2.state == 4
  else if a.2.lastFullScreen != b.2.lastFullScreen then a.2.lastFullScreen < b.2.lastFullScreen else a.1 < b.1

/-- The first of a list under an order. -/
def firstBy {α : Type} (before : α → α → Bool) (xs : List α) : Option α :=
  xs.foldl (fun (b : Option α) x => match b with
    | none => some x
    | some y => if before x y then some x else some y) none

/-- The spare that rotates in: passed a screen of all points within SPARE_FRESH, the largest sum of axis margins. -/
def State.rotateSpare (s : State) (sector : Nat) : Option Nat :=
  let now := s.secs
  let ok (r : SiteRec) : Bool := r.state == 1 && !r.deepPending && r.lastFullScreen != 0 &&
    decide (now - r.lastFullScreen ≤ s.image.policy.spareFresh)
  (firstBy (fun (a b : Nat × SiteRec) => marginSum b.2.marginLast < marginSum a.2.marginLast)
    (s.health.filter fun x => sectorOf x.1 == sector && ok x.2)).map (·.1)

/-- A rotated-out site: SPARE_FREE until its deep screen passes (R252). -/
def rotatedOut (r : SiteRec) : SiteRec := { r with state := 1, deepPending := true }

/-- Up to `n` sites of a sector rotate; the sites that have rotated. -/
def rotateSector (sector : Nat) : Nat → List Nat → State → List Nat × State
  | 0, out, s => (out, s)
  | n + 1, out, s =>
    let sites := s.health.filter fun x => sectorOf x.1 == sector && (x.2.state == 3 || x.2.state == 4) && x.2.logical != 0xFFFF &&
      s.homeSector x.2.logical == sector && !out.contains x.1
    match firstBy rotateBefore sites, s.rotateSpare sector with
    | some old, some new =>
      rotateSector sector n (out ++ [old.1, new]) (startDeep old.1 (moveTile old.2.logical old.1 new 14 0 rotatedOut s))
    | _, _ => (out, s)

/-- Every sector of a partition rotates; how many sites did. -/
def rotateAll (sectors : List Nat) (s : State) : Nat × State :=
  sectors.foldl (fun (x : Nat × State) sector =>
    let r := rotateSector sector x.2.image.policy.rotatePerSector [] x.2
    (x.1 + r.1.length / 2, r.2)) (0, s)

/-- A lent tile comes home: the lent site becomes SPARE_FREE (R260), and its sector's suspects are tried again (R259). -/
def returnLent (site : Nat) (x : Nat × State) : Nat × State :=
  let s := x.2
  let tile := s.tileAt site
  match s.ownSpare (s.homeSector tile) with
  | some new => (x.1 + 1, retrySuspects (sectorOf site) (moveTile tile site new 14 0 (fun r => { r with state := 1 }) s))
  | none => x

/-- The lent tiles of a partition that find a site at home return; how many did. -/
def returnAll (sites : List Nat) (s : State) : Nat × State := sites.foldl (fun x site => returnLent site x) (0, s)

/-- Trace and counter settings that waited for a boundary take effect at once, as without a job (R505); their commands answer
STEP 0. -/
def settleSettings (p : Nat) (s : State) : State :=
  let seqs := (s.partOf p).boundarySeqs
  let s := modPart p (fun x => { x with boundarySeqs := [] }) s
  let s := each (s.partSites p) (fun y s => modSen y settleWords s) s
  completeAll seqs 0 (le 8 0) s

/-- The job is detached; what the command answers. -/
def detachByCommand (p : Nat) (s : State) : Nat × Nat × State :=
  let s := detachJob p (settleSettings p s)
  let r := rotateAll (s.partSectors p) s
  let lent := (r.2.health.filter fun x => x.2.state == 8 && x.2.logical != 0xFFFF && r.2.tilePart x.2.logical == p).map (·.1)
  let t := returnAll lent r.2
  (r.1, t.1, t.2)

/-- JOB_DETACH. -/
def execJobDetach (seq : Nat) (s : State) : Result :=
  match s.begun seq 0x0301 with
  | none => .next s
  | some c =>
    let p := c.arg 0 1
    runCmd seq (statusOf (decide (16 ≤ p)) false ((s.partOf p).state != 2) false false) (fun s =>
      let r := detachByCommand p s
      complete seq 0 (le 2 r.1 ++ le 2 r.2.1) r.2.2) s

/-! ## Queries (R503) -/

/-- A list in ascending order of a key; equal keys keep their order. -/
def insertStep {α : Type} (key : α → Nat) (x : α) : List α → List α
  | [] => [x]
  | y :: ys => if key x ≤ key y then x :: y :: ys else y :: insertStep key x ys

def sortSteps {α : Type} (key : α → Nat) (xs : List α) : List α := xs.foldr (insertStep key) []

/-- A query's response: the count, then the records. -/
def queryResponse (rs : List (List Byte)) : List Byte := le 2 rs.length ++ List.replicate 6 0 ++ rs.flatten

/-- STEP_VERDICT_QUERY. -/
def execStepVerdictQuery (seq : Nat) (s : State) : Result :=
  match s.begun seq 0x0302 with
  | none => .next s
  | some c =>
    let p := c.arg 0 1
    let n := c.arg 2 2
    runCmd seq (statusOf (16 ≤ p || n = 0 || 256 < n) false false false false) (fun s =>
      complete seq 0 (queryResponse (((sortSteps (·.step) ((s.partOf p).records.filter fun r => decide (c.arg 4 8 ≤ r.step))).take n).map
        (stepRecBytes p))) s) s

/-- The bytes of a digest record (Table 19.3). -/
def digestRecBytes (p : Nat) (r : DigestRec) : List Byte :=
  le 8 r.step ++ le 1 p ++ le 1 r.status ++ le 2 0 ++ le 4 r.lost ++ le 8 r.nIn ++ le 8 r.nOut ++ padTo 32 r.digest

/-- DIGEST_QUERY. -/
def execDigestQuery (seq : Nat) (s : State) : Result :=
  match s.begun seq 0x0303 with
  | none => .next s
  | some c =>
    let p := c.arg 0 1
    let n := c.arg 2 2
    runCmd seq (statusOf (16 ≤ p || n = 0 || 255 < n) false false false false) (fun s =>
      complete seq 0 (queryResponse (((sortSteps (·.step) ((s.partOf p).digests.filter fun r => decide (c.arg 4 8 ≤ r.step))).take n).map
        (digestRecBytes p))) s) s

end Sys2Proof.Machine
end

