-- ==== Sys2Proof/Machine/ObserveCmd.lean ====
section
/-!
DEFINITION. Observation commands and PLAUSIBILITY_LOAD (R172, R334, R444 to R448, R452 to R456, R466, R471, R505; Tables 18.4,
18.19, 20.15).
-/
namespace Sys2Proof.Machine

/-! ## Settings of a partition's sentinels (R79, R466, R505) -/

/-- SEN.OBS words written at the back of a sentinel: offset and value. -/
def putObs (ws : List (Nat × Nat)) (x : Sentinel) : Sentinel :=
  { x with obs := ws.foldl (fun m w => Sparse.set (obsReset w.1) m w.1 w.2) x.obs }

/-- Words for every sentinel of a partition: in force at once on a site without a logical tile, trace and counter settings
(`now`) also in a partition with no job attached (R505), else at the next step boundary (R79). -/
def setPartObs (p : Nat) (ws : List (Nat × Nat)) (trace now : Bool) (s : State) : State :=
  let job := s.hasJob p
  each (s.partAllSites p) (fun y s =>
    let s := modSen y (fun x =>
      let x := putObs ws { x with traceNew := x.traceNew || trace
                                  newWords := if now then (x.newWords ++ ws.map (·.1)).eraseDups else x.newWords }
      if s.tileAt y != 0xFFFF && now && !job then settleWords x else x) s
    settleIdle y s) s

/-- A setting that waits for the step boundary; without a job its command answers STEP 0. -/
def settingCommand (seq p : Nat) (ws : List (Nat × Nat)) (trace : Bool) (s : State) : State :=
  let s := setPartObs p ws trace true s
  if s.hasJob p then modPart p (fun x => { x with boundarySeqs := x.boundarySeqs ++ [seq] }) s
  else complete seq 0 (le 8 0) s

/-- TRACE_CONFIGURE's reserved fields are zero and its codes defined (Tables 18.5, 18.6, 18.8). -/
def traceArgOk (ctrl trigger post : Nat) : Bool :=
  ctrl / 2 ^ 15 == 0 && bitsOf 2 2 ctrl != 3 && trigger % 16 ≤ 5 && bitsOf 4 12 trigger == 0 && bitsOf 28 4 trigger == 0 &&
    post / 2 ^ 13 == 0

/-- TRACE_CONFIGURE. -/
def execTraceConfigure (seq : Nat) (s : State) : Result :=
  match s.begun seq 0x0504 with
  | none => .next s
  | some c =>
    let p := c.arg 0 1
    if p < 16 && s.blocked 6 2 p then .next (waitFor 6 2 p seq (.traceConfigure seq) s)
    else runCmd seq (statusOf (decide (16 ≤ p) || !traceArgOk (c.arg 4 4) (c.arg 8 4) (c.arg 12 4)) false (!s.defined p) false false)
      (settingCommand seq p
        [(0x200, c.arg 4 4), (0x204, c.arg 8 4), (0x208, c.arg 16 4), (0x20C, c.arg 20 4), (0x210, c.arg 12 4)] true) s

/-- COUNTER_CONFIGURE: 16 event codes of Table 18.10. -/
def execCounterConfigure (seq : Nat) (s : State) : Result :=
  match s.begun seq 0x0800 with
  | none => .next s
  | some c =>
    let p := c.arg 0 1
    let bad := (List.range 16).any fun k => decide (15 < c.arg (4 + k) 1)
    runCmd seq (statusOf (decide (16 ≤ p) || bad) false (!s.defined p) false false)
      (settingCommand seq p ((List.range 4).map fun k => (0x260 + 4 * k, c.arg (4 + 4 * k) 4)) false) s

/-! ## TRACE_DRAIN (R445) -/

/-- Valid records of a trace region. -/
def Sentinel.traceValid (x : Sentinel) : Nat := if x.traceWrapped then x.traceCap else x.traceNext

/-- The bytes of a trace region in SRAM order. -/
def traceRegion (site : Nat) (x : Sentinel) : List Byte :=
  (List.range x.traceCap).flatMap fun n =>
    let r := Sparse.get [] x.traceRecs n
    if r.isEmpty then (List.range 16).map fun k => Config.traceByte site (16 * n + k) else padTo 16 r

/-- A drain record: the header of Table 18.4 and the region. -/
def drainRecord (s : State) (id site : Nat) : List Byte :=
  let x := s.senOf site
  let region := traceRegion site x
  le 2 site ++ le 2 (s.tileAt site) ++ le 1 x.traceMode ++ le 1 x.traceState ++ le 2 x.traceValid ++ le 2 x.traceNext ++
    le 2 (x.traceTrig.getD 0xFFFF) ++ le 4 (Sparse.get 0 x.counters 12) ++ le 8 (s.slotAt site) ++ le 4 id ++ le 4 0 ++
    le 8 (crc64 region).toNat ++ List.replicate 24 0 ++ region

/-- One site drained; with REARM its writer starts again. -/
def drainSite (id base : Nat) (rearm : Bool) (site : Nat) (s : State) : State :=
  let addr := tier2Addr (regionOf (sectorOf site)) (base + (sectorOf site % 5 * 168 + site % 168) * 65600)
  let s : State := setDram (Memory.write 0 s.dram addr (drainRecord s id site)) s
  if rearm then modSen site rearmTrace s else s

/-- TRACE_DRAIN: `time` is its length in ms. -/
def execTraceDrain (seq time : Nat) (s : State) : Result :=
  match s.begun seq 0x0505 with
  | none => .next s
  | some c =>
    let p := c.arg 0 1
    let base := c.arg 8 8
    let bad := decide (16 ≤ p) || base % 4096 != 0 || decide (tier2Space < base + 840 * 65600)
    if p < 16 && s.blocked 6 2 p then .next (waitFor 6 2 p seq (.traceDrain seq time) s)
    else runCmd seq (statusOf bad (s.image.grade == 2) (!s.defined p) false false) (fun s =>
      let id := (s.drainId + 1) % 2 ^ 32
      let sites := s.partSites p
      let s := each sites (drainSite id base (bitOf 0 (c.arg 1 1))) (setDrainId id s)
      let s := record 0xB006 (le 1 p ++ le 1 (c.arg 1 1) ++ le 2 sites.length ++ le 4 id ++ le 4 time) s
      complete seq 0 (le 4 id ++ le 2 sites.length ++ le 2 0) s) s

/-! ## Watches (R453 to R456, R471) -/

/-- A step, by its bits [31:0], has begun in the partition (R454). -/
def State.stepBegun (s : State) (p low : Nat) : Bool :=
  let x := s.partOf p
  s.hasJob p && (later32 (x.step % 2 ^ 32) low || (x.opened && x.step % 2 ^ 32 == low))

/-- The dump area overlaps the partition's tier-2 copy slots or its digest area. -/
def Job.dumpOverlaps (j : Job) (base size : Nat) : Bool :=
  overlaps base size j.tier2Base (copyBytes j) || overlaps base size j.digestBase j.digestSize

/-- The lowest watch number that is free. -/
def State.freeWatch (s : State) (p : Nat) : Option Nat := (List.range 8).find? fun n => !(s.watchOf p n).armed

/-- A watch entry in every sentinel of the partition, its slices empty at the hubs. -/
def armWatch (p n : Nat) (entry : Dword) (base size : Nat) (s : State) : State :=
  let id := (s.armId + 1) % 2 ^ 32
  let s := modPart p (fun x => { x with
    watches := Sparse.set {} x.watches n { armed := true, entry := entry, base := base, size := size, armId := id } }) (setArmId id s)
  let s := each (s.partSectors p) (fun sec s => match s.server sec with
    | some h => modHub h (fun y => { y with watchSeq := Sparse.set 0 y.watchSeq (8 * sec + n) 0
                                            watchDrop := Sparse.set 0 y.watchDrop (8 * sec + n) 0 }) s
    | none => s) s
  setPartObs p [(0x220 + 8 * n, entry.toNat % 2 ^ 32), (0x224 + 8 * n, entry.toNat / 2 ^ 32)] false false s

/-- WATCH_ARM. -/
def execWatchArm (seq : Nat) (s : State) : Result :=
  match s.begun seq 0x0506 with
  | none => .next s
  | some c =>
    let p := c.arg 0 1
    let size := c.arg 4 4
    let entry := c.arg 8 8
    let base := c.arg 16 8
    let bad := decide (16 ≤ p) || decide (size < 24576) || size % 4096 != 0 || base % 4096 != 0 || !bitOf 31 entry ||
      bitsOf 26 5 entry != 0 || decide (tier2Space < base + size) || (s.jobOf p).dumpOverlaps base size
    if p < 16 && s.blocked 5 2 p then .next (waitFor 5 2 p seq (.watchArm seq) s)
    else runCmd seq (statusOf bad (s.image.grade == 2) (!s.defined p || s.stepBegun p (entry / 2 ^ 32)) false (s.freeWatch p).isNone)
      (fun s =>
        let n := (s.freeWatch p).getD 0
        let s := armWatch p n (BitVec.ofNat 64 entry) base size s
        complete seq 0 (le 1 n ++ le 3 0 ++ le 4 (sliceEntries size) ++ le 4 s.armId) s) s

/-- Matches of a watch that were dropped: those recorded, and those of the open step. -/
def State.watchDropped (s : State) (p n : Nat) : Nat :=
  (s.watchOf p n).dropped + ((s.partSectors p).map fun sec => match s.server sec with
    | some h => Sparse.get 0 (s.hubOf h).watchDrop (8 * sec + n)
    | none => 0).sum

/-- WATCH_DISARM: the entry is no longer valid; staged blocks still reach their entries. -/
def execWatchDisarm (seq : Nat) (s : State) : Result :=
  match s.begun seq 0x0507 with
  | none => .next s
  | some c =>
    let p := c.arg 0 1
    let n := c.arg 1 1
    let w := s.watchOf p n
    if p < 16 && s.blocked 5 2 p then .next (waitFor 5 2 p seq (.watchDisarm seq) s)
    else runCmd seq (statusOf (decide (16 ≤ p) || decide (8 ≤ n) || !w.armed) false false false false) (fun s =>
      let dropped := s.watchDropped p n
      let s := modPart p (fun x => { x with watches := Sparse.set {} x.watches n { w with armed := false } }) s
      let s := setPartObs p [(0x220 + 8 * n, w.entry.toNat % 2 ^ 31)] false false s
      complete seq 0 (le 4 (min dropped (2 ^ 32 - 1))) s) s

/-! ## HANG_SNAPSHOT (R334, R505) -/

/-- HANG_SNAPSHOT: with TAKE a new snapshot is taken first; one in progress is waited for. -/
def execHangSnapshot (seq : Nat) (s : State) : Result :=
  match s.begun seq 0x0508 with
  | none => .next s
  | some c =>
    let p := c.arg 0 1
    let take := bitOf 0 (c.arg 1 1)
    let kept := (s.partOf p).snapshot
    runCmd seq (statusOf (decide (16 ≤ p)) false (!s.defined p || (!take && kept.isNone)) false false) (fun s =>
      match kept with
      | some x => if !take && x.done then
          let a := snapshotAnswer p (c.arg 4 4) x
          complete seq a.1 a.2 s
        else takeSnapshot p 0 seq [] s
      | none => takeSnapshot p 0 seq [] s) s

/-! ## PLAUSIBILITY_LOAD (R172) -/

/-- PLAUSIBILITY_LOAD. -/
def execPlausibilityLoad (seq : Nat) (s : State) : Result :=
  match s.begun seq 0x0900 with
  | none => .next s
  | some c =>
    let p := c.arg 0 1
    runCmd seq (statusOf (decide (16 ≤ p) || !setOk c.bulk) false (!s.defined p) false (s.partOf p).load.isSome) (fun s =>
      let s := startLoad p { set := c.bulk, seq := seq } s
      if (s.partHubs p).isEmpty then switchNow p s else s) s

end Sys2Proof.Machine
end

