-- ==== Sys2Proof/Machine/Window.lean ====
section
/-!
DEFINITION. The service window (R484 to R499, R432, R433, R451, R452, R511, R512): its registers, the privilege check, the mailbox
doorbell, the begin of commands, GET_IDENTITY and GET_STATUS.
-/
namespace Sys2Proof.Machine

/-! ## The registers' values (Tables 20.2 to 20.8, 17.9 to 17.11) -/

/-- The window is reached: power is good, and when manager B is active the inter-die manager link works (R23). -/
def State.windowUp (s : State) : Bool := s.powered && !s.mgrA.dieLost && (s.active == 0 || !s.links.any fun l => l.kind == 3)

/-- ID.CAPS: hot standby, manager B active, tier 2, tier 3, edge die B. -/
def State.caps (s : State) : Nat :=
  flag s.standby + 2 * flag (s.active == 1) + 4 * flag (bitOf 1 s.image.dies) + 8 * flag (bitOf 2 s.image.dies) +
    16 * flag (bitOf 0 s.image.dies)

/-- ID.CONFIG. -/
def State.config (s : State) : Nat :=
  s.image.grade % 4 + 4 * s.sectors.length + 2 ^ 16 * s.boot.step + 2 ^ 20 * flag s.boot.ready + 2 ^ 21 * flag s.boot.lock +
    2 ^ 22 * flag s.boot.recovery

/-- ID.IMAGE. -/
def State.imageReg (s : State) : Nat :=
  (s.mgr s.active).slot % 2 + 2 * (s.boot.bootCtl.trialState % 4) + 8 * flag (s.standby && s.mgrA.digest == s.mgrB.digest)

/-- The calendar as a 64-bit number: seconds in [39:0], fraction in [63:40]. -/
def State.calendar (s : State) : Nat := ofLe (calBytes ((s.island s.active).calNow s.ticks))

/-- EVR.STATUS (Table 17.10). -/
def Recorder.status (r : Recorder) : Nat :=
  flag r.frozen + 4 * flag r.skipped + 8 * flag r.stageOverflow + 16 * flag r.mirrorDegraded + 32 * flag r.overload

/-- DBG.STOP_SLOT: N while PENDING, S_min while STOPPED or SCANNED. -/
def Stop.slotReg (x : Stop) : Nat := if x.state = 1 then x.n else if 2 ≤ x.state then x.sMin else 0

/-- DBG.STOP. -/
def Stop.reg (x : Stop) : Nat := x.state % 4 + 4 * flag x.exact + 8 * flag x.scanBusy

/-- DBG.TRACE: partitions with TRACE_EN set, and with a writer HELD. -/
def State.traceReg (s : State) : Nat :=
  ((List.range 16).map fun p =>
    let xs := (s.partSites p).map s.senOf
    2 ^ p * flag (xs.any fun x => bitOf 3 x.ctrl) + 2 ^ (16 + p) * flag (xs.any fun x => x.traceState == 3)).sum

/-- DBG.WATCH: armed watches by partition. -/
def State.watchReg (s : State) : Nat :=
  ((List.range 16).map fun p => 16 ^ p * ((s.partOf p).watches.filter fun w => w.2.armed).length).sum

/-- The unit of a counter selector: level, unit and index (R451). -/
def selLevel (v : Nat) : Nat := bitsOf 30 2 v
def selUnit (v : Nat) : Nat := bitsOf 16 14 v
def selIndex (v : Nat) : Nat := v % 128

/-- A tenant reads counters of its partition's sites and sectors, an operator every counter (R452). -/
def State.cntAllowed (s : State) (sel : Nat) (priv : Priv) : Bool :=
  1 ≤ priv.level || (selLevel sel == 0 && s.tileAt (selUnit sel) != 0xFFFF && s.tilePart (s.tileAt (selUnit sel)) == priv.tenant) ||
    (selLevel sel == 1 && s.sectorPart (selUnit sel) == priv.tenant)

/-- CNT.VALUE: zero when the held snapshot is of another unit. -/
def Window.cntValue (w : Window) : Nat :=
  if w.cntUnit = some (w.cntSelect / 65536) then Sparse.get 0 w.cntVals (selIndex w.cntSelect) else 0

/-- The value of a _LO and _HI pair of type RO, by the offset of its _LO register. -/
def State.pairOf (s : State) (off : Nat) : Option Nat :=
  match off with
  | 0x20 => some (s.boot.power.getD {}).serial.toNat
  | 0x2C => some s.image.sequence
  | 0x100 => some (s.ms % 2 ^ 48)
  | 0x110 => some s.calendar
  | 0x120 => some s.ras.toNat
  | 0x808 => some s.recorder.ring.first
  | 0x810 => some s.recorder.ring.next
  | 0x820 => some s.recorder.winFirst
  | 0x830 => some s.recorder.winNext
  | 0x910 => some s.win.cntValue
  | 0x918 => some s.win.cntTime.toNat
  | 0xA30 => some s.win.thm.engage.toNat
  | 0xB08 => some s.stop.slotReg
  | 0xB18 => some s.watchReg
  | _ => none

/-- A register of a channel (Table 20.8). -/
def State.channelReg (s : State) (ch off : Nat) : Nat :=
  let x := s.channelOf ch
  if off = 0x04 then x.reqTag.toNat
  else if off = 0x08 then x.reqOp.toNat
  else if off = 0x0C then x.reqLen.toNat
  else if 0x10 ≤ off && off < 0x80 then (Sparse.get 0 x.args ((off - 0x10) / 4)).toNat
  else if off = 0x80 then x.ackState % 4 + 4 * flag x.ackPending + 256 * x.refusal
  else if off = 0x84 then x.ackSeq
  else if off = 0x88 then
    let own := s.win.bulkOwner == some ch
    flag x.cplValid + 2 * flag own + 4 * flag (own && s.win.bulkLocked) +
      8 * (s.win.cmds.filter fun c => c.channel == ch && !c.orphan).length
  else if off = 0x8C then x.cplTag.toNat
  else if off = 0x90 then x.cplSeq
  else if off = 0x94 then x.cplStatus + 256 * flag x.cplBulk
  else if off = 0x98 then x.cplLen
  else if 0xA0 ≤ off then field x.rsp (off - 0xA0) 4
  else 0

/-- A bitmap of 32 bits from a list of numbers. -/
def bitmap32 (xs : List Nat) (k : Nat) : Nat :=
  ((List.range 32).map fun n => 2 ^ n * flag (xs.contains (32 * k + n))).sum

/-- A register of the ID, TIM and ALT blocks that is no half of a pair. -/
def State.idReg (s : State) (off : Nat) : Nat :=
  match off with
  | 0x00 => 0x5548 + 65536 * Config.vendorId.toNat
  | 0x04 => Config.designStepping.toNat + 2 ^ 16 + 2 ^ 24 * (s.image.profile % 256)
  | 0x08 => s.image.fwVersion
  | 0x0C => s.caps
  | 0x10 => s.config
  | 0x14 => s.image.sectors % 2 ^ 32
  | 0x18 => bitsOf 32 32 s.image.sectors
  | 0x1C => bitsOf 64 16 s.image.sectors
  | 0x28 => s.imageReg
  | 0x108 => s.cycles
  | 0x118 => flag (s.island s.active).calValid + 2 * flag s.win.calSet
  | 0x200 => s.win.altStatus
  | 0x204 => s.altLevel
  | 0x208 => s.win.altMask
  | 0x20C => s.win.altFatal
  | 0x210 => s.pins % 2 + 2 * flag (s.win.altFatal != 0) + 4 * flag (bitOf 1 s.pins) + 8 * flag (bitOf 2 s.pins) +
      65536 * s.win.raises
  | 0x214 => ((List.range 16).map fun p => 2 ^ p * flag ((s.partOf p).state == 7) + 2 ^ (16 + p) * flag (s.partOf p).degraded).sum
  | 0x218 => s.win.denied
  | _ => 0

/-- A register of the EVR, CNT, THM and DBG blocks that is no half of a pair. -/
def State.reportReg (s : State) (off : Nat) : Nat :=
  let r := s.recorder
  let t := s.win.thm
  match off with
  | 0x800 => r.status
  | 0x818 => r.cursorLo
  | 0x81C => r.cursorHi
  | 0x828 => r.winRecords + 65536 * r.winBytes
  | 0x838 => r.staging.length
  | 0x83C => r.stageDrops
  | 0x840 => r.suppressed
  | 0x844 => r.intakeDrops
  | 0x848 => r.ring.overwritten
  | 0x900 => s.win.cntSelect
  | 0x908 => 2 * flag s.win.cntDenied + 4 * flag s.win.cntBad
  | 0xA00 => t.stage + 256 * t.sector + 2 ^ 15 * flag t.trip
  | 0xA04 => t.limit
  | 0xA08 => t.hotModel + 65536 * t.hotSector
  | 0xA0C => t.hotSensor + 65536 * t.hotSensorNo
  | 0xA10 => bitmap32 t.broken 0
  | 0xA14 => bitmap32 t.broken 1
  | 0xA18 => bitmap32 t.broken 2
  | 0xA20 => bitmap32 t.retired 0
  | 0xA24 => bitmap32 t.retired 1
  | 0xA28 => bitmap32 t.retired 2
  | 0xB00 => s.stop.reg
  | 0xB10 => if 2 ≤ s.stop.state then s.stop.sMax - s.stop.sMin else 0
  | 0xB14 => s.traceReg
  | 0xB20 => s.win.jtag
  | _ => 0

/-- A word of the health map (R489): eight codes of 4 bits. -/
def State.healthWord (s : State) (off : Nat) : Nat :=
  ((List.range 8).map fun k =>
    let site := 2 * (off - 0x2000) + k
    if site < 13440 then 16 ^ k * ((s.siteRec site).state % 16) else 0).sum

/-- The word that a read of an offset returns when it is allowed, live: the _HI half of a pair from `hi`. -/
def State.wordAt (s : State) (hi : Nat → Nat) (off : Nat) : Nat :=
  match s.pairOf off with
  | some v => v % 2 ^ 32
  | none =>
    match s.pairOf (off - 4) with
    | some _ => hi (off - 4)
    | none =>
      if off < 0x300 then s.idReg off
      else if 0x400 ≤ off && off < 0x800 then s.channelReg ((off - 0x400) / 256) (off % 256)
      else if 0x800 ≤ off && off < 0x1000 then s.reportReg off
      else if 0x1000 ≤ off && off < 0x2000 then field s.recorder.window (off - 0x1000) 4
      else if 0x2000 ≤ off && off < 0x4000 then s.healthWord off
      else if 0x4000 ≤ off && off < 0x8000 then ofLe (Memory.bytes 0 s.win.bulk (off - 0x4000) 4)
      else 0

/-! ## The privilege check (R485, R499, Table 20.1) -/

/-- The bulk window is open to a level that is not lower than the claim's; a tenant's claim is open to that tenant. -/
def Window.bulkOpen (w : Window) (priv : Priv) : Bool :=
  w.bulkOwner.isSome && (w.bulkPriv.level < priv.level ||
    (w.bulkPriv.level == priv.level && (priv.level != 0 || w.bulkPriv.tenant == priv.tenant)))

/-- A read is allowed. -/
def State.mayRead (s : State) (off : Nat) (priv : Priv) : Bool :=
  if (0x800 ≤ off && off < 0x900) || (0x1000 ≤ off && off < 0x2000) then 1 ≤ priv.level
  else if 0x910 ≤ off && off < 0x918 then s.win.cntUnit.isNone || s.cntAllowed s.win.cntSelect priv
  else if 0x4000 ≤ off && off < 0x8000 then s.win.bulkOpen priv
  else true

/-- A write is allowed. -/
def State.mayWrite (s : State) (off : Nat) (priv : Priv) : Bool :=
  if (0x800 ≤ off && off < 0x900) || (0x1000 ≤ off && off < 0x2000) || (0x200 ≤ off && off < 0x300) then 1 ≤ priv.level
  else if off = 0xB20 then priv.level == 2
  else if 0x4000 ≤ off && off < 0x8000 then s.win.bulkOpen priv
  else true

/-- A refused access is counted in ALT.DENIED. -/
def countDenied (s : State) : State := modWin (fun w => { w with denied := satAdd (2 ^ 32 - 1) w.denied 1 }) s

/-! ## Reads (R484) -/

/-- The addressed bytes of a word. -/
def wordPart (off size v : Nat) : Nat := bitsOf (8 * (off % 4)) (8 * size) v

/-- A read of 1, 2 or 4 bytes: a _LO register latches its _HI register; a refused read returns zero. -/
def readWindow (addr size : Nat) (priv : Priv) (s : State) : State :=
  let off := addr / 4 * 4
  if !s.windowUp then modWin (fun w => { w with readData := 0 }) s
  else if !s.mayRead off priv then countDenied (modWin (fun w => { w with readData := 0 }) s)
  else
    let v := s.wordAt (fun lo => Sparse.get 0 s.win.latches lo) off
    modWin (fun w => { w with
      readData := BitVec.ofNat 32 (wordPart addr size v)
      latches := match s.pairOf off with
        | some x => Sparse.set 0 w.latches off (x / 2 ^ 32 % 2 ^ 32)
        | none => w.latches }) s

/-! ## Writes of the ALT, CNT, EVR and DBG blocks -/

/-- ALT.STATUS bits cleared (R486): a bit whose condition is still present, or that occurred in this RAS tick, stays. -/
def clearAlerts (v : Nat) (s : State) : State :=
  let fresh := (List.range 8).foldl (fun m n => if Sparse.get 0 s.win.altAt n = s.ticks + 1 then m ||| 2 ^ n else m) 0
  let keep := s.altLevel ||| fresh ||| (0xFFFFFFFF ^^^ v)
  syncPins (modWin (fun w => { w with altStatus := w.altStatus &&& keep }) s)

/-- Counters of a unit, as a snapshot latches them (R449, R450, R451). -/
def State.countersOf (s : State) (level unit : Nat) : Sparse Nat :=
  let vals : List Nat := if level = 0 then (List.range 32).map fun k => senWord s unit (0x40 + 4 * k)
    else if level = 1 then (List.range 64).map fun k =>
      if 16 ≤ k && k ≤ 25 then Sparse.get 0 (s.hubOf unit).veCounts (k - 16)
      else if k = 26 then (s.hubOf unit).veSkipped else Sparse.get 0 (s.hubOf unit).counters k
    else (List.range 128).map fun k => Sparse.get 0 s.gcount k
  (List.range vals.length).foldl (fun m k => Sparse.set 0 m k (vals.getD k 0)) []

/-- A selector names no counter: a reserved level or index, or an absent unit. -/
def State.badSelect (s : State) (sel : Nat) : Bool :=
  match selLevel sel with
  | 0 => 32 ≤ selIndex sel || !s.sen.any (fun x => x.1 == selUnit sel && !x.2.silent)
  | 1 => 64 ≤ selIndex sel || !s.works (selUnit sel)
  | 2 => selUnit sel != 0
  | _ => true

/-- CNT.SNAPSHOT (R451, R452, R488). -/
def takeCounters (priv : Priv) (s : State) : State :=
  let sel := s.win.cntSelect
  if s.badSelect sel then modWin (fun w => { w with cntBad := true, cntDenied := false }) s
  else if !s.cntAllowed sel priv then modWin (fun w => { w with cntBad := false, cntDenied := true }) s
  else
    let vals := s.countersOf (selLevel sel) (selUnit sel)
    modWin (fun w => { w with cntBad := false, cntDenied := false, cntUnit := some (sel / 65536), cntVals := vals, cntTime := s.ras }) s

/-- Whole records from an offset of the ring, at most `n` of them and 4,096 bytes (R433). -/
def windowRecords : Nat → Nat → Memory → Nat → List (List Byte)
  | 0, _, _, _ => []
  | n + 1, room, m, off =>
    let len := ringLen m off
    if room < len then [] else ringGet m off len :: windowRecords n (room - len) m ((off + len) % ringSize)

/-- EVR.CURSOR_HI written: the window is loaded (R433). -/
def loadWindow (v : Word) (s : State) : State :=
  let s := modRec (fun r => { r with cursorHi := v.toNat }) s
  let r := s.recorder
  let cursor := r.cursorLo + 2 ^ 32 * r.cursorHi
  let from_ := max cursor r.ring.first
  let m := s.mram s.active
  let rs := if r.ring.next ≤ from_ || !(s.mgr s.active).mramOk then []
    else windowRecords (min 256 (r.ring.next - from_)) 4096 m (ringSkip (from_ - r.ring.first) m r.ring.firstOff)
  let start := if r.ring.next ≤ cursor then cursor else from_
  modRec (fun r => { r with
    skipped := decide (cursor < r.ring.first), winFirst := start, winNext := start + rs.length, winRecords := rs.length
    winBytes := rs.flatten.length, window := rs.flatten }) s

/-- DBG.JTAG_CTRL written (R511): a change is recorded. -/
def writeJtag (v : Word) (priv : Priv) (s : State) : State :=
  let n := v.toNat % 4
  if n = s.win.jtag then s
  else record 0x8002 (le 1 0xFF ++ le 1 priv.level ++ le 2 0 ++ le 4 0 ++ le 1 0 ++ le 3 0) (modWin (fun w => { w with jtag := n }) s)

/-! ## The doorbell (R490, R493, R496, R497) -/

/-- The host's channels. -/
def hostChannel (ch : Nat) : Bool := ch == 0 || ch == 2 || ch == 3

/-- CPL_ACK: the command's buffer and its lock of the bulk window are free, and the next completion is posted. -/
def ackCompletion (ch : Nat) (s : State) : State :=
  let x := s.channelOf ch
  if !x.cplValid then s
  else
    let s := match (s.cmd x.cplSeq).bind Cmd.oob with
      | some (die, _) => modPort die (fun p => { p with retry := none, busHeld := false }) s
      | none => s
    let s := modWin (fun w => unlockBulk x.cplSeq { w with cmds := w.cmds.filter fun c => c.seq != x.cplSeq }) s
    postNext ch (modChannel ch (fun x => { x with cplValid := false }) s)

/-- RELEASE: the channel gives the bulk window up, when a lock clears (R497). -/
def releaseBulk (ch : Nat) (w : Window) : Window :=
  if w.bulkOwner != some ch then w
  else if w.bulkLocked then { w with bulkRelease := true } else { w with bulkOwner := none }

/-- CLAIM: granted when no channel holds the bulk window; the privilege of the write is kept. -/
def claimBulk (ch : Nat) (priv : Priv) (w : Window) : Window :=
  if w.bulkOwner.isSome then w else { w with bulkOwner := some ch, bulkPriv := priv, bulkRelease := false }

/-- MBX.DOORBELL, in the order CPL_ACK, RELEASE, CLAIM, SUBMIT. -/
def ringDoorbell (ch v : Nat) (priv : Priv) (s : State) : State :=
  let s := if bitOf 1 v then ackCompletion ch s else s
  let s := if bitOf 3 v then modWin (releaseBulk ch) s else s
  let s := if bitOf 2 v then modWin (claimBulk ch priv) s else s
  if bitOf 0 v then submitOn ch priv none [] s else s

/-- A request register, locked while a submission is pending (R490). -/
def writeRequest (off : Nat) (v : Word) (x : Channel) : Channel :=
  if x.ackPending then x
  else if off = 0x04 then { x with reqTag := v }
  else if off = 0x08 then { x with reqOp := v &&& 0xFFFF }
  else if off = 0x0C then { x with reqLen := v &&& 0x7FFF7F }
  else if 0x10 ≤ off && off < 0x80 then { x with args := Sparse.set 0 x.args ((off - 0x10) / 4) v }
  else x

/-- A write of a channel's registers. -/
def writeChannel (ch off : Nat) (v : Word) (priv : Priv) (s : State) : State :=
  if !hostChannel ch then s
  else if off = 0 then ringDoorbell ch v.toNat priv s
  else modChannel ch (writeRequest off v) s

/-! ## Writes -/

/-- An allowed write of any register. -/
def writeRegister (off : Nat) (v : Word) (priv : Priv) (s : State) : State :=
  if off % 4 != 0 then s
  else if off = 0x200 then clearAlerts v.toNat s
  else if off = 0x208 then syncPins (modWin (fun w => { w with altMask := v.toNat % 256 }) s)
  else if 0x400 ≤ off && off < 0x800 then writeChannel ((off - 0x400) / 256) (off % 256) v priv s
  else if off = 0x818 then modRec (fun r => { r with cursorLo := v.toNat }) s
  else if off = 0x81C then loadWindow v s
  else if off = 0x900 then modWin (fun w => { w with cntSelect := v.toNat &&& 0xFFFF007F }) s
  else if off = 0x904 then takeCounters priv s
  else if off = 0xB20 then writeJtag v priv s
  else if 0x4000 ≤ off && off < 0x8000 then
    modWin (fun w => if w.bulkLocked then w else { w with bulk := Memory.write 0 w.bulk (off - 0x4000) (le 4 v.toNat) }) s
  else s

/-- A write of 4 bytes under the privilege check. -/
def writeWindow (off : Nat) (v : Word) (priv : Priv) (s : State) : State :=
  if !s.windowUp then s
  else if !s.mayWrite off priv then countDenied s
  else writeRegister off v priv s

/-! ## The window's commands -/

/-- REGISTER_WRITE: one of another size than 4 bytes is ignored (R484). -/
def execRegisterWrite (offset size : Nat) (value : Word) (priv : Priv) (s : State) : Result :=
  .next (if size = 4 then writeWindow offset value priv s else s)

/-- LO_REGISTER_READ: the read of a register; a _LO register latches. -/
def execLoRegisterRead (offset size : Nat) (priv : Priv) (s : State) : Result := .next (readWindow offset size priv s)

/-- SUBMIT. -/
def execSubmit (channel : Nat) (priv : Priv) (s : State) : Result := .next (writeWindow (0x400 + 256 * (channel % 4)) 1 priv s)

/-- CPL_ACK; on channel 1 the requester has accepted the completion on the bus (R509). -/
def execCplAck (channel : Nat) (s : State) : Result :=
  .next (if channel = 1 then ackCompletion 1 s else if s.windowUp && hostChannel channel then ackCompletion channel s else s)

/-- CLAIM. -/
def execClaim (channel : Nat) (priv : Priv) (s : State) : Result := .next (writeWindow (0x400 + 256 * (channel % 4)) 4 priv s)

/-- RELEASE. -/
def execRelease (channel : Nat) (s : State) : Result :=
  .next (if s.windowUp && hostChannel channel then modWin (releaseBulk channel) s else s)

/-- CNT_SNAPSHOT. -/
def execCntSnapshot (priv : Priv) (s : State) : Result := .next (writeWindow 0x904 0 priv s)

/-- CURSOR_HI_WRITE. -/
def execCursorHiWrite (value : Word) (priv : Priv) (s : State) : Result := .next (writeWindow 0x81C value priv s)

/-- ALT_STATUS_CLEAR. -/
def execAltStatusClear (value : Word) (priv : Priv) (s : State) : Result := .next (writeWindow 0x200 value priv s)

/-- JTAG_CTRL_WRITE. -/
def execJtagCtrlWrite (value : Word) (priv : Priv) (s : State) : Result := .next (writeWindow 0xB20 value priv s)

/-- WINDOW_FORWARD: an access that edge die A forwards to the active manager of edge die B (R23). -/
def execWindowForward (access : Access) (s : State) : Result :=
  let s := receive (.windowForward access) s
  .next (if s.active != 1 || !s.windowUp then s
    else if !access.isWrite then readWindow access.offset access.size access.priv s
    else if access.size = 4 then writeWindow access.offset access.value access.priv s
    else s)

/-- FUNCTION_LEVEL_RESET (R512): channels 0, 2 and 3 are cleared; commands run on, their completions are discarded. -/
def execFunctionLevelReset (s : State) : Result :=
  let mine (c : Cmd) : Bool := hostChannel c.channel
  let lost := (s.win.cmds.filter fun c => mine c && c.done).map (·.seq)
  let unsent := (s.win.cmds.filter fun c => mine c && c.done && !c.posted).length
  let free (w : Window) : Window := if w.bulkLocked then { w with bulkRelease := true } else { w with bulkOwner := none }
  .next (if !s.powered then s
    else modWin (fun w => free (lost.foldl (fun w q => unlockBulk q w) { w with
      channels := Sparse.mapAll {} w.channels fun n x => if hostChannel n then {} else x
      discarded := w.discarded + unsent
      cmds := (w.cmds.filter fun c => !(mine c && c.done)).map fun c => if mine c then { c with orphan := true } else c })) s)

/-! ## Begin (R492, R494) -/

/-- Reserved fields, bits and flags of a command's inline argument (R17; Tables 20.10 to 20.15). -/
def Cmd.reservedOk (c : Cmd) : Bool :=
  let z (o w : Nat) : Bool := c.arg o w == 0
  match c.op with
  | 0x0101 | 0x0105 | 0x0402 | 0x0202 | 0x0507 | 0x0600 | 0x0601 => z 2 2
  | 0x0102 => c.arg 2 1 ≤ 1 && z 3 1
  | 0x0103 | 0x0400 => z 3 1
  | 0x0104 | 0x0201 | 0x0203 | 0x0301 | 0x0504 | 0x0506 | 0x0701 | 0x0800 | 0x0900 => z 1 3
  | 0x0200 | 0x0302 | 0x0303 => z 1 1
  | 0x0204 => z 2 2 && c.arg 1 1 < 16
  | 0x0503 => c.arg 0 1 ≤ 1 && z 1 7
  | 0x0505 => c.arg 1 1 ≤ 1 && z 2 6
  | 0x0508 => c.arg 1 1 ≤ 1 && z 2 2
  | _ => true

/-- Every command accepted before this one that names the same object has begun (R492). -/
def State.mayBegin (s : State) (c : Cmd) : Bool :=
  (s.win.cmds.takeWhile fun k => k.seq != c.seq).all fun k => k.began || c.object.isNone || k.object != c.object

/-- COMMAND_BEGIN: privilege and layout are checked first (R494). -/
def execCommandBegin (seq : Nat) (s : State) : Result :=
  .next (match s.cmd seq with
    | none => s
    | some c =>
      if c.began || !s.serving || !s.mayBegin c then s
      else
        let s := modCmd seq (fun c => { c with began := true, beganAt := s.ras }) s
        if c.denied then complete seq 2 [] s
        else if !c.lengthsOk || !c.reservedOk then complete seq 3 [] s else s)

/-! ## GET_IDENTITY and GET_STATUS (Table 20.10) -/

/-- The ID block, 52 bytes. -/
def State.identity (s : State) : List Byte :=
  (List.range 13).flatMap fun k => le 4 (s.wordAt (fun lo => (s.pairOf lo).getD 0 / 2 ^ 32) (4 * k))

/-- GET_IDENTITY. -/
def execGetIdentity (seq : Nat) (s : State) : Result :=
  match s.begun seq 0x0001 with
  | none => .next s
  | some _ => runCmd seq 0 (fun s => complete seq 0 s.identity s) s

/-- PARTITIONS of GET_STATUS: a byte for each partition. -/
def Partition.statusByte (x : Partition) : Nat := x.state % 8 + 128 * flag x.degraded

/-- GET_STATUS. -/
def execGetStatus (seq : Nat) (s : State) : Result :=
  match s.begun seq 0x0002 with
  | none => .next s
  | some _ => runCmd seq 0 (fun s => complete seq 0
      (le 4 s.config ++ le 4 s.win.altStatus ++ le 4 s.altLevel ++ le 4 s.win.altFatal ++ le 4 s.stop.reg ++ le 4 (s.reportReg 0xA00) ++
        (List.range 16).flatMap fun p => le 1 (s.partOf p).statusByte) s) s

end Sys2Proof.Machine
end

