-- ==== Sys2Proof/Machine/Oob.lean ====
section
/-!
DEFINITION. The out-of-band port and the TAP of each edge die (R507 to R511, R519, R521). Encodings of MCTP control answers are
those of DSP0236, which the manual names and does not restate (PRESUMED, log entry 14).
-/
namespace Sys2Proof.Machine

/-! ## MCTP control (R507) -/

/-- The endpoint of a die answers: its manager's firmware runs (R519) and is not halted. -/
def State.portUp (s : State) (die : Nat) : Bool := s.powered && (s.mgr die).running && !(s.mgr die).dieLost && !(s.port die).halted

/-- A control message that the endpoint answers: without the integrity bit, and physically addressed until an endpoint ID is
assigned. -/
def State.answersControl (s : State) (die : Nat) (physical integrity : Bool) : Bool :=
  s.portUp die && !integrity && (physical || (s.port die).assigned)

/-- An answer leaves the port. -/
def answerControl (die : Nat) (bs : List Byte) (s : State) : State := modPort die (fun p => { p with tx := p.tx ++ [(0, bs)] }) s

/-- SET_ENDPOINT_ID: 0 to 7 and 0xFF are no endpoint IDs (ERROR_INVALID_DATA). -/
def execSetEndpointId (die eid : Nat) (physical integrity : Bool) (s : State) : Result :=
  .next (if !s.answersControl die physical integrity then s
    else if eid < 8 || 255 ≤ eid then answerControl die (le 1 2) s
    else answerControl die (le 2 0 ++ le 1 eid ++ le 1 0) (modPort die (fun p => { p with eid := eid, assigned := true }) s))

/-- GET_ENDPOINT_ID: a simple endpoint with a dynamic endpoint ID, 0 while none is assigned. -/
def execGetEndpointId (die : Nat) (physical integrity : Bool) (s : State) : Result :=
  .next (if s.answersControl die physical integrity then answerControl die (le 1 0 ++ le 1 (s.port die).eid ++ le 2 0) s else s)

/-- GET_MCTP_VERSION_SUPPORT: one version. -/
def execGetMctpVersionSupport (die : Nat) (physical integrity : Bool) (s : State) : Result :=
  .next (if s.answersControl die physical integrity then answerControl die (le 1 0 ++ le 1 1 ++ le 4 Config.mctpVersion.toNat) s else s)

/-- GET_MESSAGE_TYPE_SUPPORT: types 0 and 0x7E. -/
def execGetMessageTypeSupport (die : Nat) (physical integrity : Bool) (s : State) : Result :=
  .next (if s.answersControl die physical integrity then answerControl die (le 1 0 ++ le 1 2 ++ le 1 0 ++ le 1 0x7E) s else s)

/-- GET_VENDOR_DEFINED_MESSAGE_SUPPORT: one set, the PCI vendor identifier high byte first. -/
def execGetVendorDefinedMessageSupport (die : Nat) (physical integrity : Bool) (s : State) : Result :=
  let v := Config.vendorId.toNat
  .next (if s.answersControl die physical integrity then
      answerControl die (le 1 0 ++ le 1 0xFF ++ le 1 0 ++ le 1 (v / 256) ++ le 1 v ++ le 2 Config.vendorCommandSet.toNat) s
    else s)

/-- Control commands that have a row of their own. -/
def controlSupported (command : Nat) : Bool := [1, 2, 4, 5, 6].contains command

/-- UNSUPPORTED_MCTP_MESSAGE: ERROR_UNSUPPORTED_CMD for another control command; messages of other types are discarded and
counted. -/
def execUnsupportedMctpMessage (die msgType command : Nat) (physical integrity : Bool) (s : State) : Result :=
  .next (if !s.portUp die then s
    else if msgType = 0 then
      (if s.answersControl die physical integrity && !controlSupported command then answerControl die (le 1 5) s else s)
    else if msgType = 0x7E then s
    else modPort die (fun p => { p with discards := p.discards + 1 }) s)

/-! ## Commands over channel 1 (R508, R509) -/

/-- The request registers of channel 1 for a message; lengths beyond the fields stay beyond the limits of R490. -/
def loadRequest (m : OobMsg) (x : Channel) : Channel :=
  { x with
    reqTag := m.tag, reqOp := BitVec.ofNat 32 (m.opcode % 65536)
    reqLen := BitVec.ofNat 32 (min m.inlined.length 127 + 256 * min m.bulk.length 32767)
    args := (List.range 28).foldl (fun w n => Sparse.set 0 w n (BitVec.ofNat 32 (field m.inlined (4 * n) 4))) [] }

/-- A request enters channel 1 of the active manager, which acknowledges it (R490). -/
def submitOob (m : OobMsg) (s : State) : State :=
  if (s.channelOf 1).ackPending then s
  else submitOn 1 m.priv (some (m.die, m.eid)) m.bulk (modChannel 1 (loadRequest m) s)

/-- OOB_REQUEST: a vendor-defined request arrives at a die's port; another manager than the active one forwards it (R23). -/
def execOobRequest (m : OobMsg) (s : State) : Result :=
  .next (if !s.portUp m.die then s
    else if m.pecBad then modPort m.die (fun p => { p with pecDiscards := p.pecDiscards + 1 }) s
    else if m.overlapped then modPort m.die (fun p => { p with overlaps := p.overlaps + 1 }) s
    else if m.integrity || !(s.port m.die).assigned || m.vendor != Config.vendorId || m.kind != 0 then s
    else if m.die = s.active then submitOob m s
    else if s.links.any fun l => l.kind == 3 then s
    else send (.oobForward m) s)

/-- OOB_FORWARD: the active manager serves what the other die's port has received. -/
def execOobForward (m : OobMsg) (s : State) : Result :=
  let s := receive (.oobForward m) s
  .next (if s.links.any fun l => l.kind == 3 then s else submitOob m s)

/-- The completion of a command as it last went out on a port. -/
def Port.completion (p : Port) (seq : Nat) : Option (Nat × List Byte) :=
  p.tx.reverse.find? fun m => field m.2 0 1 = 2 && field m.2 8 4 = seq

/-- OOB_COMPLETION_RETRY: sent again twice; then it is discarded and counted, and the command is complete (R509). -/
def execOobCompletionRetry (die : Nat) (s : State) : Result :=
  .next (match (s.port die).retry with
    | none => s
    | some (seq, n) =>
      match (s.port die).completion seq with
      | none => s
      | some m =>
        if n < 3 then modPort die (fun p => { p with tx := p.tx ++ [m], retry := some (seq, n + 1), busHeld := true }) s
        else ackCompletion 1 (modPort die (fun p => { p with cplDiscards := p.cplDiscards + 1, retry := none, busHeld := false }) s))

/-- SMBUS_CLOCK_LOW_TIMEOUT: the port releases the bus (R519). -/
def execSmbusClockLowTimeout (die : Nat) (s : State) : Result := .next (modPort die (fun p => { p with busHeld := false }) s)

/-! ## The TAP (R510, R511, R521) -/

/-- TAP_RESET: IDCODE is the instruction after a reset of the TAP (IEEE 1149.1; PRESUMED, log entry 14). -/
def execTapReset (die : Nat) (s : State) : Result := .next (modPort die (fun p => { p with ir := 0x100, tdo := 0 }) s)

/-- The bypass register is selected; it reads 0. -/
def selectBypass (die : Nat) (s : State) : State := modPort die (fun p => { p with ir := 0xFF, tdo := 0 }) s

/-- BYPASS. -/
def execBypass (die : Nat) (s : State) : Result := .next (if s.powered then selectBypass die s else s)

/-- IDCODE. -/
def execIdcode (die : Nat) (s : State) : Result :=
  .next (if s.powered then modPort die (fun p => { p with ir := 0x100, tdo := 0x15548001 }) s else s)

/-- A debug or boundary-scan instruction that is decoded: the data register reads a value that the manual does not give; halt
and resume act on the die's manager (R511). -/
def debugInstruction (die ir kind : Nat) (s : State) : State :=
  let s := modPort die (fun p => { p with
    ir := ir % 256, tdo := Config.tapData s.free, halted := if kind = 1 then true else if kind = 5 then false else p.halted }) s
  let s : State := setFree (s.free + 1) s
  if kind = 5 then serveMailbox s else s

/-- JTAG_DEBUG_INSTRUCTION: decoded only while the die's bit of JTAG_CTRL is 1, else it acts as BYPASS. -/
def execJtagDebugInstruction (die ir kind : Nat) (s : State) : Result :=
  .next (if !s.powered then s else if bitOf die s.win.jtag then debugInstruction die ir kind s else selectBypass die s)

end Sys2Proof.Machine
end

