-- ==== Sys2Proof/Machine/Waiting.lean ====
section
/-!
DEFINITION. Actions that waited for a higher-ranked one (R54).
-/
namespace Sys2Proof.Machine

/-- A waiting action starts as its command would now: it is checked against the unit's new state. -/
def startWaiting : Instr → State → Result
  | .unitQuarantine seq, s => execUnitQuarantine seq s
  | .unitScreen seq, s => execUnitScreen seq s
  | .spareTakeover seq, s => execSpareTakeover seq s
  | .trainingSave seq, s => execTrainingSave seq s
  | .traceConfigure seq, s => execTraceConfigure seq s
  | .traceDrain seq time, s => execTraceDrain seq time s
  | .watchArm seq, s => execWatchArm seq s
  | .watchDisarm seq, s => execWatchDisarm seq s
  | .stopAtSlot seq, s => execStopAtSlot seq s
  | .stopNow seq, s => execStopNow seq s
  | .stopRequest site, s => .next (requestStop site s)
  | _, s => .next s

/-- No higher-ranked action on the unit is in progress any more. -/
def State.mayStart (s : State) (w : WaitAct) : Bool :=
  !s.blocked w.rank w.scope w.number && !(w.rank == 2 && s.stop.releasing)

/-- WAITING_ACTION_START: the first action that waits on the unit and may start. -/
def execWaitingActionStart (scope number : Nat) (s : State) : Result :=
  match s.waits.find? fun w => w.scope = scope && w.number = number && s.mayStart w with
  | none => .next s
  | some w => startWaiting w.act (setWaits (s.waits.erase w) s)

end Sys2Proof.Machine
end

