-- ==== Sys2Proof/Machine/Dispatch.lean ====
section
/-!
DEFINITION. The meaning of every command: one arm per constructor.
-/
namespace Sys2Proof.Machine

/-- The effect of a command on everything but the queue. -/
def exec (i : Instr) (s : State) : Host.Outcome State Fault Refusal :=
  match i with
  | .mainPowerGood p => Sys2Proof.Machine.execMainPowerGood p s
  | .securityAuthentication die authentic => Sys2Proof.Machine.execSecurityAuthentication die authentic s
  | .imageDigestExchange => Sys2Proof.Machine.execImageDigestExchange s
  | .linkTrainingResult kind index result time settings => Sys2Proof.Machine.execLinkTrainingResult kind index result time settings s
  | .pwrWarnN written => Sys2Proof.Machine.execPwrWarnN written s
  | .pwrWarnReturn => Sys2Proof.Machine.execPwrWarnReturn s
  | .managerWatchdogExpiry die => Sys2Proof.Machine.execManagerWatchdogExpiry die s
  | .functionLevelReset => Sys2Proof.Machine.execFunctionLevelReset s
  | .tapReset die => Sys2Proof.Machine.execTapReset die s
  | .smbusClockLowTimeout die => Sys2Proof.Machine.execSmbusClockLowTimeout die s
  | .mramFailure die => Sys2Proof.Machine.execMramFailure die s
  | .linkWatchdogExpiry link => Sys2Proof.Machine.execLinkWatchdogExpiry link s
  | .hubBufferFreed hub index => Sys2Proof.Machine.execHubBufferFreed hub index s
  | .reservedClassDiscard hub cls opcode => Sys2Proof.Machine.execReservedClassDiscard hub cls opcode s
  | .alarmLevel unit code raised edge => Sys2Proof.Machine.execAlarmLevel unit code raised edge s
  | .fence unit partition cause => Sys2Proof.Machine.execFence unit partition cause s
  | .fenceDone site => Sys2Proof.Machine.execFenceDone site s
  | .fenceDeadline partition => Sys2Proof.Machine.execFenceDeadline partition s
  | .tileReset site cause => Sys2Proof.Machine.execTileReset site cause s
  | .resetDone site => Sys2Proof.Machine.execResetDone site s
  | .tileResetTimeout site => Sys2Proof.Machine.execTileResetTimeout site s
  | .resetMemoryReady partition failing => Sys2Proof.Machine.execResetMemoryReady partition failing s
  | .stopSlot site n => Sys2Proof.Machine.execStopSlot site n s
  | .stopSlotReached site => Sys2Proof.Machine.execStopSlotReached site s
  | .stopCodeDecoded site slot => Sys2Proof.Machine.execStopCodeDecoded site slot s
  | .stopReleaseMessage site sMin => Sys2Proof.Machine.execStopReleaseMessage site sMin s
  | .tileRestart site => Sys2Proof.Machine.execTileRestart site s
  | .syncPulse => Sys2Proof.Machine.execSyncPulse s
  | .throttleStage unit stage engage => Sys2Proof.Machine.execThrottleStage unit stage engage s
  | .throttleEngage => Sys2Proof.Machine.execThrottleEngage s
  | .throttleRequest sector stage => Sys2Proof.Machine.execThrottleRequest sector stage s
  | .quarantine site => Sys2Proof.Machine.execQuarantine site s
  | .screenRun site sector point recipe epoch => Sys2Proof.Machine.execScreenRun site sector point recipe epoch s
  | .traceTrigger site firing slot => Sys2Proof.Machine.execTraceTrigger site firing slot s
  | .repeatRead site seq reason elems outs operands early => Sys2Proof.Machine.execRepeatRead site seq reason elems outs operands early s
  | .stopRequest site => Sys2Proof.Machine.execStopRequest site s
  | .takeover hub => Sys2Proof.Machine.execTakeover hub s
  | .stepBoundary hub partition step sk flags => Sys2Proof.Machine.execStepBoundary hub partition step sk flags s
  | .residueVerdict site item detail => Sys2Proof.Machine.execResidueVerdict site item detail s
  | .plausVerdict site item => Sys2Proof.Machine.execPlausVerdict site item s
  | .redundancy site item => Sys2Proof.Machine.execRedundancy site item s
  | .stepDone site item => Sys2Proof.Machine.execStepDone site item s
  | .stepDoneWaitExpiry hub partition => Sys2Proof.Machine.execStepDoneWaitExpiry hub partition s
  | .sentinelReadTimeout site => Sys2Proof.Machine.execSentinelReadTimeout site s
  | .sealVerdict unit partition lineage test step seq info => Sys2Proof.Machine.execSealVerdict unit partition lineage test step seq info s
  | .ledger site entry => Sys2Proof.Machine.execLedger site entry s
  | .contribution hub partition step failed groups => Sys2Proof.Machine.execContribution hub partition step failed groups s
  | .finalKept partition step kept restarted failed blocks => Sys2Proof.Machine.execFinalKept partition step kept restarted failed blocks s
  | .stepToken partition => Sys2Proof.Machine.execStepToken partition s
  | .peerRelease partition => Sys2Proof.Machine.execPeerRelease partition s
  | .timeLoad unit v => Sys2Proof.Machine.execTimeLoad unit v s
  | .timeCheck hub => Sys2Proof.Machine.execTimeCheck hub s
  | .rasAlignmentTimer => Sys2Proof.Machine.execRasAlignmentTimer s
  | .edgeTickTimer hub => Sys2Proof.Machine.execEdgeTickTimer hub s
  | .edgeTick site => Sys2Proof.Machine.execEdgeTick site s
  | .hubWatchTimer hub => Sys2Proof.Machine.execHubWatchTimer hub s
  | .hubWatch sector => Sys2Proof.Machine.execHubWatch sector s
  | .hubWatchMissed sector => Sys2Proof.Machine.execHubWatchMissed sector s
  | .read unit offset count tag => Sys2Proof.Machine.execRead unit offset count tag s
  | .write unit offset words tag => Sys2Proof.Machine.execWrite unit offset words tag s
  | .dropCountRead site tag => Sys2Proof.Machine.execDropCountRead site tag s
  | .programWrite site offset words tag => Sys2Proof.Machine.execProgramWrite site offset words tag s
  | .programRead site offset count tag => Sys2Proof.Machine.execProgramRead site offset count tag s
  | .controlResponse unit cls opcode tag status empty => Sys2Proof.Machine.execControlResponse unit cls opcode tag status empty s
  | .event ev => Sys2Proof.Machine.execEvent ev s
  | .dropCount site count => Sys2Proof.Machine.execDropCount site count s
  | .summary site sum => Sys2Proof.Machine.execSummary site sum s
  | .edgeChange hub raised edge => Sys2Proof.Machine.execEdgeChange hub raised edge s
  | .memoryError hub report => Sys2Proof.Machine.execMemoryError hub report s
  | .runResult site recipe verdict seals signature status replay => Sys2Proof.Machine.execRunResult site recipe verdict seals signature status replay s
  | .repeatHeader site hdr => Sys2Proof.Machine.execRepeatHeader site hdr s
  | .laneData site data => Sys2Proof.Machine.execLaneData site data s
  | .content sector offset bytes => Sys2Proof.Machine.execContent sector offset bytes s
  | .snapshotPart hub partition sites edges => Sys2Proof.Machine.execSnapshotPart hub partition sites edges s
  | .snapshotSiteTimeout site => Sys2Proof.Machine.execSnapshotSiteTimeout site s
  | .digestRun hub partition inputs outputs lost => Sys2Proof.Machine.execDigestRun hub partition inputs outputs lost s
  | .digestComplete partition => Sys2Proof.Machine.execDigestComplete partition s
  | .journalEntry entry => Sys2Proof.Machine.execJournalEntry entry s
  | .audit sequence agree => Sys2Proof.Machine.execAudit sequence agree s
  | .heartbeatTimer die => Sys2Proof.Machine.execHeartbeatTimer die s
  | .heartbeat die ras role => Sys2Proof.Machine.execHeartbeat die ras role s
  | .heartbeatLoss die => Sys2Proof.Machine.execHeartbeatLoss die s
  | .standbyLoss die => Sys2Proof.Machine.execStandbyLoss die s
  | .recordMirror index r => Sys2Proof.Machine.execRecordMirror index r s
  | .mirrorAck index => Sys2Proof.Machine.execMirrorAck index s
  | .mirrorAckTimeout index => Sys2Proof.Machine.execMirrorAckTimeout index s
  | .standbyRejoin => Sys2Proof.Machine.execStandbyRejoin s
  | .mramWrite die offset data => Sys2Proof.Machine.execMramWrite die offset data s
  | .windowForward access => Sys2Proof.Machine.execWindowForward access s
  | .pinState pins => Sys2Proof.Machine.execPinState pins s
  | .oobForward msg => Sys2Proof.Machine.execOobForward msg s
  | .tcgWakeAckRise site => Sys2Proof.Machine.execTcgWakeAckRise site s
  | .tcgWakeAckFall site => Sys2Proof.Machine.execTcgWakeAckFall site s
  | .wakeTimeout site => Sys2Proof.Machine.execWakeTimeout site s
  | .eventLevelRise site code => Sys2Proof.Machine.execEventLevelRise site code s
  | .eventCounterSampleTimer site => Sys2Proof.Machine.execEventCounterSampleTimer site s
  | .frontQueueEntry site => Sys2Proof.Machine.execFrontQueueEntry site s
  | .blockConsumed site c => Sys2Proof.Machine.execBlockConsumed site c s
  | .sealReread site stored => Sys2Proof.Machine.execSealReread site stored s
  | .blockProduced site p => Sys2Proof.Machine.execBlockProduced site p s
  | .outputTileSealed site t => Sys2Proof.Machine.execOutputTileSealed site t s
  | .sampleSelect site seq => Sys2Proof.Machine.execSampleSelect site seq s
  | .vectorBeat site b => Sys2Proof.Machine.execVectorBeat site b s
  | .streamEnd site => Sys2Proof.Machine.execStreamEnd site s
  | .stepLastComplete site => Sys2Proof.Machine.execStepLastComplete site s
  | .queueCommandIssue site op => Sys2Proof.Machine.execQueueCommandIssue site op s
  | .queueCommandComplete site op discarded => Sys2Proof.Machine.execQueueCommandComplete site op discarded s
  | .sramErrorReport site corrected path address desc => Sys2Proof.Machine.execSramErrorReport site corrected path address desc s
  | .memoryEntryRead t => Sys2Proof.Machine.execMemoryEntryRead t s
  | .memoryExitWrite t => Sys2Proof.Machine.execMemoryExitWrite t s
  | .linkEntryBlock t => Sys2Proof.Machine.execLinkEntryBlock t s
  | .trailerReceived partition port block => Sys2Proof.Machine.execTrailerReceived partition port block s
  | .linkExitBlock t => Sys2Proof.Machine.execLinkExitBlock t s
  | .reductionInputBlock t => Sys2Proof.Machine.execReductionInputBlock t s
  | .reductionCompareMismatch partition => Sys2Proof.Machine.execReductionCompareMismatch partition s
  | .commitDone partition written reduced => Sys2Proof.Machine.execCommitDone partition written reduced s
  | .mirrorBlockReceived owner index block markedFailed => Sys2Proof.Machine.execMirrorBlockReceived owner index block markedFailed s
  | .partnerCopyComplete owner => Sys2Proof.Machine.execPartnerCopyComplete owner s
  | .tier2CopyComplete partition region => Sys2Proof.Machine.execTier2CopyComplete partition region s
  | .takeoverFillComplete tile resFailed mirFailed => Sys2Proof.Machine.execTakeoverFillComplete tile resFailed mirFailed s
  | .replayDone partition result tile lastStep length tag => Sys2Proof.Machine.execReplayDone partition result tile lastStep length tag s
  | .replayDoneTimeout partition tile => Sys2Proof.Machine.execReplayDoneTimeout partition tile s
  | .lossReport step loss partition length tag => Sys2Proof.Machine.execLossReport step loss partition length tag s
  | .unknownCoreMessage type tag => Sys2Proof.Machine.execUnknownCoreMessage type tag s
  | .peerTimeout partition entry => Sys2Proof.Machine.execPeerTimeout partition entry s
  | .memoryCompletion hub point partition context gen => Sys2Proof.Machine.execMemoryCompletion hub point partition context gen s
  | .flitIntoFencedPartition site expects => Sys2Proof.Machine.execFlitIntoFencedPartition site expects s
  | .teardownWritesDrained partition context reads writes => Sys2Proof.Machine.execTeardownWritesDrained partition context reads writes s
  | .teardownWriteTimeout partition context reads writes => Sys2Proof.Machine.execTeardownWriteTimeout partition context reads writes s
  | .waitForSearchTimer => Sys2Proof.Machine.execWaitForSearchTimer s
  | .commitWaitExpiry partition => Sys2Proof.Machine.execCommitWaitExpiry partition s
  | .replayStepLimitExpiry partition => Sys2Proof.Machine.execReplayStepLimitExpiry partition s
  | .screeningWindowStart partition => Sys2Proof.Machine.execScreeningWindowStart partition s
  | .screenSpanExpiry site => Sys2Proof.Machine.execScreenSpanExpiry site s
  | .spareScreenStart site heaters => Sys2Proof.Machine.execSpareScreenStart site heaters s
  | .heatingTimeout sector => Sys2Proof.Machine.execHeatingTimeout sector s
  | .vmarginAck sector => Sys2Proof.Machine.execVmarginAck sector s
  | .vmarginKeepaliveTimer sector => Sys2Proof.Machine.execVmarginKeepaliveTimer sector s
  | .stageZeroHold => Sys2Proof.Machine.execStageZeroHold s
  | .cleanPeriodEnd site => Sys2Proof.Machine.execCleanPeriodEnd site s
  | .modelStep sector => Sys2Proof.Machine.execModelStep sector s
  | .thermalSample sector counts diode => Sys2Proof.Machine.execThermalSample sector counts diode s
  | .edgeDiodeRead die readings => Sys2Proof.Machine.execEdgeDiodeRead die readings s
  | .releaseHoldExpiry sector => Sys2Proof.Machine.execReleaseHoldExpiry sector s
  | .unitWakeStart hub unit => Sys2Proof.Machine.execUnitWakeStart hub unit s
  | .historyCountFlush site => Sys2Proof.Machine.execHistoryCountFlush site s
  | .counterCopyTimer => Sys2Proof.Machine.execCounterCopyTimer s
  | .hourlyCalendarMark => Sys2Proof.Machine.execHourlyCalendarMark s
  | .memCeHour => Sys2Proof.Machine.execMemCeHour s
  | .staleCompletionSecond hub => Sys2Proof.Machine.execStaleCompletionSecond hub s
  | .rateWindowStart => Sys2Proof.Machine.execRateWindowStart s
  | .ringBatchWrite count => Sys2Proof.Machine.execRingBatchWrite count s
  | .freezeLimitExpiry => Sys2Proof.Machine.execFreezeLimitExpiry s
  | .thmUpdate => Sys2Proof.Machine.execThmUpdate s
  | .watchDumpComplete site slot => Sys2Proof.Machine.execWatchDumpComplete site slot s
  | .plausibilitySetConfirmed hub partition => Sys2Proof.Machine.execPlausibilitySetConfirmed hub partition s
  | .plausibilityLoadTimeout partition => Sys2Proof.Machine.execPlausibilityLoadTimeout partition s
  | .waitingActionStart scope number => Sys2Proof.Machine.execWaitingActionStart scope number s
  | .commandBegin seq => Sys2Proof.Machine.execCommandBegin seq s
  | .submit channel priv => Sys2Proof.Machine.execSubmit channel priv s
  | .cplAck channel => Sys2Proof.Machine.execCplAck channel s
  | .claim channel priv => Sys2Proof.Machine.execClaim channel priv s
  | .release channel => Sys2Proof.Machine.execRelease channel s
  | .loRegisterRead offset size priv => Sys2Proof.Machine.execLoRegisterRead offset size priv s
  | .cntSnapshot priv => Sys2Proof.Machine.execCntSnapshot priv s
  | .cursorHiWrite value priv => Sys2Proof.Machine.execCursorHiWrite value priv s
  | .altStatusClear value priv => Sys2Proof.Machine.execAltStatusClear value priv s
  | .jtagCtrlWrite value priv => Sys2Proof.Machine.execJtagCtrlWrite value priv s
  | .seedLoad hub sampling value => Sys2Proof.Machine.execSeedLoad hub sampling value s
  | .registerWrite offset size value priv => Sys2Proof.Machine.execRegisterWrite offset size value priv s
  | .getIdentity seq => Sys2Proof.Machine.execGetIdentity seq s
  | .getStatus seq => Sys2Proof.Machine.execGetStatus seq s
  | .logFreeze seq => Sys2Proof.Machine.execLogFreeze seq s
  | .logThaw seq => Sys2Proof.Machine.execLogThaw seq s
  | .logClear seq => Sys2Proof.Machine.execLogClear seq s
  | .logMark seq => Sys2Proof.Machine.execLogMark seq s
  | .timeSetCalendar seq => Sys2Proof.Machine.execTimeSetCalendar seq s
  | .healthQuery seq => Sys2Proof.Machine.execHealthQuery seq s
  | .unitQuarantine seq => Sys2Proof.Machine.execUnitQuarantine seq s
  | .unitRelease seq => Sys2Proof.Machine.execUnitRelease seq s
  | .unitScreen seq => Sys2Proof.Machine.execUnitScreen seq s
  | .historyRead seq => Sys2Proof.Machine.execHistoryRead seq s
  | .unitRetire seq => Sys2Proof.Machine.execUnitRetire seq s
  | .spareTakeover seq => Sys2Proof.Machine.execSpareTakeover seq s
  | .partitionDefine seq => Sys2Proof.Machine.execPartitionDefine seq s
  | .partitionFence seq => Sys2Proof.Machine.execPartitionFence seq s
  | .partitionReset seq => Sys2Proof.Machine.execPartitionReset seq s
  | .waferReset seq tests => Sys2Proof.Machine.execWaferReset seq tests s
  | .partitionRelease seq => Sys2Proof.Machine.execPartitionRelease seq s
  | .contextTeardown seq => Sys2Proof.Machine.execContextTeardown seq s
  | .jobAttach seq => Sys2Proof.Machine.execJobAttach seq s
  | .jobDetach seq => Sys2Proof.Machine.execJobDetach seq s
  | .stepVerdictQuery seq => Sys2Proof.Machine.execStepVerdictQuery seq s
  | .digestQuery seq => Sys2Proof.Machine.execDigestQuery seq s
  | .netConfigure seq result time settings => Sys2Proof.Machine.execNetConfigure seq result time settings s
  | .netStatus seq => Sys2Proof.Machine.execNetStatus seq s
  | .stopAtSlot seq => Sys2Proof.Machine.execStopAtSlot seq s
  | .stopNow seq => Sys2Proof.Machine.execStopNow seq s
  | .stopRelease seq => Sys2Proof.Machine.execStopRelease seq s
  | .scanOut seq absent time expired => Sys2Proof.Machine.execScanOut seq absent time expired s
  | .traceConfigure seq => Sys2Proof.Machine.execTraceConfigure seq s
  | .traceDrain seq time => Sys2Proof.Machine.execTraceDrain seq time s
  | .watchArm seq => Sys2Proof.Machine.execWatchArm seq s
  | .watchDisarm seq => Sys2Proof.Machine.execWatchDisarm seq s
  | .hangSnapshot seq => Sys2Proof.Machine.execHangSnapshot seq s
  | .thermalPolicy seq => Sys2Proof.Machine.execThermalPolicy seq s
  | .sensorRetire seq => Sys2Proof.Machine.execSensorRetire seq s
  | .imageStage seq => Sys2Proof.Machine.execImageStage seq s
  | .imageCommit seq authenticA authenticB tests => Sys2Proof.Machine.execImageCommit seq authenticA authenticB tests s
  | .trainingSave seq => Sys2Proof.Machine.execTrainingSave seq s
  | .counterConfigure seq => Sys2Proof.Machine.execCounterConfigure seq s
  | .plausibilityLoad seq => Sys2Proof.Machine.execPlausibilityLoad seq s
  | .managerSwitchover seq journalOk => Sys2Proof.Machine.execManagerSwitchover seq journalOk s
  | .oobRequest msg => Sys2Proof.Machine.execOobRequest msg s
  | .oobCompletionRetry die => Sys2Proof.Machine.execOobCompletionRetry die s
  | .setEndpointId die eid physical integrity => Sys2Proof.Machine.execSetEndpointId die eid physical integrity s
  | .getEndpointId die physical integrity => Sys2Proof.Machine.execGetEndpointId die physical integrity s
  | .getMctpVersionSupport die physical integrity => Sys2Proof.Machine.execGetMctpVersionSupport die physical integrity s
  | .getMessageTypeSupport die physical integrity => Sys2Proof.Machine.execGetMessageTypeSupport die physical integrity s
  | .getVendorDefinedMessageSupport die physical integrity => Sys2Proof.Machine.execGetVendorDefinedMessageSupport die physical integrity s
  | .unsupportedMctpMessage die msgType command physical integrity => Sys2Proof.Machine.execUnsupportedMctpMessage die msgType command physical integrity s
  | .bypass die => Sys2Proof.Machine.execBypass die s
  | .idcode die => Sys2Proof.Machine.execIdcode die s
  | .jtagDebugInstruction die ir kind => Sys2Proof.Machine.execJtagDebugInstruction die ir kind s
  | .mainPowerLoss => Sys2Proof.Machine.execMainPowerLoss s
  | .backupSupplyLoss die => Sys2Proof.Machine.execBackupSupplyLoss die s
  | .dropSummarySecond => Sys2Proof.Machine.execDropSummarySecond s
  | .unitWakeComplete hub unit => Sys2Proof.Machine.execUnitWakeComplete hub unit s
  | .deepScreenStart site => Sys2Proof.Machine.execDeepScreenStart site s
  | .settingsWriteComplete => Sys2Proof.Machine.execSettingsWriteComplete s

end Sys2Proof.Machine
end

