-- ==== Sys2Proof/Safety.lean ====
section
/-!
DEFINITION. What statements mean by a frame (`Fld`, `Changes`, and `touches`: the fields of the state that each command may
change) and by a state that every step keeps (`Inv`: memories and tables in canonical form, a SEQUENCE that is never 0, an
active manager), and what it means that a command of the mailbox runs (`Runs`) and has been answered (`Answered`).
-/
namespace Sys2Proof

open Sys2Proof.Machine

/-- The fields of State: the pieces that a frame names. -/
inductive Fld where
  | pending | ticks | slot | sent | powered | warn | noRuns | image | boot | islandA | islandB | mgrA | mgrB
  | active | failover | checked | takeover | switchSeq | switchOk | journalSeq | journal | auditAlarm
  | rasBaseA | rasAtA | rasBaseB | rasAtB | rasArmedB | rasCheck | syncRas | flashA | flashB | setA | setB
  | setBusy | stageOpen | stageNext | stageErased | mramA | mramB | health | unflushed | deepPassed
  | marginPrev | spareAt | sparesLow | sensors | sramLog | memLog | sen | hub | part | xlat0 | xlat1
  | routes0 | routes1 | screens | screenReqs | net | links | graph | throttle | stop | waits | gcount
  | drainId | armId | scanId | dram | recorder | win | portA | portB | coreTx | coreNaks | lossRejected
  | coreTag | answers | free
  deriving DecidableEq, Repr

/-- The type of a field. -/
abbrev Fld.type : Fld → Type
  | .pending | .sent => List Instr
  | .ticks | .slot | .active | .switchSeq | .journalSeq | .rasAtA | .rasAtB | .stageNext | .drainId | .armId | .scanId | .coreNaks | .lossRejected | .coreTag | .free => Nat
  | .powered | .warn | .noRuns | .failover | .checked | .switchOk | .auditAlarm | .stageOpen => Bool
  | .image => Image
  | .boot => Boot
  | .islandA | .islandB => Island
  | .mgrA | .mgrB => Manager
  | .takeover | .rasCheck | .stageErased | .unflushed | .deepPassed => List Nat
  | .journal => List JournalEntry
  | .rasBaseA | .rasBaseB | .syncRas => Dword
  | .rasArmedB => Option Dword
  | .flashA | .flashB | .mramA | .mramB | .dram => Memory
  | .setA | .setB => List Settings
  | .setBusy => Option (Nat × Nat × Nat)
  | .health => Sparse SiteRec
  | .marginPrev | .spareAt | .sparesLow | .xlat0 | .xlat1 | .net | .gcount => Sparse Nat
  | .sensors => Sparse Sensor
  | .sramLog => List SramRepair
  | .memLog => List (Nat × Nat × Nat)
  | .sen => Sparse Sentinel
  | .hub => Sparse Hub
  | .part => Sparse Partition
  | .routes0 | .routes1 => Sparse (List (Nat × Nat))
  | .screens => Sparse (Option Screen)
  | .screenReqs => List (Nat × Nat)
  | .links => List MidLink
  | .graph => List (Edge × Dword)
  | .throttle => Throttle
  | .stop => Stop
  | .waits => List WaitAct
  | .recorder => Recorder
  | .win => Window
  | .portA | .portB => Port
  | .coreTx => List CoreMsg
  | .answers => List Answer

/-- A field of a state. -/
def Fld.get : (f : Fld) → State → f.type
  | .pending, s => s.pending
  | .ticks, s => s.ticks
  | .slot, s => s.slot
  | .sent, s => s.sent
  | .powered, s => s.powered
  | .warn, s => s.warn
  | .noRuns, s => s.noRuns
  | .image, s => s.image
  | .boot, s => s.boot
  | .islandA, s => s.islandA
  | .islandB, s => s.islandB
  | .mgrA, s => s.mgrA
  | .mgrB, s => s.mgrB
  | .active, s => s.active
  | .failover, s => s.failover
  | .checked, s => s.checked
  | .takeover, s => s.takeover
  | .switchSeq, s => s.switchSeq
  | .switchOk, s => s.switchOk
  | .journalSeq, s => s.journalSeq
  | .journal, s => s.journal
  | .auditAlarm, s => s.auditAlarm
  | .rasBaseA, s => s.rasBaseA
  | .rasAtA, s => s.rasAtA
  | .rasBaseB, s => s.rasBaseB
  | .rasAtB, s => s.rasAtB
  | .rasArmedB, s => s.rasArmedB
  | .rasCheck, s => s.rasCheck
  | .syncRas, s => s.syncRas
  | .flashA, s => s.flashA
  | .flashB, s => s.flashB
  | .setA, s => s.setA
  | .setB, s => s.setB
  | .setBusy, s => s.setBusy
  | .stageOpen, s => s.stageOpen
  | .stageNext, s => s.stageNext
  | .stageErased, s => s.stageErased
  | .mramA, s => s.mramA
  | .mramB, s => s.mramB
  | .health, s => s.health
  | .unflushed, s => s.unflushed
  | .deepPassed, s => s.deepPassed
  | .marginPrev, s => s.marginPrev
  | .spareAt, s => s.spareAt
  | .sparesLow, s => s.sparesLow
  | .sensors, s => s.sensors
  | .sramLog, s => s.sramLog
  | .memLog, s => s.memLog
  | .sen, s => s.sen
  | .hub, s => s.hub
  | .part, s => s.part
  | .xlat0, s => s.xlat0
  | .xlat1, s => s.xlat1
  | .routes0, s => s.routes0
  | .routes1, s => s.routes1
  | .screens, s => s.screens
  | .screenReqs, s => s.screenReqs
  | .net, s => s.net
  | .links, s => s.links
  | .graph, s => s.graph
  | .throttle, s => s.throttle
  | .stop, s => s.stop
  | .waits, s => s.waits
  | .gcount, s => s.gcount
  | .drainId, s => s.drainId
  | .armId, s => s.armId
  | .scanId, s => s.scanId
  | .dram, s => s.dram
  | .recorder, s => s.recorder
  | .win, s => s.win
  | .portA, s => s.portA
  | .portB, s => s.portB
  | .coreTx, s => s.coreTx
  | .coreNaks, s => s.coreNaks
  | .lossRejected, s => s.lossRejected
  | .coreTag, s => s.coreTag
  | .answers, s => s.answers
  | .free, s => s.free

/-- `t` differs from `s` in at most the listed fields. -/
def Changes (fs : List Fld) (s t : State) : Prop := ∀ f : Fld, f ∉ fs → f.get t = f.get s

/-- The fields that an event of the manager and the answer to a command may change: the recorder with its ring in MRAM,
the alerts, completions and pins that follow it, the messages to the standby, and the notes of bring-up step 1. -/
def logF : List Fld := [.boot, .mramA, .mramB, .portA, .portB, .recorder, .sent, .win]

/-- The fields that a command may change, at most. -/
def touches : Instr → List Fld
  | .mainPowerGood _ =>
    logF ++ [.powered, .islandA, .islandB, .mgrA, .mgrB, .rasAtA, .rasAtB, .part]
  | .securityAuthentication _ _ =>
    logF ++ [.slot, .image, .mgrA, .mgrB, .checked, .journalSeq, .journal, .health, .unflushed, .deepPassed, .marginPrev,
      .sparesLow, .sensors, .sramLog, .memLog, .sen, .hub, .part, .xlat0, .xlat1, .routes0, .routes1, .screens,
      .screenReqs, .net, .graph, .throttle, .stop, .gcount, .answers]
  | .imageDigestExchange =>
    logF ++ [.slot, .image, .mgrA, .mgrB, .checked, .journalSeq, .journal, .health, .marginPrev, .sparesLow, .sensors,
      .sramLog, .memLog, .sen, .hub, .part, .xlat0, .xlat1, .routes0, .routes1, .net, .throttle]
  | .linkTrainingResult _ _ _ _ _ =>
    logF ++ [.journalSeq, .journal, .setA, .setB, .setBusy, .health, .unflushed, .deepPassed, .marginPrev, .sparesLow, .sen,
      .hub, .part, .xlat0, .xlat1, .routes0, .routes1, .screens, .screenReqs, .net]
  | .pwrWarnN _ =>
    logF ++ [.warn, .noRuns, .mgrA, .mgrB, .active, .failover, .checked, .takeover, .switchSeq, .switchOk, .journalSeq,
      .journal, .setBusy, .health, .unflushed, .sparesLow, .sen, .hub, .part, .xlat0, .xlat1, .routes0, .routes1]
  | .pwrWarnReturn =>
    logF ++ [.slot, .warn, .journalSeq, .journal, .health, .unflushed, .deepPassed, .marginPrev, .sparesLow, .sen, .hub,
      .part, .xlat0, .xlat1, .routes0, .routes1, .screens, .screenReqs, .stop, .gcount]
  | .managerWatchdogExpiry _ =>
    logF ++ [.slot, .image, .mgrA, .mgrB, .journalSeq, .journal, .health, .marginPrev, .sparesLow, .sensors, .sramLog,
      .memLog, .sen, .hub, .part, .xlat0, .xlat1, .routes0, .routes1, .net, .throttle]
  | .functionLevelReset | .thmUpdate | .release _ | .loRegisterRead _ _ _ =>
    [.win]
  | .tapReset _ | .smbusClockLowTimeout _ | .setEndpointId _ _ _ _ | .getEndpointId _ _ _
    | .getMctpVersionSupport _ _ _ | .getMessageTypeSupport _ _ _ | .getVendorDefinedMessageSupport _ _ _
    | .unsupportedMctpMessage _ _ _ _ _ | .bypass _ | .idcode _ =>
    [.portA, .portB]
  | .mramFailure _ | .managerSwitchover _ _ =>
    logF ++ [.mgrA, .mgrB, .active, .failover, .checked, .takeover, .switchSeq, .switchOk, .part]
  | .linkWatchdogExpiry _ =>
    logF ++ [.slot, .journalSeq, .journal, .health, .unflushed, .deepPassed, .marginPrev, .sparesLow, .sen, .hub, .part,
      .xlat0, .xlat1, .routes0, .routes1, .screens, .screenReqs, .links, .stop, .gcount, .coreTx, .coreTag]
  | .hubBufferFreed _ _ | .reservedClassDiscard _ _ _ | .takeover _ | .plausVerdict _ _ | .stepDone _ _
    | .stepDoneWaitExpiry _ _ | .ledger _ _ | .hubWatch _ | .repeatHeader _ _ | .journalEntry _ | .memoryExitWrite _
    | .releaseHoldExpiry _ | .staleCompletionSecond _ =>
    [.sent, .hub]
  | .alarmLevel _ _ _ _ =>
    logF ++ [.slot, .journalSeq, .journal, .health, .unflushed, .deepPassed, .marginPrev, .sparesLow, .sen, .hub, .part,
      .xlat0, .xlat1, .routes0, .routes1, .screens, .screenReqs, .throttle, .stop, .gcount, .coreTx, .coreTag]
  | .fence _ _ _ | .edgeTick _ | .content _ _ _ | .blockConsumed _ _ =>
    [.sent, .sen, .hub]
  | .fenceDone _ | .snapshotPart _ _ _ _ | .snapshotSiteTimeout _ | .replayDoneTimeout _ _
    | .teardownWritesDrained _ _ _ _ | .teardownWriteTimeout _ _ _ _ | .waitForSearchTimer | .commitWaitExpiry _
    | .replayStepLimitExpiry _ | .partitionFence _ | .partitionReset _ =>
    logF ++ [.slot, .journalSeq, .journal, .health, .unflushed, .deepPassed, .marginPrev, .sparesLow, .sen, .hub, .part,
      .xlat0, .xlat1, .routes0, .routes1, .screens, .screenReqs, .stop, .gcount]
  | .fenceDeadline _ | .tileResetTimeout _ | .summary _ _ | .frontQueueEntry _ | .sealReread _ _ =>
    logF ++ [.journalSeq, .journal, .health, .unflushed, .sparesLow, .sen, .hub, .part, .xlat0, .xlat1, .routes0, .routes1]
  | .tileReset _ _ =>
    logF ++ [.sen, .hub, .part, .screens, .screenReqs]
  | .resetDone _ =>
    logF ++ [.journalSeq, .journal, .health, .unflushed, .deepPassed, .marginPrev, .sparesLow, .sen, .hub, .part, .xlat0,
      .xlat1, .routes0, .routes1, .screens, .graph, .answers]
  | .resetMemoryReady _ _ =>
    logF ++ [.journalSeq, .journal, .health, .unflushed, .sparesLow, .sen, .hub, .part, .xlat0, .xlat1, .routes0, .routes1,
      .graph]
  | .stopSlot _ _ =>
    logF ++ [.slot, .sen, .hub, .part, .stop, .answers]
  | .stopSlotReached _ | .stopCodeDecoded _ _ =>
    logF ++ [.slot, .sen, .hub, .part, .stop]
  | .stopReleaseMessage _ _ | .throttleStage _ _ _ | .screenRun _ _ _ _ _ | .traceTrigger _ _ _
    | .repeatRead _ _ _ _ _ _ _ | .write _ _ _ _ | .dropCountRead _ _ | .programWrite _ _ _ _ | .programRead _ _ _ _ =>
    [.sent, .sen, .hub, .answers]
  | .tileRestart _ | .stopRelease _ =>
    logF ++ [.slot, .journalSeq, .journal, .health, .unflushed, .deepPassed, .marginPrev, .sparesLow, .sen, .hub, .part,
      .xlat0, .xlat1, .routes0, .routes1, .screens, .stop, .gcount]
  | .syncPulse =>
    [.rasBaseB, .rasAtB, .rasArmedB, .rasCheck, .syncRas, .hub, .answers]
  | .throttleEngage =>
    logF ++ [.sen, .hub, .part, .throttle]
  | .throttleRequest _ _ =>
    [.sent, .hub, .throttle, .answers]
  | .quarantine _ =>
    logF ++ [.journalSeq, .journal, .health, .unflushed, .deepPassed, .marginPrev, .sparesLow, .sen, .hub, .part, .xlat0,
      .xlat1, .routes0, .routes1, .screens, .screenReqs, .answers]
  | .stopRequest _ =>
    logF ++ [.slot, .sen, .hub, .part, .stop, .waits, .answers]
  | .stepBoundary _ _ _ _ _ =>
    logF ++ [.sen, .hub, .part, .answers]
  | .residueVerdict _ _ _ | .redundancy _ _ | .sampleSelect _ _ | .queueCommandIssue _ _
    | .plausibilitySetConfirmed _ _ | .plausibilityLoad _ =>
    logF ++ [.sen, .hub, .part]
  | .sentinelReadTimeout _ | .stepToken _ | .partnerCopyComplete _ | .takeoverFillComplete _ _ _ =>
    logF ++ [.slot, .journalSeq, .journal, .health, .unflushed, .deepPassed, .marginPrev, .sparesLow, .sen, .hub, .part,
      .xlat0, .xlat1, .routes0, .routes1, .screens, .screenReqs, .stop, .gcount, .coreTx, .coreTag]
  | .sealVerdict _ _ _ _ _ _ _ =>
    logF ++ [.hub, .part, .gcount]
  | .contribution _ _ _ _ _ | .peerRelease _ | .digestRun _ _ _ _ _ | .linkEntryBlock _ | .linkExitBlock _
    | .reductionInputBlock _ =>
    [.sent, .hub, .part]
  | .finalKept _ _ _ _ _ _ =>
    logF ++ [.journalSeq, .journal, .hub, .part, .gcount]
  | .timeLoad _ _ =>
    [.sent, .rasArmedB, .hub]
  | .timeCheck _ =>
    [.sent, .rasCheck, .hub]
  | .rasAlignmentTimer | .edgeTickTimer _ | .hubWatchTimer _ | .heartbeatTimer _ =>
    [.sent]
  | .hubWatchMissed _ =>
    logF ++ [.slot, .mgrA, .mgrB, .active, .failover, .checked, .takeover, .switchSeq, .switchOk, .journalSeq, .journal,
      .rasCheck, .health, .unflushed, .deepPassed, .marginPrev, .sparesLow, .sen, .hub, .part, .xlat0, .xlat1,
      .routes0, .routes1, .screens, .screenReqs, .throttle, .stop, .gcount, .coreTx, .coreTag]
  | .read _ _ _ _ =>
    logF ++ [.slot, .journalSeq, .journal, .health, .unflushed, .deepPassed, .marginPrev, .sparesLow, .sen, .hub, .part,
      .xlat0, .xlat1, .routes0, .routes1, .screens, .screenReqs, .stop, .gcount, .coreTx, .coreTag, .answers]
  | .controlResponse _ _ _ _ _ _ =>
    logF ++ [.mgrA, .mgrB, .active, .failover, .checked, .takeover, .switchSeq, .switchOk, .hub, .part, .answers]
  | .event _ =>
    logF ++ [.hub, .part]
  | .dropCount _ _ | .mirrorAck _ =>
    [.sent, .hub, .recorder]
  | .edgeChange _ _ _ =>
    [.sent, .hub, .graph]
  | .memoryError _ _ =>
    [.sent, .mramA, .mramB, .memLog, .hub, .part, .win, .portA, .portB]
  | .runResult _ _ _ _ _ _ _ | .screeningWindowStart _ | .unitRetire _ | .jobDetach _ | .deepScreenStart _ =>
    logF ++ [.journalSeq, .journal, .health, .unflushed, .deepPassed, .marginPrev, .sparesLow, .sen, .hub, .part, .xlat0,
      .xlat1, .routes0, .routes1, .screens, .screenReqs]
  | .laneData _ _ =>
    logF ++ [.journalSeq, .journal, .health, .unflushed, .deepPassed, .marginPrev, .sparesLow, .sen, .hub, .part, .xlat0,
      .xlat1, .routes0, .routes1, .screens, .screenReqs, .gcount]
  | .digestComplete _ =>
    [.sent, .journalSeq, .journal, .hub, .part]
  | .audit _ _ =>
    [.sent, .auditAlarm, .hub]
  | .heartbeat _ _ _ =>
    [.sent, .mgrA, .mgrB, .hub]
  | .heartbeatLoss _ =>
    logF ++ [.slot, .image, .mgrA, .mgrB, .active, .failover, .checked, .takeover, .switchSeq, .switchOk, .journalSeq,
      .journal, .health, .marginPrev, .sparesLow, .sensors, .sramLog, .memLog, .sen, .hub, .part, .xlat0, .xlat1,
      .routes0, .routes1, .net, .throttle]
  | .standbyLoss _ =>
    [.sent, .mgrA, .mgrB, .checked, .recorder, .win, .portA, .portB]
  | .recordMirror _ _ =>
    [.sent, .mramA, .mramB, .hub, .recorder]
  | .mirrorAckTimeout _ | .dropSummarySecond =>
    [.sent, .recorder, .win, .portA, .portB]
  | .standbyRejoin =>
    [.checked, .mramA, .mramB, .recorder]
  | .mramWrite _ _ _ =>
    [.sent, .mramA, .mramB, .hub]
  | .windowForward _ =>
    logF ++ [.hub]
  | .pinState _ =>
    [.sent, .hub, .portA, .portB]
  | .oobForward _ =>
    [.sent, .hub, .win, .portA, .portB]
  | .tcgWakeAckRise _ | .unitWakeComplete _ _ =>
    logF ++ [.journalSeq, .journal, .health, .unflushed, .sparesLow, .sen, .hub, .part, .xlat0, .xlat1, .routes0, .routes1,
      .answers]
  | .tcgWakeAckFall _ | .vectorBeat _ _ | .streamEnd _ | .sramErrorReport _ _ _ _ _ =>
    [.sen]
  | .wakeTimeout _ =>
    [.sent, .sen, .answers]
  | .eventLevelRise _ _ | .eventCounterSampleTimer _ | .outputTileSealed _ _ | .queueCommandComplete _ _ _
    | .mirrorBlockReceived _ _ _ _ =>
    [.sent, .sen]
  | .blockProduced _ _ =>
    [.sent, .sen, .hub, .part]
  | .stepLastComplete _ | .hangSnapshot _ | .counterConfigure _ =>
    logF ++ [.sen, .part]
  | .memoryEntryRead _ | .memoryCompletion _ _ _ _ _ | .vmarginKeepaliveTimer _ | .unitWakeStart _ _ | .memCeHour
    | .seedLoad _ _ _ =>
    [.hub]
  | .trailerReceived _ _ _ | .peerTimeout _ _ | .rateWindowStart | .ringBatchWrite _ | .logMark _ | .contextTeardown _ =>
    logF ++ [.part]
  | .reductionCompareMismatch _ =>
    [.part]
  | .commitDone _ _ _ =>
    logF ++ [.slot, .journalSeq, .journal, .health, .unflushed, .deepPassed, .marginPrev, .sparesLow, .sen, .hub, .part,
      .xlat0, .xlat1, .routes0, .routes1, .screens, .screenReqs, .stop, .gcount, .dram, .coreTx, .coreTag]
  | .tier2CopyComplete _ _ =>
    logF ++ [.part, .dram]
  | .replayDone _ _ _ _ _ _ =>
    logF ++ [.slot, .journalSeq, .journal, .health, .unflushed, .deepPassed, .marginPrev, .sparesLow, .sen, .hub, .part,
      .xlat0, .xlat1, .routes0, .routes1, .screens, .screenReqs, .stop, .gcount, .coreTx, .coreNaks]
  | .lossReport _ _ _ _ _ =>
    logF ++ [.part, .screenReqs, .coreTx, .coreNaks, .lossRejected, .free]
  | .unknownCoreMessage _ _ =>
    [.coreTx, .coreNaks]
  | .flitIntoFencedPartition _ _ =>
    [.sen, .hub]
  | .screenSpanExpiry _ | .heatingTimeout _ | .jobAttach _ =>
    logF ++ [.journalSeq, .journal, .health, .unflushed, .deepPassed, .marginPrev, .sparesLow, .sen, .hub, .part, .xlat0,
      .xlat1, .routes0, .routes1, .screens]
  | .spareScreenStart _ _ =>
    logF ++ [.journalSeq, .journal, .health, .unflushed, .deepPassed, .marginPrev, .spareAt, .sparesLow, .sen, .hub, .part,
      .xlat0, .xlat1, .routes0, .routes1, .screens, .screenReqs]
  | .vmarginAck _ | .modelStep _ =>
    [.sent, .sen, .hub, .screens]
  | .stageZeroHold =>
    logF ++ [.journalSeq, .journal, .health, .unflushed, .deepPassed, .marginPrev, .sparesLow, .sen, .hub, .part, .xlat0,
      .xlat1, .routes0, .routes1, .screens, .throttle]
  | .cleanPeriodEnd _ =>
    logF ++ [.journalSeq, .journal, .health, .sparesLow, .part]
  | .thermalSample _ _ _ =>
    logF ++ [.sensors, .sen, .hub]
  | .edgeDiodeRead _ _ =>
    logF ++ [.sensors, .hub]
  | .historyCountFlush _ =>
    [.sent, .mramA, .mramB, .health, .unflushed]
  | .counterCopyTimer =>
    [.sent, .boot, .islandA, .islandB, .mramA, .mramB]
  | .hourlyCalendarMark | .commandBegin _ | .submit _ _ | .claim _ _ | .cntSnapshot _ | .cursorHiWrite _ _
    | .altStatusClear _ _ | .jtagCtrlWrite _ _ | .registerWrite _ _ _ _ | .getIdentity _ | .getStatus _
    | .logFreeze _ | .logThaw _ | .logClear _ | .healthQuery _ | .historyRead _ | .stepVerdictQuery _
    | .digestQuery _ | .netStatus _ =>
    logF
  | .freezeLimitExpiry =>
    [.sent, .mramA, .mramB, .recorder, .win, .portA, .portB]
  | .watchDumpComplete _ _ =>
    [.sen, .dram]
  | .plausibilityLoadTimeout _ | .partitionRelease _ =>
    logF ++ [.journalSeq, .journal, .health, .sparesLow, .sen, .hub, .part, .xlat0, .xlat1, .routes0, .routes1]
  | .waitingActionStart _ _ =>
    logF ++ [.slot, .journalSeq, .journal, .setA, .setB, .setBusy, .health, .unflushed, .deepPassed, .marginPrev,
      .sparesLow, .sen, .hub, .part, .xlat0, .xlat1, .routes0, .routes1, .screens, .screenReqs, .stop, .waits,
      .drainId, .armId, .dram]
  | .cplAck _ | .oobCompletionRetry _ =>
    [.win, .portA, .portB]
  | .timeSetCalendar _ =>
    logF ++ [.islandA, .islandB]
  | .unitQuarantine _ | .spareTakeover _ =>
    logF ++ [.journalSeq, .journal, .health, .sparesLow, .sen, .hub, .part, .xlat0, .xlat1, .routes0, .routes1, .waits]
  | .unitRelease _ =>
    logF ++ [.journalSeq, .journal, .health, .deepPassed, .marginPrev, .sparesLow, .sen, .hub, .part, .xlat0, .xlat1,
      .routes0, .routes1]
  | .unitScreen _ =>
    logF ++ [.journalSeq, .journal, .health, .unflushed, .deepPassed, .marginPrev, .sparesLow, .sen, .hub, .part, .xlat0,
      .xlat1, .routes0, .routes1, .screens, .screenReqs, .waits]
  | .partitionDefine _ =>
    logF ++ [.part, .gcount]
  | .waferReset _ _ =>
    logF ++ [.slot, .takeover, .journalSeq, .journal, .rasCheck, .health, .marginPrev, .sparesLow, .sensors, .sramLog,
      .memLog, .sen, .hub, .part, .xlat0, .xlat1, .routes0, .routes1, .screens, .screenReqs, .net, .links, .graph,
      .throttle, .stop, .waits, .dram, .answers]
  | .netConfigure _ _ _ _ =>
    logF ++ [.part, .net]
  | .stopAtSlot _ =>
    logF ++ [.slot, .part, .stop, .waits]
  | .stopNow _ =>
    logF ++ [.slot, .sen, .part, .stop, .waits]
  | .scanOut _ _ _ _ =>
    logF ++ [.sen, .hub, .part, .stop, .scanId, .dram]
  | .traceConfigure _ | .watchDisarm _ =>
    logF ++ [.sen, .part, .waits]
  | .traceDrain _ _ =>
    logF ++ [.sen, .waits, .drainId, .dram]
  | .watchArm _ =>
    logF ++ [.sen, .hub, .part, .waits, .armId]
  | .thermalPolicy _ =>
    logF ++ [.throttle]
  | .sensorRetire _ =>
    logF ++ [.sensors, .hub, .part]
  | .imageStage _ =>
    logF ++ [.flashA, .flashB, .stageOpen, .stageNext, .stageErased]
  | .imageCommit _ _ _ _ =>
    logF ++ [.mgrA, .mgrB, .takeover, .rasCheck, .stageOpen, .sen, .hub, .part, .xlat0, .xlat1, .routes0, .routes1,
      .screens, .screenReqs, .net, .links, .graph, .stop, .waits, .dram, .answers]
  | .trainingSave _ =>
    logF ++ [.setA, .setB, .setBusy, .waits]
  | .oobRequest _ =>
    [.sent, .win, .portA, .portB]
  | .jtagDebugInstruction _ _ _ =>
    [.win, .portA, .portB, .free]
  | .mainPowerLoss =>
    [.slot, .sent, .powered, .warn, .noRuns, .image, .boot, .islandA, .islandB, .mgrA, .mgrB, .active, .failover,
      .checked, .takeover, .switchSeq, .switchOk, .journalSeq, .journal, .auditAlarm, .rasBaseA, .rasAtA, .rasBaseB,
      .rasAtB, .rasArmedB, .rasCheck, .syncRas, .setBusy, .stageOpen, .stageNext, .stageErased, .health, .unflushed,
      .deepPassed, .marginPrev, .spareAt, .sparesLow, .sensors, .sramLog, .memLog, .sen, .hub, .part, .xlat0, .xlat1,
      .routes0, .routes1, .screens, .screenReqs, .net, .links, .graph, .throttle, .stop, .waits, .gcount, .drainId,
      .armId, .scanId, .dram, .recorder, .win, .portA, .portB, .coreTx, .coreNaks, .lossRejected, .coreTag, .answers]
  | .backupSupplyLoss _ =>
    [.islandA, .islandB]
  | .settingsWriteComplete =>
    logF ++ [.journalSeq, .journal, .setA, .setB, .setBusy, .health, .unflushed, .deepPassed, .marginPrev, .sparesLow, .sen,
      .hub, .part, .xlat0, .xlat1, .routes0, .routes1, .screens, .screenReqs]

/-- The memories of the block are in canonical form. -/
def memoriesWf (s : State) : Bool :=
  Memory.wf 0 s.mramA && Memory.wf 0 s.mramB && Memory.wf 0xFF s.flashA && Memory.wf 0xFF s.flashB &&
    Memory.wf 0 s.dram && Memory.wf 0 s.win.bulk

/-- The SEQUENCE that the next accepted command takes is a 32-bit number that is never 0 (R492), and the active manager is
that of edge die A or B (R26). -/
def numbersOk (s : State) : Bool := (decide (0 < s.win.nextSeq) && decide (s.win.nextSeq < 2 ^ 32)) && decide (s.active ≤ 1)

/-- The tables of the block are in canonical form. -/
def tablesWf (s : State) : Bool :=
  Sparse.wf {} s.sen && Sparse.wf {} s.hub && Sparse.wf {} s.part && Sparse.wf {} s.health && Sparse.wf {} s.sensors &&
    Sparse.wf none s.screens && Sparse.wf 0 s.xlat0 && Sparse.wf 0 s.xlat1 && Sparse.wf [] s.routes0 &&
    Sparse.wf [] s.routes1 && Sparse.wf 0 s.net && Sparse.wf 0 s.gcount && Sparse.wf 0x1FF s.marginPrev &&
    Sparse.wf 0 s.spareAt && Sparse.wf 0 s.sparesLow && Sparse.wf {} s.win.channels

/-- What every step keeps: memories and tables in canonical form, a SEQUENCE that is never 0, an active manager. -/
def Inv (s : State) : Bool := memoriesWf s && tablesWf s && numbersOk s

/-- The accepted command `seq` is `c`, of opcode `op`; it has begun, has not completed, and its channel still waits for its
answer (R491 to R494). -/
def Runs (s : State) (seq op : Nat) (c : Cmd) : Prop :=
  s.cmd seq = some c ∧ c.op = op ∧ c.began = true ∧ c.done = false ∧ c.orphan = false

/-- Channel `ch` holds the completion of `seq` with this status and response: posted in its registers (the bytes in its
response words where they are not in the bulk area), or waiting for them to be free (R493). -/
def Answered (ch seq status : Nat) (rsp : List Byte) (t : State) : Prop :=
  ((t.channelOf ch).cplValid = true ∧ (t.channelOf ch).cplSeq = seq ∧ (t.channelOf ch).cplStatus = status ∧
    (t.channelOf ch).cplLen = rsp.length ∧ ((t.channelOf ch).cplBulk = false → (t.channelOf ch).rsp = rsp)) ∨
  ∃ k ∈ (t.channelOf ch).waiting, k.seq = seq ∧ k.status = status ∧ k.rsp = rsp

end Sys2Proof
end

