-- ==== Sys2Proof/Certificates/Slice0/Obligations.lean ====
section
/-!
DEFINITION. The statements for the provers: what each command of the table does, from the manual's numbered rules, what it
leaves unchanged, and the invariant that every step keeps.
-/
open Sys2Proof Sys2Proof.Machine

/-- Every command at the front of the queue is run on the state with the queue's rest: a command takes its effect in the
order in which it was queued (log entry 1: the queue is the model's form of the outside world). -/
def Obligations.StepRunsTheFrontCommand : Prop :=
  ∀ (c : Instr) (cs : List Instr) (s : State), step { s with pending := c :: cs } = exec c { s with pending := cs }

/-- R9, R27, R529: on an empty queue one period of the 100 MHz reference passes (log entry 1, the model's choice): the tick
count that RAS time is counted from grows by one, the slot count by the slots of the period, each island counts a
millisecond of operating time at every 100,000th tick while main power is good, and nothing else changes. -/
def Obligations.IdleStepCountsOnePeriod : Prop :=
  ∀ s : State, s.pending = [] →
    ∃ t, step s = .next t ∧ t.ticks = s.ticks + 1 ∧ t.slot = (s.slot + slotsPerTick s) % 2 ^ 64 ∧
      (∀ die, (t.island die).ms = (s.island die).ms + (if s.powered = true ∧ (s.ticks + 1) % 100000 = 0 then 1 else 0)) ∧
      (∀ die, (t.island die).cycles = (s.island die).cycles ∧ (t.island die).calValid = (s.island die).calValid) ∧
      Changes [.ticks, .slot, .islandA, .islandB] s t

/-- No command of the table faults or is refused: each gives a next state, from every state. -/
def Obligations.EveryCommandAnswersNext : Prop :=
  ∀ (c : Instr) (s : State), ∃ t, exec c s = .next t

/-- The state before main power is good: unpowered, no command waiting, no message in flight, every site, hub and partition
at its reset values, the flashes erased and the MRAMs blank (log entries 8 and 11: the values the manual does not give are
the model's), and the invariant of the tables holds. -/
def Obligations.ResetStateIsSound : Prop :=
  Sys2Proof.Inv State.reset = true ∧ State.reset.powered = false ∧ State.reset.pending = [] ∧ State.reset.sent = [] ∧
    State.reset.stop.state = 0 ∧ State.reset.win.nextSeq = 1 ∧ (∀ k, State.reset.senOf k = {}) ∧ (∀ k, State.reset.hubOf k = {}) ∧
    (∀ k, State.reset.partOf k = {}) ∧ (∀ die a, Sparse.get 0 (State.reset.mram die) a = 0) ∧
    (∀ die a, Sparse.get 0xFF (State.reset.flash die) a = 0xFF)

/-- R26, R492 and the canonical form of every table: from every state that meets the invariant, whatever command stands at
the front of the queue (or none), the next state meets it: every memory and every sparse table in canonical form, the
SEQUENCE of the next accepted command a 32-bit number that is never 0, the active manager that of edge die A or B. -/
def Obligations.EveryStepKeepsTheInvariant : Prop :=
  ∀ s t : State, Sys2Proof.Inv s = true → step s = .next t → Sys2Proof.Inv t = true

/-- The frame of every command: what it leaves unchanged. `touches` lists, command by command, the fields it may change;
every other register, table, memory and counter of the block is as before. -/
def Obligations.CommandsChangeOnlyTheirFields : Prop :=
  ∀ (c : Instr) (s t : State), exec c s = .next t → Changes (touches c) s t

/-- R9, R406, R407: no command touches the queue of waiting commands or the reference clock's tick count, the
configuration flashes are written by IMAGE_STAGE only, and the tier-2 memory's and MRAM's owners are as `touches` says. -/
def Obligations.QueueClockAndFlashKept : Prop :=
  ∀ (c : Instr) (s t : State), exec c s = .next t → t.pending = s.pending ∧ t.ticks = s.ticks ∧
    ((∀ seq, c ≠ .imageStage seq) → t.flashA = s.flashA ∧ t.flashB = s.flashB)

/-- R406: a chunk staged by IMAGE_STAGE leaves every byte of the slot that runs as it was, in both flashes, and a loss of
main power leaves the flashes and both copies of the boot control record as they were. -/
def Obligations.StagingNeverWritesTheActiveSlot : Prop :=
  (∀ (seq : Nat) (s t : State) (die a : Nat), Sys2Proof.Inv s = true → die ≤ 1 → (s.mgr s.active).slot < 2 → exec (.imageStage seq) s = .next t →
     slotSize * (s.mgr s.active).slot ≤ a → a < slotSize * ((s.mgr s.active).slot + 1) →
     Sparse.get 0xFF (t.flash die) a = Sparse.get 0xFF (s.flash die) a) ∧
  (∀ s : State, ∃ t, exec .mainPowerLoss s = .next t ∧ t.flashA = s.flashA ∧ t.flashB = s.flashB ∧ t.mramA = s.mramA ∧ t.mramB = s.mramB)

/-- R74: when TCG_WAKE_ACK has not risen within 10 µs (the row's event, log entry 2), the alarm clock-generator-unresponsive
is raised, the waiting accesses complete with WAKE_TIMEOUT, and SEN_WAKE_REQ stays raised until the acknowledge arrives. -/
def Obligations.WakeTimeoutCompletesTheWaitingAccess : Prop :=
  ∀ (site : Nat) (s : State), Sys2Proof.Inv s = true → (s.senOf site).wakeState = 1 → (s.senOf site).wake = true →
    (∃ t, exec (.wakeTimeout site) s = .next t ∧ bitOf 1 (t.senOf site).alarm = true ∧
      (t.senOf site).wake = true ∧ (t.senOf site).wakeState = 1 ∧ (t.senOf site).wakeWaiting = [] ∧
      t.answers = s.answers ++ (s.senOf site).wakeWaiting.filterMap fun m => match m with
        | .read u _ _ g => some { unit := u, opcode := 1, tag := g, status := 2, words := [] }
        | .write u _ _ g => some { unit := u, opcode := 2, tag := g, status := 2, words := [] }
        | .programWrite u _ _ g => some { unit := u, opcode := 0x10, tag := g, status := 2, words := [] }
        | .programRead u _ _ g => some { unit := u, opcode := 0x11, tag := g, status := 2, words := [] }
        | _ => none) ∧
    ((s.senOf site).inReset = false → ∃ t, exec (.tcgWakeAckRise site) s = .next t ∧ (t.senOf site).wake = false)

/-- R378, R379, R512, R524, R529. -/
def Obligations.PowerAndBackup : Prop :=
  (∀ (p : PowerUp) (s : State), s.powered = false →
     ∃ t, exec (.mainPowerGood p) s = .next t ∧ t.powered = true ∧ t.rasAtA = s.ticks ∧ t.rasAtB = s.ticks ∧
       (s.islandA.cycles + 1) % 2 ^ 32 ≤ t.islandA.cycles ∧ s.islandA.ms ≤ t.islandA.ms ∧
       (p.edgeB = true → (s.islandB.cycles + 1) % 2 ^ 32 ≤ t.islandB.cycles ∧ s.islandB.ms ≤ t.islandB.ms) ∧
       (p.edgeB = false → t.islandB = s.islandB)) ∧
  (∀ s : State, s.powered = true →
     ∃ t, exec .mainPowerLoss s = .next t ∧ t.powered = false ∧ t.sen = [] ∧ t.hub = [] ∧ t.part = [] ∧ t.health = [] ∧
       t.dram = [] ∧ t.recorder = {} ∧ t.win = {} ∧ t.sent = [] ∧ t.boot = {} ∧ t.mgrA.running = false ∧ t.mgrB.running = false ∧
       t.flashA = s.flashA ∧ t.flashB = s.flashB ∧ t.setA = s.setA ∧ t.setB = s.setB ∧ t.mramA = s.mramA ∧ t.mramB = s.mramB ∧
       t.islandA.cycles = s.islandA.cycles ∧ t.islandA.ms = s.islandA.ms ∧ t.islandA.calValid = s.islandA.calValid ∧
       t.islandB.cycles = s.islandB.cycles ∧ t.islandB.ms = s.islandB.ms ∧ t.islandB.calValid = s.islandB.calValid ∧
       t.ticks = s.ticks ∧ t.pending = s.pending) ∧
  (∀ (die : Nat) (s : State), die ≤ 1 →
     ∃ t, exec (.backupSupplyLoss die) s = .next t ∧ (t.island die).vbatLow = true ∧ t.island (1 - die) = s.island (1 - die) ∧
       (s.powered = true → (t.island die).cycles = (s.island die).cycles ∧ (t.island die).ms = (s.island die).ms) ∧
       (s.powered = false → (t.island die).cycles = 0 ∧ (t.island die).ms = 0 ∧ (t.island die).calValid = false)) ∧
  (∀ (written : Nat) (s : State), s.powered = true → s.warn = false →
     ∃ t, exec (.pwrWarnN written) s = .next t ∧ t.warn = true ∧ t.noRuns = true ∧ t.setBusy = none ∧ t.powered = true) ∧
  (∀ s : State, s.warn = true →
     ∃ t, exec .pwrWarnReturn s = .next t ∧ t.warn = false ∧ t.noRuns = s.noRuns)

/-- R381, R382, R388, R403: what authentication, the digest exchange, training and the settings write do. -/
def Obligations.BringUpCommands : Prop :=
  (∀ (die k : Nat) (ks : List Nat) (s : State), Sys2Proof.Inv s = true → die ≤ 1 →
     (if die = 0 then s.boot.authA else s.boot.authB) = true → s.boot.tries die = k :: ks →
     ∃ t, exec (.securityAuthentication die true) s = .next t ∧ (t.mgr die).running = true ∧ (t.mgr die).slot = k ∧
       (t.mgr die).digest = slotDigest (s.flash die) k ∧ (t.mgr die).sequence = slotSequence (s.flash die) k) ∧
  (∀ s : State, Sys2Proof.Inv s = true → s.boot.step = 1 → (s.mgr s.active).running = true → (s.mgr s.other).running = true →
     ∃ t, exec .imageDigestExchange s = .next t ∧ (t.mgr s.active).running = true ∧
       ((s.mgr s.active).digest = (s.mgr s.other).digest → (t.mgr s.other).standby = true ∧ (t.mgr s.other).running = true) ∧
       ((s.mgr s.active).digest ≠ (s.mgr s.other).digest → (t.mgr s.other).running = false)) ∧
  (∀ (kind index result time : Nat) (settings : List Byte) (s : State), Sys2Proof.Inv s = true → s.boot.training.contains (256 * kind + index) = true →
     ∃ t, exec (.linkTrainingResult kind index result time settings) s = .next t ∧
       Sparse.get 0 t.net (netIndex kind index) = s.trained (256 * kind + index) result + 1 ∧
       ∀ n, n ≠ netIndex kind index → Sparse.get 0 t.net n = Sparse.get 0 s.net n) ∧
  (∀ (k seq : Nat) (s : State), s.setBusy = some (k, 1, seq) →
     ∃ t, exec .settingsWriteComplete s = .next t ∧ t.setBusy = none ∧
       t.setA = s.setA.set k { s.setA.getD k {} with state := 0xFC } ∧
       (s.image.grade = 2 → t.setB = s.setB) ∧
       (s.image.grade ≠ 2 → t.setB = s.setB.set k { s.setB.getD k {} with state := 0xFC })) ∧
  (∀ (die : Nat) (s : State), Sys2Proof.Inv s = true → die ≤ 1 → s.powered = true → (s.mgr die).dieLost = false → s.boot.step ≠ 0 → s.boot.ready = true →
     ∃ t, exec (.managerWatchdogExpiry die) s = .next t ∧
       ((slotTest (s.flash die) (s.mgr die).slot (s.boot.power.getD {}).serial (s.boot.power.getD {}).moduleType).1 = 0 →
         (t.mgr die).running = false ∧ (t.mgr die).standby = false ∧ t.mgr (1 - die) = s.mgr (1 - die)))

/-- R26, R56, R437, R532 to R536. -/
def Obligations.ManagerTakeoverAndHeartbeat : Prop :=
  (∀ (hub : Nat) (s : State), Sys2Proof.Inv s = true → s.works hub = true → s.arrives (.takeover hub) = true →
     ∃ t, exec (.takeover hub) s = .next t ∧ (t.hubOf hub).onlyB = decide (s.active = 0) ∧
       t.sent = s.sent.erase (.takeover hub) ++ [.controlResponse (hubAddr hub) 1 0x0C 0 0 false]) ∧
  (∀ (unit tag status : Nat) (s : State), s.failover = true → s.arrives (.controlResponse unit 1 0x0C tag status false) = true →
     ∃ t, exec (.controlResponse unit 1 0x0C tag status false) s = .next t ∧
       ((s.takeover.filter fun h => hubAddr h != unit) ≠ [] →
         t.takeover = (s.takeover.filter fun h => hubAddr h != unit) ∧ t.failover = true ∧ t.active = s.active) ∧
       ((s.takeover.filter fun h => hubAddr h != unit) = [] → t.takeover = [] ∧ t.failover = false ∧ t.active = s.other)) ∧
  (∀ (die : Nat) (s : State), (s.mgr die).running = true → (s.port die).halted = false → s.image.grade ≠ 2 →
     (s.mgr (1 - die)).running = true →
     ∃ t, exec (.heartbeatTimer die) s = .next t ∧
       t.sent = s.sent ++ [.heartbeat (1 - die) (s.dieRas die) (if die = s.active then 0 else 1)]) ∧
  (∀ (die : Nat) (ras : Dword) (role : Nat) (s : State), die ≤ 1 →
     ∃ t, exec (.heartbeat die ras role) s = .next t ∧ (t.mgr die).lastBeat = s.dieRas die ∧
       (t.mgr die).running = (s.mgr die).running ∧ t.mgr (1 - die) = s.mgr (1 - die) ∧
       t.sent = s.sent.erase (.heartbeat die ras role)) ∧
  (∀ (die : Bool) (s : State), s.image.grade ≠ 2 → s.failover = false → s.boot.step ≠ 1 → s.standby = true →
     ∃ t, exec (.heartbeatLoss die) s = .next t ∧
       (die = true → s.hubs ≠ [] → (t.mgr s.active).running = false ∧ (t.mgr s.active).dieLost = true) ∧
       (s.checked = false → (t.mgr s.active).running = false ∧ t.active = s.active) ∧
       (s.checked = true → s.hubs ≠ [] → t.failover = true ∧ t.takeover = s.hubs ∧
         t.sent = s.sent ++ s.hubs.map fun h => .takeover h)) ∧
  (∀ (die : Bool) (s : State), s.image.grade ≠ 2 → s.standby = true →
     ∃ t, exec (.standbyLoss die) s = .next t ∧ (t.mgr s.other).standby = false ∧ t.checked = false ∧ t.recorder.mirrorDegraded = true ∧
       (∀ q ∈ t.recorder.intake ++ t.recorder.staging, q.mirror ≠ 0)) ∧
  (∀ (die : Nat) (s : State), die ≤ 1 → (s.mgr die).mramOk = true → (die ≠ s.active ∨ s.standby = false) →
     ∃ t, exec (.mramFailure die) s = .next t ∧ (t.mgr die).mramOk = false ∧ t.active = s.active ∧
       (s.powered = true → die ≠ s.active → s.image.grade ≠ 2 → t.recorder.mirrorDegraded = true))

/-- R414, R417, R421, R422: events enter the recorder, their copies go to the standby die, and acknowledges come back. -/
def Obligations.RecorderIntakeAndMirror : Prop :=
  (∀ (ev : EventMsg) (s : State), (s.mgr s.active).running = true → s.recorder.running = true → codeKnown ev.code = true →
     s.recorder.powerFail = false → s.recorder.frozen = false →
     (codeProtected ev.code = true ∨ Sparse.get 0 s.recorder.taken ev.code < (s.rate ev.code).2) →
     queueBytes s.recorder.intake + (16 + (pad4 ev.payload).length + 4) < 131072 → s.arrives (.event ev) = true →
     ∃ t q, exec (.event ev) s = .next t ∧ t.recorder.nextIndex = s.recorder.nextIndex + 1 ∧
       t.recorder.intake = s.recorder.intake ++ [q] ∧ q.index = s.recorder.nextIndex ∧ q.r.code = ev.code ∧
       q.r.source = ev.source ∧ q.r.powerCycle = s.cycles ∧ q.r.optime = s.recordMs ∧ t.recorder.ring = s.recorder.ring) ∧
  (∀ (index : Nat) (r : Rec) (s : State), s.standby = true → (s.port s.other).halted = false → (s.mgr s.other).mramOk = true →
     index = s.recorder.mirrorNext →
     ∃ t, exec (.recordMirror index r) s = .next t ∧ t.sent = s.sent.erase (.recordMirror index r) ++ [.mirrorAck index] ∧
       (s.recorder.frozen = false → t.recorder.mirrorRing.next = s.recorder.mirrorRing.next + 1) ∧
       (s.recorder.frozen = true → t.recorder.mirrorStaging = s.recorder.mirrorStaging ++ [{ index := index, mirror := 1, r := r }]) ∧
       t.recorder.nextIndex = s.recorder.nextIndex ∧ t.recorder.intake = s.recorder.intake) ∧
  (∀ (index : Nat) (s : State),
     ∃ t, exec (.mirrorAck index) s = .next t ∧ t.sent = s.sent.erase (.mirrorAck index) ∧
       t.recorder.intake = s.recorder.intake.map (setMirror index 1) ∧
       t.recorder.staging = s.recorder.staging.map (setMirror index 1) ∧ t.recorder.ring = s.recorder.ring ∧
       t.recorder.nextIndex = s.recorder.nextIndex) ∧
  (∀ (index : Nat) (s : State), ((s.recorder.intake ++ s.recorder.staging).any fun q => q.index = index && q.mirror = 0) = true →
     ∃ t, exec (.mirrorAckTimeout index) s = .next t ∧ t.recorder.mirrorDegraded = true ∧
       t.recorder.intake = s.recorder.intake.map (setMirror index 2) ∧
       t.recorder.staging = s.recorder.staging.map (setMirror index 2) ∧ t.recorder.nextIndex = s.recorder.nextIndex) ∧
  (∀ s : State, s.standby = true → (s.mgr s.other).mramOk = true → s.recorder.running = true →
     ∃ t, exec .standbyRejoin s = .next t ∧ t.checked = true ∧ t.recorder.mirrorDegraded = false ∧
       t.recorder.intake = s.recorder.intake ∧ t.recorder.ring = s.recorder.ring)

/-- R411, R423, R425, R431, R434: batches of the ring, rate windows, drop summaries, freezes, calendar marks and drop counts. -/
def Obligations.RecorderRingAndMarks : Prop :=
  (∀ (count : Nat) (s : State), s.recorder.frozen = false → (s.mgr s.active).mramOk = true →
     batchTake count 0 s.recorder.intake ≠ [] →
     ∃ t, exec (.ringBatchWrite count) s = .next t ∧
       t.recorder.ring.next = s.recorder.ring.next + (batchTake count 0 s.recorder.intake).length ∧ t.recorder.frozen = false) ∧
  (∀ s : State, ∃ t, exec .rateWindowStart s = .next t ∧
     t.recorder.windowStart = BitVec.ofNat 64 (s.ras.toNat / 100000000 * 100000000)) ∧
  (∀ s : State, s.recorder.running = true → s.recorder.dropPath ≠ 0 →
     ∃ t, exec .dropSummarySecond s = .next t ∧ t.recorder.dropPath = 0 ∧ t.recorder.nextIndex = s.recorder.nextIndex + 1) ∧
  (∀ s : State, s.recorder.frozen = true →
     ∃ t, exec .freezeLimitExpiry s = .next t ∧ t.recorder.frozen = false ∧ t.recorder.staging = []) ∧
  (∀ s : State, s.recorder.running = true → s.recorder.powerFail = false → s.recorder.frozen = false →
     queueBytes s.recorder.intake < 131000 →
     ∃ t q, exec .hourlyCalendarMark s = .next t ∧ t.recorder.nextIndex = s.recorder.nextIndex + 1 ∧
       t.recorder.intake = s.recorder.intake ++ [q] ∧ q.r.code = 0x0001 ∧ q.r.source = mgrAddr s.active) ∧
  (∀ (site count : Nat) (s : State), s.arrives (.dropCount site count) = true →
     ∃ t, exec (.dropCount site count) s = .next t ∧ t.recorder.dropPath = s.recorder.dropPath + count ∧
       t.recorder.nextIndex = s.recorder.nextIndex ∧ t.sent = s.sent.erase (.dropCount site count))

/-- R26, R263, R379, R518, R522: the journal copy and its audit, the pins of the standby die, MRAM writes and counter copies. -/
def Obligations.JournalPinsAndMram : Prop :=
  (∀ (e : JournalEntry) (s : State), s.standby = true →
     ∃ t, exec (.journalEntry e) s = .next t ∧
       t.sent = s.sent.erase (.journalEntry e) ++ [.audit e.sequence (auditAgrees (receive (.journalEntry e) s) e)] ∧ t.journal = s.journal) ∧
  (∀ (sequence : Nat) (agree : Bool) (s : State),
     ∃ t, exec (.audit sequence agree) s = .next t ∧ t.auditAlarm = (s.auditAlarm || !agree) ∧ t.journal = s.journal ∧
       t.sent = s.sent.erase (.audit sequence agree)) ∧
  (∀ (pins : Nat) (s : State), Sys2Proof.Inv s = true →
     ∃ t, exec (.pinState pins) s = .next t ∧
       (t.port s.other).alertN = bitOf 0 pins ∧ (t.port s.other).faultN = bitOf 1 pins ∧ (t.port s.other).tripN = bitOf 2 pins ∧
       t.port s.active = s.port s.active) ∧
  (∀ s : State, Sys2Proof.Inv s = true → (s.mgr s.active).running = true → (s.mgr s.active).mramOk = true → (s.mgr s.other).running = true →
     ∃ t, exec .counterCopyTimer s = .next t ∧ (t.island s.other).cycles = max (s.island s.other).cycles s.cycles ∧
       (t.island s.other).ms = max (s.island s.other).ms s.ms ∧ t.island s.active = s.island s.active ∧
       t.boot.bootCtl.cycles = s.cycles ∧ t.boot.bootCtl.ms = s.ms ∧
       Memory.bytes 0 (t.mram s.active) 0x7FF000 (bootBytes t.boot.bootCtl).length = bootBytes t.boot.bootCtl) ∧
  (∀ (die offset : Nat) (data : List Byte) (s : State), Sys2Proof.Inv s = true → (s.mgr die).running = true → (s.port die).halted = false →
     (s.mgr die).mramOk = true →
     ∃ t, exec (.mramWrite die offset data) s = .next t ∧ Memory.bytes 0 (t.mram die) offset data.length = data ∧
       (∀ a, a < offset ∨ offset + data.length ≤ a → Sparse.get 0 (t.mram die) a = Sparse.get 0 (s.mram die) a)) ∧
  (∀ (site : Nat) (s : State), Sys2Proof.Inv s = true → site ∈ s.unflushed →
     ∃ t, exec (.historyCountFlush site) s = .next t ∧ t.unflushed = s.unflushed.filter (· != site) ∧
       (t.siteRec site).writes = ((s.siteRec site).writes + 1) % 2 ^ 32 ∧ (t.siteRec site).powerCycle = s.cycles ∧
       (t.siteRec site).state = (s.siteRec site).state)

/-- R25, R48, R49, R56: loading and checking of RAS time, the sync edge, and the watch between hubs. -/
def Obligations.RasTimeAndHubWatch : Prop :=
  (∀ (hub : Nat) (v : Dword) (s : State), Sys2Proof.Inv s = true → hub < 0x4000 → s.works hub = true → s.arrives (.timeLoad (hubAddr hub) v) = true →
     ∃ t, exec (.timeLoad (hubAddr hub) v) s = .next t ∧ (t.hubOf hub).rasArmed = some v ∧
       (t.hubOf hub).rasBase = (s.hubOf hub).rasBase ∧ t.rasArmedB = s.rasArmedB) ∧
  (∀ (v : Dword) (s : State), s.arrives (.timeLoad (mgrAddr 1) v) = true →
     ∃ t, exec (.timeLoad (mgrAddr 1) v) s = .next t ∧ t.rasArmedB = some v ∧ t.rasBaseB = s.rasBaseB) ∧
  (∀ (hub : Nat) (s : State), Sys2Proof.Inv s = true → s.works hub = true → hub ∉ s.rasCheck → s.arrives (.timeCheck hub) = true →
     ∃ t, exec (.timeCheck hub) s = .next t ∧ t.rasCheck = s.rasCheck ++ [hub] ∧ t.sent = s.sent.erase (.timeCheck hub)) ∧
  (∀ s : State, (s.mgr s.active).running = true → 4 ≤ s.boot.step →
     ∃ t, exec .rasAlignmentTimer s = .next t ∧ t.sent = s.sent ++ s.hubs.map fun h => .timeCheck h) ∧
  (∀ s : State, Sys2Proof.Inv s = true → s.mgrA.running = true →
     ∃ t, exec .syncPulse s = .next t ∧ t.rasCheck = [] ∧ t.rasArmedB = none ∧
       (∀ v, s.rasArmedB = some v → t.rasBaseB = v ∧ t.rasAtB = s.ticks) ∧
       (∀ h v, h ∈ s.hubs → (s.hubOf h).rasArmed = some v →
         t.hubOf h = { s.hubOf h with rasBase := v, rasAt := s.ticks, rasArmed := none } ∧ t.hubRas h = v) ∧
       (∀ h, (s.hubOf h).rasArmed = none → t.hubOf h = s.hubOf h) ∧
       t.rasBaseA = s.rasBaseA ∧ t.rasAtA = s.rasAtA) ∧
  (∀ (hub : Nat) (s : State), s.works hub = true → s.works (farHub hub) = true →
     ∃ t, exec (.hubWatchTimer hub) s = .next t ∧ t.sent = s.sent ++ [.hubWatch hub]) ∧
  (∀ (sector : Nat) (s : State), Sys2Proof.Inv s = true → sector ≠ farHub sector → s.arrives (.hubWatch sector) = true →
     ∃ t, exec (.hubWatch sector) s = .next t ∧ (t.hubOf sector).lastWatch = s.hubRas (farHub sector) ∧
       (t.hubOf sector).failed = (s.hubOf sector).failed ∧ t.sent = s.sent.erase (.hubWatch sector)) ∧
  (∀ (sector : Nat) (s : State), s.works sector = true → s.works (farHub sector) = true → s.failover = false →
     (∀ z ∈ s.sectors, (s.hubOf z).adoptedBy ≠ some sector) →
     ∃ t, exec (.hubWatchMissed sector) s = .next t ∧ t.takeover = s.takeover.filter (· != sector) ∧
       t.rasCheck = s.rasCheck.filter (· != sector) ∧ t.failover = false) ∧
  (∀ (sector : Nat) (s : State), Sys2Proof.Inv s = true → s.works sector = true → s.works (farHub sector) = false → s.failover = false →
     (∀ z ∈ s.sectors, (s.hubOf z).adoptedBy ≠ some sector) →
     ∃ t, exec (.hubWatchMissed sector) s = .next t ∧ (t.hubOf sector).failed = true ∧ (t.hubOf sector).lostSector = true ∧
       t.takeover = s.takeover.filter (· != sector))

/-- R32, R33, R37, R39, R43, R44, R51 to R53: failed links, hub buffers and reserved messages. -/
def Obligations.MidwayLinksAndBuffers : Prop :=
  (∀ (link : MidLink) (s : State), link ∉ s.links →
     ∃ t, exec (.linkWatchdogExpiry link) s = .next t ∧ t.links = s.links ++ [link] ∧
       (link.kind ≠ 0 → .alarmLevel link.endA 34 true {} ∈ t.sent) ∧
       (link.kind ≠ 0 → ∀ h, link.endA = hubAddr h → h < 80 → Sys2Proof.Inv s = true →
         (t.hubOf h).counters = Sparse.upd 0 (s.hubOf h).counters 10 fun v => (v + 1) % 2 ^ 64)) ∧
  (∀ (hub index : Nat) (w : Held) (s : State), Sys2Proof.Inv s = true → s.works hub = true →
     nextHeld (s.hubOf hub).lastGrant ((s.hubOf hub).linkWait.filter fun w => s.mayUse hub index w.channel w.cls) = some w →
     ∃ t, exec (.hubBufferFreed hub index) s = .next t ∧ t.sent = s.sent ++ [w.msg] ∧
       (t.hubOf hub).pool = ((s.hubOf hub).pool.filter fun z => z.index != index) ++ [{ w with index := index, waited := 0 }] ∧
       (t.hubOf hub).linkWait = ((s.hubOf hub).linkWait.erase w).map (fun z => { z with waited := z.waited + 1 }) ∧
       (t.hubOf hub).lastGrant = Sparse.set 0 (s.hubOf hub).lastGrant w.cls (w.channel + 1)) ∧
  (∀ (hub index : Nat) (s : State), Sys2Proof.Inv s = true → s.works hub = true → (s.hubOf hub).linkWait = [] →
     ∃ t, exec (.hubBufferFreed hub index) s = .next t ∧ t.sent = s.sent ∧
       (t.hubOf hub).pool = (s.hubOf hub).pool.filter fun z => z.index != index) ∧
  (∀ (hub cls opcode : Nat) (s : State), Sys2Proof.Inv s = true → s.works hub = true → messageListed cls opcode = false →
     ∃ t, exec (.reservedClassDiscard hub cls opcode) s = .next t ∧
       (t.hubOf hub).discards = (s.hubOf hub).discards + 1 ∧
       (t.hubOf hub).counters = Sparse.upd 0 (s.hubOf hub).counters 9 (fun v => (v + 1) % 2 ^ 64) ∧
       ((s.hubOf hub).discardAt = none → t.sent = s.sent ++ [.event { code := 0xA004, source := hubAddr hub, payload := le 1 hub ++ le 1 cls ++ le 2 0 ++ le 4 (min ((s.hubOf hub).discardNew + 1) (2 ^ 32 - 1)) }]) ∧
       (∀ a, (s.hubOf hub).discardAt = some a → since (s.hubRas hub) a < 100000000 → t.sent = s.sent ∧
         (t.hubOf hub).discardNew = (s.hubOf hub).discardNew + 1))

/-- R77, R78, R79, R274, R447, Tables 3.3 and 3.4: reads and writes of the registers of sentinels and hubs. -/
def Obligations.RegisterAccesses : Prop :=
  (∀ (unit offset count tag : Nat) (s : State), Sys2Proof.Inv s = true → unit < 0x4000 → s.answers? unit = true →
     (wordOffsets offset count).all senKnown = true → ((wordOffsets offset count).any senFront = true → s.mustWait unit = false) → s.arrives (.read unit offset count tag) = true →
     (((receive (.read unit offset count tag) s).hubOf ((receive (.read unit offset count tag) s).siteHub unit)).collect.reading.contains unit = false ∨ offset ≠ 0x18 ∨ count ≠ 1) →
     ∃ t, exec (.read unit offset count tag) s = .next t ∧
       t.answers = s.answers ++ [{ unit := unit, opcode := 1, tag := tag, status := 0, words := (senReadAll unit (wordOffsets offset count) s).2 }] ∧
       (count = 1 → (senReadAll unit (wordOffsets offset count) s).2 = [BitVec.ofNat 32 (senWord s unit offset)] ∧
         t.senOf unit = senReadEffect s unit offset (s.senOf unit))) ∧
  (∀ (site tag : Nat) (s : State), site < 0x4000 → s.answers? site = true → s.arrives (.read site 0x18 1 tag) = true →
     ((receive (.read site 0x18 1 tag) s).hubOf ((receive (.read site 0x18 1 tag) s).siteHub site)).collect.reading.contains site = true →
     exec (.read site 0x18 1 tag) s = .next (giveUpDone site false (senRead site 0x18 1 tag (receive (.read site 0x18 1 tag) s)))) ∧
  (∀ (unit offset count tag : Nat) (s : State), Sys2Proof.Inv s = true → unit < 0x4000 → s.answers? unit = true →
     (wordOffsets offset count).all senKnown = true → (wordOffsets offset count).any senFront = true → s.mustWait unit = true → s.arrives (.read unit offset count tag) = true →
     ∃ t, exec (.read unit offset count tag) s = .next t ∧ t.answers = s.answers ∧
       (t.senOf unit).wakeWaiting = (s.senOf unit).wakeWaiting ++ [.read unit offset count tag] ∧
       ((s.senOf unit).inReset = false → (s.senOf unit).wakeState = 0 → (t.senOf unit).wake = true ∧ (t.senOf unit).wakeState = 1) ∧
       ((s.senOf unit).inReset = true → (t.senOf unit).wakeState = (s.senOf unit).wakeState)) ∧
  (∀ (unit offset count tag : Nat) (s : State), unit < 0x4000 → s.answers? unit = true →
     (wordOffsets offset count).all senKnown = false → s.arrives (.read unit offset count tag) = true →
     ∃ t, exec (.read unit offset count tag) s = .next t ∧ t.answers = s.answers ++ [{ unit := unit, opcode := 1, tag := tag, status := 1, words := [] }] ∧
       t.sen = s.sen) ∧
  (∀ (hub offset count tag : Nat) (s : State), Sys2Proof.Inv s = true → hub < 80 → s.works hub = true → veAsleep s (hubAddr hub) offset = false →
     (wordOffsets offset count).all hubKnown = true → s.arrives (.read (hubAddr hub) offset count tag) = true →
     ∃ t, exec (.read (hubAddr hub) offset count tag) s = .next t ∧ t.hub = (receive (.read (hubAddr hub) offset count tag) s).hub ∧
       t.answers = s.answers ++ [{ unit := hubAddr hub, opcode := 1, tag := tag, status := 0, words := (wordOffsets offset count).map fun o => BitVec.ofNat 32 (hubWord (receive (.read (hubAddr hub) offset count tag) s) hub o) }]) ∧
  (∀ (unit offset tag : Nat) (words : List Word) (s : State), Sys2Proof.Inv s = true → unit < 0x4000 → s.answers? unit = true →
     (wordOffsets offset words.length).all senWritable = true → s.arrives (.write unit offset words tag) = true →
     ∃ t, exec (.write unit offset words tag) s = .next t ∧
       t.answers = s.answers ++ [{ unit := unit, opcode := 2, tag := tag, status := 0, words := [] }] ∧
       (s.tileAt unit ≠ 0xFFFF → t.senOf unit = senWriteAll offset words (s.senOf unit)) ∧
       (s.tileAt unit = 0xFFFF → s.mustWait unit = false → t.senOf unit = applySettings (senWriteAll offset words (s.senOf unit))) ∧
       (s.tileAt unit = 0xFFFF → s.mustWait unit = true → (t.senOf unit).settle = true ∧ (t.senOf unit).ctrlFront = (s.senOf unit).ctrlFront) ∧
       (∀ w, offset = 0x08 → words = [w] → (t.senOf unit).ctrl = w.toNat % 64 ∧ (t.senOf unit).crossErr = (s.senOf unit).crossErr) ∧
       (∀ w, offset = 0x10 → words = [w] → (t.senOf unit).crossErr = (s.senOf unit).crossErr &&& (7 ^^^ (w.toNat % 8)) ∧
         (t.senOf unit).ctrl = (s.senOf unit).ctrl) ∧
       (∀ k, k ≠ unit → t.senOf k = s.senOf k)) ∧
  (∀ (hub offset tag : Nat) (words : List Word) (s : State), Sys2Proof.Inv s = true → hub < 80 → s.works hub = true →
     veAsleep s (hubAddr hub) offset = false → (wordOffsets offset words.length).all hubWritable = true → s.arrives (.write (hubAddr hub) offset words tag) = true →
     ∃ t, exec (.write (hubAddr hub) offset words tag) s = .next t ∧
       t.answers = s.answers ++ [{ unit := hubAddr hub, opcode := 2, tag := tag, status := 0, words := [] }] ∧
       t.hubOf hub = hubWriteAll offset words ((receive (.write (hubAddr hub) offset words tag) s).hubOf hub) ∧
       (∀ k, k ≠ hub → t.hubOf k = (receive (.write (hubAddr hub) offset words tag) s).hubOf k))

/-- R71, R72, R77, R174, R193, R209, R217: the drop count, program stores and generator seeds. -/
def Obligations.ProgramAndSeedAccesses : Prop :=
  (∀ (site tag : Nat) (s : State), Sys2Proof.Inv s = true → s.answers? site = true → s.arrives (.dropCountRead site tag) = true →
     ∃ t, exec (.dropCountRead site tag) s = .next t ∧ (t.senOf site).dropCount = 0 ∧
       t.answers = s.answers ++ [{ unit := site, opcode := 1, tag := tag, status := 0, words := [BitVec.ofNat 32 (s.senOf site).dropCount] }] ∧
       (t.senOf site).verdict = (s.senOf site).verdict) ∧
  (∀ (site offset tag : Nat) (words : List Word) (s : State), Sys2Proof.Inv s = true → s.answers? site = true → s.mustWait site = false →
     offset + 4 * words.length ≤ 3584 → s.arrives (.programWrite site offset words tag) = true →
     ∃ t, exec (.programWrite site offset words tag) s = .next t ∧
       (t.senOf site).progPending = storeWrite (s.senOf site).progPending offset words ∧
       (t.senOf site).progActive = (s.senOf site).progActive ∧
       t.answers = s.answers ++ [{ unit := site, opcode := 0x10, tag := tag, status := 0, words := [] }]) ∧
  (∀ (site offset tag : Nat) (words : List Word) (s : State), s.answers? site = true → s.mustWait site = false →
     3584 < offset + 4 * words.length → s.arrives (.programWrite site offset words tag) = true →
     ∃ t, exec (.programWrite site offset words tag) s = .next t ∧ t.sen = s.sen ∧
       t.answers = s.answers ++ [{ unit := site, opcode := 0x10, tag := tag, status := 1, words := [] }]) ∧
  (∀ (site offset count tag : Nat) (s : State), s.answers? site = true → s.mustWait site = false →
     offset + 4 * count ≤ 3584 → s.arrives (.programRead site offset count tag) = true →
     ∃ t, exec (.programRead site offset count tag) s = .next t ∧ t.sen = s.sen ∧
       t.answers = s.answers ++ [{ unit := site, opcode := 0x11, tag := tag, status := 0, words := (wordOffsets offset count).map (storeWord (s.senOf site).progActive) }]) ∧
  (∀ (site offset count tag : Nat) (words : List Word) (s : State), Sys2Proof.Inv s = true → s.answers? site = true → s.mustWait site = true →
     (s.arrives (.programWrite site offset words tag) = true → ∃ t, exec (.programWrite site offset words tag) s = .next t ∧ t.answers = s.answers ∧
       (t.senOf site).wakeWaiting = (s.senOf site).wakeWaiting ++ [.programWrite site offset words tag]) ∧
     (s.arrives (.programRead site offset count tag) = true → ∃ t, exec (.programRead site offset count tag) s = .next t ∧ t.answers = s.answers ∧
       (t.senOf site).wakeWaiting = (s.senOf site).wakeWaiting ++ [.programRead site offset count tag])) ∧
  (∀ (hub : Nat) (sampling : Bool) (value : Word) (s : State), Sys2Proof.Inv s = true →
     ∃ t, exec (.seedLoad hub sampling value) s = .next t ∧
       (sampling = true → (t.hubOf hub).sampleSeed = BitVec.ofNat 128 (putWord (s.hubOf hub).sampleSeed.toNat 3 value.toNat) ∧
         (t.hubOf hub).sampleGen = seedOf (t.hubOf hub).sampleSeed ∧ (t.hubOf hub).contentGen = (s.hubOf hub).contentGen) ∧
       (sampling = false → (t.hubOf hub).contentSeed = BitVec.ofNat 128 (putWord (s.hubOf hub).contentSeed.toNat 3 value.toNat) ∧
         (t.hubOf hub).contentGen = seedOf (t.hubOf hub).contentSeed ∧ (t.hubOf hub).sampleGen = (s.hubOf hub).sampleGen))

/-- R72 to R75: the wake protocol of a tile's front. -/
def Obligations.WakeAndFrontQueue : Prop :=
  (∀ (site : Nat) (s : State), Sys2Proof.Inv s = true → (s.senOf site).wakeState = 1 → (s.senOf site).inReset = false →
     ∃ t, exec (.tcgWakeAckRise site) s = .next t ∧ (t.senOf site).wakeState = 3 ∧ (t.senOf site).wake = false ∧
       ((s.senOf site).drains = 0 → (t.senOf site).wakeWaiting = [] ∧ (t.senOf site).settle = false ∧ bitOf 1 (t.senOf site).alarm = false)) ∧
  (∀ (site : Nat) (s : State), Sys2Proof.Inv s = true → (s.senOf site).wakeState = 1 → (s.senOf site).inReset = true →
     ∃ t, exec (.tcgWakeAckRise site) s = .next t ∧ (t.senOf site).wakeState = 2 ∧
       (t.senOf site).wakeWaiting = (s.senOf site).wakeWaiting ∧ bitOf 1 (t.senOf site).alarm = false) ∧
  (∀ (site : Nat) (s : State), Sys2Proof.Inv s = true → (s.senOf site).wakeState = 3 →
     ∃ t, exec (.tcgWakeAckFall site) s = .next t ∧ (t.senOf site).wakeWaiting = (s.senOf site).wakeWaiting ∧
       ((s.senOf site).wakeWaiting = [] → (s.senOf site).settle = false → (s.senOf site).drains = 0 →
         (t.senOf site).wakeState = 0 ∧ (t.senOf site).wake = (s.senOf site).wake) ∧
       ((s.senOf site).wakeWaiting ≠ [] ∨ (s.senOf site).settle = true ∨ (s.senOf site).drains ≠ 0 → (t.senOf site).wakeState = 1 ∧ (t.senOf site).wake = true)) ∧
  (∀ (site : Nat) (s : State), Sys2Proof.Inv s = true → (s.senOf site).wakeState = 1 →
     ∃ t, exec (.wakeTimeout site) s = .next t ∧ (t.senOf site).crossErr = (s.senOf site).crossErr ||| 2 ∧
       (t.senOf site).wakeWaiting = [] ∧ (t.senOf site).wakeState = 1 ∧ bitOf 1 (t.senOf site).alarm = true ∧
       t.answers = s.answers ++ (s.senOf site).wakeWaiting.filterMap fun m => match m with
         | .read u _ _ tag => some { unit := u, opcode := 1, tag := tag, status := 2, words := [] }
         | .write u _ _ tag => some { unit := u, opcode := 2, tag := tag, status := 2, words := [] }
         | .programWrite u _ _ tag => some { unit := u, opcode := 0x10, tag := tag, status := 2, words := [] }
         | .programRead u _ _ tag => some { unit := u, opcode := 0x11, tag := tag, status := 2, words := [] }
         | _ => none)

/-- R45, R66 to R71, R142, R271: merged events, and the queue from the front of a sentinel to its back. -/
def Obligations.EventsAndFrontQueue : Prop :=
  (∀ (site code : Nat) (s : State), Sys2Proof.Inv s = true → Sparse.get false (s.senOf site).evLevel code = true → (s.senOf site).evDiff code ≠ 0 →
     s.mustWait site = false → (s.senOf site).wakeWaiting.contains (.eventLevelRise site code) = false →
     ∃ t, exec (.eventLevelRise site code) s = .next t ∧
       (t.senOf site).evTaken = Sparse.set 0 (s.senOf site).evTaken code (Sparse.get 0 (s.senOf site).evCount code) ∧
       (t.senOf site).evLevel = Sparse.set false (s.senOf site).evLevel code false ∧ (t.senOf site).evCount = (s.senOf site).evCount ∧
       (code = 0 → bitOf 0 (t.senOf site).alarm = true)) ∧
  (∀ (site : Nat) (s : State), Sys2Proof.Inv s = true → Sparse.wf 0 (s.senOf site).evTaken = true →
     s.mustWait site = false → (s.senOf site).wakeWaiting = [] →
     ∃ t, exec (.eventCounterSampleTimer site) s = .next t ∧ (∀ code < 3, (t.senOf site).evDiff code = 0) ∧
       (t.senOf site).evCount = (s.senOf site).evCount) ∧
  (∀ (site : Nat) (s : State), Sys2Proof.Inv s = true → (s.senOf site).drains < (s.senOf site).fq.length → s.mustWait site = true →
     ∃ t, exec (.frontQueueEntry site) s = .next t ∧ (t.senOf site).fq = (s.senOf site).fq ∧ t.sent = s.sent ∧
       (t.senOf site).drains = (s.senOf site).drains + 1 ∧
       ((s.senOf site).inReset = false → (s.senOf site).wakeState = 0 → (t.senOf site).wake = true ∧ (t.senOf site).wakeState = 1)) ∧
  (∀ (site code : Nat) (s : State), Sys2Proof.Inv s = true → Sparse.get false (s.senOf site).evLevel code = true → (s.senOf site).evDiff code ≠ 0 →
     s.mustWait site = true → (s.senOf site).wakeWaiting.contains (.eventLevelRise site code) = false →
     ∃ t, exec (.eventLevelRise site code) s = .next t ∧ (t.senOf site).evTaken = (s.senOf site).evTaken ∧
       (t.senOf site).wakeWaiting = (s.senOf site).wakeWaiting ++ [.eventLevelRise site code]) ∧
  (∀ (site : Nat) (e : FrontEntry) (es : List FrontEntry) (s : State), (s.senOf site).fq = e :: es → (s.senOf site).drains ≤ es.length →
     s.mustWait site = false → s.registerTaken e.item = true → exec (.frontQueueEntry site) s = .next s) ∧
  (∀ (site : Nat) (v : VerdictItem) (d : DetailItem) (e : FrontEntry) (es : List FrontEntry) (s : State), Sys2Proof.Inv s = true →
     (s.senOf site).fq = e :: es → (s.senOf site).drains ≤ es.length → s.mustWait site = false → e.item = .residueVerdict site v d → s.registerTaken e.item = false →
     ∃ t, exec (.frontQueueEntry site) s = .next t ∧ (t.senOf site).fq = (refillFront (refillFront { s.senOf site with fq := es })).fq ∧
       .residueVerdict site v d ∈ t.sent ∧
       (verdictFails v.verdict = true → (t.senOf site).verdict = (s.senOf site).verdict ||| senMask v.lineage) ∧
       (verdictFails v.verdict = false → (t.senOf site).verdict = (s.senOf site).verdict)) ∧
  (∀ (site : Nat) (d : StepDoneItem) (e : FrontEntry) (es : List FrontEntry) (s : State), Sys2Proof.Inv s = true →
     (s.senOf site).fq = e :: es → (s.senOf site).drains ≤ es.length → s.mustWait site = false → e.item = .stepDone site d → s.registerTaken e.item = false →
     ∃ t, exec (.frontQueueEntry site) s = .next t ∧ (t.senOf site).fq = (refillFront (refillFront { s.senOf site with fq := es })).fq ∧
       .stepDone site { d with failed := BitVec.ofNat 32 (s.senOf site).verdict } ∈ t.sent) ∧
  (∀ (site unit code : Nat) (raised : Bool) (edge : Edge) (e : FrontEntry) (es : List FrontEntry) (s : State), Sys2Proof.Inv s = true →
     (s.senOf site).fq = e :: es → (s.senOf site).drains ≤ es.length → s.mustWait site = false → e.item = .alarmLevel unit code raised edge → s.registerTaken e.item = false →
     ∃ t, exec (.frontQueueEntry site) s = .next t ∧ (t.senOf site).fq = (refillFront (refillFront { s.senOf site with fq := es })).fq ∧
       bitOf code (t.senOf site).alarm = raised)

/-- R323, R325, R327, R331, R337, R440: commands of a tile's queues. -/
def Obligations.QueueCommandsTraceAndWatches : Prop :=
  (∀ (site : Nat) (op : QueueOp) (s : State), Sys2Proof.Inv s = true → (s.senOf site).fenced = false →
     bitOf 1 (Sparse.get ({} : Shadow) (s.senOf site).shadow op.queue).state = false →
     (bitOf 0 (Sparse.get ({} : Shadow) (s.senOf site).shadow op.queue).state = false ∨
       (Sparse.get ({} : Shadow) (s.senOf site).shadow op.queue).headDesc ≠ headDesc op) →
     ∃ t, exec (.queueCommandIssue site op) s = .next t ∧
       (t.senOf site).shadow = Sparse.upd {} (s.senOf site).shadow op.queue (fun e =>
         { e with state := 1, targetKind := op.targetKind, target := op.target, context := op.context, depth := op.depth, credits := op.credits, headSlot := s.slotAt site, headDesc := headDesc op }) ∧
       (op.queue < 2 → testHandle op.handle = false → op.lineage < 32 → (t.senOf site).served = (s.senOf site).served ||| 2 ^ op.lineage) ∧
       (op.queue < 2 → s.inWindow (s.sitePart site) = true → testHandle op.handle = false → s.tileAt site ≠ 0xFFFF →
         (t.partOf (s.sitePart site)).breach = true)) ∧
  (∀ (site : Nat) (op : QueueOp) (s : State), Sys2Proof.Inv s = true → (s.senOf site).fenced = false →
     bitOf 1 (Sparse.get ({} : Shadow) (s.senOf site).shadow op.queue).state = false →
     bitOf 0 (Sparse.get ({} : Shadow) (s.senOf site).shadow op.queue).state = true →
     (Sparse.get ({} : Shadow) (s.senOf site).shadow op.queue).headDesc = headDesc op →
     ∃ t, exec (.queueCommandIssue site op) s = .next t ∧
       (t.senOf site).shadow = Sparse.upd {} (s.senOf site).shadow op.queue (fun e =>
         { e with targetKind := op.targetKind, target := op.target, context := op.context, depth := op.depth, credits := op.credits, headDesc := headDesc op }) ∧
       (t.senOf site).traceRecs = (s.senOf site).traceRecs) ∧
  (∀ (site : Nat) (op : QueueOp) (s : State), (s.senOf site).fenced = true → exec (.queueCommandIssue site op) s = .next s) ∧
  (∀ (site : Nat) (op : QueueOp) (discarded : Bool) (s : State), Sys2Proof.Inv s = true →
     ∃ t, exec (.queueCommandComplete site op discarded) s = .next t ∧
       (t.senOf site).shadow = Sparse.upd {} (s.senOf site).shadow op.queue (fun y =>
         { y with state := (if bitOf 2 y.state then 4 else 0) + 8 * flag discarded, depth := op.depth, credits := op.credits, advances := (y.advances + flag (!discarded)) % 2 ^ 32 }) ∧
       (t.senOf site).served = (s.senOf site).served ∧
       ((s.senOf site).fenced = true → (∀ e ∈ (t.senOf site).shadow, bitOf 0 e.2.state = false ∧ e.2.depth = 0) → .fenceDone site ∈ t.sent))

/-- R311, R312, R443, R453, R455: remote trace triggers, watch dumps and SRAM errors. -/
def Obligations.TracesWatchesAndSramErrors : Prop :=
  (∀ (site firing : Nat) (slot : Dword) (s : State), Sys2Proof.Inv s = true → (s.senOf site).armed = true → s.arrives (.traceTrigger site firing slot) = true →
     ∃ t, exec (.traceTrigger site firing slot) s = .next t ∧ (t.senOf site).traceFired = true ∧ (t.senOf site).traceRemote = true ∧
       (t.senOf site).traceState = 2 ∧ (t.senOf site).tracePost = (s.senOf site).postCount ∧
       (t.senOf site).traceRecs = (s.senOf site).traceRecs ∧ t.sent = s.sent.erase (.traceTrigger site firing slot)) ∧
  (∀ (site slot : Nat) (y : Staged) (s : State), Sys2Proof.Inv s = true → (s.senOf site).staging.find? (fun y => y.slot = slot) = some y →
     ∃ t, exec (.watchDumpComplete site slot) s = .next t ∧
       (t.senOf site).staging = (s.senOf site).staging.filter (fun z => z.slot != slot) ∧
       Memory.bytes 0 t.dram (tier2Addr (regionOf (sectorOf site)) y.addr) (y.header ++ blockBytes y.block).length = y.header ++ blockBytes y.block ∧
       (∀ a, a < tier2Addr (regionOf (sectorOf site)) y.addr ∨
           tier2Addr (regionOf (sectorOf site)) y.addr + (y.header ++ blockBytes y.block).length ≤ a →
         Sparse.get 0 t.dram a = Sparse.get 0 s.dram a)) ∧
  (∀ (site : Nat) (path address : Nat) (desc : Desc) (s : State), Sys2Proof.Inv s = true →
     ∃ t, exec (.sramErrorReport site false path address desc) s = .next t ∧
       (path = 3 → (t.senOf site).runFailed = true) ∧
       (path ≤ 1 → (t.senOf site).evCount = Sparse.upd 0 (s.senOf site).evCount 0 fun v => (v + 1) % 65536) ∧
       (1 < path → (t.senOf site).evCount = (s.senOf site).evCount) ∧
       (path = 0 ∨ path = 2 → (t.senOf site).wordBad = (s.senOf site).wordBad ++ [(path, desc.handle, desc.index)])) ∧
  (∀ (site : Nat) (path address : Nat) (desc : Desc) (s : State), Sys2Proof.Inv s = true →
     ∃ t, exec (.sramErrorReport site true path address desc) s = .next t ∧ t.health = s.health ∧ (t.senOf site).evCount = (s.senOf site).evCount ∧
       ((s.senOf site).used false < 14 → (t.senOf site).fq = (s.senOf site).fq ++ [{ item := .sramErrorReport site true path address desc, slots := 1 }] ∧
         (t.senOf site).dropCount = (s.senOf site).dropCount)) ∧
  (∀ (site path address : Nat) (desc : Desc) (e : FrontEntry) (es : List FrontEntry) (s : State), Sys2Proof.Inv s = true → (s.senOf site).fq = e :: es →
     (s.senOf site).drains ≤ es.length → s.mustWait site = false → e.item = .sramErrorReport site true path address desc → s.registerTaken e.item = false →
     ∃ t, exec (.frontQueueEntry site) s = .next t ∧ (t.siteRec site).nSramCorrected = satAdd 65535 (s.siteRec site).nSramCorrected (e.merge + 1) ∧
       (t.siteRec site).state = (s.siteRec site).state)

/-- R316, R317, R320, R337 to R340, R343: fences of partitions, and the teardown of their contexts. -/
def Obligations.FencesAndTeardowns : Prop :=
  (∀ (site partition cause : Nat) (s : State), Sys2Proof.Inv s = true → site < 0x4000 → (s.senOf site).silent = false → s.arrives (.fence site partition cause) = true →
     ∃ t, exec (.fence site partition cause) s = .next t ∧ (t.senOf site).fenced = true ∧
       (∀ k, k ≠ site → (t.senOf k).fenced = (s.senOf k).fenced)) ∧
  (∀ (hub partition cause : Nat) (s : State), Sys2Proof.Inv s = true → s.arrives (.fence (hubAddr hub) partition cause) = true →
     ∃ t, exec (.fence (hubAddr hub) partition cause) s = .next t ∧
       t.sent = s.sent.erase (.fence (hubAddr hub) partition cause) ++
         ((s.actionSites partition).filter fun x => s.siteHub x = hub).map fun x => .fence x partition cause) ∧
  (∀ (site : Nat) (f : Fence) (s : State), Sys2Proof.Inv s = true → (s.partOf (s.sitePart site)).fence = some f → f.commitWait = false →
     site ∈ f.waiting → f.waiting.filter (· != site) ≠ [] → s.arrives (.fenceDone site) = true →
     ∃ t, exec (.fenceDone site) s = .next t ∧
       (t.partOf (s.sitePart site)).fence = some { f with waiting := f.waiting.filter (· != site) } ∧
       (t.partOf (s.sitePart site)).state = (s.partOf (s.sitePart site)).state) ∧
  (∀ (site : Nat) (f : Fence) (s : State), Sys2Proof.Inv s = true → (s.partOf (s.sitePart site)).fence = some f → f.commitWait = false →
     site ∈ f.waiting → f.waiting.filter (· != site) = [] → (s.partOf (s.sitePart site)).tearing = 0 → f.dirty = false → s.arrives (.fenceDone site) = true →
     ∃ t, exec (.fenceDone site) s = .next t ∧ (t.partOf (s.sitePart site)).fence = none ∧
       (f.reset = false → (t.partOf (s.sitePart site)).state = if (s.partOf (s.sitePart site)).state = 7 then 7 else 4) ∧
       (f.reset = true → (t.partOf (s.sitePart site)).state = (if (s.partOf (s.sitePart site)).state = 7 then 7 else 5) ∧
         ∃ r, (t.partOf (s.sitePart site)).reset = some r ∧ r.cause = f.resetCause ∧ r.began = f.began)) ∧
  (∀ (p : Nat) (f : Fence) (s : State), Sys2Proof.Inv s = true → (s.partOf p).fence = some f → f.commitWait = false → f.waiting ≠ [] →
     ∃ t, exec (.fenceDeadline p) s = .next t ∧ (t.partOf p).fence = none ∧ (t.partOf p).state = 7) ∧
  (∀ (p : Nat) (f : Fence) (s : State), Sys2Proof.Inv s = true → (s.partOf p).fence = some f → f.commitWait = true → s.actionSites p ≠ [] →
     ∃ t, exec (.commitWaitExpiry p) s = .next t ∧ (t.partOf p).killed = true ∧
       (t.partOf p).fence = some { f with waiting := s.actionSites p, commitWait := false } ∧ (t.partOf p).open_ = 0) ∧
  (∀ (site : Nat) (expects : Bool) (s : State), Sys2Proof.Inv s = true → (s.partOf (s.sitePart site)).state ∈ [3, 4, 5, 7] →
     ∃ t, exec (.flitIntoFencedPartition site expects) s = .next t ∧ (t.senOf site).sunk = (s.senOf site).sunk + 1 ∧
       (t.senOf site).errored = (s.senOf site).errored + flag expects ∧
       (t.hubOf (s.siteHub site)).counters = Sparse.upd 0 (s.hubOf (s.siteHub site)).counters 61 fun v => (v + 1) % 2 ^ 64) ∧
  (∀ (p context reads writes : Nat) (s : State), Sys2Proof.Inv s = true → bitOf context (s.partOf p).tearing = true →
     (∀ f, (s.partOf p).fence = some f → f.commitWait = true ∨ f.waiting ≠ []) →
     (∃ t, exec (.teardownWritesDrained p context reads writes) s = .next t ∧
       (t.partOf p).tearing = (s.partOf p).tearing - 2 ^ context ∧
       (t.partOf p).gens = Sparse.set 0 (s.partOf p).gens context ((Sparse.get 0 (s.partOf p).gens context + 1) % 256) ∧
       (t.partOf p).fence = (s.partOf p).fence) ∧
     (∃ t, exec (.teardownWriteTimeout p context reads writes) s = .next t ∧
       (t.partOf p).tearing = (s.partOf p).tearing - 2 ^ context ∧
       (t.partOf p).gens = Sparse.set 0 (s.partOf p).gens context ((Sparse.get 0 (s.partOf p).gens context + 1) % 256) ∧
       (t.partOf p).fence = ((s.partOf p).fence.map fun f => { f with dirty := true }) ∧
       (t.partOf p).abandoned = (s.partOf p).abandoned + 1))

/-- R76, R344, R345, R348, R351: tile resets, partition resets, and the limit of a replay. -/
def Obligations.TileAndPartitionResets : Prop :=
  (∀ (site cause : Nat) (s : State), Sys2Proof.Inv s = true → (s.senOf site).silent = false → ¬ (cause = 1 ∧ s.repeatPending site = true) →
     ∃ t, exec (.tileReset site cause) s = .next t ∧ (t.senOf site).inReset = true ∧
       (t.senOf site).resetCause = (if (s.senOf site).resetCause = 0 ∨ (s.senOf site).resetCause = 4 then cause else (s.senOf site).resetCause) ∧
       (t.senOf site).fenced = false ∧ (t.senOf site).halted = none ∧ (t.senOf site).shadow = []) ∧
  (∀ (site cause : Nat) (s : State), Sys2Proof.Inv s = true → (s.senOf site).silent = true → ¬ (cause = 1 ∧ s.repeatPending site = true) →
     ∃ t, exec (.tileReset site cause) s = .next t ∧ (t.senOf site).inReset = (s.senOf site).inReset ∧
       (t.senOf site).shadow = (s.senOf site).shadow) ∧
  (∀ (site : Nat) (s : State), Sys2Proof.Inv s = true → (s.senOf site).inReset = true → (s.partOf (s.sitePart site)).reset = none → s.arrives (.resetDone site) = true →
     ∃ t, exec (.resetDone site) s = .next t ∧ (t.senOf site).inReset = false ∧ (t.senOf site).resetCause = 0 ∧
       (t.partOf (s.sitePart site)).reset = none) ∧
  (∀ (site : Nat) (r : Reset) (s : State), Sys2Proof.Inv s = true → (s.senOf site).inReset = true → (s.partOf (s.sitePart site)).reset = some r →
     (r.waiting.filter (· != site) ≠ [] ∨ r.memory = false) → s.arrives (.resetDone site) = true →
     ∃ t, exec (.resetDone site) s = .next t ∧ (t.senOf site).inReset = false ∧
       (t.partOf (s.sitePart site)).reset = some { r with waiting := r.waiting.filter (· != site) }) ∧
  (∀ (site : Nat) (r : Reset) (s : State), Sys2Proof.Inv s = true → (s.partOf (s.sitePart site)).reset = some r → site ∈ r.waiting →
     ((s.senOf site).resetCause = 0 ∨ (s.senOf site).resetCause = 4) →
     ∃ t, exec (.tileResetTimeout site) s = .next t ∧ (t.partOf (s.sitePart site)).reset = none ∧ (t.partOf (s.sitePart site)).state = 7) ∧
  (∀ (p : Nat) (r : Reset) (s : State), Sys2Proof.Inv s = true → (s.partOf p).reset = some r →
     (r.waiting ≠ [] → ∃ t, exec (.resetMemoryReady p 0xFF) s = .next t ∧ (t.partOf p).reset = some { r with memory := true } ∧
       (t.partOf p).state = (s.partOf p).state) ∧
     (∀ failing, failing ≠ 0xFF → ∃ t, exec (.resetMemoryReady p failing) s = .next t ∧ (t.partOf p).reset = none ∧ (t.partOf p).state = 7) ∧
     (r.waiting = [] → r.keepJob = true → (s.partOf p).job.isSome = true → (s.partOf p).state ≠ 7 → (s.partOf p).hang = none →
       ∃ t, exec (.resetMemoryReady p 0xFF) s = .next t ∧ (t.partOf p).reset = none ∧ (t.partOf p).state = 2 ∧ (t.partOf p).opened = true)) ∧
  (∀ (p : Nat) (h : Hang) (s : State), Sys2Proof.Inv s = true → (s.partOf p).state = 6 → (s.partOf p).hang = some h → h.current.isSome = true →
     (s.partOf p).fence = none → (s.partOf p).reset = none →
     ∃ t f, exec (.replayStepLimitExpiry p) s = .next t ∧ (s.actionSites p ≠ [] → (t.partOf p).state = 3 ∧ (t.partOf p).fence = some f ∧
       f.cause = 1 ∧ f.reset = true ∧ f.resetCause = 1))

/-- R419, R434, R435, R493 to R495, Tables 20.9 and 20.10: the identity, status, log and calendar commands do what they say and
complete with status 0 and their response. -/
def Obligations.LogAndIdentityCommands : Prop :=
  (∀ (seq : Nat) (c : Cmd) (s : State), Sys2Proof.Inv s = true → Runs s seq 0x0001 c →
     ∃ t, exec (.getIdentity seq) s = .next t ∧ Answered c.channel seq 0 s.identity t ∧ t.part = s.part ∧ t.sen = s.sen) ∧
  (∀ (seq : Nat) (c : Cmd) (s : State), Sys2Proof.Inv s = true → Runs s seq 0x0002 c →
     ∃ t, exec (.getStatus seq) s = .next t ∧ t.part = s.part ∧ t.sen = s.sen ∧
       Answered c.channel seq 0 (le 4 s.config ++ le 4 s.win.altStatus ++ le 4 s.altLevel ++ le 4 s.win.altFatal ++ le 4 s.stop.reg ++
         le 4 (s.reportReg 0xA00) ++ (List.range 16).flatMap fun p => le 1 (s.partOf p).statusByte) t) ∧
  (∀ (seq : Nat) (c : Cmd) (s : State), Sys2Proof.Inv s = true → Runs s seq 0x0010 c → s.recorder.frozen = false → s.recorder.staging = [] →
     ∃ t, exec (.logFreeze seq) s = .next t ∧ t.recorder.frozen = true ∧
       Answered c.channel seq 0 (le 8 s.recorder.ring.first ++ le 8 s.recorder.ring.next) t) ∧
  (∀ (seq : Nat) (c : Cmd) (s : State), Sys2Proof.Inv s = true → Runs s seq 0x0011 c → s.recorder.frozen = true →
     ∃ t, exec (.logThaw seq) s = .next t ∧ t.recorder.frozen = false ∧ t.recorder.staging = [] ∧
       Answered c.channel seq 0 (le 4 s.recorder.staging.length ++ le 4 s.recorder.stageDrops) t) ∧
  (∀ (seq : Nat) (c : Cmd) (s : State), Sys2Proof.Inv s = true → Runs s seq 0x0012 c → s.recorder.frozen = false →
     ∃ t, exec (.logClear seq) s = .next t ∧ t.recorder.ring.first = s.recorder.ring.next ∧ t.recorder.ring.next = s.recorder.ring.next ∧
       Answered c.channel seq 0 (le 8 s.recorder.ring.first ++ le 8 s.recorder.ring.next) t) ∧
  (∀ (seq : Nat) (c : Cmd) (s : State), Sys2Proof.Inv s = true → Runs s seq 0x0013 c → s.recorder.running = true → s.recorder.powerFail = false →
     s.recorder.frozen = false → Sparse.get 0 s.recorder.taken 0x8001 < (s.rate 0x8001).2 →
     queueBytes s.recorder.intake + (16 + (pad4 (le 1 c.channel ++ le 3 0 ++ c.bulk)).length + 4) < 131072 →
     ∃ t, exec (.logMark seq) s = .next t ∧ Answered c.channel seq 0 (le 8 s.recorder.nextIndex) t) ∧
  (∀ (seq : Nat) (c : Cmd) (s : State), Sys2Proof.Inv s = true → Runs s seq 0x0020 c →
     ∃ t, exec (.timeSetCalendar seq) s = .next t ∧ Answered c.channel seq 0 (calBytes ((s.island s.active).calNow s.ticks)) t ∧
       (∀ die, die ≤ 1 → t.island die = if (s.mgr die).running then Island.setCal (calOf (c.arg 0 8)) s.ticks (s.island die) else s.island die))

/-- R254, R256, R261, R264, R489, R500, R501, Tables 20.11 and 20.12: the health and spare commands. -/
def Obligations.HealthCommands : Prop :=
  (∀ (seq : Nat) (c : Cmd) (s : State), Sys2Proof.Inv s = true → Runs s seq 0x0100 c → 0 < c.arg 2 2 → c.arg 0 2 + c.arg 2 2 ≤ 13440 →
     ∃ t, exec (.healthQuery seq) s = .next t ∧ t.health = s.health ∧
       Answered c.channel seq 0 (le 8 s.ms ++ packHealth ((List.range (c.arg 2 2)).map fun k => s.codeFor c.priv (c.arg 0 2 + k))) t) ∧
  (∀ (seq : Nat) (c : Cmd) (s : State), Sys2Proof.Inv s = true → Runs s seq 0x0104 c → c.arg 0 1 ≤ 4 → c.arg 8 4 ≤ historyLimit (c.arg 0 1) →
     ∃ t, exec (.historyRead seq) s = .next t ∧ t.health = s.health ∧
       Answered c.channel seq 0 (le 4 (min (c.arg 8 4) (historyCount s (c.arg 0 1) - c.arg 4 4)) ++ le 4 0 ++
         (List.range (min (c.arg 8 4) (historyCount s (c.arg 0 1) - c.arg 4 4))).flatMap fun k => historyRecord s (c.arg 0 1) (c.arg 4 4 + k)) t) ∧
  (∀ (seq : Nat) (c : Cmd) (s : State), Sys2Proof.Inv s = true → Runs s seq 0x0101 c → c.arg 0 2 < 13440 → s.blocked 3 0 (c.arg 0 2) = false →
     (s.siteRec (c.arg 0 2)).state = 1 →
     ∃ t, exec (.unitQuarantine seq) s = .next t ∧ (t.siteRec (c.arg 0 2)).state = 6 ∧ .quarantine (c.arg 0 2) ∈ t.sent ∧
       Answered c.channel seq 0 (le 2 0xFFFF ++ le 2 0 ++ le 8 0) t) ∧
  (∀ (seq op new : Nat) (c : Cmd) (s : State), Sys2Proof.Inv s = true → Runs s seq op c → c.arg 0 2 < 13440 → s.blocked 3 0 (c.arg 0 2) = false →
     (s.siteRec (c.arg 0 2)).serving = true → s.hasJob (s.sitePart (c.arg 0 2)) = false → s.candidate (c.arg 0 2) 14 = some new → new ≠ c.arg 0 2 →
     (op = 0x0101 → ∃ t, exec (.unitQuarantine seq) s = .next t ∧ (t.siteRec new).logical = s.tileAt (c.arg 0 2) ∧
       (t.siteRec (c.arg 0 2)).state = 6 ∧ Answered c.channel seq 0 (le 2 new ++ le 2 0 ++ le 8 0) t) ∧
     (op = 0x0402 → ∃ t, exec (.spareTakeover seq) s = .next t ∧ (t.siteRec new).logical = s.tileAt (c.arg 0 2) ∧
       (t.siteRec (c.arg 0 2)).state = 6 ∧ Answered c.channel seq 0 (le 2 new ++ le 2 0 ++ le 8 0) t)) ∧
  (∀ (seq : Nat) (c : Cmd) (s : State), Sys2Proof.Inv s = true → Runs s seq 0x0102 c → c.arg 0 2 < 13440 → bitOf 0 (c.arg 2 1) = false →
     (s.siteRec (c.arg 0 2)).state = 6 → s.deepPassed.contains (c.arg 0 2) = true →
     ∃ t, exec (.unitRelease seq) s = .next t ∧
       (s.hasJob (s.sectorPart (sectorOf (c.arg 0 2))) = true ∨ (∀ x ∈ s.health, sectorOf x.1 = sectorOf (c.arg 0 2) → x.2.suspect = false) →
         (t.siteRec (c.arg 0 2)).state = 1 ∧ (t.siteRec (c.arg 0 2)).condition = 1 ∧ (t.siteRec (c.arg 0 2)).cleanScreens = 0) ∧
       Answered c.channel seq 0 (le 1 (t.siteRec (c.arg 0 2)).byte ++ le 3 0) t) ∧
  (∀ (seq : Nat) (c : Cmd) (s : State), Sys2Proof.Inv s = true → Runs s seq 0x0103 c → c.arg 0 2 < 13440 → c.arg 2 1 = 0 → s.blocked 4 0 (c.arg 0 2) = false →
     ((s.siteRec (c.arg 0 2)).state = 1 ∨ (s.siteRec (c.arg 0 2)).state = 6 ∨ (s.siteRec (c.arg 0 2)).serving = true) →
     ∃ t, exec (.unitScreen seq) s = .next t ∧
       ((t.screenReqs.any fun x => x.1 = c.arg 0 2) = true ∨ (Sparse.get none t.screens (c.arg 0 2)).isSome = true) ∧ t.health = s.health ∧
       Answered c.channel seq 0 [] t) ∧
  (∀ (seq : Nat) (c : Cmd) (s : State), Sys2Proof.Inv s = true → Runs s seq 0x0105 c → c.arg 0 2 < 13440 →
     ((s.siteRec (c.arg 0 2)).state = 1 ∨ (s.siteRec (c.arg 0 2)).state = 6) →
     ∃ t, exec (.unitRetire seq) s = .next t ∧ (t.siteRec (c.arg 0 2)).state = 7 ∧ (t.siteRec (c.arg 0 2)).condition = 0 ∧
       Answered c.channel seq 0 [] t)

/-- R316, R320, R335, R336, R350, R352, R502, Tables 14.8, 14.13 and 20.13: definition, fence, reset and release of a partition, and
the teardown of contexts by command. -/
def Obligations.PartitionCommands : Prop :=
  (∀ (seq : Nat) (c : Cmd) (s : State), Sys2Proof.Inv s = true → Runs s seq 0x0200 c → c.arg 0 1 < 16 → c.arg 2 2 ≠ 0 →
     ((s.partOf (c.arg 0 1)).state = 0 ∨ (s.partOf (c.arg 0 1)).state = 1) →
     (∀ r < 16, bitOf r (c.arg 2 2) = true → s.regionDown r = false ∧
       (s.regionPart r = 0xFF ∨ s.regionPart r = c.arg 0 1 ∨ (s.partOf (s.regionPart r)).state = 1)) →
     (∀ x ∈ s.maskSectors (c.arg 2 2), x ∉ s.boot.short) →
     ∃ t, exec (.partitionDefine seq) s = .next t ∧ (t.partOf (c.arg 0 1)).regions = c.arg 2 2 ∧ (t.partOf (c.arg 0 1)).state = 1 ∧
       (∀ q < 16, q ≠ c.arg 0 1 → (s.partOf q).state = 1 → (t.partOf q).regions = (s.partOf q).regions &&& (0xFFFF ^^^ c.arg 2 2) ∨
         (t.partOf q).regions = (s.partOf q).regions) ∧
       Answered c.channel seq 0 (t.defineResponse (c.arg 0 1)) t) ∧
  (∀ (seq : Nat) (c : Cmd) (s : State), Sys2Proof.Inv s = true → Runs s seq 0x0201 c → c.arg 0 1 < 16 → s.stop.state = 0 →
     ((s.partOf (c.arg 0 1)).state = 1 ∨ (s.partOf (c.arg 0 1)).state = 2) → (s.partOf (c.arg 0 1)).fence = none →
     (s.partOf (c.arg 0 1)).reset = none → (s.partOf (c.arg 0 1)).hang = none → (s.partOf (c.arg 0 1)).swaps = [] →
     s.actionSites (c.arg 0 1) ≠ [] →
     ∃ t f, exec (.partitionFence seq) s = .next t ∧ (t.partOf (c.arg 0 1)).state = 3 ∧ (t.partOf (c.arg 0 1)).fence = some f ∧
       f.cause = 0 ∧ f.seqs = [seq] ∧ f.reset = false) ∧
  (∀ (seq : Nat) (c : Cmd) (s : State), Sys2Proof.Inv s = true → Runs s seq 0x0202 c → c.arg 0 1 < 16 → c.arg 1 1 = 0 → s.stop.state = 0 →
     ((s.partOf (c.arg 0 1)).state = 1 ∨ (s.partOf (c.arg 0 1)).state = 2) → (s.partOf (c.arg 0 1)).fence = none →
     (s.partOf (c.arg 0 1)).reset = none → (s.partOf (c.arg 0 1)).swaps = [] → s.actionSites (c.arg 0 1) ≠ [] →
     ∃ t f, exec (.partitionReset seq) s = .next t ∧ (t.partOf (c.arg 0 1)).state = 3 ∧ (t.partOf (c.arg 0 1)).killed = true ∧
       (t.partOf (c.arg 0 1)).fence = some f ∧ f.cause = 5 ∧ f.seqs = [seq] ∧ f.reset = true ∧ f.resetCause = 0) ∧
  (∀ (seq : Nat) (c : Cmd) (s : State), Sys2Proof.Inv s = true → Runs s seq 0x0203 c → c.arg 0 1 < 16 → s.stop.state ≠ 3 →
     (s.partOf (c.arg 0 1)).state = 4 →
     ∃ t, exec (.partitionRelease seq) s = .next t ∧
       ((s.partOf (c.arg 0 1)).killed = false → (t.partOf (c.arg 0 1)).state = (if (s.partOf (c.arg 0 1)).job.isSome then 2 else 1) ∧
         (t.partOf (c.arg 0 1)).job = (s.partOf (c.arg 0 1)).job) ∧
       ((s.partOf (c.arg 0 1)).killed = true → (t.partOf (c.arg 0 1)).state = 1 ∧ (t.partOf (c.arg 0 1)).job = none) ∧
       (∀ x ∈ s.partAllSites (c.arg 0 1), (t.senOf x).fenced = false) ∧
       Answered c.channel seq 0 (le 1 (t.partOf (c.arg 0 1)).state ++ le 3 0) t) ∧
  (∀ (seq : Nat) (c : Cmd) (s : State), Sys2Proof.Inv s = true → Runs s seq 0x0204 c → c.arg 0 1 < 16 → c.arg 1 1 ≠ 0 →
     c.arg 1 1 &&& (s.partOf (c.arg 0 1)).openSet = c.arg 1 1 → (s.partOf (c.arg 0 1)).state = 4 →
     ∃ t, exec (.contextTeardown seq) s = .next t ∧
       (t.partOf (c.arg 0 1)).tearing = (s.partOf (c.arg 0 1)).tearing ||| c.arg 1 1 ∧
       (t.partOf (c.arg 0 1)).tearSeqs = (s.partOf (c.arg 0 1)).tearSeqs ++ [seq] ∧
       (t.partOf (c.arg 0 1)).resumeCtx = (s.partOf (c.arg 0 1)).resumeCtx &&& (15 ^^^ c.arg 1 1) ∧
       (t.partOf (c.arg 0 1)).state = 4) ∧
  (∀ (seq : Nat) (c : Cmd) (s : State), Sys2Proof.Inv s = true → Runs s seq 0x0204 c → c.arg 1 1 ≠ 0 →
     c.arg 1 1 &&& (s.partOf (c.arg 0 1)).tearing = c.arg 1 1 → (s.partOf (c.arg 0 1)).state = 3 →
     ∃ t, exec (.contextTeardown seq) s = .next t ∧ t.win = s.win ∧
       t.partOf (c.arg 0 1) = { s.partOf (c.arg 0 1) with
         tearSeqs := (s.partOf (c.arg 0 1)).tearSeqs ++ [seq], tearMask := (s.partOf (c.arg 0 1)).tearMask ||| c.arg 1 1
         resumeCtx := (s.partOf (c.arg 0 1)).resumeCtx &&& (15 ^^^ c.arg 1 1) })

/-- R183, R238, R260, R281, R291, R470, R480, R503, R504, Tables 11.7, 19.3 and 20.14: a job is attached and detached, and its step
verdict and digest records are read. -/
def Obligations.JobCommands : Prop :=
  (∀ (seq : Nat) (c : Cmd) (s : State), Sys2Proof.Inv s = true → Runs s seq 0x0300 c → s.attachBad c.bulk = false → s.attachUnavailable c.bulk = false →
     (s.partOf (field c.bulk 0 1)).state = 1 → s.stop.state ≠ 3 → (field c.bulk 116 4 = 0 ∨ field c.bulk 116 4 = s.image.fwVersion) →
     (s.partOf (field c.bulk 0 1)).degraded = false → s.bootScreens (field c.bulk 0 1) = false → s.partHubs (field c.bulk 0 1) ≠ [] →
     (∀ x ∈ s.health, bitOf (regionOf (sectorOf x.1)) (s.partOf (field c.bulk 0 1)).regions = true → x.2.suspect = false) →
     ∃ t d rsp l, exec (.jobAttach seq) s = .next t ∧ (t.partOf (field c.bulk 0 1)).state = 2 ∧
       (t.partOf (field c.bulk 0 1)).job = some { jobOfBytes c.bulk with shift := d } ∧
       ((jobOfBytes c.bulk).forced = true → d = (jobOfBytes c.bulk).shift) ∧
       (t.partOf (field c.bulk 0 1)).step = (jobOfBytes c.bulk).firstStep ∧
       (t.partOf (field c.bulk 0 1)).open_ = (jobOfBytes c.bulk).contexts ∧
       (t.partOf (field c.bulk 0 1)).starting = some (seq, rsp) ∧ (t.partOf (field c.bulk 0 1)).load = some l ∧
       l.set = s.image.plausDefault ∧ l.waiting = s.partHubs (field c.bulk 0 1)) ∧
  (∀ (seq : Nat) (c : Cmd) (s : State), Runs s seq 0x0300 c → field c.bulk 0 1 < 16 → s.bootScreens (field c.bulk 0 1) = true →
     exec (.jobAttach seq) s = .next s) ∧
  (∀ (seq : Nat) (c : Cmd) (s : State), Sys2Proof.Inv s = true → Runs s seq 0x0301 c → c.arg 0 1 < 16 → (s.partOf (c.arg 0 1)).state = 2 →
     (s.partOf (c.arg 0 1)).boundarySeqs = [] → (s.partOf (c.arg 0 1)).swaps = [] → (s.partOf (c.arg 0 1)).load = none → (s.partOf (c.arg 0 1)).starting = none →
     ∃ t, exec (.jobDetach seq) s = .next t ∧ (t.partOf (c.arg 0 1)).job = none ∧ (t.partOf (c.arg 0 1)).state = 1 ∧
       ∃ rsp, Answered c.channel seq 0 rsp t) ∧
  (∀ (seq : Nat) (c : Cmd) (s : State), Sys2Proof.Inv s = true → Runs s seq 0x0302 c → c.arg 0 1 < 16 → 0 < c.arg 2 2 → c.arg 2 2 ≤ 256 →
     ∃ t, exec (.stepVerdictQuery seq) s = .next t ∧ t.part = s.part ∧
       Answered c.channel seq 0 (queryResponse (((sortSteps (·.step) ((s.partOf (c.arg 0 1)).records.filter fun r =>
         decide (c.arg 4 8 ≤ r.step))).take (c.arg 2 2)).map (stepRecBytes (c.arg 0 1)))) t) ∧
  (∀ (seq : Nat) (c : Cmd) (s : State), Sys2Proof.Inv s = true → Runs s seq 0x0303 c → c.arg 0 1 < 16 → 0 < c.arg 2 2 → c.arg 2 2 ≤ 255 →
     ∃ t, exec (.digestQuery seq) s = .next t ∧ t.part = s.part ∧
       Answered c.channel seq 0 (queryResponse (((sortSteps (·.step) ((s.partOf (c.arg 0 1)).digests.filter fun r =>
         decide (c.arg 4 8 ≤ r.step))).take (c.arg 2 2)).map (digestRecBytes (c.arg 0 1)))) t)

/-- R485, R486, R488, R433, R451, R484, R497, R499, R511, Tables 20.1 to 20.7: reads and writes of the service window. -/
def Obligations.WindowAccesses : Prop :=
  (∀ (addr size : Nat) (priv : Priv) (s : State), s.windowUp = true →
     (s.mayRead (addr / 4 * 4) priv = true → ∃ t, exec (.loRegisterRead addr size priv) s = .next t ∧
       t.win.readData = BitVec.ofNat 32 (wordPart addr size (s.wordAt (fun lo => Sparse.get 0 s.win.latches lo) (addr / 4 * 4))) ∧ t.win.denied = s.win.denied ∧
       (∀ x, s.pairOf (addr / 4 * 4) = some x → Sparse.wf 0 s.win.latches = true → Sparse.get 0 t.win.latches (addr / 4 * 4) = x / 2 ^ 32 % 2 ^ 32)) ∧
     (s.mayRead (addr / 4 * 4) priv = false → ∃ t, exec (.loRegisterRead addr size priv) s = .next t ∧ t.win.readData = 0 ∧
       t.win.denied = satAdd (2 ^ 32 - 1) s.win.denied 1)) ∧
  (∀ (value : Word) (priv : Priv) (s : State), s.windowUp = true →
     (∀ off, s.mayWrite off priv = false → ∃ t, exec (.registerWrite off 4 value priv) s = .next t ∧
       t.win.denied = satAdd (2 ^ 32 - 1) s.win.denied 1 ∧ t.recorder = s.recorder ∧ t.win.bulk = s.win.bulk) ∧
     (1 ≤ priv.level → ∃ t, exec (.registerWrite 0x208 4 value priv) s = .next t ∧ t.win.altMask = value.toNat % 256 ∧
       t.win.altStatus = s.win.altStatus) ∧
     (1 ≤ priv.level → ∃ t, exec (.registerWrite 0x818 4 value priv) s = .next t ∧ t.recorder.cursorLo = value.toNat ∧
       t.recorder.cursorHi = s.recorder.cursorHi) ∧
     (∃ t, exec (.registerWrite 0x900 4 value priv) s = .next t ∧ t.win.cntSelect = value.toNat &&& 0xFFFF007F) ∧
     (∀ off size, size ≠ 4 → exec (.registerWrite off size value priv) s = .next s) ∧
     (∀ off, Sys2Proof.Inv s = true → 0x4000 ≤ off → off < 0x8000 → off % 4 = 0 → s.win.bulkOpen priv = true → s.win.bulkLocked = false →
       ∃ t, exec (.registerWrite off 4 value priv) s = .next t ∧ Memory.bytes 0 t.win.bulk (off - 0x4000) 4 = le 4 value.toNat)) ∧
  (∀ (priv : Priv) (s : State), s.windowUp = true → s.badSelect s.win.cntSelect = false → s.cntAllowed s.win.cntSelect priv = true →
     ∃ t, exec (.cntSnapshot priv) s = .next t ∧ t.win.cntBad = false ∧ t.win.cntDenied = false ∧ t.win.cntTime = s.ras ∧
       t.win.cntVals = s.countersOf (selLevel s.win.cntSelect) (selUnit s.win.cntSelect)) ∧
  (∀ (value : Word) (priv : Priv) (s : State), s.windowUp = true → 1 ≤ priv.level →
     ∃ t, exec (.cursorHiWrite value priv) s = .next t ∧ t.recorder.cursorHi = value.toNat ∧ t.recorder.cursorLo = s.recorder.cursorLo ∧
       t.recorder.skipped = decide (s.recorder.cursorLo + 2 ^ 32 * value.toNat < s.recorder.ring.first) ∧
       t.recorder.winNext = t.recorder.winFirst + t.recorder.winRecords ∧ t.recorder.winBytes = t.recorder.window.length) ∧
  (∀ (value : Word) (priv : Priv) (s : State), s.windowUp = true → 1 ≤ priv.level →
     ∃ t, exec (.altStatusClear value priv) s = .next t ∧ t.win.altMask = s.win.altMask ∧ t.win.altFatal = s.win.altFatal ∧
       (∀ n < 8, bitOf n value.toNat = true → bitOf n s.altLevel = false → Sparse.get 0 s.win.altAt n ≠ s.ticks + 1 →
         bitOf n t.win.altStatus = false) ∧
       (∀ n < 8, bitOf n value.toNat = false → bitOf n t.win.altStatus = bitOf n s.win.altStatus)) ∧
  (∀ (value : Word) (priv : Priv) (s : State), s.windowUp = true → priv.level = 2 → value.toNat % 4 ≠ s.win.jtag →
     ∃ t, exec (.jtagCtrlWrite value priv) s = .next t ∧ t.win.jtag = value.toNat % 4) ∧
  (∀ (access : Access) (s : State), s.active = 1 → (receive (.windowForward access) s).windowUp = true →
     ∃ t, exec (.windowForward access) s = .next t ∧
       (access.isWrite = true → exec (.registerWrite access.offset access.size access.value access.priv) (receive (.windowForward access) s) = .next t) ∧
       (access.isWrite = false → exec (.loRegisterRead access.offset access.size access.priv) (receive (.windowForward access) s) = .next t)) ∧
  (∀ s : State, Sys2Proof.Inv s = true → s.powered = true →
     ∃ t, exec .functionLevelReset s = .next t ∧ (∀ ch, hostChannel ch = true → t.channelOf ch = {}) ∧
       t.channelOf 1 = s.channelOf 1 ∧ (∀ k ∈ t.win.cmds, hostChannel k.channel = true → k.orphan = true))

/-- R490 to R494, R496, R497, R509, R512, Tables 20.8 and 20.9: a submission is accepted or refused, a command begins, its
completion is acknowledged, and the bulk window is claimed and released. -/
def Obligations.MailboxProtocol : Prop :=
  (∀ (ch : Nat) (priv : Priv) (s : State), Sys2Proof.Inv s = true → (ch = 0 ∨ ch = 2 ∨ ch = 3) → s.windowUp = true → s.serving = true →
     (s.channelOf ch).ackPending = false → s.refusal ch ((s.channelOf ch).reqOp.toNat % 65536) (s.channelOf ch).inlineLen (s.channelOf ch).bulkLen = 0 →
     ∃ t c, exec (.submit ch priv) s = .next t ∧ (t.channelOf ch).ackState = 1 ∧ (t.channelOf ch).ackSeq = s.win.nextSeq ∧
       (t.channelOf ch).ackPending = false ∧ t.win.cmds = s.win.cmds ++ [c] ∧ c.seq = s.win.nextSeq ∧ c.channel = ch ∧
       c.op = (s.channelOf ch).reqOp.toNat % 65536 ∧ c.priv = priv ∧ c.args = (s.channelOf ch).inlined ∧ c.began = false ∧
       t.win.nextSeq = nextSequence s.win.nextSeq) ∧
  (∀ (ch : Nat) (priv : Priv) (s : State), Sys2Proof.Inv s = true → (ch = 0 ∨ ch = 2 ∨ ch = 3) → s.windowUp = true → s.serving = true →
     (s.channelOf ch).ackPending = false → s.refusal ch ((s.channelOf ch).reqOp.toNat % 65536) (s.channelOf ch).inlineLen (s.channelOf ch).bulkLen ≠ 0 →
     ∃ t, exec (.submit ch priv) s = .next t ∧ (t.channelOf ch).ackState = 2 ∧ (t.channelOf ch).ackSeq = (s.channelOf ch).ackSeq ∧
       (t.channelOf ch).refusal = s.refusal ch ((s.channelOf ch).reqOp.toNat % 65536) (s.channelOf ch).inlineLen (s.channelOf ch).bulkLen ∧
       t.win.cmds = s.win.cmds ∧ t.win.nextSeq = s.win.nextSeq) ∧
  (∀ (seq : Nat) (c : Cmd) (s : State), Sys2Proof.Inv s = true → s.cmd seq = some c → c.began = false → c.done = false → c.orphan = false →
     s.serving = true → s.mayBegin c = true →
     (c.denied = false → c.lengthsOk = true → c.reservedOk = true →
       ∃ t, exec (.commandBegin seq) s = .next t ∧ t.cmd seq = some { c with began := true, beganAt := s.ras }) ∧
     (c.denied = true → ∃ t, exec (.commandBegin seq) s = .next t ∧ Answered c.channel seq 2 [] t) ∧
     (c.denied = false → (c.lengthsOk = false ∨ c.reservedOk = false) → ∃ t, exec (.commandBegin seq) s = .next t ∧ Answered c.channel seq 3 [] t)) ∧
  (∀ (ch : Nat) (s : State), Sys2Proof.Inv s = true → (ch = 0 ∨ ch = 2 ∨ ch = 3) → s.windowUp = true → (s.channelOf ch).cplValid = true →
     ∃ t, exec (.cplAck ch) s = .next t ∧ t.cmd (s.channelOf ch).cplSeq = none ∧
       ((s.channelOf ch).waiting = [] → (t.channelOf ch).cplValid = false) ∧
       (∀ k ks, (s.channelOf ch).waiting = k :: ks → (t.channelOf ch).cplValid = true ∧ (t.channelOf ch).cplSeq = k.seq ∧
         (t.channelOf ch).cplStatus = k.status ∧ (t.channelOf ch).waiting = ks)) ∧
  (∀ (ch : Nat) (priv : Priv) (s : State), (ch = 0 ∨ ch = 2 ∨ ch = 3) → s.windowUp = true →
     (s.win.bulkOwner = none → ∃ t, exec (.claim ch priv) s = .next t ∧ t.win.bulkOwner = some ch ∧ t.win.bulkPriv = priv) ∧
     (s.win.bulkOwner ≠ none → ∃ t, exec (.claim ch priv) s = .next t ∧ t.win = s.win)) ∧
  (∀ (ch : Nat) (s : State), (ch = 0 ∨ ch = 2 ∨ ch = 3) → s.windowUp = true → s.win.bulkOwner = some ch →
     (s.win.bulkLocked = false → ∃ t, exec (.release ch) s = .next t ∧ t.win.bulkOwner = none ∧ t.win.bulk = s.win.bulk) ∧
     (s.win.bulkLocked = true → ∃ t, exec (.release ch) s = .next t ∧ t.win.bulkOwner = some ch ∧ t.win.bulkRelease = true))

/-- R507 to R509, R519 and DSP0236 (log entry 14, PRESUMED encodings): the MCTP endpoint of an edge die answers control messages,
counts what it discards, passes requests to channel 1, and repeats a completion that the bus has not taken. -/
def Obligations.OutOfBandPort : Prop :=
  (∀ (die : Nat) (physical integrity : Bool) (s : State), die ≤ 1 → s.answersControl die physical integrity = true →
     (∃ t, exec (.getEndpointId die physical integrity) s = .next t ∧
       (t.port die).tx = (s.port die).tx ++ [(0, le 1 0 ++ le 1 (s.port die).eid ++ le 2 0)] ∧ t.port (1 - die) = s.port (1 - die)) ∧
     (∃ t, exec (.getMctpVersionSupport die physical integrity) s = .next t ∧
       (t.port die).tx = (s.port die).tx ++ [(0, le 1 0 ++ le 1 1 ++ le 4 Config.mctpVersion.toNat)] ∧ t.port (1 - die) = s.port (1 - die)) ∧
     (∃ t, exec (.getMessageTypeSupport die physical integrity) s = .next t ∧
       (t.port die).tx = (s.port die).tx ++ [(0, le 1 0 ++ le 1 2 ++ le 1 0 ++ le 1 0x7E)] ∧ t.port (1 - die) = s.port (1 - die)) ∧
     (∃ t, exec (.getVendorDefinedMessageSupport die physical integrity) s = .next t ∧
       (t.port die).tx = (s.port die).tx ++ [(0, le 1 0 ++ le 1 0xFF ++ le 1 0 ++ le 1 (Config.vendorId.toNat / 256) ++
         le 1 Config.vendorId.toNat ++ le 2 Config.vendorCommandSet.toNat)] ∧ t.port (1 - die) = s.port (1 - die))) ∧
  (∀ (die eid : Nat) (physical integrity : Bool) (s : State), die ≤ 1 → s.answersControl die physical integrity = true →
     (8 ≤ eid → eid < 255 → ∃ t, exec (.setEndpointId die eid physical integrity) s = .next t ∧ (t.port die).eid = eid ∧
       (t.port die).assigned = true ∧ t.port (1 - die) = s.port (1 - die)) ∧
     ((eid < 8 ∨ 255 ≤ eid) → ∃ t, exec (.setEndpointId die eid physical integrity) s = .next t ∧ (t.port die).eid = (s.port die).eid ∧
       (t.port die).assigned = (s.port die).assigned ∧ (t.port die).tx = (s.port die).tx ++ [(0, le 1 2)])) ∧
  (∀ (die msgType command : Nat) (physical integrity : Bool) (s : State), die ≤ 1 → s.portUp die = true →
     (msgType = 0 → s.answersControl die physical integrity = true → controlSupported command = false →
       ∃ t, exec (.unsupportedMctpMessage die msgType command physical integrity) s = .next t ∧ (t.port die).tx = (s.port die).tx ++ [(0, le 1 5)]) ∧
     (msgType ≠ 0 → msgType ≠ 0x7E → ∃ t, exec (.unsupportedMctpMessage die msgType command physical integrity) s = .next t ∧
       (t.port die).discards = (s.port die).discards + 1 ∧ (t.port die).tx = (s.port die).tx)) ∧
  (∀ (m : OobMsg) (s : State), m.die ≤ 1 → s.portUp m.die = true → m.pecBad = false → m.overlapped = false → m.integrity = false →
     (s.port m.die).assigned = true → m.vendor = Config.vendorId → m.kind = 0 →
     (m.die ≠ s.active → (∀ l ∈ s.links, l.kind ≠ 3) → ∃ t, exec (.oobRequest m) s = .next t ∧ t.sent = s.sent ++ [.oobForward m]) ∧
     (m.die = s.active → Sys2Proof.Inv s = true → (s.channelOf 1).ackPending = false → s.serving = false →
       ∃ t, exec (.oobRequest m) s = .next t ∧ (t.channelOf 1).ackPending = true ∧ (t.channelOf 1).subOob = some (m.die, m.eid) ∧
         (t.channelOf 1).reqTag = m.tag ∧ (t.channelOf 1).subBulk = m.bulk)) ∧
  (∀ (m : OobMsg) (s : State), Sys2Proof.Inv s = true → (∀ l ∈ s.links, l.kind ≠ 3) → (s.channelOf 1).ackPending = false → s.serving = false →
     ∃ t, exec (.oobForward m) s = .next t ∧ (t.channelOf 1).ackPending = true ∧ (t.channelOf 1).subOob = some (m.die, m.eid) ∧
       (t.channelOf 1).reqTag = m.tag ∧ t.sent = s.sent.erase (.oobForward m)) ∧
  (∀ (m : OobMsg) (s : State), Sys2Proof.Inv s = true → (∀ l ∈ s.links, l.kind ≠ 3) → (s.channelOf 1).ackPending = false → s.serving = true →
     ∃ t, exec (.oobForward m) s = .next t ∧ (t.channelOf 1).ackPending = false ∧
       (s.refusal 1 (m.opcode % 65536) (min m.inlined.length 127) (min m.bulk.length 32767) = 0 →
         (t.channelOf 1).ackState = 1 ∧ (t.channelOf 1).ackSeq = s.win.nextSeq ∧ t.win.nextSeq = nextSequence s.win.nextSeq)) ∧
  (∀ (die seq n : Nat) (m : Nat × List Byte) (s : State), die ≤ 1 → (s.port die).retry = some (seq, n) → (s.port die).completion seq = some m →
     (n < 3 → ∃ t, exec (.oobCompletionRetry die) s = .next t ∧ (t.port die).tx = (s.port die).tx ++ [m] ∧
       (t.port die).retry = some (seq, n + 1) ∧ (t.port die).busHeld = true) ∧
     (3 ≤ n → (s.channelOf 1).cplValid = true → (s.channelOf 1).waiting = [] → Sys2Proof.Inv s = true →
       ∃ t, exec (.oobCompletionRetry die) s = .next t ∧ (t.port die).cplDiscards = (s.port die).cplDiscards + 1 ∧
         (t.port die).retry = none ∧ (t.channelOf 1).cplValid = false)) ∧
  (∀ (die : Nat) (s : State), die ≤ 1 →
     ∃ t, exec (.smbusClockLowTimeout die) s = .next t ∧ t.port die = { s.port die with busHeld := false } ∧ t.port (1 - die) = s.port (1 - die))

/-- R510, R511, R521 and IEEE 1149.1 for the reset of the TAP (log entry 14, PRESUMED): the instructions of a die's TAP. -/
def Obligations.TapInstructions : Prop :=
  (∀ (die : Nat) (s : State), die ≤ 1 →
     ∃ t, exec (.tapReset die) s = .next t ∧ (t.port die).ir = 0x100 ∧ (t.port die).halted = (s.port die).halted ∧ t.port (1 - die) = s.port (1 - die)) ∧
  (∀ (die : Nat) (s : State), die ≤ 1 → s.powered = true →
     (∃ t, exec (.bypass die) s = .next t ∧ (t.port die).ir = 0xFF ∧ (t.port die).tdo = 0 ∧ (t.port die).halted = (s.port die).halted) ∧
     (∃ t, exec (.idcode die) s = .next t ∧ (t.port die).tdo = 0x15548001 ∧ (t.port die).halted = (s.port die).halted)) ∧
  (∀ (die ir kind : Nat) (s : State), die ≤ 1 → s.powered = true →
     (bitOf die s.win.jtag = false → ∃ t, exec (.jtagDebugInstruction die ir kind) s = .next t ∧ (t.port die).ir = 0xFF ∧
       (t.port die).halted = (s.port die).halted) ∧
     (bitOf die s.win.jtag = true → kind ≠ 5 → ∃ t, exec (.jtagDebugInstruction die ir kind) s = .next t ∧ (t.port die).ir = ir % 256 ∧
       (t.port die).halted = (decide (kind = 1) || (s.port die).halted)) ∧
     (bitOf die s.win.jtag = true → kind = 5 →
       ∃ t, exec (.jtagDebugInstruction die ir kind) s = .next t ∧ (t.port die).halted = false))

/-- R403, R405 to R408, R535, Tables 14.12 and 20.15: staging and commit of an image, a save of the training results, the wafer reset. -/
def Obligations.ImageAndSettingsCommands : Prop :=
  (∀ (seq : Nat) (c : Cmd) (s : State), Sys2Proof.Inv s = true → Runs s seq 0x0700 c → c.arg 0 4 = 0 → c.bulk.length % 16 = 0 → c.bulk.length ≤ 16384 →
     ∃ t, exec (.imageStage seq) s = .next t ∧ Answered c.channel seq 0 [] t ∧ t.stageNext = c.bulk.length ∧ t.stageOpen = true ∧
       Memory.bytes 0xFF (t.flash s.active) (slotSize * s.stagingSlot) c.bulk.length = c.bulk) ∧
  (∀ (seq : Nat) (c : Cmd) (s : State), Sys2Proof.Inv s = true → Runs s seq 0x0700 c → c.arg 0 4 ≠ 0 → c.arg 0 4 = s.stageNext → s.stageOpen = true →
     s.trialPending = false → c.bulk.length % 16 = 0 → c.bulk.length ≤ 16384 → c.arg 0 4 + c.bulk.length ≤ slotSize →
     ∃ t, exec (.imageStage seq) s = .next t ∧ Answered c.channel seq 0 [] t ∧ t.stageNext = s.stageNext + c.bulk.length ∧
       Memory.bytes 0xFF (t.flash s.active) (slotSize * s.stagingSlot + s.stageNext) c.bulk.length = c.bulk) ∧
  (∀ (seq : Nat) (authenticA authenticB : Bool) (tests : PowerUp) (c : Cmd) (s : State), Sys2Proof.Inv s = true → Runs s seq 0x0701 c → c.arg 0 1 = 0 →
     s.boot.recovery = false →
     ∃ t, exec (.imageCommit seq authenticA authenticB tests) s = .next t ∧ t.stageOpen = false ∧
       (s.commitGood authenticA authenticB = true → t.boot.bootCtl.trial = s.stagingSlot ∧
         t.boot.bootCtl.trialState = 1 ∧ t.flashA = s.flashA ∧ t.flashB = s.flashB ∧
         Answered c.channel seq 0 (le 1 s.stagingSlot ++ le 3 0 ++ le 8 (slotSequence (s.flash s.active) s.stagingSlot)) t) ∧
       (s.commitGood authenticA authenticB = false → t.boot.bootCtl.trial = s.boot.bootCtl.trial ∧ Answered c.channel seq 3 [] t)) ∧
  (∀ (seq : Nat) (c : Cmd) (s : State), Sys2Proof.Inv s = true → Runs s seq 0x0702 c → s.blocked 1 3 0 = false → s.setBusy = none →
     ∃ t k x, exec (.trainingSave seq) s = .next t ∧ t.setBusy = some (k, 0, seq) ∧ t.setA = s.setA.set k x ∧ x.state = 0xFE ∧
       x.serial = s.image.serial ∧ x.sequence = (s.settings.sequence + 1) % 2 ^ 32 ∧ (s.image.grade ≠ 2 → t.setB = s.setB.set k x)) ∧
  (∀ (seq : Nat) (tests : PowerUp) (c : Cmd) (s : State), Sys2Proof.Inv s = true → Runs s seq 0x0202 c → c.arg 1 1 = 1 → c.arg 2 2 = 0 → c.arg 0 1 < 16 → s.boot.ready = true →
     ∃ t, exec (.waferReset seq tests) s = .next t ∧ t.stop = {} ∧ t.graph = [] ∧ t.links = [] ∧ t.dram = [] ∧
       t.flashA = s.flashA ∧ t.flashB = s.flashB)

/-- R389, R503, R506, R533, Tables 20.13 and 20.15: links and memory channels by command, and the switchover of managers. -/
def Obligations.LinkAndManagerCommands : Prop :=
  (∀ (seq result time : Nat) (settings : List Byte) (c : Cmd) (s : State), Sys2Proof.Inv s = true → Runs s seq 0x0400 c → c.arg 1 1 < netMax (c.arg 0 1) → c.arg 2 1 ≤ 2 →
     c.arg 1 1 < s.netCount (c.arg 0 1) → s.netInUse (c.arg 0 1) (c.arg 1 1) = false →
     ∃ t, exec (.netConfigure seq result time settings) s = .next t ∧
       Sparse.get 0 t.net (netIndex (c.arg 0 1) (c.arg 1 1)) = s.netResult (c.arg 0 1) (c.arg 1 1) (c.arg 2 1) result + 1 ∧
       (∀ n, n ≠ netIndex (c.arg 0 1) (c.arg 1 1) → Sparse.get 0 t.net n = Sparse.get 0 s.net n) ∧
       (c.arg 2 1 = 0 → s.netResult (c.arg 0 1) (c.arg 1 1) (c.arg 2 1) result = 3) ∧
       (c.arg 2 1 = 2 → result = 0 → s.netResult (c.arg 0 1) (c.arg 1 1) (c.arg 2 1) result = 1) ∧
       Answered c.channel seq 0 (le 1 (s.netResult (c.arg 0 1) (c.arg 1 1) (c.arg 2 1) result) ++ le 3 0 ++ le 4 time) t) ∧
  (∀ (seq : Nat) (c : Cmd) (s : State), Sys2Proof.Inv s = true → Runs s seq 0x0401 c →
     ∃ t, exec (.netStatus seq) s = .next t ∧ t.net = s.net ∧ Answered c.channel seq 0 s.netBytes t) ∧
  (∀ (seq : Nat) (journalOk : Bool) (c : Cmd) (s : State), Sys2Proof.Inv s = true → Runs s seq 0x0F00 c → s.image.grade ≠ 2 → s.failover = false →
     s.standby = true → s.checked = true → s.hubs ≠ [] →
     ∃ t, exec (.managerSwitchover seq journalOk) s = .next t ∧ t.failover = true ∧ t.takeover = s.hubs ∧ t.switchSeq = seq ∧
       t.switchOk = journalOk ∧ t.sent = s.sent ++ s.hubs.map fun h => .takeover h)

/-- R443, R458, R459, R466: a global stop is asked, a tile arms and halts, and the wafer is stopped. -/
def Obligations.StopCommands : Prop :=
  (∀ (seq : Nat) (c : Cmd) (s : State), Sys2Proof.Inv s = true → Runs s seq 0x0500 c → s.slot / 8 * 8 + 4096 ≤ c.arg 0 8 → s.mgrA.running = true →
     s.stop.releasing = false → s.liveSites ≠ [] →
     (s.stop.state = 0 → s.blocked 2 3 0 = false → ∃ t, exec (.stopAtSlot seq) s = .next t ∧ t.stop.state = 1 ∧ t.stop.n = c.arg 0 8 ∧
       t.stop.kind = 0 ∧ t.stop.waiting = s.liveSites ∧ t.stop.late = 0 ∧ t.stop.seqs = [seq] ∧
       t.sent = s.sent ++ s.liveSites.map fun x => .stopSlot x (BitVec.ofNat 64 (c.arg 0 8))) ∧
     (s.stop.state = 1 → ∃ t, exec (.stopAtSlot seq) s = .next t ∧ t.stop = { s.stop with seqs := s.stop.seqs ++ [seq] } ∧ t.sent = s.sent)) ∧
  (∀ (seq : Nat) (c : Cmd) (s : State), Sys2Proof.Inv s = true → Runs s seq 0x0501 c → s.mgrA.running = true → s.stop.state = 0 →
     s.stop.releasing = false → s.blocked 2 3 0 = false → (s.liveSites.filter fun x => (s.senOf x).halted.isNone) ≠ [] →
     ∃ t, exec (.stopNow seq) s = .next t ∧ t.stop.state = 1 ∧ t.stop.kind = 1 ∧ t.stop.n = 0 ∧
       t.stop.waiting = (s.liveSites.filter fun x => (s.senOf x).halted.isNone) ∧ t.stop.seqs = s.stop.seqs ++ [seq]) ∧
  (∀ (site : Nat) (s : State), Sys2Proof.Inv s = true → s.mgrA.running = true → s.stop.state = 0 →
     s.stop.releasing = false → s.blocked 2 3 0 = false → (s.liveSites.filter fun x => (s.senOf x).halted.isNone) ≠ [] →
     s.arrives (.stopRequest site) = true →
     ∃ t, exec (.stopRequest site) s = .next t ∧ t.stop.state = 1 ∧ t.stop.kind = 1 ∧ t.stop.seqs = s.stop.seqs ∧
       t.stop.waiting = (s.liveSites.filter fun x => (s.senOf x).halted.isNone) ∧ t.sent = s.sent.erase (.stopRequest site)) ∧
  (∀ (site : Nat) (n : Dword) (s : State), Sys2Proof.Inv s = true → s.stopping 0 = true → s.stop.waiting.contains site = true →
     s.arrives (.stopSlot site n) = true →
     (s.slotAt site ≤ n.toNat → ∃ t, exec (.stopSlot site n) s = .next t ∧ (t.senOf site).stopAt = some n.toNat ∧
       (t.senOf site).halted = (s.senOf site).halted ∧ t.stop = s.stop) ∧
     (n.toNat < s.slotAt site → s.stop.waiting.filter (· != site) ≠ [] → ∃ t, exec (.stopSlot site n) s = .next t ∧
       (t.senOf site).halted = some (s.slotAt site) ∧ (t.senOf site).stopped = true ∧ t.stop.late = satAdd 65535 s.stop.late 1 ∧
       t.stop.waiting = s.stop.waiting.filter (· != site) ∧ t.stop.state = 1)) ∧
  (∀ (site n : Nat) (s : State), Sys2Proof.Inv s = true → s.stopping 0 = true → s.stop.waiting.contains site = true → (s.senOf site).stopAt = some n →
     (s.stop.waiting.filter (· != site) ≠ [] → ∃ t, exec (.stopSlotReached site) s = .next t ∧ (t.senOf site).halted = some n ∧
       (t.senOf site).stopped = true ∧ (t.senOf site).stopSlot = n ∧ t.stop.waiting = s.stop.waiting.filter (· != site) ∧
       t.stop.slots = s.stop.slots ++ [n] ∧ t.stop.state = 1) ∧
     (s.stop.waiting.filter (· != site) = [] → s.stop.slots = [] → ∃ t, exec (.stopSlotReached site) s = .next t ∧
       t.stop.state = 2 ∧ t.stop.sMin = n ∧ t.stop.sMax = n ∧ t.stop.exact = decide (s.stop.late = 0) ∧ t.slot = n)) ∧
  (∀ (site : Nat) (slot : Dword) (s : State), Sys2Proof.Inv s = true → s.stopping 1 = true → s.stop.waiting.contains site = true →
     s.stop.waiting.filter (· != site) ≠ [] →
     ∃ t, exec (.stopCodeDecoded site slot) s = .next t ∧ (t.senOf site).halted = some slot.toNat ∧ (t.senOf site).stopped = true ∧
       t.stop.waiting = s.stop.waiting.filter (· != site) ∧ t.stop.slots = s.stop.slots ++ [slot.toNat] ∧ t.stop.late = s.stop.late)

/-- R461 to R466: a stop is released, tiles restart, and a stopped unit is scanned out. -/
def Obligations.StopReleaseAndScanOut : Prop :=
  (∀ (seq : Nat) (c : Cmd) (s : State), Sys2Proof.Inv s = true → Runs s seq 0x0502 c → s.mgrA.running = true → s.stop.state = 2 →
     s.stop.releasing = false → (s.liveSites.filter fun x => (s.senOf x).halted.isSome) ≠ [] →
     ∃ t, exec (.stopRelease seq) s = .next t ∧ t.stop.releasing = true ∧ t.stop.state = 2 ∧
       t.stop.restarting = (s.liveSites.filter fun x => (s.senOf x).halted.isSome)) ∧
  (∀ (site : Nat) (sMin : Dword) (s : State), Sys2Proof.Inv s = true → s.arrives (.stopReleaseMessage site sMin) = true →
     ∃ t, exec (.stopReleaseMessage site sMin) s = .next t ∧
       (t.senOf site).releaseDelay = ((s.senOf site).halted.getD sMin.toNat) - sMin.toNat ∧
       (t.senOf site).halted = (s.senOf site).halted ∧ t.stop = s.stop) ∧
  (∀ (site : Nat) (s : State), Sys2Proof.Inv s = true → s.stop.releasing = true → s.stop.restarting.contains site = true →
     (s.stop.restarting.filter (· != site) ≠ [] → ∃ t, exec (.tileRestart site) s = .next t ∧ (t.senOf site).halted = none ∧
       (t.senOf site).stopped = false ∧ (t.senOf site).releaseDelay = 0 ∧
       t.stop = { s.stop with restarting := s.stop.restarting.filter (· != site) }) ∧
     (s.stop.restarting.filter (· != site) = [] → ∃ t, exec (.tileRestart site) s = .next t ∧
       t.stop.state = 0 ∧ t.stop.releasing = false ∧ t.slot = (if s.stop.state = 2 then s.stop.sMax else s.slot))) ∧
  (∀ (seq time : Nat) (absent : List Nat) (expired : Bool) (c : Cmd) (s : State), Sys2Proof.Inv s = true → Runs s seq 0x0503 c → c.arg 0 1 ≤ 1 → c.arg 1 7 = 0 →
     c.arg 8 8 % 4096 = 0 → c.arg 8 8 + 840 * scanStride (bitOf 0 (c.arg 0 1)) ≤ tier2Space → s.image.grade ≠ 2 → s.stop.state = 2 →
     s.stop.releasing = false → (s.someFill = false ∨ expired = true) →
     ∃ t missing, exec (.scanOut seq absent time expired) s = .next t ∧ t.stop.state = 3 ∧ t.stop.sMin = s.stop.sMin ∧ t.scanId = s.scanId + 1 ∧
       Answered c.channel seq (if missing = 0 then 0 else 8) (le 8 (s.scanId + 1) ++ le 2 missing ++ le 2 0 ++ le 4 time) t)

/-- R79, R334, R445, R448, R453 to R456, R466, R471, R505, Tables 18.4, 18.5, 18.12, 18.19 and 20.15: trace and counter settings,
drains, watches and hang snapshots by command. -/
def Obligations.ObservationCommands : Prop :=
  (∀ (seq p : Nat) (c : Cmd) (s : State), Sys2Proof.Inv s = true → Runs s seq 0x0504 c → c.arg 0 1 = p → p < 16 → s.blocked 6 2 p = false →
     traceArgOk (c.arg 4 4) (c.arg 8 4) (c.arg 12 4) = true → s.defined p = true →
     ∃ t, exec (.traceConfigure seq) s = .next t ∧
       (s.hasJob p = true → (t.partOf p).boundarySeqs = (s.partOf p).boundarySeqs ++ [seq]) ∧
       (s.hasJob p = false → Answered c.channel seq 0 (le 8 0) t) ∧
       (∀ x ∈ s.partAllSites p, (s.senOf x).obs = [] → (t.senOf x).obsBack 0x200 = c.arg 4 4 ∧ (t.senOf x).obsBack 0x204 = c.arg 8 4 ∧
         (t.senOf x).obsBack 0x210 = c.arg 12 4) ∧
       (∀ x, x ∉ s.partAllSites p → t.senOf x = s.senOf x)) ∧
  (∀ (seq p : Nat) (c : Cmd) (s : State), Sys2Proof.Inv s = true → Runs s seq 0x0800 c → c.arg 0 1 = p → p < 16 →
     (∀ k < 16, c.arg (4 + k) 1 ≤ 15) → s.defined p = true →
     ∃ t, exec (.counterConfigure seq) s = .next t ∧
       (s.hasJob p = true → (t.partOf p).boundarySeqs = (s.partOf p).boundarySeqs ++ [seq]) ∧
       (s.hasJob p = false → Answered c.channel seq 0 (le 8 0) t) ∧
       (∀ x ∈ s.partAllSites p, (s.senOf x).obs = [] → (t.senOf x).obsBack 0x260 = c.arg 4 4 ∧ (t.senOf x).obsBack 0x26C = c.arg 16 4) ∧
       (∀ x, x ∉ s.partAllSites p → t.senOf x = s.senOf x)) ∧
  (∀ (seq time p : Nat) (c : Cmd) (s : State), Sys2Proof.Inv s = true → Runs s seq 0x0505 c → c.arg 0 1 = p → p < 16 → s.blocked 6 2 p = false →
     c.arg 8 8 % 4096 = 0 → c.arg 8 8 + 840 * 65600 ≤ tier2Space → s.image.grade ≠ 2 → s.defined p = true →
     ∃ t, exec (.traceDrain seq time) s = .next t ∧ t.drainId = (s.drainId + 1) % 2 ^ 32 ∧
       Answered c.channel seq 0 (le 4 t.drainId ++ le 2 (s.partSites p).length ++ le 2 0) t ∧
       (bitOf 0 (c.arg 1 1) = true → ∀ x ∈ s.partSites p, (t.senOf x).traceNext = 0 ∧ (t.senOf x).traceFired = false) ∧
       (bitOf 0 (c.arg 1 1) = false → ∀ x, t.senOf x = s.senOf x)) ∧
  (∀ (seq p n : Nat) (c : Cmd) (s : State), Sys2Proof.Inv s = true → Runs s seq 0x0506 c → c.arg 0 1 = p → p < 16 → s.blocked 5 2 p = false →
     24576 ≤ c.arg 4 4 → c.arg 4 4 % 4096 = 0 → c.arg 16 8 % 4096 = 0 → bitOf 31 (c.arg 8 8) = true → bitsOf 26 5 (c.arg 8 8) = 0 →
     c.arg 16 8 + c.arg 4 4 ≤ tier2Space → (s.jobOf p).dumpOverlaps (c.arg 16 8) (c.arg 4 4) = false → s.image.grade ≠ 2 →
     s.defined p = true → s.stepBegun p (c.arg 8 8 / 2 ^ 32) = false → s.freeWatch p = some n →
     ∃ t, exec (.watchArm seq) s = .next t ∧ t.armId = (s.armId + 1) % 2 ^ 32 ∧
       (t.partOf p).watches = Sparse.set {} (s.partOf p).watches n { armed := true, entry := BitVec.ofNat 64 (c.arg 8 8), base := c.arg 16 8, size := c.arg 4 4, armId := t.armId } ∧
       Answered c.channel seq 0 (le 1 n ++ le 3 0 ++ le 4 (sliceEntries (c.arg 4 4)) ++ le 4 t.armId) t) ∧
  (∀ (seq p n : Nat) (c : Cmd) (s : State), Sys2Proof.Inv s = true → Runs s seq 0x0507 c → c.arg 0 1 = p → c.arg 1 1 = n → p < 16 → n < 8 →
     s.blocked 5 2 p = false → (s.watchOf p n).armed = true →
     ∃ t, exec (.watchDisarm seq) s = .next t ∧
       (t.partOf p).watches = Sparse.set {} (s.partOf p).watches n { s.watchOf p n with armed := false } ∧
       Answered c.channel seq 0 (le 4 (min (s.watchDropped p n) (2 ^ 32 - 1))) t) ∧
  (∀ (seq p : Nat) (c : Cmd) (s : State), Sys2Proof.Inv s = true → seq ≠ 0 → Runs s seq 0x0508 c → c.arg 0 1 = p → p < 16 → s.defined p = true →
     (∀ x, (s.partOf p).snapshot = some x → x.done = true → bitOf 0 (c.arg 1 1) = false → ∃ t, exec (.hangSnapshot seq) s = .next t ∧
       Answered c.channel seq (snapshotAnswer p (c.arg 4 4) x).1 (snapshotAnswer p (c.arg 4 4) x).2 t ∧ t.part = s.part) ∧
     (bitOf 0 (c.arg 1 1) = true → (∀ x, (s.partOf p).snapshot = some x → x.done = true) → s.partSites p ≠ [] →
       ∃ t y, exec (.hangSnapshot seq) s = .next t ∧ (t.partOf p).snapshot = some y ∧ y.cause = 0 ∧ y.seqs = [seq] ∧
         y.waiting = s.partSites p ∧ y.time = s.ras))

/-- R172, R173, R466, R505: a plausibility set is loaded, confirmed by the hubs, switched or discarded. -/
def Obligations.PlausibilityCommands : Prop :=
  (∀ (seq p : Nat) (c : Cmd) (s : State), Sys2Proof.Inv s = true → Runs s seq 0x0900 c → c.arg 0 1 = p → p < 16 → setOk c.bulk = true →
     s.defined p = true → (s.partOf p).load = none → s.partHubs p ≠ [] →
     ∃ t, exec (.plausibilityLoad seq) s = .next t ∧ (t.partOf p).load = some { set := c.bulk, waiting := s.partHubs p, seq := seq } ∧
       t.sent = s.sent ++ (s.partHubs p).map (fun h => .plausibilitySetConfirmed h p) ∧
       (∀ z ∈ s.partSectors p, (t.hubOf z).setPending = c.bulk ∧ (t.hubOf z).set = (s.hubOf z).set)) ∧
  (∀ (hub p : Nat) (l : PlausLoad) (s : State), Sys2Proof.Inv s = true → (s.partOf p).load = some l → l.waiting.contains hub = true →
     (l.waiting.filter (· != hub) ≠ [] → ∃ t, exec (.plausibilitySetConfirmed hub p) s = .next t ∧
       (t.partOf p).load = some { l with waiting := l.waiting.filter (· != hub) } ∧ (t.partOf p).setSwitch = (s.partOf p).setSwitch ∧
       (∀ x, (t.senOf x).progActive = (s.senOf x).progActive)) ∧
     (l.waiting.filter (· != hub) = [] → s.hasJob p = true → s.starts p = false → (s.partOf p).state = 2 → ∃ t, exec (.plausibilitySetConfirmed hub p) s = .next t ∧
       (t.partOf p).setSwitch = true ∧ (t.partOf p).load = some { l with waiting := [] } ∧
       (∀ x, (t.senOf x).progActive = (s.senOf x).progActive)) ∧
     (l.waiting.filter (· != hub) = [] → s.hasJob p = false → s.starts p = false → l.after = none → ∃ t, exec (.plausibilitySetConfirmed hub p) s = .next t ∧
       (t.partOf p).load = none ∧ (∀ z ∈ s.partSectors p, s.sectorPart z = p → (s.server z).isSome = true → (t.hubOf z).set = (s.hubOf z).setPending))) ∧
  (∀ (hub p seq : Nat) (rsp : List Byte) (l : PlausLoad) (c : Cmd) (s : State), Sys2Proof.Inv s = true → (s.partOf p).load = some l →
     l.waiting.contains hub = true → l.waiting.filter (· != hub) = [] → (s.partOf p).state = 2 → (s.partOf p).starting = some (seq, rsp) →
     l.seq = 0 → l.after = none → Runs s seq 0x0300 c →
     ∃ t, exec (.plausibilitySetConfirmed hub p) s = .next t ∧ (t.partOf p).opened = true ∧ (t.partOf p).starting = none ∧
       (t.partOf p).load = none ∧ (t.partOf p).step = (s.partOf p).step ∧ Answered c.channel seq 0 rsp t ∧
       (∀ z ∈ s.partSectors p, s.sectorPart z = p → (s.server z).isSome = true → (t.hubOf z).set = (s.hubOf z).setPending)) ∧
  (∀ (p : Nat) (l : PlausLoad) (c : Cmd) (s : State), Sys2Proof.Inv s = true → (s.partOf p).load = some l → l.waiting ≠ [] → s.starts p = false →
     ∃ t, exec (.plausibilityLoadTimeout p) s = .next t ∧ (t.partOf p).load = none ∧ (t.partOf p).setSwitch = false ∧
       (∀ z ∈ s.partSectors p, (t.hubOf z).setPending = [] ∧ (t.hubOf z).set = (s.hubOf z).set) ∧
       (l.seq ≠ 0 → Runs s l.seq 0x0900 c → Answered c.channel l.seq 6 [] t))

/-- R367, R371, R372, Table 20.15: the throttle limit and the sensor table by command. -/
def Obligations.ThermalCommands : Prop :=
  (∀ (seq : Nat) (c : Cmd) (s : State), Sys2Proof.Inv s = true → Runs s seq 0x0600 c → 1360 ≤ toSigned 16 (c.arg 0 2) → toSigned 16 (c.arg 0 2) ≤ 1680 →
     ∃ t, exec (.thermalPolicy seq) s = .next t ∧ t.throttle = { s.throttle with limit := toSigned 16 (c.arg 0 2), limitBits := f64.ofDyadic (toSigned 16 (c.arg 0 2)) (-4), limitSet := true } ∧
       Answered c.channel seq 0 (leInt 2 s.throttle.limit ++ le 2 0) t) ∧
  (∀ (seq n : Nat) (c : Cmd) (s : State), Sys2Proof.Inv s = true → Runs s seq 0x0601 c → c.arg 0 1 = n → n < 80 → s.present n = true → c.arg 1 1 < 2 →
     ∃ t, exec (.sensorRetire seq) s = .next t ∧ (t.sensorOf n).state = (if c.arg 1 1 = 1 then 2 else 0) ∧
       (t.sensorOf n).since = s.secs ∧ (t.sensorOf n).reading = none ∧
       (t.hubOf n).thermal.b = (if c.arg 1 1 = 1 then f64.zero false else (s.hubOf n).thermal.b) ∧
       (∀ k, k ≠ n → t.sensorOf k = s.sensorOf k) ∧
       Answered c.channel seq 0 (le 1 (t.sensorOf n).state ++ le 3 0) t)

/-- R124, R126, R142, R175, R216, R268, Tables 11.3 and 11.10: the step boundary opens a hub's collection, and verdict items enter it. -/
def Obligations.StepItemsAtTheHub : Prop :=
  (∀ (hub partition step : Nat) (sk : Dword) (flags : Nat) (s : State), Sys2Proof.Inv s = true → s.arrives (.stepBoundary hub partition step sk flags) = true →
     ∃ t, exec (.stepBoundary hub partition step sk flags) s = .next t ∧ (t.hubOf hub).collect.step = step ∧
       (t.hubOf hub).collect.skCur = sk ∧ (t.hubOf hub).collect.failed = (s.hubOf hub).collect.carry ∧
       (t.hubOf hub).collect.items = [] ∧ (t.hubOf hub).collect.done = [] ∧ (t.hubOf hub).collect.sent = false ∧
       (∀ z, (t.hubOf z).set = (if bitOf 0 flags = true ∧ z ∈ s.setSectors partition hub then (s.hubOf z).setPending else (s.hubOf z).set)) ∧
       (∀ x ∈ s.hubPartSites hub partition, (t.senOf x).outputs = 0 ∧ (t.senOf x).stepLast = false ∧ (t.senOf x).ledger = [])) ∧
  (∀ (site : Nat) (item : VerdictItem) (detail : DetailItem) (s : State), Sys2Proof.Inv s = true → s.judges (s.sitePart site) = true → s.arrives (.residueVerdict site item detail) = true →
     ∃ t, exec (.residueVerdict site item detail) s = .next t ∧
       (t.hubOf (s.siteHub site)).collect.items = bump (s.hubOf (s.siteHub site)).collect.items site 1 ∧
       (t.hubOf (s.siteHub site)).collect.failed = (if verdictFails item.verdict && !(s.hubOf (s.siteHub site)).collect.sent
         then (s.hubOf (s.siteHub site)).collect.failed ||| (s.jobOf (s.sitePart site)).mask item.lineage
         else (s.hubOf (s.siteHub site)).collect.failed) ∧
       (t.hubOf (s.siteHub site)).collect.carry = (if verdictFails item.verdict && (s.hubOf (s.siteHub site)).collect.sent
         then (s.hubOf (s.siteHub site)).collect.carry ||| (s.jobOf (s.sitePart site)).mask item.lineage
         else (s.hubOf (s.siteHub site)).collect.carry)) ∧
  (∀ (site : Nat) (item : PlausItem) (s : State), Sys2Proof.Inv s = true → s.judges (s.sitePart site) = true → s.arrives (.plausVerdict site item) = true →
     ∃ t, exec (.plausVerdict site item) s = .next t ∧
       (t.hubOf (s.siteHub site)).collect.failed = (if (s.hubOf (s.siteHub site)).collect.sent then (s.hubOf (s.siteHub site)).collect.failed
         else (s.hubOf (s.siteHub site)).collect.failed ||| (s.jobOf (s.sitePart site)).mask item.lineage) ∧
       (t.hubOf (s.siteHub site)).collect.carry = (if (s.hubOf (s.siteHub site)).collect.sent
         then (s.hubOf (s.siteHub site)).collect.carry ||| (s.jobOf (s.sitePart site)).mask item.lineage
         else (s.hubOf (s.siteHub site)).collect.carry) ∧ t.part = s.part) ∧
  (∀ (site : Nat) (item : RedundancyItem) (s : State), Sys2Proof.Inv s = true → s.judges (s.sitePart site) = true → s.arrives (.redundancy site item) = true →
     ∃ t, exec (.redundancy site item) s = .next t ∧
       (t.hubOf (s.siteHub site)).collect.failed = (if (s.hubOf (s.siteHub site)).collect.sent then (s.hubOf (s.siteHub site)).collect.failed
         else (s.hubOf (s.siteHub site)).collect.failed ||| (s.jobOf (s.sitePart site)).mask item.lineage) ∧
       (t.hubOf (s.siteHub site)).collect.carry = (if (s.hubOf (s.siteHub site)).collect.sent
         then (s.hubOf (s.siteHub site)).collect.carry ||| (s.jobOf (s.sitePart site)).mask item.lineage
         else (s.hubOf (s.siteHub site)).collect.carry))

/-- R153, R268, R274, Tables 11.3 and 11.10: ledger entries and step-done items at a hub; a silent sentinel fails the step. -/
def Obligations.StepDoneAtTheHub : Prop :=
  (∀ (site : Nat) (entry : LedgerEntry) (s : State), Sys2Proof.Inv s = true → s.judges (s.sitePart site) = true → s.arrives (.ledger site entry) = true →
     ∃ t, exec (.ledger site entry) s = .next t ∧
       (t.hubOf (s.siteHub site)).collect.ledger = mergeLedger (s.hubOf (s.siteHub site)).collect.ledger entry ∧
       (t.hubOf (s.siteHub site)).collect.failed = (s.hubOf (s.siteHub site)).collect.failed) ∧
  (∀ (site : Nat) (item : StepDoneItem) (s : State), Sys2Proof.Inv s = true → s.judges (s.sitePart site) = true →
     site ∉ (s.hubOf (s.siteHub site)).collect.done → (s.hubOf (s.siteHub site)).collect.sent = false → s.arrives (.stepDone site item) = true →
     ∃ t, exec (.stepDone site item) s = .next t ∧
       (t.hubOf (s.siteHub site)).collect.done = (s.hubOf (s.siteHub site)).collect.done ++ [site] ∧
       (item.overrun = false → Sparse.get 0 (s.hubOf (s.siteHub site)).collect.items site = item.outputs →
         (t.hubOf (s.siteHub site)).collect.failed = (s.hubOf (s.siteHub site)).collect.failed |||
           (if (s.jobOf (s.sitePart site)).all < item.failed.toNat then (s.jobOf (s.sitePart site)).all else item.failed.toNat)) ∧
       (item.overrun = true → item.shared = true → (t.hubOf (s.siteHub site)).collect.failed =
         (s.hubOf (s.siteHub site)).collect.failed ||| ((s.jobOf (s.sitePart site)).all |||
           (if (s.jobOf (s.sitePart site)).all < item.failed.toNat then (s.jobOf (s.sitePart site)).all else item.failed.toNat))) ∧
       (t.hubOf (s.siteHub site)).collect.sent = ((s.hubPartSites (s.siteHub site) (s.sitePart site)).all fun x =>
         ((s.hubOf (s.siteHub site)).collect.done ++ [site]).contains x)) ∧
  (∀ (hub partition : Nat) (s : State), Sys2Proof.Inv s = true → s.judges partition = true → (s.hubOf hub).collect.sent = false →
     ∃ t missing, exec (.stepDoneWaitExpiry hub partition) s = .next t ∧ missing = ((s.hubPartSites hub partition).filter fun x =>
         !(s.hubOf hub).collect.done.contains x && !(s.hubOf hub).collect.reading.contains x) ∧
       (t.hubOf hub).collect.reading = (s.hubOf hub).collect.reading ++ missing ∧
       t.sent = s.sent ++ missing.zipIdx.map (fun x => .read x.1 0x18 1 (((s.hubOf hub).tag + x.2) % 256)) ∧
       (t.hubOf hub).tag = ((s.hubOf hub).tag + missing.length) % 256) ∧
  (∀ (site : Nat) (s : State), Sys2Proof.Inv s = true → (s.hubOf (s.siteHub site)).collect.reading.contains site = true →
     ∃ t, exec (.sentinelReadTimeout site) s = .next t ∧ (t.senOf site).silent = true ∧
       ((∀ q, (s.partOf q).boundary = false) → site ∈ (t.hubOf (s.siteHub site)).collect.done ∧
         site ∉ (t.hubOf (s.siteHub site)).collect.reading ∧ (t.hubOf (s.siteHub site)).collect.loss = true))

/-- R99, R253, R270, R271, R275, R279, Tables 11.4, 11.5 and 11.10: contributions arrive at the root hub, the last one forms the step's
token, and the token opens the next step. -/
def Obligations.ContributionsAndToken : Prop :=
  (∀ (unit partition lineage test step seq : Nat) (info : SealInfo) (s : State), Sys2Proof.Inv s = true → s.judges partition = true →
     unit < 0x4000 → (s.hubOf (s.siteHub unit)).collect.sent = false → s.arrives (.sealVerdict unit partition lineage test step seq info) = true →
     ∃ t, exec (.sealVerdict unit partition lineage test step seq info) s = .next t ∧
       (t.hubOf (s.siteHub unit)).collect.failed = (s.hubOf (s.siteHub unit)).collect.failed ||| (s.jobOf (s.sitePart unit)).mask lineage ∧
       t.part = s.part) ∧
  (∀ (unit partition lineage test step seq : Nat) (info : SealInfo) (s : State), Sys2Proof.Inv s = true → s.judges partition = true →
     0x4000 ≤ unit → s.defined partition = true → (s.partOf partition).decided step = false → s.arrives (.sealVerdict unit partition lineage test step seq info) = true →
     ∃ t, exec (.sealVerdict unit partition lineage test step seq info) s = .next t ∧
       (t.partOf partition).rootFailed = (s.partOf partition).rootFailed ||| (s.jobOf partition).mask lineage ∧
       (t.partOf partition).token = (s.partOf partition).token) ∧
  (∀ (hub partition : Nat) (failed : Word) (groups : List LedgerEntry) (s : State), Sys2Proof.Inv s = true → s.judges partition = true →
     (s.partOf partition).opened = true → (s.partOf partition).contrib.contains hub = false →
     ((s.contributors partition).all fun h => ((s.partOf partition).contrib ++ [hub]).contains h) = false → s.arrives (.contribution hub partition (s.partOf partition).step failed groups) = true →
     ∃ t, exec (.contribution hub partition (s.partOf partition).step failed groups) s = .next t ∧
       (t.partOf partition).contrib = (s.partOf partition).contrib ++ [hub] ∧
       (t.partOf partition).rootFailed = (s.partOf partition).rootFailed ||| failed.toNat ∧
       (t.partOf partition).rootLedger = groups.foldl mergeLedger (s.partOf partition).rootLedger ∧
       (t.partOf partition).token = (s.partOf partition).token) ∧
  (∀ (hub partition : Nat) (failed : Word) (groups : List LedgerEntry) (s : State), Sys2Proof.Inv s = true → s.judges partition = true →
     (s.partOf partition).opened = true → (s.partOf partition).contrib.contains hub = false → (s.partOf partition).token = none →
     ((s.contributors partition).all fun h => ((s.partOf partition).contrib ++ [hub]).contains h) = true →
     (s.partOf partition).failNext = false → (groups.foldl mergeLedger (s.partOf partition).rootLedger).filter ledgerBad = [] → s.arrives (.contribution hub partition (s.partOf partition).step failed groups) = true →
     ∃ t k kept, exec (.contribution hub partition (s.partOf partition).step failed groups) s = .next t ∧
       kept = (s.jobOf partition).all - (((s.partOf partition).rootFailed ||| failed.toNat) &&& (s.jobOf partition).all) ∧
       (t.partOf partition).token = some k ∧ k.step = (s.partOf partition).step ∧ k.status = statusKept (s.jobOf partition) kept ∧
       k.kept = (if statusKept (s.jobOf partition) kept = 2 then 0 else kept) ∧ (t.partOf partition).opened = false ∧
       (t.partOf partition).contrib = [] ∧ .stepToken partition ∈ t.sent) ∧
  (∀ (partition : Nat) (k : Token) (s : State), Sys2Proof.Inv s = true → (s.partOf partition).token = some k → k.arrived = false →
     (s.partOf partition).treeHas = false → (s.partOf partition).state = 2 → (s.partOf partition).swaps = [] →
     (s.partOf partition).replays = [] → (s.partOf partition).held = false → (∀ y ∈ s.partSites partition, (s.siteRec y).suspect = false) →
     s.arrives (.stepToken partition) = true →
     ∃ t, exec (.stepToken partition) s = .next t ∧ (t.partOf partition).treeHas = true ∧
       (t.partOf partition).token = some { k with arrived := true } ∧
       (t.partOf partition).treeKept = k.kept &&& (2 ^ 32 - 1 - Sparse.get 0 (s.partOf partition).treeEarly k.step) ∧
       (t.partOf partition).step = (s.partOf partition).step + 1 ∧ (t.partOf partition).opened = true ∧
       (t.partOf partition).boundary = false ∧ (∀ y ∈ s.partSites partition, (t.senOf y).verdict = 0) ∧
       (∀ h ∈ s.partHubs partition, .stepBoundary h partition ((s.partOf partition).step + 1)
         (stepKey (s.jobOf partition).seed ((s.partOf partition).step + 1)) (flag (s.partOf partition).setSwitch) ∈ t.sent))

/-- R277, R278, R281, R309, Tables 11.4 and 11.7: failing contributors leave the reduction, and its final outcome becomes the step's record. -/
def Obligations.ReductionTreeAndPeers : Prop :=
  (∀ (b : Transfer) (s : State), Sys2Proof.Inv s = true →
     (sealTest b.block b.desc = 0 → b.block.tag.poison = false →
       exec (.reductionInputBlock b) s = .next (modPart b.partition (fun x => { x with
         treeIn := x.treeIn ++ [{ step := b.step, lineage := b.lineage, tag := b.block.tag }] }) s)) ∧
     (s.judges b.partition = true → (sealTest b.block b.desc ≠ 0 ∨ b.block.tag.poison = true) → (s.partOf b.partition).treeHas = false →
       ∃ t, exec (.reductionInputBlock b) s = .next t ∧
         Sparse.get 0 (t.partOf b.partition).treeEarly b.step =
           (Sparse.get 0 (s.partOf b.partition).treeEarly b.step ||| (s.jobOf b.partition).mask b.lineage % 2 ^ 32) ∧
         (t.partOf b.partition).restarts = (s.partOf b.partition).restarts) ∧
     (∀ k, s.judges b.partition = true → (sealTest b.block b.desc ≠ 0 ∨ b.block.tag.poison = true) → (s.partOf b.partition).treeHas = true →
       (s.partOf b.partition).token = some k → k.step = b.step → (s.partOf b.partition).finalKept = none →
       (s.partOf b.partition).treeKept &&& (s.jobOf b.partition).mask b.lineage ≠ 0 →
       ∃ t, exec (.reductionInputBlock b) s = .next t ∧ (t.partOf b.partition).restarts = (s.partOf b.partition).restarts + 1 ∧
         (t.partOf b.partition).treeKept =
           (s.partOf b.partition).treeKept &&& (2 ^ 32 - 1 - (s.jobOf b.partition).mask b.lineage % 2 ^ 32))) ∧
  (∀ (p : Nat) (s : State), Sys2Proof.Inv s = true → s.judges p = true → (s.partOf p).treeHas = true → (s.partOf p).finalKept = none →
     ∃ t, exec (.reductionCompareMismatch p) s = .next t ∧ (t.partOf p).mismatches = (s.partOf p).mismatches + 1 ∧
       (t.partOf p).restarts = (if (s.partOf p).mismatches = 0 then (s.partOf p).restarts + 1 else (s.partOf p).restarts) ∧
       (∀ q, q ≠ p → t.partOf q = s.partOf q)) ∧
  (∀ (p : Nat) (k : Token) (kept : Word) (restarted failed : Bool) (blocks : List (Nat × Nat)) (s : State), Sys2Proof.Inv s = true →
     (s.partOf p).token = some k → (s.partOf p).treeHas = true → (s.partOf p).finalKept = none → (s.partOf p).state ≠ 6 → s.arrives (.finalKept p k.step kept restarted failed blocks) = true →
     ∃ t status mask, exec (.finalKept p k.step kept restarted failed blocks) s = .next t ∧
       status = (if k.status = 2 ∨ failed = true ∨ 2 ≤ (s.partOf p).mismatches ∨ (s.partOf p).exitFailed = true then 2
         else statusKept (s.jobOf p) (kept.toNat &&& (s.partOf p).treeKept)) ∧
       mask = (if status = 2 then 0 else kept.toNat &&& (s.partOf p).treeKept) ∧
       (t.partOf p).finalKept = some (status, mask, bits32 mask) ∧
       (∃ r ∈ (t.partOf p).records, r.step = k.step ∧ r.status = status ∧ r.kept = mask) ∧
       ((s.partOf p).peers = [] → (s.partOf p).fence = none → (s.partOf p).copying = [] → (s.partOf p).tier2Busy = none → s.stop.state < 2 →
         (t.partOf p).committing = true))

/-- R283 to R286, Tables 11.9 and 11.11: peers are judged by their trailers, and the peer release starts the commit. -/
def Obligations.PeersAndTrailers : Prop :=
  (∀ (p : Nat) (k : Nat × Nat × Nat) (s : State), Sys2Proof.Inv s = true → (s.partOf p).release.isSome = true → (s.partOf p).finalKept = some k →
     (s.partOf p).fence = none → (s.partOf p).copying = [] → (s.partOf p).tier2Busy = none → s.stop.state < 2 → s.arrives (.peerRelease p) = true →
     ∃ t, exec (.peerRelease p) s = .next t ∧ (t.partOf p).releaseHas = true ∧ (t.partOf p).committing = true ∧
       ((s.partOf p).committing = false →
         (t.partOf p).divisor = k.2.2 + (((s.partOf p).peers.filter fun e => e.verdict = 1).map (·.kept)).sum)) ∧
  (∀ (p port : Nat) (block : Block) (r : Trailer) (s : State), Sys2Proof.Inv s = true → r = trailerOf port block →
     ((s.partOf p).treeHas = false → s.hasJob p = true → (trailerSound r = false ∨ (s.partOf p).nextToken ≤ r.step) →
       ∃ t, exec (.trailerReceived p port block) s = .next t ∧ (t.partOf p).early = (s.partOf p).early ++ [r]) ∧
     ((s.partOf p).treeHas = false → trailerSound r = true → r.step < (s.partOf p).nextToken →
       ∃ t, exec (.trailerReceived p port block) s = .next t ∧ (t.partOf p).early = (s.partOf p).early ∧
         (t.partOf p).trailersDropped = (s.partOf p).trailersDropped + 1) ∧
     (∀ k e, (s.partOf p).treeHas = true → (s.partOf p).token = some k → trailerFor r k.step = true → (s.partOf p).peers = [e] →
       bitOf port e.ports = true → e.verdict = 0 → e.gone = false →
       ∃ t, exec (.trailerReceived p port block) s = .next t ∧
         (trailerReason (s.jobOf p) e k.step ((s.partOf p).seenOn k.step port) r ≠ 0 →
           (t.partOf p).peers = [{ e with verdict := 2 }]) ∧
         (trailerReason (s.jobOf p) e k.step ((s.partOf p).seenOn k.step port) r = 0 → e.got ||| 2 ^ port = e.ports →
           (t.partOf p).peers = [{ e with got := e.got ||| 2 ^ port, kept := r.keptCount, verdict := 1 }] ∧
           (t.partOf p).release.isSome = true))) ∧
  (∀ (p entry : Nat) (k : Token) (s : State), Sys2Proof.Inv s = true → (s.partOf p).token = some k → (s.partOf p).treeHas = true →
     entry < (s.partOf p).peers.length → ((s.partOf p).peers.getD entry {}).verdict = 0 → ((s.partOf p).peers.getD entry {}).gone = false →
     ∃ t, exec (.peerTimeout p entry) s = .next t ∧
       (t.partOf p).peers = (s.partOf p).peers.set entry { (s.partOf p).peers.getD entry {} with verdict := 3 } ∧
       (t.partOf p).token = some k)

/-- R290 to R297, R479, Tables 12.3 and 12.4: the end of a commit, partner copies and tier-2 copies. -/
def Obligations.CommitAndCopies : Prop :=
  (∀ (p : Nat) (k : Token) (written : List (Nat × List Nat)) (reduced : List (Desc × List Byte)) (s : State), Sys2Proof.Inv s = true → (s.partOf p).token = some k →
     (s.partOf p).committing = true → (s.partOf p).fence = none → (s.jobOf p).residentSize = 0 → (s.partOf p).boundary = false →
     (s.partOf p).later = [] →
     ∃ t, exec (.commitDone p written reduced) s = .next t ∧ (t.partOf p).token = none ∧ (t.partOf p).committing = false ∧
       (t.partOf p).treeHas = false ∧ (t.partOf p).finalKept = none ∧ (t.partOf p).step = (s.partOf p).step ∧
       ((s.jobOf p).digestSize = 0 →
         (t.partOf p).digests = ringLast 256 ((s.partOf p).digests ++ [{ step := k.step, status := 2 }])) ∧
       ((s.jobOf p).digestSize ≠ 0 → (s.partOf p).digestBusy = none →
         (t.partOf p).digestBusy = some { step := k.step, program := (s.jobOf p).programDigest, waiting := s.partHubs p })) ∧
  (∀ (owner index o h : Nat) (block : Block) (markedFailed : Bool) (s : State), Sys2Proof.Inv s = true → s.siteOf owner = some o →
     s.siteOf (s.holderOf (s.tilePart owner) owner) = some h → (s.partOf (s.tilePart owner)).copying.contains owner = true →
     ∃ t, exec (.mirrorBlockReceived owner index block markedFailed) s = .next t ∧
       (t.senOf o).marks = (s.senOf o).marks.filter (· != index) ∧
       (t.senOf h).mirrorState = (if markedFailed = true ∨ sealTest2 block ≠ 0 then 0 else (s.senOf h).mirrorState) ∧
       (markedFailed = false → sealTest2 block = 0 → Sparse.get {} (t.senOf h).mirrorBlocks index = block)) ∧
  (∀ (owner o h : Nat) (s : State), Sys2Proof.Inv s = true → s.siteOf owner = some o → s.siteOf (s.holderOf (s.tilePart owner) owner) = some h →
     (s.partOf (s.tilePart owner)).copying.contains owner = true → (s.partOf (s.tilePart owner)).finalKept = none →
     (s.partOf (s.tilePart owner)).boundary = false →
     ∃ t, exec (.partnerCopyComplete owner) s = .next t ∧ owner ∉ (t.partOf (s.tilePart owner)).copying ∧ (t.senOf o).marks = [] ∧
       (t.senOf h).mirrorState = (if (s.senOf h).mirrorState = 2 then 1 else (s.senOf h).mirrorState)) ∧
  (∀ (p region slot : Nat) (s : State), Sys2Proof.Inv s = true → (s.partOf p).tier2Busy = some slot → (s.partOf p).tier2Left.contains region = true →
     ((s.partOf p).tier2Left.filter (· != region) ≠ [] → ∃ t, exec (.tier2CopyComplete p region) s = .next t ∧
       (t.partOf p).tier2Left = (s.partOf p).tier2Left.filter (· != region) ∧ (t.partOf p).tier2Busy = some slot) ∧
     ((s.partOf p).tier2Left.filter (· != region) = [] → (s.partOf p).finalKept = none →
       ∃ t, exec (.tier2CopyComplete p region) s = .next t ∧ (t.partOf p).tier2Busy = none ∧ (t.partOf p).tier2Left = [] ∧
         (t.partOf p).tier2 = (s.partOf p).tier2.set slot { (s.partOf p).tier2.getD slot {} with
           tiles := ((s.partOf p).tier2.getD slot {}).tiles + s.regionTiles p region, state := 2 }))

/-- R299 to R303, R526, R527, Tables 12.4 to 12.6: the fills of takeovers and the control core's replays. -/
def Obligations.FillsAndReplays : Prop :=
  (∀ (tile : Nat) (w v : Swap) (resFailed mirFailed : Bool) (s : State), Sys2Proof.Inv s = true →
     ((s.partOf (s.tilePart tile)).swaps.find? fun w => w.tile = tile && w.filling && !w.filled) = some w → w.spoilt = false →
     w.resSource ≠ 1 → w.mirSource ≠ 1 → mirFailed = false → v ∈ (s.partOf (s.tilePart tile)).swaps → v.tile ≠ tile →
     v.chosen = true → v.filled = false → (s.jobOf (s.tilePart tile)).residentSize ≠ 0 →
     (∀ u ∈ (s.partOf (s.tilePart tile)).swaps, u.new.isSome = true ∧ (u.chosen = true → u.filling = true ∨ u.filled = true)) →
     (resFailed = false → ∃ t, exec (.takeoverFillComplete tile resFailed mirFailed) s = .next t ∧
       (t.partOf (s.tilePart tile)).swaps = (s.partOf (s.tilePart tile)).swaps.map fun u =>
         if u.tile = tile then { u with filled := true, filling := false } else u) ∧
     (resFailed = true → w.resRetries = 0 → ∃ t, exec (.takeoverFillComplete tile resFailed mirFailed) s = .next t ∧
       ∃ u ∈ (t.partOf (s.tilePart tile)).swaps, u.tile = tile ∧ u.resRetries = 1 ∧ u.filled = false ∧ u.filling = true)) ∧
  (∀ (p result tile last length tag : Nat) (s : State), Sys2Proof.Inv s = true →
     (length ≠ 4 → ∃ t, exec (.replayDone p result tile last length tag) s = .next t ∧ t.coreNaks = s.coreNaks + 1 ∧
       t.coreTx = s.coreTx ++ [{ type := 0x1F, tag := tag, payload := le 1 0x11 ++ le 3 0 }] ∧ t.part = s.part) ∧
     (length = 4 → result = 0 → ((s.partOf p).replays.any fun r => r.tile = tile) = true → (s.partOf p).boundary = false →
       ∃ t, exec (.replayDone p result tile last length tag) s = .next t ∧
         (t.partOf p).replays = (s.partOf p).replays.filter fun r => r.tile != tile) ∧
     (length = 4 → result ≠ 0 → ((s.partOf p).replays.any fun r => r.tile = tile) = true → (s.partOf p).state = 2 →
       (s.partOf p).fence = none → (s.partOf p).reset = none → (s.partOf p).swaps = [] → s.stop.state = 0 → s.actionSites p ≠ [] →
       ∃ t f, exec (.replayDone p result tile last length tag) s = .next t ∧ (t.partOf p).state = 3 ∧ (t.partOf p).killed = true ∧
         (t.partOf p).fence = some f ∧ f.cause = 4 ∧ f.reset = true ∧ f.resetCause = 4)) ∧
  (∀ (p tile : Nat) (s : State), Sys2Proof.Inv s = true → ((s.partOf p).replays.any fun r => r.tile = tile) = true → (s.partOf p).state = 2 →
     (s.partOf p).fence = none → (s.partOf p).reset = none → (s.partOf p).swaps = [] → s.stop.state = 0 → s.actionSites p ≠ [] →
     ∃ t f, exec (.replayDoneTimeout p tile) s = .next t ∧ (t.partOf p).state = 3 ∧ (t.partOf p).killed = true ∧
       (t.partOf p).fence = some f ∧ f.cause = 4 ∧ f.reset = true ∧ f.resetCause = 4)

/-- R89 to R98, R102, R151, R152, Tables 4.2 and 4.3: the sentinel's consumption, its second read of a stored block, and the seal it
inserts at production. -/
def Obligations.BlocksAtTheSentinel : Prop :=
  (∀ (site : Nat) (c : Consume) (s : State), bitOf 0 (s.senOf site).ctrlFront = false → bitOf 1 (s.senOf site).ctrlFront = false →
     exec (.blockConsumed site c) s = .next s) ∧
  (∀ (site : Nat) (c : Consume) (s : State), Sys2Proof.Inv s = true → bitOf 0 (s.senOf site).ctrlFront = true →
     ∃ t, exec (.blockConsumed site c) s = .next t ∧
       (t.senOf site).inMarks = (markIn c.engine c.seq
         (c.block.tag.poison && sealTest c.block c.desc != 1 && sealTest c.block c.desc != 2 && c.engine < 2 ||
           c.engine < 2 && (s.senOf site).wordBad.contains (0, c.desc.handle, c.desc.index))
         (sealTest c.block c.desc != 0 || metaFails c || c.block.tag.taint) (s.senOf site)).inMarks ∧
       (sealTest c.block c.desc = 2 → c.engine < 2 →
         (t.senOf site).rereads = (s.senOf site).rereads ++ [(sealInfoOf c.block c.desc (s.slotAt site) 0xFFFF, c.holder)]) ∧
       ((sealTest c.block c.desc ≠ 2 ∨ 2 ≤ c.engine) → (t.senOf site).rereads = (s.senOf site).rereads) ∧
       t.part = s.part ∧ t.health = s.health) ∧
  (∀ (site : Nat) (c : Consume) (s : State), Sys2Proof.Inv s = true →
     ∃ t, exec (.blockConsumed site c) s = .next t ∧
       (t.senOf site).ledger = (if bitOf 1 (s.senOf site).ctrlFront = true ∧ c.engine < 2
         then (ledgerBlock true c.desc c.block.payload (s.senOf site)).ledger else (s.senOf site).ledger)) ∧
  (∀ (site holder at_ : Nat) (stored : Block) (i : SealInfo) (rest : List (SealInfo × Nat)) (s : State), Sys2Proof.Inv s = true →
     (s.senOf site).rereads = (i, holder) :: rest → at_ = atRestOf i (dumpRead (s.senOf site).wordBad stored i.exp) →
     ∃ t, exec (.sealReread site stored) s = .next t ∧ (t.senOf site).rereads = rest ∧
       (at_ = 3 → t.health = s.health) ∧
       (at_ ≠ 3 → (t.siteRec holder).nStorage = satAdd 65535 (s.siteRec holder).nStorage 1) ∧
       (∀ k, k ≠ holder → (t.siteRec k).nStorage = (s.siteRec k).nStorage)) ∧
  (∀ (site : Nat) (stored : Block) (s : State), (s.senOf site).rereads = [] → exec (.sealReread site stored) s = .next s) ∧
  (∀ (site : Nat) (p : Produce) (s : State),
     (p.lineage = 0xFF → p.desc.handle = 0xFFFF08 → exec (.blockProduced site p) s = .next s) ∧
     ((p.lineage ≠ 0xFF ∨ p.desc.handle ≠ 0xFFFF08) → (s.senOf site).fenced = true →
       exec (.blockProduced site p) s = .next (modSen site (fun x => { x with inserted := [(14, [15])] }) s))) ∧
  (∀ (site : Nat) (p : Produce) (s : State), Sys2Proof.Inv s = true → (s.senOf site).fenced = false →
     (p.lineage ≠ 0xFF ∨ p.desc.handle ≠ 0xFFFF08) →
     ∃ t g, exec (.blockProduced site p) s = .next t ∧
       g = producedTag (bitOf 0 (s.senOf site).ctrlFront) (Sparse.get (false, false) (s.senOf site).inMarks (2 * p.seq + p.engine)) p
         (writtenPayload (s.senOf site) p) ∧
       (t.senOf site).lastTag = g ∧ (t.senOf site).inserted = [(14, [15]), (0, Tag.bytes g)] ∧
       (t.senOf site).ledger = (if bitOf 1 (s.senOf site).ctrlFront = true
         then (ledgerBlock false p.desc (writtenPayload (s.senOf site) p) (s.senOf site)).ledger else (s.senOf site).ledger) ∧
       (∀ k, k ≠ site → t.senOf k = s.senOf k))

/-- R125, R142, R146, R147, R153, R174, R178, R193, R207: an output tile is judged, counted and reported, a sample is drawn, a vector
stream is checked, and a tile ends its step. -/
def Obligations.OutputTilesAndStreams : Prop :=
  (∀ (site : Nat) (o : TileObs) (s : State), o.desc.lineage = 0xFF → o.desc.handle = 0xFFFF08 → exec (.outputTileSealed site o) s = .next s) ∧
  (∀ (site : Nat) (o : TileObs) (s : State), Sys2Proof.Inv s = true → o.desc.lineage ≠ 0xFF → (s.senOf site).used true = 0 →
     ∃ t v d k, exec (.outputTileSealed site o) s = .next t ∧
       v = (if bitOf 1 (s.senOf site).ctrlFront then (residueVerdictOf o).1 else disabledItem (residueVerdictOf o).1) ∧
       d = (if v.verdict = 8 then {} else (residueVerdictOf o).2) ∧
       k = (if v.verdict = 2 ∨ v.verdict = 3 then 2 else 1) ∧
       (t.senOf site).outputs = (s.senOf site).outputs + 1 ∧
       (t.senOf site).sampleCount = (s.senOf site).sampleCount - 1 ∧
       { item := .residueVerdict site v d, reserved := true, slots := k } ∈ (t.senOf site).fq ∧
       ((s.senOf site).sampleCount = 1 → t.sent = s.sent ++ [.sampleSelect site o.desc.seq]) ∧
       ((s.senOf site).sampleCount ≠ 1 → t.sent = s.sent) ∧ t.part = s.part ∧ t.hub = s.hub) ∧
  (∀ (site recipe point : Nat) (epoch : Dword) (o : TileObs) (s : State), Sys2Proof.Inv s = true → o.desc.lineage = 0xFF →
     testHandle o.desc.handle = true → o.desc.handle ≠ 0xFFFF08 → (s.senOf site).run = some (point, recipe, epoch) →
     ∃ t v sig rep, exec (.outputTileSealed site o) s = .next t ∧
       v = (if bitOf 1 (s.senOf site).ctrlFront then (residueVerdictOf o).1 else disabledItem (residueVerdictOf o).1) ∧
       sig = signatureOf ((List.range (recipeOf recipe).blocksOut).map fun k => ((s.senOf site).outBlock recipe k).payload) ∧
       (t.senOf site).outputs = (s.senOf site).outputs ∧
       t.sent = s.sent ++ [.runResult site recipe v.verdict (flag (s.senOf site).runSeals) sig v.status rep]) ∧
  (∀ (site seq : Nat) (s : State), Sys2Proof.Inv s = true →
     ∃ t, exec (.sampleSelect site seq) s = .next t ∧
       (t.senOf site).sampleCount = sampleInterval (lfsrDraw (s.hubOf (s.siteHub site)).sampleGen).2
         (if (s.hubOf (s.siteHub site)).collect.raised.contains (s.tileAt site) then (s.hubOf (s.siteHub site)).veNcDiv
          else (s.hubOf (s.siteHub site)).veSampleDiv) ∧
       (t.hubOf (s.siteHub site)).sampleGen = (lfsrDraw (lfsrDraw (s.hubOf (s.siteHub site)).sampleGen).1).1 ∧
       (bitOf 0 (s.hubOf (s.siteHub site)).veCtrl = false → (t.hubOf (s.siteHub site)).repeats = (s.hubOf (s.siteHub site)).repeats ∧
         (t.hubOf (s.siteHub site)).job = (s.hubOf (s.siteHub site)).job) ∧
       (bitOf 0 (s.hubOf (s.siteHub site)).veCtrl = true → (s.hubOf (s.siteHub site)).job = none → (s.hubOf (s.siteHub site)).repeats = [] →
         ∃ j, (t.hubOf (s.siteHub site)).job = some j ∧ j.req.site = site ∧ j.req.seq = seq ∧ j.req.reason = 1 ∧
           j.req.elems = [drawElement (lfsrDraw (lfsrDraw (s.hubOf (s.siteHub site)).sampleGen).1).2] ∧
           .repeatRead site seq 1 j.req.elems [] [] 0 ∈ t.sent)) ∧
  (∀ (site : Nat) (b : Beat) (s : State), Sys2Proof.Inv s = true →
     ∃ t, exec (.vectorBeat site b) s = .next t ∧ t.senOf site = (s.senOf site).takeBeat b ∧ (∀ k, k ≠ site → t.senOf k = s.senOf k)) ∧
  (∀ (site : Nat) (s : State), Sys2Proof.Inv s = true →
     ∃ t, exec (.streamEnd site) s = .next t ∧ (t.senOf site).stream = none ∧ (t.senOf site).streamFree = false ∧
       ((s.senOf site).stream = none ∨ bitOf 2 (s.senOf site).ctrlFront = false → (t.senOf site).fq = (s.senOf site).fq) ∧
       (∀ st, bitOf 2 (s.senOf site).ctrlFront = true → (s.senOf site).stream = some st → (programOf st.entry).send = 0 →
         (streamSummary (streamClose st) false).flagCount = 0 → (streamSummary (streamClose st) false).segFlags = 0 →
         (s.senOf site).used false ≤ 11 →
         (t.senOf site).fq = (s.senOf site).fq ++ [{ item := .summary site (streamSummary (streamClose st) false), slots := 3 }])) ∧
  (∀ (site : Nat) (s : State), Sys2Proof.Inv s = true → s.tileAt site ≠ 0xFFFF → s.hasJob (s.sitePart site) = true →
     (s.senOf site).stepLast = false → (s.partOf (s.sitePart site)).opened = true → (s.partOf (s.sitePart site)).state ≠ 6 →
     ∃ t item, exec (.stepLastComplete site) s = .next t ∧ (t.senOf site).stepLast = true ∧ (t.senOf site).ledger = [] ∧
       item = ({ outputs := (s.senOf site).outputs, served := BitVec.ofNat 32 (s.senOf site).served, shared := (s.senOf site).shared, overrun := (s.senOf site).overrun, groups := min (s.senOf site).ledger.length 16 } : StepDoneItem) ∧
       ({ item := .stepDone site item, reserved := true } ∈ (t.senOf site).fq ∨ .stepDone site item ∈ (t.senOf site).fwait) ∧
       (((s.partSites (s.sitePart site)).all fun y => y = site || (s.senOf y).stepLast) = true →
         (t.partOf (s.sitePart site)).stepEnded = true ∧ (t.partOf (s.sitePart site)).endAtRas = s.ras) ∧
       (∀ k, k ≠ site → t.senOf k = s.senOf k))

/-- R89, R90, R94, R99, R101, R104, R286, R315, R345, Tables 4.2, 4.4 and 13.6: the points of a hub at memory and links. -/
def Obligations.EntryAndExitPoints : Prop :=
  (∀ (b : Transfer) (s : State), Sys2Proof.Inv s = true →
     (s.ctxOf b = 0 → ∃ t, exec (.memoryEntryRead b) s = .next t ∧
       (t.hubOf (s.pointHub b)).entryTag = entryTag b b.uncorrectable b.block.payload ∧ t.sen = s.sen ∧ t.sent = s.sent) ∧
     (s.ctxOf b = 1 → b.accepted = true → ∃ t, exec (.memoryEntryRead b) s = .next t ∧
       (t.hubOf (s.pointHub b)).entryTag = entryTag b true [] ∧ t.sen = s.sen ∧ t.sent = s.sent) ∧
     ((2 ≤ s.ctxOf b ∨ s.ctxOf b = 1 ∧ b.accepted = false) → ∃ t, exec (.memoryEntryRead b) s = .next t ∧
       (t.hubOf (s.pointHub b)).refused = (s.hubOf (s.pointHub b)).refused + 1 ∧
       (t.hubOf (s.pointHub b)).entryTag = (s.hubOf (s.pointHub b)).entryTag ∧ t.sen = s.sen ∧ t.sent = s.sent)) ∧
  (∀ (b : Transfer) (s : State), Sys2Proof.Inv s = true →
     (s.muted b = true → exec (.memoryExitWrite b) s = .next s) ∧
     (s.muted b = false → s.refuses b = true → ∃ t, exec (.memoryExitWrite b) s = .next t ∧
       (t.hubOf (s.pointHub b)).refused = (s.hubOf (s.pointHub b)).refused + 1 ∧
       (t.hubOf (s.pointHub b)).lastExit = (s.hubOf (s.pointHub b)).lastExit) ∧
     (s.muted b = false → s.refuses b = false → ∃ t, exec (.memoryExitWrite b) s = .next t ∧
       (t.hubOf (s.pointHub b)).lastExit = (if sealTest b.block b.desc = 0 ∧ b.block.tag.poison = false then 1 else 2) ∧
       (sealTest b.block b.desc = 0 → t.sent = s.sent) ∧
       (sealTest b.block b.desc ≠ 0 → t.sent = s.sent ++
         [.event { code := exitCode (sealTest b.block b.desc) b.block.tag.fmt, source := hubAddr (s.pointHub b), payload := sealBytes (sealInfoOf b.block b.desc s.slot (s.pointOf b)) },
          .sealVerdict (hubAddr (s.pointHub b)) b.partition b.lineage (sealTest b.block b.desc) b.step 0
            (sealInfoOf b.block b.desc s.slot (s.pointOf b))]))) ∧
  (∀ (b : Transfer) (s : State), Sys2Proof.Inv s = true →
     (s.ctxOf b = 0 → b.untagged = true → ∃ t, exec (.linkEntryBlock b) s = .next t ∧
       (t.hubOf (s.pointHub b)).entryTag = entryTag b false b.block.payload ∧ t.part = s.part ∧ t.sent = s.sent) ∧
     (s.ctxOf b = 0 → b.untagged = false → sealTest2 b.block = 0 → ∃ t, exec (.linkEntryBlock b) s = .next t ∧
       (t.hubOf (s.pointHub b)).entryTag = b.block.tag ∧
       (t.partOf b.partition).linkSeen = seeBlock b.step b.port false (s.partOf b.partition).linkSeen ∧ t.sent = s.sent) ∧
     (s.ctxOf b = 0 → b.untagged = false → sealTest2 b.block ≠ 0 → ∃ t, exec (.linkEntryBlock b) s = .next t ∧
       (t.hubOf (s.pointHub b)).entryTag = b.block.tag ∧
       (t.partOf b.partition).linkSeen = seeBlock b.step b.port true (s.partOf b.partition).linkSeen ∧
       t.sent = s.sent ++ [.event { code := if sealTest2 b.block = 1 then 0x1002 else 0x1006, source := hubAddr (s.pointHub b), payload := sealBytes (sealInfoOf b.block b.desc s.slot (s.pointOf b)) }]) ∧
     (s.ctxOf b = 1 → b.accepted = true → ∃ t, exec (.linkEntryBlock b) s = .next t ∧
       (t.hubOf (s.pointHub b)).entryTag = entryTag b true [] ∧ t.part = s.part ∧ t.sent = s.sent) ∧
     ((2 ≤ s.ctxOf b ∨ s.ctxOf b = 1 ∧ b.accepted = false) → ∃ t, exec (.linkEntryBlock b) s = .next t ∧
       (t.hubOf (s.pointHub b)).refused = (s.hubOf (s.pointHub b)).refused + 1 ∧
       (t.hubOf (s.pointHub b)).entryTag = (s.hubOf (s.pointHub b)).entryTag ∧ t.part = s.part ∧ t.sent = s.sent)) ∧
  (∀ (b : Transfer) (s : State), Sys2Proof.Inv s = true →
     (s.muted b = true → exec (.linkExitBlock b) s = .next s) ∧
     (s.muted b = false → s.refuses b = true → ∃ t, exec (.linkExitBlock b) s = .next t ∧
       (t.hubOf (s.pointHub b)).refused = (s.hubOf (s.pointHub b)).refused + 1 ∧
       (t.hubOf (s.pointHub b)).lastExit = (s.hubOf (s.pointHub b)).lastExit) ∧
     (s.muted b = false → s.refuses b = false → b.reduced = false → ∃ t, exec (.linkExitBlock b) s = .next t ∧ t.part = s.part ∧
       (t.hubOf (s.pointHub b)).lastExit = (if sealTest b.block b.desc = 0 ∧ b.block.tag.poison = false then 3 else 4) ∧
       (sealTest b.block b.desc ≠ 0 ∨ b.block.tag.poison = true →
         .sealVerdict (hubAddr (s.pointHub b)) b.partition b.lineage (sealTest b.block b.desc) b.step 0
           (sealInfoOf b.block b.desc s.slot (s.pointOf b)) ∈ t.sent)) ∧
     (s.muted b = false → s.refuses b = false → b.reduced = true → ∃ t, exec (.linkExitBlock b) s = .next t ∧
       (t.partOf b.partition).treeTag = reducedTag (s.partOf b.partition) b ∧
       (sealTest b.block b.desc = 0 → b.block.tag.poison = false → (reducedTag (s.partOf b.partition) b).poison = false →
         (t.hubOf (s.pointHub b)).lastExit = 3 ∧ (t.partOf b.partition).exitFailed = (s.partOf b.partition).exitFailed) ∧
       (sealTest b.block b.desc ≠ 0 ∨ b.block.tag.poison = true ∨ (reducedTag (s.partOf b.partition) b).poison = true →
         (t.hubOf (s.pointHub b)).lastExit = 4 ∧ (t.partOf b.partition).exitFailed = true)))

/-- R318, R319, R409, R423, Tables 13.4, 16.3 and 17.4: stale completions are counted and reported each second; memory errors are
counted by the hour, recorded and logged. -/
def Obligations.MemoryReportsAndCompletions : Prop :=
  (∀ (hub point partition context gen : Nat) (s : State), Sys2Proof.Inv s = true →
     (Sparse.get 0 (s.partOf partition).gens context = gen → exec (.memoryCompletion hub point partition context gen) s = .next s) ∧
     (Sparse.get 0 (s.partOf partition).gens context ≠ gen → ∃ t, exec (.memoryCompletion hub point partition context gen) s = .next t ∧
       (t.hubOf hub).stale = bump (s.hubOf hub).stale (4 * partition + context) 1 ∧
       (t.hubOf hub).stalePoint = bump (s.hubOf hub).stalePoint point 1 ∧ t.part = s.part ∧ t.sen = s.sen)) ∧
  (∀ (hub : Nat) (s : State), Sys2Proof.Inv s = true →
     ∃ t, exec (.staleCompletionSecond hub) s = .next t ∧ (t.hubOf hub).stale = [] ∧
       t.sent = s.sent ++ (s.hubOf hub).stale.map (fun x => .event { code := 0x4007, source := hubAddr hub, payload := le 1 (x.1 / 4) ++ le 1 (x.1 % 4) ++ le 2 0 ++ le 4 (min x.2 (2 ^ 32 - 1)) })) ∧
  (∀ (s : State), Sys2Proof.Inv s = true →
     ∃ t, exec .memCeHour s = .next t ∧ (∀ h, (t.hubOf h).ceCount = [] ∧ (t.hubOf h).ceSeen = []) ∧ t.sen = s.sen ∧ t.part = s.part) ∧
  (∀ (hub : Nat) (report : MemReport) (s : State), Sys2Proof.Inv s = true → s.arrives (.memoryError hub report) = true → hub = s.reportHub report → report.symbols ≠ 0xFF →
     ∃ t, exec (.memoryError hub report) s = .next t ∧
       (t.hubOf hub).ceCount = bump (s.hubOf hub).ceCount report.source 1 ∧
       (Sparse.get 0 (t.hubOf hub).ceCount report.source ≤ s.image.policy.memCeLimit → t.sent = s.sent.erase (.memoryError hub report)) ∧
       (s.image.policy.memCeLimit < Sparse.get 0 (t.hubOf hub).ceCount report.source → report.source ∉ (s.hubOf hub).ceSeen →
         (t.hubOf hub).ceSeen = (s.hubOf hub).ceSeen ++ [report.source] ∧
         .event { code := 0x4002, source := hubAddr hub, payload := le 2 report.source ++ le 2 0 ++ le 4 (min (Sparse.get 0 (t.hubOf hub).ceCount report.source) (2 ^ 32 - 1)) } ∈ t.sent)) ∧
  (∀ (hub : Nat) (report : MemReport) (s : State), Sys2Proof.Inv s = true → s.arrives (.memoryError hub report) = true → hub = s.reportHub report → report.symbols = 0xFF →
     ∃ t, exec (.memoryError hub report) s = .next t ∧
       .event { code := 0x4001, source := hubAddr hub, payload := memReportBytes report } ∈ t.sent ∧
       ((s.memLog.any fun e => e.1 = report.source && e.2.1 = report.address) = false → s.memLog.length < 4096 →
         t.memLog = s.memLog ++ [(report.source, report.address, 0)])) ∧
  (∀ (hub : Nat) (report : MemReport) (s : State), Sys2Proof.Inv s = true → s.arrives (.memoryError hub report) = true → hub ≠ s.reportHub report →
     ∃ t, exec (.memoryError hub report) s = .next t ∧ t.memLog = s.memLog ∧ t.win.altStatus = s.win.altStatus ∧ t.part = s.part ∧
       (t.hubOf hub).ceCount = (s.hubOf hub).ceCount)

/-- R191, R195, R198 to R204, Tables 8.5 to 8.7: captured tiles are read again, and the engine's repeat takes its lanes. -/
def Obligations.VerificationEngine : Prop :=
  (∀ (site seq reason early : Nat) (elems : List (Nat × Nat)) (outs operands : List Block) (s : State), Sys2Proof.Inv s = true →
     s.captureFor site seq = none →
     ∃ t, exec (.repeatRead site seq reason elems outs operands early) s = .next t ∧ t.sen = s.sen ∧
       t.sent = s.sent.erase (.repeatRead site seq reason elems [] [] 0) ++ (.repeatHeader site { reason := reason } ::
         elems.map fun e => .laneData site { locI := e.1, locJ := e.2, operandsOk := false })) ∧
  (∀ (site seq reason early : Nat) (elems : List (Nat × Nat)) (outs operands outs' operands' : List Block) (c : Capture) (s : State),
     Sys2Proof.Inv s = true → s.captureFor site seq = some c →
     operands' = (operands.zip c.operands).map (fun x => dumpRead (s.senOf site).wordBad x.1 x.2) →
     outs' = (outs.zip (outBlocks c elems)).map (fun x => dumpRead (s.senOf site).wordBad x.1 (c.outDescs.getD x.2 {})) →
     (∀ x ∈ badBlocks ((operands'.zip c.operands).take early), x.2.2 < 3) →
     ∃ t hdr, exec (.repeatRead site seq reason elems outs operands early) s = .next t ∧ (∀ k, k ≠ site → t.senOf k = s.senOf k) ∧
       (t.senOf site).captures = (s.senOf site).captures ∧ (t.senOf site).wordBad = (s.senOf site).wordBad.filter (fun w => w.1 != 2) ∧
       hdr = ({ desc := c.desc, window := c.window, step := c.step, maxA := c.maxA, maxB := c.maxB, reason := reason, locI := (elems.headD (0, 0)).1, locJ := (elems.headD (0, 0)).2 } : RepeatHeader) ∧
       t.sent = s.sent.erase (.repeatRead site seq reason elems [] [] 0) ++ (.repeatHeader site hdr ::
         elems.map fun e => .laneData site (laneDataOf c elems outs' operands' e))) ∧
  (∀ (site : Nat) (hdr : RepeatHeader) (j : RepeatJob) (s : State), Sys2Proof.Inv s = true → s.arrives (.repeatHeader site hdr) = true →
     (s.hubOf (s.siteHub site)).job = some j →
     ∃ t, exec (.repeatHeader site hdr) s = .next t ∧
       (t.hubOf (s.siteHub site)).job = some (if j.req.site = site then { j with header := some hdr } else j) ∧
       (t.hubOf (s.siteHub site)).repeats = (s.hubOf (s.siteHub site)).repeats ∧ t.sen = s.sen) ∧
  (∀ (site : Nat) (data : LaneData) (s : State), Sys2Proof.Inv s = true → s.arrives (.laneData site data) = true →
     (∀ j, (s.hubOf (s.siteHub site)).job = some j → j.req.site ≠ site ∨ (data.locI, data.locJ) ∉ j.req.elems) →
     ∃ t, exec (.laneData site data) s = .next t ∧ (t.hubOf (s.siteHub site)).job = (s.hubOf (s.siteHub site)).job ∧ t.sen = s.sen ∧
       t.health = s.health) ∧
  (∀ (site : Nat) (data : LaneData) (j : RepeatJob) (s : State), Sys2Proof.Inv s = true → s.arrives (.laneData site data) = true →
     (s.hubOf (s.siteHub site)).job = some j → j.req.site = site → (data.locI, data.locJ) ∈ j.req.elems →
     (j.lanes.any fun l => l.locI = data.locI && l.locJ = data.locJ) = false → j.lanes.length + 1 < j.req.elems.length →
     ∃ t, exec (.laneData site data) s = .next t ∧
       (t.hubOf (s.siteHub site)).job = some { j with lanes := j.lanes ++ [data], blocks := j.blocks + data.blocksRead }) ∧
  (∀ (site : Nat) (data : LaneData) (j : RepeatJob) (s : State), Sys2Proof.Inv s = true → s.arrives (.laneData site data) = true →
     (s.hubOf (s.siteHub site)).job = some j → j.req.site = site → (data.locI, data.locJ) ∈ j.req.elems →
     (j.lanes.any fun l => l.locI = data.locI && l.locJ = data.locJ) = false → j.req.elems.length ≤ j.lanes.length + 1 →
     (s.hubOf (s.siteHub site)).repeats = [] →
     ∃ t, exec (.laneData site data) s = .next t ∧ (t.hubOf (s.siteHub site)).job = none)

/-- R205 to R211, R223: test content and runs reach the sites, and a run's result enters the pass. -/
def Obligations.RunsAndContent : Prop :=
  (∀ (site recipe verdict seals : Nat) (signature : Dword) (status : Word) (replay : ReplayReport) (s : State), Sys2Proof.Inv s = true →
     s.arrives (.runResult site recipe verdict seals signature status replay) = true →
     (∀ x, (s.hubOf (s.siteHub site)).pass = some x → x.stage ≠ 3 ∨ site ∉ x.testing) →
     ∃ t, exec (.runResult site recipe verdict seals signature status replay) s = .next t ∧ t.sen = s.sen ∧ t.screens = s.screens ∧
       (t.hubOf (s.siteHub site)).pass = (s.hubOf (s.siteHub site)).pass) ∧
  (∀ (site recipe verdict seals other : Nat) (signature : Dword) (status : Word) (replay : ReplayReport) (x : Pass) (s : State), Sys2Proof.Inv s = true →
     s.arrives (.runResult site recipe verdict seals signature status replay) = true → (s.hubOf (s.siteHub site)).pass = some x →
     x.stage = 3 → x.replay = false → site ∈ x.testing → x.recipe = recipe →
     (x.rows.any fun r => r.site = site && r.recipe = recipe) = false →
     other ∈ x.testing → other ≠ site → s.usable other = true → (x.rows.any fun r => r.site = other && r.recipe = recipe) = false →
     ∃ t row, exec (.runResult site recipe verdict seals signature status replay) s = .next t ∧
       (t.hubOf (s.siteHub site)).pass = some { x with rows := x.rows ++ [row] } ∧ row.site = site ∧ row.recipe = recipe ∧
       row.passed = (verdict == 0 && seals == 0 && !(s.senOf site).runFailed) ∧ row.sig = signature ∧ row.status = status) ∧
  (∀ (sector offset : Nat) (bytes : List Byte) (s : State), Sys2Proof.Inv s = true →
     ∃ t, exec (.content sector offset bytes) s = .next t ∧
       (∀ x, (s.hubOf ((s.server sector).getD sector)).pass = some x → ∀ y ∈ x.testing, sectorOf y = sector →
         (t.senOf y).test = Memory.write 0 (s.senOf y).test offset bytes) ∧
       (∀ y, (∀ x, (s.hubOf ((s.server sector).getD sector)).pass = some x → y ∉ x.testing ∨ sectorOf y ≠ sector) → t.senOf y = s.senOf y)) ∧
  (∀ (site sector point recipe : Nat) (epoch : Dword) (s : State), Sys2Proof.Inv s = true →
     s.arrives (.screenRun site sector point recipe epoch) = true →
     ∃ t, exec (.screenRun site sector point recipe epoch) s = .next t ∧
       (∀ y, (site ≠ 0xFFFF ∧ y = site ∨ site = 0xFFFF ∧ ∃ x, (s.hubOf ((s.server sector).getD sector)).pass = some x ∧ y ∈ x.testing ∧
           sectorOf y = sector) →
         (t.senOf y).run = some (point, recipe, epoch) ∧ (t.senOf y).runFailed = false ∧ (t.senOf y).runSeals = false ∧
         (t.senOf y).heater = false ∧ (t.senOf y).freqStep = (if 1 ≤ point ∧ point ≤ 4 then point else 0)) ∧
       (∀ y, site ≠ 0xFFFF → y ≠ site → t.senOf y = s.senOf y))

/-- R40, R179, R180, R252, R312, R313, R328, R367: alarm levels, the quarantine and summaries at a hub. -/
def Obligations.AlarmsAndQuarantine : Prop :=
  (∀ (unit code : Nat) (raised : Bool) (edge : Edge) (s : State), Sys2Proof.Inv s = true → s.arrives (.alarmLevel unit code raised edge) = true →
     unit < 0x4000 → bitOf code (Sparse.get 0 (s.hubOf (s.siteHub unit)).alarms unit) = raised →
     ∃ t, exec (.alarmLevel unit code raised edge) s = .next t ∧ t.sen = s.sen ∧ t.part = s.part ∧
       (t.hubOf (s.siteHub unit)).alarms = (s.hubOf (s.siteHub unit)).alarms) ∧
  (∀ (unit code : Nat) (raised : Bool) (edge : Edge) (s : State), Sys2Proof.Inv s = true → s.arrives (.alarmLevel unit code raised edge) = true →
     unit < 0x4000 → bitOf code (Sparse.get 0 (s.hubOf (s.siteHub unit)).alarms unit) ≠ raised → (raised = false ∨ 16 ≤ code) →
     ∃ t, exec (.alarmLevel unit code raised edge) s = .next t ∧
       (t.hubOf (s.siteHub unit)).alarms = Sparse.set 0 (s.hubOf (s.siteHub unit)).alarms unit
         (if raised then Sparse.get 0 (s.hubOf (s.siteHub unit)).alarms unit + 2 ^ code
          else Sparse.get 0 (s.hubOf (s.siteHub unit)).alarms unit - 2 ^ code) ∧
       (raised = true → code < 24 → .edgeChange (s.siteHub unit) true edge ∈ t.sent ∧
         (t.hubOf (s.siteHub unit)).edges = (s.hubOf (s.siteHub unit)).edges ++ [(unit, edge, s.hubRas (s.siteHub unit))])) ∧
  (∀ (unit : Nat) (edge : Edge) (s : State), Sys2Proof.Inv s = true → 0x8000 ≤ unit → s.arrives (.alarmLevel unit 34 true edge) = true →
     ∃ t, exec (.alarmLevel unit 34 true edge) s = .next t ∧ t.win.altStatus = s.win.altStatus ||| 32 ∧ t.part = s.part ∧ t.sen = s.sen) ∧
  (∀ (site : Nat) (s : State), Sys2Proof.Inv s = true → s.arrives (.quarantine site) = true → (s.siteRec site).state ≠ 6 →
     ∃ t, exec (.quarantine site) s = .next t ∧ t.sen = s.sen ∧ t.screens = s.screens ∧ t.sent = s.sent.erase (.quarantine site)) ∧
  (∀ (site : Nat) (s : State), Sys2Proof.Inv s = true → s.arrives (.quarantine site) = true → (s.siteRec site).state = 6 →
     ∃ t, exec (.quarantine site) s = .next t ∧ (t.senOf site).sampleCount = 0 ∧
       ((s.hubOf (s.siteHub site)).pass = none → s.repeatPending site = false → s.breached (s.sitePart site) = false →
         s.fencing (s.sitePart site) = false → s.resetting (s.sitePart site) = false → s.stop.state = 0 →
         .tileReset site 3 ∈ t.sent)) ∧
  (∀ (site : Nat) (sum : Summary) (s : State), Sys2Proof.Inv s = true → s.arrives (.summary site sum) = true →
     (2 ≤ (s.hubOf (s.siteHub site)).sequencer → ∃ t, exec (.summary site sum) s = .next t ∧ t.sent = s.sent.erase (.summary site sum) ∧
       (t.hubOf (s.siteHub site)).wakeWaiting = (s.hubOf (s.siteHub site)).wakeWaiting ++ [.summary site sum] ∧
       1 ∈ (t.hubOf (s.siteHub site)).waking) ∧
     ((s.hubOf (s.siteHub site)).sequencer < 2 → ruleAction (s.hubOf (sectorOf site)).set sum = none →
       ∃ t, exec (.summary site sum) s = .next t ∧ t.sent = s.sent.erase (.summary site sum) ∧ t.sen = s.sen ∧ t.part = s.part ∧
         (t.hubOf (s.siteHub site)).wakeWaiting = (s.hubOf (s.siteHub site)).wakeWaiting))

/-- R325 to R330, Tables 14.2 and 14.3: the wait-for graph, the tick of the edge shadow registers, and the cycle search. -/
def Obligations.EdgesAndSearch : Prop :=
  (∀ (hub : Nat) (raised : Bool) (edge : Edge) (s : State), Sys2Proof.Inv s = true → s.arrives (.edgeChange hub raised edge) = true →
     ∃ t, exec (.edgeChange hub raised edge) s = .next t ∧ t.sen = s.sen ∧ t.part = s.part ∧
       (raised = false → t.graph = s.graph.filter fun e => e.1 != edge) ∧
       (raised = true → (∀ e, ((s.hubOf hub).edges.find? fun e => e.2.1 = edge) = some e →
           t.graph = (s.graph.filter fun e => e.1 != edge) ++ [(edge, e.2.2)]) ∧
         (((s.hubOf hub).edges.find? fun e => e.2.1 = edge) = none →
           t.graph = (s.graph.filter fun e => e.1 != edge) ++ [(edge, s.ras)]))) ∧
  (∀ (hub : Nat) (s : State), Sys2Proof.Inv s = true →
     ∃ t, exec (.edgeTickTimer hub) s = .next t ∧ t.sen = s.sen ∧ t.hub = s.hub ∧
       t.sent = s.sent ++ ((s.sen.map (·.1)).filter fun x => s.siteHub x = hub).map fun x => .edgeTick x) ∧
  (∀ (site : Nat) (s : State), Sys2Proof.Inv s = true → s.arrives (.edgeTick site) = true →
     (s.clockRuns site = false → ∃ t, exec (.edgeTick site) s = .next t ∧ (t.senOf site).ticks = [] ∧
       (t.senOf site).shadow = (s.senOf site).shadow) ∧
     (s.clockRuns site = true → ∃ t, exec (.edgeTick site) s = .next t ∧ ∀ n, n < 8 →
       Sparse.get {} (t.senOf site).ticks n = { seen := true, pending := bitOf 0 (Sparse.get {} (s.senOf site).shadow n).state, advances := (Sparse.get {} (s.senOf site).shadow n).advances, headSlot := (Sparse.get {} (s.senOf site).shadow n).headSlot })) ∧
  (∀ (s : State), Sys2Proof.Inv s = true →
     (2 ≤ s.stop.state → exec .waitForSearchTimer s = .next s) ∧
     (s.stop.state < 2 → s.stop.releasedAt = none → (∀ p, p < 16 → searchPartition p s = s) → exec .waitForSearchTimer s = .next s) ∧
     (∀ p cause path, s.stop.state < 2 → s.stop.releasedAt = none → p < 16 → (∀ q, q < 16 → q ≠ p → (s.partOf q).state ≠ 2 ∧ (s.partOf q).state ≠ 6) →
       (s.partOf p).state = 2 → (s.partOf p).hang = none → searchGraph s.image.policy s.ras p s.tilePart s.graph = some (cause, path) →
       ∃ t, exec .waitForSearchTimer s = .next t ∧ t = declareHang p cause path s))

/-- R183 to R186, R333, R334, R478 to R480, R535, Tables 7.6, 14.12 and 19.3: parts of a hang snapshot, runs of digest entries, and the
control core's messages. -/
def Obligations.SnapshotsAndDigests : Prop :=
  (∀ (hub p : Nat) (sites : List SnapSite) (edges : List Edge) (s : State), Sys2Proof.Inv s = true →
     s.arrives (.snapshotPart hub p sites edges) = true →
     ((∀ x, (s.partOf p).snapshot = some x → x.done = true) → ∃ t, exec (.snapshotPart hub p sites edges) s = .next t ∧ t.part = s.part) ∧
     (∀ x, (s.partOf p).snapshot = some x → x.done = false → (x.waiting.filter fun w => !sites.any fun e => e.site = w) ≠ [] →
       ∃ t y, exec (.snapshotPart hub p sites edges) s = .next t ∧ (t.partOf p).snapshot = some y ∧
         y.sites = sites.foldl (fun l e => insertSnap e l) x.sites ∧ y.waiting = (x.waiting.filter fun w => !sites.any fun e => e.site = w) ∧
         y.done = false)) ∧
  (∀ (site : Nat) (s : State), Sys2Proof.Inv s = true →
     ((∀ x, (s.partOf (s.sitePart site)).snapshot = some x → site ∉ x.waiting) → exec (.snapshotSiteTimeout site) s = .next s) ∧
     (∀ x, (s.partOf (s.sitePart site)).snapshot = some x → site ∈ x.waiting → x.done = false → x.waiting.filter (· != site) ≠ [] →
       ∃ t y e, exec (.snapshotSiteTimeout site) s = .next t ∧ (t.partOf (s.sitePart site)).snapshot = some y ∧
         e = ({ site := site, tile := s.tileAt site, flags := 1 + 8 * flag (s.siteHub site != sectorOf site) } : SnapSite) ∧
         y.sites = insertSnap e x.sites ∧ y.waiting = x.waiting.filter (· != site))) ∧
  (∀ (hub p lost : Nat) (inputs outputs : List Tag) (s : State), Sys2Proof.Inv s = true → s.arrives (.digestRun hub p inputs outputs lost) = true →
     ∃ t, exec (.digestRun hub p inputs outputs lost) s = .next t ∧
       (t.partOf p).digestBusy = (s.partOf p).digestBusy.map (mergeRun hub inputs outputs lost) ∧ (∀ q, q ≠ p → t.partOf q = s.partOf q)) ∧
  (∀ (p : Nat) (s : State), Sys2Proof.Inv s = true →
     ((s.partOf p).digestBusy = none → exec (.digestComplete p) s = .next s) ∧
     (∀ d, (s.partOf p).digestBusy = some d → d.waiting ≠ [] → exec (.digestComplete p) s = .next s) ∧
     (∀ d, (s.partOf p).digestBusy = some d → d.waiting = [] → ∃ t, exec (.digestComplete p) s = .next t ∧
       (t.partOf p).digests = ringLast 256 ((s.partOf p).digests ++ [digestRecord d]) ∧
       (t.partOf p).digestNext = (s.partOf p).digestNext.drop 1 ∧
       ((s.partOf p).digestNext = [] → (t.partOf p).digestBusy = none) ∧
       (∀ n rest, (s.partOf p).digestNext = n :: rest →
         (t.partOf p).digestBusy = some { step := n.1, program := n.2, waiting := s.partHubs p }))) ∧
  (∀ (step p length tag : Nat) (loss : Word) (s : State), Sys2Proof.Inv s = true →
     (length ≠ 4 → ∃ t, exec (.lossReport step loss p length tag) s = .next t ∧ t.coreNaks = s.coreNaks + 1 ∧
       t.coreTx = s.coreTx ++ [{ type := 0x1F, tag := tag, payload := le 1 1 ++ le 3 0 }] ∧ t.part = s.part) ∧
     (length = 4 → lossReason s step p ≠ 0 → ∃ t, exec (.lossReport step loss p length tag) s = .next t ∧ t.lossRejected = s.lossRejected + 1 ∧
       t.coreTx = s.coreTx ++ [{ type := 2, tag := tag, payload := le 1 (lossReason s step p) ++ le 3 0 }] ∧ t.part = s.part) ∧
     (length = 4 → lossReason s step p = 0 → isSpike s.image.policy (s.partOf p).loss.losses loss.toNat = false →
       ∃ t, exec (.lossReport step loss p length tag) s = .next t ∧ (t.partOf p).loss.lastStep = some step ∧
         (t.partOf p).loss.losses = ringLast s.image.policy.lossWindow ((s.partOf p).loss.losses ++ [loss.toNat]) ∧
         (t.partOf p).loss.spikes = [] ∧ t.coreTx = s.coreTx ++ [{ type := 2, tag := tag, payload := le 1 0 ++ le 3 0 }])) ∧
  (∀ (type tag : Nat) (s : State), ∃ t, exec (.unknownCoreMessage type tag) s = .next t ∧ t.coreNaks = s.coreNaks + 1 ∧
     t.coreTx = s.coreTx ++ [{ type := 0x1F, tag := tag, payload := le 1 type ++ le 3 0 }] ∧ t.part = s.part ∧ t.sen = s.sen)

/-- R228, R229, R232 to R239, R242, R245, R249, R252, R366, Tables 9.3 to 9.6 and 10.3: the starts, ends and bounds of screens, the
voltage feed's acknowledge, and the end of a clean period. -/
def Obligations.ScreeningEvents : Prop :=
  (∀ (p : Nat) (s : State), Sys2Proof.Inv s = true →
     (s.windowStart p = none → exec (.screeningWindowStart p) s = .next s) ∧
     (∀ a, s.windowStart p = some a → ((s.partOf p).state ≠ 2 ∨ (s.partOf p).windowAt = some a) →
       exec (.screeningWindowStart p) s = .next s) ∧
     (∀ a, s.windowStart p = some a → (s.partOf p).state = 2 → (s.partOf p).windowAt ≠ some a →
       ∃ t, exec (.screeningWindowStart p) s = .next t ∧ (t.partOf p).windowAt = some a ∧ (t.partOf p).breach = false)) ∧
  (∀ (site : Nat) (s : State), Sys2Proof.Inv s = true →
     (Sparse.get none s.screens site = none → exec (.screenSpanExpiry site) s = .next s) ∧
     (∀ c, Sparse.get none s.screens site = some c → c.kind ≠ 3 →
       ∃ t, exec (.screenSpanExpiry site) s = .next t ∧ Sparse.get none t.screens site = none)) ∧
  (∀ (site : Nat) (heaters : Bool) (s : State), Sys2Proof.Inv s = true →
     ((s.nearLimit (sectorOf site) = true ∨ s.blocked 4 0 site = true ∨
         Sparse.get none s.screens site = none ∧ s.breached (s.sitePart site) = true) → exec (.spareScreenStart site heaters) s = .next s) ∧
     ((Sparse.get none s.screens site).isSome = true → s.nearLimit (sectorOf site) = false → s.blocked 4 0 site = false →
       exec (.spareScreenStart site heaters) s = .next (joinPass (s.siteHub site) [site] s)) ∧
     (Sparse.get none s.screens site = none → (s.siteRec site).state ≠ 1 → (s.siteRec site).state ≠ 6 →
       exec (.spareScreenStart site heaters) s = .next s) ∧
     (Sparse.get none s.screens site = none → (s.siteRec site).state = 1 → (s.siteRec site).deepPending = false →
       Sparse.get 0 s.spareAt site ≠ 0 → s.secs + 1 < Sparse.get 0 s.spareAt site + s.image.policy.spareGap →
       exec (.spareScreenStart site heaters) s = .next s) ∧
     (Sparse.get none s.screens site = none → s.nearLimit (sectorOf site) = false → s.blocked 4 0 site = false →
       s.breached (s.sitePart site) = false → (s.siteRec site).state = 1 → (s.siteRec site).deepPending = false →
       (Sparse.get 0 s.spareAt site = 0 ∨ Sparse.get 0 s.spareAt site + s.image.policy.spareGap ≤ s.secs + 1) →
       ∃ t, exec (.spareScreenStart site heaters) s = .next t ∧ Sparse.get 0 t.spareAt site = s.secs + 1)) ∧
  (∀ (site : Nat) (s : State), Sys2Proof.Inv s = true →
     (((Sparse.get none s.screens site).isSome = true ∨ s.breached (s.sitePart site) = true ∨ s.fencing (s.sitePart site) = true ∨
         s.resetting (s.sitePart site) = true ∨ s.stop.state ≠ 0 ∨
         (s.siteRec site).state ≠ 6 ∧ ((s.siteRec site).state ≠ 1 ∨ (s.siteRec site).deepPending = false ∨ s.repeatPending site = true)) →
       exec (.deepScreenStart site) s = .next s) ∧
     (Sparse.get none s.screens site = none → s.breached (s.sitePart site) = false → s.fencing (s.sitePart site) = false →
       s.resetting (s.sitePart site) = false → s.stop.state = 0 →
       ((s.siteRec site).state = 6 ∨ (s.siteRec site).state = 1 ∧ (s.siteRec site).deepPending = true ∧ s.repeatPending site = false) →
       ∃ t, exec (.deepScreenStart site) s = .next t ∧ .tileReset site 3 ∈ t.sent)) ∧
  (∀ (sector : Nat) (s : State), Sys2Proof.Inv s = true →
     ((∀ x, (s.hubOf ((s.server sector).getD sector)).pass = some x → x.stage ≠ 2) → exec (.heatingTimeout sector) s = .next s) ∧
     (∀ x, (s.hubOf ((s.server sector).getD sector)).pass = some x → x.stage = 2 →
       ∃ t, exec (.heatingTimeout sector) s = .next t ∧
         ∀ site ∈ x.testing, (∀ c, Sparse.get none s.screens site = some c → c.kind ≠ 3) → Sparse.get none t.screens site = none)) ∧
  (∀ (sector : Nat) (s : State), Sys2Proof.Inv s = true →
     ((s.hubOf sector).vmReq = false → exec (.vmarginAck sector) s = .next s) ∧
     ((s.hubOf sector).vmReq = true → ∃ t, exec (.vmarginAck sector) s = .next t ∧
       (t.hubOf sector).vmStep = (s.hubOf sector).vmWant ∧
       ((∀ x, (s.hubOf sector).pass = some x → x.stage ≠ 1) → (t.hubOf sector).vmReq = false))) ∧
  (∀ (sector : Nat) (s : State), Sys2Proof.Inv s = true →
     ((s.present sector = false ∨ (s.hubOf sector).failed = true) → exec (.vmarginKeepaliveTimer sector) s = .next s) ∧
     (s.present sector = true → (s.hubOf sector).failed = false → ∃ t, exec (.vmarginKeepaliveTimer sector) s = .next t ∧
       (t.hubOf sector).vmAlive = !(s.hubOf sector).vmAlive ∧ (∀ h, h ≠ sector → t.hubOf h = s.hubOf h) ∧ t.sen = s.sen)) ∧
  (∀ (s : State), Sys2Proof.Inv s = true →
     (s.throttle.stage ≠ 0 → exec .stageZeroHold s = .next s) ∧
     (s.throttle.stage = 0 → ∃ t, exec .stageZeroHold s = .next t ∧ t.throttle.screensAllowed = true ∧ t.throttle.stage = 0)) ∧
  (∀ (site : Nat) (s : State), Sys2Proof.Inv s = true →
     (((s.siteRec site).condition ≠ 1 ∨ (s.siteRec site).cleanScreens < s.image.policy.cleanScreens ∨
         s.secs - max (s.siteRec site).lastEvent (s.siteRec site).stateSince < s.image.policy.cleanDays) →
       exec (.cleanPeriodEnd site) s = .next s) ∧
     ((s.siteRec site).condition = 1 → s.image.policy.cleanScreens ≤ (s.siteRec site).cleanScreens →
       s.image.policy.cleanDays ≤ s.secs - max (s.siteRec site).lastEvent (s.siteRec site).stateSince →
       ∃ t, exec (.cleanPeriodEnd site) s = .next t ∧ (t.siteRec site).condition = 0 ∧
         (t.siteRec site).state = (if (s.siteRec site).state = 4 then 3 else (s.siteRec site).state) ∧
         (∀ k, k ≠ site → t.siteRec k = s.siteRec k)))

/-- R358 to R368, Tables 15.5 and 15.6: stage requests, the broadcast of a stage, its engagement, the release of a stage, and the THM
block. -/
def Obligations.ThrottleLadder : Prop :=
  (∀ (sector stage : Nat) (s : State), Sys2Proof.Inv s = true → s.arrives (.throttleRequest sector stage) = true →
     ∃ t, exec (.throttleRequest sector stage) s = .next t ∧
       t.throttle.requests = Sparse.set 0 s.throttle.requests sector stage ∧
       t.throttle.waiting = s.throttle.waiting.filter (· != sector) ∧ t.throttle.stage = s.throttle.stage ∧ t.sen = s.sen) ∧
  (∀ (unit stage : Nat) (engage : Dword) (s : State), Sys2Proof.Inv s = true → s.arrives (.throttleStage unit stage engage) = true → 0x4000 ≤ unit →
     ∃ t, exec (.throttleStage unit stage engage) s = .next t ∧ t.sen = s.sen ∧
       t.sent = s.sent.erase (.throttleStage unit stage engage) ++
         (s.liveSites.filter fun x => s.siteHub x = unit - 0x4000).map fun x => .throttleStage x stage engage) ∧
  (∀ (site stage : Nat) (engage : Dword) (s : State), Sys2Proof.Inv s = true → s.arrives (.throttleStage site stage engage) = true → site < 0x4000 →
     ((s.senOf site).silent = true → ∃ t, exec (.throttleStage site stage engage) s = .next t ∧ t.sen = s.sen) ∧
     ((s.senOf site).silent = false → s.slotAt site ≤ engage.toNat → ∃ t, exec (.throttleStage site stage engage) s = .next t ∧
       t.senOf site = pendStage engage.toNat stage (s.senOf site)) ∧
     ((s.senOf site).silent = false → engage.toNat < s.slotAt site → ∃ t, exec (.throttleStage site stage engage) s = .next t ∧
       (t.senOf site).stage = stage ∧ (t.senOf site).late = (engage.toNat, s.slotAt site) ∧ bitOf 2 (t.senOf site).alarm = true ∧
       (bitOf 2 (s.senOf site).alarm = false → .alarmLevel site 2 true {} ∈ t.sent))) ∧
  (∀ (s : State), Sys2Proof.Inv s = true →
     ((s.throttle.pending = [] ∨ 2 ≤ s.stop.state) → exec .throttleEngage s = .next s) ∧
     (∀ e k rest, s.throttle.pending = (e, k) :: rest → s.stop.state < 2 → ∃ t, exec .throttleEngage s = .next t ∧
       t.throttle.stage = k ∧ t.throttle.pending = rest ∧ t.throttle.screensAllowed = (s.throttle.screensAllowed && k == 0) ∧
       (∀ y, (t.senOf y).stage = (engageSite e (s.senOf y)).stage ∧
         (t.senOf y).stagePending = (engageSite e (s.senOf y)).stagePending))) ∧
  (∀ (sector low : Nat) (s : State), Sys2Proof.Inv s = true →
     low = (if (s.hubOf sector).thermal.tripped then 4 else if s.brokenHold sector then 2 else 0) →
     ((s.modelled sector = false ∨ (s.hubOf sector).thermal.releasing = false ∨ (s.hubOf sector).thermal.request ≤ low) →
       exec (.releaseHoldExpiry sector) s = .next s) ∧
     (s.modelled sector = true → (s.hubOf sector).thermal.releasing = true → low < (s.hubOf sector).thermal.request →
       ∃ t, exec (.releaseHoldExpiry sector) s = .next t ∧
         (t.hubOf sector).thermal.request = (s.hubOf sector).thermal.request - 1 ∧
         t.sent = s.sent ++ [.throttleRequest sector ((s.hubOf sector).thermal.request - 1)])) ∧
  (∀ (s : State), ∃ t, exec .thmUpdate s = .next t ∧ t.win.thm.stage = s.throttle.stage ∧ t.win.thm.sector = s.throttle.sector ∧
     t.win.thm.trip = s.throttle.trip ∧ t.win.thm.engage = BitVec.ofNat 64 s.throttle.engage ∧
     t.win.thm.broken = (List.range 96).filter (fun n => (s.sensorOf n).state = 1) ∧
     t.win.thm.retired = (List.range 96).filter (fun n => (s.sensorOf n).state = 2) ∧ t.throttle = s.throttle ∧ t.sen = s.sen)

/-- R354 to R362, R375, R376, R54, Tables 2.10, 15.2 and 15.7: the thermal model, its sensors, the units of a hub that wake, and actions
that waited for one of a higher rank. -/
def Obligations.ModelsAndUnits : Prop :=
  (∀ (sector : Nat) (s : State), Sys2Proof.Inv s = true →
     (s.modelled sector = false → exec (.modelStep sector) s = .next s) ∧
     (s.modelled sector = true → ∃ t, exec (.modelStep sector) s = .next t ∧
       (t.hubOf sector).thermal = ((modelStep sector s).hubOf sector).thermal ∧ (t.hubOf sector).thermal.t.length = 168 ∧
       t.throttle = s.throttle)) ∧
  (∀ (sector : Nat) (counts : List (Nat × List Word)) (diode : Int) (s : State), Sys2Proof.Inv s = true →
     (s.modelled sector = false → exec (.thermalSample sector counts diode) s = .next s) ∧
     (s.modelled sector = true → ∃ t, exec (.thermalSample sector counts diode) s = .next t ∧
       (t.hubOf sector).thermal.lastAt = s.hubRas ((s.server sector).getD sector) ∧
       (t.hubOf sector).thermal.t = (s.hubOf sector).thermal.t ∧ (t.hubOf sector).thermal.edge = (s.hubOf sector).thermal.t ∧
       ((s.hubOf sector).failed = false → (t.sensorOf sector).reading = some diode))) ∧
  (∀ (die : Nat) (readings : List Int) (s : State), Sys2Proof.Inv s = true →
     ∃ t, exec (.edgeDiodeRead die readings) s = .next t ∧
       (∀ k, k < 8 → k < readings.length → (t.sensorOf (80 + 8 * die + k)).reading = some (readings.getD k 0)) ∧
       (∀ n, n < 80 + 8 * die ∨ 88 + 8 * die ≤ n → t.sensorOf n = s.sensorOf n)) ∧
  (∀ (hub unit st : Nat) (s : State), Sys2Proof.Inv s = true →
     st = (if unit = 0 then (s.hubOf hub).solver else if unit = 1 then (s.hubOf hub).sequencer else (s.hubOf hub).engine) →
     ((st < 2 ∨ unit ∈ (s.hubOf hub).waking) → exec (.unitWakeStart hub unit) s = .next s) ∧
     (2 ≤ st → unit ∉ (s.hubOf hub).waking → ∃ t, exec (.unitWakeStart hub unit) s = .next t ∧
       (t.hubOf hub).waking = (s.hubOf hub).waking ++ [unit] ∧ (∀ h, h ≠ hub → t.hubOf h = s.hubOf h) ∧ t.sen = s.sen)) ∧
  (∀ (hub unit : Nat) (s : State), Sys2Proof.Inv s = true →
     (unit ∉ (s.hubOf hub).waking → exec (.unitWakeComplete hub unit) s = .next s) ∧
     (unit ∈ (s.hubOf hub).waking → (s.hubOf hub).wakeWaiting.filter (waitsFor unit) = [] →
       ∃ t, exec (.unitWakeComplete hub unit) s = .next t ∧ unit ∉ (t.hubOf hub).waking ∧
         (t.hubOf hub).wakeWaiting = (s.hubOf hub).wakeWaiting ∧
         (t.hubOf hub).solver = (if unit = 0 then 0 else (s.hubOf hub).solver) ∧
         (t.hubOf hub).sequencer = (if unit = 1 then 0 else (s.hubOf hub).sequencer) ∧
         (t.hubOf hub).engine = (if unit = 2 then 0 else (s.hubOf hub).engine)) ∧
     (∀ site sum, unit = 1 → 1 ∈ (s.hubOf hub).waking → s.siteHub site = hub → (s.hubOf hub).wakeWaiting = [.summary site sum] →
       ruleAction (s.hubOf (sectorOf site)).set sum = none →
       ∃ t, exec (.unitWakeComplete hub unit) s = .next t ∧ (t.hubOf hub).wakeWaiting = [] ∧ (t.hubOf hub).sequencer = 0)) ∧
  (∀ (scope number : Nat) (s : State),
     ((s.waits.find? fun w => w.scope = scope && w.number = number && s.mayStart w) = none →
       exec (.waitingActionStart scope number) s = .next s) ∧
     (∀ w site, (s.waits.find? fun w => w.scope = scope && w.number = number && s.mayStart w) = some w → w.act = .stopRequest site →
       exec (.waitingActionStart scope number) s = .next (requestStop site (setWaits (s.waits.erase w) s))) ∧
     (∀ w seq, (s.waits.find? fun w => w.scope = scope && w.number = number && s.mayStart w) = some w → w.act = .unitScreen seq →
       ∃ t, exec (.waitingActionStart scope number) s = .next t ∧ exec (.unitScreen seq) (setWaits (s.waits.erase w) s) = .next t))
end

