-- ==== Sys2Proof/Laws/Frame.lean ====
section
/-!
SUPPORT. Frames: for the updates of State that the model writes, which fields they leave as they are.
-/
namespace Sys2Proof.Machine

open Sys2Proof

theorem Fld.mono {φ : Fld} {F G : List Fld} (hφ : φ ∉ F) (h : G.all (fun x => F.contains x) = true) : φ ∉ G := by
  intro hg
  have := List.all_eq_true.mp h φ hg
  exact hφ (by simpa using this)

/-- A result that is a next state leaves field `φ` as it is in `s`. -/
def Kept (φ : Fld) (r : Result) (s : State) : Prop :=
  match r with
  | .next t => φ.get t = φ.get s
  | _ => True

theorem kept_next {φ : Fld} {s t : State} : Kept φ (.next t) s ↔ φ.get t = φ.get s := Iff.rfl

theorem kept_trans {φ : Fld} {r : Result} {s t : State} (h : Kept φ r t) (e : φ.get t = φ.get s) : Kept φ r s := by
  cases r with
  | next u => exact Eq.trans h e
  | fault _ => trivial
  | refused _ => trivial

theorem get_ite {φ : Fld} (c : Prop) [Decidable c] (a b : State) :
    φ.get (if c then a else b) = if c then φ.get a else φ.get b := apply_ite _ _ _ _

theorem get_ite_of {φ : Fld} {c : Prop} [Decidable c] {a b : State} {x : φ.type} (ha : c → φ.get a = x) (hb : ¬c → φ.get b = x) :
    φ.get (if c then a else b) = x := by
  split
  · exact ha ‹_›
  · exact hb ‹_›

theorem kept_ite {φ : Fld} {c : Prop} [Decidable c] {a b : Result} {s : State} (ha : c → Kept φ a s) (hb : ¬c → Kept φ b s) :
    Kept φ (if c then a else b) s := by
  split
  · exact ha ‹_›
  · exact hb ‹_›

theorem each_get {α : Type} {φ : Fld} (xs : List α) (g : α → State → State)
    (h : ∀ a y, φ.get (g a y) = φ.get y) (s : State) : φ.get (each xs g s) = φ.get s := by
  induction xs generalizing s with
  | nil => rfl
  | cons a xs ih => exact (ih (g a s)).trans (h a s)

theorem foldl_fst_get {α β : Type} {φ : Fld} (xs : List α) (g : State × β → α → State × β)
    (h : ∀ y a, φ.get (g y a).1 = φ.get y.1) (s : State × β) : φ.get (xs.foldl g s).1 = φ.get s.1 := by
  induction xs generalizing s with
  | nil => rfl
  | cons a xs ih => exact (ih (g s a)).trans (h s a)

theorem foldl_snd_get {α β : Type} {φ : Fld} (xs : List α) (g : β × State → α → β × State)
    (h : ∀ y a, φ.get (g y a).2 = φ.get y.2) (s : β × State) : φ.get (xs.foldl g s).2 = φ.get s.2 := by
  induction xs generalizing s with
  | nil => rfl
  | cons a xs ih => exact (ih (g s a)).trans (h s a)

theorem foldl_get {α : Type} {φ : Fld} (xs : List α) (g : State → α → State)
    (h : ∀ y a, φ.get (g y a) = φ.get y) (s : State) : φ.get (xs.foldl g s) = φ.get s := by
  induction xs generalizing s with
  | nil => rfl
  | cons a xs ih => exact (ih (g s a)).trans (h s a)


end Sys2Proof.Machine
end

