-- ==== Sys2Proof/Laws/FrameOps.lean ====
section
/-!
SUPPORT. Frames of the operations of Machine/Ops.lean.
-/
namespace Sys2Proof.Machine

open Sys2Proof

set_option linter.all false
set_option Elab.async false

theorem setSlot_get {φ : Fld} (hφ : φ ∉ [.slot]) (v : Nat) (s : State)  :
    φ.get (setSlot v s) = φ.get s := by
  cases φ <;> first | exact rfl | exact absurd (by decide) hφ | (unfold setSlot; split <;> rfl)

theorem setSent_get {φ : Fld} (hφ : φ ∉ [.sent]) (v : List Instr) (s : State)  :
    φ.get (setSent v s) = φ.get s := by
  cases φ <;> first | exact rfl | exact absurd (by decide) hφ | (unfold setSent; split <;> rfl)

theorem setPowered_get {φ : Fld} (hφ : φ ∉ [.powered]) (v : Bool) (s : State)  :
    φ.get (setPowered v s) = φ.get s := by
  cases φ <;> first | exact rfl | exact absurd (by decide) hφ | (unfold setPowered; split <;> rfl)

theorem setWarn_get {φ : Fld} (hφ : φ ∉ [.warn]) (v : Bool) (s : State)  :
    φ.get (setWarn v s) = φ.get s := by
  cases φ <;> first | exact rfl | exact absurd (by decide) hφ | (unfold setWarn; split <;> rfl)

theorem setNoRuns_get {φ : Fld} (hφ : φ ∉ [.noRuns]) (v : Bool) (s : State)  :
    φ.get (setNoRuns v s) = φ.get s := by
  cases φ <;> first | exact rfl | exact absurd (by decide) hφ | (unfold setNoRuns; split <;> rfl)

theorem setImage_get {φ : Fld} (hφ : φ ∉ [.image]) (v : Image) (s : State)  :
    φ.get (setImage v s) = φ.get s := by
  cases φ <;> first | exact rfl | exact absurd (by decide) hφ | (unfold setImage; split <;> rfl)

theorem setActive_get {φ : Fld} (hφ : φ ∉ [.active]) (v : Nat) (s : State)  :
    φ.get (setActive v s) = φ.get s := by
  cases φ <;> first | exact rfl | exact absurd (by decide) hφ | (unfold setActive; split <;> rfl)

theorem setFailover_get {φ : Fld} (hφ : φ ∉ [.failover]) (v : Bool) (s : State)  :
    φ.get (setFailover v s) = φ.get s := by
  cases φ <;> first | exact rfl | exact absurd (by decide) hφ | (unfold setFailover; split <;> rfl)

theorem setChecked_get {φ : Fld} (hφ : φ ∉ [.checked]) (v : Bool) (s : State)  :
    φ.get (setChecked v s) = φ.get s := by
  cases φ <;> first | exact rfl | exact absurd (by decide) hφ | (unfold setChecked; split <;> rfl)

theorem setTakeover_get {φ : Fld} (hφ : φ ∉ [.takeover]) (v : List Nat) (s : State)  :
    φ.get (setTakeover v s) = φ.get s := by
  cases φ <;> first | exact rfl | exact absurd (by decide) hφ | (unfold setTakeover; split <;> rfl)

theorem setSwitchSeq_get {φ : Fld} (hφ : φ ∉ [.switchSeq]) (v : Nat) (s : State)  :
    φ.get (setSwitchSeq v s) = φ.get s := by
  cases φ <;> first | exact rfl | exact absurd (by decide) hφ | (unfold setSwitchSeq; split <;> rfl)

theorem setSwitchOk_get {φ : Fld} (hφ : φ ∉ [.switchOk]) (v : Bool) (s : State)  :
    φ.get (setSwitchOk v s) = φ.get s := by
  cases φ <;> first | exact rfl | exact absurd (by decide) hφ | (unfold setSwitchOk; split <;> rfl)

theorem setJournalSeq_get {φ : Fld} (hφ : φ ∉ [.journalSeq]) (v : Nat) (s : State)  :
    φ.get (setJournalSeq v s) = φ.get s := by
  cases φ <;> first | exact rfl | exact absurd (by decide) hφ | (unfold setJournalSeq; split <;> rfl)

theorem setJournal_get {φ : Fld} (hφ : φ ∉ [.journal]) (v : List JournalEntry) (s : State)  :
    φ.get (setJournal v s) = φ.get s := by
  cases φ <;> first | exact rfl | exact absurd (by decide) hφ | (unfold setJournal; split <;> rfl)

theorem setAuditAlarm_get {φ : Fld} (hφ : φ ∉ [.auditAlarm]) (v : Bool) (s : State)  :
    φ.get (setAuditAlarm v s) = φ.get s := by
  cases φ <;> first | exact rfl | exact absurd (by decide) hφ | (unfold setAuditAlarm; split <;> rfl)

theorem setRasBaseA_get {φ : Fld} (hφ : φ ∉ [.rasBaseA]) (v : Dword) (s : State)  :
    φ.get (setRasBaseA v s) = φ.get s := by
  cases φ <;> first | exact rfl | exact absurd (by decide) hφ | (unfold setRasBaseA; split <;> rfl)

theorem setRasAtA_get {φ : Fld} (hφ : φ ∉ [.rasAtA]) (v : Nat) (s : State)  :
    φ.get (setRasAtA v s) = φ.get s := by
  cases φ <;> first | exact rfl | exact absurd (by decide) hφ | (unfold setRasAtA; split <;> rfl)

theorem setRasBaseB_get {φ : Fld} (hφ : φ ∉ [.rasBaseB]) (v : Dword) (s : State)  :
    φ.get (setRasBaseB v s) = φ.get s := by
  cases φ <;> first | exact rfl | exact absurd (by decide) hφ | (unfold setRasBaseB; split <;> rfl)

theorem setRasAtB_get {φ : Fld} (hφ : φ ∉ [.rasAtB]) (v : Nat) (s : State)  :
    φ.get (setRasAtB v s) = φ.get s := by
  cases φ <;> first | exact rfl | exact absurd (by decide) hφ | (unfold setRasAtB; split <;> rfl)

theorem setRasArmedB_get {φ : Fld} (hφ : φ ∉ [.rasArmedB]) (v : Option Dword) (s : State)  :
    φ.get (setRasArmedB v s) = φ.get s := by
  cases φ <;> first | exact rfl | exact absurd (by decide) hφ | (unfold setRasArmedB; split <;> rfl)

theorem setRasCheck_get {φ : Fld} (hφ : φ ∉ [.rasCheck]) (v : List Nat) (s : State)  :
    φ.get (setRasCheck v s) = φ.get s := by
  cases φ <;> first | exact rfl | exact absurd (by decide) hφ | (unfold setRasCheck; split <;> rfl)

theorem setSyncRas_get {φ : Fld} (hφ : φ ∉ [.syncRas]) (v : Dword) (s : State)  :
    φ.get (setSyncRas v s) = φ.get s := by
  cases φ <;> first | exact rfl | exact absurd (by decide) hφ | (unfold setSyncRas; split <;> rfl)

theorem setFlashA_get {φ : Fld} (hφ : φ ∉ [.flashA]) (v : Memory) (s : State)  :
    φ.get (setFlashA v s) = φ.get s := by
  cases φ <;> first | exact rfl | exact absurd (by decide) hφ | (unfold setFlashA; split <;> rfl)

theorem setFlashB_get {φ : Fld} (hφ : φ ∉ [.flashB]) (v : Memory) (s : State)  :
    φ.get (setFlashB v s) = φ.get s := by
  cases φ <;> first | exact rfl | exact absurd (by decide) hφ | (unfold setFlashB; split <;> rfl)

theorem setSetA_get {φ : Fld} (hφ : φ ∉ [.setA]) (v : List Settings) (s : State)  :
    φ.get (setSetA v s) = φ.get s := by
  cases φ <;> first | exact rfl | exact absurd (by decide) hφ | (unfold setSetA; split <;> rfl)

theorem setSetB_get {φ : Fld} (hφ : φ ∉ [.setB]) (v : List Settings) (s : State)  :
    φ.get (setSetB v s) = φ.get s := by
  cases φ <;> first | exact rfl | exact absurd (by decide) hφ | (unfold setSetB; split <;> rfl)

theorem setSetBusy_get {φ : Fld} (hφ : φ ∉ [.setBusy]) (v : Option (Nat × Nat × Nat)) (s : State)  :
    φ.get (setSetBusy v s) = φ.get s := by
  cases φ <;> first | exact rfl | exact absurd (by decide) hφ | (unfold setSetBusy; split <;> rfl)

theorem setStageOpen_get {φ : Fld} (hφ : φ ∉ [.stageOpen]) (v : Bool) (s : State)  :
    φ.get (setStageOpen v s) = φ.get s := by
  cases φ <;> first | exact rfl | exact absurd (by decide) hφ | (unfold setStageOpen; split <;> rfl)

theorem setStageNext_get {φ : Fld} (hφ : φ ∉ [.stageNext]) (v : Nat) (s : State)  :
    φ.get (setStageNext v s) = φ.get s := by
  cases φ <;> first | exact rfl | exact absurd (by decide) hφ | (unfold setStageNext; split <;> rfl)

theorem setStageErased_get {φ : Fld} (hφ : φ ∉ [.stageErased]) (v : List Nat) (s : State)  :
    φ.get (setStageErased v s) = φ.get s := by
  cases φ <;> first | exact rfl | exact absurd (by decide) hφ | (unfold setStageErased; split <;> rfl)

theorem setMramA_get {φ : Fld} (hφ : φ ∉ [.mramA]) (v : Memory) (s : State)  :
    φ.get (setMramA v s) = φ.get s := by
  cases φ <;> first | exact rfl | exact absurd (by decide) hφ | (unfold setMramA; split <;> rfl)

theorem setMramB_get {φ : Fld} (hφ : φ ∉ [.mramB]) (v : Memory) (s : State)  :
    φ.get (setMramB v s) = φ.get s := by
  cases φ <;> first | exact rfl | exact absurd (by decide) hφ | (unfold setMramB; split <;> rfl)

theorem setUnflushed_get {φ : Fld} (hφ : φ ∉ [.unflushed]) (v : List Nat) (s : State)  :
    φ.get (setUnflushed v s) = φ.get s := by
  cases φ <;> first | exact rfl | exact absurd (by decide) hφ | (unfold setUnflushed; split <;> rfl)

theorem setDeepPassed_get {φ : Fld} (hφ : φ ∉ [.deepPassed]) (v : List Nat) (s : State)  :
    φ.get (setDeepPassed v s) = φ.get s := by
  cases φ <;> first | exact rfl | exact absurd (by decide) hφ | (unfold setDeepPassed; split <;> rfl)

theorem setSpareAt_get {φ : Fld} (hφ : φ ∉ [.spareAt]) (v : Sparse Nat) (s : State)  :
    φ.get (setSpareAt v s) = φ.get s := by
  cases φ <;> first | exact rfl | exact absurd (by decide) hφ | (unfold setSpareAt; split <;> rfl)

theorem setMarginPrev_get {φ : Fld} (hφ : φ ∉ [.marginPrev]) (v : Sparse Nat) (s : State)  :
    φ.get (setMarginPrev v s) = φ.get s := by
  cases φ <;> first | exact rfl | exact absurd (by decide) hφ | (unfold setMarginPrev; split <;> rfl)

theorem setSparesLow_get {φ : Fld} (hφ : φ ∉ [.sparesLow]) (v : Sparse Nat) (s : State)  :
    φ.get (setSparesLow v s) = φ.get s := by
  cases φ <;> first | exact rfl | exact absurd (by decide) hφ | (unfold setSparesLow; split <;> rfl)

theorem setSensors_get {φ : Fld} (hφ : φ ∉ [.sensors]) (v : Sparse Sensor) (s : State)  :
    φ.get (setSensors v s) = φ.get s := by
  cases φ <;> first | exact rfl | exact absurd (by decide) hφ | (unfold setSensors; split <;> rfl)

theorem setSramLog_get {φ : Fld} (hφ : φ ∉ [.sramLog]) (v : List SramRepair) (s : State)  :
    φ.get (setSramLog v s) = φ.get s := by
  cases φ <;> first | exact rfl | exact absurd (by decide) hφ | (unfold setSramLog; split <;> rfl)

theorem setMemLog_get {φ : Fld} (hφ : φ ∉ [.memLog]) (v : List (Nat × Nat × Nat)) (s : State)  :
    φ.get (setMemLog v s) = φ.get s := by
  cases φ <;> first | exact rfl | exact absurd (by decide) hφ | (unfold setMemLog; split <;> rfl)

theorem setSen_get {φ : Fld} (hφ : φ ∉ [.sen]) (v : Sparse Sentinel) (s : State)  :
    φ.get (setSen v s) = φ.get s := by
  cases φ <;> first | exact rfl | exact absurd (by decide) hφ | (unfold setSen; split <;> rfl)

theorem setHub_get {φ : Fld} (hφ : φ ∉ [.hub]) (v : Sparse Hub) (s : State)  :
    φ.get (setHub v s) = φ.get s := by
  cases φ <;> first | exact rfl | exact absurd (by decide) hφ | (unfold setHub; split <;> rfl)

theorem setPart_get {φ : Fld} (hφ : φ ∉ [.part]) (v : Sparse Partition) (s : State)  :
    φ.get (setPart v s) = φ.get s := by
  cases φ <;> first | exact rfl | exact absurd (by decide) hφ | (unfold setPart; split <;> rfl)

theorem setXlat0_get {φ : Fld} (hφ : φ ∉ [.xlat0]) (v : Sparse Nat) (s : State)  :
    φ.get (setXlat0 v s) = φ.get s := by
  cases φ <;> first | exact rfl | exact absurd (by decide) hφ | (unfold setXlat0; split <;> rfl)

theorem setXlat1_get {φ : Fld} (hφ : φ ∉ [.xlat1]) (v : Sparse Nat) (s : State)  :
    φ.get (setXlat1 v s) = φ.get s := by
  cases φ <;> first | exact rfl | exact absurd (by decide) hφ | (unfold setXlat1; split <;> rfl)

theorem setRoutes0_get {φ : Fld} (hφ : φ ∉ [.routes0]) (v : Sparse (List (Nat × Nat))) (s : State)  :
    φ.get (setRoutes0 v s) = φ.get s := by
  cases φ <;> first | exact rfl | exact absurd (by decide) hφ | (unfold setRoutes0; split <;> rfl)

theorem setRoutes1_get {φ : Fld} (hφ : φ ∉ [.routes1]) (v : Sparse (List (Nat × Nat))) (s : State)  :
    φ.get (setRoutes1 v s) = φ.get s := by
  cases φ <;> first | exact rfl | exact absurd (by decide) hφ | (unfold setRoutes1; split <;> rfl)

theorem setScreens_get {φ : Fld} (hφ : φ ∉ [.screens]) (v : Sparse (Option Screen)) (s : State)  :
    φ.get (setScreens v s) = φ.get s := by
  cases φ <;> first | exact rfl | exact absurd (by decide) hφ | (unfold setScreens; split <;> rfl)

theorem setScreenReqs_get {φ : Fld} (hφ : φ ∉ [.screenReqs]) (v : List (Nat × Nat)) (s : State)  :
    φ.get (setScreenReqs v s) = φ.get s := by
  cases φ <;> first | exact rfl | exact absurd (by decide) hφ | (unfold setScreenReqs; split <;> rfl)

theorem setNet_get {φ : Fld} (hφ : φ ∉ [.net]) (v : Sparse Nat) (s : State)  :
    φ.get (setNet v s) = φ.get s := by
  cases φ <;> first | exact rfl | exact absurd (by decide) hφ | (unfold setNet; split <;> rfl)

theorem setLinks_get {φ : Fld} (hφ : φ ∉ [.links]) (v : List MidLink) (s : State)  :
    φ.get (setLinks v s) = φ.get s := by
  cases φ <;> first | exact rfl | exact absurd (by decide) hφ | (unfold setLinks; split <;> rfl)

theorem setGraph_get {φ : Fld} (hφ : φ ∉ [.graph]) (v : List (Edge × Dword)) (s : State)  :
    φ.get (setGraph v s) = φ.get s := by
  cases φ <;> first | exact rfl | exact absurd (by decide) hφ | (unfold setGraph; split <;> rfl)

theorem setThrottle_get {φ : Fld} (hφ : φ ∉ [.throttle]) (v : Throttle) (s : State)  :
    φ.get (setThrottle v s) = φ.get s := by
  cases φ <;> first | exact rfl | exact absurd (by decide) hφ | (unfold setThrottle; split <;> rfl)

theorem setStop_get {φ : Fld} (hφ : φ ∉ [.stop]) (v : Stop) (s : State)  :
    φ.get (setStop v s) = φ.get s := by
  cases φ <;> first | exact rfl | exact absurd (by decide) hφ | (unfold setStop; split <;> rfl)

theorem setWaits_get {φ : Fld} (hφ : φ ∉ [.waits]) (v : List WaitAct) (s : State)  :
    φ.get (setWaits v s) = φ.get s := by
  cases φ <;> first | exact rfl | exact absurd (by decide) hφ | (unfold setWaits; split <;> rfl)

theorem setGcount_get {φ : Fld} (hφ : φ ∉ [.gcount]) (v : Sparse Nat) (s : State)  :
    φ.get (setGcount v s) = φ.get s := by
  cases φ <;> first | exact rfl | exact absurd (by decide) hφ | (unfold setGcount; split <;> rfl)

theorem setDrainId_get {φ : Fld} (hφ : φ ∉ [.drainId]) (v : Nat) (s : State)  :
    φ.get (setDrainId v s) = φ.get s := by
  cases φ <;> first | exact rfl | exact absurd (by decide) hφ | (unfold setDrainId; split <;> rfl)

theorem setArmId_get {φ : Fld} (hφ : φ ∉ [.armId]) (v : Nat) (s : State)  :
    φ.get (setArmId v s) = φ.get s := by
  cases φ <;> first | exact rfl | exact absurd (by decide) hφ | (unfold setArmId; split <;> rfl)

theorem setScanId_get {φ : Fld} (hφ : φ ∉ [.scanId]) (v : Nat) (s : State)  :
    φ.get (setScanId v s) = φ.get s := by
  cases φ <;> first | exact rfl | exact absurd (by decide) hφ | (unfold setScanId; split <;> rfl)

theorem setDram_get {φ : Fld} (hφ : φ ∉ [.dram]) (v : Memory) (s : State)  :
    φ.get (setDram v s) = φ.get s := by
  cases φ <;> first | exact rfl | exact absurd (by decide) hφ | (unfold setDram; split <;> rfl)

theorem setRecorder_get {φ : Fld} (hφ : φ ∉ [.recorder]) (v : Recorder) (s : State)  :
    φ.get (setRecorder v s) = φ.get s := by
  cases φ <;> first | exact rfl | exact absurd (by decide) hφ | (unfold setRecorder; split <;> rfl)

theorem setCoreTx_get {φ : Fld} (hφ : φ ∉ [.coreTx]) (v : List CoreMsg) (s : State)  :
    φ.get (setCoreTx v s) = φ.get s := by
  cases φ <;> first | exact rfl | exact absurd (by decide) hφ | (unfold setCoreTx; split <;> rfl)

theorem setCoreNaks_get {φ : Fld} (hφ : φ ∉ [.coreNaks]) (v : Nat) (s : State)  :
    φ.get (setCoreNaks v s) = φ.get s := by
  cases φ <;> first | exact rfl | exact absurd (by decide) hφ | (unfold setCoreNaks; split <;> rfl)

theorem setLossRejected_get {φ : Fld} (hφ : φ ∉ [.lossRejected]) (v : Nat) (s : State)  :
    φ.get (setLossRejected v s) = φ.get s := by
  cases φ <;> first | exact rfl | exact absurd (by decide) hφ | (unfold setLossRejected; split <;> rfl)

theorem setCoreTag_get {φ : Fld} (hφ : φ ∉ [.coreTag]) (v : Nat) (s : State)  :
    φ.get (setCoreTag v s) = φ.get s := by
  cases φ <;> first | exact rfl | exact absurd (by decide) hφ | (unfold setCoreTag; split <;> rfl)

theorem setAnswers_get {φ : Fld} (hφ : φ ∉ [.answers]) (v : List Answer) (s : State)  :
    φ.get (setAnswers v s) = φ.get s := by
  cases φ <;> first | exact rfl | exact absurd (by decide) hφ | (unfold setAnswers; split <;> rfl)

theorem setFree_get {φ : Fld} (hφ : φ ∉ [.free]) (v : Nat) (s : State)  :
    φ.get (setFree v s) = φ.get s := by
  cases φ <;> first | exact rfl | exact absurd (by decide) hφ | (unfold setFree; split <;> rfl)

theorem modSen_get {φ : Fld} (hφ : φ ∉ [.sen]) (site : Nat) (f : Sentinel → Sentinel) (s : State)  :
    φ.get (modSen site f s) = φ.get s := by
  cases φ <;> first | exact rfl | exact absurd (by decide) hφ | (unfold modSen; split <;> rfl)

theorem modHub_get {φ : Fld} (hφ : φ ∉ [.hub]) (h : Nat) (f : Hub → Hub) (s : State)  :
    φ.get (modHub h f s) = φ.get s := by
  cases φ <;> first | exact rfl | exact absurd (by decide) hφ | (unfold modHub; split <;> rfl)

theorem modPart_get {φ : Fld} (hφ : φ ∉ [.part]) (p : Nat) (f : Partition → Partition) (s : State)  :
    φ.get (modPart p f s) = φ.get s := by
  cases φ <;> first | exact rfl | exact absurd (by decide) hφ | (unfold modPart; split <;> rfl)

theorem modSite_get {φ : Fld} (hφ : φ ∉ [.health]) (site : Nat) (f : SiteRec → SiteRec) (s : State)  :
    φ.get (modSite site f s) = φ.get s := by
  cases φ <;> first | exact rfl | exact absurd (by decide) hφ | (unfold modSite; split <;> rfl)

theorem modSensor_get {φ : Fld} (hφ : φ ∉ [.sensors]) (n : Nat) (f : Sensor → Sensor) (s : State)  :
    φ.get (modSensor n f s) = φ.get s := by
  cases φ <;> first | exact rfl | exact absurd (by decide) hφ | (unfold modSensor; split <;> rfl)

theorem modChannel_get {φ : Fld} (hφ : φ ∉ [.win]) (c : Nat) (f : Channel → Channel) (s : State)  :
    φ.get (modChannel c f s) = φ.get s := by
  cases φ <;> first | exact rfl | exact absurd (by decide) hφ | (unfold modChannel; split <;> rfl)

theorem modWin_get {φ : Fld} (hφ : φ ∉ [.win]) (f : Window → Window) (s : State)  :
    φ.get (modWin f s) = φ.get s := by
  cases φ <;> first | exact rfl | exact absurd (by decide) hφ | (unfold modWin; split <;> rfl)

theorem modRec_get {φ : Fld} (hφ : φ ∉ [.recorder]) (f : Recorder → Recorder) (s : State)  :
    φ.get (modRec f s) = φ.get s := by
  cases φ <;> first | exact rfl | exact absurd (by decide) hφ | (unfold modRec; split <;> rfl)

theorem modStop_get {φ : Fld} (hφ : φ ∉ [.stop]) (f : Stop → Stop) (s : State)  :
    φ.get (modStop f s) = φ.get s := by
  cases φ <;> first | exact rfl | exact absurd (by decide) hφ | (unfold modStop; split <;> rfl)

theorem modThrottle_get {φ : Fld} (hφ : φ ∉ [.throttle]) (f : Throttle → Throttle) (s : State)  :
    φ.get (modThrottle f s) = φ.get s := by
  cases φ <;> first | exact rfl | exact absurd (by decide) hφ | (unfold modThrottle; split <;> rfl)

theorem modBoot_get {φ : Fld} (hφ : φ ∉ [.boot]) (f : Boot → Boot) (s : State)  :
    φ.get (modBoot f s) = φ.get s := by
  cases φ <;> first | exact rfl | exact absurd (by decide) hφ | (unfold modBoot; split <;> rfl)

theorem modPort_get {φ : Fld} (hφ : φ ∉ [.portA, .portB]) (die : Nat) (f : Port → Port) (s : State)  :
    φ.get (modPort die f s) = φ.get s := by
  cases φ <;> first | exact rfl | exact absurd (by decide) hφ | (unfold modPort; split <;> rfl)

theorem modMgr_get {φ : Fld} (hφ : φ ∉ [.mgrA, .mgrB]) (die : Nat) (f : Manager → Manager) (s : State)  :
    φ.get (modMgr die f s) = φ.get s := by
  cases φ <;> first | exact rfl | exact absurd (by decide) hφ | (unfold modMgr; split <;> rfl)

theorem modIsland_get {φ : Fld} (hφ : φ ∉ [.islandA, .islandB]) (die : Nat) (f : Island → Island) (s : State)  :
    φ.get (modIsland die f s) = φ.get s := by
  cases φ <;> first | exact rfl | exact absurd (by decide) hφ | (unfold modIsland; split <;> rfl)

theorem countSen_get {φ : Fld} (hφ : φ ∉ [.sen]) (site k n : Nat) (s : State)  :
    φ.get (countSen site k n s) = φ.get s := by
  have h0 := @modSen_get φ (hφ)
  unfold countSen
  with_reducible
    repeat' first
    | rfl | refine (h0 _ _ _).trans ?_ | refine get_ite_of (fun _ => ?_) (fun _ => ?_) | split | dsimp only

theorem countHub_get {φ : Fld} (hφ : φ ∉ [.hub]) (h k n : Nat) (s : State)  :
    φ.get (countHub h k n s) = φ.get s := by
  have h0 := @modHub_get φ (hφ)
  unfold countHub
  with_reducible
    repeat' first
    | rfl | refine (h0 _ _ _).trans ?_ | refine get_ite_of (fun _ => ?_) (fun _ => ?_) | split | dsimp only

theorem countGlobal_get {φ : Fld} (hφ : φ ∉ [.gcount]) (p k n : Nat) (s : State)  :
    φ.get (countGlobal p k n s) = φ.get s := by
  have h0 := @setGcount_get φ (hφ)
  unfold countGlobal
  with_reducible
    repeat' first
    | rfl | refine (h0 _ _).trans ?_ | refine get_ite_of (fun _ => ?_) (fun _ => ?_) | split | dsimp only

theorem holdSlot_get {φ : Fld} (hφ : φ ∉ [.sen]) (site : Nat) (s : State)  :
    φ.get (holdSlot site s) = φ.get s := by
  have h0 := @modSen_get φ (hφ)
  unfold holdSlot
  with_reducible
    repeat' first
    | rfl | refine (h0 _ _ _).trans ?_ | refine get_ite_of (fun _ => ?_) (fun _ => ?_) | split | dsimp only

theorem send_get {φ : Fld} (hφ : φ ∉ [.sent]) (m : Instr) (s : State)  :
    φ.get (send m s) = φ.get s := by
  cases φ <;> first | exact rfl | exact absurd (by decide) hφ | (unfold send; split <;> rfl)

theorem respond_get {φ : Fld} (hφ : φ ∉ [.answers]) (unit cls opcode : Nat) (words : List Word) (s : State)  :
    φ.get (respond unit cls opcode words s) = φ.get s := by
  have h0 := @setAnswers_get φ (hφ)
  unfold respond
  with_reducible
    repeat' first
    | rfl | refine (h0 _ _).trans ?_ | refine get_ite_of (fun _ => ?_) (fun _ => ?_) | split | dsimp only

theorem sendAll_get {φ : Fld} (hφ : φ ∉ [.sent]) (ms : List Instr) (s : State)  :
    φ.get (sendAll ms s) = φ.get s := by
  cases φ <;> first | exact rfl | exact absurd (by decide) hφ | (unfold sendAll; split <;> rfl)

theorem sendGroup_get {φ : Fld} (hφ : φ ∉ [.sent]) (group : Nat) (f : Nat → Instr) (s : State)  :
    φ.get (sendGroup group f s) = φ.get s := by
  have h0 := @sendAll_get φ (hφ)
  unfold sendGroup
  with_reducible
    repeat' first
    | rfl | refine (h0 _ _).trans ?_ | refine get_ite_of (fun _ => ?_) (fun _ => ?_) | split | dsimp only

theorem loadTime_get {φ : Fld} (hφ : φ ∉ [.sent]) (s : State)  :
    φ.get (loadTime s) = φ.get s := by
  have h0 := @send_get φ (hφ)
  have h1 := @sendGroup_get φ (hφ)
  unfold loadTime
  with_reducible
    repeat' first
    | rfl | refine (h0 _ _).trans ?_ | refine (h1 _ _ _).trans ?_ | refine get_ite_of (fun _ => ?_) (fun _ => ?_)
    | split | dsimp only

theorem receive_get {φ : Fld} (hφ : φ ∉ [.sent, .hub]) (m : Instr) (s : State)  :
    φ.get (receive m s) = φ.get s := by
  have h0 := @countHub_get φ (Fld.mono hφ rfl)
  have h1 := @modHub_get φ (Fld.mono hφ rfl)
  have h2 := @setSent_get φ (Fld.mono hφ rfl)
  unfold receive
  with_reducible
    repeat' first
    | rfl | refine (h0 _ _ _ _).trans ?_ | refine (h1 _ _ _).trans ?_ | refine (h2 _ _).trans ?_
    | refine (each_get _ _ (fun _ _ => ?_) _).trans ?_ | refine get_ite_of (fun _ => ?_) (fun _ => ?_) | split
    | dsimp only

theorem holdBack_get {φ : Fld} (hφ : φ ∉ [.sent, .hub]) (m : Instr) (s : State)  :
    φ.get (holdBack m s) = φ.get s := by
  have h0 := @countHub_get φ (Fld.mono hφ rfl)
  have h1 := @modHub_get φ (Fld.mono hφ rfl)
  have h2 := @setSent_get φ (Fld.mono hφ rfl)
  unfold holdBack
  with_reducible
    repeat' first
    | rfl | refine (h0 _ _ _ _).trans ?_ | refine (h1 _ _ _).trans ?_ | refine (h2 _ _).trans ?_
    | refine get_ite_of (fun _ => ?_) (fun _ => ?_) | split | dsimp only

theorem arrive_kept {φ : Fld} (hφ : φ ∉ [.sent, .hub]) (m : Instr) (f : State → State) (s : State) (h : ∀ y, φ.get (f y) = φ.get y) :
    Kept φ (arrive m f s) s := by
  have h0 := @holdBack_get φ (hφ)
  have h1 := @receive_get φ (hφ)
  unfold arrive
  split
  · exact kept_next.2 ((h _).trans (h1 _ _))
  · exact kept_next.2 (h0 _ _)

theorem reportDrops_get {φ : Fld} (hφ : φ ∉ [.sent, .sen]) (site : Nat) (s : State)  :
    φ.get (reportDrops site s) = φ.get s := by
  have h0 := @modSen_get φ (Fld.mono hφ rfl)
  have h1 := @send_get φ (Fld.mono hφ rfl)
  unfold reportDrops
  with_reducible
    repeat' first
    | rfl | refine (h0 _ _ _).trans ?_ | refine (h1 _ _).trans ?_ | refine get_ite_of (fun _ => ?_) (fun _ => ?_)
    | split | dsimp only

theorem senReport_get {φ : Fld} (hφ : φ ∉ [.sent, .sen]) (site : Nat) (m : Instr) (s : State)  :
    φ.get (senReport site m s) = φ.get s := by
  have h0 := @modSen_get φ (Fld.mono hφ rfl)
  have h1 := @reportDrops_get φ (hφ)
  have h2 := @send_get φ (Fld.mono hφ rfl)
  have h3 := @setSent_get φ (Fld.mono hφ rfl)
  unfold senReport
  with_reducible
    repeat' first
    | rfl | refine (h0 _ _ _).trans ?_ | refine (h1 _ _).trans ?_ | refine (h2 _ _).trans ?_
    | refine (h3 _ _).trans ?_ | refine get_ite_of (fun _ => ?_) (fun _ => ?_) | split | dsimp only

theorem senEvent_get {φ : Fld} (hφ : φ ∉ [.sent, .sen]) (site code : Nat) (payload : List Byte) (s : State)  :
    φ.get (senEvent site code payload s) = φ.get s := by
  have h0 := @senReport_get φ (hφ)
  unfold senEvent
  with_reducible
    repeat' first
    | rfl | refine (h0 _ _ _).trans ?_ | refine get_ite_of (fun _ => ?_) (fun _ => ?_) | split | dsimp only

theorem hubEvent_get {φ : Fld} (hφ : φ ∉ [.sent]) (h code : Nat) (payload : List Byte) (s : State)  :
    φ.get (hubEvent h code payload s) = φ.get s := by
  have h0 := @send_get φ (hφ)
  unfold hubEvent
  with_reducible
    repeat' first
    | rfl | refine (h0 _ _).trans ?_ | refine get_ite_of (fun _ => ?_) (fun _ => ?_) | split | dsimp only

theorem journalize_get {φ : Fld} (hφ : φ ∉ [.sent, .journalSeq, .journal]) (kind object trigger before after aux : Nat) (s : State)  :
    φ.get (journalize kind object trigger before after aux s) = φ.get s := by
  have h0 := @send_get φ (Fld.mono hφ rfl)
  have h1 := @setJournal_get φ (Fld.mono hφ rfl)
  have h2 := @setJournalSeq_get φ (Fld.mono hφ rfl)
  unfold journalize
  with_reducible
    repeat' first
    | rfl | refine (h0 _ _).trans ?_ | refine (h1 _ _).trans ?_ | refine (h2 _ _).trans ?_
    | refine get_ite_of (fun _ => ?_) (fun _ => ?_) | split | dsimp only

theorem mramPut_get {φ : Fld} (hφ : φ ∉ [.mramA, .mramB]) (die off : Nat) (bs : List Byte) (s : State)  :
    φ.get (mramPut die off bs s) = φ.get s := by
  have h0 := @setMramA_get φ (Fld.mono hφ rfl)
  have h1 := @setMramB_get φ (Fld.mono hφ rfl)
  unfold mramPut
  with_reducible
    repeat' first
    | rfl | refine (h0 _ _).trans ?_ | refine (h1 _ _).trans ?_ | refine get_ite_of (fun _ => ?_) (fun _ => ?_)
    | split | dsimp only

theorem mramBoth_get {φ : Fld} (hφ : φ ∉ [.sent, .mramA, .mramB]) (off : Nat) (bs : List Byte) (s : State)  :
    φ.get (mramBoth off bs s) = φ.get s := by
  have h0 := @mramPut_get φ (Fld.mono hφ rfl)
  have h1 := @sendAll_get φ (Fld.mono hφ rfl)
  unfold mramBoth
  with_reducible
    repeat' first
    | rfl | refine (h0 _ _ _ _).trans ?_ | refine (h1 _ _).trans ?_ | refine get_ite_of (fun _ => ?_) (fun _ => ?_)
    | split | dsimp only

end Sys2Proof.Machine
end

