-- ==== Sys2Proof/Laws/FrameFlags.lean ====
section
/-!
SUPPORT. Frames of the operations of Machine/Flags.lean.
-/
namespace Sys2Proof.Machine

open Sys2Proof

set_option linter.all false
set_option Elab.async false

theorem syncPins_get {φ : Fld} (hφ : φ ∉ [.sent, .portA, .portB]) (s : State)  :
    φ.get (syncPins s) = φ.get s := by
  have h0 := @modPort_get φ (Fld.mono hφ rfl)
  have h1 := @send_get φ (Fld.mono hφ rfl)
  unfold syncPins
  with_reducible
    repeat' first
    | rfl | refine (h0 _ _ _).trans ?_ | refine (h1 _ _).trans ?_ | refine get_ite_of (fun _ => ?_) (fun _ => ?_)
    | split | dsimp only

/-- Fields that raiseAlert may change. -/
def raiseAlertF : List Fld :=
  [.sent, .win, .portA, .portB]

theorem raiseAlert_get {φ : Fld} (hφ : φ ∉ raiseAlertF) (n : Nat) (s : State)  :
    φ.get (raiseAlert n s) = φ.get s := by
  have h0 := @modWin_get φ (Fld.mono hφ rfl)
  have h1 := @syncPins_get φ (Fld.mono hφ rfl)
  unfold raiseAlert
  with_reducible
    repeat' first
    | rfl | refine (h0 _ _).trans ?_ | refine (h1 _).trans ?_ | refine get_ite_of (fun _ => ?_) (fun _ => ?_) | split
    | dsimp only

theorem raiseFatal_get {φ : Fld} (hφ : φ ∉ raiseAlertF) (n : Nat) (s : State)  :
    φ.get (raiseFatal n s) = φ.get s := by
  have h0 := @modWin_get φ (Fld.mono hφ rfl)
  have h1 := @syncPins_get φ (Fld.mono hφ rfl)
  unfold raiseFatal
  with_reducible
    repeat' first
    | rfl | refine (h0 _ _).trans ?_ | refine (h1 _).trans ?_ | refine get_ite_of (fun _ => ?_) (fun _ => ?_) | split
    | dsimp only

theorem recorderAlert_get {φ : Fld} (hφ : φ ∉ raiseAlertF) (was : Recorder) (s : State)  :
    φ.get (recorderAlert was s) = φ.get s := by
  have h0 := @raiseAlert_get φ (hφ)
  unfold recorderAlert
  with_reducible
    repeat' first
    | rfl | refine (h0 _ _).trans ?_ | refine get_ite_of (fun _ => ?_) (fun _ => ?_) | split | dsimp only

end Sys2Proof.Machine
end

