-- ==== Sys2Proof/Laws/FrameRecorder.lean ====
section
/-!
SUPPORT. Frames of the operations of Machine/Recorder.lean.
-/
namespace Sys2Proof.Machine

open Sys2Proof

set_option linter.all false
set_option Elab.async false

theorem ringWrite_get {φ : Fld} (hφ : φ ∉ [.mramA, .mramB, .recorder]) (qs : List Queued) (s : State)  :
    φ.get (ringWrite qs s) = φ.get s := by
  have h0 := @modRec_get φ (Fld.mono hφ rfl)
  have h1 := @setMramA_get φ (Fld.mono hφ rfl)
  have h2 := @setMramB_get φ (Fld.mono hφ rfl)
  unfold ringWrite
  with_reducible
    repeat' first
    | rfl | refine (h0 _ _).trans ?_ | refine (h1 _ _).trans ?_ | refine (h2 _ _).trans ?_
    | refine get_ite_of (fun _ => ?_) (fun _ => ?_) | split | dsimp only

theorem ringWriteAll_get {φ : Fld} (hφ : φ ∉ [.mramA, .mramB, .recorder])  (x0 : Nat) (x1 : List Queued) (s : State) :
    φ.get (ringWriteAll x0 x1 s) = φ.get s := by
  induction x0 generalizing x1 s with
  | zero => rfl
  | succ n ih =>
    unfold ringWriteAll
    (try dsimp only)
    (repeat' split) <;> first | rfl | simp only [ih, ringWrite_get (Fld.mono hφ (G := [.mramA, .mramB, .recorder]) rfl)]

theorem mirrorWrite_get {φ : Fld} (hφ : φ ∉ [.mramA, .mramB, .recorder]) (qs : List Queued) (s : State)  :
    φ.get (mirrorWrite qs s) = φ.get s := by
  have h0 := @modRec_get φ (Fld.mono hφ rfl)
  have h1 := @setMramA_get φ (Fld.mono hφ rfl)
  have h2 := @setMramB_get φ (Fld.mono hφ rfl)
  unfold mirrorWrite
  with_reducible
    repeat' first
    | rfl | refine (h0 _ _).trans ?_ | refine (h1 _ _).trans ?_ | refine (h2 _ _).trans ?_
    | refine get_ite_of (fun _ => ?_) (fun _ => ?_) | split | dsimp only

/-- Fields that acceptInto may change. -/
def acceptIntoF : List Fld :=
  [.sent, .recorder, .win, .portA, .portB]

theorem acceptInto_get {φ : Fld} (hφ : φ ∉ acceptIntoF) (staging : Bool) (r : Rec) (s : State)  :
    φ.get (acceptInto staging r s) = φ.get s := by
  have h0 := @modRec_get φ (Fld.mono hφ rfl)
  have h1 := @recorderAlert_get φ (Fld.mono hφ rfl)
  have h2 := @send_get φ (Fld.mono hφ rfl)
  unfold acceptInto
  with_reducible
    repeat' first
    | rfl | refine (h0 _ _).trans ?_ | refine (h1 _ _).trans ?_ | refine (h2 _ _).trans ?_
    | refine get_ite_of (fun _ => ?_) (fun _ => ?_) | split | dsimp only

theorem acceptPlain_get {φ : Fld} (hφ : φ ∉ acceptIntoF) (code : Nat) (payload : List Byte) (s : State)  :
    φ.get (acceptPlain code payload s) = φ.get s := by
  have h0 := @acceptInto_get φ (hφ)
  unfold acceptPlain
  with_reducible
    repeat' first
    | rfl | refine (h0 _ _ _).trans ?_ | refine get_ite_of (fun _ => ?_) (fun _ => ?_) | split | dsimp only

theorem dropSummary_get {φ : Fld} (hφ : φ ∉ acceptIntoF) (s : State)  :
    φ.get (dropSummary s) = φ.get s := by
  have h0 := @acceptPlain_get φ (hφ)
  have h1 := @modRec_get φ (Fld.mono hφ rfl)
  unfold dropSummary
  with_reducible
    repeat' first
    | rfl | refine (h0 _ _ _).trans ?_ | refine (h1 _ _).trans ?_ | refine get_ite_of (fun _ => ?_) (fun _ => ?_)
    | split | dsimp only

/-- Fields that thaw may change. -/
def thawF : List Fld :=
  [.sent, .mramA, .mramB, .recorder, .win, .portA, .portB]

theorem thaw_get {φ : Fld} (hφ : φ ∉ thawF) (cause : Nat) (s : State)  :
    φ.get (thaw cause s) = φ.get s := by
  have h0 := @acceptPlain_get φ (Fld.mono hφ rfl)
  have h1 := @dropSummary_get φ (Fld.mono hφ rfl)
  have h2 := @mirrorWrite_get φ (Fld.mono hφ rfl)
  have h3 := @modRec_get φ (Fld.mono hφ rfl)
  have h4 := @ringWriteAll_get φ (Fld.mono hφ rfl)
  unfold thaw
  with_reducible
    repeat' first
    | rfl | refine (h0 _ _ _).trans ?_ | refine (h1 _).trans ?_ | refine (h2 _ _).trans ?_ | refine (h3 _ _).trans ?_
    | refine (h4 _ _ _).trans ?_ | refine get_ite_of (fun _ => ?_) (fun _ => ?_) | split | dsimp only

theorem noteReason_get {φ : Fld} (hφ : φ ∉ [.part]) (site bit : Nat) (s : State)  :
    φ.get (noteReason site bit s) = φ.get s := by
  have h0 := @modPart_get φ (hφ)
  unfold noteReason
  with_reducible
    repeat' first
    | rfl | refine (h0 _ _ _).trans ?_ | refine get_ite_of (fun _ => ?_) (fun _ => ?_) | split | dsimp only

/-- Fields that accept may change. -/
def acceptF : List Fld :=
  logF ++ ([.part] : List Fld)

theorem accept_get {φ : Fld} (hφ : φ ∉ acceptF) (e : Happening) (s : State)  :
    φ.get (accept e s) = φ.get s := by
  have h0 := @acceptInto_get φ (Fld.mono hφ rfl)
  have h1 := @modBoot_get φ (Fld.mono hφ rfl)
  have h2 := @modRec_get φ (Fld.mono hφ rfl)
  have h3 := @noteReason_get φ (Fld.mono hφ rfl)
  have h4 := @thaw_get φ (Fld.mono hφ rfl)
  unfold accept
  with_reducible
    repeat' first
    | rfl | refine (h0 _ _ _).trans ?_ | refine (h1 _ _).trans ?_ | refine (h2 _ _).trans ?_
    | refine (h3 _ _ _).trans ?_ | refine (h4 _ _).trans ?_ | refine get_ite_of (fun _ => ?_) (fun _ => ?_) | split
    | dsimp only

theorem recordFrom_get {φ : Fld} (hφ : φ ∉ acceptF) (source code : Nat) (payload : List Byte) (s : State)  :
    φ.get (recordFrom source code payload s) = φ.get s := by
  have h0 := @accept_get φ (hφ)
  unfold recordFrom
  with_reducible
    repeat' first
    | rfl | refine (h0 _ _).trans ?_ | refine get_ite_of (fun _ => ?_) (fun _ => ?_) | split | dsimp only

theorem record_get {φ : Fld} (hφ : φ ∉ logF) (code : Nat) (payload : List Byte) (s : State)  :
    φ.get (record code payload s) = φ.get s := by
  have h1 := @modBoot_get φ (Fld.mono hφ rfl)
  have h2 := @modRec_get φ (Fld.mono hφ rfl)
  have h3 := @acceptInto_get φ (Fld.mono hφ rfl)
  have h4 := @thaw_get φ (Fld.mono hφ rfl)
  have hs : (decide (code / 4096 = 1) && code != 0x1031 && code != 0x1032 && decide (mgrAddr s.active < 0x4000)) = false := by
    have : decide (mgrAddr s.active < 0x4000) = false := decide_eq_false (by unfold mgrAddr; omega)
    rw [this, Bool.and_false]
  unfold record recordFrom accept
  dsimp only
  simp only [hs, Bool.false_eq_true, if_false]
  with_reducible
    repeat' first
    | rfl | refine (h1 _ _).trans ?_ | refine (h2 _ _).trans ?_ | refine (h3 _ _ _).trans ?_ | refine (h4 _ _).trans ?_
    | refine get_ite_of (fun _ => ?_) (fun _ => ?_) | split | dsimp only

theorem drained_get {φ : Fld} (hφ : φ ∉ acceptIntoF) (s : State)  :
    φ.get (drained s) = φ.get s := by
  have h0 := @dropSummary_get φ (hφ)
  unfold drained
  with_reducible
    repeat' first
    | rfl | refine (h0 _).trans ?_ | refine get_ite_of (fun _ => ?_) (fun _ => ?_) | split | dsimp only

theorem acceptWaiting_get {φ : Fld} (hφ : φ ∉ acceptF)  (x0 : Nat) (s : State) :
    φ.get (acceptWaiting x0 s) = φ.get s := by
  induction x0 generalizing s with
  | zero => rfl
  | succ n ih =>
    unfold acceptWaiting
    (try dsimp only)
    (repeat' split) <;> first | rfl | simp only [ih, accept_get (Fld.mono hφ rfl), modRec_get (Fld.mono hφ (G := [.recorder]) rfl)]

theorem calendarMark_get {φ : Fld} (hφ : φ ∉ logF) (cause previous : Nat) (s : State)  :
    φ.get (calendarMark cause previous s) = φ.get s := by
  have h0 := @record_get φ (hφ)
  unfold calendarMark
  with_reducible
    repeat' first
    | rfl | refine (h0 _ _ _).trans ?_ | refine get_ite_of (fun _ => ?_) (fun _ => ?_) | split | dsimp only

end Sys2Proof.Machine
end

