-- ==== Sys2Proof/Laws/FrameOperands.lean ====
section
/-!
SUPPORT. Frames of the operations of Machine/Operands.lean.
-/
namespace Sys2Proof.Machine

open Sys2Proof

set_option linter.all false
set_option Elab.async false

theorem modCmd_get {φ : Fld} (hφ : φ ∉ [.win]) (seq : Nat) (f : Cmd → Cmd) (s : State)  :
    φ.get (modCmd seq f s) = φ.get s := by
  have h0 := @modWin_get φ (hφ)
  unfold modCmd
  with_reducible
    repeat' first
    | rfl | refine (h0 _ _).trans ?_ | refine get_ite_of (fun _ => ?_) (fun _ => ?_) | split | dsimp only

theorem postNext_get {φ : Fld} (hφ : φ ∉ [.win, .portA, .portB]) (ch : Nat) (s : State)  :
    φ.get (postNext ch s) = φ.get s := by
  have h0 := @modChannel_get φ (Fld.mono hφ rfl)
  have h1 := @modCmd_get φ (Fld.mono hφ rfl)
  have h2 := @modPort_get φ (Fld.mono hφ rfl)
  unfold postNext
  with_reducible
    repeat' first
    | rfl | refine (h0 _ _ _).trans ?_ | refine (h1 _ _ _).trans ?_ | refine (h2 _ _ _).trans ?_
    | refine get_ite_of (fun _ => ?_) (fun _ => ?_) | split | dsimp only

theorem auditCmd_get {φ : Fld} (hφ : φ ∉ logF) (c : Cmd) (status : Nat) (s : State)  :
    φ.get (auditCmd c status s) = φ.get s := by
  have h0 := @record_get φ (hφ)
  unfold auditCmd
  with_reducible
    repeat' first
    | rfl | refine (h0 _ _ _).trans ?_ | refine get_ite_of (fun _ => ?_) (fun _ => ?_) | split | dsimp only

theorem complete_get {φ : Fld} (hφ : φ ∉ logF) (seq status : Nat) (rsp : List Byte) (s : State)  :
    φ.get (complete seq status rsp s) = φ.get s := by
  have h0 := @auditCmd_get φ (hφ)
  have h1 := @modChannel_get φ (Fld.mono hφ rfl)
  have h2 := @modCmd_get φ (Fld.mono hφ rfl)
  have h3 := @modWin_get φ (Fld.mono hφ rfl)
  have h4 := @postNext_get φ (Fld.mono hφ rfl)
  unfold complete
  with_reducible
    repeat' first
    | rfl | refine (h0 _ _ _).trans ?_ | refine (h1 _ _ _).trans ?_ | refine (h2 _ _ _).trans ?_
    | refine (h3 _ _).trans ?_ | refine (h4 _ _).trans ?_ | refine get_ite_of (fun _ => ?_) (fun _ => ?_) | split
    | dsimp only

theorem completeAll_get {φ : Fld} (hφ : φ ∉ logF) (seqs : List Nat) (status : Nat) (rsp : List Byte) (s : State)  :
    φ.get (completeAll seqs status rsp s) = φ.get s := by
  have h0 := @complete_get φ (hφ)
  unfold completeAll
  with_reducible
    repeat' first
    | rfl | refine (h0 _ _ _ _).trans ?_ | refine (each_get _ _ (fun _ _ => ?_) _).trans ?_
    | refine get_ite_of (fun _ => ?_) (fun _ => ?_) | split | dsimp only

theorem runCmd_kept {φ : Fld} (hφ : φ ∉ logF) (seq status : Nat) (act : State → State) (s : State) (h : φ.get (act s) = φ.get s) :
    Kept φ (runCmd seq status act s) s := by
  unfold runCmd
  split
  · exact h
  · exact complete_get hφ _ _ _ _

theorem waitFor_get {φ : Fld} (hφ : φ ∉ [.waits]) (rank scope number seq : Nat) (act : Instr) (s : State)  :
    φ.get (waitFor rank scope number seq act s) = φ.get s := by
  have h0 := @setWaits_get φ (hφ)
  unfold waitFor
  with_reducible
    repeat' first
    | rfl | refine (h0 _ _).trans ?_ | refine get_ite_of (fun _ => ?_) (fun _ => ?_) | split | dsimp only

end Sys2Proof.Machine
end

