-- ==== Sys2Proof/Laws/FrameHealth.lean ====
section
/-!
SUPPORT. Frames of the operations of Machine/Health.lean.
-/
namespace Sys2Proof.Machine

open Sys2Proof

set_option linter.all false
set_option Elab.async false

/-- Fields that writeSite may change. -/
def writeSiteF : List Fld :=
  [.sent, .mramA, .mramB, .health]

theorem writeSite_get {φ : Fld} (hφ : φ ∉ writeSiteF) (site : Nat) (s : State)  :
    φ.get (writeSite site s) = φ.get s := by
  have h0 := @modSite_get φ (Fld.mono hφ rfl)
  have h1 := @mramBoth_get φ (Fld.mono hφ rfl)
  unfold writeSite
  with_reducible
    repeat' first
    | rfl | refine (h0 _ _ _).trans ?_ | refine (h1 _ _ _).trans ?_ | refine get_ite_of (fun _ => ?_) (fun _ => ?_)
    | split | dsimp only

/-- Fields that checkSpares may change. -/
def checkSparesF : List Fld :=
  logF ++ ([.sparesLow] : List Fld)

theorem checkSpares_get {φ : Fld} (hφ : φ ∉ checkSparesF) (sector : Nat) (s : State)  :
    φ.get (checkSpares sector s) = φ.get s := by
  have h0 := @raiseAlert_get φ (Fld.mono hφ rfl)
  have h1 := @record_get φ (Fld.mono hφ rfl)
  have h2 := @setSparesLow_get φ (Fld.mono hφ rfl)
  unfold checkSpares
  with_reducible
    repeat' first
    | rfl | refine (h0 _ _).trans ?_ | refine (h1 _ _ _).trans ?_ | refine (h2 _ _).trans ?_
    | refine get_ite_of (fun _ => ?_) (fun _ => ?_) | split | dsimp only

/-- Fields that changeSite may change. -/
def changeSiteF : List Fld :=
  logF ++ ([.journalSeq, .journal, .health, .sparesLow, .part] : List Fld)

theorem changeSite_get {φ : Fld} (hφ : φ ∉ changeSiteF) (site kind aux : Nat) (f : SiteRec → SiteRec) (s : State)  :
    φ.get (changeSite site kind aux f s) = φ.get s := by
  have h0 := @checkSpares_get φ (Fld.mono hφ rfl)
  have h1 := @journalize_get φ (Fld.mono hφ rfl)
  have h2 := @modSite_get φ (Fld.mono hφ rfl)
  have h3 := @noteReason_get φ (Fld.mono hφ rfl)
  have h4 := @recordFrom_get φ (Fld.mono hφ rfl)
  have h5 := @send_get φ (Fld.mono hφ rfl)
  have h6 := @writeSite_get φ (Fld.mono hφ rfl)
  unfold changeSite
  with_reducible
    repeat' first
    | rfl | refine (h0 _ _).trans ?_ | refine (h1 _ _ _ _ _ _ _).trans ?_ | refine (h2 _ _ _).trans ?_
    | refine (h3 _ _ _).trans ?_ | refine (h4 _ _ _ _).trans ?_ | refine (h5 _ _).trans ?_ | refine (h6 _ _).trans ?_
    | refine get_ite_of (fun _ => ?_) (fun _ => ?_) | split | dsimp only

/-- Fields that putXlat may change. -/
def putXlatF : List Fld :=
  [.xlat0, .xlat1, .routes0, .routes1]

theorem putXlat_get {φ : Fld} (hφ : φ ∉ putXlatF) (bank tile new : Nat) (route : List (Nat × Nat)) (s : State)  :
    φ.get (putXlat bank tile new route s) = φ.get s := by
  have h0 := @setRoutes0_get φ (Fld.mono hφ rfl)
  have h1 := @setRoutes1_get φ (Fld.mono hφ rfl)
  have h2 := @setXlat0_get φ (Fld.mono hφ rfl)
  have h3 := @setXlat1_get φ (Fld.mono hφ rfl)
  unfold putXlat
  with_reducible
    repeat' first
    | rfl | refine (h0 _ _).trans ?_ | refine (h1 _ _).trans ?_ | refine (h2 _ _).trans ?_ | refine (h3 _ _).trans ?_
    | refine get_ite_of (fun _ => ?_) (fun _ => ?_) | split | dsimp only

theorem putBoth_get {φ : Fld} (hφ : φ ∉ putXlatF) (tile old new : Nat) (s : State)  :
    φ.get (putBoth tile old new s) = φ.get s := by
  have h0 := @putXlat_get φ (hφ)
  unfold putBoth
  with_reducible
    repeat' first
    | rfl | refine (h0 _ _ _ _ _).trans ?_ | refine get_ite_of (fun _ => ?_) (fun _ => ?_) | split | dsimp only

theorem putIdle_get {φ : Fld} (hφ : φ ∉ putXlatF) (p tile old new : Nat) (s : State)  :
    φ.get (putIdle p tile old new s) = φ.get s := by
  have h0 := @putXlat_get φ (hφ)
  unfold putIdle
  with_reducible
    repeat' first
    | rfl | refine (h0 _ _ _ _ _).trans ?_ | refine get_ite_of (fun _ => ?_) (fun _ => ?_) | split | dsimp only

/-- Fields that moveTile may change. -/
def moveTileF : List Fld :=
  logF ++ ([.journalSeq, .journal, .health, .sparesLow, .sen, .part, .xlat0, .xlat1, .routes0, .routes1] : List Fld)

theorem moveTile_get {φ : Fld} (hφ : φ ∉ moveTileF) (tile old new detour : Nat) (kind : Nat) (out : SiteRec → SiteRec) (s : State)  :
    φ.get (moveTile tile old new detour kind out s) = φ.get s := by
  have h0 := @changeSite_get φ (Fld.mono hφ rfl)
  have h1 := @holdSlot_get φ (Fld.mono hφ rfl)
  have h2 := @putBoth_get φ (Fld.mono hφ rfl)
  have h3 := @recordFrom_get φ (Fld.mono hφ rfl)
  have h4 := @send_get φ (Fld.mono hφ rfl)
  unfold moveTile
  with_reducible
    repeat' first
    | rfl | refine (h0 _ _ _ _ _).trans ?_ | refine (h1 _ _).trans ?_ | refine (h2 _ _ _ _).trans ?_
    | refine (h3 _ _ _ _).trans ?_ | refine (h4 _ _).trans ?_ | refine get_ite_of (fun _ => ?_) (fun _ => ?_) | split
    | dsimp only

theorem moveOut_get {φ : Fld} (hφ : φ ∉ moveTileF) (tile old new : Nat) (out : SiteRec → SiteRec) (s : State)  :
    φ.get (moveOut tile old new out s) = φ.get s := by
  have h0 := @journalize_get φ (Fld.mono hφ rfl)
  have h1 := @moveTile_get φ (hφ)
  unfold moveOut
  with_reducible
    repeat' first
    | rfl | refine (h0 _ _ _ _ _ _ _).trans ?_ | refine (h1 _ _ _ _ _ _ _).trans ?_
    | refine get_ite_of (fun _ => ?_) (fun _ => ?_) | split | dsimp only

theorem modSwap_get {φ : Fld} (hφ : φ ∉ [.part]) (p tile : Nat) (f : Swap → Swap) (s : State)  :
    φ.get (modSwap p tile f s) = φ.get s := by
  have h0 := @modPart_get φ (hφ)
  unfold modSwap
  with_reducible
    repeat' first
    | rfl | refine (h0 _ _ _).trans ?_ | refine get_ite_of (fun _ => ?_) (fun _ => ?_) | split | dsimp only

theorem keepKey_get {φ : Fld} (hφ : φ ∉ [.sen, .hub]) (site tile : Nat) (seed : Dword) (s : State)  :
    φ.get (keepKey site tile seed s) = φ.get s := by
  have h0 := @modHub_get φ (Fld.mono hφ rfl)
  have h1 := @modSen_get φ (Fld.mono hφ rfl)
  unfold keepKey
  with_reducible
    repeat' first
    | rfl | refine (h0 _ _ _).trans ?_ | refine (h1 _ _ _).trans ?_ | refine get_ite_of (fun _ => ?_) (fun _ => ?_)
    | split | dsimp only

/-- Fields that prepareSwap may change. -/
def prepareSwapF : List Fld :=
  logF ++ ([.journalSeq, .journal, .health, .sparesLow, .sen, .hub, .part, .xlat0, .xlat1, .routes0, .routes1] : List Fld)

theorem prepareSwap_get {φ : Fld} (hφ : φ ∉ prepareSwapF) (p tile old : Nat) (s : State)  :
    φ.get (prepareSwap p tile old s) = φ.get s := by
  have h0 := @changeSite_get φ (Fld.mono hφ rfl)
  have h1 := @journalize_get φ (Fld.mono hφ rfl)
  have h2 := @keepKey_get φ (Fld.mono hφ rfl)
  have h3 := @modSwap_get φ (Fld.mono hφ rfl)
  have h4 := @putIdle_get φ (Fld.mono hφ rfl)
  have h5 := @send_get φ (Fld.mono hφ rfl)
  unfold prepareSwap
  with_reducible
    repeat' first
    | rfl | refine (h0 _ _ _ _ _).trans ?_ | refine (h1 _ _ _ _ _ _ _).trans ?_ | refine (h2 _ _ _ _).trans ?_
    | refine (h3 _ _ _ _).trans ?_ | refine (h4 _ _ _ _ _).trans ?_ | refine (h5 _ _).trans ?_
    | refine get_ite_of (fun _ => ?_) (fun _ => ?_) | split | dsimp only

theorem degrade_get {φ : Fld} (hφ : φ ∉ acceptF) (p site step : Nat) (s : State)  :
    φ.get (degrade p site step s) = φ.get s := by
  have h0 := @modPart_get φ (Fld.mono hφ rfl)
  have h1 := @record_get φ (Fld.mono hφ rfl)
  unfold degrade
  with_reducible
    repeat' first
    | rfl | refine (h0 _ _ _).trans ?_ | refine (h1 _ _ _).trans ?_ | refine get_ite_of (fun _ => ?_) (fun _ => ?_)
    | split | dsimp only

theorem addSwap_get {φ : Fld} (hφ : φ ∉ [.part]) (p tile site cause : Nat) (seqs : List Nat) (s : State)  :
    φ.get (addSwap p tile site cause seqs s) = φ.get s := by
  have h0 := @modPart_get φ (hφ)
  unfold addSwap
  with_reducible
    repeat' first
    | rfl | refine (h0 _ _ _).trans ?_ | refine get_ite_of (fun _ => ?_) (fun _ => ?_) | split | dsimp only

theorem requestSwap_get {φ : Fld} (hφ : φ ∉ prepareSwapF) (site cause : Nat) (seqs : List Nat) (s : State)  :
    φ.get (requestSwap site cause seqs s) = φ.get s := by
  have h0 := @addSwap_get φ (Fld.mono hφ rfl)
  have h1 := @degrade_get φ (Fld.mono hφ rfl)
  have h2 := @modSwap_get φ (Fld.mono hφ rfl)
  have h3 := @moveOut_get φ (Fld.mono hφ rfl)
  have h4 := @prepareSwap_get φ (hφ)
  unfold requestSwap
  with_reducible
    repeat' first
    | rfl | refine (h0 _ _ _ _ _ _).trans ?_ | refine (h1 _ _ _ _).trans ?_ | refine (h2 _ _ _ _).trans ?_
    | refine (h3 _ _ _ _ _).trans ?_ | refine (h4 _ _ _ _).trans ?_ | refine get_ite_of (fun _ => ?_) (fun _ => ?_)
    | split | dsimp only

theorem retrySuspects_get {φ : Fld} (hφ : φ ∉ prepareSwapF) (sector : Nat) (s : State)  :
    φ.get (retrySuspects sector s) = φ.get s := by
  have h0 := @requestSwap_get φ (hφ)
  unfold retrySuspects
  with_reducible
    repeat' first
    | rfl | refine (h0 _ _ _ _).trans ?_ | refine (each_get _ _ (fun _ _ => ?_) _).trans ?_
    | refine get_ite_of (fun _ => ?_) (fun _ => ?_) | split | dsimp only

theorem spareFreed_get {φ : Fld} (hφ : φ ∉ prepareSwapF) (site : Nat) (s : State)  :
    φ.get (spareFreed site s) = φ.get s := by
  have h0 := @modPart_get φ (Fld.mono hφ rfl)
  have h1 := @retrySuspects_get φ (hφ)
  unfold spareFreed
  with_reducible
    repeat' first
    | rfl | refine (h0 _ _ _).trans ?_ | refine (h1 _ _).trans ?_ | refine get_ite_of (fun _ => ?_) (fun _ => ?_)
    | split | dsimp only

theorem followHealth_get {φ : Fld} (hφ : φ ∉ prepareSwapF) (site : Nat) (r : SiteRec) (h : Health) (s : State)  :
    φ.get (followHealth site r h s) = φ.get s := by
  have h0 := @modSwap_get φ (Fld.mono hφ rfl)
  have h1 := @prepareSwap_get φ (hφ)
  have h2 := @requestSwap_get φ (hφ)
  unfold followHealth
  with_reducible
    repeat' first
    | rfl | refine (h0 _ _ _ _).trans ?_ | refine (h1 _ _ _ _).trans ?_ | refine (h2 _ _ _ _).trans ?_
    | refine (each_get _ _ (fun _ _ => ?_) _).trans ?_ | refine get_ite_of (fun _ => ?_) (fun _ => ?_) | split
    | dsimp only

theorem noteRose_get {φ : Fld} (hφ : φ ∉ [.hub]) (site kind : Nat) (was : Health) (s : State)  :
    φ.get (noteRose site kind was s) = φ.get s := by
  have h0 := @modHub_get φ (hφ)
  unfold noteRose
  with_reducible
    repeat' first
    | rfl | refine (h0 _ _ _).trans ?_ | refine get_ite_of (fun _ => ?_) (fun _ => ?_) | split | dsimp only

/-- Fields that charge may change. -/
def chargeF : List Fld :=
  logF ++ ([.journalSeq, .journal, .health, .unflushed, .sparesLow, .sen, .hub, .part, .xlat0, .xlat1, .routes0,
    .routes1] : List Fld)

theorem charge_get {φ : Fld} (hφ : φ ∉ chargeF) (site kind steps : Nat) (reproduced : Bool) (s : State)  :
    φ.get (charge site kind steps reproduced s) = φ.get s := by
  have h0 := @changeSite_get φ (Fld.mono hφ rfl)
  have h1 := @followHealth_get φ (Fld.mono hφ rfl)
  have h2 := @modSite_get φ (Fld.mono hφ rfl)
  have h3 := @noteRose_get φ (Fld.mono hφ rfl)
  have h4 := @setUnflushed_get φ (Fld.mono hφ rfl)
  unfold charge
  with_reducible
    repeat' first
    | rfl | refine (h0 _ _ _ _ _).trans ?_ | refine (h1 _ _ _ _).trans ?_ | refine (h2 _ _ _).trans ?_
    | refine (h3 _ _ _ _).trans ?_ | refine (h4 _ _).trans ?_ | refine get_ite_of (fun _ => ?_) (fun _ => ?_) | split
    | dsimp only

theorem reproduce_get {φ : Fld} (hφ : φ ∉ prepareSwapF) (site kind : Nat) (s : State)  :
    φ.get (reproduce site kind s) = φ.get s := by
  have h0 := @changeSite_get φ (Fld.mono hφ rfl)
  have h1 := @followHealth_get φ (hφ)
  unfold reproduce
  with_reducible
    repeat' first
    | rfl | refine (h0 _ _ _ _ _).trans ?_ | refine (h1 _ _ _ _).trans ?_
    | refine get_ite_of (fun _ => ?_) (fun _ => ?_) | split | dsimp only

/-- Fields that logMemRepair may change. -/
def logMemRepairF : List Fld :=
  [.sent, .mramA, .mramB, .memLog]

theorem logMemRepair_get {φ : Fld} (hφ : φ ∉ logMemRepairF) (source addr : Nat) (s : State)  :
    φ.get (logMemRepair source addr s) = φ.get s := by
  have h0 := @mramBoth_get φ (Fld.mono hφ rfl)
  have h1 := @setMemLog_get φ (Fld.mono hφ rfl)
  unfold logMemRepair
  with_reducible
    repeat' first
    | rfl | refine (h0 _ _ _).trans ?_ | refine (h1 _ _).trans ?_ | refine get_ite_of (fun _ => ?_) (fun _ => ?_)
    | split | dsimp only

theorem chargeLoss_get {φ : Fld} (hφ : φ ∉ chargeF) (site : Nat) (s : State)  :
    φ.get (chargeLoss site s) = φ.get s := by
  have h0 := @charge_get φ (hφ)
  unfold chargeLoss
  with_reducible
    repeat' first
    | rfl | refine (h0 _ _ _ _ _).trans ?_ | refine get_ite_of (fun _ => ?_) (fun _ => ?_) | split | dsimp only

theorem loseSentinel_get {φ : Fld} (hφ : φ ∉ chargeF) (site : Nat) (s : State)  :
    φ.get (loseSentinel site s) = φ.get s := by
  have h0 := @chargeLoss_get φ (hφ)
  have h1 := @modSen_get φ (Fld.mono hφ rfl)
  unfold loseSentinel
  with_reducible
    repeat' first
    | rfl | refine (h0 _ _).trans ?_ | refine (h1 _ _ _).trans ?_ | refine get_ite_of (fun _ => ?_) (fun _ => ?_)
    | split | dsimp only

end Sys2Proof.Machine
end

