-- ==== Sys2Proof/Laws/FrameFront.lean ====
section
/-!
SUPPORT. Frames of the operations of Machine/Front.lean.
-/
namespace Sys2Proof.Machine

open Sys2Proof

set_option linter.all false
set_option Elab.async false

theorem pushVerdict_get {φ : Fld} (hφ : φ ∉ [.sen]) (site slots : Nat) (item : Instr) (s : State)  :
    φ.get (pushVerdict site slots item s) = φ.get s := by
  have h0 := @modSen_get φ (hφ)
  unfold pushVerdict
  with_reducible
    repeat' first
    | rfl | refine (h0 _ _ _).trans ?_ | refine get_ite_of (fun _ => ?_) (fun _ => ?_) | split | dsimp only

theorem pushAlarm_get {φ : Fld} (hφ : φ ∉ [.sen]) (site : Nat) (item : Instr) (s : State)  :
    φ.get (pushAlarm site item s) = φ.get s := by
  have h0 := @modSen_get φ (hφ)
  unfold pushAlarm
  with_reducible
    repeat' first
    | rfl | refine (h0 _ _ _).trans ?_ | refine get_ite_of (fun _ => ?_) (fun _ => ?_) | split | dsimp only

theorem pushReport_get {φ : Fld} (hφ : φ ∉ [.sen]) (site : Nat) (item : Instr) (s : State)  :
    φ.get (pushReport site item s) = φ.get s := by
  have h0 := @modSen_get φ (hφ)
  unfold pushReport
  with_reducible
    repeat' first
    | rfl | refine (h0 _ _ _).trans ?_ | refine get_ite_of (fun _ => ?_) (fun _ => ?_) | split | dsimp only

theorem raiseEv_get {φ : Fld} (hφ : φ ∉ [.sen]) (site code : Nat) (detail : List Byte) (s : State)  :
    φ.get (raiseEv site code detail s) = φ.get s := by
  have h0 := @modSen_get φ (hφ)
  unfold raiseEv
  with_reducible
    repeat' first
    | rfl | refine (h0 _ _ _).trans ?_ | refine get_ite_of (fun _ => ?_) (fun _ => ?_) | split | dsimp only

theorem fenceIdle_get {φ : Fld} (hφ : φ ∉ [.sent]) (site : Nat) (s : State)  :
    φ.get (fenceIdle site s) = φ.get s := by
  have h0 := @send_get φ (hφ)
  unfold fenceIdle
  with_reducible
    repeat' first
    | rfl | refine (h0 _ _).trans ?_ | refine get_ite_of (fun _ => ?_) (fun _ => ?_) | split | dsimp only

theorem setAlarm_get {φ : Fld} (hφ : φ ∉ [.sent, .sen]) (site code : Nat) (raised : Bool) (edge : Edge) (s : State)  :
    φ.get (setAlarm site code raised edge s) = φ.get s := by
  have h0 := @modSen_get φ (Fld.mono hφ rfl)
  have h1 := @send_get φ (Fld.mono hφ rfl)
  unfold setAlarm
  with_reducible
    repeat' first
    | rfl | refine (h0 _ _ _).trans ?_ | refine (h1 _ _).trans ?_ | refine get_ite_of (fun _ => ?_) (fun _ => ?_)
    | split | dsimp only

theorem raiseWake_get {φ : Fld} (hφ : φ ∉ [.sen]) (site : Nat) (s : State)  :
    φ.get (raiseWake site s) = φ.get s := by
  have h0 := @modSen_get φ (hφ)
  unfold raiseWake
  with_reducible
    repeat' first
    | rfl | refine (h0 _ _ _).trans ?_ | refine get_ite_of (fun _ => ?_) (fun _ => ?_) | split | dsimp only

theorem waitFront_get {φ : Fld} (hφ : φ ∉ [.sen]) (site : Nat) (f : Sentinel → Sentinel) (s : State)  :
    φ.get (waitFront site f s) = φ.get s := by
  have h0 := @modSen_get φ (hφ)
  have h1 := @raiseWake_get φ (hφ)
  unfold waitFront
  with_reducible
    repeat' first
    | rfl | refine (h0 _ _ _).trans ?_ | refine (h1 _ _).trans ?_ | refine get_ite_of (fun _ => ?_) (fun _ => ?_)
    | split | dsimp only

theorem waitWake_get {φ : Fld} (hφ : φ ∉ [.sen]) (site : Nat) (m : Instr) (s : State)  :
    φ.get (waitWake site m s) = φ.get s := by
  have h0 := @waitFront_get φ (hφ)
  unfold waitWake
  with_reducible
    repeat' first
    | rfl | refine (h0 _ _ _).trans ?_ | refine get_ite_of (fun _ => ?_) (fun _ => ?_) | split | dsimp only

theorem takeEv_get {φ : Fld} (hφ : φ ∉ [.sent, .sen]) (site code : Nat) (s : State)  :
    φ.get (takeEv site code s) = φ.get s := by
  have h0 := @modSen_get φ (Fld.mono hφ rfl)
  have h1 := @setAlarm_get φ (hφ)
  unfold takeEv
  with_reducible
    repeat' first
    | rfl | refine (h0 _ _ _).trans ?_ | refine (h1 _ _ _ _ _).trans ?_
    | refine get_ite_of (fun _ => ?_) (fun _ => ?_) | split | dsimp only

theorem resetSentinel_get {φ : Fld} (hφ : φ ∉ [.sent, .sen]) (site : Nat) (s : State)  :
    φ.get (resetSentinel site s) = φ.get s := by
  have h0 := @modSen_get φ (Fld.mono hφ rfl)
  have h1 := @senEvent_get φ (hφ)
  have h2 := @setAlarm_get φ (hφ)
  unfold resetSentinel
  with_reducible
    repeat' first
    | rfl | refine (h0 _ _ _).trans ?_ | refine (h1 _ _ _ _).trans ?_ | refine (h2 _ _ _ _ _).trans ?_
    | refine (each_get _ _ (fun _ _ => ?_) _).trans ?_ | refine get_ite_of (fun _ => ?_) (fun _ => ?_) | split
    | dsimp only

end Sys2Proof.Machine
end

