-- ==== Sys2Proof/Laws/FramePasses.lean ====
section
/-!
SUPPORT. Frames of the operations of Machine/Passes.lean.
-/
namespace Sys2Proof.Machine

open Sys2Proof

set_option linter.all false
set_option Elab.async false

theorem screenResult_get {φ : Fld} (hφ : φ ∉ acceptF) (site outcome : Nat) (c : Screen) (s : State)  :
    φ.get (screenResult site outcome c s) = φ.get s := by
  have h0 := @recordFrom_get φ (hφ)
  unfold screenResult
  with_reducible
    repeat' first
    | rfl | refine (h0 _ _ _ _).trans ?_ | refine get_ite_of (fun _ => ?_) (fun _ => ?_) | split | dsimp only

/-- Fields that declineAxis may change. -/
def declineAxisF : List Fld :=
  logF ++ ([.health, .part] : List Fld)

theorem declineAxis_get {φ : Fld} (hφ : φ ∉ declineAxisF) (site code prev : Nat) (epoch : Dword) (a : Nat) (x : State × Nat)  :
    φ.get (declineAxis site code prev epoch a x).1 = φ.get x.1 := by
  have h0 := @modSite_get φ (Fld.mono hφ rfl)
  have h1 := @recordFrom_get φ (Fld.mono hφ rfl)
  unfold declineAxis
  with_reducible
    repeat' first
    | rfl | refine (h0 _ _ _).trans ?_ | refine (h1 _ _ _ _).trans ?_ | refine get_ite_of (fun _ => ?_) (fun _ => ?_)
    | split | dsimp only

/-- Fields that passScreen may change. -/
def passScreenF : List Fld :=
  logF ++ ([.journalSeq, .journal, .health, .unflushed, .marginPrev, .sparesLow, .sen, .hub, .part, .xlat0,
    .xlat1, .routes0, .routes1] : List Fld)

theorem passScreen_get {φ : Fld} (hφ : φ ∉ passScreenF) (site code : Nat) (full deep : Bool) (epoch : Dword) (s : State)  :
    φ.get (passScreen site code full deep epoch s) = φ.get s := by
  have h0 := @changeSite_get φ (Fld.mono hφ rfl)
  have h1 := @charge_get φ (Fld.mono hφ rfl)
  have h2 := @declineAxis_get φ (Fld.mono hφ rfl)
  have h3 := @setMarginPrev_get φ (Fld.mono hφ rfl)
  unfold passScreen
  with_reducible
    repeat' first
    | rfl | refine (h0 _ _ _ _ _).trans ?_ | refine (h1 _ _ _ _ _).trans ?_ | refine (h2 _ _ _ _ _ _).trans ?_
    | refine (h3 _ _).trans ?_ | refine (foldl_get _ _ (fun _ _ => ?_) _).trans ?_
    | refine (foldl_fst_get _ _ (fun _ _ => ?_) _).trans ?_ | refine (foldl_snd_get _ _ (fun _ _ => ?_) _).trans ?_
    | refine get_ite_of (fun _ => ?_) (fun _ => ?_) | split | dsimp only

/-- Fields that passDeep may change. -/
def passDeepF : List Fld :=
  logF ++ ([.journalSeq, .journal, .health, .unflushed, .deepPassed, .marginPrev, .sparesLow, .sen, .hub, .part,
    .xlat0, .xlat1, .routes0, .routes1] : List Fld)

theorem passDeep_get {φ : Fld} (hφ : φ ∉ passDeepF) (site code : Nat) (epoch : Dword) (s : State)  :
    φ.get (passDeep site code epoch s) = φ.get s := by
  have h0 := @changeSite_get φ (Fld.mono hφ rfl)
  have h1 := @passScreen_get φ (Fld.mono hφ rfl)
  have h2 := @setDeepPassed_get φ (Fld.mono hφ rfl)
  have h3 := @spareFreed_get φ (Fld.mono hφ rfl)
  unfold passDeep
  with_reducible
    repeat' first
    | rfl | refine (h0 _ _ _ _ _).trans ?_ | refine (h1 _ _ _ _ _ _).trans ?_ | refine (h2 _ _).trans ?_
    | refine (h3 _ _).trans ?_ | refine get_ite_of (fun _ => ?_) (fun _ => ?_) | split | dsimp only

/-- Fields that failDeep may change. -/
def failDeepF : List Fld :=
  logF ++ ([.journalSeq, .journal, .health, .unflushed, .deepPassed, .sparesLow, .sen, .hub, .part, .xlat0,
    .xlat1, .routes0, .routes1] : List Fld)

theorem failDeep_get {φ : Fld} (hφ : φ ∉ failDeepF) (site : Nat) (s : State)  :
    φ.get (failDeep site s) = φ.get s := by
  have h0 := @changeSite_get φ (Fld.mono hφ rfl)
  have h1 := @charge_get φ (Fld.mono hφ rfl)
  have h2 := @modSite_get φ (Fld.mono hφ rfl)
  have h3 := @setDeepPassed_get φ (Fld.mono hφ rfl)
  unfold failDeep
  with_reducible
    repeat' first
    | rfl | refine (h0 _ _ _ _ _).trans ?_ | refine (h1 _ _ _ _ _).trans ?_ | refine (h2 _ _ _).trans ?_
    | refine (h3 _ _).trans ?_ | refine get_ite_of (fun _ => ?_) (fun _ => ?_) | split | dsimp only

/-- Fields that finishScreen may change. -/
def finishScreenF : List Fld :=
  logF ++ ([.journalSeq, .journal, .health, .unflushed, .deepPassed, .marginPrev, .sparesLow, .sen, .hub, .part,
    .xlat0, .xlat1, .routes0, .routes1, .screens] : List Fld)

theorem finishScreen_get {φ : Fld} (hφ : φ ∉ finishScreenF) (site outcome : Nat) (s : State)  :
    φ.get (finishScreen site outcome s) = φ.get s := by
  have h0 := @charge_get φ (Fld.mono hφ rfl)
  have h1 := @failDeep_get φ (Fld.mono hφ rfl)
  have h2 := @passDeep_get φ (Fld.mono hφ rfl)
  have h3 := @passScreen_get φ (Fld.mono hφ rfl)
  have h4 := @screenResult_get φ (Fld.mono hφ rfl)
  have h5 := @setScreens_get φ (Fld.mono hφ rfl)
  unfold finishScreen
  with_reducible
    repeat' first
    | rfl | refine (h0 _ _ _ _ _).trans ?_ | refine (h1 _ _).trans ?_ | refine (h2 _ _ _ _).trans ?_
    | refine (h3 _ _ _ _ _ _).trans ?_ | refine (h4 _ _ _ _).trans ?_ | refine (h5 _ _).trans ?_
    | refine get_ite_of (fun _ => ?_) (fun _ => ?_) | split | dsimp only

theorem endRun_get {φ : Fld} (hφ : φ ∉ [.sen]) (site : Nat) (s : State)  :
    φ.get (endRun site s) = φ.get s := by
  have h0 := @holdSlot_get φ (hφ)
  have h1 := @modSen_get φ (hφ)
  unfold endRun
  with_reducible
    repeat' first
    | rfl | refine (h0 _ _).trans ?_ | refine (h1 _ _ _).trans ?_ | refine get_ite_of (fun _ => ?_) (fun _ => ?_)
    | split | dsimp only

theorem restoreStress_get {φ : Fld} (hφ : φ ∉ [.hub]) (h : Nat) (s : State)  :
    φ.get (restoreStress h s) = φ.get s := by
  have h0 := @modHub_get φ (hφ)
  unfold restoreStress
  with_reducible
    repeat' first
    | rfl | refine (h0 _ _ _).trans ?_ | refine get_ite_of (fun _ => ?_) (fun _ => ?_) | split | dsimp only

theorem endHeat_get {φ : Fld} (hφ : φ ∉ [.sen]) (h : Nat) (s : State)  :
    φ.get (endHeat h s) = φ.get s := by
  have h0 := @holdSlot_get φ (hφ)
  have h1 := @modSen_get φ (hφ)
  unfold endHeat
  with_reducible
    repeat' first
    | rfl | refine (h0 _ _).trans ?_ | refine (h1 _ _ _).trans ?_ | refine (each_get _ _ (fun _ _ => ?_) _).trans ?_
    | refine get_ite_of (fun _ => ?_) (fun _ => ?_) | split | dsimp only

/-- Fields that discardRun may change. -/
def discardRunF : List Fld :=
  logF ++ ([.sen, .hub, .part] : List Fld)

theorem discardRun_get {φ : Fld} (hφ : φ ∉ discardRunF) (h reason : Nat) (s : State)  :
    φ.get (discardRun h reason s) = φ.get s := by
  have h0 := @endHeat_get φ (Fld.mono hφ rfl)
  have h1 := @endRun_get φ (Fld.mono hφ rfl)
  have h2 := @modHub_get φ (Fld.mono hφ rfl)
  have h3 := @recordFrom_get φ (Fld.mono hφ rfl)
  have h4 := @restoreStress_get φ (Fld.mono hφ rfl)
  unfold discardRun
  with_reducible
    repeat' first
    | rfl | refine (h0 _ _).trans ?_ | refine (h1 _ _).trans ?_ | refine (h2 _ _ _).trans ?_
    | refine (h3 _ _ _ _).trans ?_ | refine (h4 _ _).trans ?_ | refine (each_get _ _ (fun _ _ => ?_) _).trans ?_
    | refine get_ite_of (fun _ => ?_) (fun _ => ?_) | split | dsimp only

theorem sendContent_get {φ : Fld} (hφ : φ ∉ [.sent]) (sector : Nat) (blocks : List Block) (s : State)  :
    φ.get (sendContent sector blocks s) = φ.get s := by
  have h0 := @sendAll_get φ (hφ)
  unfold sendContent
  with_reducible
    repeat' first
    | rfl | refine (h0 _ _).trans ?_ | refine get_ite_of (fun _ => ?_) (fun _ => ?_) | split | dsimp only

theorem sendRecipe_get {φ : Fld} (hφ : φ ∉ [.sent, .hub]) (h : Nat) (s : State)  :
    φ.get (sendRecipe h s) = φ.get s := by
  have h0 := @modHub_get φ (Fld.mono hφ rfl)
  have h1 := @sendAll_get φ (Fld.mono hφ rfl)
  have h2 := @sendContent_get φ (Fld.mono hφ rfl)
  unfold sendRecipe
  with_reducible
    repeat' first
    | rfl | refine (h0 _ _ _).trans ?_ | refine (h1 _ _).trans ?_ | refine (h2 _ _ _).trans ?_
    | refine get_ite_of (fun _ => ?_) (fun _ => ?_) | split | dsimp only

theorem beginRun_get {φ : Fld} (hφ : φ ∉ [.sent, .hub, .screens]) (h : Nat) (s : State)  :
    φ.get (beginRun h s) = φ.get s := by
  have h0 := @countHub_get φ (Fld.mono hφ rfl)
  have h1 := @modHub_get φ (Fld.mono hφ rfl)
  have h2 := @sendRecipe_get φ (Fld.mono hφ rfl)
  have h3 := @setScreens_get φ (Fld.mono hφ rfl)
  unfold beginRun
  with_reducible
    repeat' first
    | rfl | refine (h0 _ _ _ _).trans ?_ | refine (h1 _ _ _).trans ?_ | refine (h2 _ _).trans ?_
    | refine (h3 _ _).trans ?_ | refine (each_get _ _ (fun _ _ => ?_) _).trans ?_
    | refine get_ite_of (fun _ => ?_) (fun _ => ?_) | split | dsimp only

theorem restUnits_get {φ : Fld} (hφ : φ ∉ [.hub]) (h : Nat) (s : State)  :
    φ.get (restUnits h s) = φ.get s := by
  have h0 := @modHub_get φ (hφ)
  unfold restUnits
  with_reducible
    repeat' first
    | rfl | refine (h0 _ _ _).trans ?_ | refine get_ite_of (fun _ => ?_) (fun _ => ?_) | split | dsimp only

theorem wakeUnits_get {φ : Fld} (hφ : φ ∉ [.hub]) (h : Nat) (s : State)  :
    φ.get (wakeUnits h s) = φ.get s := by
  have h0 := @modHub_get φ (hφ)
  unfold wakeUnits
  with_reducible
    repeat' first
    | rfl | refine (h0 _ _ _).trans ?_ | refine get_ite_of (fun _ => ?_) (fun _ => ?_) | split | dsimp only

/-- Fields that setUpRun may change. -/
def setUpRunF : List Fld :=
  [.sent, .sen, .hub, .screens]

theorem setUpRun_get {φ : Fld} (hφ : φ ∉ setUpRunF) (h point phase : Nat) (epoch : Dword) (testing : List Nat) (x : Pass) (s : State)  :
    φ.get (setUpRun h point phase epoch testing x s) = φ.get s := by
  have h0 := @beginRun_get φ (Fld.mono hφ rfl)
  have h1 := @modHub_get φ (Fld.mono hφ rfl)
  have h2 := @modSen_get φ (Fld.mono hφ rfl)
  unfold setUpRun
  with_reducible
    repeat' first
    | rfl | refine (h0 _ _).trans ?_ | refine (h1 _ _ _).trans ?_ | refine (h2 _ _ _).trans ?_
    | refine (each_get _ _ (fun _ _ => ?_) _).trans ?_ | refine get_ite_of (fun _ => ?_) (fun _ => ?_) | split
    | dsimp only

theorem startReplay_get {φ : Fld} (hφ : φ ∉ [.sent, .sen, .hub]) (h : Nat) (r : ReplayRec) (x : Pass) (s : State)  :
    φ.get (startReplay h r x s) = φ.get s := by
  have h0 := @countHub_get φ (Fld.mono hφ rfl)
  have h1 := @modHub_get φ (Fld.mono hφ rfl)
  have h2 := @modSen_get φ (Fld.mono hφ rfl)
  have h3 := @send_get φ (Fld.mono hφ rfl)
  have h4 := @sendContent_get φ (Fld.mono hφ rfl)
  unfold startReplay
  with_reducible
    repeat' first
    | rfl | refine (h0 _ _ _ _).trans ?_ | refine (h1 _ _ _).trans ?_ | refine (h2 _ _ _).trans ?_
    | refine (h3 _ _).trans ?_ | refine (h4 _ _ _).trans ?_ | refine get_ite_of (fun _ => ?_) (fun _ => ?_) | split
    | dsimp only

theorem skipPoints_get {φ : Fld} (hφ : φ ∉ finishScreenF) (site : Nat) (s : State)  :
    φ.get (skipPoints site s) = φ.get s := by
  have h0 := @finishScreen_get φ (hφ)
  have h1 := @setScreens_get φ (Fld.mono hφ rfl)
  unfold skipPoints
  with_reducible
    repeat' first
    | rfl | refine (h0 _ _ _).trans ?_ | refine (h1 _ _).trans ?_ | refine get_ite_of (fun _ => ?_) (fun _ => ?_)
    | split | dsimp only

theorem nextRun_get {φ : Fld} (hφ : φ ∉ finishScreenF) (h : Nat) (s : State)  :
    φ.get (nextRun h s) = φ.get s := by
  have h0 := @modHub_get φ (Fld.mono hφ rfl)
  have h1 := @restUnits_get φ (Fld.mono hφ rfl)
  have h2 := @restoreStress_get φ (Fld.mono hφ rfl)
  have h3 := @setUpRun_get φ (Fld.mono hφ rfl)
  have h4 := @skipPoints_get φ (hφ)
  have h5 := @startReplay_get φ (Fld.mono hφ rfl)
  unfold nextRun
  with_reducible
    repeat' first
    | rfl | refine (h0 _ _ _).trans ?_ | refine (h1 _ _).trans ?_ | refine (h2 _ _).trans ?_
    | refine (h3 _ _ _ _ _ _ _).trans ?_ | refine (h4 _ _).trans ?_ | refine (h5 _ _ _ _).trans ?_
    | refine (each_get _ _ (fun _ _ => ?_) _).trans ?_ | refine (foldl_get _ _ (fun _ _ => ?_) _).trans ?_
    | refine (foldl_fst_get _ _ (fun _ _ => ?_) _).trans ?_ | refine (foldl_snd_get _ _ (fun _ _ => ?_) _).trans ?_
    | refine get_ite_of (fun _ => ?_) (fun _ => ?_) | split | dsimp only

theorem joinPass_get {φ : Fld} (hφ : φ ∉ finishScreenF) (h : Nat) (sites : List Nat) (s : State)  :
    φ.get (joinPass h sites s) = φ.get s := by
  have h0 := @modHub_get φ (Fld.mono hφ rfl)
  have h1 := @nextRun_get φ (hφ)
  unfold joinPass
  with_reducible
    repeat' first
    | rfl | refine (h0 _ _ _).trans ?_ | refine (h1 _ _).trans ?_ | refine get_ite_of (fun _ => ?_) (fun _ => ?_)
    | split | dsimp only

theorem resumePasses_get {φ : Fld} (hφ : φ ∉ finishScreenF) (s : State)  :
    φ.get (resumePasses s) = φ.get s := by
  have h0 := @nextRun_get φ (hφ)
  unfold resumePasses
  with_reducible
    repeat' first
    | rfl | refine (h0 _ _).trans ?_ | refine (each_get _ _ (fun _ _ => ?_) _).trans ?_
    | refine get_ite_of (fun _ => ?_) (fun _ => ?_) | split | dsimp only

theorem discardRuns_get {φ : Fld} (hφ : φ ∉ discardRunF) (reason : Nat) (s : State)  :
    φ.get (discardRuns reason s) = φ.get s := by
  have h0 := @discardRun_get φ (hφ)
  unfold discardRuns
  with_reducible
    repeat' first
    | rfl | refine (h0 _ _ _).trans ?_ | refine (each_get _ _ (fun _ _ => ?_) _).trans ?_
    | refine get_ite_of (fun _ => ?_) (fun _ => ?_) | split | dsimp only

theorem leavePass_get {φ : Fld} (hφ : φ ∉ [.sen, .hub]) (site : Nat) (s : State)  :
    φ.get (leavePass site s) = φ.get s := by
  have h0 := @endRun_get φ (Fld.mono hφ rfl)
  have h1 := @modHub_get φ (Fld.mono hφ rfl)
  unfold leavePass
  with_reducible
    repeat' first
    | rfl | refine (h0 _ _).trans ?_ | refine (h1 _ _ _).trans ?_ | refine get_ite_of (fun _ => ?_) (fun _ => ?_)
    | split | dsimp only

theorem newScreen_get {φ : Fld} (hφ : φ ∉ [.screens]) (site : Nat) (c : Screen) (s : State)  :
    φ.get (newScreen site c s) = φ.get s := by
  have h0 := @setScreens_get φ (hφ)
  unfold newScreen
  with_reducible
    repeat' first
    | rfl | refine (h0 _ _).trans ?_ | refine get_ite_of (fun _ => ?_) (fun _ => ?_) | split | dsimp only

/-- Fields that cancelScreen may change. -/
def cancelScreenF : List Fld :=
  [.sen, .hub, .screens, .screenReqs]

theorem cancelScreen_get {φ : Fld} (hφ : φ ∉ cancelScreenF) (site : Nat) (s : State)  :
    φ.get (cancelScreen site s) = φ.get s := by
  have h0 := @leavePass_get φ (Fld.mono hφ rfl)
  have h1 := @setScreenReqs_get φ (Fld.mono hφ rfl)
  have h2 := @setScreens_get φ (Fld.mono hφ rfl)
  unfold cancelScreen
  with_reducible
    repeat' first
    | rfl | refine (h0 _ _).trans ?_ | refine (h1 _ _).trans ?_ | refine (h2 _ _).trans ?_
    | refine get_ite_of (fun _ => ?_) (fun _ => ?_) | split | dsimp only

/-- Fields that forceDeep may change. -/
def forceDeepF : List Fld :=
  logF ++ ([.journalSeq, .journal, .health, .unflushed, .deepPassed, .marginPrev, .sparesLow, .sen, .hub, .part,
    .xlat0, .xlat1, .routes0, .routes1, .screens, .screenReqs] : List Fld)

theorem forceDeep_get {φ : Fld} (hφ : φ ∉ forceDeepF) (site : Nat) (s : State)  :
    φ.get (forceDeep site s) = φ.get s := by
  have h0 := @joinPass_get φ (Fld.mono hφ rfl)
  have h1 := @newScreen_get φ (Fld.mono hφ rfl)
  have h2 := @send_get φ (Fld.mono hφ rfl)
  have h3 := @setScreenReqs_get φ (Fld.mono hφ rfl)
  unfold forceDeep
  with_reducible
    repeat' first
    | rfl | refine (h0 _ _ _).trans ?_ | refine (h1 _ _ _).trans ?_ | refine (h2 _ _).trans ?_
    | refine (h3 _ _).trans ?_ | refine get_ite_of (fun _ => ?_) (fun _ => ?_) | split | dsimp only

theorem startDeep_get {φ : Fld} (hφ : φ ∉ forceDeepF) (site : Nat) (s : State)  :
    φ.get (startDeep site s) = φ.get s := by
  have h0 := @forceDeep_get φ (hφ)
  unfold startDeep
  with_reducible
    repeat' first
    | rfl | refine (h0 _ _).trans ?_ | refine get_ite_of (fun _ => ?_) (fun _ => ?_) | split | dsimp only

theorem replayResult_get {φ : Fld} (hφ : φ ∉ acceptF) (r : ReplayRec) (outcome : Nat) (s : State)  :
    φ.get (replayResult r outcome s) = φ.get s := by
  have h0 := @recordFrom_get φ (hφ)
  unfold replayResult
  with_reducible
    repeat' first
    | rfl | refine (h0 _ _ _ _).trans ?_ | refine get_ite_of (fun _ => ?_) (fun _ => ?_) | split | dsimp only

theorem chargeReplay_get {φ : Fld} (hφ : φ ∉ forceDeepF) (r : ReplayRec) (compute checker : Bool) (s : State)  :
    φ.get (chargeReplay r compute checker s) = φ.get s := by
  have h0 := @charge_get φ (Fld.mono hφ rfl)
  have h1 := @newScreen_get φ (Fld.mono hφ rfl)
  have h2 := @reproduce_get φ (Fld.mono hφ rfl)
  have h3 := @startDeep_get φ (hφ)
  unfold chargeReplay
  with_reducible
    repeat' first
    | rfl | refine (h0 _ _ _ _ _).trans ?_ | refine (h1 _ _ _).trans ?_ | refine (h2 _ _ _).trans ?_
    | refine (h3 _ _).trans ?_ | refine get_ite_of (fun _ => ?_) (fun _ => ?_) | split | dsimp only

/-- Fields that endReplays may change. -/
def endReplaysF : List Fld :=
  logF ++ ([.hub, .part] : List Fld)

theorem endReplays_get {φ : Fld} (hφ : φ ∉ endReplaysF) (site : Nat) (s : State)  :
    φ.get (endReplays site s) = φ.get s := by
  have h0 := @modHub_get φ (Fld.mono hφ rfl)
  have h1 := @replayResult_get φ (Fld.mono hφ rfl)
  unfold endReplays
  with_reducible
    repeat' first
    | rfl | refine (h0 _ _ _).trans ?_ | refine (h1 _ _ _).trans ?_ | refine (each_get _ _ (fun _ _ => ?_) _).trans ?_
    | refine get_ite_of (fun _ => ?_) (fun _ => ?_) | split | dsimp only

theorem finishReplay_get {φ : Fld} (hφ : φ ∉ forceDeepF) (h : Nat) (r : ReplayRec) (s : State)  :
    φ.get (finishReplay h r s) = φ.get s := by
  have h0 := @chargeReplay_get φ (hφ)
  have h1 := @modHub_get φ (Fld.mono hφ rfl)
  have h2 := @replayResult_get φ (Fld.mono hφ rfl)
  unfold finishReplay
  with_reducible
    repeat' first
    | rfl | refine (h0 _ _ _ _).trans ?_ | refine (h1 _ _ _).trans ?_ | refine (h2 _ _ _).trans ?_
    | refine get_ite_of (fun _ => ?_) (fun _ => ?_) | split | dsimp only

end Sys2Proof.Machine
end

