-- ==== Sys2Proof/Laws/FrameActions.lean ====
section
/-!
SUPPORT. Frames of the operations of Machine/Actions.lean.
-/
namespace Sys2Proof.Machine

open Sys2Proof

set_option linter.all false
set_option Elab.async false

theorem openStep_get {φ : Fld} (hφ : φ ∉ acceptF) (p : Nat) (restart : Bool) (s : State)  :
    φ.get (openStep p restart s) = φ.get s := by
  have h0 := @complete_get φ (Fld.mono hφ rfl)
  have h1 := @modPart_get φ (Fld.mono hφ rfl)
  have h2 := @noteReason_get φ (Fld.mono hφ rfl)
  have h3 := @sendAll_get φ (Fld.mono hφ rfl)
  unfold openStep
  with_reducible
    repeat' first
    | rfl | refine (h0 _ _ _ _).trans ?_ | refine (h1 _ _ _).trans ?_ | refine (h2 _ _ _).trans ?_
    | refine (h3 _ _).trans ?_ | refine (each_get _ _ (fun _ _ => ?_) _).trans ?_
    | refine get_ite_of (fun _ => ?_) (fun _ => ?_) | split | dsimp only

theorem checkPair_get {φ : Fld} (hφ : φ ∉ logF) (p owner holder was : Nat) (s : State)  :
    φ.get (checkPair p owner holder was s) = φ.get s := by
  have h0 := @record_get φ (hφ)
  unfold checkPair
  with_reducible
    repeat' first
    | rfl | refine (h0 _ _ _).trans ?_ | refine get_ite_of (fun _ => ?_) (fun _ => ?_) | split | dsimp only

theorem restoreBank_get {φ : Fld} (hφ : φ ∉ putXlatF) (p tile : Nat) (s : State)  :
    φ.get (restoreBank p tile s) = φ.get s := by
  have h0 := @setRoutes0_get φ (Fld.mono hφ rfl)
  have h1 := @setRoutes1_get φ (Fld.mono hφ rfl)
  have h2 := @setXlat0_get φ (Fld.mono hφ rfl)
  have h3 := @setXlat1_get φ (Fld.mono hφ rfl)
  unfold restoreBank
  with_reducible
    repeat' first
    | rfl | refine (h0 _ _).trans ?_ | refine (h1 _ _).trans ?_ | refine (h2 _ _).trans ?_ | refine (h3 _ _).trans ?_
    | refine get_ite_of (fun _ => ?_) (fun _ => ?_) | split | dsimp only

theorem keepPrepared_get {φ : Fld} (hφ : φ ∉ putXlatF) (p : Nat) (w : Swap) (s : State)  :
    φ.get (keepPrepared p w s) = φ.get s := by
  have h0 := @putIdle_get φ (hφ)
  unfold keepPrepared
  with_reducible
    repeat' first
    | rfl | refine (h0 _ _ _ _ _).trans ?_ | refine get_ite_of (fun _ => ?_) (fun _ => ?_) | split | dsimp only

theorem fillRegions_get {φ : Fld} (hφ : φ ∉ [.sen]) (p : Nat) (w : Swap) (new st : Nat) (s : State)  :
    φ.get (fillRegions p w new st s) = φ.get s := by
  have h0 := @modSen_get φ (hφ)
  unfold fillRegions
  with_reducible
    repeat' first
    | rfl | refine (h0 _ _ _).trans ?_ | refine get_ite_of (fun _ => ?_) (fun _ => ?_) | split | dsimp only

/-- Fields that finishSwap may change. -/
def finishSwapF : List Fld :=
  logF ++ ([.journalSeq, .journal, .health, .sparesLow, .sen, .part, .gcount] : List Fld)

theorem finishSwap_get {φ : Fld} (hφ : φ ∉ finishSwapF) (p st hold : Nat) (w : Swap) (s : State)  :
    φ.get (finishSwap p st hold w s) = φ.get s := by
  have h0 := @changeSite_get φ (Fld.mono hφ rfl)
  have h1 := @completeAll_get φ (Fld.mono hφ rfl)
  have h2 := @countGlobal_get φ (Fld.mono hφ rfl)
  have h3 := @fillRegions_get φ (Fld.mono hφ rfl)
  have h4 := @holdSlot_get φ (Fld.mono hφ rfl)
  have h5 := @modSen_get φ (Fld.mono hφ rfl)
  have h6 := @record_get φ (Fld.mono hφ rfl)
  have h7 := @recordFrom_get φ (Fld.mono hφ rfl)
  have h8 := @send_get φ (Fld.mono hφ rfl)
  unfold finishSwap
  with_reducible
    repeat' first
    | rfl | refine (h0 _ _ _ _ _).trans ?_ | refine (h1 _ _ _ _).trans ?_ | refine (h2 _ _ _ _).trans ?_
    | refine (h3 _ _ _ _ _).trans ?_ | refine (h4 _ _).trans ?_ | refine (h5 _ _ _).trans ?_
    | refine (h6 _ _ _).trans ?_ | refine (h7 _ _ _ _).trans ?_ | refine (h8 _ _).trans ?_
    | refine get_ite_of (fun _ => ?_) (fun _ => ?_) | split | dsimp only

/-- Fields that openNext may change. -/
def openNextF : List Fld :=
  logF ++ ([.journalSeq, .journal, .health, .sparesLow, .sen, .part, .xlat0, .xlat1, .routes0, .routes1, .gcount] : List Fld)

theorem openNext_get {φ : Fld} (hφ : φ ∉ openNextF) (p : Nat) (s : State)  :
    φ.get (openNext p s) = φ.get s := by
  have h0 := @checkPair_get φ (Fld.mono hφ rfl)
  have h1 := @finishSwap_get φ (Fld.mono hφ rfl)
  have h2 := @keepPrepared_get φ (Fld.mono hφ rfl)
  have h3 := @modPart_get φ (Fld.mono hφ rfl)
  have h4 := @openStep_get φ (Fld.mono hφ rfl)
  have h5 := @restoreBank_get φ (Fld.mono hφ rfl)
  unfold openNext
  with_reducible
    repeat' first
    | rfl | refine (h0 _ _ _ _ _).trans ?_ | refine (h1 _ _ _ _ _).trans ?_ | refine (h2 _ _ _).trans ?_
    | refine (h3 _ _ _).trans ?_ | refine (h4 _ _ _).trans ?_ | refine (h5 _ _ _).trans ?_
    | refine (each_get _ _ (fun _ _ => ?_) _).trans ?_ | refine get_ite_of (fun _ => ?_) (fun _ => ?_) | split
    | dsimp only

theorem resumeJob_get {φ : Fld} (hφ : φ ∉ acceptF) (p contexts : Nat) (s : State)  :
    φ.get (resumeJob p contexts s) = φ.get s := by
  have h0 := @modPart_get φ (Fld.mono hφ rfl)
  have h1 := @openStep_get φ (hφ)
  unfold resumeJob
  with_reducible
    repeat' first
    | rfl | refine (h0 _ _ _).trans ?_ | refine (h1 _ _ _).trans ?_ | refine get_ite_of (fun _ => ?_) (fun _ => ?_)
    | split | dsimp only

theorem pruneCopies_get {φ : Fld} (hφ : φ ∉ [.part]) (p : Nat) (s : State)  :
    φ.get (pruneCopies p s) = φ.get s := by
  have h0 := @modPart_get φ (hφ)
  unfold pruneCopies
  with_reducible
    repeat' first
    | rfl | refine (h0 _ _ _).trans ?_ | refine get_ite_of (fun _ => ?_) (fun _ => ?_) | split | dsimp only

theorem tryCommit_get {φ : Fld} (hφ : φ ∉ [.part]) (p : Nat) (s : State)  :
    φ.get (tryCommit p s) = φ.get s := by
  have h0 := @modPart_get φ (hφ)
  have h1 := @pruneCopies_get φ (hφ)
  unfold tryCommit
  with_reducible
    repeat' first
    | rfl | refine (h0 _ _ _).trans ?_ | refine (h1 _ _).trans ?_ | refine get_ite_of (fun _ => ?_) (fun _ => ?_)
    | split | dsimp only

/-- Fields that finishRelease may change. -/
def finishReleaseF : List Fld :=
  logF ++ ([.slot, .journalSeq, .journal, .health, .unflushed, .deepPassed, .marginPrev, .sparesLow, .sen, .hub,
    .part, .xlat0, .xlat1, .routes0, .routes1, .screens, .stop, .gcount] : List Fld)

theorem finishRelease_get {φ : Fld} (hφ : φ ∉ finishReleaseF) (s : State)  :
    φ.get (finishRelease s) = φ.get s := by
  have h0 := @completeAll_get φ (Fld.mono hφ rfl)
  have h1 := @openNext_get φ (Fld.mono hφ rfl)
  have h2 := @record_get φ (Fld.mono hφ rfl)
  have h3 := @resumePasses_get φ (Fld.mono hφ rfl)
  have h4 := @setSlot_get φ (Fld.mono hφ rfl)
  have h5 := @setStop_get φ (Fld.mono hφ rfl)
  have h6 := @tryCommit_get φ (Fld.mono hφ rfl)
  unfold finishRelease
  with_reducible
    repeat' first
    | rfl | refine (h0 _ _ _ _).trans ?_ | refine (h1 _ _).trans ?_ | refine (h2 _ _ _).trans ?_
    | refine (h3 _).trans ?_ | refine (h4 _ _).trans ?_ | refine (h5 _ _).trans ?_ | refine (h6 _ _).trans ?_
    | refine (each_get _ _ (fun _ _ => ?_) _).trans ?_ | refine get_ite_of (fun _ => ?_) (fun _ => ?_) | split
    | dsimp only

theorem releaseStop_get {φ : Fld} (hφ : φ ∉ finishReleaseF) (cause : Nat) (seqs : List Nat) (s : State)  :
    φ.get (releaseStop cause seqs s) = φ.get s := by
  have h0 := @completeAll_get φ (Fld.mono hφ rfl)
  have h1 := @finishRelease_get φ (hφ)
  have h2 := @modSen_get φ (Fld.mono hφ rfl)
  have h3 := @modStop_get φ (Fld.mono hφ rfl)
  have h4 := @sendAll_get φ (Fld.mono hφ rfl)
  unfold releaseStop
  with_reducible
    repeat' first
    | rfl | refine (h0 _ _ _ _).trans ?_ | refine (h1 _).trans ?_ | refine (h2 _ _ _).trans ?_
    | refine (h3 _ _).trans ?_ | refine (h4 _ _).trans ?_ | refine (each_get _ _ (fun _ _ => ?_) _).trans ?_
    | refine (foldl_get _ _ (fun _ _ => ?_) _).trans ?_ | refine (foldl_fst_get _ _ (fun _ _ => ?_) _).trans ?_
    | refine (foldl_snd_get _ _ (fun _ _ => ?_) _).trans ?_ | refine get_ite_of (fun _ => ?_) (fun _ => ?_) | split
    | dsimp only

theorem endPasses_get {φ : Fld} (hφ : φ ∉ discardRunF) (p reason : Nat) (s : State)  :
    φ.get (endPasses p reason s) = φ.get s := by
  have h0 := @discardRun_get φ (hφ)
  have h1 := @modHub_get φ (Fld.mono hφ rfl)
  unfold endPasses
  with_reducible
    repeat' first
    | rfl | refine (h0 _ _ _).trans ?_ | refine (h1 _ _ _).trans ?_ | refine (each_get _ _ (fun _ _ => ?_) _).trans ?_
    | refine get_ite_of (fun _ => ?_) (fun _ => ?_) | split | dsimp only

/-- Fields that cancelScreens may change. -/
def cancelScreensF : List Fld :=
  logF ++ ([.sen, .hub, .part, .screens, .screenReqs] : List Fld)

theorem cancelScreens_get {φ : Fld} (hφ : φ ∉ cancelScreensF) (p : Nat) (s : State)  :
    φ.get (cancelScreens p s) = φ.get s := by
  have h0 := @cancelScreen_get φ (Fld.mono hφ rfl)
  have h1 := @endPasses_get φ (Fld.mono hφ rfl)
  have h2 := @setScreenReqs_get φ (Fld.mono hφ rfl)
  unfold cancelScreens
  with_reducible
    repeat' first
    | rfl | refine (h0 _ _).trans ?_ | refine (h1 _ _ _).trans ?_ | refine (h2 _ _).trans ?_
    | refine (each_get _ _ (fun _ _ => ?_) _).trans ?_ | refine get_ite_of (fun _ => ?_) (fun _ => ?_) | split
    | dsimp only

/-- Fields that abandonSwap may change. -/
def abandonSwapF : List Fld :=
  logF ++ ([.journalSeq, .journal, .health, .sparesLow, .part, .xlat0, .xlat1, .routes0, .routes1] : List Fld)

theorem abandonSwap_get {φ : Fld} (hφ : φ ∉ abandonSwapF) (p : Nat) (w : Swap) (s : State)  :
    φ.get (abandonSwap p w s) = φ.get s := by
  have h0 := @changeSite_get φ (Fld.mono hφ rfl)
  have h1 := @completeAll_get φ (Fld.mono hφ rfl)
  have h2 := @restoreBank_get φ (Fld.mono hφ rfl)
  unfold abandonSwap
  with_reducible
    repeat' first
    | rfl | refine (h0 _ _ _ _ _).trans ?_ | refine (h1 _ _ _ _).trans ?_ | refine (h2 _ _ _).trans ?_
    | refine get_ite_of (fun _ => ?_) (fun _ => ?_) | split | dsimp only

theorem abandonSwaps_get {φ : Fld} (hφ : φ ∉ abandonSwapF) (p : Nat) (s : State)  :
    φ.get (abandonSwaps p s) = φ.get s := by
  have h0 := @abandonSwap_get φ (hφ)
  have h1 := @modPart_get φ (Fld.mono hφ rfl)
  unfold abandonSwaps
  with_reducible
    repeat' first
    | rfl | refine (h0 _ _ _).trans ?_ | refine (h1 _ _ _).trans ?_ | refine (each_get _ _ (fun _ _ => ?_) _).trans ?_
    | refine get_ite_of (fun _ => ?_) (fun _ => ?_) | split | dsimp only

/-- Fields that putStepRec may change. -/
def putStepRecF : List Fld :=
  logF ++ ([.journalSeq, .journal, .part, .gcount] : List Fld)

theorem putStepRec_get {φ : Fld} (hφ : φ ∉ putStepRecF) (p : Nat) (r : StepRec) (s : State)  :
    φ.get (putStepRec p r s) = φ.get s := by
  have h0 := @countGlobal_get φ (Fld.mono hφ rfl)
  have h1 := @journalize_get φ (Fld.mono hφ rfl)
  have h2 := @modPart_get φ (Fld.mono hφ rfl)
  have h3 := @raiseAlert_get φ (Fld.mono hφ rfl)
  have h4 := @record_get φ (Fld.mono hφ rfl)
  unfold putStepRec
  with_reducible
    repeat' first
    | rfl | refine (h0 _ _ _ _).trans ?_ | refine (h1 _ _ _ _ _ _ _).trans ?_ | refine (h2 _ _ _).trans ?_
    | refine (h3 _ _).trans ?_ | refine (h4 _ _ _).trans ?_ | refine get_ite_of (fun _ => ?_) (fun _ => ?_) | split
    | dsimp only

/-- Fields that abortSteps may change. -/
def abortStepsF : List Fld :=
  logF ++ ([.journalSeq, .journal, .hub, .part, .gcount] : List Fld)

theorem abortSteps_get {φ : Fld} (hφ : φ ∉ abortStepsF) (p : Nat) (replay : Bool) (s : State)  :
    φ.get (abortSteps p replay s) = φ.get s := by
  have h0 := @modHub_get φ (Fld.mono hφ rfl)
  have h1 := @modPart_get φ (Fld.mono hφ rfl)
  have h2 := @putStepRec_get φ (Fld.mono hφ rfl)
  unfold abortSteps
  with_reducible
    repeat' first
    | rfl | refine (h0 _ _ _).trans ?_ | refine (h1 _ _ _).trans ?_ | refine (h2 _ _ _).trans ?_
    | refine (each_get _ _ (fun _ _ => ?_) _).trans ?_ | refine get_ite_of (fun _ => ?_) (fun _ => ?_) | split
    | dsimp only

theorem finishSnapshot_get {φ : Fld} (hφ : φ ∉ acceptF) (p : Nat) (s : State)  :
    φ.get (finishSnapshot p s) = φ.get s := by
  have h0 := @complete_get φ (Fld.mono hφ rfl)
  have h1 := @modPart_get φ (Fld.mono hφ rfl)
  have h2 := @record_get φ (Fld.mono hφ rfl)
  unfold finishSnapshot
  with_reducible
    repeat' first
    | rfl | refine (h0 _ _ _ _).trans ?_ | refine (h1 _ _ _).trans ?_ | refine (h2 _ _ _).trans ?_
    | refine (each_get _ _ (fun _ _ => ?_) _).trans ?_ | refine get_ite_of (fun _ => ?_) (fun _ => ?_) | split
    | dsimp only

theorem cutSnapshot_get {φ : Fld} (hφ : φ ∉ acceptF) (p : Nat) (s : State)  :
    φ.get (cutSnapshot p s) = φ.get s := by
  have h0 := @finishSnapshot_get φ (hφ)
  have h1 := @modPart_get φ (Fld.mono hφ rfl)
  unfold cutSnapshot
  with_reducible
    repeat' first
    | rfl | refine (h0 _ _).trans ?_ | refine (h1 _ _ _).trans ?_ | refine (foldl_get _ _ (fun _ _ => ?_) _).trans ?_
    | refine (foldl_fst_get _ _ (fun _ _ => ?_) _).trans ?_ | refine (foldl_snd_get _ _ (fun _ _ => ?_) _).trans ?_
    | refine get_ite_of (fun _ => ?_) (fun _ => ?_) | split | dsimp only

/-- Fields that takeSnapshot may change. -/
def takeSnapshotF : List Fld :=
  logF ++ ([.sen, .part] : List Fld)

theorem takeSnapshot_get {φ : Fld} (hφ : φ ∉ takeSnapshotF) (p cause seq : Nat) (path : List Edge) (s : State)  :
    φ.get (takeSnapshot p cause seq path s) = φ.get s := by
  have h0 := @finishSnapshot_get φ (Fld.mono hφ rfl)
  have h1 := @modPart_get φ (Fld.mono hφ rfl)
  have h2 := @sendAll_get φ (Fld.mono hφ rfl)
  have h3 := @waitWake_get φ (Fld.mono hφ rfl)
  unfold takeSnapshot
  with_reducible
    repeat' first
    | rfl | refine (h0 _ _).trans ?_ | refine (h1 _ _ _).trans ?_ | refine (h2 _ _).trans ?_
    | refine (h3 _ _ _).trans ?_ | refine (each_get _ _ (fun _ _ => ?_) _).trans ?_
    | refine get_ite_of (fun _ => ?_) (fun _ => ?_) | split | dsimp only

theorem goDown_get {φ : Fld} (hφ : φ ∉ acceptF) (p reason : Nat) (s : State)  :
    φ.get (goDown p reason s) = φ.get s := by
  have h0 := @modPart_get φ (Fld.mono hφ rfl)
  have h1 := @raiseAlert_get φ (Fld.mono hφ rfl)
  have h2 := @record_get φ (Fld.mono hφ rfl)
  unfold goDown
  with_reducible
    repeat' first
    | rfl | refine (h0 _ _ _).trans ?_ | refine (h1 _ _).trans ?_ | refine (h2 _ _ _).trans ?_
    | refine get_ite_of (fun _ => ?_) (fun _ => ?_) | split | dsimp only

theorem recordPoison_get {φ : Fld} (hφ : φ ∉ acceptF) (p : Nat) (s : State)  :
    φ.get (recordPoison p s) = φ.get s := by
  have h0 := @modPart_get φ (Fld.mono hφ rfl)
  have h1 := @raiseAlert_get φ (Fld.mono hφ rfl)
  have h2 := @recordFrom_get φ (hφ)
  unfold recordPoison
  with_reducible
    repeat' first
    | rfl | refine (h0 _ _ _).trans ?_ | refine (h1 _ _).trans ?_ | refine (h2 _ _ _ _).trans ?_
    | refine get_ite_of (fun _ => ?_) (fun _ => ?_) | split | dsimp only

theorem failFence_get {φ : Fld} (hφ : φ ∉ chargeF) (p result : Nat) (failed : List Nat) (s : State)  :
    φ.get (failFence p result failed s) = φ.get s := by
  have h0 := @chargeLoss_get φ (hφ)
  have h1 := @completeAll_get φ (Fld.mono hφ rfl)
  have h2 := @goDown_get φ (Fld.mono hφ rfl)
  have h3 := @modPart_get φ (Fld.mono hφ rfl)
  have h4 := @record_get φ (Fld.mono hφ rfl)
  have h5 := @recordPoison_get φ (Fld.mono hφ rfl)
  unfold failFence
  with_reducible
    repeat' first
    | rfl | refine (h0 _ _).trans ?_ | refine (h1 _ _ _ _).trans ?_ | refine (h2 _ _ _).trans ?_
    | refine (h3 _ _ _).trans ?_ | refine (h4 _ _ _).trans ?_ | refine (h5 _ _).trans ?_
    | refine (each_get _ _ (fun _ _ => ?_) _).trans ?_ | refine get_ite_of (fun _ => ?_) (fun _ => ?_) | split
    | dsimp only

/-- Fields that yieldToFence may change. -/
def yieldToFenceF : List Fld :=
  logF ++ ([.slot, .journalSeq, .journal, .health, .unflushed, .deepPassed, .marginPrev, .sparesLow, .sen, .hub,
    .part, .xlat0, .xlat1, .routes0, .routes1, .screens, .screenReqs, .stop, .gcount] : List Fld)

theorem yieldToFence_get {φ : Fld} (hφ : φ ∉ yieldToFenceF) (p : Nat) (s : State)  :
    φ.get (yieldToFence p s) = φ.get s := by
  have h0 := @abandonSwaps_get φ (Fld.mono hφ rfl)
  have h1 := @cancelScreens_get φ (Fld.mono hφ rfl)
  have h2 := @cutSnapshot_get φ (Fld.mono hφ rfl)
  have h3 := @releaseStop_get φ (Fld.mono hφ rfl)
  unfold yieldToFence
  with_reducible
    repeat' first
    | rfl | refine (h0 _ _).trans ?_ | refine (h1 _ _).trans ?_ | refine (h2 _ _).trans ?_
    | refine (h3 _ _ _).trans ?_ | refine get_ite_of (fun _ => ?_) (fun _ => ?_) | split | dsimp only

theorem startReset_get {φ : Fld} (hφ : φ ∉ yieldToFenceF) (p cause began : Nat) (seqs : List Nat) (s : State)  :
    φ.get (startReset p cause began seqs s) = φ.get s := by
  have h0 := @holdSlot_get φ (Fld.mono hφ rfl)
  have h1 := @journalize_get φ (Fld.mono hφ rfl)
  have h2 := @modPart_get φ (Fld.mono hφ rfl)
  have h3 := @modSen_get φ (Fld.mono hφ rfl)
  have h4 := @sendAll_get φ (Fld.mono hφ rfl)
  have h5 := @yieldToFence_get φ (hφ)
  unfold startReset
  with_reducible
    repeat' first
    | rfl | refine (h0 _ _).trans ?_ | refine (h1 _ _ _ _ _ _ _).trans ?_ | refine (h2 _ _ _).trans ?_
    | refine (h3 _ _ _).trans ?_ | refine (h4 _ _).trans ?_ | refine (h5 _ _).trans ?_
    | refine (each_get _ _ (fun _ _ => ?_) _).trans ?_ | refine get_ite_of (fun _ => ?_) (fun _ => ?_) | split
    | dsimp only

theorem resetPartition_get {φ : Fld} (hφ : φ ∉ yieldToFenceF) (p cause began : Nat) (seqs : List Nat) (s : State)  :
    φ.get (resetPartition p cause began seqs s) = φ.get s := by
  have h0 := @completeAll_get φ (Fld.mono hφ rfl)
  have h1 := @startReset_get φ (hφ)
  unfold resetPartition
  with_reducible
    repeat' first
    | rfl | refine (h0 _ _ _ _).trans ?_ | refine (h1 _ _ _ _ _).trans ?_
    | refine get_ite_of (fun _ => ?_) (fun _ => ?_) | split | dsimp only

theorem checkFence_get {φ : Fld} (hφ : φ ∉ yieldToFenceF) (p : Nat) (s : State)  :
    φ.get (checkFence p s) = φ.get s := by
  have h0 := @completeAll_get φ (Fld.mono hφ rfl)
  have h1 := @failFence_get φ (Fld.mono hφ rfl)
  have h2 := @modPart_get φ (Fld.mono hφ rfl)
  have h3 := @record_get φ (Fld.mono hφ rfl)
  have h4 := @resetPartition_get φ (hφ)
  unfold checkFence
  with_reducible
    repeat' first
    | rfl | refine (h0 _ _ _ _).trans ?_ | refine (h1 _ _ _ _).trans ?_ | refine (h2 _ _ _).trans ?_
    | refine (h3 _ _ _).trans ?_ | refine (h4 _ _ _ _ _).trans ?_ | refine get_ite_of (fun _ => ?_) (fun _ => ?_)
    | split | dsimp only

theorem issueFence_get {φ : Fld} (hφ : φ ∉ yieldToFenceF) (p : Nat) (s : State)  :
    φ.get (issueFence p s) = φ.get s := by
  have h0 := @checkFence_get φ (hφ)
  have h1 := @modPart_get φ (Fld.mono hφ rfl)
  have h2 := @sendAll_get φ (Fld.mono hφ rfl)
  unfold issueFence
  with_reducible
    repeat' first
    | rfl | refine (h0 _ _).trans ?_ | refine (h1 _ _ _).trans ?_ | refine (h2 _ _).trans ?_
    | refine get_ite_of (fun _ => ?_) (fun _ => ?_) | split | dsimp only

theorem startFence_get {φ : Fld} (hφ : φ ∉ yieldToFenceF) (p cause : Nat) (seqs : List Nat) (rst : Option Nat) (s : State)  :
    φ.get (startFence p cause seqs rst s) = φ.get s := by
  have h0 := @abortSteps_get φ (Fld.mono hφ rfl)
  have h1 := @completeAll_get φ (Fld.mono hφ rfl)
  have h2 := @issueFence_get φ (hφ)
  have h3 := @modPart_get φ (Fld.mono hφ rfl)
  have h4 := @resetPartition_get φ (hφ)
  have h5 := @yieldToFence_get φ (hφ)
  unfold startFence
  with_reducible
    repeat' first
    | rfl | refine (h0 _ _ _).trans ?_ | refine (h1 _ _ _ _).trans ?_ | refine (h2 _ _).trans ?_
    | refine (h3 _ _ _).trans ?_ | refine (h4 _ _ _ _ _).trans ?_ | refine (h5 _ _).trans ?_
    | refine get_ite_of (fun _ => ?_) (fun _ => ?_) | split | dsimp only

theorem finishTeardown_get {φ : Fld} (hφ : φ ∉ acceptF) (p : Nat) (s : State)  :
    φ.get (finishTeardown p s) = φ.get s := by
  have h0 := @completeAll_get φ (Fld.mono hφ rfl)
  have h1 := @modPart_get φ (Fld.mono hφ rfl)
  unfold finishTeardown
  with_reducible
    repeat' first
    | rfl | refine (h0 _ _ _ _).trans ?_ | refine (h1 _ _ _).trans ?_ | refine get_ite_of (fun _ => ?_) (fun _ => ?_)
    | split | dsimp only

theorem endTeardown_get {φ : Fld} (hφ : φ ∉ yieldToFenceF) (p context reads writes : Nat) (dirty : Bool) (s : State)  :
    φ.get (endTeardown p context reads writes dirty s) = φ.get s := by
  have h0 := @checkFence_get φ (hφ)
  have h1 := @finishTeardown_get φ (Fld.mono hφ rfl)
  have h2 := @modPart_get φ (Fld.mono hφ rfl)
  have h3 := @record_get φ (Fld.mono hφ rfl)
  unfold endTeardown
  with_reducible
    repeat' first
    | rfl | refine (h0 _ _).trans ?_ | refine (h1 _ _).trans ?_ | refine (h2 _ _ _).trans ?_
    | refine (h3 _ _ _).trans ?_ | refine get_ite_of (fun _ => ?_) (fun _ => ?_) | split | dsimp only

theorem discardLoad_get {φ : Fld} (hφ : φ ∉ endReplaysF) (p status : Nat) (s : State)  :
    φ.get (discardLoad p status s) = φ.get s := by
  have h0 := @complete_get φ (Fld.mono hφ rfl)
  have h1 := @modHub_get φ (Fld.mono hφ rfl)
  have h2 := @modPart_get φ (Fld.mono hφ rfl)
  unfold discardLoad
  with_reducible
    repeat' first
    | rfl | refine (h0 _ _ _ _).trans ?_ | refine (h1 _ _ _).trans ?_ | refine (h2 _ _ _).trans ?_
    | refine (each_get _ _ (fun _ _ => ?_) _).trans ?_ | refine get_ite_of (fun _ => ?_) (fun _ => ?_) | split
    | dsimp only

theorem installSet_get {φ : Fld} (hφ : φ ∉ [.sen, .hub]) (set : List Byte) (p h : Nat) (s : State)  :
    φ.get (installSet set p h s) = φ.get s := by
  have h0 := @modHub_get φ (Fld.mono hφ rfl)
  have h1 := @modSen_get φ (Fld.mono hφ rfl)
  unfold installSet
  with_reducible
    repeat' first
    | rfl | refine (h0 _ _ _).trans ?_ | refine (h1 _ _ _).trans ?_ | refine (each_get _ _ (fun _ _ => ?_) _).trans ?_
    | refine get_ite_of (fun _ => ?_) (fun _ => ?_) | split | dsimp only

theorem dropReplays_get {φ : Fld} (hφ : φ ∉ endReplaysF) (p h : Nat) (s : State)  :
    φ.get (dropReplays p h s) = φ.get s := by
  have h0 := @modHub_get φ (Fld.mono hφ rfl)
  have h1 := @replayResult_get φ (Fld.mono hφ rfl)
  unfold dropReplays
  with_reducible
    repeat' first
    | rfl | refine (h0 _ _ _).trans ?_ | refine (h1 _ _ _).trans ?_ | refine (each_get _ _ (fun _ _ => ?_) _).trans ?_
    | refine get_ite_of (fun _ => ?_) (fun _ => ?_) | split | dsimp only

theorem detachJob_get {φ : Fld} (hφ : φ ∉ prepareSwapF) (p : Nat) (s : State)  :
    φ.get (detachJob p s) = φ.get s := by
  have h0 := @abandonSwaps_get φ (Fld.mono hφ rfl)
  have h1 := @complete_get φ (Fld.mono hφ rfl)
  have h2 := @discardLoad_get φ (Fld.mono hφ rfl)
  have h3 := @dropReplays_get φ (Fld.mono hφ rfl)
  have h4 := @installSet_get φ (Fld.mono hφ rfl)
  have h5 := @modHub_get φ (Fld.mono hφ rfl)
  have h6 := @modPart_get φ (Fld.mono hφ rfl)
  have h7 := @restUnits_get φ (Fld.mono hφ rfl)
  have h8 := @retrySuspects_get φ (hφ)
  unfold detachJob
  with_reducible
    repeat' first
    | rfl | refine (h0 _ _).trans ?_ | refine (h1 _ _ _ _).trans ?_ | refine (h2 _ _ _).trans ?_
    | refine (h3 _ _ _).trans ?_ | refine (h4 _ _ _ _).trans ?_ | refine (h5 _ _ _).trans ?_
    | refine (h6 _ _ _).trans ?_ | refine (h7 _ _).trans ?_ | refine (h8 _ _).trans ?_
    | refine (each_get _ _ (fun _ _ => ?_) _).trans ?_ | refine get_ite_of (fun _ => ?_) (fun _ => ?_) | split
    | dsimp only

end Sys2Proof.Machine
end

