-- ==== Sys2Proof/Laws/FrameTracer.lean ====
section
/-!
SUPPORT. Frames of the operations of Machine/Tracer.lean.
-/
namespace Sys2Proof.Machine

open Sys2Proof

set_option linter.all false
set_option Elab.async false

theorem fireTrigger_get {φ : Fld} (hφ : φ ∉ [.sent, .sen]) (site : Nat) (s : State)  :
    φ.get (fireTrigger site s) = φ.get s := by
  have h0 := @modSen_get φ (Fld.mono hφ rfl)
  have h1 := @senEvent_get φ (hφ)
  have h2 := @send_get φ (Fld.mono hφ rfl)
  have h3 := @sendAll_get φ (Fld.mono hφ rfl)
  unfold fireTrigger
  with_reducible
    repeat' first
    | rfl | refine (h0 _ _ _).trans ?_ | refine (h1 _ _ _ _).trans ?_ | refine (h2 _ _).trans ?_
    | refine (h3 _ _).trans ?_ | refine get_ite_of (fun _ => ?_) (fun _ => ?_) | split | dsimp only

theorem fireUnwritten_get {φ : Fld} (hφ : φ ∉ [.sent, .sen]) (site kind : Nat) (s : State)  :
    φ.get (fireUnwritten site kind s) = φ.get s := by
  have h0 := @fireTrigger_get φ (hφ)
  have h1 := @modSen_get φ (Fld.mono hφ rfl)
  unfold fireUnwritten
  with_reducible
    repeat' first
    | rfl | refine (h0 _ _).trans ?_ | refine (h1 _ _ _).trans ?_ | refine get_ite_of (fun _ => ?_) (fun _ => ?_)
    | split | dsimp only

theorem traceLost_get {φ : Fld} (hφ : φ ∉ [.sen]) (site : Nat) (s : State)  :
    φ.get (traceLost site s) = φ.get s := by
  have h0 := @countSen_get φ (hφ)
  have h1 := @raiseEv_get φ (hφ)
  unfold traceLost
  with_reducible
    repeat' first
    | rfl | refine (h0 _ _ _ _).trans ?_ | refine (h1 _ _ _ _).trans ?_
    | refine get_ite_of (fun _ => ?_) (fun _ => ?_) | split | dsimp only

theorem traceRecord_get {φ : Fld} (hφ : φ ∉ [.sent, .sen]) (site : Nat) (op : QueueOp) (ended discarded : Bool) (s : State)  :
    φ.get (traceRecord site op ended discarded s) = φ.get s := by
  have h0 := @countSen_get φ (Fld.mono hφ rfl)
  have h1 := @fireTrigger_get φ (hφ)
  have h2 := @modSen_get φ (Fld.mono hφ rfl)
  have h3 := @raiseEv_get φ (Fld.mono hφ rfl)
  have h4 := @traceLost_get φ (Fld.mono hφ rfl)
  unfold traceRecord
  with_reducible
    repeat' first
    | rfl | refine (h0 _ _ _ _).trans ?_ | refine (h1 _ _).trans ?_ | refine (h2 _ _ _).trans ?_
    | refine (h3 _ _ _ _).trans ?_ | refine (h4 _ _).trans ?_ | refine get_ite_of (fun _ => ?_) (fun _ => ?_) | split
    | dsimp only

theorem dropMatch_get {φ : Fld} (hφ : φ ∉ [.sen, .hub]) (site n : Nat) (s : State)  :
    φ.get (dropMatch site n s) = φ.get s := by
  have h0 := @countSen_get φ (Fld.mono hφ rfl)
  have h1 := @modHub_get φ (Fld.mono hφ rfl)
  unfold dropMatch
  with_reducible
    repeat' first
    | rfl | refine (h0 _ _ _ _).trans ?_ | refine (h1 _ _ _).trans ?_ | refine get_ite_of (fun _ => ?_) (fun _ => ?_)
    | split | dsimp only

theorem watchMatch_get {φ : Fld} (hφ : φ ∉ [.sent, .sen, .hub]) (site n kind : Nat) (b : Block) (s : State)  :
    φ.get (watchMatch site n kind b s) = φ.get s := by
  have h0 := @countSen_get φ (Fld.mono hφ rfl)
  have h1 := @dropMatch_get φ (Fld.mono hφ rfl)
  have h2 := @fireUnwritten_get φ (Fld.mono hφ rfl)
  have h3 := @modHub_get φ (Fld.mono hφ rfl)
  have h4 := @modSen_get φ (Fld.mono hφ rfl)
  unfold watchMatch
  with_reducible
    repeat' first
    | rfl | refine (h0 _ _ _ _).trans ?_ | refine (h1 _ _ _).trans ?_ | refine (h2 _ _ _).trans ?_
    | refine (h3 _ _ _).trans ?_ | refine (h4 _ _ _).trans ?_ | refine get_ite_of (fun _ => ?_) (fun _ => ?_) | split
    | dsimp only

theorem watchBlock_get {φ : Fld} (hφ : φ ∉ [.sent, .sen, .hub]) (site kind : Nat) (b : Block) (s : State)  :
    φ.get (watchBlock site kind b s) = φ.get s := by
  have h0 := @watchMatch_get φ (hφ)
  unfold watchBlock
  with_reducible
    repeat' first
    | rfl | refine (h0 _ _ _ _ _).trans ?_ | refine (each_get _ _ (fun _ _ => ?_) _).trans ?_
    | refine get_ite_of (fun _ => ?_) (fun _ => ?_) | split | dsimp only

end Sys2Proof.Machine
end

