-- ==== Sys2Proof/Laws/FrameRegisters.lean ====
section
/-!
SUPPORT. Frames of the operations of Machine/Registers.lean.
-/
namespace Sys2Proof.Machine

open Sys2Proof

set_option linter.all false
set_option Elab.async false

theorem senReadAll_get {φ : Fld} (hφ : φ ∉ [.sen]) (site : Nat) (x0 : List Nat) (s : State) :
    φ.get (senReadAll site x0 s).1 = φ.get s := by
  induction x0 generalizing s with
  | nil => rfl
  | cons o os ih =>
    simp only [senReadAll]
    exact (ih _).trans (modSen_get hφ _ _ _)

theorem answer_get {φ : Fld} (hφ : φ ∉ [.answers]) (unit opcode tag status : Nat) (words : List Word) (s : State)  :
    φ.get (answer unit opcode tag status words s) = φ.get s := by
  cases φ <;> first | exact rfl | exact absurd (by decide) hφ | (unfold answer; split <;> rfl)

theorem senRead_get {φ : Fld} (hφ : φ ∉ [.sen, .answers]) (site off n tag : Nat) (s : State)  :
    φ.get (senRead site off n tag s) = φ.get s := by
  have h0 := @answer_get φ (Fld.mono hφ rfl)
  have h1 := @senReadAll_get φ (Fld.mono hφ rfl)
  unfold senRead
  with_reducible
    repeat' first
    | rfl | refine (h0 _ _ _ _ _ _).trans ?_ | refine (h1 _ _ _).trans ?_
    | refine get_ite_of (fun _ => ?_) (fun _ => ?_) | split | dsimp only

theorem settleIdle_get {φ : Fld} (hφ : φ ∉ [.sen]) (site : Nat) (s : State)  :
    φ.get (settleIdle site s) = φ.get s := by
  have h0 := @modSen_get φ (hφ)
  have h1 := @waitFront_get φ (hφ)
  unfold settleIdle
  with_reducible
    repeat' first
    | rfl | refine (h0 _ _ _).trans ?_ | refine (h1 _ _ _).trans ?_ | refine get_ite_of (fun _ => ?_) (fun _ => ?_)
    | split | dsimp only

theorem senWrite_get {φ : Fld} (hφ : φ ∉ [.sen, .answers]) (site off : Nat) (ws : List Word) (tag : Nat) (s : State)  :
    φ.get (senWrite site off ws tag s) = φ.get s := by
  have h0 := @answer_get φ (Fld.mono hφ rfl)
  have h1 := @modSen_get φ (Fld.mono hφ rfl)
  have h2 := @settleIdle_get φ (Fld.mono hφ rfl)
  unfold senWrite
  with_reducible
    repeat' first
    | rfl | refine (h0 _ _ _ _ _ _).trans ?_ | refine (h1 _ _ _).trans ?_ | refine (h2 _ _).trans ?_
    | refine get_ite_of (fun _ => ?_) (fun _ => ?_) | split | dsimp only

theorem hubRead_get {φ : Fld} (hφ : φ ∉ [.answers]) (h off n tag : Nat) (s : State)  :
    φ.get (hubRead h off n tag s) = φ.get s := by
  have h0 := @answer_get φ (hφ)
  unfold hubRead
  with_reducible
    repeat' first
    | rfl | refine (h0 _ _ _ _ _ _).trans ?_ | refine get_ite_of (fun _ => ?_) (fun _ => ?_) | split | dsimp only

theorem hubWrite_get {φ : Fld} (hφ : φ ∉ [.hub, .answers]) (h off : Nat) (ws : List Word) (tag : Nat) (s : State)  :
    φ.get (hubWrite h off ws tag s) = φ.get s := by
  have h0 := @answer_get φ (Fld.mono hφ rfl)
  have h1 := @modHub_get φ (Fld.mono hφ rfl)
  unfold hubWrite
  with_reducible
    repeat' first
    | rfl | refine (h0 _ _ _ _ _ _).trans ?_ | refine (h1 _ _ _).trans ?_
    | refine get_ite_of (fun _ => ?_) (fun _ => ?_) | split | dsimp only

theorem waitUnit_get {φ : Fld} (hφ : φ ∉ [.hub]) (h unit : Nat) (m : Instr) (s : State)  :
    φ.get (waitUnit h unit m s) = φ.get s := by
  have h0 := @modHub_get φ (hφ)
  unfold waitUnit
  with_reducible
    repeat' first
    | rfl | refine (h0 _ _ _).trans ?_ | refine get_ite_of (fun _ => ?_) (fun _ => ?_) | split | dsimp only

theorem programStore_get {φ : Fld} (hφ : φ ∉ [.sen, .answers]) (site offset : Nat) (words : List Word) (tag : Nat) (s : State)  :
    φ.get (programStore site offset words tag s) = φ.get s := by
  have h0 := @answer_get φ (Fld.mono hφ rfl)
  have h1 := @modSen_get φ (Fld.mono hφ rfl)
  unfold programStore
  with_reducible
    repeat' first
    | rfl | refine (h0 _ _ _ _ _ _).trans ?_ | refine (h1 _ _ _).trans ?_
    | refine get_ite_of (fun _ => ?_) (fun _ => ?_) | split | dsimp only

theorem programLoad_get {φ : Fld} (hφ : φ ∉ [.answers]) (site offset count tag : Nat) (s : State)  :
    φ.get (programLoad site offset count tag s) = φ.get s := by
  have h0 := @answer_get φ (hφ)
  unfold programLoad
  with_reducible
    repeat' first
    | rfl | refine (h0 _ _ _ _ _ _).trans ?_ | refine get_ite_of (fun _ => ?_) (fun _ => ?_) | split | dsimp only

theorem performAccess_get {φ : Fld} (hφ : φ ∉ [.sent, .sen, .answers]) (m : Instr) (s : State)  :
    φ.get (performAccess m s) = φ.get s := by
  have h0 := @programLoad_get φ (Fld.mono hφ rfl)
  have h1 := @programStore_get φ (Fld.mono hφ rfl)
  have h2 := @senRead_get φ (Fld.mono hφ rfl)
  have h3 := @senWrite_get φ (Fld.mono hφ rfl)
  have h4 := @send_get φ (Fld.mono hφ rfl)
  have h5 := @takeEv_get φ (Fld.mono hφ rfl)
  unfold performAccess
  with_reducible
    repeat' first
    | rfl | refine (h0 _ _ _ _ _).trans ?_ | refine (h1 _ _ _ _ _).trans ?_ | refine (h2 _ _ _ _ _).trans ?_
    | refine (h3 _ _ _ _ _).trans ?_ | refine (h4 _ _).trans ?_ | refine (h5 _ _ _).trans ?_
    | refine get_ite_of (fun _ => ?_) (fun _ => ?_) | split | dsimp only

theorem timeoutAccess_get {φ : Fld} (hφ : φ ∉ [.sent, .answers]) (m : Instr) (s : State)  :
    φ.get (timeoutAccess m s) = φ.get s := by
  have h0 := @answer_get φ (Fld.mono hφ rfl)
  have h1 := @send_get φ (Fld.mono hφ rfl)
  unfold timeoutAccess
  with_reducible
    repeat' first
    | rfl | refine (h0 _ _ _ _ _ _).trans ?_ | refine (h1 _ _).trans ?_
    | refine get_ite_of (fun _ => ?_) (fun _ => ?_) | split | dsimp only

theorem serveWake_get {φ : Fld} (hφ : φ ∉ [.sent, .sen, .answers]) (site : Nat) (s : State)  :
    φ.get (serveWake site s) = φ.get s := by
  have h0 := @modSen_get φ (Fld.mono hφ rfl)
  have h1 := @performAccess_get φ (hφ)
  unfold serveWake
  with_reducible
    repeat' first
    | rfl | refine (h0 _ _ _).trans ?_ | refine (h1 _ _).trans ?_ | refine (each_get _ _ (fun _ _ => ?_) _).trans ?_
    | refine get_ite_of (fun _ => ?_) (fun _ => ?_) | split | dsimp only

end Sys2Proof.Machine
end

