-- ==== Sys2Proof/Laws/FrameTileFront.lean ====
section
/-!
SUPPORT. Frames of the operations of Machine/TileFront.lean.
-/
namespace Sys2Proof.Machine

open Sys2Proof

set_option linter.all false
set_option Elab.async false

theorem failLineage_get {φ : Fld} (hφ : φ ∉ [.sen]) (site lineage : Nat) (s : State)  :
    φ.get (failLineage site lineage s) = φ.get s := by
  have h0 := @modSen_get φ (hφ)
  unfold failLineage
  with_reducible
    repeat' first
    | rfl | refine (h0 _ _ _).trans ?_ | refine get_ite_of (fun _ => ?_) (fun _ => ?_) | split | dsimp only

theorem sramReport_get {φ : Fld} (hφ : φ ∉ chargeF) (site : Nat) (corrected : Bool) (path address : Nat) (s : State)  :
    φ.get (sramReport site corrected path address s) = φ.get s := by
  have h0 := @charge_get φ (hφ)
  have h1 := @senEvent_get φ (Fld.mono hφ rfl)
  unfold sramReport
  with_reducible
    repeat' first
    | rfl | refine (h0 _ _ _ _ _).trans ?_ | refine (h1 _ _ _ _).trans ?_
    | refine get_ite_of (fun _ => ?_) (fun _ => ?_) | split | dsimp only

theorem drainItem_get {φ : Fld} (hφ : φ ∉ chargeF) (site : Nat) (e : FrontEntry) (s : State)  :
    φ.get (drainItem site e s) = φ.get s := by
  have h0 := @failLineage_get φ (Fld.mono hφ rfl)
  have h1 := @fireUnwritten_get φ (Fld.mono hφ rfl)
  have h2 := @senReport_get φ (Fld.mono hφ rfl)
  have h3 := @send_get φ (Fld.mono hφ rfl)
  have h4 := @setAlarm_get φ (Fld.mono hφ rfl)
  have h5 := @sramReport_get φ (hφ)
  unfold drainItem
  with_reducible
    repeat' first
    | rfl | refine (h0 _ _ _).trans ?_ | refine (h1 _ _ _).trans ?_ | refine (h2 _ _ _).trans ?_
    | refine (h3 _ _).trans ?_ | refine (h4 _ _ _ _ _).trans ?_ | refine (h5 _ _ _ _ _).trans ?_
    | refine (each_get _ _ (fun _ _ => ?_) _).trans ?_ | refine get_ite_of (fun _ => ?_) (fun _ => ?_) | split
    | dsimp only

theorem drainOne_get {φ : Fld} (hφ : φ ∉ chargeF) (site : Nat) (s : State)  :
    φ.get (drainOne site s) = φ.get s := by
  have h0 := @drainItem_get φ (hφ)
  have h1 := @modSen_get φ (Fld.mono hφ rfl)
  unfold drainOne
  with_reducible
    repeat' first
    | rfl | refine (h0 _ _ _).trans ?_ | refine (h1 _ _ _).trans ?_ | refine get_ite_of (fun _ => ?_) (fun _ => ?_)
    | split | dsimp only

/-- Fields that serveFront may change. -/
def serveFrontF : List Fld :=
  logF ++ ([.journalSeq, .journal, .health, .unflushed, .sparesLow, .sen, .hub, .part, .xlat0, .xlat1, .routes0,
    .routes1, .answers] : List Fld)

theorem serveFront_get {φ : Fld} (hφ : φ ∉ serveFrontF) (site : Nat) (s : State)  :
    φ.get (serveFront site s) = φ.get s := by
  have h0 := @drainOne_get φ (Fld.mono hφ rfl)
  have h1 := @modSen_get φ (Fld.mono hφ rfl)
  have h2 := @serveWake_get φ (Fld.mono hφ rfl)
  unfold serveFront
  with_reducible
    repeat' first
    | rfl | refine (h0 _ _).trans ?_ | refine (h1 _ _ _).trans ?_ | refine (h2 _ _).trans ?_
    | refine (each_get _ _ (fun _ _ => ?_) _).trans ?_ | refine get_ite_of (fun _ => ?_) (fun _ => ?_) | split
    | dsimp only

theorem execTcgWakeAckRise_kept {φ : Fld} (hφ : φ ∉ serveFrontF) (site : Nat) (s : State)  :
    Kept φ (execTcgWakeAckRise site s) s := by
  have h0 := @modSen_get φ (Fld.mono hφ rfl)
  have h1 := @serveFront_get φ (hφ)
  have h2 := @setAlarm_get φ (Fld.mono hφ rfl)
  unfold execTcgWakeAckRise
  with_reducible
    repeat' first
    | rfl | refine (h0 _ _ _).trans ?_ | refine (h1 _ _).trans ?_ | refine (h2 _ _ _ _ _).trans ?_
    | refine kept_next.2 ?_ | refine kept_ite (fun _ => ?_) (fun _ => ?_)
    | refine get_ite_of (fun _ => ?_) (fun _ => ?_) | split | dsimp only

theorem execTcgWakeAckFall_kept {φ : Fld} (hφ : φ ∉ [.sen]) (site : Nat) (s : State)  :
    Kept φ (execTcgWakeAckFall site s) s := by
  have h0 := @modSen_get φ (hφ)
  have h1 := @raiseWake_get φ (hφ)
  unfold execTcgWakeAckFall
  with_reducible
    repeat' first
    | rfl | refine (h0 _ _ _).trans ?_ | refine (h1 _ _).trans ?_ | refine kept_next.2 ?_
    | refine kept_ite (fun _ => ?_) (fun _ => ?_) | refine get_ite_of (fun _ => ?_) (fun _ => ?_) | split | dsimp only

theorem execWakeTimeout_kept {φ : Fld} (hφ : φ ∉ [.sent, .sen, .answers]) (site : Nat) (s : State)  :
    Kept φ (execWakeTimeout site s) s := by
  have h0 := @modSen_get φ (Fld.mono hφ rfl)
  have h1 := @setAlarm_get φ (Fld.mono hφ rfl)
  have h2 := @timeoutAccess_get φ (Fld.mono hφ rfl)
  unfold execWakeTimeout
  with_reducible
    repeat' first
    | rfl | refine (h0 _ _ _).trans ?_ | refine (h1 _ _ _ _ _).trans ?_ | refine (h2 _ _).trans ?_
    | refine (each_get _ _ (fun _ _ => ?_) _).trans ?_ | refine kept_next.2 ?_
    | refine kept_ite (fun _ => ?_) (fun _ => ?_) | refine get_ite_of (fun _ => ?_) (fun _ => ?_) | split | dsimp only

/-- Fields that execWrite may change. -/
def writeF : List Fld :=
  [.sent, .sen, .hub, .answers]

theorem execWrite_kept {φ : Fld} (hφ : φ ∉ writeF) (unit offset : Nat) (words : List Word) (tag : Nat) (s : State)  :
    Kept φ (execWrite unit offset words tag s) s := by
  have h0 := @hubWrite_get φ (Fld.mono hφ rfl)
  have h1 := @senWrite_get φ (Fld.mono hφ rfl)
  have h2 := @waitUnit_get φ (Fld.mono hφ rfl)
  unfold execWrite
  with_reducible
    repeat' first
    | rfl | refine (h0 _ _ _ _ _).trans ?_ | refine (h1 _ _ _ _ _).trans ?_ | refine (h2 _ _ _ _).trans ?_
    | refine arrive_kept (Fld.mono hφ rfl) _ _ _ (fun _ => ?_) | refine kept_next.2 ?_
    | refine kept_ite (fun _ => ?_) (fun _ => ?_) | refine get_ite_of (fun _ => ?_) (fun _ => ?_) | split | dsimp only

theorem execDropCountRead_kept {φ : Fld} (hφ : φ ∉ writeF) (site tag : Nat) (s : State)  :
    Kept φ (execDropCountRead site tag s) s := by
  have h0 := @senRead_get φ (Fld.mono hφ rfl)
  unfold execDropCountRead
  with_reducible
    repeat' first
    | rfl | refine (h0 _ _ _ _ _).trans ?_ | refine arrive_kept (Fld.mono hφ rfl) _ _ _ (fun _ => ?_)
    | refine kept_next.2 ?_ | refine kept_ite (fun _ => ?_) (fun _ => ?_)
    | refine get_ite_of (fun _ => ?_) (fun _ => ?_) | split | dsimp only

theorem execProgramWrite_kept {φ : Fld} (hφ : φ ∉ writeF) (site offset : Nat) (words : List Word) (tag : Nat) (s : State)  :
    Kept φ (execProgramWrite site offset words tag s) s := by
  have h0 := @programStore_get φ (Fld.mono hφ rfl)
  have h1 := @waitWake_get φ (Fld.mono hφ rfl)
  unfold execProgramWrite
  with_reducible
    repeat' first
    | rfl | refine (h0 _ _ _ _ _).trans ?_ | refine (h1 _ _ _).trans ?_
    | refine arrive_kept (Fld.mono hφ rfl) _ _ _ (fun _ => ?_) | refine kept_next.2 ?_
    | refine kept_ite (fun _ => ?_) (fun _ => ?_) | refine get_ite_of (fun _ => ?_) (fun _ => ?_) | split | dsimp only

theorem execProgramRead_kept {φ : Fld} (hφ : φ ∉ writeF) (site offset count tag : Nat) (s : State)  :
    Kept φ (execProgramRead site offset count tag s) s := by
  have h0 := @programLoad_get φ (Fld.mono hφ rfl)
  have h1 := @waitWake_get φ (Fld.mono hφ rfl)
  unfold execProgramRead
  with_reducible
    repeat' first
    | rfl | refine (h0 _ _ _ _ _).trans ?_ | refine (h1 _ _ _).trans ?_
    | refine arrive_kept (Fld.mono hφ rfl) _ _ _ (fun _ => ?_) | refine kept_next.2 ?_
    | refine kept_ite (fun _ => ?_) (fun _ => ?_) | refine get_ite_of (fun _ => ?_) (fun _ => ?_) | split | dsimp only

theorem execSeedLoad_kept {φ : Fld} (hφ : φ ∉ [.hub]) (hub : Nat) (sampling : Bool) (value : Word) (s : State)  :
    Kept φ (execSeedLoad hub sampling value s) s := by
  have h0 := @modHub_get φ (hφ)
  unfold execSeedLoad
  with_reducible
    repeat' first
    | rfl | refine (h0 _ _ _).trans ?_ | refine kept_next.2 ?_ | refine kept_ite (fun _ => ?_) (fun _ => ?_)
    | refine get_ite_of (fun _ => ?_) (fun _ => ?_) | split | dsimp only

theorem sampleEv_get {φ : Fld} (hφ : φ ∉ [.sent, .sen]) (site code : Nat) (s : State)  :
    φ.get (sampleEv site code s) = φ.get s := by
  have h0 := @takeEv_get φ (hφ)
  have h1 := @waitWake_get φ (Fld.mono hφ rfl)
  unfold sampleEv
  with_reducible
    repeat' first
    | rfl | refine (h0 _ _ _).trans ?_ | refine (h1 _ _ _).trans ?_ | refine get_ite_of (fun _ => ?_) (fun _ => ?_)
    | split | dsimp only

theorem execEventLevelRise_kept {φ : Fld} (hφ : φ ∉ [.sent, .sen]) (site code : Nat) (s : State)  :
    Kept φ (execEventLevelRise site code s) s := by
  have h0 := @sampleEv_get φ (hφ)
  unfold execEventLevelRise
  with_reducible
    repeat' first
    | rfl | refine (h0 _ _ _).trans ?_ | refine kept_next.2 ?_ | refine kept_ite (fun _ => ?_) (fun _ => ?_)
    | refine get_ite_of (fun _ => ?_) (fun _ => ?_) | split | dsimp only

theorem execEventCounterSampleTimer_kept {φ : Fld} (hφ : φ ∉ [.sent, .sen]) (site : Nat) (s : State)  :
    Kept φ (execEventCounterSampleTimer site s) s := by
  have h0 := @sampleEv_get φ (hφ)
  unfold execEventCounterSampleTimer
  with_reducible
    repeat' first
    | rfl | refine (h0 _ _ _).trans ?_ | refine (each_get _ _ (fun _ _ => ?_) _).trans ?_ | refine kept_next.2 ?_
    | refine kept_ite (fun _ => ?_) (fun _ => ?_) | refine get_ite_of (fun _ => ?_) (fun _ => ?_) | split | dsimp only

theorem execFrontQueueEntry_kept {φ : Fld} (hφ : φ ∉ chargeF) (site : Nat) (s : State)  :
    Kept φ (execFrontQueueEntry site s) s := by
  have h0 := @drainOne_get φ (hφ)
  have h1 := @waitFront_get φ (Fld.mono hφ rfl)
  unfold execFrontQueueEntry
  with_reducible
    repeat' first
    | rfl | refine (h0 _ _).trans ?_ | refine (h1 _ _ _).trans ?_ | refine kept_next.2 ?_
    | refine kept_ite (fun _ => ?_) (fun _ => ?_) | refine get_ite_of (fun _ => ?_) (fun _ => ?_) | split | dsimp only

theorem execDropCount_kept {φ : Fld} (hφ : φ ∉ [.sent, .hub, .recorder]) (site count : Nat) (s : State)  :
    Kept φ (execDropCount site count s) s := by
  have h0 := @modRec_get φ (Fld.mono hφ rfl)
  unfold execDropCount
  with_reducible
    repeat' first
    | rfl | refine (h0 _ _).trans ?_ | refine arrive_kept (Fld.mono hφ rfl) _ _ _ (fun _ => ?_)
    | refine kept_next.2 ?_ | refine kept_ite (fun _ => ?_) (fun _ => ?_)
    | refine get_ite_of (fun _ => ?_) (fun _ => ?_) | split | dsimp only

theorem windowBreach_get {φ : Fld} (hφ : φ ∉ discardRunF) (site handle : Nat) (s : State)  :
    φ.get (windowBreach site handle s) = φ.get s := by
  have h0 := @endPasses_get φ (hφ)
  have h1 := @hubEvent_get φ (Fld.mono hφ rfl)
  have h2 := @modPart_get φ (Fld.mono hφ rfl)
  unfold windowBreach
  with_reducible
    repeat' first
    | rfl | refine (h0 _ _ _).trans ?_ | refine (h1 _ _ _ _).trans ?_ | refine (h2 _ _ _).trans ?_
    | refine get_ite_of (fun _ => ?_) (fun _ => ?_) | split | dsimp only

theorem issueCommand_get {φ : Fld} (hφ : φ ∉ discardRunF) (site : Nat) (op : QueueOp) (s : State)  :
    φ.get (issueCommand site op s) = φ.get s := by
  have h0 := @modSen_get φ (Fld.mono hφ rfl)
  have h1 := @pushAlarm_get φ (Fld.mono hφ rfl)
  have h2 := @traceRecord_get φ (Fld.mono hφ rfl)
  have h3 := @windowBreach_get φ (hφ)
  unfold issueCommand
  with_reducible
    repeat' first
    | rfl | refine (h0 _ _ _).trans ?_ | refine (h1 _ _ _).trans ?_ | refine (h2 _ _ _ _ _).trans ?_
    | refine (h3 _ _ _).trans ?_ | refine get_ite_of (fun _ => ?_) (fun _ => ?_) | split | dsimp only

theorem execQueueCommandIssue_kept {φ : Fld} (hφ : φ ∉ discardRunF) (site : Nat) (op : QueueOp) (s : State)  :
    Kept φ (execQueueCommandIssue site op s) s := by
  have h0 := @issueCommand_get φ (hφ)
  unfold execQueueCommandIssue
  with_reducible
    repeat' first
    | rfl | refine (h0 _ _ _).trans ?_ | refine kept_next.2 ?_ | refine kept_ite (fun _ => ?_) (fun _ => ?_)
    | refine get_ite_of (fun _ => ?_) (fun _ => ?_) | split | dsimp only

theorem execQueueCommandComplete_kept {φ : Fld} (hφ : φ ∉ [.sent, .sen]) (site : Nat) (op : QueueOp) (discarded : Bool) (s : State)  :
    Kept φ (execQueueCommandComplete site op discarded s) s := by
  have h0 := @fenceIdle_get φ (Fld.mono hφ rfl)
  have h1 := @modSen_get φ (Fld.mono hφ rfl)
  have h2 := @pushAlarm_get φ (Fld.mono hφ rfl)
  have h3 := @traceRecord_get φ (hφ)
  unfold execQueueCommandComplete
  with_reducible
    repeat' first
    | rfl | refine (h0 _ _).trans ?_ | refine (h1 _ _ _).trans ?_ | refine (h2 _ _ _).trans ?_
    | refine (h3 _ _ _ _ _).trans ?_ | refine kept_next.2 ?_ | refine kept_ite (fun _ => ?_) (fun _ => ?_)
    | refine get_ite_of (fun _ => ?_) (fun _ => ?_) | split | dsimp only

theorem execTraceTrigger_kept {φ : Fld} (hφ : φ ∉ writeF) (site firing : Nat) (slot : Dword) (s : State)  :
    Kept φ (execTraceTrigger site firing slot s) s := by
  have h0 := @modSen_get φ (Fld.mono hφ rfl)
  have h1 := @respond_get φ (Fld.mono hφ rfl)
  unfold execTraceTrigger
  with_reducible
    repeat' first
    | rfl | refine (h0 _ _ _).trans ?_ | refine (h1 _ _ _ _ _).trans ?_
    | refine arrive_kept (Fld.mono hφ rfl) _ _ _ (fun _ => ?_) | refine kept_next.2 ?_
    | refine kept_ite (fun _ => ?_) (fun _ => ?_) | refine get_ite_of (fun _ => ?_) (fun _ => ?_) | split | dsimp only

theorem execWatchDumpComplete_kept {φ : Fld} (hφ : φ ∉ [.sen, .dram]) (site slot : Nat) (s : State)  :
    Kept φ (execWatchDumpComplete site slot s) s := by
  have h0 := @modSen_get φ (Fld.mono hφ rfl)
  have h1 := @setDram_get φ (Fld.mono hφ rfl)
  unfold execWatchDumpComplete
  with_reducible
    repeat' first
    | rfl | refine (h0 _ _ _).trans ?_ | refine (h1 _ _).trans ?_ | refine kept_next.2 ?_
    | refine kept_ite (fun _ => ?_) (fun _ => ?_) | refine get_ite_of (fun _ => ?_) (fun _ => ?_) | split | dsimp only

theorem execSramErrorReport_kept {φ : Fld} (hφ : φ ∉ [.sen]) (site : Nat) (corrected : Bool) (path address : Nat) (desc : Desc) (s : State)  :
    Kept φ (execSramErrorReport site corrected path address desc s) s := by
  have h0 := @modSen_get φ (hφ)
  have h1 := @pushReport_get φ (hφ)
  have h2 := @raiseEv_get φ (hφ)
  unfold execSramErrorReport
  with_reducible
    repeat' first
    | rfl | refine (h0 _ _ _).trans ?_ | refine (h1 _ _ _).trans ?_ | refine (h2 _ _ _ _).trans ?_
    | refine kept_next.2 ?_ | refine kept_ite (fun _ => ?_) (fun _ => ?_)
    | refine get_ite_of (fun _ => ?_) (fun _ => ?_) | split | dsimp only

end Sys2Proof.Machine
end

