-- ==== Sys2Proof/Laws/FrameSeals.lean ====
section
/-!
SUPPORT. Frames of the operations of Machine/Seals.lean.
-/
namespace Sys2Proof.Machine

open Sys2Proof

set_option linter.all false
set_option Elab.async false

theorem sealItem_get {φ : Fld} (hφ : φ ∉ [.sen]) (site test : Nat) (c : Consume) (i : SealInfo) (s : State)  :
    φ.get (sealItem site test c i s) = φ.get s := by
  have h0 := @modSen_get φ (hφ)
  unfold sealItem
  with_reducible
    repeat' first
    | rfl | refine (h0 _ _ _).trans ?_ | refine get_ite_of (fun _ => ?_) (fun _ => ?_) | split | dsimp only

theorem consumePoison_get {φ : Fld} (hφ : φ ∉ [.sen]) (site : Nat) (c : Consume) (slot : Nat) (s : State)  :
    φ.get (consumePoison site c slot s) = φ.get s := by
  have h0 := @raiseEv_get φ (hφ)
  unfold consumePoison
  with_reducible
    repeat' first
    | rfl | refine (h0 _ _ _ _).trans ?_ | refine get_ite_of (fun _ => ?_) (fun _ => ?_) | split | dsimp only

theorem consumeFails_get {φ : Fld} (hφ : φ ∉ [.sen]) (site test : Nat) (c : Consume) (i : SealInfo) (s : State)  :
    φ.get (consumeFails site test c i s) = φ.get s := by
  have h0 := @countSen_get φ (hφ)
  have h1 := @modSen_get φ (hφ)
  have h2 := @pushReport_get φ (hφ)
  have h3 := @sealItem_get φ (hφ)
  unfold consumeFails
  with_reducible
    repeat' first
    | rfl | refine (h0 _ _ _ _).trans ?_ | refine (h1 _ _ _).trans ?_ | refine (h2 _ _ _).trans ?_
    | refine (h3 _ _ _ _ _).trans ?_ | refine get_ite_of (fun _ => ?_) (fun _ => ?_) | split | dsimp only

theorem countsCheck_get {φ : Fld} (hφ : φ ∉ [.sen]) (site : Nat) (c : Consume) (i : SealInfo) (s : State)  :
    φ.get (countsCheck site c i s) = φ.get s := by
  have h0 := @pushReport_get φ (hφ)
  unfold countsCheck
  with_reducible
    repeat' first
    | rfl | refine (h0 _ _ _).trans ?_ | refine get_ite_of (fun _ => ?_) (fun _ => ?_) | split | dsimp only

theorem consumePasses_get {φ : Fld} (hφ : φ ∉ [.sent, .sen, .hub]) (site : Nat) (c : Consume) (i : SealInfo) (s : State)  :
    φ.get (consumePasses site c i s) = φ.get s := by
  have h0 := @pushReport_get φ (Fld.mono hφ rfl)
  have h1 := @sealItem_get φ (Fld.mono hφ rfl)
  have h2 := @watchBlock_get φ (hφ)
  unfold consumePasses
  with_reducible
    repeat' first
    | rfl | refine (h0 _ _ _).trans ?_ | refine (h1 _ _ _ _ _).trans ?_ | refine (h2 _ _ _ _).trans ?_
    | refine get_ite_of (fun _ => ?_) (fun _ => ?_) | split | dsimp only

theorem verifyConsumed_get {φ : Fld} (hφ : φ ∉ [.sent, .sen, .hub]) (site : Nat) (c : Consume) (slot : Nat) (i : SealInfo) (s : State)  :
    φ.get (verifyConsumed site c slot i s) = φ.get s := by
  have h0 := @consumeFails_get φ (Fld.mono hφ rfl)
  have h1 := @consumePasses_get φ (hφ)
  have h2 := @consumePoison_get φ (Fld.mono hφ rfl)
  have h3 := @countSen_get φ (Fld.mono hφ rfl)
  have h4 := @modSen_get φ (Fld.mono hφ rfl)
  unfold verifyConsumed
  with_reducible
    repeat' first
    | rfl | refine (h0 _ _ _ _ _).trans ?_ | refine (h1 _ _ _ _).trans ?_ | refine (h2 _ _ _ _).trans ?_
    | refine (h3 _ _ _ _).trans ?_ | refine (h4 _ _ _).trans ?_ | refine get_ite_of (fun _ => ?_) (fun _ => ?_)
    | split | dsimp only

theorem execBlockConsumed_kept {φ : Fld} (hφ : φ ∉ [.sent, .sen, .hub]) (site : Nat) (c : Consume) (s : State)  :
    Kept φ (execBlockConsumed site c s) s := by
  have h0 := @countsCheck_get φ (Fld.mono hφ rfl)
  have h1 := @modSen_get φ (Fld.mono hφ rfl)
  have h2 := @verifyConsumed_get φ (hφ)
  unfold execBlockConsumed
  with_reducible
    repeat' first
    | rfl | refine (h0 _ _ _ _).trans ?_ | refine (h1 _ _ _).trans ?_ | refine (h2 _ _ _ _ _).trans ?_
    | refine kept_next.2 ?_ | refine kept_ite (fun _ => ?_) (fun _ => ?_)
    | refine get_ite_of (fun _ => ?_) (fun _ => ?_) | split | dsimp only

theorem execSealReread_kept {φ : Fld} (hφ : φ ∉ chargeF) (site : Nat) (stored : Block) (s : State)  :
    Kept φ (execSealReread site stored s) s := by
  have h0 := @charge_get φ (hφ)
  have h1 := @modSen_get φ (Fld.mono hφ rfl)
  have h2 := @pushReport_get φ (Fld.mono hφ rfl)
  unfold execSealReread
  with_reducible
    repeat' first
    | rfl | refine (h0 _ _ _ _ _).trans ?_ | refine (h1 _ _ _).trans ?_ | refine (h2 _ _ _).trans ?_
    | refine kept_next.2 ?_ | refine kept_ite (fun _ => ?_) (fun _ => ?_)
    | refine get_ite_of (fun _ => ?_) (fun _ => ?_) | split | dsimp only

theorem lastSealed_get {φ : Fld} (hφ : φ ∉ [.part]) (p : Nat) (s : State)  :
    φ.get (lastSealed p s) = φ.get s := by
  have h0 := @modPart_get φ (hφ)
  unfold lastSealed
  with_reducible
    repeat' first
    | rfl | refine (h0 _ _ _).trans ?_ | refine get_ite_of (fun _ => ?_) (fun _ => ?_) | split | dsimp only

/-- Fields that execBlockProduced may change. -/
def blockProducedF : List Fld :=
  [.sent, .sen, .hub, .part]

theorem execBlockProduced_kept {φ : Fld} (hφ : φ ∉ blockProducedF) (site : Nat) (p : Produce) (s : State)  :
    Kept φ (execBlockProduced site p s) s := by
  have h0 := @lastSealed_get φ (Fld.mono hφ rfl)
  have h1 := @modSen_get φ (Fld.mono hφ rfl)
  have h2 := @watchBlock_get φ (Fld.mono hφ rfl)
  unfold execBlockProduced
  with_reducible
    repeat' first
    | rfl | refine (h0 _ _).trans ?_ | refine (h1 _ _ _).trans ?_ | refine (h2 _ _ _ _).trans ?_
    | refine kept_next.2 ?_ | refine kept_ite (fun _ => ?_) (fun _ => ?_)
    | refine get_ite_of (fun _ => ?_) (fun _ => ?_) | split | dsimp only

theorem digestEntry_get {φ : Fld} (hφ : φ ∉ [.hub]) (h : Nat) (out : Bool) (t : Transfer) (tag : Tag) (s : State)  :
    φ.get (digestEntry h out t tag s) = φ.get s := by
  have h0 := @modHub_get φ (hφ)
  unfold digestEntry
  with_reducible
    repeat' first
    | rfl | refine (h0 _ _ _).trans ?_ | refine get_ite_of (fun _ => ?_) (fun _ => ?_) | split | dsimp only

theorem refuseRequest_get {φ : Fld} (hφ : φ ∉ [.hub]) (h : Nat) (s : State)  :
    φ.get (refuseRequest h s) = φ.get s := by
  have h0 := @modHub_get φ (hφ)
  unfold refuseRequest
  with_reducible
    repeat' first
    | rfl | refine (h0 _ _ _).trans ?_ | refine get_ite_of (fun _ => ?_) (fun _ => ?_) | split | dsimp only

theorem execMemoryEntryRead_kept {φ : Fld} (hφ : φ ∉ [.hub]) (t : Transfer) (s : State)  :
    Kept φ (execMemoryEntryRead t s) s := by
  have h0 := @digestEntry_get φ (hφ)
  have h1 := @modHub_get φ (hφ)
  have h2 := @refuseRequest_get φ (hφ)
  unfold execMemoryEntryRead
  with_reducible
    repeat' first
    | rfl | refine (h0 _ _ _ _ _).trans ?_ | refine (h1 _ _ _).trans ?_ | refine (h2 _ _).trans ?_
    | refine kept_next.2 ?_ | refine kept_ite (fun _ => ?_) (fun _ => ?_)
    | refine get_ite_of (fun _ => ?_) (fun _ => ?_) | split | dsimp only

theorem takeLinkBlock_get {φ : Fld} (hφ : φ ∉ [.sent, .hub, .part]) (t : Transfer) (s : State)  :
    φ.get (takeLinkBlock t s) = φ.get s := by
  have h0 := @countHub_get φ (Fld.mono hφ rfl)
  have h1 := @digestEntry_get φ (Fld.mono hφ rfl)
  have h2 := @hubEvent_get φ (Fld.mono hφ rfl)
  have h3 := @modHub_get φ (Fld.mono hφ rfl)
  have h4 := @modPart_get φ (Fld.mono hφ rfl)
  unfold takeLinkBlock
  with_reducible
    repeat' first
    | rfl | refine (h0 _ _ _ _).trans ?_ | refine (h1 _ _ _ _ _).trans ?_ | refine (h2 _ _ _ _).trans ?_
    | refine (h3 _ _ _).trans ?_ | refine (h4 _ _ _).trans ?_ | refine get_ite_of (fun _ => ?_) (fun _ => ?_) | split
    | dsimp only

theorem execLinkEntryBlock_kept {φ : Fld} (hφ : φ ∉ [.sent, .hub, .part]) (t : Transfer) (s : State)  :
    Kept φ (execLinkEntryBlock t s) s := by
  have h0 := @digestEntry_get φ (Fld.mono hφ rfl)
  have h1 := @modHub_get φ (Fld.mono hφ rfl)
  have h2 := @refuseRequest_get φ (Fld.mono hφ rfl)
  have h3 := @takeLinkBlock_get φ (hφ)
  unfold execLinkEntryBlock
  with_reducible
    repeat' first
    | rfl | refine (h0 _ _ _ _ _).trans ?_ | refine (h1 _ _ _).trans ?_ | refine (h2 _ _).trans ?_
    | refine (h3 _ _).trans ?_ | refine kept_next.2 ?_ | refine kept_ite (fun _ => ?_) (fun _ => ?_)
    | refine get_ite_of (fun _ => ?_) (fun _ => ?_) | split | dsimp only

theorem exitVerdict_get {φ : Fld} (hφ : φ ∉ [.sent]) (h test : Nat) (t : Transfer) (i : SealInfo) (s : State)  :
    φ.get (exitVerdict h test t i s) = φ.get s := by
  have h0 := @send_get φ (hφ)
  unfold exitVerdict
  with_reducible
    repeat' first
    | rfl | refine (h0 _ _).trans ?_ | refine get_ite_of (fun _ => ?_) (fun _ => ?_) | split | dsimp only

theorem exitEvent_get {φ : Fld} (hφ : φ ∉ [.sent, .hub]) (h test : Nat) (t : Transfer) (i : SealInfo) (s : State)  :
    φ.get (exitEvent h test t i s) = φ.get s := by
  have h0 := @countHub_get φ (Fld.mono hφ rfl)
  have h1 := @hubEvent_get φ (Fld.mono hφ rfl)
  unfold exitEvent
  with_reducible
    repeat' first
    | rfl | refine (h0 _ _ _ _).trans ?_ | refine (h1 _ _ _ _).trans ?_
    | refine get_ite_of (fun _ => ?_) (fun _ => ?_) | split | dsimp only

theorem execMemoryExitWrite_kept {φ : Fld} (hφ : φ ∉ [.sent, .hub]) (t : Transfer) (s : State)  :
    Kept φ (execMemoryExitWrite t s) s := by
  have h0 := @digestEntry_get φ (Fld.mono hφ rfl)
  have h1 := @exitEvent_get φ (hφ)
  have h2 := @exitVerdict_get φ (Fld.mono hφ rfl)
  have h3 := @modHub_get φ (Fld.mono hφ rfl)
  have h4 := @refuseRequest_get φ (Fld.mono hφ rfl)
  unfold execMemoryExitWrite
  with_reducible
    repeat' first
    | rfl | refine (h0 _ _ _ _ _).trans ?_ | refine (h1 _ _ _ _ _).trans ?_ | refine (h2 _ _ _ _ _).trans ?_
    | refine (h3 _ _ _).trans ?_ | refine (h4 _ _).trans ?_ | refine kept_next.2 ?_
    | refine kept_ite (fun _ => ?_) (fun _ => ?_) | refine get_ite_of (fun _ => ?_) (fun _ => ?_) | split | dsimp only

theorem execLinkExitBlock_kept {φ : Fld} (hφ : φ ∉ [.sent, .hub, .part]) (t : Transfer) (s : State)  :
    Kept φ (execLinkExitBlock t s) s := by
  have h0 := @digestEntry_get φ (Fld.mono hφ rfl)
  have h1 := @exitEvent_get φ (Fld.mono hφ rfl)
  have h2 := @exitVerdict_get φ (Fld.mono hφ rfl)
  have h3 := @modHub_get φ (Fld.mono hφ rfl)
  have h4 := @modPart_get φ (Fld.mono hφ rfl)
  have h5 := @refuseRequest_get φ (Fld.mono hφ rfl)
  unfold execLinkExitBlock
  with_reducible
    repeat' first
    | rfl | refine (h0 _ _ _ _ _).trans ?_ | refine (h1 _ _ _ _ _).trans ?_ | refine (h2 _ _ _ _ _).trans ?_
    | refine (h3 _ _ _).trans ?_ | refine (h4 _ _ _).trans ?_ | refine (h5 _ _).trans ?_ | refine kept_next.2 ?_
    | refine kept_ite (fun _ => ?_) (fun _ => ?_) | refine get_ite_of (fun _ => ?_) (fun _ => ?_) | split | dsimp only

end Sys2Proof.Machine
end

