-- ==== Sys2Proof/Laws/FrameLineage.lean ====
section
/-!
SUPPORT. Frames of the operations of Machine/Lineage.lean.
-/
namespace Sys2Proof.Machine

open Sys2Proof

set_option linter.all false
set_option Elab.async false

theorem noteLineage_get {φ : Fld} (hφ : φ ∉ [.sent, .hub]) (site lineage : Nat) (s : State)  :
    φ.get (noteLineage site lineage s) = φ.get s := by
  have h0 := @hubEvent_get φ (Fld.mono hφ rfl)
  have h1 := @modHub_get φ (Fld.mono hφ rfl)
  unfold noteLineage
  with_reducible
    repeat' first
    | rfl | refine (h0 _ _ _ _).trans ?_ | refine (h1 _ _ _).trans ?_ | refine get_ite_of (fun _ => ?_) (fun _ => ?_)
    | split | dsimp only

theorem failItem_get {φ : Fld} (hφ : φ ∉ [.sent, .hub]) (site lineage : Nat) (s : State)  :
    φ.get (failItem site lineage s) = φ.get s := by
  have h0 := @modHub_get φ (Fld.mono hφ rfl)
  have h1 := @noteLineage_get φ (hφ)
  unfold failItem
  with_reducible
    repeat' first
    | rfl | refine (h0 _ _ _).trans ?_ | refine (h1 _ _ _).trans ?_ | refine get_ite_of (fun _ => ?_) (fun _ => ?_)
    | split | dsimp only

/-- Fields that lateDetection may change. -/
def lateDetectionF : List Fld :=
  logF ++ ([.part, .gcount] : List Fld)

theorem lateDetection_get {φ : Fld} (hφ : φ ∉ lateDetectionF) (p step lineage outcome tile delay : Nat) (s : State)  :
    φ.get (lateDetection p step lineage outcome tile delay s) = φ.get s := by
  have h0 := @countGlobal_get φ (Fld.mono hφ rfl)
  have h1 := @modPart_get φ (Fld.mono hφ rfl)
  have h2 := @raiseAlert_get φ (Fld.mono hφ rfl)
  have h3 := @record_get φ (Fld.mono hφ rfl)
  unfold lateDetection
  with_reducible
    repeat' first
    | rfl | refine (h0 _ _ _ _).trans ?_ | refine (h1 _ _ _).trans ?_ | refine (h2 _ _).trans ?_
    | refine (h3 _ _ _).trans ?_ | refine get_ite_of (fun _ => ?_) (fun _ => ?_) | split | dsimp only

theorem sampleDraw_get {φ : Fld} (hφ : φ ∉ [.hub]) (h : Nat) (s : State)  :
    φ.get (sampleDraw h s).1 = φ.get s := by
  have h0 := @modHub_get φ (hφ)
  unfold sampleDraw
  with_reducible
    repeat' first
    | rfl | refine (h0 _ _ _).trans ?_ | refine get_ite_of (fun _ => ?_) (fun _ => ?_) | split | dsimp only

theorem loadSample_get {φ : Fld} (hφ : φ ∉ [.sen, .hub]) (site : Nat) (s : State)  :
    φ.get (loadSample site s) = φ.get s := by
  have h0 := @modSen_get φ (Fld.mono hφ rfl)
  have h1 := @sampleDraw_get φ (Fld.mono hφ rfl)
  unfold loadSample
  with_reducible
    repeat' first
    | rfl | refine (h0 _ _ _).trans ?_ | refine (h1 _ _).trans ?_ | refine get_ite_of (fun _ => ?_) (fun _ => ?_)
    | split | dsimp only

theorem raiseRate_get {φ : Fld} (hφ : φ ∉ [.sen, .hub]) (site : Nat) (s : State)  :
    φ.get (raiseRate site s) = φ.get s := by
  have h0 := @loadSample_get φ (hφ)
  have h1 := @modHub_get φ (Fld.mono hφ rfl)
  unfold raiseRate
  with_reducible
    repeat' first
    | rfl | refine (h0 _ _).trans ?_ | refine (h1 _ _ _).trans ?_ | refine get_ite_of (fun _ => ?_) (fun _ => ?_)
    | split | dsimp only

theorem skipRepeat_get {φ : Fld} (hφ : φ ∉ [.hub]) (h : Nat) (s : State)  :
    φ.get (skipRepeat h s) = φ.get s := by
  have h0 := @countHub_get φ (hφ)
  have h1 := @modHub_get φ (hφ)
  unfold skipRepeat
  with_reducible
    repeat' first
    | rfl | refine (h0 _ _ _ _).trans ?_ | refine (h1 _ _ _).trans ?_ | refine get_ite_of (fun _ => ?_) (fun _ => ?_)
    | split | dsimp only

theorem countOutcome_get {φ : Fld} (hφ : φ ∉ [.hub]) (h outcome : Nat) (s : State)  :
    φ.get (countOutcome h outcome s) = φ.get s := by
  have h0 := @countHub_get φ (hφ)
  have h1 := @modHub_get φ (hφ)
  unfold countOutcome
  with_reducible
    repeat' first
    | rfl | refine (h0 _ _ _ _).trans ?_ | refine (h1 _ _ _).trans ?_ | refine get_ite_of (fun _ => ?_) (fun _ => ?_)
    | split | dsimp only

theorem releaseCapture_get {φ : Fld} (hφ : φ ∉ [.sen]) (h site seq step : Nat) (s : State)  :
    φ.get (releaseCapture h site seq step s) = φ.get s := by
  have h0 := @modSen_get φ (hφ)
  unfold releaseCapture
  with_reducible
    repeat' first
    | rfl | refine (h0 _ _ _).trans ?_ | refine get_ite_of (fun _ => ?_) (fun _ => ?_) | split | dsimp only

theorem endUnavailable_get {φ : Fld} (hφ : φ ∉ discardRunF) (h : Nat) (r : RepeatReq) (s : State)  :
    φ.get (endUnavailable h r s) = φ.get s := by
  have h0 := @countOutcome_get φ (Fld.mono hφ rfl)
  have h1 := @recordFrom_get φ (Fld.mono hφ rfl)
  have h2 := @releaseCapture_get φ (Fld.mono hφ rfl)
  unfold endUnavailable
  with_reducible
    repeat' first
    | rfl | refine (h0 _ _ _).trans ?_ | refine (h1 _ _ _ _).trans ?_ | refine (h2 _ _ _ _ _).trans ?_
    | refine get_ite_of (fun _ => ?_) (fun _ => ?_) | split | dsimp only

theorem dropRepeat_get {φ : Fld} (hφ : φ ∉ discardRunF) (h : Nat) (r : RepeatReq) (s : State)  :
    φ.get (dropRepeat h r s) = φ.get s := by
  have h0 := @endUnavailable_get φ (hφ)
  have h1 := @releaseCapture_get φ (Fld.mono hφ rfl)
  have h2 := @skipRepeat_get φ (Fld.mono hφ rfl)
  unfold dropRepeat
  with_reducible
    repeat' first
    | rfl | refine (h0 _ _ _).trans ?_ | refine (h1 _ _ _ _ _).trans ?_ | refine (h2 _ _).trans ?_
    | refine get_ite_of (fun _ => ?_) (fun _ => ?_) | split | dsimp only

theorem serveRepeat_get {φ : Fld} (hφ : φ ∉ [.sent, .hub]) (h : Nat) (s : State)  :
    φ.get (serveRepeat h s) = φ.get s := by
  have h0 := @modHub_get φ (Fld.mono hφ rfl)
  have h1 := @send_get φ (Fld.mono hφ rfl)
  unfold serveRepeat
  with_reducible
    repeat' first
    | rfl | refine (h0 _ _ _).trans ?_ | refine (h1 _ _).trans ?_ | refine get_ite_of (fun _ => ?_) (fun _ => ?_)
    | split | dsimp only

theorem requestRepeat_get {φ : Fld} (hφ : φ ∉ discardRunF) (h : Nat) (r : RepeatReq) (s : State)  :
    φ.get (requestRepeat h r s) = φ.get s := by
  have h0 := @dropRepeat_get φ (hφ)
  have h1 := @modHub_get φ (Fld.mono hφ rfl)
  have h2 := @send_get φ (Fld.mono hφ rfl)
  have h3 := @serveRepeat_get φ (Fld.mono hφ rfl)
  unfold requestRepeat
  with_reducible
    repeat' first
    | rfl | refine (h0 _ _ _).trans ?_ | refine (h1 _ _ _).trans ?_ | refine (h2 _ _).trans ?_
    | refine (h3 _ _).trans ?_ | refine get_ite_of (fun _ => ?_) (fun _ => ?_) | split | dsimp only

end Sys2Proof.Machine
end

