-- ==== Sys2Proof/Laws/FrameOutputs.lean ====
section
/-!
SUPPORT. Frames of the operations of Machine/Outputs.lean.
-/
namespace Sys2Proof.Machine

open Sys2Proof

set_option linter.all false
set_option Elab.async false

theorem reportRun_get {φ : Fld} (hφ : φ ∉ [.sent]) (site : Nat) (t : TileObs) (v : VerdictItem) (s : State)  :
    φ.get (reportRun site t v s) = φ.get s := by
  have h0 := @send_get φ (hφ)
  unfold reportRun
  with_reducible
    repeat' first
    | rfl | refine (h0 _ _).trans ?_ | refine get_ite_of (fun _ => ?_) (fun _ => ?_) | split | dsimp only

theorem execOutputTileSealed_kept {φ : Fld} (hφ : φ ∉ [.sent, .sen]) (site : Nat) (t : TileObs) (s : State)  :
    Kept φ (execOutputTileSealed site t s) s := by
  have h0 := @modSen_get φ (Fld.mono hφ rfl)
  have h1 := @pushReport_get φ (Fld.mono hφ rfl)
  have h2 := @pushVerdict_get φ (Fld.mono hφ rfl)
  have h3 := @reportRun_get φ (Fld.mono hφ rfl)
  have h4 := @send_get φ (Fld.mono hφ rfl)
  unfold execOutputTileSealed
  with_reducible
    repeat' first
    | rfl | refine (h0 _ _ _).trans ?_ | refine (h1 _ _ _).trans ?_ | refine (h2 _ _ _ _).trans ?_
    | refine (h3 _ _ _ _).trans ?_ | refine (h4 _ _).trans ?_ | refine kept_next.2 ?_
    | refine kept_ite (fun _ => ?_) (fun _ => ?_) | refine get_ite_of (fun _ => ?_) (fun _ => ?_) | split | dsimp only

theorem execSampleSelect_kept {φ : Fld} (hφ : φ ∉ discardRunF) (site seq : Nat) (s : State)  :
    Kept φ (execSampleSelect site seq s) s := by
  have h0 := @countHub_get φ (Fld.mono hφ rfl)
  have h1 := @loadSample_get φ (Fld.mono hφ rfl)
  have h2 := @receive_get φ (Fld.mono hφ rfl)
  have h3 := @requestRepeat_get φ (hφ)
  have h4 := @sampleDraw_get φ (Fld.mono hφ rfl)
  unfold execSampleSelect
  with_reducible
    repeat' first
    | rfl | refine (h0 _ _ _ _).trans ?_ | refine (h1 _ _).trans ?_ | refine (h2 _ _).trans ?_
    | refine (h3 _ _ _).trans ?_ | refine (h4 _ _).trans ?_ | refine kept_next.2 ?_
    | refine kept_ite (fun _ => ?_) (fun _ => ?_) | refine get_ite_of (fun _ => ?_) (fun _ => ?_) | split | dsimp only

theorem execResidueVerdict_kept {φ : Fld} (hφ : φ ∉ discardRunF) (site : Nat) (item : VerdictItem) (detail : DetailItem) (s : State)  :
    Kept φ (execResidueVerdict site item detail s) s := by
  have h0 := @countHub_get φ (Fld.mono hφ rfl)
  have h1 := @failItem_get φ (Fld.mono hφ rfl)
  have h2 := @modHub_get φ (Fld.mono hφ rfl)
  have h3 := @noteLineage_get φ (Fld.mono hφ rfl)
  have h4 := @raiseRate_get φ (Fld.mono hφ rfl)
  have h5 := @requestRepeat_get φ (hφ)
  have h6 := @sampleDraw_get φ (Fld.mono hφ rfl)
  unfold execResidueVerdict
  with_reducible
    repeat' first
    | rfl | refine (h0 _ _ _ _).trans ?_ | refine (h1 _ _ _).trans ?_ | refine (h2 _ _ _).trans ?_
    | refine (h3 _ _ _).trans ?_ | refine (h4 _ _).trans ?_ | refine (h5 _ _ _).trans ?_ | refine (h6 _ _).trans ?_
    | refine arrive_kept (Fld.mono hφ rfl) _ _ _ (fun _ => ?_) | refine kept_next.2 ?_
    | refine kept_ite (fun _ => ?_) (fun _ => ?_) | refine get_ite_of (fun _ => ?_) (fun _ => ?_) | split | dsimp only

theorem execPlausVerdict_kept {φ : Fld} (hφ : φ ∉ [.sent, .hub]) (site : Nat) (item : PlausItem) (s : State)  :
    Kept φ (execPlausVerdict site item s) s := by
  have h0 := @failItem_get φ (hφ)
  unfold execPlausVerdict
  with_reducible
    repeat' first
    | rfl | refine (h0 _ _ _).trans ?_ | refine arrive_kept (Fld.mono hφ rfl) _ _ _ (fun _ => ?_)
    | refine kept_next.2 ?_ | refine kept_ite (fun _ => ?_) (fun _ => ?_)
    | refine get_ite_of (fun _ => ?_) (fun _ => ?_) | split | dsimp only

theorem execRedundancy_kept {φ : Fld} (hφ : φ ∉ discardRunF) (site : Nat) (item : RedundancyItem) (s : State)  :
    Kept φ (execRedundancy site item s) s := by
  have h0 := @failItem_get φ (Fld.mono hφ rfl)
  have h1 := @recordFrom_get φ (Fld.mono hφ rfl)
  have h2 := @requestRepeat_get φ (hφ)
  unfold execRedundancy
  with_reducible
    repeat' first
    | rfl | refine (h0 _ _ _).trans ?_ | refine (h1 _ _ _ _).trans ?_ | refine (h2 _ _ _).trans ?_
    | refine arrive_kept (Fld.mono hφ rfl) _ _ _ (fun _ => ?_) | refine kept_next.2 ?_
    | refine kept_ite (fun _ => ?_) (fun _ => ?_) | refine get_ite_of (fun _ => ?_) (fun _ => ?_) | split | dsimp only

theorem execRepeatRead_kept {φ : Fld} (hφ : φ ∉ writeF) (site seq reason : Nat) (elems : List (Nat × Nat)) (outs operands : List Block) (early : Nat) (s : State)  :
    Kept φ (execRepeatRead site seq reason elems outs operands early s) s := by
  have h0 := @modSen_get φ (Fld.mono hφ rfl)
  have h1 := @receive_get φ (Fld.mono hφ rfl)
  have h2 := @respond_get φ (Fld.mono hφ rfl)
  have h3 := @senEvent_get φ (Fld.mono hφ rfl)
  have h4 := @sendAll_get φ (Fld.mono hφ rfl)
  unfold execRepeatRead
  with_reducible
    repeat' first
    | rfl | refine (h0 _ _ _).trans ?_ | refine (h1 _ _).trans ?_ | refine (h2 _ _ _ _ _).trans ?_
    | refine (h3 _ _ _ _).trans ?_ | refine (h4 _ _).trans ?_ | refine (each_get _ _ (fun _ _ => ?_) _).trans ?_
    | refine kept_next.2 ?_ | refine kept_ite (fun _ => ?_) (fun _ => ?_)
    | refine get_ite_of (fun _ => ?_) (fun _ => ?_) | split | dsimp only

theorem execRepeatHeader_kept {φ : Fld} (hφ : φ ∉ [.sent, .hub]) (site : Nat) (hdr : RepeatHeader) (s : State)  :
    Kept φ (execRepeatHeader site hdr s) s := by
  have h0 := @modHub_get φ (Fld.mono hφ rfl)
  unfold execRepeatHeader
  with_reducible
    repeat' first
    | rfl | refine (h0 _ _ _).trans ?_ | refine arrive_kept (Fld.mono hφ rfl) _ _ _ (fun _ => ?_)
    | refine kept_next.2 ?_ | refine kept_ite (fun _ => ?_) (fun _ => ?_)
    | refine get_ite_of (fun _ => ?_) (fun _ => ?_) | split | dsimp only

theorem putReplay_get {φ : Fld} (hφ : φ ∉ finishScreenF) (h : Nat) (r : ReplayRec) (s : State)  :
    φ.get (putReplay h r s) = φ.get s := by
  have h0 := @joinPass_get φ (hφ)
  have h1 := @modHub_get φ (Fld.mono hφ rfl)
  have h2 := @replayResult_get φ (Fld.mono hφ rfl)
  unfold putReplay
  with_reducible
    repeat' first
    | rfl | refine (h0 _ _ _).trans ?_ | refine (h1 _ _ _).trans ?_ | refine (h2 _ _ _).trans ?_
    | refine get_ite_of (fun _ => ?_) (fun _ => ?_) | split | dsimp only

/-- Fields that outcomeLineage may change. -/
def outcomeLineageF : List Fld :=
  logF ++ ([.hub, .part, .gcount] : List Fld)

theorem outcomeLineage_get {φ : Fld} (hφ : φ ∉ outcomeLineageF) (h o : Nat) (r : RepeatReq) (v : VerdictItem) (s : State)  :
    φ.get (outcomeLineage h o r v s) = φ.get s := by
  have h0 := @failItem_get φ (Fld.mono hφ rfl)
  have h1 := @lateDetection_get φ (Fld.mono hφ rfl)
  unfold outcomeLineage
  with_reducible
    repeat' first
    | rfl | refine (h0 _ _ _).trans ?_ | refine (h1 _ _ _ _ _ _ _).trans ?_
    | refine get_ite_of (fun _ => ?_) (fun _ => ?_) | split | dsimp only

/-- Fields that concludeRepeat may change. -/
def concludeRepeatF : List Fld :=
  logF ++ ([.journalSeq, .journal, .health, .unflushed, .deepPassed, .marginPrev, .sparesLow, .sen, .hub, .part,
    .xlat0, .xlat1, .routes0, .routes1, .screens, .screenReqs, .gcount] : List Fld)

theorem concludeRepeat_get {φ : Fld} (hφ : φ ∉ concludeRepeatF) (h : Nat) (j : RepeatJob) (s : State)  :
    φ.get (concludeRepeat h j s) = φ.get s := by
  have h0 := @charge_get φ (Fld.mono hφ rfl)
  have h1 := @countOutcome_get φ (Fld.mono hφ rfl)
  have h2 := @modHub_get φ (Fld.mono hφ rfl)
  have h3 := @outcomeLineage_get φ (Fld.mono hφ rfl)
  have h4 := @putReplay_get φ (Fld.mono hφ rfl)
  have h5 := @recordFrom_get φ (Fld.mono hφ rfl)
  have h6 := @releaseCapture_get φ (Fld.mono hφ rfl)
  have h7 := @serveRepeat_get φ (Fld.mono hφ rfl)
  have h8 := @startDeep_get φ (Fld.mono hφ rfl)
  unfold concludeRepeat
  with_reducible
    repeat' first
    | rfl | refine (h0 _ _ _ _ _).trans ?_ | refine (h1 _ _ _).trans ?_ | refine (h2 _ _ _).trans ?_
    | refine (h3 _ _ _ _ _).trans ?_ | refine (h4 _ _ _).trans ?_ | refine (h5 _ _ _ _).trans ?_
    | refine (h6 _ _ _ _ _).trans ?_ | refine (h7 _ _).trans ?_ | refine (h8 _ _).trans ?_
    | refine (each_get _ _ (fun _ _ => ?_) _).trans ?_ | refine get_ite_of (fun _ => ?_) (fun _ => ?_) | split
    | dsimp only

theorem execLaneData_kept {φ : Fld} (hφ : φ ∉ concludeRepeatF) (site : Nat) (data : LaneData) (s : State)  :
    Kept φ (execLaneData site data s) s := by
  have h0 := @concludeRepeat_get φ (hφ)
  have h1 := @modHub_get φ (Fld.mono hφ rfl)
  unfold execLaneData
  with_reducible
    repeat' first
    | rfl | refine (h0 _ _ _).trans ?_ | refine (h1 _ _ _).trans ?_
    | refine arrive_kept (Fld.mono hφ rfl) _ _ _ (fun _ => ?_) | refine kept_next.2 ?_
    | refine kept_ite (fun _ => ?_) (fun _ => ?_) | refine get_ite_of (fun _ => ?_) (fun _ => ?_) | split | dsimp only

end Sys2Proof.Machine
end

