-- ==== Sys2Proof/Laws/FramePlaus.lean ====
section
/-!
SUPPORT. Frames of the operations of Machine/Plaus.lean.
-/
namespace Sys2Proof.Machine

open Sys2Proof

set_option linter.all false
set_option Elab.async false

theorem execVectorBeat_kept {φ : Fld} (hφ : φ ∉ [.sen]) (site : Nat) (b : Beat) (s : State)  :
    Kept φ (execVectorBeat site b s) s := by
  have h0 := @modSen_get φ (hφ)
  unfold execVectorBeat
  with_reducible
    repeat' first
    | rfl | refine (h0 _ _ _).trans ?_ | refine kept_next.2 ?_ | refine kept_ite (fun _ => ?_) (fun _ => ?_)
    | refine get_ite_of (fun _ => ?_) (fun _ => ?_) | split | dsimp only

theorem plausFail_get {φ : Fld} (hφ : φ ∉ [.sen]) (site : Nat) (m : Summary) (s : State)  :
    φ.get (plausFail site m s) = φ.get s := by
  have h0 := @modSen_get φ (hφ)
  have h1 := @pushReport_get φ (hφ)
  have h2 := @pushVerdict_get φ (hφ)
  unfold plausFail
  with_reducible
    repeat' first
    | rfl | refine (h0 _ _ _).trans ?_ | refine (h1 _ _ _).trans ?_ | refine (h2 _ _ _ _).trans ?_
    | refine get_ite_of (fun _ => ?_) (fun _ => ?_) | split | dsimp only

theorem endStream_get {φ : Fld} (hφ : φ ∉ [.sen]) (site : Nat) (cut : Bool) (s : State)  :
    φ.get (endStream site cut s) = φ.get s := by
  have h0 := @countSen_get φ (hφ)
  have h1 := @modSen_get φ (hφ)
  have h2 := @plausFail_get φ (hφ)
  have h3 := @pushReport_get φ (hφ)
  unfold endStream
  with_reducible
    repeat' first
    | rfl | refine (h0 _ _ _ _).trans ?_ | refine (h1 _ _ _).trans ?_ | refine (h2 _ _ _).trans ?_
    | refine (h3 _ _ _).trans ?_ | refine get_ite_of (fun _ => ?_) (fun _ => ?_) | split | dsimp only

theorem execStreamEnd_kept {φ : Fld} (hφ : φ ∉ [.sen]) (site : Nat) (s : State)  :
    Kept φ (execStreamEnd site s) s := by
  have h0 := @endStream_get φ (hφ)
  unfold execStreamEnd
  with_reducible
    repeat' first
    | rfl | refine (h0 _ _ _).trans ?_ | refine kept_next.2 ?_ | refine kept_ite (fun _ => ?_) (fun _ => ?_)
    | refine get_ite_of (fun _ => ?_) (fun _ => ?_) | split | dsimp only

theorem watchRequest_get {φ : Fld} (hφ : φ ∉ chargeF) (site : Nat) (s : State)  :
    φ.get (watchRequest site s) = φ.get s := by
  have h0 := @charge_get φ (hφ)
  have h1 := @modHub_get φ (Fld.mono hφ rfl)
  unfold watchRequest
  with_reducible
    repeat' first
    | rfl | refine (h0 _ _ _ _ _).trans ?_ | refine (h1 _ _ _).trans ?_
    | refine get_ite_of (fun _ => ?_) (fun _ => ?_) | split | dsimp only

theorem ruleEffect_get {φ : Fld} (hφ : φ ∉ chargeF) (site action rule : Nat) (m : Summary) (entry : List Byte) (s : State)  :
    φ.get (ruleEffect site action rule m entry s) = φ.get s := by
  have h0 := @noteReason_get φ (Fld.mono hφ rfl)
  have h1 := @raiseRate_get φ (Fld.mono hφ rfl)
  have h2 := @recordFrom_get φ (Fld.mono hφ rfl)
  have h3 := @watchRequest_get φ (hφ)
  unfold ruleEffect
  with_reducible
    repeat' first
    | rfl | refine (h0 _ _ _).trans ?_ | refine (h1 _ _).trans ?_ | refine (h2 _ _ _ _).trans ?_
    | refine (h3 _ _).trans ?_ | refine get_ite_of (fun _ => ?_) (fun _ => ?_) | split | dsimp only

theorem takeSummary_get {φ : Fld} (hφ : φ ∉ chargeF) (site : Nat) (sum : Summary) (s : State)  :
    φ.get (takeSummary site sum s) = φ.get s := by
  have h0 := @countHub_get φ (Fld.mono hφ rfl)
  have h1 := @ruleEffect_get φ (hφ)
  unfold takeSummary
  with_reducible
    repeat' first
    | rfl | refine (h0 _ _ _ _).trans ?_ | refine (h1 _ _ _ _ _ _).trans ?_
    | refine get_ite_of (fun _ => ?_) (fun _ => ?_) | split | dsimp only

theorem execSummary_kept {φ : Fld} (hφ : φ ∉ chargeF) (site : Nat) (sum : Summary) (s : State)  :
    Kept φ (execSummary site sum s) s := by
  have h0 := @takeSummary_get φ (hφ)
  have h1 := @waitUnit_get φ (Fld.mono hφ rfl)
  unfold execSummary
  with_reducible
    repeat' first
    | rfl | refine (h0 _ _ _).trans ?_ | refine (h1 _ _ _ _).trans ?_
    | refine arrive_kept (Fld.mono hφ rfl) _ _ _ (fun _ => ?_) | refine kept_next.2 ?_
    | refine kept_ite (fun _ => ?_) (fun _ => ?_) | refine get_ite_of (fun _ => ?_) (fun _ => ?_) | split | dsimp only

theorem switchHub_get {φ : Fld} (hφ : φ ∉ [.sen, .hub]) (p h : Nat) (s : State)  :
    φ.get (switchHub p h s) = φ.get s := by
  have h0 := @modHub_get φ (Fld.mono hφ rfl)
  have h1 := @modSen_get φ (Fld.mono hφ rfl)
  unfold switchHub
  with_reducible
    repeat' first
    | rfl | refine (h0 _ _ _).trans ?_ | refine (h1 _ _ _).trans ?_ | refine (each_get _ _ (fun _ _ => ?_) _).trans ?_
    | refine get_ite_of (fun _ => ?_) (fun _ => ?_) | split | dsimp only

theorem startLoad_get {φ : Fld} (hφ : φ ∉ [.sent, .hub, .part]) (p : Nat) (l : PlausLoad) (s : State)  :
    φ.get (startLoad p l s) = φ.get s := by
  have h0 := @modHub_get φ (Fld.mono hφ rfl)
  have h1 := @modPart_get φ (Fld.mono hφ rfl)
  have h2 := @sendAll_get φ (Fld.mono hφ rfl)
  unfold startLoad
  with_reducible
    repeat' first
    | rfl | refine (h0 _ _ _).trans ?_ | refine (h1 _ _ _).trans ?_ | refine (h2 _ _).trans ?_
    | refine (each_get _ _ (fun _ _ => ?_) _).trans ?_ | refine get_ite_of (fun _ => ?_) (fun _ => ?_) | split
    | dsimp only

theorem finishLoad_get {φ : Fld} (hφ : φ ∉ endReplaysF) (p : Nat) (s : State)  :
    φ.get (finishLoad p s) = φ.get s := by
  have h0 := @complete_get φ (Fld.mono hφ rfl)
  have h1 := @modPart_get φ (Fld.mono hφ rfl)
  have h2 := @record_get φ (Fld.mono hφ rfl)
  have h3 := @startLoad_get φ (Fld.mono hφ rfl)
  unfold finishLoad
  with_reducible
    repeat' first
    | rfl | refine (h0 _ _ _ _).trans ?_ | refine (h1 _ _ _).trans ?_ | refine (h2 _ _ _).trans ?_
    | refine (h3 _ _ _).trans ?_ | refine get_ite_of (fun _ => ?_) (fun _ => ?_) | split | dsimp only

theorem switchNow_get {φ : Fld} (hφ : φ ∉ discardRunF) (p : Nat) (s : State)  :
    φ.get (switchNow p s) = φ.get s := by
  have h0 := @finishLoad_get φ (Fld.mono hφ rfl)
  have h1 := @switchHub_get φ (Fld.mono hφ rfl)
  unfold switchNow
  with_reducible
    repeat' first
    | rfl | refine (h0 _ _).trans ?_ | refine (h1 _ _ _).trans ?_ | refine (each_get _ _ (fun _ _ => ?_) _).trans ?_
    | refine get_ite_of (fun _ => ?_) (fun _ => ?_) | split | dsimp only

theorem loadDefault_get {φ : Fld} (hφ : φ ∉ endReplaysF) (p seq : Nat) (response : List Byte) (s : State)  :
    φ.get (loadDefault p seq response s) = φ.get s := by
  have h0 := @modPart_get φ (Fld.mono hφ rfl)
  have h1 := @openStep_get φ (Fld.mono hφ rfl)
  have h2 := @startLoad_get φ (Fld.mono hφ rfl)
  unfold loadDefault
  with_reducible
    repeat' first
    | rfl | refine (h0 _ _ _).trans ?_ | refine (h1 _ _ _).trans ?_ | refine (h2 _ _ _).trans ?_
    | refine get_ite_of (fun _ => ?_) (fun _ => ?_) | split | dsimp only

theorem failAttach_get {φ : Fld} (hφ : φ ∉ prepareSwapF) (p : Nat) (s : State)  :
    φ.get (failAttach p s) = φ.get s := by
  have h0 := @complete_get φ (Fld.mono hφ rfl)
  have h1 := @detachJob_get φ (hφ)
  have h2 := @modPart_get φ (Fld.mono hφ rfl)
  unfold failAttach
  with_reducible
    repeat' first
    | rfl | refine (h0 _ _ _ _).trans ?_ | refine (h1 _ _).trans ?_ | refine (h2 _ _ _).trans ?_
    | refine get_ite_of (fun _ => ?_) (fun _ => ?_) | split | dsimp only

theorem execPlausibilitySetConfirmed_kept {φ : Fld} (hφ : φ ∉ discardRunF) (hub partition : Nat) (s : State)  :
    Kept φ (execPlausibilitySetConfirmed hub partition s) s := by
  have h0 := @modPart_get φ (Fld.mono hφ rfl)
  have h1 := @modSen_get φ (Fld.mono hφ rfl)
  have h2 := @openStep_get φ (Fld.mono hφ rfl)
  have h3 := @receive_get φ (Fld.mono hφ rfl)
  have h4 := @switchNow_get φ (hφ)
  unfold execPlausibilitySetConfirmed
  with_reducible
    repeat' first
    | rfl | refine (h0 _ _ _).trans ?_ | refine (h1 _ _ _).trans ?_ | refine (h2 _ _ _).trans ?_
    | refine (h3 _ _).trans ?_ | refine (h4 _ _).trans ?_ | refine (each_get _ _ (fun _ _ => ?_) _).trans ?_
    | refine kept_next.2 ?_ | refine kept_ite (fun _ => ?_) (fun _ => ?_)
    | refine get_ite_of (fun _ => ?_) (fun _ => ?_) | split | dsimp only

theorem execPlausibilityLoadTimeout_kept {φ : Fld} (hφ : φ ∉ prepareSwapF) (partition : Nat) (s : State)  :
    Kept φ (execPlausibilityLoadTimeout partition s) s := by
  have h0 := @discardLoad_get φ (Fld.mono hφ rfl)
  have h1 := @failAttach_get φ (hφ)
  unfold execPlausibilityLoadTimeout
  with_reducible
    repeat' first
    | rfl | refine (h0 _ _ _).trans ?_ | refine (h1 _ _).trans ?_ | refine kept_next.2 ?_
    | refine kept_ite (fun _ => ?_) (fun _ => ?_) | refine get_ite_of (fun _ => ?_) (fun _ => ?_) | split | dsimp only

theorem coreSend_get {φ : Fld} (hφ : φ ∉ [.coreTx]) (type tag : Nat) (payload : List Byte) (s : State)  :
    φ.get (coreSend type tag payload s) = φ.get s := by
  have h0 := @setCoreTx_get φ (hφ)
  unfold coreSend
  with_reducible
    repeat' first
    | rfl | refine (h0 _ _).trans ?_ | refine get_ite_of (fun _ => ?_) (fun _ => ?_) | split | dsimp only

theorem coreNak_get {φ : Fld} (hφ : φ ∉ [.coreTx, .coreNaks]) (type tag : Nat) (s : State)  :
    φ.get (coreNak type tag s) = φ.get s := by
  have h0 := @coreSend_get φ (Fld.mono hφ rfl)
  have h1 := @setCoreNaks_get φ (Fld.mono hφ rfl)
  unfold coreNak
  with_reducible
    repeat' first
    | rfl | refine (h0 _ _ _ _).trans ?_ | refine (h1 _ _).trans ?_ | refine get_ite_of (fun _ => ?_) (fun _ => ?_)
    | split | dsimp only

theorem execUnknownCoreMessage_kept {φ : Fld} (hφ : φ ∉ [.coreTx, .coreNaks]) (type tag : Nat) (s : State)  :
    Kept φ (execUnknownCoreMessage type tag s) s := by
  have h0 := @coreNak_get φ (hφ)
  unfold execUnknownCoreMessage
  with_reducible
    repeat' first
    | rfl | refine (h0 _ _ _).trans ?_ | refine kept_next.2 ?_ | refine kept_ite (fun _ => ?_) (fun _ => ?_)
    | refine get_ite_of (fun _ => ?_) (fun _ => ?_) | split | dsimp only

theorem requestScreen_get {φ : Fld} (hφ : φ ∉ [.screenReqs]) (site source : Nat) (s : State)  :
    φ.get (requestScreen site source s) = φ.get s := by
  have h0 := @setScreenReqs_get φ (hφ)
  unfold requestScreen
  with_reducible
    repeat' first
    | rfl | refine (h0 _ _).trans ?_ | refine get_ite_of (fun _ => ?_) (fun _ => ?_) | split | dsimp only

/-- Fields that spike may change. -/
def spikeF : List Fld :=
  logF ++ ([.screenReqs, .free] : List Fld)

theorem spike_get {φ : Fld} (hφ : φ ∉ spikeF) (p step loss : Nat) (window : List Nat) (s : State)  :
    φ.get (spike p step loss window s) = φ.get s := by
  have h0 := @record_get φ (Fld.mono hφ rfl)
  have h1 := @requestScreen_get φ (Fld.mono hφ rfl)
  have h2 := @setFree_get φ (Fld.mono hφ rfl)
  unfold spike
  with_reducible
    repeat' first
    | rfl | refine (h0 _ _ _).trans ?_ | refine (h1 _ _ _).trans ?_ | refine (h2 _ _).trans ?_
    | refine (each_get _ _ (fun _ _ => ?_) _).trans ?_ | refine get_ite_of (fun _ => ?_) (fun _ => ?_) | split
    | dsimp only

theorem lossShift_get {φ : Fld} (hφ : φ ∉ acceptF) (p step : Nat) (s : State)  :
    φ.get (lossShift p step s) = φ.get s := by
  have h0 := @modPart_get φ (Fld.mono hφ rfl)
  have h1 := @record_get φ (Fld.mono hφ rfl)
  unfold lossShift
  with_reducible
    repeat' first
    | rfl | refine (h0 _ _ _).trans ?_ | refine (h1 _ _ _).trans ?_ | refine get_ite_of (fun _ => ?_) (fun _ => ?_)
    | split | dsimp only

/-- Fields that takeLoss may change. -/
def takeLossF : List Fld :=
  logF ++ ([.part, .screenReqs, .free] : List Fld)

theorem takeLoss_get {φ : Fld} (hφ : φ ∉ takeLossF) (p step loss : Nat) (s : State)  :
    φ.get (takeLoss p step loss s) = φ.get s := by
  have h0 := @lossShift_get φ (Fld.mono hφ rfl)
  have h1 := @modPart_get φ (Fld.mono hφ rfl)
  have h2 := @spike_get φ (Fld.mono hφ rfl)
  unfold takeLoss
  with_reducible
    repeat' first
    | rfl | refine (h0 _ _ _).trans ?_ | refine (h1 _ _ _).trans ?_ | refine (h2 _ _ _ _ _).trans ?_
    | refine get_ite_of (fun _ => ?_) (fun _ => ?_) | split | dsimp only

/-- Fields that execLossReport may change. -/
def lossReportF : List Fld :=
  logF ++ ([.part, .screenReqs, .coreTx, .coreNaks, .lossRejected, .free] : List Fld)

theorem execLossReport_kept {φ : Fld} (hφ : φ ∉ lossReportF) (step : Nat) (loss : Word) (partition length tag : Nat) (s : State)  :
    Kept φ (execLossReport step loss partition length tag s) s := by
  have h0 := @coreNak_get φ (Fld.mono hφ rfl)
  have h1 := @coreSend_get φ (Fld.mono hφ rfl)
  have h2 := @record_get φ (Fld.mono hφ rfl)
  have h3 := @setLossRejected_get φ (Fld.mono hφ rfl)
  have h4 := @takeLoss_get φ (Fld.mono hφ rfl)
  unfold execLossReport
  with_reducible
    repeat' first
    | rfl | refine (h0 _ _ _).trans ?_ | refine (h1 _ _ _ _).trans ?_ | refine (h2 _ _ _).trans ?_
    | refine (h3 _ _).trans ?_ | refine (h4 _ _ _ _).trans ?_ | refine kept_next.2 ?_
    | refine kept_ite (fun _ => ?_) (fun _ => ?_) | refine get_ite_of (fun _ => ?_) (fun _ => ?_) | split | dsimp only

end Sys2Proof.Machine
end

