-- ==== Sys2Proof/Laws/FrameContainment.lean ====
section
/-!
SUPPORT. Frames of the operations of Machine/Containment.lean.
-/
namespace Sys2Proof.Machine

open Sys2Proof

set_option linter.all false
set_option Elab.async false

/-- Fields that execMemoryError may change. -/
def memoryErrorF : List Fld :=
  [.sent, .mramA, .mramB, .memLog, .hub, .part, .win, .portA, .portB]

theorem execMemoryError_kept {φ : Fld} (hφ : φ ∉ memoryErrorF) (hub : Nat) (report : MemReport) (s : State)  :
    Kept φ (execMemoryError hub report s) s := by
  have h0 := @hubEvent_get φ (Fld.mono hφ rfl)
  have h1 := @logMemRepair_get φ (Fld.mono hφ rfl)
  have h2 := @modHub_get φ (Fld.mono hφ rfl)
  have h3 := @modPart_get φ (Fld.mono hφ rfl)
  have h4 := @raiseAlert_get φ (Fld.mono hφ rfl)
  unfold execMemoryError
  with_reducible
    repeat' first
    | rfl | refine (h0 _ _ _ _).trans ?_ | refine (h1 _ _ _).trans ?_ | refine (h2 _ _ _).trans ?_
    | refine (h3 _ _ _).trans ?_ | refine (h4 _ _).trans ?_ | refine arrive_kept (Fld.mono hφ rfl) _ _ _ (fun _ => ?_)
    | refine kept_next.2 ?_ | refine kept_ite (fun _ => ?_) (fun _ => ?_)
    | refine get_ite_of (fun _ => ?_) (fun _ => ?_) | split | dsimp only

theorem execMemCeHour_kept {φ : Fld} (hφ : φ ∉ [.hub]) (s : State)  :
    Kept φ (execMemCeHour s) s := by
  have h0 := @setHub_get φ (hφ)
  unfold execMemCeHour
  with_reducible
    repeat' first
    | rfl | refine (h0 _ _).trans ?_ | refine kept_next.2 ?_ | refine kept_ite (fun _ => ?_) (fun _ => ?_)
    | refine get_ite_of (fun _ => ?_) (fun _ => ?_) | split | dsimp only

theorem execMemoryCompletion_kept {φ : Fld} (hφ : φ ∉ [.hub]) (hub point partition context gen : Nat) (s : State)  :
    Kept φ (execMemoryCompletion hub point partition context gen s) s := by
  have h0 := @countHub_get φ (hφ)
  have h1 := @modHub_get φ (hφ)
  unfold execMemoryCompletion
  with_reducible
    repeat' first
    | rfl | refine (h0 _ _ _ _).trans ?_ | refine (h1 _ _ _).trans ?_ | refine kept_next.2 ?_
    | refine kept_ite (fun _ => ?_) (fun _ => ?_) | refine get_ite_of (fun _ => ?_) (fun _ => ?_) | split | dsimp only

theorem execStaleCompletionSecond_kept {φ : Fld} (hφ : φ ∉ [.sent, .hub]) (hub : Nat) (s : State)  :
    Kept φ (execStaleCompletionSecond hub s) s := by
  have h0 := @hubEvent_get φ (Fld.mono hφ rfl)
  have h1 := @modHub_get φ (Fld.mono hφ rfl)
  unfold execStaleCompletionSecond
  with_reducible
    repeat' first
    | rfl | refine (h0 _ _ _ _).trans ?_ | refine (h1 _ _ _).trans ?_
    | refine (each_get _ _ (fun _ _ => ?_) _).trans ?_ | refine kept_next.2 ?_
    | refine kept_ite (fun _ => ?_) (fun _ => ?_) | refine get_ite_of (fun _ => ?_) (fun _ => ?_) | split | dsimp only

theorem poisonAlarm_get {φ : Fld} (hφ : φ ∉ yieldToFenceF) (site : Nat) (s : State)  :
    φ.get (poisonAlarm site s) = φ.get s := by
  have h0 := @modPart_get φ (Fld.mono hφ rfl)
  have h1 := @recordPoison_get φ (Fld.mono hφ rfl)
  have h2 := @startFence_get φ (hφ)
  unfold poisonAlarm
  with_reducible
    repeat' first
    | rfl | refine (h0 _ _ _).trans ?_ | refine (h1 _ _).trans ?_ | refine (h2 _ _ _ _ _).trans ?_
    | refine get_ite_of (fun _ => ?_) (fun _ => ?_) | split | dsimp only

theorem lateAlarm_get {φ : Fld} (hφ : φ ∉ yieldToFenceF) (site : Nat) (s : State)  :
    φ.get (lateAlarm site s) = φ.get s := by
  have h0 := @recordFrom_get φ (Fld.mono hφ rfl)
  have h1 := @startFence_get φ (hφ)
  unfold lateAlarm
  with_reducible
    repeat' first
    | rfl | refine (h0 _ _ _ _).trans ?_ | refine (h1 _ _ _ _ _).trans ?_
    | refine get_ite_of (fun _ => ?_) (fun _ => ?_) | split | dsimp only

theorem edgeAlarm_get {φ : Fld} (hφ : φ ∉ [.sent, .hub]) (site queue : Nat) (raised : Bool) (edge : Edge) (s : State)  :
    φ.get (edgeAlarm site queue raised edge s) = φ.get s := by
  have h0 := @modHub_get φ (Fld.mono hφ rfl)
  have h1 := @send_get φ (Fld.mono hφ rfl)
  have h2 := @sendAll_get φ (Fld.mono hφ rfl)
  unfold edgeAlarm
  with_reducible
    repeat' first
    | rfl | refine (h0 _ _ _).trans ?_ | refine (h1 _ _).trans ?_ | refine (h2 _ _).trans ?_
    | refine get_ite_of (fun _ => ?_) (fun _ => ?_) | split | dsimp only

theorem sentinelAlarm_get {φ : Fld} (hφ : φ ∉ yieldToFenceF) (site code : Nat) (raised : Bool) (edge : Edge) (s : State)  :
    φ.get (sentinelAlarm site code raised edge s) = φ.get s := by
  have h0 := @chargeLoss_get φ (Fld.mono hφ rfl)
  have h1 := @edgeAlarm_get φ (Fld.mono hφ rfl)
  have h2 := @lateAlarm_get φ (hφ)
  have h3 := @poisonAlarm_get φ (hφ)
  unfold sentinelAlarm
  with_reducible
    repeat' first
    | rfl | refine (h0 _ _).trans ?_ | refine (h1 _ _ _ _ _).trans ?_ | refine (h2 _ _).trans ?_
    | refine (h3 _ _).trans ?_ | refine get_ite_of (fun _ => ?_) (fun _ => ?_) | split | dsimp only

theorem execEdgeChange_kept {φ : Fld} (hφ : φ ∉ [.sent, .hub, .graph]) (hub : Nat) (raised : Bool) (edge : Edge) (s : State)  :
    Kept φ (execEdgeChange hub raised edge s) s := by
  have h0 := @setGraph_get φ (Fld.mono hφ rfl)
  unfold execEdgeChange
  with_reducible
    repeat' first
    | rfl | refine (h0 _ _).trans ?_ | refine arrive_kept (Fld.mono hφ rfl) _ _ _ (fun _ => ?_)
    | refine kept_next.2 ?_ | refine kept_ite (fun _ => ?_) (fun _ => ?_)
    | refine get_ite_of (fun _ => ?_) (fun _ => ?_) | split | dsimp only

theorem fenceSite_get {φ : Fld} (hφ : φ ∉ [.sent, .sen]) (site : Nat) (s : State)  :
    φ.get (fenceSite site s) = φ.get s := by
  have h0 := @endStream_get φ (Fld.mono hφ rfl)
  have h1 := @fenceIdle_get φ (Fld.mono hφ rfl)
  have h2 := @modSen_get φ (Fld.mono hφ rfl)
  unfold fenceSite
  with_reducible
    repeat' first
    | rfl | refine (h0 _ _ _).trans ?_ | refine (h1 _ _).trans ?_ | refine (h2 _ _ _).trans ?_
    | refine (foldl_get _ _ (fun _ _ => ?_) _).trans ?_ | refine (foldl_fst_get _ _ (fun _ _ => ?_) _).trans ?_
    | refine (foldl_snd_get _ _ (fun _ _ => ?_) _).trans ?_ | refine get_ite_of (fun _ => ?_) (fun _ => ?_) | split
    | dsimp only

theorem execFence_kept {φ : Fld} (hφ : φ ∉ [.sent, .sen, .hub]) (unit partition cause : Nat) (s : State)  :
    Kept φ (execFence unit partition cause s) s := by
  have h0 := @fenceSite_get φ (Fld.mono hφ rfl)
  have h1 := @sendAll_get φ (Fld.mono hφ rfl)
  unfold execFence
  with_reducible
    repeat' first
    | rfl | refine (h0 _ _).trans ?_ | refine (h1 _ _).trans ?_
    | refine arrive_kept (Fld.mono hφ rfl) _ _ _ (fun _ => ?_) | refine kept_next.2 ?_
    | refine kept_ite (fun _ => ?_) (fun _ => ?_) | refine get_ite_of (fun _ => ?_) (fun _ => ?_) | split | dsimp only

theorem execFenceDone_kept {φ : Fld} (hφ : φ ∉ yieldToFenceF) (site : Nat) (s : State)  :
    Kept φ (execFenceDone site s) s := by
  have h0 := @checkFence_get φ (hφ)
  have h1 := @modPart_get φ (Fld.mono hφ rfl)
  unfold execFenceDone
  with_reducible
    repeat' first
    | rfl | refine (h0 _ _).trans ?_ | refine (h1 _ _ _).trans ?_
    | refine arrive_kept (Fld.mono hφ rfl) _ _ _ (fun _ => ?_) | refine kept_next.2 ?_
    | refine kept_ite (fun _ => ?_) (fun _ => ?_) | refine get_ite_of (fun _ => ?_) (fun _ => ?_) | split | dsimp only

theorem execFenceDeadline_kept {φ : Fld} (hφ : φ ∉ chargeF) (partition : Nat) (s : State)  :
    Kept φ (execFenceDeadline partition s) s := by
  have h0 := @failFence_get φ (hφ)
  unfold execFenceDeadline
  with_reducible
    repeat' first
    | rfl | refine (h0 _ _ _ _).trans ?_ | refine kept_next.2 ?_ | refine kept_ite (fun _ => ?_) (fun _ => ?_)
    | refine get_ite_of (fun _ => ?_) (fun _ => ?_) | split | dsimp only

theorem execCommitWaitExpiry_kept {φ : Fld} (hφ : φ ∉ yieldToFenceF) (partition : Nat) (s : State)  :
    Kept φ (execCommitWaitExpiry partition s) s := by
  have h0 := @abortSteps_get φ (Fld.mono hφ rfl)
  have h1 := @issueFence_get φ (hφ)
  have h2 := @modPart_get φ (Fld.mono hφ rfl)
  have h3 := @record_get φ (Fld.mono hφ rfl)
  unfold execCommitWaitExpiry
  with_reducible
    repeat' first
    | rfl | refine (h0 _ _ _).trans ?_ | refine (h1 _ _).trans ?_ | refine (h2 _ _ _).trans ?_
    | refine (h3 _ _ _).trans ?_ | refine kept_next.2 ?_ | refine kept_ite (fun _ => ?_) (fun _ => ?_)
    | refine get_ite_of (fun _ => ?_) (fun _ => ?_) | split | dsimp only

theorem execFlitIntoFencedPartition_kept {φ : Fld} (hφ : φ ∉ [.sen, .hub]) (site : Nat) (expects : Bool) (s : State)  :
    Kept φ (execFlitIntoFencedPartition site expects s) s := by
  have h0 := @countHub_get φ (Fld.mono hφ rfl)
  have h1 := @modSen_get φ (Fld.mono hφ rfl)
  unfold execFlitIntoFencedPartition
  with_reducible
    repeat' first
    | rfl | refine (h0 _ _ _ _).trans ?_ | refine (h1 _ _ _).trans ?_ | refine kept_next.2 ?_
    | refine kept_ite (fun _ => ?_) (fun _ => ?_) | refine get_ite_of (fun _ => ?_) (fun _ => ?_) | split | dsimp only

theorem execTeardownWritesDrained_kept {φ : Fld} (hφ : φ ∉ yieldToFenceF) (partition context reads writes : Nat) (s : State)  :
    Kept φ (execTeardownWritesDrained partition context reads writes s) s := by
  have h0 := @endTeardown_get φ (hφ)
  unfold execTeardownWritesDrained
  with_reducible
    repeat' first
    | rfl | refine (h0 _ _ _ _ _ _).trans ?_ | refine kept_next.2 ?_ | refine kept_ite (fun _ => ?_) (fun _ => ?_)
    | refine get_ite_of (fun _ => ?_) (fun _ => ?_) | split | dsimp only

theorem execTeardownWriteTimeout_kept {φ : Fld} (hφ : φ ∉ yieldToFenceF) (partition context reads writes : Nat) (s : State)  :
    Kept φ (execTeardownWriteTimeout partition context reads writes s) s := by
  have h0 := @endTeardown_get φ (hφ)
  have h1 := @modPart_get φ (Fld.mono hφ rfl)
  unfold execTeardownWriteTimeout
  with_reducible
    repeat' first
    | rfl | refine (h0 _ _ _ _ _ _).trans ?_ | refine (h1 _ _ _).trans ?_ | refine kept_next.2 ?_
    | refine kept_ite (fun _ => ?_) (fun _ => ?_) | refine get_ite_of (fun _ => ?_) (fun _ => ?_) | split | dsimp only

theorem hangResolved_get {φ : Fld} (hφ : φ ∉ logF) (p outcome resumed : Nat) (h : Hang) (s : State)  :
    φ.get (hangResolved p outcome resumed h s) = φ.get s := by
  have h0 := @record_get φ (hφ)
  unfold hangResolved
  with_reducible
    repeat' first
    | rfl | refine (h0 _ _ _).trans ?_ | refine get_ite_of (fun _ => ?_) (fun _ => ?_) | split | dsimp only

theorem finishHang_get {φ : Fld} (hφ : φ ∉ acceptF) (p : Nat) (h : Hang) (s : State)  :
    φ.get (finishHang p h s) = φ.get s := by
  have h0 := @hangResolved_get φ (Fld.mono hφ rfl)
  have h1 := @modPart_get φ (Fld.mono hφ rfl)
  have h2 := @resumeJob_get φ (hφ)
  unfold finishHang
  with_reducible
    repeat' first
    | rfl | refine (h0 _ _ _ _ _).trans ?_ | refine (h1 _ _ _).trans ?_ | refine (h2 _ _ _).trans ?_
    | refine get_ite_of (fun _ => ?_) (fun _ => ?_) | split | dsimp only

theorem nextReplay_get {φ : Fld} (hφ : φ ∉ acceptF) (p : Nat) (s : State)  :
    φ.get (nextReplay p s) = φ.get s := by
  have h0 := @finishHang_get φ (hφ)
  have h1 := @modPart_get φ (Fld.mono hφ rfl)
  have h2 := @openStep_get φ (hφ)
  unfold nextReplay
  with_reducible
    repeat' first
    | rfl | refine (h0 _ _ _).trans ?_ | refine (h1 _ _ _).trans ?_ | refine (h2 _ _ _).trans ?_
    | refine get_ite_of (fun _ => ?_) (fun _ => ?_) | split | dsimp only

theorem hangReplay_get {φ : Fld} (hφ : φ ∉ logF) (p outcome : Nat) (h : Hang) (s : State)  :
    φ.get (hangReplay p outcome h s) = φ.get s := by
  have h0 := @record_get φ (hφ)
  unfold hangReplay
  with_reducible
    repeat' first
    | rfl | refine (h0 _ _ _).trans ?_ | refine get_ite_of (fun _ => ?_) (fun _ => ?_) | split | dsimp only

theorem refuseContext_get {φ : Fld} (hφ : φ ∉ acceptF) (p outcome : Nat) (s : State)  :
    φ.get (refuseContext p outcome s) = φ.get s := by
  have h0 := @hangReplay_get φ (Fld.mono hφ rfl)
  have h1 := @modPart_get φ (Fld.mono hφ rfl)
  unfold refuseContext
  with_reducible
    repeat' first
    | rfl | refine (h0 _ _ _ _).trans ?_ | refine (h1 _ _ _).trans ?_ | refine get_ite_of (fun _ => ?_) (fun _ => ?_)
    | split | dsimp only

theorem replayEnded_get {φ : Fld} (hφ : φ ∉ acceptF) (p site : Nat) (s : State)  :
    φ.get (replayEnded p site s) = φ.get s := by
  have h0 := @hangReplay_get φ (Fld.mono hφ rfl)
  have h1 := @modPart_get φ (Fld.mono hφ rfl)
  have h2 := @nextReplay_get φ (hφ)
  unfold replayEnded
  with_reducible
    repeat' first
    | rfl | refine (h0 _ _ _ _).trans ?_ | refine (h1 _ _ _).trans ?_ | refine (h2 _ _).trans ?_
    | refine get_ite_of (fun _ => ?_) (fun _ => ?_) | split | dsimp only

theorem execReplayStepLimitExpiry_kept {φ : Fld} (hφ : φ ∉ yieldToFenceF) (partition : Nat) (s : State)  :
    Kept φ (execReplayStepLimitExpiry partition s) s := by
  have h0 := @refuseContext_get φ (Fld.mono hφ rfl)
  have h1 := @startFence_get φ (hφ)
  unfold execReplayStepLimitExpiry
  with_reducible
    repeat' first
    | rfl | refine (h0 _ _ _).trans ?_ | refine (h1 _ _ _ _ _).trans ?_ | refine kept_next.2 ?_
    | refine kept_ite (fun _ => ?_) (fun _ => ?_) | refine get_ite_of (fun _ => ?_) (fun _ => ?_) | split | dsimp only

theorem endRepeats_get {φ : Fld} (hφ : φ ∉ discardRunF) (site : Nat) (s : State)  :
    φ.get (endRepeats site s) = φ.get s := by
  have h0 := @endUnavailable_get φ (hφ)
  have h1 := @modHub_get φ (Fld.mono hφ rfl)
  have h2 := @serveRepeat_get φ (Fld.mono hφ rfl)
  unfold endRepeats
  with_reducible
    repeat' first
    | rfl | refine (h0 _ _ _).trans ?_ | refine (h1 _ _ _).trans ?_ | refine (h2 _ _).trans ?_
    | refine (each_get _ _ (fun _ _ => ?_) _).trans ?_ | refine get_ite_of (fun _ => ?_) (fun _ => ?_) | split
    | dsimp only

theorem execTileReset_kept {φ : Fld} (hφ : φ ∉ cancelScreensF) (site cause : Nat) (s : State)  :
    Kept φ (execTileReset site cause s) s := by
  have h0 := @cancelScreen_get φ (Fld.mono hφ rfl)
  have h1 := @endRepeats_get φ (Fld.mono hφ rfl)
  have h2 := @endReplays_get φ (Fld.mono hφ rfl)
  have h3 := @holdSlot_get φ (Fld.mono hφ rfl)
  have h4 := @modSen_get φ (Fld.mono hφ rfl)
  have h5 := @receive_get φ (Fld.mono hφ rfl)
  have h6 := @resetSentinel_get φ (Fld.mono hφ rfl)
  unfold execTileReset
  with_reducible
    repeat' first
    | rfl | refine (h0 _ _).trans ?_ | refine (h1 _ _).trans ?_ | refine (h2 _ _).trans ?_ | refine (h3 _ _).trans ?_
    | refine (h4 _ _ _).trans ?_ | refine (h5 _ _).trans ?_ | refine (h6 _ _).trans ?_ | refine kept_next.2 ?_
    | refine kept_ite (fun _ => ?_) (fun _ => ?_) | refine get_ite_of (fun _ => ?_) (fun _ => ?_) | split | dsimp only

theorem tileResetEvent_get {φ : Fld} (hφ : φ ∉ logF) (site cause result : Nat) (s : State)  :
    φ.get (tileResetEvent site cause result s) = φ.get s := by
  have h0 := @record_get φ (hφ)
  unfold tileResetEvent
  with_reducible
    repeat' first
    | rfl | refine (h0 _ _ _).trans ?_ | refine get_ite_of (fun _ => ?_) (fun _ => ?_) | split | dsimp only

/-- Fields that clearPartition may change. -/
def clearPartitionF : List Fld :=
  [.sent, .sen, .hub, .graph]

theorem clearPartition_get {φ : Fld} (hφ : φ ∉ clearPartitionF) (p : Nat) (s : State)  :
    φ.get (clearPartition p s) = φ.get s := by
  have h0 := @modSen_get φ (Fld.mono hφ rfl)
  have h1 := @setAlarm_get φ (Fld.mono hφ rfl)
  have h2 := @setGraph_get φ (Fld.mono hφ rfl)
  have h3 := @setHub_get φ (Fld.mono hφ rfl)
  unfold clearPartition
  with_reducible
    repeat' first
    | rfl | refine (h0 _ _ _).trans ?_ | refine (h1 _ _ _ _ _).trans ?_ | refine (h2 _ _).trans ?_
    | refine (h3 _ _).trans ?_ | refine (each_get _ _ (fun _ _ => ?_) _).trans ?_
    | refine get_ite_of (fun _ => ?_) (fun _ => ?_) | split | dsimp only

theorem afterReset_get {φ : Fld} (hφ : φ ∉ prepareSwapF) (p : Nat) (r : Reset) (s : State)  :
    φ.get (afterReset p r s) = φ.get s := by
  have h0 := @detachJob_get φ (hφ)
  have h1 := @hangResolved_get φ (Fld.mono hφ rfl)
  have h2 := @nextReplay_get φ (Fld.mono hφ rfl)
  have h3 := @resumeJob_get φ (Fld.mono hφ rfl)
  unfold afterReset
  with_reducible
    repeat' first
    | rfl | refine (h0 _ _).trans ?_ | refine (h1 _ _ _ _ _).trans ?_ | refine (h2 _ _).trans ?_
    | refine (h3 _ _ _).trans ?_ | refine get_ite_of (fun _ => ?_) (fun _ => ?_) | split | dsimp only

/-- Fields that finishReset may change. -/
def finishResetF : List Fld :=
  logF ++ ([.journalSeq, .journal, .health, .sparesLow, .sen, .hub, .part, .xlat0, .xlat1, .routes0, .routes1,
    .graph] : List Fld)

theorem finishReset_get {φ : Fld} (hφ : φ ∉ finishResetF) (p : Nat) (s : State)  :
    φ.get (finishReset p s) = φ.get s := by
  have h0 := @afterReset_get φ (Fld.mono hφ rfl)
  have h1 := @clearPartition_get φ (Fld.mono hφ rfl)
  have h2 := @completeAll_get φ (Fld.mono hφ rfl)
  have h3 := @modPart_get φ (Fld.mono hφ rfl)
  have h4 := @record_get φ (Fld.mono hφ rfl)
  have h5 := @recordPoison_get φ (Fld.mono hφ rfl)
  unfold finishReset
  with_reducible
    repeat' first
    | rfl | refine (h0 _ _ _).trans ?_ | refine (h1 _ _).trans ?_ | refine (h2 _ _ _ _).trans ?_
    | refine (h3 _ _ _).trans ?_ | refine (h4 _ _ _).trans ?_ | refine (h5 _ _).trans ?_
    | refine get_ite_of (fun _ => ?_) (fun _ => ?_) | split | dsimp only

theorem failReset_get {φ : Fld} (hφ : φ ∉ chargeF) (p result channel : Nat) (failed : List Nat) (s : State)  :
    φ.get (failReset p result channel failed s) = φ.get s := by
  have h0 := @chargeLoss_get φ (hφ)
  have h1 := @completeAll_get φ (Fld.mono hφ rfl)
  have h2 := @goDown_get φ (Fld.mono hφ rfl)
  have h3 := @modPart_get φ (Fld.mono hφ rfl)
  have h4 := @record_get φ (Fld.mono hφ rfl)
  have h5 := @recordPoison_get φ (Fld.mono hφ rfl)
  unfold failReset
  with_reducible
    repeat' first
    | rfl | refine (h0 _ _).trans ?_ | refine (h1 _ _ _ _).trans ?_ | refine (h2 _ _ _).trans ?_
    | refine (h3 _ _ _).trans ?_ | refine (h4 _ _ _).trans ?_ | refine (h5 _ _).trans ?_
    | refine (each_get _ _ (fun _ _ => ?_) _).trans ?_ | refine get_ite_of (fun _ => ?_) (fun _ => ?_) | split
    | dsimp only

theorem checkReset_get {φ : Fld} (hφ : φ ∉ finishResetF) (p : Nat) (s : State)  :
    φ.get (checkReset p s) = φ.get s := by
  have h0 := @finishReset_get φ (hφ)
  unfold checkReset
  with_reducible
    repeat' first
    | rfl | refine (h0 _ _).trans ?_ | refine get_ite_of (fun _ => ?_) (fun _ => ?_) | split | dsimp only

/-- Fields that execResetDone may change. -/
def resetDoneF : List Fld :=
  logF ++ ([.journalSeq, .journal, .health, .unflushed, .deepPassed, .marginPrev, .sparesLow, .sen, .hub, .part,
    .xlat0, .xlat1, .routes0, .routes1, .screens, .graph, .answers] : List Fld)

theorem execResetDone_kept {φ : Fld} (hφ : φ ∉ resetDoneF) (site : Nat) (s : State)  :
    Kept φ (execResetDone site s) s := by
  have h0 := @checkReset_get φ (Fld.mono hφ rfl)
  have h1 := @joinPass_get φ (Fld.mono hφ rfl)
  have h2 := @modPart_get φ (Fld.mono hφ rfl)
  have h3 := @modSen_get φ (Fld.mono hφ rfl)
  have h4 := @raiseWake_get φ (Fld.mono hφ rfl)
  have h5 := @serveFront_get φ (Fld.mono hφ rfl)
  have h6 := @tileResetEvent_get φ (Fld.mono hφ rfl)
  unfold execResetDone
  with_reducible
    repeat' first
    | rfl | refine (h0 _ _).trans ?_ | refine (h1 _ _ _).trans ?_ | refine (h2 _ _ _).trans ?_
    | refine (h3 _ _ _).trans ?_ | refine (h4 _ _).trans ?_ | refine (h5 _ _).trans ?_ | refine (h6 _ _ _ _).trans ?_
    | refine arrive_kept (Fld.mono hφ rfl) _ _ _ (fun _ => ?_) | refine kept_next.2 ?_
    | refine kept_ite (fun _ => ?_) (fun _ => ?_) | refine get_ite_of (fun _ => ?_) (fun _ => ?_) | split | dsimp only

theorem execTileResetTimeout_kept {φ : Fld} (hφ : φ ∉ chargeF) (site : Nat) (s : State)  :
    Kept φ (execTileResetTimeout site s) s := by
  have h0 := @chargeLoss_get φ (hφ)
  have h1 := @failReset_get φ (hφ)
  have h2 := @modSen_get φ (Fld.mono hφ rfl)
  have h3 := @tileResetEvent_get φ (Fld.mono hφ rfl)
  unfold execTileResetTimeout
  with_reducible
    repeat' first
    | rfl | refine (h0 _ _).trans ?_ | refine (h1 _ _ _ _ _).trans ?_ | refine (h2 _ _ _).trans ?_
    | refine (h3 _ _ _ _).trans ?_ | refine kept_next.2 ?_ | refine kept_ite (fun _ => ?_) (fun _ => ?_)
    | refine get_ite_of (fun _ => ?_) (fun _ => ?_) | split | dsimp only

/-- Fields that execResetMemoryReady may change. -/
def resetMemoryReadyF : List Fld :=
  logF ++ ([.journalSeq, .journal, .health, .unflushed, .sparesLow, .sen, .hub, .part, .xlat0, .xlat1, .routes0,
    .routes1, .graph] : List Fld)

theorem execResetMemoryReady_kept {φ : Fld} (hφ : φ ∉ resetMemoryReadyF) (partition failing : Nat) (s : State)  :
    Kept φ (execResetMemoryReady partition failing s) s := by
  have h0 := @checkReset_get φ (Fld.mono hφ rfl)
  have h1 := @failReset_get φ (Fld.mono hφ rfl)
  have h2 := @modPart_get φ (Fld.mono hφ rfl)
  unfold execResetMemoryReady
  with_reducible
    repeat' first
    | rfl | refine (h0 _ _).trans ?_ | refine (h1 _ _ _ _ _).trans ?_ | refine (h2 _ _ _).trans ?_
    | refine kept_next.2 ?_ | refine kept_ite (fun _ => ?_) (fun _ => ?_)
    | refine get_ite_of (fun _ => ?_) (fun _ => ?_) | split | dsimp only

end Sys2Proof.Machine
end

