-- ==== Sys2Proof/Laws/FrameStop.lean ====
section
/-!
SUPPORT. Frames of the operations of Machine/Stop.lean.
-/
namespace Sys2Proof.Machine

open Sys2Proof

set_option linter.all false
set_option Elab.async false

theorem completeStop_get {φ : Fld} (hφ : φ ∉ logF) (x : Stop) (s : State)  :
    φ.get (completeStop x s) = φ.get s := by
  have h0 := @complete_get φ (hφ)
  unfold completeStop
  with_reducible
    repeat' first
    | rfl | refine (h0 _ _ _ _).trans ?_ | refine (each_get _ _ (fun _ _ => ?_) _).trans ?_
    | refine get_ite_of (fun _ => ?_) (fun _ => ?_) | split | dsimp only

theorem markStopped_get {φ : Fld} (hφ : φ ∉ [.part]) (p : Nat) (s : State)  :
    φ.get (markStopped p s) = φ.get s := by
  have h0 := @modPart_get φ (hφ)
  unfold markStopped
  with_reducible
    repeat' first
    | rfl | refine (h0 _ _ _).trans ?_ | refine get_ite_of (fun _ => ?_) (fun _ => ?_) | split | dsimp only

/-- Fields that checkStopped may change. -/
def checkStoppedF : List Fld :=
  logF ++ ([.slot, .part, .stop] : List Fld)

theorem checkStopped_get {φ : Fld} (hφ : φ ∉ checkStoppedF) (s : State)  :
    φ.get (checkStopped s) = φ.get s := by
  have h0 := @completeStop_get φ (Fld.mono hφ rfl)
  have h1 := @markStopped_get φ (Fld.mono hφ rfl)
  have h2 := @record_get φ (Fld.mono hφ rfl)
  have h3 := @setSlot_get φ (Fld.mono hφ rfl)
  have h4 := @setStop_get φ (Fld.mono hφ rfl)
  unfold checkStopped
  with_reducible
    repeat' first
    | rfl | refine (h0 _ _).trans ?_ | refine (h1 _ _).trans ?_ | refine (h2 _ _ _).trans ?_
    | refine (h3 _ _).trans ?_ | refine (h4 _ _).trans ?_ | refine (each_get _ _ (fun _ _ => ?_) _).trans ?_
    | refine (foldl_get _ _ (fun _ _ => ?_) _).trans ?_ | refine (foldl_fst_get _ _ (fun _ _ => ?_) _).trans ?_
    | refine (foldl_snd_get _ _ (fun _ _ => ?_) _).trans ?_ | refine get_ite_of (fun _ => ?_) (fun _ => ?_) | split
    | dsimp only

/-- Fields that haltSite may change. -/
def haltSiteF : List Fld :=
  logF ++ ([.sen, .hub, .part, .stop] : List Fld)

theorem haltSite_get {φ : Fld} (hφ : φ ∉ haltSiteF) (site n : Nat) (s : State)  :
    φ.get (haltSite site n s) = φ.get s := by
  have h0 := @discardRun_get φ (Fld.mono hφ rfl)
  have h1 := @modSen_get φ (Fld.mono hφ rfl)
  have h2 := @modStop_get φ (Fld.mono hφ rfl)
  unfold haltSite
  with_reducible
    repeat' first
    | rfl | refine (h0 _ _ _).trans ?_ | refine (h1 _ _ _).trans ?_ | refine (h2 _ _).trans ?_
    | refine get_ite_of (fun _ => ?_) (fun _ => ?_) | split | dsimp only

/-- Fields that execStopSlot may change. -/
def stopSlotF : List Fld :=
  logF ++ ([.slot, .sen, .hub, .part, .stop, .answers] : List Fld)

theorem execStopSlot_kept {φ : Fld} (hφ : φ ∉ stopSlotF) (site : Nat) (n : Dword) (s : State)  :
    Kept φ (execStopSlot site n s) s := by
  have h0 := @checkStopped_get φ (Fld.mono hφ rfl)
  have h1 := @haltSite_get φ (Fld.mono hφ rfl)
  have h2 := @modSen_get φ (Fld.mono hφ rfl)
  have h3 := @modStop_get φ (Fld.mono hφ rfl)
  have h4 := @respond_get φ (Fld.mono hφ rfl)
  unfold execStopSlot
  with_reducible
    repeat' first
    | rfl | refine (h0 _).trans ?_ | refine (h1 _ _ _).trans ?_ | refine (h2 _ _ _).trans ?_
    | refine (h3 _ _).trans ?_ | refine (h4 _ _ _ _ _).trans ?_
    | refine arrive_kept (Fld.mono hφ rfl) _ _ _ (fun _ => ?_) | refine kept_next.2 ?_
    | refine kept_ite (fun _ => ?_) (fun _ => ?_) | refine get_ite_of (fun _ => ?_) (fun _ => ?_) | split | dsimp only

/-- Fields that execStopSlotReached may change. -/
def stopSlotReachedF : List Fld :=
  logF ++ ([.slot, .sen, .hub, .part, .stop] : List Fld)

theorem execStopSlotReached_kept {φ : Fld} (hφ : φ ∉ stopSlotReachedF) (site : Nat) (s : State)  :
    Kept φ (execStopSlotReached site s) s := by
  have h0 := @checkStopped_get φ (Fld.mono hφ rfl)
  have h1 := @haltSite_get φ (Fld.mono hφ rfl)
  have h2 := @setSlot_get φ (Fld.mono hφ rfl)
  unfold execStopSlotReached
  with_reducible
    repeat' first
    | rfl | refine (h0 _).trans ?_ | refine (h1 _ _ _).trans ?_ | refine (h2 _ _).trans ?_ | refine kept_next.2 ?_
    | refine kept_ite (fun _ => ?_) (fun _ => ?_) | refine get_ite_of (fun _ => ?_) (fun _ => ?_) | split | dsimp only

theorem execStopCodeDecoded_kept {φ : Fld} (hφ : φ ∉ stopSlotReachedF) (site : Nat) (slot : Dword) (s : State)  :
    Kept φ (execStopCodeDecoded site slot s) s := by
  have h0 := @checkStopped_get φ (Fld.mono hφ rfl)
  have h1 := @haltSite_get φ (Fld.mono hφ rfl)
  unfold execStopCodeDecoded
  with_reducible
    repeat' first
    | rfl | refine (h0 _).trans ?_ | refine (h1 _ _ _).trans ?_ | refine kept_next.2 ?_
    | refine kept_ite (fun _ => ?_) (fun _ => ?_) | refine get_ite_of (fun _ => ?_) (fun _ => ?_) | split | dsimp only

/-- Fields that stopImmediately may change. -/
def stopImmediatelyF : List Fld :=
  logF ++ ([.slot, .sen, .part, .stop] : List Fld)

theorem stopImmediately_get {φ : Fld} (hφ : φ ∉ stopImmediatelyF) (seqs : List Nat) (s : State)  :
    φ.get (stopImmediately seqs s) = φ.get s := by
  have h0 := @checkStopped_get φ (Fld.mono hφ rfl)
  have h1 := @modSen_get φ (Fld.mono hφ rfl)
  have h2 := @modStop_get φ (Fld.mono hφ rfl)
  unfold stopImmediately
  with_reducible
    repeat' first
    | rfl | refine (h0 _).trans ?_ | refine (h1 _ _ _).trans ?_ | refine (h2 _ _).trans ?_
    | refine (each_get _ _ (fun _ _ => ?_) _).trans ?_ | refine get_ite_of (fun _ => ?_) (fun _ => ?_) | split
    | dsimp only

/-- Fields that execStopAtSlot may change. -/
def stopAtSlotF : List Fld :=
  logF ++ ([.slot, .part, .stop, .waits] : List Fld)

theorem execStopAtSlot_kept {φ : Fld} (hφ : φ ∉ stopAtSlotF) (seq : Nat) (s : State)  :
    Kept φ (execStopAtSlot seq s) s := by
  have h0 := @checkStopped_get φ (Fld.mono hφ rfl)
  have h1 := @modStop_get φ (Fld.mono hφ rfl)
  have h2 := @sendAll_get φ (Fld.mono hφ rfl)
  have h3 := @waitFor_get φ (Fld.mono hφ rfl)
  unfold execStopAtSlot
  with_reducible
    repeat' first
    | rfl | refine (h0 _).trans ?_ | refine (h1 _ _).trans ?_ | refine (h2 _ _).trans ?_
    | refine (h3 _ _ _ _ _ _).trans ?_ | refine runCmd_kept (Fld.mono hφ rfl) _ _ _ _ ?_ | refine kept_next.2 ?_
    | refine kept_ite (fun _ => ?_) (fun _ => ?_) | refine get_ite_of (fun _ => ?_) (fun _ => ?_) | split | dsimp only

/-- Fields that execStopNow may change. -/
def stopNowF : List Fld :=
  logF ++ ([.slot, .sen, .part, .stop, .waits] : List Fld)

theorem execStopNow_kept {φ : Fld} (hφ : φ ∉ stopNowF) (seq : Nat) (s : State)  :
    Kept φ (execStopNow seq s) s := by
  have h0 := @stopImmediately_get φ (Fld.mono hφ rfl)
  have h1 := @waitFor_get φ (Fld.mono hφ rfl)
  unfold execStopNow
  with_reducible
    repeat' first
    | rfl | refine (h0 _ _).trans ?_ | refine (h1 _ _ _ _ _ _).trans ?_
    | refine runCmd_kept (Fld.mono hφ rfl) _ _ _ _ ?_ | refine kept_next.2 ?_
    | refine kept_ite (fun _ => ?_) (fun _ => ?_) | refine get_ite_of (fun _ => ?_) (fun _ => ?_) | split | dsimp only

theorem requestStop_get {φ : Fld} (hφ : φ ∉ stopNowF) (site : Nat) (s : State)  :
    φ.get (requestStop site s) = φ.get s := by
  have h0 := @stopImmediately_get φ (Fld.mono hφ rfl)
  have h1 := @waitFor_get φ (Fld.mono hφ rfl)
  unfold requestStop
  with_reducible
    repeat' first
    | rfl | refine (h0 _ _).trans ?_ | refine (h1 _ _ _ _ _ _).trans ?_
    | refine get_ite_of (fun _ => ?_) (fun _ => ?_) | split | dsimp only

/-- Fields that execStopRequest may change. -/
def stopRequestF : List Fld :=
  logF ++ ([.slot, .sen, .hub, .part, .stop, .waits, .answers] : List Fld)

theorem execStopRequest_kept {φ : Fld} (hφ : φ ∉ stopRequestF) (site : Nat) (s : State)  :
    Kept φ (execStopRequest site s) s := by
  have h0 := @requestStop_get φ (Fld.mono hφ rfl)
  have h1 := @respond_get φ (Fld.mono hφ rfl)
  unfold execStopRequest
  with_reducible
    repeat' first
    | rfl | refine (h0 _ _).trans ?_ | refine (h1 _ _ _ _ _).trans ?_
    | refine arrive_kept (Fld.mono hφ rfl) _ _ _ (fun _ => ?_) | refine kept_next.2 ?_
    | refine kept_ite (fun _ => ?_) (fun _ => ?_) | refine get_ite_of (fun _ => ?_) (fun _ => ?_) | split | dsimp only

theorem execStopRelease_kept {φ : Fld} (hφ : φ ∉ finishReleaseF) (seq : Nat) (s : State)  :
    Kept φ (execStopRelease seq s) s := by
  have h0 := @releaseStop_get φ (hφ)
  unfold execStopRelease
  with_reducible
    repeat' first
    | rfl | refine (h0 _ _ _).trans ?_ | refine runCmd_kept (Fld.mono hφ rfl) _ _ _ _ ?_ | refine kept_next.2 ?_
    | refine kept_ite (fun _ => ?_) (fun _ => ?_) | refine get_ite_of (fun _ => ?_) (fun _ => ?_) | split | dsimp only

theorem execStopReleaseMessage_kept {φ : Fld} (hφ : φ ∉ writeF) (site : Nat) (sMin : Dword) (s : State)  :
    Kept φ (execStopReleaseMessage site sMin s) s := by
  have h0 := @modSen_get φ (Fld.mono hφ rfl)
  have h1 := @respond_get φ (Fld.mono hφ rfl)
  unfold execStopReleaseMessage
  with_reducible
    repeat' first
    | rfl | refine (h0 _ _ _).trans ?_ | refine (h1 _ _ _ _ _).trans ?_
    | refine arrive_kept (Fld.mono hφ rfl) _ _ _ (fun _ => ?_) | refine kept_next.2 ?_
    | refine kept_ite (fun _ => ?_) (fun _ => ?_) | refine get_ite_of (fun _ => ?_) (fun _ => ?_) | split | dsimp only

theorem execTileRestart_kept {φ : Fld} (hφ : φ ∉ finishReleaseF) (site : Nat) (s : State)  :
    Kept φ (execTileRestart site s) s := by
  have h0 := @finishRelease_get φ (hφ)
  have h1 := @modSen_get φ (Fld.mono hφ rfl)
  have h2 := @modStop_get φ (Fld.mono hφ rfl)
  unfold execTileRestart
  with_reducible
    repeat' first
    | rfl | refine (h0 _).trans ?_ | refine (h1 _ _ _).trans ?_ | refine (h2 _ _).trans ?_ | refine kept_next.2 ?_
    | refine kept_ite (fun _ => ?_) (fun _ => ?_) | refine get_ite_of (fun _ => ?_) (fun _ => ?_) | split | dsimp only

theorem endAllRepeats_get {φ : Fld} (hφ : φ ∉ discardRunF) (s : State)  :
    φ.get (endAllRepeats s) = φ.get s := by
  have h0 := @endRepeats_get φ (hφ)
  unfold endAllRepeats
  with_reducible
    repeat' first
    | rfl | refine (h0 _ _).trans ?_ | refine (each_get _ _ (fun _ _ => ?_) _).trans ?_
    | refine get_ite_of (fun _ => ?_) (fun _ => ?_) | split | dsimp only

/-- Fields that execScanOut may change. -/
def scanOutF : List Fld :=
  logF ++ ([.sen, .hub, .part, .stop, .scanId, .dram] : List Fld)

theorem execScanOut_kept {φ : Fld} (hφ : φ ∉ scanOutF) (seq : Nat) (absent : List Nat) (time : Nat) (expired : Bool) (s : State)  :
    Kept φ (execScanOut seq absent time expired s) s := by
  have h0 := @complete_get φ (Fld.mono hφ rfl)
  have h1 := @endAllRepeats_get φ (Fld.mono hφ rfl)
  have h2 := @modStop_get φ (Fld.mono hφ rfl)
  have h3 := @record_get φ (Fld.mono hφ rfl)
  have h4 := @setDram_get φ (Fld.mono hφ rfl)
  have h5 := @setScanId_get φ (Fld.mono hφ rfl)
  unfold execScanOut
  with_reducible
    repeat' first
    | rfl | refine (h0 _ _ _ _).trans ?_ | refine (h1 _).trans ?_ | refine (h2 _ _).trans ?_
    | refine (h3 _ _ _).trans ?_ | refine (h4 _ _).trans ?_ | refine (h5 _ _).trans ?_
    | refine (each_get _ _ (fun _ _ => ?_) _).trans ?_ | refine runCmd_kept (Fld.mono hφ rfl) _ _ _ _ ?_
    | refine kept_next.2 ?_ | refine kept_ite (fun _ => ?_) (fun _ => ?_)
    | refine get_ite_of (fun _ => ?_) (fun _ => ?_) | split | dsimp only

end Sys2Proof.Machine
end

