-- ==== Sys2Proof/Laws/FrameHangs.lean ====
section
/-!
SUPPORT. Frames of the operations of Machine/Hangs.lean.
-/
namespace Sys2Proof.Machine

open Sys2Proof

set_option linter.all false
set_option Elab.async false

theorem execEdgeTickTimer_kept {φ : Fld} (hφ : φ ∉ [.sent]) (hub : Nat) (s : State)  :
    Kept φ (execEdgeTickTimer hub s) s := by
  have h0 := @sendAll_get φ (hφ)
  unfold execEdgeTickTimer
  with_reducible
    repeat' first
    | rfl | refine (h0 _ _).trans ?_ | refine kept_next.2 ?_ | refine kept_ite (fun _ => ?_) (fun _ => ?_)
    | refine get_ite_of (fun _ => ?_) (fun _ => ?_) | split | dsimp only

theorem tickQueue_get {φ : Fld} (hφ : φ ∉ [.sen]) (site n : Nat) (s : State)  :
    φ.get (tickQueue site n s) = φ.get s := by
  have h0 := @countSen_get φ (hφ)
  have h1 := @modSen_get φ (hφ)
  have h2 := @pushAlarm_get φ (hφ)
  unfold tickQueue
  with_reducible
    repeat' first
    | rfl | refine (h0 _ _ _ _).trans ?_ | refine (h1 _ _ _).trans ?_ | refine (h2 _ _ _).trans ?_
    | refine get_ite_of (fun _ => ?_) (fun _ => ?_) | split | dsimp only

theorem execEdgeTick_kept {φ : Fld} (hφ : φ ∉ [.sent, .sen, .hub]) (site : Nat) (s : State)  :
    Kept φ (execEdgeTick site s) s := by
  have h0 := @modSen_get φ (Fld.mono hφ rfl)
  have h1 := @tickQueue_get φ (Fld.mono hφ rfl)
  unfold execEdgeTick
  with_reducible
    repeat' first
    | rfl | refine (h0 _ _ _).trans ?_ | refine (h1 _ _ _).trans ?_ | refine (each_get _ _ (fun _ _ => ?_) _).trans ?_
    | refine arrive_kept (Fld.mono hφ rfl) _ _ _ (fun _ => ?_) | refine kept_next.2 ?_
    | refine kept_ite (fun _ => ?_) (fun _ => ?_) | refine get_ite_of (fun _ => ?_) (fun _ => ?_) | split | dsimp only

theorem hangDetected_get {φ : Fld} (hφ : φ ∉ logF) (p cause : Nat) (path : List Edge) (s : State)  :
    φ.get (hangDetected p cause path s) = φ.get s := by
  have h0 := @record_get φ (hφ)
  unfold hangDetected
  with_reducible
    repeat' first
    | rfl | refine (h0 _ _ _).trans ?_ | refine (foldl_get _ _ (fun _ _ => ?_) _).trans ?_
    | refine (foldl_fst_get _ _ (fun _ _ => ?_) _).trans ?_ | refine (foldl_snd_get _ _ (fun _ _ => ?_) _).trans ?_
    | refine get_ite_of (fun _ => ?_) (fun _ => ?_) | split | dsimp only

theorem fenceHang_get {φ : Fld} (hφ : φ ∉ yieldToFenceF) (p : Nat) (s : State)  :
    φ.get (fenceHang p s) = φ.get s := by
  have h0 := @modPart_get φ (Fld.mono hφ rfl)
  have h1 := @startFence_get φ (hφ)
  unfold fenceHang
  with_reducible
    repeat' first
    | rfl | refine (h0 _ _ _).trans ?_ | refine (h1 _ _ _ _ _).trans ?_
    | refine get_ite_of (fun _ => ?_) (fun _ => ?_) | split | dsimp only

theorem declareHang_get {φ : Fld} (hφ : φ ∉ yieldToFenceF) (p cause : Nat) (path : List Edge) (s : State)  :
    φ.get (declareHang p cause path s) = φ.get s := by
  have h0 := @fenceHang_get φ (hφ)
  have h1 := @hangDetected_get φ (Fld.mono hφ rfl)
  have h2 := @modPart_get φ (Fld.mono hφ rfl)
  have h3 := @refuseContext_get φ (Fld.mono hφ rfl)
  have h4 := @takeSnapshot_get φ (Fld.mono hφ rfl)
  unfold declareHang
  with_reducible
    repeat' first
    | rfl | refine (h0 _ _).trans ?_ | refine (h1 _ _ _ _).trans ?_ | refine (h2 _ _ _).trans ?_
    | refine (h3 _ _ _).trans ?_ | refine (h4 _ _ _ _ _).trans ?_ | refine (each_get _ _ (fun _ _ => ?_) _).trans ?_
    | refine get_ite_of (fun _ => ?_) (fun _ => ?_) | split | dsimp only

theorem searchPartition_get {φ : Fld} (hφ : φ ∉ yieldToFenceF) (p : Nat) (s : State)  :
    φ.get (searchPartition p s) = φ.get s := by
  have h0 := @declareHang_get φ (hφ)
  unfold searchPartition
  with_reducible
    repeat' first
    | rfl | refine (h0 _ _ _ _).trans ?_ | refine get_ite_of (fun _ => ?_) (fun _ => ?_) | split | dsimp only

theorem execWaitForSearchTimer_kept {φ : Fld} (hφ : φ ∉ yieldToFenceF) (s : State)  :
    Kept φ (execWaitForSearchTimer s) s := by
  have h0 := @searchPartition_get φ (hφ)
  unfold execWaitForSearchTimer
  with_reducible
    repeat' first
    | rfl | refine (h0 _ _).trans ?_ | refine (each_get _ _ (fun _ _ => ?_) _).trans ?_ | refine kept_next.2 ?_
    | refine kept_ite (fun _ => ?_) (fun _ => ?_) | refine get_ite_of (fun _ => ?_) (fun _ => ?_) | split | dsimp only

theorem takeAnswers_get {φ : Fld} (hφ : φ ∉ yieldToFenceF) (p hub : Nat) (sites : List SnapSite) (edges : List Edge) (s : State)  :
    φ.get (takeAnswers p hub sites edges s) = φ.get s := by
  have h0 := @fenceHang_get φ (hφ)
  have h1 := @finishSnapshot_get φ (Fld.mono hφ rfl)
  have h2 := @modPart_get φ (Fld.mono hφ rfl)
  unfold takeAnswers
  with_reducible
    repeat' first
    | rfl | refine (h0 _ _).trans ?_ | refine (h1 _ _).trans ?_ | refine (h2 _ _ _).trans ?_
    | refine (foldl_get _ _ (fun _ _ => ?_) _).trans ?_ | refine (foldl_fst_get _ _ (fun _ _ => ?_) _).trans ?_
    | refine (foldl_snd_get _ _ (fun _ _ => ?_) _).trans ?_ | refine get_ite_of (fun _ => ?_) (fun _ => ?_) | split
    | dsimp only

theorem execSnapshotPart_kept {φ : Fld} (hφ : φ ∉ yieldToFenceF) (hub partition : Nat) (sites : List SnapSite) (edges : List Edge) (s : State)  :
    Kept φ (execSnapshotPart hub partition sites edges s) s := by
  have h0 := @takeAnswers_get φ (hφ)
  unfold execSnapshotPart
  with_reducible
    repeat' first
    | rfl | refine (h0 _ _ _ _ _).trans ?_ | refine arrive_kept (Fld.mono hφ rfl) _ _ _ (fun _ => ?_)
    | refine kept_next.2 ?_ | refine kept_ite (fun _ => ?_) (fun _ => ?_)
    | refine get_ite_of (fun _ => ?_) (fun _ => ?_) | split | dsimp only

theorem execSnapshotSiteTimeout_kept {φ : Fld} (hφ : φ ∉ yieldToFenceF) (site : Nat) (s : State)  :
    Kept φ (execSnapshotSiteTimeout site s) s := by
  have h0 := @takeAnswers_get φ (hφ)
  unfold execSnapshotSiteTimeout
  with_reducible
    repeat' first
    | rfl | refine (h0 _ _ _ _ _).trans ?_ | refine kept_next.2 ?_ | refine kept_ite (fun _ => ?_) (fun _ => ?_)
    | refine get_ite_of (fun _ => ?_) (fun _ => ?_) | split | dsimp only

end Sys2Proof.Machine
end

