-- ==== Sys2Proof/Laws/FrameSafetyNet.lean ====
section
/-!
SUPPORT. Frames of the operations of Machine/SafetyNet.lean.
-/
namespace Sys2Proof.Machine

open Sys2Proof

set_option linter.all false
set_option Elab.async false

theorem safetyNetLost_get {φ : Fld} (hφ : φ ∉ yieldToFenceF) (p tile : Nat) (s : State)  :
    φ.get (safetyNetLost p tile s) = φ.get s := by
  have h0 := @record_get φ (Fld.mono hφ rfl)
  have h1 := @startFence_get φ (hφ)
  unfold safetyNetLost
  with_reducible
    repeat' first
    | rfl | refine (h0 _ _ _).trans ?_ | refine (h1 _ _ _ _ _).trans ?_
    | refine get_ite_of (fun _ => ?_) (fun _ => ?_) | split | dsimp only

/-- Fields that replayFill may change. -/
def replayFillF : List Fld :=
  logF ++ ([.part, .coreTx, .coreTag] : List Fld)

theorem replayFill_get {φ : Fld} (hφ : φ ∉ replayFillF) (p tile st c : Nat) (s : State)  :
    φ.get (replayFill p tile st c s) = φ.get s := by
  have h0 := @coreSend_get φ (Fld.mono hφ rfl)
  have h1 := @modPart_get φ (Fld.mono hφ rfl)
  have h2 := @record_get φ (Fld.mono hφ rfl)
  have h3 := @setCoreTag_get φ (Fld.mono hφ rfl)
  unfold replayFill
  with_reducible
    repeat' first
    | rfl | refine (h0 _ _ _ _).trans ?_ | refine (h1 _ _ _).trans ?_ | refine (h2 _ _ _).trans ?_
    | refine (h3 _ _).trans ?_ | refine get_ite_of (fun _ => ?_) (fun _ => ?_) | split | dsimp only

/-- Fields that residentFill may change. -/
def residentFillF : List Fld :=
  logF ++ ([.slot, .journalSeq, .journal, .health, .unflushed, .deepPassed, .marginPrev, .sparesLow, .sen, .hub,
    .part, .xlat0, .xlat1, .routes0, .routes1, .screens, .screenReqs, .stop, .gcount, .coreTx, .coreTag] : List Fld)

theorem residentFill_get {φ : Fld} (hφ : φ ∉ residentFillF) (p : Nat) (w : Swap) (src : Nat) (s : State)  :
    φ.get (residentFill p w src s) = φ.get s := by
  have h0 := @modSwap_get φ (Fld.mono hφ rfl)
  have h1 := @replayFill_get φ (Fld.mono hφ rfl)
  have h2 := @safetyNetLost_get φ (Fld.mono hφ rfl)
  unfold residentFill
  with_reducible
    repeat' first
    | rfl | refine (h0 _ _ _ _).trans ?_ | refine (h1 _ _ _ _ _).trans ?_ | refine (h2 _ _ _).trans ?_
    | refine get_ite_of (fun _ => ?_) (fun _ => ?_) | split | dsimp only

theorem mirrorFill_get {φ : Fld} (hφ : φ ∉ [.part]) (p : Nat) (w : Swap) (src : Nat) (s : State)  :
    φ.get (mirrorFill p w src s) = φ.get s := by
  have h0 := @modSwap_get φ (hφ)
  unfold mirrorFill
  with_reducible
    repeat' first
    | rfl | refine (h0 _ _ _ _).trans ?_ | refine get_ite_of (fun _ => ?_) (fun _ => ?_) | split | dsimp only

theorem tryFills_get {φ : Fld} (hφ : φ ∉ residentFillF) (p : Nat) (s : State)  :
    φ.get (tryFills p s) = φ.get s := by
  have h0 := @mirrorFill_get φ (Fld.mono hφ rfl)
  have h1 := @modPart_get φ (Fld.mono hφ rfl)
  have h2 := @modSwap_get φ (Fld.mono hφ rfl)
  have h3 := @pruneCopies_get φ (Fld.mono hφ rfl)
  have h4 := @residentFill_get φ (hφ)
  unfold tryFills
  with_reducible
    repeat' first
    | rfl | refine (h0 _ _ _ _).trans ?_ | refine (h1 _ _ _).trans ?_ | refine (h2 _ _ _ _).trans ?_
    | refine (h3 _ _).trans ?_ | refine (h4 _ _ _ _).trans ?_ | refine (each_get _ _ (fun _ _ => ?_) _).trans ?_
    | refine get_ite_of (fun _ => ?_) (fun _ => ?_) | split | dsimp only

theorem lostWithoutSpare_get {φ : Fld} (hφ : φ ∉ yieldToFenceF) (p : Nat) (s : State)  :
    φ.get (lostWithoutSpare p s) = φ.get s := by
  have h0 := @degrade_get φ (Fld.mono hφ rfl)
  have h1 := @startFence_get φ (hφ)
  unfold lostWithoutSpare
  with_reducible
    repeat' first
    | rfl | refine (h0 _ _ _ _).trans ?_ | refine (h1 _ _ _ _ _).trans ?_
    | refine get_ite_of (fun _ => ?_) (fun _ => ?_) | split | dsimp only

theorem checkBoundary_get {φ : Fld} (hφ : φ ∉ yieldToFenceF) (p : Nat) (s : State)  :
    φ.get (checkBoundary p s) = φ.get s := by
  have h0 := @lostWithoutSpare_get φ (hφ)
  have h1 := @modPart_get φ (Fld.mono hφ rfl)
  have h2 := @openNext_get φ (Fld.mono hφ rfl)
  unfold checkBoundary
  with_reducible
    repeat' first
    | rfl | refine (h0 _ _).trans ?_ | refine (h1 _ _ _).trans ?_ | refine (h2 _ _).trans ?_
    | refine get_ite_of (fun _ => ?_) (fun _ => ?_) | split | dsimp only

theorem retrySwaps_get {φ : Fld} (hφ : φ ∉ [.part]) (p : Nat) (s : State)  :
    φ.get (retrySwaps p s) = φ.get s := by
  have h0 := @addSwap_get φ (hφ)
  unfold retrySwaps
  with_reducible
    repeat' first
    | rfl | refine (h0 _ _ _ _ _ _).trans ?_ | refine (each_get _ _ (fun _ _ => ?_) _).trans ?_
    | refine get_ite_of (fun _ => ?_) (fun _ => ?_) | split | dsimp only

theorem startBoundary_get {φ : Fld} (hφ : φ ∉ residentFillF) (p : Nat) (s : State)  :
    φ.get (startBoundary p s) = φ.get s := by
  have h0 := @checkBoundary_get φ (Fld.mono hφ rfl)
  have h1 := @modPart_get φ (Fld.mono hφ rfl)
  have h2 := @prepareSwap_get φ (Fld.mono hφ rfl)
  have h3 := @retrySwaps_get φ (Fld.mono hφ rfl)
  have h4 := @tryFills_get φ (hφ)
  unfold startBoundary
  with_reducible
    repeat' first
    | rfl | refine (h0 _ _).trans ?_ | refine (h1 _ _ _).trans ?_ | refine (h2 _ _ _ _).trans ?_
    | refine (h3 _ _).trans ?_ | refine (h4 _ _).trans ?_ | refine (each_get _ _ (fun _ _ => ?_) _).trans ?_
    | refine get_ite_of (fun _ => ?_) (fun _ => ?_) | split | dsimp only

theorem resumeBoundary_get {φ : Fld} (hφ : φ ∉ residentFillF) (p : Nat) (s : State)  :
    φ.get (resumeBoundary p s) = φ.get s := by
  have h0 := @checkBoundary_get φ (Fld.mono hφ rfl)
  have h1 := @tryFills_get φ (hφ)
  unfold resumeBoundary
  with_reducible
    repeat' first
    | rfl | refine (h0 _ _).trans ?_ | refine (h1 _ _).trans ?_ | refine get_ite_of (fun _ => ?_) (fun _ => ?_)
    | split | dsimp only

theorem resumeBoundaries_get {φ : Fld} (hφ : φ ∉ residentFillF) (s : State)  :
    φ.get (resumeBoundaries s) = φ.get s := by
  have h0 := @resumeBoundary_get φ (hφ)
  unfold resumeBoundaries
  with_reducible
    repeat' first
    | rfl | refine (h0 _ _).trans ?_ | refine (each_get _ _ (fun _ _ => ?_) _).trans ?_
    | refine get_ite_of (fun _ => ?_) (fun _ => ?_) | split | dsimp only

theorem execTakeoverFillComplete_kept {φ : Fld} (hφ : φ ∉ residentFillF) (tile : Nat) (resFailed mirFailed : Bool) (s : State)  :
    Kept φ (execTakeoverFillComplete tile resFailed mirFailed s) s := by
  have h0 := @mirrorFill_get φ (Fld.mono hφ rfl)
  have h1 := @modSwap_get φ (Fld.mono hφ rfl)
  have h2 := @residentFill_get φ (hφ)
  have h3 := @resumeBoundary_get φ (hφ)
  unfold execTakeoverFillComplete
  with_reducible
    repeat' first
    | rfl | refine (h0 _ _ _ _).trans ?_ | refine (h1 _ _ _ _).trans ?_ | refine (h2 _ _ _ _).trans ?_
    | refine (h3 _ _).trans ?_ | refine kept_next.2 ?_ | refine kept_ite (fun _ => ?_) (fun _ => ?_)
    | refine get_ite_of (fun _ => ?_) (fun _ => ?_) | split | dsimp only

/-- Fields that execReplayDone may change. -/
def replayDoneF : List Fld :=
  logF ++ ([.slot, .journalSeq, .journal, .health, .unflushed, .deepPassed, .marginPrev, .sparesLow, .sen, .hub,
    .part, .xlat0, .xlat1, .routes0, .routes1, .screens, .screenReqs, .stop, .gcount, .coreTx, .coreNaks] : List Fld)

theorem execReplayDone_kept {φ : Fld} (hφ : φ ∉ replayDoneF) (partition result tile _lastStep length tag : Nat) (s : State)  :
    Kept φ (execReplayDone partition result tile _lastStep length tag s) s := by
  have h0 := @checkBoundary_get φ (Fld.mono hφ rfl)
  have h1 := @coreNak_get φ (Fld.mono hφ rfl)
  have h2 := @modPart_get φ (Fld.mono hφ rfl)
  have h3 := @safetyNetLost_get φ (Fld.mono hφ rfl)
  unfold execReplayDone
  with_reducible
    repeat' first
    | rfl | refine (h0 _ _).trans ?_ | refine (h1 _ _ _).trans ?_ | refine (h2 _ _ _).trans ?_
    | refine (h3 _ _ _).trans ?_ | refine kept_next.2 ?_ | refine kept_ite (fun _ => ?_) (fun _ => ?_)
    | refine get_ite_of (fun _ => ?_) (fun _ => ?_) | split | dsimp only

theorem execReplayDoneTimeout_kept {φ : Fld} (hφ : φ ∉ yieldToFenceF) (partition tile : Nat) (s : State)  :
    Kept φ (execReplayDoneTimeout partition tile s) s := by
  have h0 := @safetyNetLost_get φ (hφ)
  unfold execReplayDoneTimeout
  with_reducible
    repeat' first
    | rfl | refine (h0 _ _ _).trans ?_ | refine kept_next.2 ?_ | refine kept_ite (fun _ => ?_) (fun _ => ?_)
    | refine get_ite_of (fun _ => ?_) (fun _ => ?_) | split | dsimp only

/-- Fields that execAlarmLevel may change. -/
def alarmLevelF : List Fld :=
  logF ++ ([.slot, .journalSeq, .journal, .health, .unflushed, .deepPassed, .marginPrev, .sparesLow, .sen, .hub,
    .part, .xlat0, .xlat1, .routes0, .routes1, .screens, .screenReqs, .throttle, .stop, .gcount, .coreTx,
    .coreTag] : List Fld)

theorem execAlarmLevel_kept {φ : Fld} (hφ : φ ∉ alarmLevelF) (unit code : Nat) (raised : Bool) (edge : Edge) (s : State)  :
    Kept φ (execAlarmLevel unit code raised edge s) s := by
  have h0 := @modHub_get φ (Fld.mono hφ rfl)
  have h1 := @modThrottle_get φ (Fld.mono hφ rfl)
  have h2 := @raiseAlert_get φ (Fld.mono hφ rfl)
  have h3 := @raiseFatal_get φ (Fld.mono hφ rfl)
  have h4 := @resumeBoundaries_get φ (Fld.mono hφ rfl)
  have h5 := @sentinelAlarm_get φ (Fld.mono hφ rfl)
  unfold execAlarmLevel
  with_reducible
    repeat' first
    | rfl | refine (h0 _ _ _).trans ?_ | refine (h1 _ _).trans ?_ | refine (h2 _ _).trans ?_
    | refine (h3 _ _).trans ?_ | refine (h4 _).trans ?_ | refine (h5 _ _ _ _ _).trans ?_
    | refine arrive_kept (Fld.mono hφ rfl) _ _ _ (fun _ => ?_) | refine kept_next.2 ?_
    | refine kept_ite (fun _ => ?_) (fun _ => ?_) | refine get_ite_of (fun _ => ?_) (fun _ => ?_) | split | dsimp only

end Sys2Proof.Machine
end

