-- ==== Sys2Proof/Laws/FrameStepVerdict.lean ====
section
/-!
SUPPORT. Frames of the operations of Machine/StepVerdict.lean.
-/
namespace Sys2Proof.Machine

open Sys2Proof

set_option linter.all false
set_option Elab.async false

theorem answerBoundary_get {φ : Fld} (hφ : φ ∉ acceptF) (p step : Nat) (s : State)  :
    φ.get (answerBoundary p step s) = φ.get s := by
  have h0 := @completeAll_get φ (Fld.mono hφ rfl)
  have h1 := @modPart_get φ (Fld.mono hφ rfl)
  unfold answerBoundary
  with_reducible
    repeat' first
    | rfl | refine (h0 _ _ _ _).trans ?_ | refine (h1 _ _ _).trans ?_ | refine get_ite_of (fun _ => ?_) (fun _ => ?_)
    | split | dsimp only

theorem endBoundary_get {φ : Fld} (hφ : φ ∉ endReplaysF) (p step flags : Nat) (s : State)  :
    φ.get (endBoundary p step flags s) = φ.get s := by
  have h0 := @answerBoundary_get φ (Fld.mono hφ rfl)
  have h1 := @finishLoad_get φ (hφ)
  unfold endBoundary
  with_reducible
    repeat' first
    | rfl | refine (h0 _ _ _).trans ?_ | refine (h1 _ _).trans ?_ | refine get_ite_of (fun _ => ?_) (fun _ => ?_)
    | split | dsimp only

/-- Fields that execStepBoundary may change. -/
def stepBoundaryF : List Fld :=
  logF ++ ([.sen, .hub, .part, .answers] : List Fld)

theorem execStepBoundary_kept {φ : Fld} (hφ : φ ∉ stepBoundaryF) (hub partition step : Nat) (sk : Dword) (flags : Nat) (s : State)  :
    Kept φ (execStepBoundary hub partition step sk flags s) s := by
  have h0 := @endBoundary_get φ (Fld.mono hφ rfl)
  have h1 := @loadSample_get φ (Fld.mono hφ rfl)
  have h2 := @modHub_get φ (Fld.mono hφ rfl)
  have h3 := @modSen_get φ (Fld.mono hφ rfl)
  have h4 := @respond_get φ (Fld.mono hφ rfl)
  have h5 := @switchHub_get φ (Fld.mono hφ rfl)
  unfold execStepBoundary
  with_reducible
    repeat' first
    | rfl | refine (h0 _ _ _ _).trans ?_ | refine (h1 _ _).trans ?_ | refine (h2 _ _ _).trans ?_
    | refine (h3 _ _ _).trans ?_ | refine (h4 _ _ _ _ _).trans ?_ | refine (h5 _ _ _).trans ?_
    | refine (each_get _ _ (fun _ _ => ?_) _).trans ?_ | refine arrive_kept (Fld.mono hφ rfl) _ _ _ (fun _ => ?_)
    | refine kept_next.2 ?_ | refine kept_ite (fun _ => ?_) (fun _ => ?_)
    | refine get_ite_of (fun _ => ?_) (fun _ => ?_) | split | dsimp only

theorem execStepLastComplete_kept {φ : Fld} (hφ : φ ∉ takeSnapshotF) (site : Nat) (s : State)  :
    Kept φ (execStepLastComplete site s) s := by
  have h0 := @modPart_get φ (Fld.mono hφ rfl)
  have h1 := @modSen_get φ (Fld.mono hφ rfl)
  have h2 := @replayEnded_get φ (Fld.mono hφ rfl)
  unfold execStepLastComplete
  with_reducible
    repeat' first
    | rfl | refine (h0 _ _ _).trans ?_ | refine (h1 _ _ _).trans ?_ | refine (h2 _ _ _).trans ?_
    | refine (foldl_get _ _ (fun _ _ => ?_) _).trans ?_ | refine (foldl_fst_get _ _ (fun _ _ => ?_) _).trans ?_
    | refine (foldl_snd_get _ _ (fun _ _ => ?_) _).trans ?_ | refine kept_next.2 ?_
    | refine kept_ite (fun _ => ?_) (fun _ => ?_) | refine get_ite_of (fun _ => ?_) (fun _ => ?_) | split | dsimp only

theorem execLedger_kept {φ : Fld} (hφ : φ ∉ [.sent, .hub]) (site : Nat) (entry : LedgerEntry) (s : State)  :
    Kept φ (execLedger site entry s) s := by
  have h0 := @modHub_get φ (Fld.mono hφ rfl)
  unfold execLedger
  with_reducible
    repeat' first
    | rfl | refine (h0 _ _ _).trans ?_ | refine arrive_kept (Fld.mono hφ rfl) _ _ _ (fun _ => ?_)
    | refine kept_next.2 ?_ | refine kept_ite (fun _ => ?_) (fun _ => ?_)
    | refine get_ite_of (fun _ => ?_) (fun _ => ?_) | split | dsimp only

theorem stepEndEvents_get {φ : Fld} (hφ : φ ∉ [.sent]) (h step : Nat) (c : Collect) (s : State)  :
    φ.get (stepEndEvents h step c s) = φ.get s := by
  have h0 := @hubEvent_get φ (hφ)
  unfold stepEndEvents
  with_reducible
    repeat' first
    | rfl | refine (h0 _ _ _ _).trans ?_ | refine get_ite_of (fun _ => ?_) (fun _ => ?_) | split | dsimp only

theorem sendContribution_get {φ : Fld} (hφ : φ ∉ [.sent, .hub]) (h p : Nat) (s : State)  :
    φ.get (sendContribution h p s) = φ.get s := by
  have h0 := @modHub_get φ (Fld.mono hφ rfl)
  have h1 := @send_get φ (Fld.mono hφ rfl)
  have h2 := @stepEndEvents_get φ (Fld.mono hφ rfl)
  unfold sendContribution
  with_reducible
    repeat' first
    | rfl | refine (h0 _ _ _).trans ?_ | refine (h1 _ _).trans ?_ | refine (h2 _ _ _ _).trans ?_
    | refine get_ite_of (fun _ => ?_) (fun _ => ?_) | split | dsimp only

theorem checkContribution_get {φ : Fld} (hφ : φ ∉ [.sent, .hub]) (h p : Nat) (s : State)  :
    φ.get (checkContribution h p s) = φ.get s := by
  have h0 := @sendContribution_get φ (hφ)
  unfold checkContribution
  with_reducible
    repeat' first
    | rfl | refine (h0 _ _ _).trans ?_ | refine get_ite_of (fun _ => ?_) (fun _ => ?_) | split | dsimp only

theorem execStepDone_kept {φ : Fld} (hφ : φ ∉ [.sent, .hub]) (site : Nat) (item : StepDoneItem) (s : State)  :
    Kept φ (execStepDone site item s) s := by
  have h0 := @checkContribution_get φ (hφ)
  have h1 := @countHub_get φ (Fld.mono hφ rfl)
  have h2 := @modHub_get φ (Fld.mono hφ rfl)
  have h3 := @noteLineage_get φ (hφ)
  unfold execStepDone
  with_reducible
    repeat' first
    | rfl | refine (h0 _ _ _).trans ?_ | refine (h1 _ _ _ _).trans ?_ | refine (h2 _ _ _).trans ?_
    | refine (h3 _ _ _).trans ?_ | refine (each_get _ _ (fun _ _ => ?_) _).trans ?_
    | refine arrive_kept (Fld.mono hφ rfl) _ _ _ (fun _ => ?_) | refine kept_next.2 ?_
    | refine kept_ite (fun _ => ?_) (fun _ => ?_) | refine get_ite_of (fun _ => ?_) (fun _ => ?_) | split | dsimp only

theorem execStepDoneWaitExpiry_kept {φ : Fld} (hφ : φ ∉ [.sent, .hub]) (hub partition : Nat) (s : State)  :
    Kept φ (execStepDoneWaitExpiry hub partition s) s := by
  have h0 := @modHub_get φ (Fld.mono hφ rfl)
  have h1 := @sendAll_get φ (Fld.mono hφ rfl)
  unfold execStepDoneWaitExpiry
  with_reducible
    repeat' first
    | rfl | refine (h0 _ _ _).trans ?_ | refine (h1 _ _).trans ?_ | refine kept_next.2 ?_
    | refine kept_ite (fun _ => ?_) (fun _ => ?_) | refine get_ite_of (fun _ => ?_) (fun _ => ?_) | split | dsimp only

theorem giveUpDone_get {φ : Fld} (hφ : φ ∉ residentFillF) (site : Nat) (loss : Bool) (s : State)  :
    φ.get (giveUpDone site loss s) = φ.get s := by
  have h0 := @checkContribution_get φ (Fld.mono hφ rfl)
  have h1 := @loseSentinel_get φ (Fld.mono hφ rfl)
  have h2 := @modHub_get φ (Fld.mono hφ rfl)
  have h3 := @resumeBoundaries_get φ (hφ)
  unfold giveUpDone
  with_reducible
    repeat' first
    | rfl | refine (h0 _ _ _).trans ?_ | refine (h1 _ _).trans ?_ | refine (h2 _ _ _).trans ?_
    | refine (h3 _).trans ?_ | refine get_ite_of (fun _ => ?_) (fun _ => ?_) | split | dsimp only

theorem readAnswered_get {φ : Fld} (hφ : φ ∉ residentFillF) (unit offset count : Nat) (s : State)  :
    φ.get (readAnswered unit offset count s) = φ.get s := by
  have h0 := @giveUpDone_get φ (hφ)
  unfold readAnswered
  with_reducible
    repeat' first
    | rfl | refine (h0 _ _ _).trans ?_ | refine get_ite_of (fun _ => ?_) (fun _ => ?_) | split | dsimp only

/-- Fields that execRead may change. -/
def readF : List Fld :=
  logF ++ ([.slot, .journalSeq, .journal, .health, .unflushed, .deepPassed, .marginPrev, .sparesLow, .sen, .hub,
    .part, .xlat0, .xlat1, .routes0, .routes1, .screens, .screenReqs, .stop, .gcount, .coreTx, .coreTag,
    .answers] : List Fld)

theorem execRead_kept {φ : Fld} (hφ : φ ∉ readF) (unit offset count tag : Nat) (s : State)  :
    Kept φ (execRead unit offset count tag s) s := by
  have h0 := @hubRead_get φ (Fld.mono hφ rfl)
  have h1 := @readAnswered_get φ (Fld.mono hφ rfl)
  have h2 := @senRead_get φ (Fld.mono hφ rfl)
  have h3 := @waitUnit_get φ (Fld.mono hφ rfl)
  have h4 := @waitWake_get φ (Fld.mono hφ rfl)
  unfold execRead
  with_reducible
    repeat' first
    | rfl | refine (h0 _ _ _ _ _).trans ?_ | refine (h1 _ _ _ _).trans ?_ | refine (h2 _ _ _ _ _).trans ?_
    | refine (h3 _ _ _ _).trans ?_ | refine (h4 _ _ _).trans ?_
    | refine arrive_kept (Fld.mono hφ rfl) _ _ _ (fun _ => ?_) | refine kept_next.2 ?_
    | refine kept_ite (fun _ => ?_) (fun _ => ?_) | refine get_ite_of (fun _ => ?_) (fun _ => ?_) | split | dsimp only

theorem execSentinelReadTimeout_kept {φ : Fld} (hφ : φ ∉ residentFillF) (site : Nat) (s : State)  :
    Kept φ (execSentinelReadTimeout site s) s := by
  have h0 := @giveUpDone_get φ (hφ)
  unfold execSentinelReadTimeout
  with_reducible
    repeat' first
    | rfl | refine (h0 _ _ _).trans ?_ | refine kept_next.2 ?_ | refine kept_ite (fun _ => ?_) (fun _ => ?_)
    | refine get_ite_of (fun _ => ?_) (fun _ => ?_) | split | dsimp only

theorem ledgerEvent_get {φ : Fld} (hφ : φ ∉ [.sent]) (root step : Nat) (e : LedgerEntry) (s : State)  :
    φ.get (ledgerEvent root step e s) = φ.get s := by
  have h0 := @hubEvent_get φ (hφ)
  unfold ledgerEvent
  with_reducible
    repeat' first
    | rfl | refine (h0 _ _ _ _).trans ?_ | refine get_ite_of (fun _ => ?_) (fun _ => ?_) | split | dsimp only

theorem issueToken_get {φ : Fld} (hφ : φ ∉ [.sent, .hub, .part]) (p : Nat) (s : State)  :
    φ.get (issueToken p s) = φ.get s := by
  have h0 := @countHub_get φ (Fld.mono hφ rfl)
  have h1 := @ledgerEvent_get φ (Fld.mono hφ rfl)
  have h2 := @modPart_get φ (Fld.mono hφ rfl)
  have h3 := @send_get φ (Fld.mono hφ rfl)
  unfold issueToken
  with_reducible
    repeat' first
    | rfl | refine (h0 _ _ _ _).trans ?_ | refine (h1 _ _ _ _).trans ?_ | refine (h2 _ _ _).trans ?_
    | refine (h3 _ _).trans ?_ | refine (each_get _ _ (fun _ _ => ?_) _).trans ?_
    | refine get_ite_of (fun _ => ?_) (fun _ => ?_) | split | dsimp only

theorem formToken_get {φ : Fld} (hφ : φ ∉ [.sent, .hub, .part]) (p : Nat) (s : State)  :
    φ.get (formToken p s) = φ.get s := by
  have h0 := @issueToken_get φ (hφ)
  unfold formToken
  with_reducible
    repeat' first
    | rfl | refine (h0 _ _).trans ?_ | refine get_ite_of (fun _ => ?_) (fun _ => ?_) | split | dsimp only

theorem execContribution_kept {φ : Fld} (hφ : φ ∉ [.sent, .hub, .part]) (hub partition step : Nat) (failed : Word) (groups : List LedgerEntry) (s : State)  :
    Kept φ (execContribution hub partition step failed groups s) s := by
  have h0 := @formToken_get φ (hφ)
  have h1 := @modPart_get φ (Fld.mono hφ rfl)
  unfold execContribution
  with_reducible
    repeat' first
    | rfl | refine (h0 _ _).trans ?_ | refine (h1 _ _ _).trans ?_ | refine (foldl_get _ _ (fun _ _ => ?_) _).trans ?_
    | refine (foldl_fst_get _ _ (fun _ _ => ?_) _).trans ?_ | refine (foldl_snd_get _ _ (fun _ _ => ?_) _).trans ?_
    | refine arrive_kept (Fld.mono hφ rfl) _ _ _ (fun _ => ?_) | refine kept_next.2 ?_
    | refine kept_ite (fun _ => ?_) (fun _ => ?_) | refine get_ite_of (fun _ => ?_) (fun _ => ?_) | split | dsimp only

theorem execSealVerdict_kept {φ : Fld} (hφ : φ ∉ outcomeLineageF) (unit partition lineage test step seq : Nat) (info : SealInfo) (s : State)  :
    Kept φ (execSealVerdict unit partition lineage test step seq info s) s := by
  have h0 := @failItem_get φ (Fld.mono hφ rfl)
  have h1 := @lateDetection_get φ (Fld.mono hφ rfl)
  have h2 := @modPart_get φ (Fld.mono hφ rfl)
  unfold execSealVerdict
  with_reducible
    repeat' first
    | rfl | refine (h0 _ _ _).trans ?_ | refine (h1 _ _ _ _ _ _ _).trans ?_ | refine (h2 _ _ _).trans ?_
    | refine arrive_kept (Fld.mono hφ rfl) _ _ _ (fun _ => ?_) | refine kept_next.2 ?_
    | refine kept_ite (fun _ => ?_) (fun _ => ?_) | refine get_ite_of (fun _ => ?_) (fun _ => ?_) | split | dsimp only

theorem checkRelease_get {φ : Fld} (hφ : φ ∉ [.sent, .part]) (p : Nat) (s : State)  :
    φ.get (checkRelease p s) = φ.get s := by
  have h0 := @modPart_get φ (Fld.mono hφ rfl)
  have h1 := @send_get φ (Fld.mono hφ rfl)
  unfold checkRelease
  with_reducible
    repeat' first
    | rfl | refine (h0 _ _ _).trans ?_ | refine (h1 _ _).trans ?_ | refine get_ite_of (fun _ => ?_) (fun _ => ?_)
    | split | dsimp only

theorem judgeEntry_get {φ : Fld} (hφ : φ ∉ acceptF) (p n : Nat) (t : Trailer) (s : State)  :
    φ.get (judgeEntry p n t s) = φ.get s := by
  have h0 := @modPart_get φ (Fld.mono hφ rfl)
  have h1 := @record_get φ (Fld.mono hφ rfl)
  unfold judgeEntry
  with_reducible
    repeat' first
    | rfl | refine (h0 _ _ _).trans ?_ | refine (h1 _ _ _).trans ?_ | refine get_ite_of (fun _ => ?_) (fun _ => ?_)
    | split | dsimp only

theorem judgeTrailer_get {φ : Fld} (hφ : φ ∉ acceptF) (p : Nat) (t : Trailer) (s : State)  :
    φ.get (judgeTrailer p t s) = φ.get s := by
  have h0 := @checkRelease_get φ (Fld.mono hφ rfl)
  have h1 := @judgeEntry_get φ (hφ)
  have h2 := @modPart_get φ (Fld.mono hφ rfl)
  unfold judgeTrailer
  with_reducible
    repeat' first
    | rfl | refine (h0 _ _).trans ?_ | refine (h1 _ _ _ _).trans ?_ | refine (h2 _ _ _).trans ?_
    | refine (each_get _ _ (fun _ _ => ?_) _).trans ?_ | refine get_ite_of (fun _ => ?_) (fun _ => ?_) | split
    | dsimp only

theorem execTrailerReceived_kept {φ : Fld} (hφ : φ ∉ acceptF) (partition port : Nat) (block : Block) (s : State)  :
    Kept φ (execTrailerReceived partition port block s) s := by
  have h0 := @judgeTrailer_get φ (hφ)
  have h1 := @modPart_get φ (Fld.mono hφ rfl)
  unfold execTrailerReceived
  with_reducible
    repeat' first
    | rfl | refine (h0 _ _ _).trans ?_ | refine (h1 _ _ _).trans ?_ | refine kept_next.2 ?_
    | refine kept_ite (fun _ => ?_) (fun _ => ?_) | refine get_ite_of (fun _ => ?_) (fun _ => ?_) | split | dsimp only

theorem execPeerTimeout_kept {φ : Fld} (hφ : φ ∉ acceptF) (partition entry : Nat) (s : State)  :
    Kept φ (execPeerTimeout partition entry s) s := by
  have h0 := @checkRelease_get φ (Fld.mono hφ rfl)
  have h1 := @modPart_get φ (Fld.mono hφ rfl)
  have h2 := @record_get φ (Fld.mono hφ rfl)
  unfold execPeerTimeout
  with_reducible
    repeat' first
    | rfl | refine (h0 _ _).trans ?_ | refine (h1 _ _ _).trans ?_ | refine (h2 _ _ _).trans ?_ | refine kept_next.2 ?_
    | refine kept_ite (fun _ => ?_) (fun _ => ?_) | refine get_ite_of (fun _ => ?_) (fun _ => ?_) | split | dsimp only

theorem execPeerRelease_kept {φ : Fld} (hφ : φ ∉ [.sent, .hub, .part]) (partition : Nat) (s : State)  :
    Kept φ (execPeerRelease partition s) s := by
  have h0 := @modPart_get φ (Fld.mono hφ rfl)
  have h1 := @tryCommit_get φ (Fld.mono hφ rfl)
  unfold execPeerRelease
  with_reducible
    repeat' first
    | rfl | refine (h0 _ _ _).trans ?_ | refine (h1 _ _).trans ?_
    | refine arrive_kept (Fld.mono hφ rfl) _ _ _ (fun _ => ?_) | refine kept_next.2 ?_
    | refine kept_ite (fun _ => ?_) (fun _ => ?_) | refine get_ite_of (fun _ => ?_) (fun _ => ?_) | split | dsimp only

theorem endWatches_get {φ : Fld} (hφ : φ ∉ blockProducedF) (p step : Nat) (s : State)  :
    φ.get (endWatches p step s) = φ.get s := by
  have h0 := @hubEvent_get φ (Fld.mono hφ rfl)
  have h1 := @modHub_get φ (Fld.mono hφ rfl)
  have h2 := @modPart_get φ (Fld.mono hφ rfl)
  have h3 := @modSen_get φ (Fld.mono hφ rfl)
  unfold endWatches
  with_reducible
    repeat' first
    | rfl | refine (h0 _ _ _ _).trans ?_ | refine (h1 _ _ _).trans ?_ | refine (h2 _ _ _).trans ?_
    | refine (h3 _ _ _).trans ?_ | refine (each_get _ _ (fun _ _ => ?_) _).trans ?_
    | refine (foldl_get _ _ (fun _ _ => ?_) _).trans ?_ | refine (foldl_fst_get _ _ (fun _ _ => ?_) _).trans ?_
    | refine (foldl_snd_get _ _ (fun _ _ => ?_) _).trans ?_ | refine get_ite_of (fun _ => ?_) (fun _ => ?_) | split
    | dsimp only

theorem takeToken_get {φ : Fld} (hφ : φ ∉ acceptF) (p : Nat) (s : State)  :
    φ.get (takeToken p s) = φ.get s := by
  have h0 := @judgeTrailer_get φ (hφ)
  have h1 := @modPart_get φ (Fld.mono hφ rfl)
  unfold takeToken
  with_reducible
    repeat' first
    | rfl | refine (h0 _ _ _).trans ?_ | refine (h1 _ _ _).trans ?_ | refine (each_get _ _ (fun _ _ => ?_) _).trans ?_
    | refine get_ite_of (fun _ => ?_) (fun _ => ?_) | split | dsimp only

theorem execStepToken_kept {φ : Fld} (hφ : φ ∉ residentFillF) (partition : Nat) (s : State)  :
    Kept φ (execStepToken partition s) s := by
  have h0 := @endWatches_get φ (Fld.mono hφ rfl)
  have h1 := @modPart_get φ (Fld.mono hφ rfl)
  have h2 := @modSen_get φ (Fld.mono hφ rfl)
  have h3 := @startBoundary_get φ (hφ)
  have h4 := @takeToken_get φ (Fld.mono hφ rfl)
  unfold execStepToken
  with_reducible
    repeat' first
    | rfl | refine (h0 _ _ _).trans ?_ | refine (h1 _ _ _).trans ?_ | refine (h2 _ _ _).trans ?_
    | refine (h3 _ _).trans ?_ | refine (h4 _ _).trans ?_ | refine (each_get _ _ (fun _ _ => ?_) _).trans ?_
    | refine arrive_kept (Fld.mono hφ rfl) _ _ _ (fun _ => ?_) | refine kept_next.2 ?_
    | refine kept_ite (fun _ => ?_) (fun _ => ?_) | refine get_ite_of (fun _ => ?_) (fun _ => ?_) | split | dsimp only

theorem dropContributor_get {φ : Fld} (hφ : φ ∉ [.part]) (p step mask : Nat) (s : State)  :
    φ.get (dropContributor p step mask s) = φ.get s := by
  have h0 := @modPart_get φ (hφ)
  unfold dropContributor
  with_reducible
    repeat' first
    | rfl | refine (h0 _ _ _).trans ?_ | refine get_ite_of (fun _ => ?_) (fun _ => ?_) | split | dsimp only

theorem execReductionInputBlock_kept {φ : Fld} (hφ : φ ∉ [.sent, .hub, .part]) (t : Transfer) (s : State)  :
    Kept φ (execReductionInputBlock t s) s := by
  have h0 := @dropContributor_get φ (Fld.mono hφ rfl)
  have h1 := @exitEvent_get φ (Fld.mono hφ rfl)
  have h2 := @hubEvent_get φ (Fld.mono hφ rfl)
  have h3 := @modPart_get φ (Fld.mono hφ rfl)
  unfold execReductionInputBlock
  with_reducible
    repeat' first
    | rfl | refine (h0 _ _ _ _).trans ?_ | refine (h1 _ _ _ _ _).trans ?_ | refine (h2 _ _ _ _).trans ?_
    | refine (h3 _ _ _).trans ?_ | refine kept_next.2 ?_ | refine kept_ite (fun _ => ?_) (fun _ => ?_)
    | refine get_ite_of (fun _ => ?_) (fun _ => ?_) | split | dsimp only

theorem execReductionCompareMismatch_kept {φ : Fld} (hφ : φ ∉ [.part]) (partition : Nat) (s : State)  :
    Kept φ (execReductionCompareMismatch partition s) s := by
  have h0 := @modPart_get φ (hφ)
  unfold execReductionCompareMismatch
  with_reducible
    repeat' first
    | rfl | refine (h0 _ _ _).trans ?_ | refine kept_next.2 ?_ | refine kept_ite (fun _ => ?_) (fun _ => ?_)
    | refine get_ite_of (fun _ => ?_) (fun _ => ?_) | split | dsimp only

theorem sendTrailers_get {φ : Fld} (hφ : φ ∉ [.part]) (p : Nat) (t : Token) (status kept : Nat) (blocks : List (Nat × Nat)) (s : State)  :
    φ.get (sendTrailers p t status kept blocks s) = φ.get s := by
  have h0 := @modPart_get φ (hφ)
  unfold sendTrailers
  with_reducible
    repeat' first
    | rfl | refine (h0 _ _ _).trans ?_ | refine get_ite_of (fun _ => ?_) (fun _ => ?_) | split | dsimp only

theorem execFinalKept_kept {φ : Fld} (hφ : φ ∉ abortStepsF) (partition step : Nat) (kept : Word) (restarted failed : Bool) (blocks : List (Nat × Nat)) (s : State)  :
    Kept φ (execFinalKept partition step kept restarted failed blocks s) s := by
  have h0 := @modPart_get φ (Fld.mono hφ rfl)
  have h1 := @putStepRec_get φ (Fld.mono hφ rfl)
  have h2 := @sendTrailers_get φ (Fld.mono hφ rfl)
  have h3 := @tryCommit_get φ (Fld.mono hφ rfl)
  unfold execFinalKept
  with_reducible
    repeat' first
    | rfl | refine (h0 _ _ _).trans ?_ | refine (h1 _ _ _).trans ?_ | refine (h2 _ _ _ _ _ _).trans ?_
    | refine (h3 _ _).trans ?_ | refine arrive_kept (Fld.mono hφ rfl) _ _ _ (fun _ => ?_) | refine kept_next.2 ?_
    | refine kept_ite (fun _ => ?_) (fun _ => ?_) | refine get_ite_of (fun _ => ?_) (fun _ => ?_) | split | dsimp only

end Sys2Proof.Machine
end

