-- ==== Sys2Proof/Laws/FrameCommit.lean ====
section
/-!
SUPPORT. Frames of the operations of Machine/Commit.lean.
-/
namespace Sys2Proof.Machine

open Sys2Proof

set_option linter.all false
set_option Elab.async false

theorem startCopy_get {φ : Fld} (hφ : φ ∉ [.sen, .part]) (p st size tile : Nat) (s : State)  :
    φ.get (startCopy p st size tile s) = φ.get s := by
  have h0 := @modPart_get φ (Fld.mono hφ rfl)
  have h1 := @modSen_get φ (Fld.mono hφ rfl)
  unfold startCopy
  with_reducible
    repeat' first
    | rfl | refine (h0 _ _ _).trans ?_ | refine (h1 _ _ _).trans ?_ | refine get_ite_of (fun _ => ?_) (fun _ => ?_)
    | split | dsimp only

theorem startCopies_get {φ : Fld} (hφ : φ ∉ [.sen, .part]) (p st : Nat) (written : List (Nat × List Nat)) (s : State)  :
    φ.get (startCopies p st written s) = φ.get s := by
  have h0 := @modSen_get φ (Fld.mono hφ rfl)
  have h1 := @startCopy_get φ (hφ)
  unfold startCopies
  with_reducible
    repeat' first
    | rfl | refine (h0 _ _ _).trans ?_ | refine (h1 _ _ _ _ _).trans ?_
    | refine (each_get _ _ (fun _ _ => ?_) _).trans ?_ | refine get_ite_of (fun _ => ?_) (fun _ => ?_) | split
    | dsimp only

theorem putHeader_get {φ : Fld} (hφ : φ ∉ [.dram]) (p slot step state region : Nat) (s : State)  :
    φ.get (putHeader p slot step state region s) = φ.get s := by
  have h0 := @setDram_get φ (hφ)
  unfold putHeader
  with_reducible
    repeat' first
    | rfl | refine (h0 _ _).trans ?_ | refine get_ite_of (fun _ => ?_) (fun _ => ?_) | split | dsimp only

theorem startTier2_get {φ : Fld} (hφ : φ ∉ [.part, .dram]) (p st : Nat) (s : State)  :
    φ.get (startTier2 p st s) = φ.get s := by
  have h0 := @modPart_get φ (Fld.mono hφ rfl)
  have h1 := @putHeader_get φ (Fld.mono hφ rfl)
  unfold startTier2
  with_reducible
    repeat' first
    | rfl | refine (h0 _ _ _).trans ?_ | refine (h1 _ _ _ _ _ _).trans ?_
    | refine (each_get _ _ (fun _ _ => ?_) _).trans ?_ | refine get_ite_of (fun _ => ?_) (fun _ => ?_) | split
    | dsimp only

theorem copyTier2_get {φ : Fld} (hφ : φ ∉ [.dram]) (p slot region : Nat) (s : State)  :
    φ.get (copyTier2 p slot region s) = φ.get s := by
  have h0 := @setDram_get φ (hφ)
  unfold copyTier2
  with_reducible
    repeat' first
    | rfl | refine (h0 _ _).trans ?_ | refine (each_get _ _ (fun _ _ => ?_) _).trans ?_
    | refine get_ite_of (fun _ => ?_) (fun _ => ?_) | split | dsimp only

/-- Fields that execTier2CopyComplete may change. -/
def tier2CopyCompleteF : List Fld :=
  logF ++ ([.part, .dram] : List Fld)

theorem execTier2CopyComplete_kept {φ : Fld} (hφ : φ ∉ tier2CopyCompleteF) (partition region : Nat) (s : State)  :
    Kept φ (execTier2CopyComplete partition region s) s := by
  have h0 := @copyTier2_get φ (Fld.mono hφ rfl)
  have h1 := @modPart_get φ (Fld.mono hφ rfl)
  have h2 := @putHeader_get φ (Fld.mono hφ rfl)
  have h3 := @record_get φ (Fld.mono hφ rfl)
  have h4 := @tryCommit_get φ (Fld.mono hφ rfl)
  unfold execTier2CopyComplete
  with_reducible
    repeat' first
    | rfl | refine (h0 _ _ _ _).trans ?_ | refine (h1 _ _ _).trans ?_ | refine (h2 _ _ _ _ _ _).trans ?_
    | refine (h3 _ _ _).trans ?_ | refine (h4 _ _).trans ?_ | refine kept_next.2 ?_
    | refine kept_ite (fun _ => ?_) (fun _ => ?_) | refine get_ite_of (fun _ => ?_) (fun _ => ?_) | split | dsimp only

/-- Fields that putDigest may change. -/
def putDigestF : List Fld :=
  [.sent, .journalSeq, .journal, .part]

theorem putDigest_get {φ : Fld} (hφ : φ ∉ putDigestF) (p : Nat) (r : DigestRec) (s : State)  :
    φ.get (putDigest p r s) = φ.get s := by
  have h0 := @journalize_get φ (Fld.mono hφ rfl)
  have h1 := @modPart_get φ (Fld.mono hφ rfl)
  unfold putDigest
  with_reducible
    repeat' first
    | rfl | refine (h0 _ _ _ _ _ _ _).trans ?_ | refine (h1 _ _ _).trans ?_
    | refine get_ite_of (fun _ => ?_) (fun _ => ?_) | split | dsimp only

theorem streamDigest_get {φ : Fld} (hφ : φ ∉ [.sent, .hub, .part]) (p step : Nat) (program : List Byte) (s : State)  :
    φ.get (streamDigest p step program s) = φ.get s := by
  have h0 := @modHub_get φ (Fld.mono hφ rfl)
  have h1 := @modPart_get φ (Fld.mono hφ rfl)
  have h2 := @send_get φ (Fld.mono hφ rfl)
  unfold streamDigest
  with_reducible
    repeat' first
    | rfl | refine (h0 _ _ _).trans ?_ | refine (h1 _ _ _).trans ?_ | refine (h2 _ _).trans ?_
    | refine (each_get _ _ (fun _ _ => ?_) _).trans ?_ | refine get_ite_of (fun _ => ?_) (fun _ => ?_) | split
    | dsimp only

/-- Fields that startDigest may change. -/
def startDigestF : List Fld :=
  [.sent, .journalSeq, .journal, .hub, .part]

theorem startDigest_get {φ : Fld} (hφ : φ ∉ startDigestF) (p step : Nat) (s : State)  :
    φ.get (startDigest p step s) = φ.get s := by
  have h0 := @modPart_get φ (Fld.mono hφ rfl)
  have h1 := @putDigest_get φ (Fld.mono hφ rfl)
  have h2 := @streamDigest_get φ (Fld.mono hφ rfl)
  unfold startDigest
  with_reducible
    repeat' first
    | rfl | refine (h0 _ _ _).trans ?_ | refine (h1 _ _ _).trans ?_ | refine (h2 _ _ _ _).trans ?_
    | refine get_ite_of (fun _ => ?_) (fun _ => ?_) | split | dsimp only

theorem execDigestRun_kept {φ : Fld} (hφ : φ ∉ [.sent, .hub, .part]) (hub partition : Nat) (inputs outputs : List Tag) (lost : Nat) (s : State)  :
    Kept φ (execDigestRun hub partition inputs outputs lost s) s := by
  have h0 := @modPart_get φ (Fld.mono hφ rfl)
  unfold execDigestRun
  with_reducible
    repeat' first
    | rfl | refine (h0 _ _ _).trans ?_ | refine arrive_kept (Fld.mono hφ rfl) _ _ _ (fun _ => ?_)
    | refine kept_next.2 ?_ | refine kept_ite (fun _ => ?_) (fun _ => ?_)
    | refine get_ite_of (fun _ => ?_) (fun _ => ?_) | split | dsimp only

theorem execDigestComplete_kept {φ : Fld} (hφ : φ ∉ startDigestF) (partition : Nat) (s : State)  :
    Kept φ (execDigestComplete partition s) s := by
  have h0 := @modPart_get φ (Fld.mono hφ rfl)
  have h1 := @putDigest_get φ (Fld.mono hφ rfl)
  have h2 := @streamDigest_get φ (Fld.mono hφ rfl)
  unfold execDigestComplete
  with_reducible
    repeat' first
    | rfl | refine (h0 _ _ _).trans ?_ | refine (h1 _ _ _).trans ?_ | refine (h2 _ _ _ _).trans ?_
    | refine kept_next.2 ?_ | refine kept_ite (fun _ => ?_) (fun _ => ?_)
    | refine get_ite_of (fun _ => ?_) (fun _ => ?_) | split | dsimp only

theorem sealReduced_get {φ : Fld} (hφ : φ ∉ [.hub, .part]) (p step : Nat) (reduced : List (Desc × List Byte)) (s : State)  :
    φ.get (sealReduced p step reduced s) = φ.get s := by
  have h0 := @digestEntry_get φ (Fld.mono hφ rfl)
  have h1 := @modPart_get φ (Fld.mono hφ rfl)
  unfold sealReduced
  with_reducible
    repeat' first
    | rfl | refine (h0 _ _ _ _ _).trans ?_ | refine (h1 _ _ _).trans ?_
    | refine (each_get _ _ (fun _ _ => ?_) _).trans ?_ | refine get_ite_of (fun _ => ?_) (fun _ => ?_) | split
    | dsimp only

/-- Fields that execCommitDone may change. -/
def commitDoneF : List Fld :=
  logF ++ ([.slot, .journalSeq, .journal, .health, .unflushed, .deepPassed, .marginPrev, .sparesLow, .sen, .hub,
    .part, .xlat0, .xlat1, .routes0, .routes1, .screens, .screenReqs, .stop, .gcount, .dram, .coreTx, .coreTag] : List Fld)

theorem execCommitDone_kept {φ : Fld} (hφ : φ ∉ commitDoneF) (partition : Nat) (written : List (Nat × List Nat)) (reduced : List (Desc × List Byte)) (s : State)  :
    Kept φ (execCommitDone partition written reduced s) s := by
  have h0 := @abortSteps_get φ (Fld.mono hφ rfl)
  have h1 := @checkBoundary_get φ (Fld.mono hφ rfl)
  have h2 := @issueFence_get φ (Fld.mono hφ rfl)
  have h3 := @modPart_get φ (Fld.mono hφ rfl)
  have h4 := @sealReduced_get φ (Fld.mono hφ rfl)
  have h5 := @startCopies_get φ (Fld.mono hφ rfl)
  have h6 := @startDigest_get φ (Fld.mono hφ rfl)
  have h7 := @startTier2_get φ (Fld.mono hφ rfl)
  have h8 := @takeToken_get φ (Fld.mono hφ rfl)
  have h9 := @tryFills_get φ (Fld.mono hφ rfl)
  unfold execCommitDone
  with_reducible
    repeat' first
    | rfl | refine (h0 _ _ _).trans ?_ | refine (h1 _ _).trans ?_ | refine (h2 _ _).trans ?_
    | refine (h3 _ _ _).trans ?_ | refine (h4 _ _ _ _).trans ?_ | refine (h5 _ _ _ _).trans ?_
    | refine (h6 _ _ _).trans ?_ | refine (h7 _ _ _).trans ?_ | refine (h8 _ _).trans ?_ | refine (h9 _ _).trans ?_
    | refine kept_next.2 ?_ | refine kept_ite (fun _ => ?_) (fun _ => ?_)
    | refine get_ite_of (fun _ => ?_) (fun _ => ?_) | split | dsimp only

theorem execMirrorBlockReceived_kept {φ : Fld} (hφ : φ ∉ [.sent, .sen]) (owner index : Nat) (block : Block) (markedFailed : Bool) (s : State)  :
    Kept φ (execMirrorBlockReceived owner index block markedFailed s) s := by
  have h0 := @modSen_get φ (Fld.mono hφ rfl)
  have h1 := @senEvent_get φ (hφ)
  unfold execMirrorBlockReceived
  with_reducible
    repeat' first
    | rfl | refine (h0 _ _ _).trans ?_ | refine (h1 _ _ _ _).trans ?_ | refine kept_next.2 ?_
    | refine kept_ite (fun _ => ?_) (fun _ => ?_) | refine get_ite_of (fun _ => ?_) (fun _ => ?_) | split | dsimp only

theorem execPartnerCopyComplete_kept {φ : Fld} (hφ : φ ∉ residentFillF) (owner : Nat) (s : State)  :
    Kept φ (execPartnerCopyComplete owner s) s := by
  have h0 := @checkBoundary_get φ (Fld.mono hφ rfl)
  have h1 := @modPart_get φ (Fld.mono hφ rfl)
  have h2 := @modSen_get φ (Fld.mono hφ rfl)
  have h3 := @tryCommit_get φ (Fld.mono hφ rfl)
  have h4 := @tryFills_get φ (hφ)
  unfold execPartnerCopyComplete
  with_reducible
    repeat' first
    | rfl | refine (h0 _ _).trans ?_ | refine (h1 _ _ _).trans ?_ | refine (h2 _ _ _).trans ?_
    | refine (h3 _ _).trans ?_ | refine (h4 _ _).trans ?_ | refine kept_next.2 ?_
    | refine kept_ite (fun _ => ?_) (fun _ => ?_) | refine get_ite_of (fun _ => ?_) (fun _ => ?_) | split | dsimp only

end Sys2Proof.Machine
end

