-- ==== Sys2Proof/Laws/FrameScreening.lean ====
section
/-!
SUPPORT. Frames of the operations of Machine/Screening.lean.
-/
namespace Sys2Proof.Machine

open Sys2Proof

set_option linter.all false
set_option Elab.async false

theorem planPass_get {φ : Fld} (hφ : φ ∉ forceDeepF) (p h : Nat) (s : State)  :
    φ.get (planPass p h s) = φ.get s := by
  have h0 := @joinPass_get φ (Fld.mono hφ rfl)
  have h1 := @newScreen_get φ (Fld.mono hφ rfl)
  have h2 := @setScreenReqs_get φ (Fld.mono hφ rfl)
  have h3 := @startDeep_get φ (hφ)
  unfold planPass
  with_reducible
    repeat' first
    | rfl | refine (h0 _ _ _).trans ?_ | refine (h1 _ _ _).trans ?_ | refine (h2 _ _).trans ?_
    | refine (h3 _ _).trans ?_ | refine (each_get _ _ (fun _ _ => ?_) _).trans ?_
    | refine get_ite_of (fun _ => ?_) (fun _ => ?_) | split | dsimp only

theorem execScreeningWindowStart_kept {φ : Fld} (hφ : φ ∉ forceDeepF) (partition : Nat) (s : State)  :
    Kept φ (execScreeningWindowStart partition s) s := by
  have h0 := @modPart_get φ (Fld.mono hφ rfl)
  have h1 := @planPass_get φ (hφ)
  unfold execScreeningWindowStart
  with_reducible
    repeat' first
    | rfl | refine (h0 _ _ _).trans ?_ | refine (h1 _ _ _).trans ?_ | refine (each_get _ _ (fun _ _ => ?_) _).trans ?_
    | refine kept_next.2 ?_ | refine kept_ite (fun _ => ?_) (fun _ => ?_)
    | refine get_ite_of (fun _ => ?_) (fun _ => ?_) | split | dsimp only

/-- Fields that execSpareScreenStart may change. -/
def spareScreenStartF : List Fld :=
  logF ++ ([.journalSeq, .journal, .health, .unflushed, .deepPassed, .marginPrev, .spareAt, .sparesLow, .sen,
    .hub, .part, .xlat0, .xlat1, .routes0, .routes1, .screens, .screenReqs] : List Fld)

theorem execSpareScreenStart_kept {φ : Fld} (hφ : φ ∉ spareScreenStartF) (site : Nat) (heaters : Bool) (s : State)  :
    Kept φ (execSpareScreenStart site heaters s) s := by
  have h0 := @joinPass_get φ (Fld.mono hφ rfl)
  have h1 := @newScreen_get φ (Fld.mono hφ rfl)
  have h2 := @setScreenReqs_get φ (Fld.mono hφ rfl)
  have h3 := @setSpareAt_get φ (Fld.mono hφ rfl)
  have h4 := @startDeep_get φ (Fld.mono hφ rfl)
  unfold execSpareScreenStart
  with_reducible
    repeat' first
    | rfl | refine (h0 _ _ _).trans ?_ | refine (h1 _ _ _).trans ?_ | refine (h2 _ _).trans ?_
    | refine (h3 _ _).trans ?_ | refine (h4 _ _).trans ?_ | refine kept_next.2 ?_
    | refine kept_ite (fun _ => ?_) (fun _ => ?_) | refine get_ite_of (fun _ => ?_) (fun _ => ?_) | split | dsimp only

theorem execDeepScreenStart_kept {φ : Fld} (hφ : φ ∉ forceDeepF) (site : Nat) (s : State)  :
    Kept φ (execDeepScreenStart site s) s := by
  have h0 := @forceDeep_get φ (hφ)
  have h1 := @startDeep_get φ (hφ)
  unfold execDeepScreenStart
  with_reducible
    repeat' first
    | rfl | refine (h0 _ _).trans ?_ | refine (h1 _ _).trans ?_ | refine kept_next.2 ?_
    | refine kept_ite (fun _ => ?_) (fun _ => ?_) | refine get_ite_of (fun _ => ?_) (fun _ => ?_) | split | dsimp only

theorem execScreenRun_kept {φ : Fld} (hφ : φ ∉ writeF) (site sector point recipe : Nat) (epoch : Dword) (s : State)  :
    Kept φ (execScreenRun site sector point recipe epoch s) s := by
  have h0 := @modSen_get φ (Fld.mono hφ rfl)
  have h1 := @respond_get φ (Fld.mono hφ rfl)
  unfold execScreenRun
  with_reducible
    repeat' first
    | rfl | refine (h0 _ _ _).trans ?_ | refine (h1 _ _ _ _ _).trans ?_
    | refine (each_get _ _ (fun _ _ => ?_) _).trans ?_ | refine arrive_kept (Fld.mono hφ rfl) _ _ _ (fun _ => ?_)
    | refine kept_next.2 ?_ | refine kept_ite (fun _ => ?_) (fun _ => ?_)
    | refine get_ite_of (fun _ => ?_) (fun _ => ?_) | split | dsimp only

theorem execContent_kept {φ : Fld} (hφ : φ ∉ [.sent, .sen, .hub]) (sector offset : Nat) (bytes : List Byte) (s : State)  :
    Kept φ (execContent sector offset bytes s) s := by
  have h0 := @modSen_get φ (Fld.mono hφ rfl)
  have h1 := @receive_get φ (Fld.mono hφ rfl)
  unfold execContent
  with_reducible
    repeat' first
    | rfl | refine (h0 _ _ _).trans ?_ | refine (h1 _ _).trans ?_ | refine (each_get _ _ (fun _ _ => ?_) _).trans ?_
    | refine kept_next.2 ?_ | refine kept_ite (fun _ => ?_) (fun _ => ?_)
    | refine get_ite_of (fun _ => ?_) (fun _ => ?_) | split | dsimp only

theorem execVmarginAck_kept {φ : Fld} (hφ : φ ∉ setUpRunF) (sector : Nat) (s : State)  :
    Kept φ (execVmarginAck sector s) s := by
  have h0 := @modHub_get φ (Fld.mono hφ rfl)
  have h1 := @setUpRun_get φ (hφ)
  unfold execVmarginAck
  with_reducible
    repeat' first
    | rfl | refine (h0 _ _ _).trans ?_ | refine (h1 _ _ _ _ _ _ _).trans ?_ | refine kept_next.2 ?_
    | refine kept_ite (fun _ => ?_) (fun _ => ?_) | refine get_ite_of (fun _ => ?_) (fun _ => ?_) | split | dsimp only

theorem execVmarginKeepaliveTimer_kept {φ : Fld} (hφ : φ ∉ [.hub]) (sector : Nat) (s : State)  :
    Kept φ (execVmarginKeepaliveTimer sector s) s := by
  have h0 := @modHub_get φ (hφ)
  unfold execVmarginKeepaliveTimer
  with_reducible
    repeat' first
    | rfl | refine (h0 _ _ _).trans ?_ | refine kept_next.2 ?_ | refine kept_ite (fun _ => ?_) (fun _ => ?_)
    | refine get_ite_of (fun _ => ?_) (fun _ => ?_) | split | dsimp only

theorem execHeatingTimeout_kept {φ : Fld} (hφ : φ ∉ finishScreenF) (sector : Nat) (s : State)  :
    Kept φ (execHeatingTimeout sector s) s := by
  have h0 := @endHeat_get φ (Fld.mono hφ rfl)
  have h1 := @finishScreen_get φ (hφ)
  have h2 := @modHub_get φ (Fld.mono hφ rfl)
  have h3 := @nextRun_get φ (hφ)
  have h4 := @setScreens_get φ (Fld.mono hφ rfl)
  unfold execHeatingTimeout
  with_reducible
    repeat' first
    | rfl | refine (h0 _ _).trans ?_ | refine (h1 _ _ _).trans ?_ | refine (h2 _ _ _).trans ?_
    | refine (h3 _ _).trans ?_ | refine (h4 _ _).trans ?_ | refine (each_get _ _ (fun _ _ => ?_) _).trans ?_
    | refine (foldl_get _ _ (fun _ _ => ?_) _).trans ?_ | refine (foldl_fst_get _ _ (fun _ _ => ?_) _).trans ?_
    | refine (foldl_snd_get _ _ (fun _ _ => ?_) _).trans ?_ | refine kept_next.2 ?_
    | refine kept_ite (fun _ => ?_) (fun _ => ?_) | refine get_ite_of (fun _ => ?_) (fun _ => ?_) | split | dsimp only

/-- Fields that execStageZeroHold may change. -/
def stageZeroHoldF : List Fld :=
  logF ++ ([.journalSeq, .journal, .health, .unflushed, .deepPassed, .marginPrev, .sparesLow, .sen, .hub, .part,
    .xlat0, .xlat1, .routes0, .routes1, .screens, .throttle] : List Fld)

theorem execStageZeroHold_kept {φ : Fld} (hφ : φ ∉ stageZeroHoldF) (s : State)  :
    Kept φ (execStageZeroHold s) s := by
  have h0 := @modThrottle_get φ (Fld.mono hφ rfl)
  have h1 := @resumePasses_get φ (Fld.mono hφ rfl)
  unfold execStageZeroHold
  with_reducible
    repeat' first
    | rfl | refine (h0 _ _).trans ?_ | refine (h1 _).trans ?_ | refine kept_next.2 ?_
    | refine kept_ite (fun _ => ?_) (fun _ => ?_) | refine get_ite_of (fun _ => ?_) (fun _ => ?_) | split | dsimp only

theorem mirrorResult_get {φ : Fld} (hφ : φ ∉ [.sent]) (h recipe : Nat) (epoch : Dword) (rows : List RunRow) (s : State)  :
    φ.get (mirrorResult h recipe epoch rows s) = φ.get s := by
  have h0 := @hubEvent_get φ (hφ)
  unfold mirrorResult
  with_reducible
    repeat' first
    | rfl | refine (h0 _ _ _ _).trans ?_ | refine get_ite_of (fun _ => ?_) (fun _ => ?_) | split | dsimp only

theorem concludeRun_get {φ : Fld} (hφ : φ ∉ finishScreenF) (h : Nat) (x : Pass) (s : State)  :
    φ.get (concludeRun h x s) = φ.get s := by
  have h0 := @charge_get φ (Fld.mono hφ rfl)
  have h1 := @countHub_get φ (Fld.mono hφ rfl)
  have h2 := @endHeat_get φ (Fld.mono hφ rfl)
  have h3 := @endRun_get φ (Fld.mono hφ rfl)
  have h4 := @finishScreen_get φ (hφ)
  have h5 := @mirrorResult_get φ (Fld.mono hφ rfl)
  have h6 := @modHub_get φ (Fld.mono hφ rfl)
  have h7 := @nextRun_get φ (hφ)
  have h8 := @setScreens_get φ (Fld.mono hφ rfl)
  unfold concludeRun
  with_reducible
    repeat' first
    | rfl | refine (h0 _ _ _ _ _).trans ?_ | refine (h1 _ _ _ _).trans ?_ | refine (h2 _ _).trans ?_
    | refine (h3 _ _).trans ?_ | refine (h4 _ _ _).trans ?_ | refine (h5 _ _ _ _ _).trans ?_
    | refine (h6 _ _ _).trans ?_ | refine (h7 _ _).trans ?_ | refine (h8 _ _).trans ?_
    | refine (each_get _ _ (fun _ _ => ?_) _).trans ?_ | refine (foldl_get _ _ (fun _ _ => ?_) _).trans ?_
    | refine (foldl_fst_get _ _ (fun _ _ => ?_) _).trans ?_ | refine (foldl_snd_get _ _ (fun _ _ => ?_) _).trans ?_
    | refine get_ite_of (fun _ => ?_) (fun _ => ?_) | split | dsimp only

theorem advanceRun_get {φ : Fld} (hφ : φ ∉ finishScreenF) (h : Nat) (s : State)  :
    φ.get (advanceRun h s) = φ.get s := by
  have h0 := @concludeRun_get φ (hφ)
  have h1 := @endHeat_get φ (Fld.mono hφ rfl)
  have h2 := @modHub_get φ (Fld.mono hφ rfl)
  have h3 := @nextRun_get φ (hφ)
  have h4 := @sendRecipe_get φ (Fld.mono hφ rfl)
  unfold advanceRun
  with_reducible
    repeat' first
    | rfl | refine (h0 _ _ _).trans ?_ | refine (h1 _ _).trans ?_ | refine (h2 _ _ _).trans ?_
    | refine (h3 _ _).trans ?_ | refine (h4 _ _).trans ?_ | refine get_ite_of (fun _ => ?_) (fun _ => ?_) | split
    | dsimp only

theorem takeReplay_get {φ : Fld} (hφ : φ ∉ forceDeepF) (h site : Nat) (rep : ReplayReport) (x : Pass) (s : State)  :
    φ.get (takeReplay h site rep x s) = φ.get s := by
  have h0 := @endRun_get φ (Fld.mono hφ rfl)
  have h1 := @finishReplay_get φ (hφ)
  have h2 := @modHub_get φ (Fld.mono hφ rfl)
  have h3 := @nextRun_get φ (Fld.mono hφ rfl)
  unfold takeReplay
  with_reducible
    repeat' first
    | rfl | refine (h0 _ _).trans ?_ | refine (h1 _ _ _).trans ?_ | refine (h2 _ _ _).trans ?_
    | refine (h3 _ _).trans ?_ | refine get_ite_of (fun _ => ?_) (fun _ => ?_) | split | dsimp only

theorem execRunResult_kept {φ : Fld} (hφ : φ ∉ forceDeepF) (site recipe verdict seals : Nat) (signature : Dword) (status : Word) (replay : ReplayReport) (s : State)  :
    Kept φ (execRunResult site recipe verdict seals signature status replay s) s := by
  have h0 := @advanceRun_get φ (Fld.mono hφ rfl)
  have h1 := @modHub_get φ (Fld.mono hφ rfl)
  have h2 := @takeReplay_get φ (hφ)
  unfold execRunResult
  with_reducible
    repeat' first
    | rfl | refine (h0 _ _).trans ?_ | refine (h1 _ _ _).trans ?_ | refine (h2 _ _ _ _ _).trans ?_
    | refine arrive_kept (Fld.mono hφ rfl) _ _ _ (fun _ => ?_) | refine kept_next.2 ?_
    | refine kept_ite (fun _ => ?_) (fun _ => ?_) | refine get_ite_of (fun _ => ?_) (fun _ => ?_) | split | dsimp only

theorem execScreenSpanExpiry_kept {φ : Fld} (hφ : φ ∉ finishScreenF) (site : Nat) (s : State)  :
    Kept φ (execScreenSpanExpiry site s) s := by
  have h0 := @advanceRun_get φ (hφ)
  have h1 := @finishScreen_get φ (hφ)
  have h2 := @leavePass_get φ (Fld.mono hφ rfl)
  unfold execScreenSpanExpiry
  with_reducible
    repeat' first
    | rfl | refine (h0 _ _).trans ?_ | refine (h1 _ _ _).trans ?_ | refine (h2 _ _).trans ?_ | refine kept_next.2 ?_
    | refine kept_ite (fun _ => ?_) (fun _ => ?_) | refine get_ite_of (fun _ => ?_) (fun _ => ?_) | split | dsimp only

/-- Fields that execQuarantine may change. -/
def quarantineF : List Fld :=
  logF ++ ([.journalSeq, .journal, .health, .unflushed, .deepPassed, .marginPrev, .sparesLow, .sen, .hub, .part,
    .xlat0, .xlat1, .routes0, .routes1, .screens, .screenReqs, .answers] : List Fld)

theorem execQuarantine_kept {φ : Fld} (hφ : φ ∉ quarantineF) (site : Nat) (s : State)  :
    Kept φ (execQuarantine site s) s := by
  have h0 := @advanceRun_get φ (Fld.mono hφ rfl)
  have h1 := @cancelScreen_get φ (Fld.mono hφ rfl)
  have h2 := @modSen_get φ (Fld.mono hφ rfl)
  have h3 := @respond_get φ (Fld.mono hφ rfl)
  have h4 := @startDeep_get φ (Fld.mono hφ rfl)
  unfold execQuarantine
  with_reducible
    repeat' first
    | rfl | refine (h0 _ _).trans ?_ | refine (h1 _ _).trans ?_ | refine (h2 _ _ _).trans ?_
    | refine (h3 _ _ _ _ _).trans ?_ | refine (h4 _ _).trans ?_
    | refine arrive_kept (Fld.mono hφ rfl) _ _ _ (fun _ => ?_) | refine kept_next.2 ?_
    | refine kept_ite (fun _ => ?_) (fun _ => ?_) | refine get_ite_of (fun _ => ?_) (fun _ => ?_) | split | dsimp only

theorem execCleanPeriodEnd_kept {φ : Fld} (hφ : φ ∉ changeSiteF) (site : Nat) (s : State)  :
    Kept φ (execCleanPeriodEnd site s) s := by
  have h0 := @changeSite_get φ (hφ)
  unfold execCleanPeriodEnd
  with_reducible
    repeat' first
    | rfl | refine (h0 _ _ _ _ _).trans ?_ | refine kept_next.2 ?_ | refine kept_ite (fun _ => ?_) (fun _ => ?_)
    | refine get_ite_of (fun _ => ?_) (fun _ => ?_) | split | dsimp only

end Sys2Proof.Machine
end

