-- ==== Sys2Proof/Laws/FrameThermal.lean ====
section
/-!
SUPPORT. Frames of the operations of Machine/Thermal.lean.
-/
namespace Sys2Proof.Machine

open Sys2Proof

set_option linter.all false
set_option Elab.async false

theorem modelStep_get {φ : Fld} (hφ : φ ∉ [.hub]) (sector : Nat) (s : State)  :
    φ.get (modelStep sector s) = φ.get s := by
  have h0 := @modHub_get φ (hφ)
  unfold modelStep
  with_reducible
    repeat' first
    | rfl | refine (h0 _ _ _).trans ?_ | refine (foldl_get _ _ (fun _ _ => ?_) _).trans ?_
    | refine (foldl_fst_get _ _ (fun _ _ => ?_) _).trans ?_ | refine (foldl_snd_get _ _ (fun _ _ => ?_) _).trans ?_
    | refine get_ite_of (fun _ => ?_) (fun _ => ?_) | split | dsimp only

theorem checkHeating_get {φ : Fld} (hφ : φ ∉ [.sent, .hub, .screens]) (h : Nat) (s : State)  :
    φ.get (checkHeating h s) = φ.get s := by
  have h0 := @beginRun_get φ (hφ)
  unfold checkHeating
  with_reducible
    repeat' first
    | rfl | refine (h0 _ _).trans ?_ | refine get_ite_of (fun _ => ?_) (fun _ => ?_) | split | dsimp only

theorem coolHeaters_get {φ : Fld} (hφ : φ ∉ [.sen]) (sector : Nat) (s : State)  :
    φ.get (coolHeaters sector s) = φ.get s := by
  have h0 := @holdSlot_get φ (hφ)
  have h1 := @modSen_get φ (hφ)
  unfold coolHeaters
  with_reducible
    repeat' first
    | rfl | refine (h0 _ _).trans ?_ | refine (h1 _ _ _).trans ?_ | refine (each_get _ _ (fun _ _ => ?_) _).trans ?_
    | refine get_ite_of (fun _ => ?_) (fun _ => ?_) | split | dsimp only

theorem execModelStep_kept {φ : Fld} (hφ : φ ∉ setUpRunF) (sector : Nat) (s : State)  :
    Kept φ (execModelStep sector s) s := by
  have h0 := @checkHeating_get φ (Fld.mono hφ rfl)
  have h1 := @coolHeaters_get φ (Fld.mono hφ rfl)
  have h2 := @modelStep_get φ (Fld.mono hφ rfl)
  unfold execModelStep
  with_reducible
    repeat' first
    | rfl | refine (h0 _ _).trans ?_ | refine (h1 _ _).trans ?_ | refine (h2 _ _).trans ?_ | refine kept_next.2 ?_
    | refine kept_ite (fun _ => ?_) (fun _ => ?_) | refine get_ite_of (fun _ => ?_) (fun _ => ?_) | split | dsimp only

theorem decideStage_get {φ : Fld} (hφ : φ ∉ [.sent, .throttle]) (sector : Nat) (s : State)  :
    φ.get (decideStage sector s) = φ.get s := by
  have h0 := @hubEvent_get φ (Fld.mono hφ rfl)
  have h1 := @modThrottle_get φ (Fld.mono hφ rfl)
  have h2 := @sendAll_get φ (Fld.mono hφ rfl)
  unfold decideStage
  with_reducible
    repeat' first
    | rfl | refine (h0 _ _ _ _).trans ?_ | refine (h1 _ _).trans ?_ | refine (h2 _ _).trans ?_
    | refine (foldl_get _ _ (fun _ _ => ?_) _).trans ?_ | refine (foldl_fst_get _ _ (fun _ _ => ?_) _).trans ?_
    | refine (foldl_snd_get _ _ (fun _ _ => ?_) _).trans ?_ | refine get_ite_of (fun _ => ?_) (fun _ => ?_) | split
    | dsimp only

/-- Fields that execThrottleRequest may change. -/
def throttleRequestF : List Fld :=
  [.sent, .hub, .throttle, .answers]

theorem execThrottleRequest_kept {φ : Fld} (hφ : φ ∉ throttleRequestF) (sector stage : Nat) (s : State)  :
    Kept φ (execThrottleRequest sector stage s) s := by
  have h0 := @decideStage_get φ (Fld.mono hφ rfl)
  have h1 := @modThrottle_get φ (Fld.mono hφ rfl)
  have h2 := @respond_get φ (Fld.mono hφ rfl)
  unfold execThrottleRequest
  with_reducible
    repeat' first
    | rfl | refine (h0 _ _).trans ?_ | refine (h1 _ _).trans ?_ | refine (h2 _ _ _ _ _).trans ?_
    | refine arrive_kept (Fld.mono hφ rfl) _ _ _ (fun _ => ?_) | refine kept_next.2 ?_
    | refine kept_ite (fun _ => ?_) (fun _ => ?_) | refine get_ite_of (fun _ => ?_) (fun _ => ?_) | split | dsimp only

theorem requestStage_get {φ : Fld} (hφ : φ ∉ [.sent, .hub]) (sector k : Nat) (s : State)  :
    φ.get (requestStage sector k s) = φ.get s := by
  have h0 := @countHub_get φ (Fld.mono hφ rfl)
  have h1 := @modHub_get φ (Fld.mono hφ rfl)
  have h2 := @send_get φ (Fld.mono hφ rfl)
  unfold requestStage
  with_reducible
    repeat' first
    | rfl | refine (h0 _ _ _ _).trans ?_ | refine (h1 _ _ _).trans ?_ | refine (h2 _ _).trans ?_
    | refine get_ite_of (fun _ => ?_) (fun _ => ?_) | split | dsimp only

theorem execThrottleStage_kept {φ : Fld} (hφ : φ ∉ writeF) (unit stage : Nat) (engage : Dword) (s : State)  :
    Kept φ (execThrottleStage unit stage engage s) s := by
  have h0 := @modSen_get φ (Fld.mono hφ rfl)
  have h1 := @respond_get φ (Fld.mono hφ rfl)
  have h2 := @sendAll_get φ (Fld.mono hφ rfl)
  have h3 := @setAlarm_get φ (Fld.mono hφ rfl)
  unfold execThrottleStage
  with_reducible
    repeat' first
    | rfl | refine (h0 _ _ _).trans ?_ | refine (h1 _ _ _ _ _).trans ?_ | refine (h2 _ _).trans ?_
    | refine (h3 _ _ _ _ _).trans ?_ | refine arrive_kept (Fld.mono hφ rfl) _ _ _ (fun _ => ?_)
    | refine kept_next.2 ?_ | refine kept_ite (fun _ => ?_) (fun _ => ?_)
    | refine get_ite_of (fun _ => ?_) (fun _ => ?_) | split | dsimp only

/-- Fields that execThrottleEngage may change. -/
def throttleEngageF : List Fld :=
  logF ++ ([.sen, .hub, .part, .throttle] : List Fld)

theorem execThrottleEngage_kept {φ : Fld} (hφ : φ ∉ throttleEngageF) (s : State)  :
    Kept φ (execThrottleEngage s) s := by
  have h0 := @discardRuns_get φ (Fld.mono hφ rfl)
  have h1 := @modThrottle_get φ (Fld.mono hφ rfl)
  have h2 := @setSen_get φ (Fld.mono hφ rfl)
  unfold execThrottleEngage
  with_reducible
    repeat' first
    | rfl | refine (h0 _ _).trans ?_ | refine (h1 _ _).trans ?_ | refine (h2 _ _).trans ?_ | refine kept_next.2 ?_
    | refine kept_ite (fun _ => ?_) (fun _ => ?_) | refine get_ite_of (fun _ => ?_) (fun _ => ?_) | split | dsimp only

theorem execReleaseHoldExpiry_kept {φ : Fld} (hφ : φ ∉ [.sent, .hub]) (sector : Nat) (s : State)  :
    Kept φ (execReleaseHoldExpiry sector s) s := by
  have h0 := @modHub_get φ (Fld.mono hφ rfl)
  have h1 := @requestStage_get φ (hφ)
  unfold execReleaseHoldExpiry
  with_reducible
    repeat' first
    | rfl | refine (h0 _ _ _).trans ?_ | refine (h1 _ _ _).trans ?_ | refine kept_next.2 ?_
    | refine kept_ite (fun _ => ?_) (fun _ => ?_) | refine get_ite_of (fun _ => ?_) (fun _ => ?_) | split | dsimp only

theorem writeSensor_get {φ : Fld} (hφ : φ ∉ [.sent, .mramA, .mramB]) (n : Nat) (s : State)  :
    φ.get (writeSensor n s) = φ.get s := by
  have h0 := @mramBoth_get φ (hφ)
  unfold writeSensor
  with_reducible
    repeat' first
    | rfl | refine (h0 _ _ _).trans ?_ | refine get_ite_of (fun _ => ?_) (fun _ => ?_) | split | dsimp only

/-- Fields that sensorBroken may change. -/
def sensorBrokenF : List Fld :=
  logF ++ ([.sensors] : List Fld)

theorem sensorBroken_get {φ : Fld} (hφ : φ ∉ sensorBrokenF) (n reason : Nat) (i : Int) (model : Option Nat) (source : Option Nat) (s : State)  :
    φ.get (sensorBroken n reason i model source s) = φ.get s := by
  have h0 := @hubEvent_get φ (Fld.mono hφ rfl)
  have h1 := @modSensor_get φ (Fld.mono hφ rfl)
  have h2 := @raiseAlert_get φ (Fld.mono hφ rfl)
  have h3 := @record_get φ (Fld.mono hφ rfl)
  have h4 := @writeSensor_get φ (Fld.mono hφ rfl)
  unfold sensorBroken
  with_reducible
    repeat' first
    | rfl | refine (h0 _ _ _ _).trans ?_ | refine (h1 _ _ _).trans ?_ | refine (h2 _ _).trans ?_
    | refine (h3 _ _ _).trans ?_ | refine (h4 _ _).trans ?_ | refine get_ite_of (fun _ => ?_) (fun _ => ?_) | split
    | dsimp only

theorem takeReading_get {φ : Fld} (hφ : φ ∉ sensorBrokenF) (n : Nat) (i : Int) (model : Option Nat) (source : Option Nat) (s : State)  :
    φ.get (takeReading n i model source s) = φ.get s := by
  have h0 := @modSensor_get φ (Fld.mono hφ rfl)
  have h1 := @sensorBroken_get φ (hφ)
  unfold takeReading
  with_reducible
    repeat' first
    | rfl | refine (h0 _ _ _).trans ?_ | refine (h1 _ _ _ _ _ _).trans ?_
    | refine get_ite_of (fun _ => ?_) (fun _ => ?_) | split | dsimp only

/-- Fields that raiseTrip may change. -/
def raiseTripF : List Fld :=
  logF ++ ([.hub] : List Fld)

theorem raiseTrip_get {φ : Fld} (hφ : φ ∉ raiseTripF) (h sector sensor kind : Nat) (temp : Int) (sectors : List Nat) (s : State)  :
    φ.get (raiseTrip h sector sensor kind temp sectors s) = φ.get s := by
  have h0 := @modHub_get φ (Fld.mono hφ rfl)
  have h1 := @record_get φ (Fld.mono hφ rfl)
  have h2 := @requestStage_get φ (Fld.mono hφ rfl)
  have h3 := @send_get φ (Fld.mono hφ rfl)
  unfold raiseTrip
  with_reducible
    repeat' first
    | rfl | refine (h0 _ _ _).trans ?_ | refine (h1 _ _ _).trans ?_ | refine (h2 _ _ _).trans ?_
    | refine (h3 _ _).trans ?_ | refine (each_get _ _ (fun _ _ => ?_) _).trans ?_
    | refine get_ite_of (fun _ => ?_) (fun _ => ?_) | split | dsimp only

theorem stepOffset_get {φ : Fld} (hφ : φ ∉ [.sent, .hub]) (sector : Nat) (diode : Int) (s : State)  :
    φ.get (stepOffset sector diode s) = φ.get s := by
  have h0 := @hubEvent_get φ (Fld.mono hφ rfl)
  have h1 := @modHub_get φ (Fld.mono hφ rfl)
  unfold stepOffset
  with_reducible
    repeat' first
    | rfl | refine (h0 _ _ _ _).trans ?_ | refine (h1 _ _ _).trans ?_ | refine get_ite_of (fun _ => ?_) (fun _ => ?_)
    | split | dsimp only

theorem stepRequest_get {φ : Fld} (hφ : φ ∉ [.sent, .hub]) (sector : Nat) (s : State)  :
    φ.get (stepRequest sector s) = φ.get s := by
  have h0 := @modHub_get φ (Fld.mono hφ rfl)
  have h1 := @requestStage_get φ (hφ)
  unfold stepRequest
  with_reducible
    repeat' first
    | rfl | refine (h0 _ _ _).trans ?_ | refine (h1 _ _ _).trans ?_ | refine get_ite_of (fun _ => ?_) (fun _ => ?_)
    | split | dsimp only

/-- Fields that execThermalSample may change. -/
def thermalSampleF : List Fld :=
  logF ++ ([.sensors, .sen, .hub] : List Fld)

theorem execThermalSample_kept {φ : Fld} (hφ : φ ∉ thermalSampleF) (sector : Nat) (counts : List (Nat × List Word)) (diode : Int) (s : State)  :
    Kept φ (execThermalSample sector counts diode s) s := by
  have h0 := @coolHeaters_get φ (Fld.mono hφ rfl)
  have h1 := @countHub_get φ (Fld.mono hφ rfl)
  have h2 := @modHub_get φ (Fld.mono hφ rfl)
  have h3 := @modSen_get φ (Fld.mono hφ rfl)
  have h4 := @raiseTrip_get φ (Fld.mono hφ rfl)
  have h5 := @stepOffset_get φ (Fld.mono hφ rfl)
  have h6 := @stepRequest_get φ (Fld.mono hφ rfl)
  have h7 := @takeReading_get φ (Fld.mono hφ rfl)
  unfold execThermalSample
  with_reducible
    repeat' first
    | rfl | refine (h0 _ _).trans ?_ | refine (h1 _ _ _ _).trans ?_ | refine (h2 _ _ _).trans ?_
    | refine (h3 _ _ _).trans ?_ | refine (h4 _ _ _ _ _ _ _).trans ?_ | refine (h5 _ _ _).trans ?_
    | refine (h6 _ _).trans ?_ | refine (h7 _ _ _ _ _).trans ?_ | refine (each_get _ _ (fun _ _ => ?_) _).trans ?_
    | refine (foldl_get _ _ (fun _ _ => ?_) _).trans ?_ | refine (foldl_fst_get _ _ (fun _ _ => ?_) _).trans ?_
    | refine (foldl_snd_get _ _ (fun _ _ => ?_) _).trans ?_ | refine kept_next.2 ?_
    | refine kept_ite (fun _ => ?_) (fun _ => ?_) | refine get_ite_of (fun _ => ?_) (fun _ => ?_) | split | dsimp only

/-- Fields that execEdgeDiodeRead may change. -/
def edgeDiodeReadF : List Fld :=
  logF ++ ([.sensors, .hub] : List Fld)

theorem execEdgeDiodeRead_kept {φ : Fld} (hφ : φ ∉ edgeDiodeReadF) (die : Nat) (readings : List Int) (s : State)  :
    Kept φ (execEdgeDiodeRead die readings s) s := by
  have h0 := @modSensor_get φ (Fld.mono hφ rfl)
  have h1 := @raiseTrip_get φ (Fld.mono hφ rfl)
  have h2 := @requestStage_get φ (Fld.mono hφ rfl)
  have h3 := @takeReading_get φ (Fld.mono hφ rfl)
  unfold execEdgeDiodeRead
  with_reducible
    repeat' first
    | rfl | refine (h0 _ _ _).trans ?_ | refine (h1 _ _ _ _ _ _ _).trans ?_ | refine (h2 _ _ _).trans ?_
    | refine (h3 _ _ _ _ _).trans ?_ | refine (each_get _ _ (fun _ _ => ?_) _).trans ?_ | refine kept_next.2 ?_
    | refine kept_ite (fun _ => ?_) (fun _ => ?_) | refine get_ite_of (fun _ => ?_) (fun _ => ?_) | split | dsimp only

theorem execUnitWakeStart_kept {φ : Fld} (hφ : φ ∉ [.hub]) (hub unit : Nat) (s : State)  :
    Kept φ (execUnitWakeStart hub unit s) s := by
  have h0 := @modHub_get φ (hφ)
  unfold execUnitWakeStart
  with_reducible
    repeat' first
    | rfl | refine (h0 _ _ _).trans ?_ | refine kept_next.2 ?_ | refine kept_ite (fun _ => ?_) (fun _ => ?_)
    | refine get_ite_of (fun _ => ?_) (fun _ => ?_) | split | dsimp only

theorem takeWaiting_get {φ : Fld} (hφ : φ ∉ serveFrontF) (h : Nat) (m : Instr) (s : State)  :
    φ.get (takeWaiting h m s) = φ.get s := by
  have h0 := @hubRead_get φ (Fld.mono hφ rfl)
  have h1 := @hubWrite_get φ (Fld.mono hφ rfl)
  have h2 := @takeSummary_get φ (Fld.mono hφ rfl)
  unfold takeWaiting
  with_reducible
    repeat' first
    | rfl | refine (h0 _ _ _ _ _).trans ?_ | refine (h1 _ _ _ _ _).trans ?_ | refine (h2 _ _ _).trans ?_
    | refine get_ite_of (fun _ => ?_) (fun _ => ?_) | split | dsimp only

theorem execUnitWakeComplete_kept {φ : Fld} (hφ : φ ∉ serveFrontF) (hub unit : Nat) (s : State)  :
    Kept φ (execUnitWakeComplete hub unit s) s := by
  have h0 := @modHub_get φ (Fld.mono hφ rfl)
  have h1 := @takeWaiting_get φ (hφ)
  unfold execUnitWakeComplete
  with_reducible
    repeat' first
    | rfl | refine (h0 _ _ _).trans ?_ | refine (h1 _ _ _).trans ?_ | refine (each_get _ _ (fun _ _ => ?_) _).trans ?_
    | refine kept_next.2 ?_ | refine kept_ite (fun _ => ?_) (fun _ => ?_)
    | refine get_ite_of (fun _ => ?_) (fun _ => ?_) | split | dsimp only

theorem execThmUpdate_kept {φ : Fld} (hφ : φ ∉ [.win]) (s : State)  :
    Kept φ (execThmUpdate s) s := by
  have h0 := @modWin_get φ (hφ)
  unfold execThmUpdate
  with_reducible
    repeat' first
    | rfl | refine (h0 _ _).trans ?_ | refine kept_next.2 ?_ | refine kept_ite (fun _ => ?_) (fun _ => ?_)
    | refine get_ite_of (fun _ => ?_) (fun _ => ?_) | split | dsimp only

/-- Fields that execThermalPolicy may change. -/
def thermalPolicyF : List Fld :=
  logF ++ ([.throttle] : List Fld)

theorem execThermalPolicy_kept {φ : Fld} (hφ : φ ∉ thermalPolicyF) (seq : Nat) (s : State)  :
    Kept φ (execThermalPolicy seq s) s := by
  have h0 := @complete_get φ (Fld.mono hφ rfl)
  have h1 := @modThrottle_get φ (Fld.mono hφ rfl)
  have h2 := @record_get φ (Fld.mono hφ rfl)
  unfold execThermalPolicy
  with_reducible
    repeat' first
    | rfl | refine (h0 _ _ _ _).trans ?_ | refine (h1 _ _).trans ?_ | refine (h2 _ _ _).trans ?_
    | refine runCmd_kept (Fld.mono hφ rfl) _ _ _ _ ?_ | refine kept_next.2 ?_
    | refine kept_ite (fun _ => ?_) (fun _ => ?_) | refine get_ite_of (fun _ => ?_) (fun _ => ?_) | split | dsimp only

/-- Fields that execSensorRetire may change. -/
def sensorRetireF : List Fld :=
  logF ++ ([.sensors, .hub, .part] : List Fld)

theorem execSensorRetire_kept {φ : Fld} (hφ : φ ∉ sensorRetireF) (seq : Nat) (s : State)  :
    Kept φ (execSensorRetire seq s) s := by
  have h0 := @complete_get φ (Fld.mono hφ rfl)
  have h1 := @modHub_get φ (Fld.mono hφ rfl)
  have h2 := @modSensor_get φ (Fld.mono hφ rfl)
  have h3 := @recordFrom_get φ (Fld.mono hφ rfl)
  have h4 := @writeSensor_get φ (Fld.mono hφ rfl)
  unfold execSensorRetire
  with_reducible
    repeat' first
    | rfl | refine (h0 _ _ _ _).trans ?_ | refine (h1 _ _ _).trans ?_ | refine (h2 _ _ _).trans ?_
    | refine (h3 _ _ _ _).trans ?_ | refine (h4 _ _).trans ?_ | refine runCmd_kept (Fld.mono hφ rfl) _ _ _ _ ?_
    | refine kept_next.2 ?_ | refine kept_ite (fun _ => ?_) (fun _ => ?_)
    | refine get_ite_of (fun _ => ?_) (fun _ => ?_) | split | dsimp only

end Sys2Proof.Machine
end

