-- ==== Sys2Proof/Laws/FrameMidway.lean ====
section
/-!
SUPPORT. Frames of the operations of Machine/Midway.lean.
-/
namespace Sys2Proof.Machine

open Sys2Proof

set_option linter.all false
set_option Elab.async false

theorem execTimeLoad_kept {φ : Fld} (hφ : φ ∉ [.sent, .rasArmedB, .hub]) (unit : Nat) (v : Dword) (s : State)  :
    Kept φ (execTimeLoad unit v s) s := by
  have h0 := @modHub_get φ (Fld.mono hφ rfl)
  have h1 := @setRasArmedB_get φ (Fld.mono hφ rfl)
  unfold execTimeLoad
  with_reducible
    repeat' first
    | rfl | refine (h0 _ _ _).trans ?_ | refine (h1 _ _).trans ?_
    | refine arrive_kept (Fld.mono hφ rfl) _ _ _ (fun _ => ?_) | refine kept_next.2 ?_
    | refine kept_ite (fun _ => ?_) (fun _ => ?_) | refine get_ite_of (fun _ => ?_) (fun _ => ?_) | split | dsimp only

theorem execTimeCheck_kept {φ : Fld} (hφ : φ ∉ [.sent, .rasCheck, .hub]) (hub : Nat) (s : State)  :
    Kept φ (execTimeCheck hub s) s := by
  have h0 := @setRasCheck_get φ (Fld.mono hφ rfl)
  unfold execTimeCheck
  with_reducible
    repeat' first
    | rfl | refine (h0 _ _).trans ?_ | refine arrive_kept (Fld.mono hφ rfl) _ _ _ (fun _ => ?_)
    | refine kept_next.2 ?_ | refine kept_ite (fun _ => ?_) (fun _ => ?_)
    | refine get_ite_of (fun _ => ?_) (fun _ => ?_) | split | dsimp only

theorem startAlignment_get {φ : Fld} (hφ : φ ∉ [.sent]) (s : State)  :
    φ.get (startAlignment s) = φ.get s := by
  have h0 := @sendGroup_get φ (hφ)
  unfold startAlignment
  with_reducible
    repeat' first
    | rfl | refine (h0 _ _ _).trans ?_ | refine get_ite_of (fun _ => ?_) (fun _ => ?_) | split | dsimp only

theorem execRasAlignmentTimer_kept {φ : Fld} (hφ : φ ∉ [.sent]) (s : State)  :
    Kept φ (execRasAlignmentTimer s) s := by
  have h0 := @startAlignment_get φ (hφ)
  unfold execRasAlignmentTimer
  with_reducible
    repeat' first
    | rfl | refine (h0 _).trans ?_ | refine kept_next.2 ?_ | refine kept_ite (fun _ => ?_) (fun _ => ?_)
    | refine get_ite_of (fun _ => ?_) (fun _ => ?_) | split | dsimp only

theorem reportRas_get {φ : Fld} (hφ : φ ∉ [.answers]) (h : Nat) (s : State)  :
    φ.get (reportRas h s) = φ.get s := by
  have h0 := @respond_get φ (hφ)
  unfold reportRas
  with_reducible
    repeat' first
    | rfl | refine (h0 _ _ _ _ _).trans ?_ | refine get_ite_of (fun _ => ?_) (fun _ => ?_) | split | dsimp only

theorem judgeRas_get {φ : Fld} (hφ : φ ∉ logF) (h : Nat) (ws : List Word) (s : State)  :
    φ.get (judgeRas h ws s) = φ.get s := by
  have h0 := @record_get φ (hφ)
  have h1 := @send_get φ (Fld.mono hφ rfl)
  unfold judgeRas
  with_reducible
    repeat' first
    | rfl | refine (h0 _ _ _).trans ?_ | refine (h1 _ _).trans ?_ | refine get_ite_of (fun _ => ?_) (fun _ => ?_)
    | split | dsimp only

/-- Fields that execSyncPulse may change. -/
def syncPulseF : List Fld :=
  [.rasBaseB, .rasAtB, .rasArmedB, .rasCheck, .syncRas, .hub, .answers]

theorem execSyncPulse_kept {φ : Fld} (hφ : φ ∉ syncPulseF) (s : State)  :
    Kept φ (execSyncPulse s) s := by
  have h0 := @modHub_get φ (Fld.mono hφ rfl)
  have h1 := @reportRas_get φ (Fld.mono hφ rfl)
  have h2 := @setRasArmedB_get φ (Fld.mono hφ rfl)
  have h3 := @setRasAtB_get φ (Fld.mono hφ rfl)
  have h4 := @setRasBaseB_get φ (Fld.mono hφ rfl)
  have h5 := @setRasCheck_get φ (Fld.mono hφ rfl)
  have h6 := @setSyncRas_get φ (Fld.mono hφ rfl)
  unfold execSyncPulse
  with_reducible
    repeat' first
    | rfl | refine (h0 _ _ _).trans ?_ | refine (h1 _ _).trans ?_ | refine (h2 _ _).trans ?_
    | refine (h3 _ _).trans ?_ | refine (h4 _ _).trans ?_ | refine (h5 _ _).trans ?_ | refine (h6 _ _).trans ?_
    | refine (each_get _ _ (fun _ _ => ?_) _).trans ?_ | refine kept_next.2 ?_
    | refine kept_ite (fun _ => ?_) (fun _ => ?_) | refine get_ite_of (fun _ => ?_) (fun _ => ?_) | split | dsimp only

theorem moveSites_get {φ : Fld} (hφ : φ ∉ [.hub]) (x y : Nat) (sites : List Nat) (s : State)  :
    φ.get (moveSites x y sites s) = φ.get s := by
  have h0 := @modHub_get φ (hφ)
  unfold moveSites
  with_reducible
    repeat' first
    | rfl | refine (h0 _ _ _).trans ?_ | refine (foldl_get _ _ (fun _ _ => ?_) _).trans ?_
    | refine (foldl_fst_get _ _ (fun _ _ => ?_) _).trans ?_ | refine (foldl_snd_get _ _ (fun _ _ => ?_) _).trans ?_
    | refine get_ite_of (fun _ => ?_) (fun _ => ?_) | split | dsimp only

theorem reopenContribution_get {φ : Fld} (hφ : φ ∉ [.sent, .hub, .part]) (y p : Nat) (fresh : List LedgerEntry) (s : State)  :
    φ.get (reopenContribution y p fresh s) = φ.get s := by
  have h0 := @modHub_get φ (Fld.mono hφ rfl)
  have h1 := @modPart_get φ (Fld.mono hφ rfl)
  have h2 := @setSent_get φ (Fld.mono hφ rfl)
  unfold reopenContribution
  with_reducible
    repeat' first
    | rfl | refine (h0 _ _ _).trans ?_ | refine (h1 _ _ _).trans ?_ | refine (h2 _ _).trans ?_
    | refine (foldl_get _ _ (fun _ _ => ?_) _).trans ?_ | refine (foldl_fst_get _ _ (fun _ _ => ?_) _).trans ?_
    | refine (foldl_snd_get _ _ (fun _ _ => ?_) _).trans ?_ | refine get_ite_of (fun _ => ?_) (fun _ => ?_) | split
    | dsimp only

theorem census_get {φ : Fld} (hφ : φ ∉ [.hub]) (y site : Nat) (s : State)  :
    φ.get (census y site s) = φ.get s := by
  have h0 := @modHub_get φ (hφ)
  unfold census
  with_reducible
    repeat' first
    | rfl | refine (h0 _ _ _).trans ?_ | refine (foldl_get _ _ (fun _ _ => ?_) _).trans ?_
    | refine (foldl_fst_get _ _ (fun _ _ => ?_) _).trans ?_ | refine (foldl_snd_get _ _ (fun _ _ => ?_) _).trans ?_
    | refine get_ite_of (fun _ => ?_) (fun _ => ?_) | split | dsimp only

theorem unitEvent_get {φ : Fld} (hφ : φ ∉ takeSnapshotF) (unit code : Nat) (payload : List Byte) (s : State)  :
    φ.get (unitEvent unit code payload s) = φ.get s := by
  have h0 := @hubEvent_get φ (Fld.mono hφ rfl)
  have h1 := @recordFrom_get φ (Fld.mono hφ rfl)
  have h2 := @senEvent_get φ (Fld.mono hφ rfl)
  unfold unitEvent
  with_reducible
    repeat' first
    | rfl | refine (h0 _ _ _ _).trans ?_ | refine (h1 _ _ _ _).trans ?_ | refine (h2 _ _ _ _).trans ?_
    | refine get_ite_of (fun _ => ?_) (fun _ => ?_) | split | dsimp only

/-- Fields that execLinkWatchdogExpiry may change. -/
def linkWatchdogExpiryF : List Fld :=
  logF ++ ([.slot, .journalSeq, .journal, .health, .unflushed, .deepPassed, .marginPrev, .sparesLow, .sen, .hub,
    .part, .xlat0, .xlat1, .routes0, .routes1, .screens, .screenReqs, .links, .stop, .gcount, .coreTx, .coreTag] : List Fld)

theorem execLinkWatchdogExpiry_kept {φ : Fld} (hφ : φ ∉ linkWatchdogExpiryF) (link : MidLink) (s : State)  :
    Kept φ (execLinkWatchdogExpiry link s) s := by
  have h0 := @checkContribution_get φ (Fld.mono hφ rfl)
  have h1 := @countHub_get φ (Fld.mono hφ rfl)
  have h2 := @hubEvent_get φ (Fld.mono hφ rfl)
  have h3 := @loseSentinel_get φ (Fld.mono hφ rfl)
  have h4 := @moveSites_get φ (Fld.mono hφ rfl)
  have h5 := @reopenContribution_get φ (Fld.mono hφ rfl)
  have h6 := @resumeBoundaries_get φ (Fld.mono hφ rfl)
  have h7 := @send_get φ (Fld.mono hφ rfl)
  have h8 := @setLinks_get φ (Fld.mono hφ rfl)
  have h9 := @unitEvent_get φ (Fld.mono hφ rfl)
  unfold execLinkWatchdogExpiry
  with_reducible
    repeat' first
    | rfl | refine (h0 _ _ _).trans ?_ | refine (h1 _ _ _ _).trans ?_ | refine (h2 _ _ _ _).trans ?_
    | refine (h3 _ _).trans ?_ | refine (h4 _ _ _ _).trans ?_ | refine (h5 _ _ _ _).trans ?_ | refine (h6 _).trans ?_
    | refine (h7 _ _).trans ?_ | refine (h8 _ _).trans ?_ | refine (h9 _ _ _ _).trans ?_
    | refine (each_get _ _ (fun _ _ => ?_) _).trans ?_ | refine kept_next.2 ?_
    | refine kept_ite (fun _ => ?_) (fun _ => ?_) | refine get_ite_of (fun _ => ?_) (fun _ => ?_) | split | dsimp only

theorem execHubBufferFreed_kept {φ : Fld} (hφ : φ ∉ [.sent, .hub]) (hub index : Nat) (s : State)  :
    Kept φ (execHubBufferFreed hub index s) s := by
  have h0 := @modHub_get φ (Fld.mono hφ rfl)
  have h1 := @send_get φ (Fld.mono hφ rfl)
  unfold execHubBufferFreed
  with_reducible
    repeat' first
    | rfl | refine (h0 _ _ _).trans ?_ | refine (h1 _ _).trans ?_ | refine kept_next.2 ?_
    | refine kept_ite (fun _ => ?_) (fun _ => ?_) | refine get_ite_of (fun _ => ?_) (fun _ => ?_) | split | dsimp only

theorem execReservedClassDiscard_kept {φ : Fld} (hφ : φ ∉ [.sent, .hub]) (hub cls opcode : Nat) (s : State)  :
    Kept φ (execReservedClassDiscard hub cls opcode s) s := by
  have h0 := @countHub_get φ (Fld.mono hφ rfl)
  have h1 := @hubEvent_get φ (Fld.mono hφ rfl)
  have h2 := @modHub_get φ (Fld.mono hφ rfl)
  unfold execReservedClassDiscard
  with_reducible
    repeat' first
    | rfl | refine (h0 _ _ _ _).trans ?_ | refine (h1 _ _ _ _).trans ?_ | refine (h2 _ _ _).trans ?_
    | refine kept_next.2 ?_ | refine kept_ite (fun _ => ?_) (fun _ => ?_)
    | refine get_ite_of (fun _ => ?_) (fun _ => ?_) | split | dsimp only

theorem execHubWatchTimer_kept {φ : Fld} (hφ : φ ∉ [.sent]) (hub : Nat) (s : State)  :
    Kept φ (execHubWatchTimer hub s) s := by
  have h0 := @send_get φ (hφ)
  unfold execHubWatchTimer
  with_reducible
    repeat' first
    | rfl | refine (h0 _ _).trans ?_ | refine kept_next.2 ?_ | refine kept_ite (fun _ => ?_) (fun _ => ?_)
    | refine get_ite_of (fun _ => ?_) (fun _ => ?_) | split | dsimp only

theorem execHubWatch_kept {φ : Fld} (hφ : φ ∉ [.sent, .hub]) (sector : Nat) (s : State)  :
    Kept φ (execHubWatch sector s) s := by
  have h0 := @modHub_get φ (Fld.mono hφ rfl)
  unfold execHubWatch
  with_reducible
    repeat' first
    | rfl | refine (h0 _ _ _).trans ?_ | refine arrive_kept (Fld.mono hφ rfl) _ _ _ (fun _ => ?_)
    | refine kept_next.2 ?_ | refine kept_ite (fun _ => ?_) (fun _ => ?_)
    | refine get_ite_of (fun _ => ?_) (fun _ => ?_) | split | dsimp only

/-- Fields that loseSector may change. -/
def loseSectorF : List Fld :=
  logF ++ ([.journalSeq, .journal, .health, .unflushed, .sparesLow, .sen, .hub, .part, .xlat0, .xlat1, .routes0,
    .routes1, .throttle] : List Fld)

theorem loseSector_get {φ : Fld} (hφ : φ ∉ loseSectorF) (x : Nat) (s : State)  :
    φ.get (loseSector x s) = φ.get s := by
  have h0 := @decideStage_get φ (Fld.mono hφ rfl)
  have h1 := @loseSentinel_get φ (Fld.mono hφ rfl)
  have h2 := @modHub_get φ (Fld.mono hφ rfl)
  have h3 := @modThrottle_get φ (Fld.mono hφ rfl)
  unfold loseSector
  with_reducible
    repeat' first
    | rfl | refine (h0 _ _).trans ?_ | refine (h1 _ _).trans ?_ | refine (h2 _ _ _).trans ?_
    | refine (h3 _ _).trans ?_ | refine (each_get _ _ (fun _ _ => ?_) _).trans ?_
    | refine get_ite_of (fun _ => ?_) (fun _ => ?_) | split | dsimp only

theorem captureRepeat_get {φ : Fld} (hφ : φ ∉ discardRunF) (h site : Nat) (c : Capture) (s : State)  :
    φ.get (captureRepeat h site c s) = φ.get s := by
  have h0 := @requestRepeat_get φ (hφ)
  have h1 := @sampleDraw_get φ (Fld.mono hφ rfl)
  unfold captureRepeat
  with_reducible
    repeat' first
    | rfl | refine (h0 _ _ _).trans ?_ | refine (h1 _ _).trans ?_ | refine get_ite_of (fun _ => ?_) (fun _ => ?_)
    | split | dsimp only

theorem moveMaster_get {φ : Fld} (hφ : φ ∉ [.throttle]) (s : State)  :
    φ.get (moveMaster s) = φ.get s := by
  have h0 := @modThrottle_get φ (hφ)
  unfold moveMaster
  with_reducible
    repeat' first
    | rfl | refine (h0 _ _).trans ?_ | refine get_ite_of (fun _ => ?_) (fun _ => ?_) | split | dsimp only

theorem adoptStep_get {φ : Fld} (hφ : φ ∉ discardRunF) (x y p : Nat) (sites : List Nat) (late : Option Instr) (s : State)  :
    φ.get (adoptStep x y p sites late s) = φ.get s := by
  have h0 := @checkContribution_get φ (Fld.mono hφ rfl)
  have h1 := @endBoundary_get φ (Fld.mono hφ rfl)
  have h2 := @modHub_get φ (Fld.mono hφ rfl)
  have h3 := @modSen_get φ (Fld.mono hφ rfl)
  have h4 := @moveSites_get φ (Fld.mono hφ rfl)
  have h5 := @reopenContribution_get φ (Fld.mono hφ rfl)
  have h6 := @setSent_get φ (Fld.mono hφ rfl)
  unfold adoptStep
  with_reducible
    repeat' first
    | rfl | refine (h0 _ _ _).trans ?_ | refine (h1 _ _ _ _).trans ?_ | refine (h2 _ _ _).trans ?_
    | refine (h3 _ _ _).trans ?_ | refine (h4 _ _ _ _).trans ?_ | refine (h5 _ _ _ _).trans ?_
    | refine (h6 _ _).trans ?_ | refine (each_get _ _ (fun _ _ => ?_) _).trans ?_
    | refine (foldl_get _ _ (fun _ _ => ?_) _).trans ?_ | refine (foldl_fst_get _ _ (fun _ _ => ?_) _).trans ?_
    | refine (foldl_snd_get _ _ (fun _ _ => ?_) _).trans ?_ | refine get_ite_of (fun _ => ?_) (fun _ => ?_) | split
    | dsimp only

/-- Fields that adoptSector may change. -/
def adoptSectorF : List Fld :=
  logF ++ ([.takeover, .journalSeq, .journal, .rasCheck, .health, .unflushed, .deepPassed, .marginPrev,
    .sparesLow, .sen, .hub, .part, .xlat0, .xlat1, .routes0, .routes1, .screens, .throttle] : List Fld)

theorem adoptSector_get {φ : Fld} (hφ : φ ∉ adoptSectorF) (x y : Nat) (s : State)  :
    φ.get (adoptSector x y s) = φ.get s := by
  have h0 := @adoptStep_get φ (Fld.mono hφ rfl)
  have h1 := @captureRepeat_get φ (Fld.mono hφ rfl)
  have h2 := @census_get φ (Fld.mono hφ rfl)
  have h3 := @discardRun_get φ (Fld.mono hφ rfl)
  have h4 := @hubEvent_get φ (Fld.mono hφ rfl)
  have h5 := @joinPass_get φ (Fld.mono hφ rfl)
  have h6 := @loseSentinel_get φ (Fld.mono hφ rfl)
  have h7 := @modHub_get φ (Fld.mono hφ rfl)
  have h8 := @modPart_get φ (Fld.mono hφ rfl)
  have h9 := @modSen_get φ (Fld.mono hφ rfl)
  have h10 := @moveMaster_get φ (Fld.mono hφ rfl)
  have h11 := @replayResult_get φ (Fld.mono hφ rfl)
  have h12 := @send_get φ (Fld.mono hφ rfl)
  have h13 := @sendAll_get φ (Fld.mono hφ rfl)
  have h14 := @setRasCheck_get φ (Fld.mono hφ rfl)
  have h15 := @setSent_get φ (Fld.mono hφ rfl)
  have h16 := @setTakeover_get φ (Fld.mono hφ rfl)
  unfold adoptSector
  with_reducible
    repeat' first
    | rfl | refine (h0 _ _ _ _ _ _).trans ?_ | refine (h1 _ _ _ _).trans ?_ | refine (h2 _ _ _).trans ?_
    | refine (h3 _ _ _).trans ?_ | refine (h4 _ _ _ _).trans ?_ | refine (h5 _ _ _).trans ?_
    | refine (h6 _ _).trans ?_ | refine (h7 _ _ _).trans ?_ | refine (h8 _ _ _).trans ?_ | refine (h9 _ _ _).trans ?_
    | refine (h10 _).trans ?_ | refine (h11 _ _ _).trans ?_ | refine (h12 _ _).trans ?_ | refine (h13 _ _).trans ?_
    | refine (h14 _ _).trans ?_ | refine (h15 _ _).trans ?_ | refine (h16 _ _).trans ?_
    | refine (each_get _ _ (fun _ _ => ?_) _).trans ?_ | refine (foldl_get _ _ (fun _ _ => ?_) _).trans ?_
    | refine (foldl_fst_get _ _ (fun _ _ => ?_) _).trans ?_ | refine (foldl_snd_get _ _ (fun _ _ => ?_) _).trans ?_
    | refine get_ite_of (fun _ => ?_) (fun _ => ?_) | split | dsimp only

/-- Fields that failHub may change. -/
def failHubF : List Fld :=
  logF ++ ([.slot, .takeover, .journalSeq, .journal, .rasCheck, .health, .unflushed, .deepPassed, .marginPrev,
    .sparesLow, .sen, .hub, .part, .xlat0, .xlat1, .routes0, .routes1, .screens, .screenReqs, .throttle, .stop,
    .gcount, .coreTx, .coreTag] : List Fld)

theorem failHub_get {φ : Fld} (hφ : φ ∉ failHubF) (x : Nat) (s : State)  :
    φ.get (failHub x s) = φ.get s := by
  have h0 := @adoptSector_get φ (Fld.mono hφ rfl)
  have h1 := @loseSector_get φ (Fld.mono hφ rfl)
  have h2 := @loseSentinel_get φ (Fld.mono hφ rfl)
  have h3 := @moveMaster_get φ (Fld.mono hφ rfl)
  have h4 := @resumeBoundaries_get φ (Fld.mono hφ rfl)
  unfold failHub
  with_reducible
    repeat' first
    | rfl | refine (h0 _ _ _).trans ?_ | refine (h1 _ _).trans ?_ | refine (h2 _ _).trans ?_ | refine (h3 _).trans ?_
    | refine (h4 _).trans ?_ | refine (each_get _ _ (fun _ _ => ?_) _).trans ?_
    | refine get_ite_of (fun _ => ?_) (fun _ => ?_) | split | dsimp only

end Sys2Proof.Machine
end

