-- ==== Sys2Proof/Laws/FrameLog.lean ====
section
/-!
SUPPORT. Frames of the operations of Machine/Log.lean.
-/
namespace Sys2Proof.Machine

open Sys2Proof

set_option linter.all false
set_option Elab.async false

theorem execEvent_kept {φ : Fld} (hφ : φ ∉ endReplaysF) (ev : EventMsg) (s : State)  :
    Kept φ (execEvent ev s) s := by
  have h0 := @accept_get φ (Fld.mono hφ rfl)
  unfold execEvent
  with_reducible
    repeat' first
    | rfl | refine (h0 _ _).trans ?_ | refine arrive_kept (Fld.mono hφ rfl) _ _ _ (fun _ => ?_)
    | refine kept_next.2 ?_ | refine kept_ite (fun _ => ?_) (fun _ => ?_)
    | refine get_ite_of (fun _ => ?_) (fun _ => ?_) | split | dsimp only

/-- Fields that execRecordMirror may change. -/
def recordMirrorF : List Fld :=
  [.sent, .mramA, .mramB, .hub, .recorder]

theorem execRecordMirror_kept {φ : Fld} (hφ : φ ∉ recordMirrorF) (index : Nat) (r : Rec) (s : State)  :
    Kept φ (execRecordMirror index r s) s := by
  have h0 := @mirrorWrite_get φ (Fld.mono hφ rfl)
  have h1 := @modRec_get φ (Fld.mono hφ rfl)
  have h2 := @receive_get φ (Fld.mono hφ rfl)
  have h3 := @send_get φ (Fld.mono hφ rfl)
  unfold execRecordMirror
  with_reducible
    repeat' first
    | rfl | refine (h0 _ _).trans ?_ | refine (h1 _ _).trans ?_ | refine (h2 _ _).trans ?_ | refine (h3 _ _).trans ?_
    | refine kept_next.2 ?_ | refine kept_ite (fun _ => ?_) (fun _ => ?_)
    | refine get_ite_of (fun _ => ?_) (fun _ => ?_) | split | dsimp only

theorem execMirrorAck_kept {φ : Fld} (hφ : φ ∉ [.sent, .hub, .recorder]) (index : Nat) (s : State)  :
    Kept φ (execMirrorAck index s) s := by
  have h0 := @modRec_get φ (Fld.mono hφ rfl)
  have h1 := @receive_get φ (Fld.mono hφ rfl)
  unfold execMirrorAck
  with_reducible
    repeat' first
    | rfl | refine (h0 _ _).trans ?_ | refine (h1 _ _).trans ?_ | refine kept_next.2 ?_
    | refine kept_ite (fun _ => ?_) (fun _ => ?_) | refine get_ite_of (fun _ => ?_) (fun _ => ?_) | split | dsimp only

theorem execMirrorAckTimeout_kept {φ : Fld} (hφ : φ ∉ acceptIntoF) (index : Nat) (s : State)  :
    Kept φ (execMirrorAckTimeout index s) s := by
  have h0 := @modRec_get φ (Fld.mono hφ rfl)
  have h1 := @recorderAlert_get φ (Fld.mono hφ rfl)
  unfold execMirrorAckTimeout
  with_reducible
    repeat' first
    | rfl | refine (h0 _ _).trans ?_ | refine (h1 _ _).trans ?_ | refine kept_next.2 ?_
    | refine kept_ite (fun _ => ?_) (fun _ => ?_) | refine get_ite_of (fun _ => ?_) (fun _ => ?_) | split | dsimp only

theorem rejoinMirror_get {φ : Fld} (hφ : φ ∉ [.mramA, .mramB, .recorder]) (s : State)  :
    φ.get (rejoinMirror s) = φ.get s := by
  have h0 := @mirrorWrite_get φ (hφ)
  have h1 := @modRec_get φ (Fld.mono hφ rfl)
  have h2 := @setMramA_get φ (Fld.mono hφ rfl)
  have h3 := @setMramB_get φ (Fld.mono hφ rfl)
  unfold rejoinMirror
  with_reducible
    repeat' first
    | rfl | refine (h0 _ _).trans ?_ | refine (h1 _ _).trans ?_ | refine (h2 _ _).trans ?_ | refine (h3 _ _).trans ?_
    | refine get_ite_of (fun _ => ?_) (fun _ => ?_) | split | dsimp only

/-- Fields that execStandbyRejoin may change. -/
def standbyRejoinF : List Fld :=
  [.checked, .mramA, .mramB, .recorder]

theorem execStandbyRejoin_kept {φ : Fld} (hφ : φ ∉ standbyRejoinF) (s : State)  :
    Kept φ (execStandbyRejoin s) s := by
  have h0 := @rejoinMirror_get φ (Fld.mono hφ rfl)
  have h1 := @setChecked_get φ (Fld.mono hφ rfl)
  unfold execStandbyRejoin
  with_reducible
    repeat' first
    | rfl | refine (h0 _).trans ?_ | refine (h1 _ _).trans ?_ | refine kept_next.2 ?_
    | refine kept_ite (fun _ => ?_) (fun _ => ?_) | refine get_ite_of (fun _ => ?_) (fun _ => ?_) | split | dsimp only

theorem execRingBatchWrite_kept {φ : Fld} (hφ : φ ∉ acceptF) (count : Nat) (s : State)  :
    Kept φ (execRingBatchWrite count s) s := by
  have h0 := @acceptWaiting_get φ (hφ)
  have h1 := @drained_get φ (Fld.mono hφ rfl)
  have h2 := @modRec_get φ (Fld.mono hφ rfl)
  have h3 := @ringWrite_get φ (Fld.mono hφ rfl)
  unfold execRingBatchWrite
  with_reducible
    repeat' first
    | rfl | refine (h0 _ _).trans ?_ | refine (h1 _).trans ?_ | refine (h2 _ _).trans ?_ | refine (h3 _ _).trans ?_
    | refine kept_next.2 ?_ | refine kept_ite (fun _ => ?_) (fun _ => ?_)
    | refine get_ite_of (fun _ => ?_) (fun _ => ?_) | split | dsimp only

theorem suppressionSummary_get {φ : Fld} (hφ : φ ∉ acceptF) (window : Dword) (x : Suppressed) (s : State)  :
    φ.get (suppressionSummary window x s) = φ.get s := by
  have h0 := @accept_get φ (hφ)
  unfold suppressionSummary
  with_reducible
    repeat' first
    | rfl | refine (h0 _ _).trans ?_ | refine get_ite_of (fun _ => ?_) (fun _ => ?_) | split | dsimp only

theorem execRateWindowStart_kept {φ : Fld} (hφ : φ ∉ acceptF) (s : State)  :
    Kept φ (execRateWindowStart s) s := by
  have h0 := @modRec_get φ (Fld.mono hφ rfl)
  have h1 := @suppressionSummary_get φ (hφ)
  unfold execRateWindowStart
  with_reducible
    repeat' first
    | rfl | refine (h0 _ _).trans ?_ | refine (h1 _ _ _).trans ?_ | refine (each_get _ _ (fun _ _ => ?_) _).trans ?_
    | refine kept_next.2 ?_ | refine kept_ite (fun _ => ?_) (fun _ => ?_)
    | refine get_ite_of (fun _ => ?_) (fun _ => ?_) | split | dsimp only

theorem execDropSummarySecond_kept {φ : Fld} (hφ : φ ∉ acceptIntoF) (s : State)  :
    Kept φ (execDropSummarySecond s) s := by
  have h0 := @dropSummary_get φ (hφ)
  unfold execDropSummarySecond
  with_reducible
    repeat' first
    | rfl | refine (h0 _).trans ?_ | refine kept_next.2 ?_ | refine kept_ite (fun _ => ?_) (fun _ => ?_)
    | refine get_ite_of (fun _ => ?_) (fun _ => ?_) | split | dsimp only

theorem execFreezeLimitExpiry_kept {φ : Fld} (hφ : φ ∉ thawF) (s : State)  :
    Kept φ (execFreezeLimitExpiry s) s := by
  have h0 := @thaw_get φ (hφ)
  unfold execFreezeLimitExpiry
  with_reducible
    repeat' first
    | rfl | refine (h0 _ _).trans ?_ | refine kept_next.2 ?_ | refine kept_ite (fun _ => ?_) (fun _ => ?_)
    | refine get_ite_of (fun _ => ?_) (fun _ => ?_) | split | dsimp only

theorem execLogFreeze_kept {φ : Fld} (hφ : φ ∉ logF) (seq : Nat) (s : State)  :
    Kept φ (execLogFreeze seq s) s := by
  have h0 := @complete_get φ (hφ)
  have h1 := @modRec_get φ (Fld.mono hφ rfl)
  unfold execLogFreeze
  with_reducible
    repeat' first
    | rfl | refine (h0 _ _ _ _).trans ?_ | refine (h1 _ _).trans ?_ | refine runCmd_kept (Fld.mono hφ rfl) _ _ _ _ ?_
    | refine kept_next.2 ?_ | refine kept_ite (fun _ => ?_) (fun _ => ?_)
    | refine get_ite_of (fun _ => ?_) (fun _ => ?_) | split | dsimp only

theorem execLogThaw_kept {φ : Fld} (hφ : φ ∉ logF) (seq : Nat) (s : State)  :
    Kept φ (execLogThaw seq s) s := by
  have h0 := @complete_get φ (hφ)
  have h1 := @thaw_get φ (Fld.mono hφ rfl)
  unfold execLogThaw
  with_reducible
    repeat' first
    | rfl | refine (h0 _ _ _ _).trans ?_ | refine (h1 _ _).trans ?_ | refine runCmd_kept (Fld.mono hφ rfl) _ _ _ _ ?_
    | refine kept_next.2 ?_ | refine kept_ite (fun _ => ?_) (fun _ => ?_)
    | refine get_ite_of (fun _ => ?_) (fun _ => ?_) | split | dsimp only

theorem execLogClear_kept {φ : Fld} (hφ : φ ∉ logF) (seq : Nat) (s : State)  :
    Kept φ (execLogClear seq s) s := by
  have h0 := @complete_get φ (hφ)
  have h1 := @modRec_get φ (Fld.mono hφ rfl)
  have h2 := @record_get φ (hφ)
  have h3 := @setMramA_get φ (Fld.mono hφ rfl)
  have h4 := @setMramB_get φ (Fld.mono hφ rfl)
  unfold execLogClear
  with_reducible
    repeat' first
    | rfl | refine (h0 _ _ _ _).trans ?_ | refine (h1 _ _).trans ?_ | refine (h2 _ _ _).trans ?_
    | refine (h3 _ _).trans ?_ | refine (h4 _ _).trans ?_ | refine runCmd_kept (Fld.mono hφ rfl) _ _ _ _ ?_
    | refine kept_next.2 ?_ | refine kept_ite (fun _ => ?_) (fun _ => ?_)
    | refine get_ite_of (fun _ => ?_) (fun _ => ?_) | split | dsimp only

theorem execLogMark_kept {φ : Fld} (hφ : φ ∉ acceptF) (seq : Nat) (s : State)  :
    Kept φ (execLogMark seq s) s := by
  have h0 := @accept_get φ (hφ)
  have h1 := @complete_get φ (Fld.mono hφ rfl)
  unfold execLogMark
  with_reducible
    repeat' first
    | rfl | refine (h0 _ _).trans ?_ | refine (h1 _ _ _ _).trans ?_ | refine runCmd_kept (Fld.mono hφ rfl) _ _ _ _ ?_
    | refine kept_next.2 ?_ | refine kept_ite (fun _ => ?_) (fun _ => ?_)
    | refine get_ite_of (fun _ => ?_) (fun _ => ?_) | split | dsimp only

/-- Fields that execTimeSetCalendar may change. -/
def timeSetCalendarF : List Fld :=
  logF ++ ([.islandA, .islandB] : List Fld)

theorem execTimeSetCalendar_kept {φ : Fld} (hφ : φ ∉ timeSetCalendarF) (seq : Nat) (s : State)  :
    Kept φ (execTimeSetCalendar seq s) s := by
  have h0 := @calendarMark_get φ (Fld.mono hφ rfl)
  have h1 := @complete_get φ (Fld.mono hφ rfl)
  have h2 := @modIsland_get φ (Fld.mono hφ rfl)
  have h3 := @modWin_get φ (Fld.mono hφ rfl)
  unfold execTimeSetCalendar
  with_reducible
    repeat' first
    | rfl | refine (h0 _ _ _).trans ?_ | refine (h1 _ _ _ _).trans ?_ | refine (h2 _ _ _).trans ?_
    | refine (h3 _ _).trans ?_ | refine runCmd_kept (Fld.mono hφ rfl) _ _ _ _ ?_ | refine kept_next.2 ?_
    | refine kept_ite (fun _ => ?_) (fun _ => ?_) | refine get_ite_of (fun _ => ?_) (fun _ => ?_) | split | dsimp only

theorem execHourlyCalendarMark_kept {φ : Fld} (hφ : φ ∉ logF) (s : State)  :
    Kept φ (execHourlyCalendarMark s) s := by
  have h0 := @calendarMark_get φ (hφ)
  unfold execHourlyCalendarMark
  with_reducible
    repeat' first
    | rfl | refine (h0 _ _ _).trans ?_ | refine kept_next.2 ?_ | refine kept_ite (fun _ => ?_) (fun _ => ?_)
    | refine get_ite_of (fun _ => ?_) (fun _ => ?_) | split | dsimp only

/-- Fields that writeBoot may change. -/
def writeBootF : List Fld :=
  [.sent, .boot, .mramA, .mramB]

theorem writeBoot_get {φ : Fld} (hφ : φ ∉ writeBootF) (f : BootCtl → BootCtl) (s : State)  :
    φ.get (writeBoot f s) = φ.get s := by
  have h0 := @modBoot_get φ (Fld.mono hφ rfl)
  have h1 := @mramBoth_get φ (Fld.mono hφ rfl)
  unfold writeBoot
  with_reducible
    repeat' first
    | rfl | refine (h0 _ _).trans ?_ | refine (h1 _ _ _).trans ?_ | refine get_ite_of (fun _ => ?_) (fun _ => ?_)
    | split | dsimp only

/-- Fields that execCounterCopyTimer may change. -/
def counterCopyTimerF : List Fld :=
  [.sent, .boot, .islandA, .islandB, .mramA, .mramB]

theorem execCounterCopyTimer_kept {φ : Fld} (hφ : φ ∉ counterCopyTimerF) (s : State)  :
    Kept φ (execCounterCopyTimer s) s := by
  have h0 := @modIsland_get φ (Fld.mono hφ rfl)
  have h1 := @writeBoot_get φ (Fld.mono hφ rfl)
  unfold execCounterCopyTimer
  with_reducible
    repeat' first
    | rfl | refine (h0 _ _ _).trans ?_ | refine (h1 _ _).trans ?_ | refine kept_next.2 ?_
    | refine kept_ite (fun _ => ?_) (fun _ => ?_) | refine get_ite_of (fun _ => ?_) (fun _ => ?_) | split | dsimp only

/-- Fields that execMramWrite may change. -/
def mramWriteF : List Fld :=
  [.sent, .mramA, .mramB, .hub]

theorem execMramWrite_kept {φ : Fld} (hφ : φ ∉ mramWriteF) (die offset : Nat) (data : List Byte) (s : State)  :
    Kept φ (execMramWrite die offset data s) s := by
  have h0 := @mramPut_get φ (Fld.mono hφ rfl)
  have h1 := @receive_get φ (Fld.mono hφ rfl)
  unfold execMramWrite
  with_reducible
    repeat' first
    | rfl | refine (h0 _ _ _ _).trans ?_ | refine (h1 _ _).trans ?_ | refine kept_next.2 ?_
    | refine kept_ite (fun _ => ?_) (fun _ => ?_) | refine get_ite_of (fun _ => ?_) (fun _ => ?_) | split | dsimp only

/-- Fields that flushCount may change. -/
def flushCountF : List Fld :=
  [.sent, .mramA, .mramB, .health, .unflushed]

theorem flushCount_get {φ : Fld} (hφ : φ ∉ flushCountF) (site : Nat) (s : State)  :
    φ.get (flushCount site s) = φ.get s := by
  have h0 := @setUnflushed_get φ (Fld.mono hφ rfl)
  have h1 := @writeSite_get φ (Fld.mono hφ rfl)
  unfold flushCount
  with_reducible
    repeat' first
    | rfl | refine (h0 _ _).trans ?_ | refine (h1 _ _).trans ?_ | refine get_ite_of (fun _ => ?_) (fun _ => ?_)
    | split | dsimp only

theorem execHistoryCountFlush_kept {φ : Fld} (hφ : φ ∉ flushCountF) (site : Nat) (s : State)  :
    Kept φ (execHistoryCountFlush site s) s := by
  have h0 := @flushCount_get φ (hφ)
  unfold execHistoryCountFlush
  with_reducible
    repeat' first
    | rfl | refine (h0 _ _).trans ?_ | refine kept_next.2 ?_ | refine kept_ite (fun _ => ?_) (fun _ => ?_)
    | refine get_ite_of (fun _ => ?_) (fun _ => ?_) | split | dsimp only

end Sys2Proof.Machine
end

