-- ==== Sys2Proof/Laws/FrameMailbox.lean ====
section
/-!
SUPPORT. Frames of the operations of Machine/Mailbox.lean.
-/
namespace Sys2Proof.Machine

open Sys2Proof

set_option linter.all false
set_option Elab.async false

theorem acceptCmd_get {φ : Fld} (hφ : φ ∉ [.win]) (c : Cmd) (lock : Bool) (s : State)  :
    φ.get (acceptCmd c lock s) = φ.get s := by
  have h0 := @modWin_get φ (hφ)
  unfold acceptCmd
  with_reducible
    repeat' first
    | rfl | refine (h0 _ _).trans ?_ | refine get_ite_of (fun _ => ?_) (fun _ => ?_) | split | dsimp only

theorem oobAck_get {φ : Fld} (hφ : φ ∉ [.portA, .portB]) (die eid status op : Nat) (tag : Word) (seq : Nat) (s : State)  :
    φ.get (oobAck die eid status op tag seq s) = φ.get s := by
  have h0 := @modPort_get φ (hφ)
  unfold oobAck
  with_reducible
    repeat' first
    | rfl | refine (h0 _ _ _).trans ?_ | refine get_ite_of (fun _ => ?_) (fun _ => ?_) | split | dsimp only

theorem acknowledge_get {φ : Fld} (hφ : φ ∉ [.win, .portA, .portB]) (ch : Nat) (s : State)  :
    φ.get (acknowledge ch s) = φ.get s := by
  have h0 := @acceptCmd_get φ (Fld.mono hφ rfl)
  have h1 := @modChannel_get φ (Fld.mono hφ rfl)
  have h2 := @oobAck_get φ (Fld.mono hφ rfl)
  unfold acknowledge
  with_reducible
    repeat' first
    | rfl | refine (h0 _ _ _).trans ?_ | refine (h1 _ _ _).trans ?_ | refine (h2 _ _ _ _ _ _ _).trans ?_
    | refine get_ite_of (fun _ => ?_) (fun _ => ?_) | split | dsimp only

theorem serveMailbox_get {φ : Fld} (hφ : φ ∉ [.win, .portA, .portB]) (s : State)  :
    φ.get (serveMailbox s) = φ.get s := by
  have h0 := @acknowledge_get φ (hφ)
  unfold serveMailbox
  with_reducible
    repeat' first
    | rfl | refine (h0 _ _).trans ?_ | refine (each_get _ _ (fun _ _ => ?_) _).trans ?_
    | refine get_ite_of (fun _ => ?_) (fun _ => ?_) | split | dsimp only

theorem submitOn_get {φ : Fld} (hφ : φ ∉ [.win, .portA, .portB]) (ch : Nat) (priv : Priv) (oob : Option (Nat × Nat)) (bulk : List Byte) (s : State)  :
    φ.get (submitOn ch priv oob bulk s) = φ.get s := by
  have h0 := @acknowledge_get φ (hφ)
  have h1 := @modChannel_get φ (Fld.mono hφ rfl)
  unfold submitOn
  with_reducible
    repeat' first
    | rfl | refine (h0 _ _).trans ?_ | refine (h1 _ _ _).trans ?_ | refine get_ite_of (fun _ => ?_) (fun _ => ?_)
    | split | dsimp only

end Sys2Proof.Machine
end

