-- ==== Sys2Proof/Laws/FrameBringUp.lean ====
section
/-!
SUPPORT. Frames of the operations of Machine/BringUp.lean.
-/
namespace Sys2Proof.Machine

open Sys2Proof

set_option linter.all false
set_option Elab.async false

theorem endStep_get {φ : Fld} (hφ : φ ∉ [.boot]) (n : Nat) (s : State)  :
    φ.get (endStep n s) = φ.get s := by
  have h0 := @modBoot_get φ (hφ)
  unfold endStep
  with_reducible
    repeat' first
    | rfl | refine (h0 _ _).trans ?_ | refine get_ite_of (fun _ => ?_) (fun _ => ?_) | split | dsimp only

theorem countCycle_get {φ : Fld} (hφ : φ ∉ timeSetCalendarF) (die offTime : Nat) (s : State)  :
    φ.get (countCycle die offTime s) = φ.get s := by
  have h0 := @modIsland_get φ (Fld.mono hφ rfl)
  have h1 := @record_get φ (Fld.mono hφ rfl)
  unfold countCycle
  with_reducible
    repeat' first
    | rfl | refine (h0 _ _ _).trans ?_ | refine (h1 _ _ _).trans ?_ | refine get_ite_of (fun _ => ?_) (fun _ => ?_)
    | split | dsimp only

theorem noteInvalid_get {φ : Fld} (hφ : φ ∉ logF) (die slot test type : Nat) (s : State)  :
    φ.get (noteInvalid die slot test type s) = φ.get s := by
  have h0 := @modBoot_get φ (Fld.mono hφ rfl)
  have h1 := @record_get φ (hφ)
  unfold noteInvalid
  with_reducible
    repeat' first
    | rfl | refine (h0 _ _).trans ?_ | refine (h1 _ _ _).trans ?_ | refine get_ite_of (fun _ => ?_) (fun _ => ?_)
    | split | dsimp only

theorem setTry_get {φ : Fld} (hφ : φ ∉ [.boot]) (die : Nat) (slots : List Nat) (auth : Bool) (s : State)  :
    φ.get (setTry die slots auth s) = φ.get s := by
  have h0 := @modBoot_get φ (hφ)
  unfold setTry
  with_reducible
    repeat' first
    | rfl | refine (h0 _ _).trans ?_ | refine get_ite_of (fun _ => ?_) (fun _ => ?_) | split | dsimp only

theorem trySlots_get {φ : Fld} (hφ : φ ∉ logF) (die : Nat) (p : PowerUp) (x0 : List Nat) (s : State) :
    φ.get (trySlots die p x0 s) = φ.get s := by
  induction x0 generalizing s with
  | nil => unfold trySlots; simp only [setTry_get (Fld.mono hφ (G := [.boot]) rfl)]
  | cons k ks ih =>
    unfold trySlots
    repeat' first
      | with_reducible rfl
      | simp only [ih, setTry_get (Fld.mono hφ (G := [.boot]) rfl), noteInvalid_get (Fld.mono hφ (G := logF) rfl)]
      | split

theorem selectSlot_get {φ : Fld} (hφ : φ ∉ logF) (die cause : Nat) (p : PowerUp) (s : State)  :
    φ.get (selectSlot die cause p s) = φ.get s := by
  have h0 := @modBoot_get φ (Fld.mono hφ rfl)
  have h1 := @mramPut_get φ (Fld.mono hφ rfl)
  have h2 := @record_get φ (hφ)
  have h3 := @trySlots_get φ (hφ)
  unfold selectSlot
  with_reducible
    repeat' first
    | rfl | refine (h0 _ _).trans ?_ | refine (h1 _ _ _ _).trans ?_ | refine (h2 _ _ _).trans ?_
    | refine (h3 _ _ _ _).trans ?_ | refine get_ite_of (fun _ => ?_) (fun _ => ?_) | split | dsimp only

theorem startRecorder_get {φ : Fld} (hφ : φ ∉ acceptF) (s : State)  :
    φ.get (startRecorder s) = φ.get s := by
  have h0 := @accept_get φ (hφ)
  have h1 := @calendarMark_get φ (Fld.mono hφ rfl)
  have h2 := @dropSummary_get φ (Fld.mono hφ rfl)
  have h3 := @modBoot_get φ (Fld.mono hφ rfl)
  have h4 := @modRec_get φ (Fld.mono hφ rfl)
  have h5 := @setMramA_get φ (Fld.mono hφ rfl)
  have h6 := @setMramB_get φ (Fld.mono hφ rfl)
  unfold startRecorder
  with_reducible
    repeat' first
    | rfl | refine (h0 _ _).trans ?_ | refine (h1 _ _ _).trans ?_ | refine (h2 _).trans ?_ | refine (h3 _ _).trans ?_
    | refine (h4 _ _).trans ?_ | refine (h5 _ _).trans ?_ | refine (h6 _ _).trans ?_
    | refine (each_get _ _ (fun _ _ => ?_) _).trans ?_ | refine get_ite_of (fun _ => ?_) (fun _ => ?_) | split
    | dsimp only

/-- Fields that enterRecovery may change. -/
def enterRecoveryF : List Fld :=
  logF ++ ([.mgrA, .mgrB, .part] : List Fld)

theorem enterRecovery_get {φ : Fld} (hφ : φ ∉ enterRecoveryF) (s : State)  :
    φ.get (enterRecovery s) = φ.get s := by
  have h0 := @endStep_get φ (Fld.mono hφ rfl)
  have h1 := @modBoot_get φ (Fld.mono hφ rfl)
  have h2 := @modMgr_get φ (Fld.mono hφ rfl)
  have h3 := @raiseFatal_get φ (Fld.mono hφ rfl)
  have h4 := @record_get φ (Fld.mono hφ rfl)
  have h5 := @serveMailbox_get φ (Fld.mono hφ rfl)
  have h6 := @startRecorder_get φ (Fld.mono hφ rfl)
  unfold enterRecovery
  with_reducible
    repeat' first
    | rfl | refine (h0 _ _).trans ?_ | refine (h1 _ _).trans ?_ | refine (h2 _ _ _).trans ?_
    | refine (h3 _ _).trans ?_ | refine (h4 _ _ _).trans ?_ | refine (h5 _).trans ?_ | refine (h6 _).trans ?_
    | refine get_ite_of (fun _ => ?_) (fun _ => ?_) | split | dsimp only

/-- Fields that stepThree may change. -/
def stepThreeF : List Fld :=
  [.slot, .sent, .boot, .sensors, .sen, .hub, .throttle]

theorem stepThree_get {φ : Fld} (hφ : φ ∉ stepThreeF) (p : PowerUp) (s : State)  :
    φ.get (stepThree p s) = φ.get s := by
  have h0 := @endStep_get φ (Fld.mono hφ rfl)
  have h1 := @loadTime_get φ (Fld.mono hφ rfl)
  have h2 := @setHub_get φ (Fld.mono hφ rfl)
  have h3 := @setSen_get φ (Fld.mono hφ rfl)
  have h4 := @setSensors_get φ (Fld.mono hφ rfl)
  have h5 := @setSlot_get φ (Fld.mono hφ rfl)
  have h6 := @setThrottle_get φ (Fld.mono hφ rfl)
  unfold stepThree
  with_reducible
    repeat' first
    | rfl | refine (h0 _ _).trans ?_ | refine (h1 _).trans ?_ | refine (h2 _ _).trans ?_ | refine (h3 _ _).trans ?_
    | refine (h4 _ _).trans ?_ | refine (h5 _ _).trans ?_ | refine (h6 _ _).trans ?_
    | refine (foldl_get _ _ (fun _ _ => ?_) _).trans ?_ | refine (foldl_fst_get _ _ (fun _ _ => ?_) _).trans ?_
    | refine (foldl_snd_get _ _ (fun _ _ => ?_) _).trans ?_ | refine get_ite_of (fun _ => ?_) (fun _ => ?_) | split
    | dsimp only

/-- Fields that logSramRepair may change. -/
def logSramRepairF : List Fld :=
  [.sent, .mramA, .mramB, .sramLog]

theorem logSramRepair_get {φ : Fld} (hφ : φ ∉ logSramRepairF) (r : SramRepair) (s : State)  :
    φ.get (logSramRepair r s) = φ.get s := by
  have h0 := @mramBoth_get φ (Fld.mono hφ rfl)
  have h1 := @setSramLog_get φ (Fld.mono hφ rfl)
  unfold logSramRepair
  with_reducible
    repeat' first
    | rfl | refine (h0 _ _ _).trans ?_ | refine (h1 _ _).trans ?_ | refine get_ite_of (fun _ => ?_) (fun _ => ?_)
    | split | dsimp only

/-- Fields that stepFour may change. -/
def stepFourF : List Fld :=
  logF ++ ([.sramLog] : List Fld)

theorem stepFour_get {φ : Fld} (hφ : φ ∉ stepFourF) (p : PowerUp) (s : State)  :
    φ.get (stepFour p s) = φ.get s := by
  have h0 := @endStep_get φ (Fld.mono hφ rfl)
  have h1 := @logSramRepair_get φ (Fld.mono hφ rfl)
  have h2 := @record_get φ (Fld.mono hφ rfl)
  have h3 := @setSramLog_get φ (Fld.mono hφ rfl)
  unfold stepFour
  with_reducible
    repeat' first
    | rfl | refine (h0 _ _).trans ?_ | refine (h1 _ _).trans ?_ | refine (h2 _ _ _).trans ?_
    | refine (h3 _ _).trans ?_ | refine (each_get _ _ (fun _ _ => ?_) _).trans ?_
    | refine get_ite_of (fun _ => ?_) (fun _ => ?_) | split | dsimp only

/-- Fields that loadSite may change. -/
def loadSiteF : List Fld :=
  logF ++ ([.health, .marginPrev] : List Fld)

theorem loadSite_get {φ : Fld} (hφ : φ ∉ loadSiteF) (site : Nat) (s : State)  :
    φ.get (loadSite site s) = φ.get s := by
  have h0 := @modSite_get φ (Fld.mono hφ rfl)
  have h1 := @record_get φ (Fld.mono hφ rfl)
  have h2 := @setMarginPrev_get φ (Fld.mono hφ rfl)
  have h3 := @writeSite_get φ (Fld.mono hφ rfl)
  unfold loadSite
  with_reducible
    repeat' first
    | rfl | refine (h0 _ _ _).trans ?_ | refine (h1 _ _ _).trans ?_ | refine (h2 _ _).trans ?_
    | refine (h3 _ _).trans ?_ | refine get_ite_of (fun _ => ?_) (fun _ => ?_) | split | dsimp only

/-- Fields that decideSite may change. -/
def decideSiteF : List Fld :=
  logF ++ ([.journalSeq, .journal, .health, .marginPrev, .sparesLow, .part] : List Fld)

theorem decideSite_get {φ : Fld} (hφ : φ ∉ decideSiteF) (site : Nat) (s : State)  :
    φ.get (decideSite site s) = φ.get s := by
  have h0 := @changeSite_get φ (Fld.mono hφ rfl)
  have h1 := @loadSite_get φ (Fld.mono hφ rfl)
  unfold decideSite
  with_reducible
    repeat' first
    | rfl | refine (h0 _ _ _ _ _).trans ?_ | refine (h1 _ _).trans ?_ | refine get_ite_of (fun _ => ?_) (fun _ => ?_)
    | split | dsimp only

/-- Fields that checkShort may change. -/
def checkShortF : List Fld :=
  [.sent, .boot, .win, .portA, .portB]

theorem checkShort_get {φ : Fld} (hφ : φ ∉ checkShortF) (sector : Nat) (s : State)  :
    φ.get (checkShort sector s) = φ.get s := by
  have h0 := @hubEvent_get φ (Fld.mono hφ rfl)
  have h1 := @modBoot_get φ (Fld.mono hφ rfl)
  have h2 := @raiseAlert_get φ (Fld.mono hφ rfl)
  unfold checkShort
  with_reducible
    repeat' first
    | rfl | refine (h0 _ _ _ _).trans ?_ | refine (h1 _ _).trans ?_ | refine (h2 _ _).trans ?_
    | refine get_ite_of (fun _ => ?_) (fun _ => ?_) | split | dsimp only

theorem stepFive_get {φ : Fld} (hφ : φ ∉ decideSiteF) (s : State)  :
    φ.get (stepFive s) = φ.get s := by
  have h0 := @checkShort_get φ (Fld.mono hφ rfl)
  have h1 := @checkSpares_get φ (Fld.mono hφ rfl)
  have h2 := @decideSite_get φ (hφ)
  have h3 := @endStep_get φ (Fld.mono hφ rfl)
  have h4 := @modBoot_get φ (Fld.mono hφ rfl)
  unfold stepFive
  with_reducible
    repeat' first
    | rfl | refine (h0 _ _).trans ?_ | refine (h1 _ _).trans ?_ | refine (h2 _ _).trans ?_ | refine (h3 _ _).trans ?_
    | refine (h4 _ _).trans ?_ | refine (each_get _ _ (fun _ _ => ?_) _).trans ?_
    | refine get_ite_of (fun _ => ?_) (fun _ => ?_) | split | dsimp only

theorem placeAt_get {φ : Fld} (hφ : φ ∉ [.xlat0, .xlat1]) (tile site : Nat) (s : State)  :
    φ.get (placeAt tile site s) = φ.get s := by
  have h0 := @setXlat0_get φ (Fld.mono hφ rfl)
  have h1 := @setXlat1_get φ (Fld.mono hφ rfl)
  unfold placeAt
  with_reducible
    repeat' first
    | rfl | refine (h0 _ _).trans ?_ | refine (h1 _ _).trans ?_ | refine get_ite_of (fun _ => ?_) (fun _ => ?_)
    | split | dsimp only

theorem placeTile_get {φ : Fld} (hφ : φ ∉ abandonSwapF) (tile : Nat) (s : State)  :
    φ.get (placeTile tile s) = φ.get s := by
  have h0 := @changeSite_get φ (Fld.mono hφ rfl)
  have h1 := @placeAt_get φ (Fld.mono hφ rfl)
  have h2 := @putBoth_get φ (Fld.mono hφ rfl)
  have h3 := @recordFrom_get φ (Fld.mono hφ rfl)
  unfold placeTile
  with_reducible
    repeat' first
    | rfl | refine (h0 _ _ _ _ _).trans ?_ | refine (h1 _ _ _).trans ?_ | refine (h2 _ _ _ _).trans ?_
    | refine (h3 _ _ _ _).trans ?_ | refine get_ite_of (fun _ => ?_) (fun _ => ?_) | split | dsimp only

theorem stepSix_get {φ : Fld} (hφ : φ ∉ prepareSwapF) (s : State)  :
    φ.get (stepSix s) = φ.get s := by
  have h0 := @endStep_get φ (Fld.mono hφ rfl)
  have h1 := @modBoot_get φ (Fld.mono hφ rfl)
  have h2 := @placeTile_get φ (Fld.mono hφ rfl)
  have h3 := @restUnits_get φ (Fld.mono hφ rfl)
  have h4 := @setHub_get φ (Fld.mono hφ rfl)
  have h5 := @setRoutes0_get φ (Fld.mono hφ rfl)
  have h6 := @setRoutes1_get φ (Fld.mono hφ rfl)
  have h7 := @setSen_get φ (Fld.mono hφ rfl)
  have h8 := @setXlat0_get φ (Fld.mono hφ rfl)
  have h9 := @setXlat1_get φ (Fld.mono hφ rfl)
  unfold stepSix
  with_reducible
    repeat' first
    | rfl | refine (h0 _ _).trans ?_ | refine (h1 _ _).trans ?_ | refine (h2 _ _).trans ?_ | refine (h3 _ _).trans ?_
    | refine (h4 _ _).trans ?_ | refine (h5 _ _).trans ?_ | refine (h6 _ _).trans ?_ | refine (h7 _ _).trans ?_
    | refine (h8 _ _).trans ?_ | refine (h9 _ _).trans ?_ | refine (each_get _ _ (fun _ _ => ?_) _).trans ?_
    | refine get_ite_of (fun _ => ?_) (fun _ => ?_) | split | dsimp only

theorem repairMemory_get {φ : Fld} (hφ : φ ∉ logF) (p : PowerUp) (source addr : Nat) (s : State)  :
    φ.get (repairMemory p source addr s) = φ.get s := by
  have h0 := @record_get φ (hφ)
  unfold repairMemory
  with_reducible
    repeat' first
    | rfl | refine (h0 _ _ _).trans ?_ | refine get_ite_of (fun _ => ?_) (fun _ => ?_) | split | dsimp only

/-- Fields that repairLogged may change. -/
def repairLoggedF : List Fld :=
  logF ++ ([.memLog] : List Fld)

theorem repairLogged_get {φ : Fld} (hφ : φ ∉ repairLoggedF) (p : PowerUp) (n : Nat) (s : State)  :
    φ.get (repairLogged p n s) = φ.get s := by
  have h0 := @mramBoth_get φ (Fld.mono hφ rfl)
  have h1 := @repairMemory_get φ (Fld.mono hφ rfl)
  have h2 := @setMemLog_get φ (Fld.mono hφ rfl)
  unfold repairLogged
  with_reducible
    repeat' first
    | rfl | refine (h0 _ _ _).trans ?_ | refine (h1 _ _ _ _).trans ?_ | refine (h2 _ _).trans ?_
    | refine get_ite_of (fun _ => ?_) (fun _ => ?_) | split | dsimp only

/-- Fields that stepSeven may change. -/
def stepSevenF : List Fld :=
  logF ++ ([.memLog, .net] : List Fld)

theorem stepSeven_get {φ : Fld} (hφ : φ ∉ stepSevenF) (p : PowerUp) (s : State)  :
    φ.get (stepSeven p s) = φ.get s := by
  have h0 := @modBoot_get φ (Fld.mono hφ rfl)
  have h1 := @repairLogged_get φ (Fld.mono hφ rfl)
  have h2 := @repairMemory_get φ (Fld.mono hφ rfl)
  have h3 := @setMemLog_get φ (Fld.mono hφ rfl)
  have h4 := @setNet_get φ (Fld.mono hφ rfl)
  unfold stepSeven
  with_reducible
    repeat' first
    | rfl | refine (h0 _ _).trans ?_ | refine (h1 _ _ _).trans ?_ | refine (h2 _ _ _ _).trans ?_
    | refine (h3 _ _).trans ?_ | refine (h4 _ _).trans ?_ | refine (each_get _ _ (fun _ _ => ?_) _).trans ?_
    | refine get_ite_of (fun _ => ?_) (fun _ => ?_) | split | dsimp only

/-- Fields that bringUp may change. -/
def bringUpF : List Fld :=
  logF ++ ([.slot, .journalSeq, .journal, .health, .marginPrev, .sparesLow, .sensors, .sramLog, .memLog, .sen,
    .hub, .part, .xlat0, .xlat1, .routes0, .routes1, .net, .throttle] : List Fld)

theorem bringUp_get {φ : Fld} (hφ : φ ∉ bringUpF) (s : State)  :
    φ.get (bringUp s) = φ.get s := by
  have h0 := @stepFive_get φ (Fld.mono hφ rfl)
  have h1 := @stepFour_get φ (Fld.mono hφ rfl)
  have h2 := @stepSeven_get φ (Fld.mono hφ rfl)
  have h3 := @stepSix_get φ (Fld.mono hφ rfl)
  have h4 := @stepThree_get φ (Fld.mono hφ rfl)
  unfold bringUp
  with_reducible
    repeat' first
    | rfl | refine (h0 _).trans ?_ | refine (h1 _ _).trans ?_ | refine (h2 _ _).trans ?_ | refine (h3 _).trans ?_
    | refine (h4 _ _).trans ?_ | refine get_ite_of (fun _ => ?_) (fun _ => ?_) | split | dsimp only

theorem writeSettings_get {φ : Fld} (hφ : φ ∉ [.setA, .setB, .setBusy]) (cause seq : Nat) (s : State)  :
    φ.get (writeSettings cause seq s) = φ.get s := by
  have h0 := @setSetA_get φ (Fld.mono hφ rfl)
  have h1 := @setSetB_get φ (Fld.mono hφ rfl)
  have h2 := @setSetBusy_get φ (Fld.mono hφ rfl)
  unfold writeSettings
  with_reducible
    repeat' first
    | rfl | refine (h0 _ _).trans ?_ | refine (h1 _ _).trans ?_ | refine (h2 _ _).trans ?_
    | refine (foldl_get _ _ (fun _ _ => ?_) _).trans ?_ | refine (foldl_fst_get _ _ (fun _ _ => ?_) _).trans ?_
    | refine (foldl_snd_get _ _ (fun _ _ => ?_) _).trans ?_ | refine get_ite_of (fun _ => ?_) (fun _ => ?_) | split
    | dsimp only

theorem defaultPartition_get {φ : Fld} (hφ : φ ∉ [.part]) (n : Nat) (s : State)  :
    φ.get (defaultPartition n s) = φ.get s := by
  have h0 := @modPart_get φ (hφ)
  unfold defaultPartition
  with_reducible
    repeat' first
    | rfl | refine (h0 _ _ _).trans ?_ | refine get_ite_of (fun _ => ?_) (fun _ => ?_) | split | dsimp only

theorem confirmTrial_get {φ : Fld} (hφ : φ ∉ writeBootF) (s : State)  :
    φ.get (confirmTrial s) = φ.get s := by
  have h0 := @writeBoot_get φ (hφ)
  unfold confirmTrial
  with_reducible
    repeat' first
    | rfl | refine (h0 _ _).trans ?_ | refine get_ite_of (fun _ => ?_) (fun _ => ?_) | split | dsimp only

theorem becomeReady_get {φ : Fld} (hφ : φ ∉ forceDeepF) (s : State)  :
    φ.get (becomeReady s) = φ.get s := by
  have h0 := @completeAll_get φ (Fld.mono hφ rfl)
  have h1 := @confirmTrial_get φ (Fld.mono hφ rfl)
  have h2 := @defaultPartition_get φ (Fld.mono hφ rfl)
  have h3 := @endStep_get φ (Fld.mono hφ rfl)
  have h4 := @modBoot_get φ (Fld.mono hφ rfl)
  have h5 := @record_get φ (Fld.mono hφ rfl)
  have h6 := @startDeep_get φ (hφ)
  unfold becomeReady
  with_reducible
    repeat' first
    | rfl | refine (h0 _ _ _ _).trans ?_ | refine (h1 _).trans ?_ | refine (h2 _ _).trans ?_
    | refine (h3 _ _).trans ?_ | refine (h4 _ _).trans ?_ | refine (h5 _ _ _).trans ?_ | refine (h6 _ _).trans ?_
    | refine (each_get _ _ (fun _ _ => ?_) _).trans ?_ | refine get_ite_of (fun _ => ?_) (fun _ => ?_) | split
    | dsimp only

/-- Fields that endTraining may change. -/
def endTrainingF : List Fld :=
  logF ++ ([.journalSeq, .journal, .setA, .setB, .setBusy, .health, .unflushed, .deepPassed, .marginPrev,
    .sparesLow, .sen, .hub, .part, .xlat0, .xlat1, .routes0, .routes1, .screens, .screenReqs] : List Fld)

theorem endTraining_get {φ : Fld} (hφ : φ ∉ endTrainingF) (s : State)  :
    φ.get (endTraining s) = φ.get s := by
  have h0 := @becomeReady_get φ (Fld.mono hφ rfl)
  have h1 := @endStep_get φ (Fld.mono hφ rfl)
  have h2 := @writeSettings_get φ (Fld.mono hφ rfl)
  unfold endTraining
  with_reducible
    repeat' first
    | rfl | refine (h0 _).trans ?_ | refine (h1 _ _).trans ?_ | refine (h2 _ _ _).trans ?_
    | refine get_ite_of (fun _ => ?_) (fun _ => ?_) | split | dsimp only

/-- Fields that endStepTwo may change. -/
def endStepTwoF : List Fld :=
  logF ++ ([.slot, .image, .journalSeq, .journal, .health, .marginPrev, .sparesLow, .sensors, .sramLog, .memLog,
    .sen, .hub, .part, .xlat0, .xlat1, .routes0, .routes1, .net, .throttle] : List Fld)

theorem endStepTwo_get {φ : Fld} (hφ : φ ∉ endStepTwoF) (s : State)  :
    φ.get (endStepTwo s) = φ.get s := by
  have h0 := @bringUp_get φ (Fld.mono hφ rfl)
  have h1 := @endStep_get φ (Fld.mono hφ rfl)
  have h2 := @record_get φ (Fld.mono hφ rfl)
  have h3 := @rejoinMirror_get φ (Fld.mono hφ rfl)
  have h4 := @serveMailbox_get φ (Fld.mono hφ rfl)
  have h5 := @setImage_get φ (Fld.mono hφ rfl)
  have h6 := @startRecorder_get φ (Fld.mono hφ rfl)
  unfold endStepTwo
  with_reducible
    repeat' first
    | rfl | refine (h0 _).trans ?_ | refine (h1 _ _).trans ?_ | refine (h2 _ _ _).trans ?_ | refine (h3 _).trans ?_
    | refine (h4 _).trans ?_ | refine (h5 _ _).trans ?_ | refine (h6 _).trans ?_
    | refine get_ite_of (fun _ => ?_) (fun _ => ?_) | split | dsimp only

/-- Fields that runManager may change. -/
def runManagerF : List Fld :=
  [.image, .boot, .mgrA, .mgrB]

theorem runManager_get {φ : Fld} (hφ : φ ∉ runManagerF) (die slot : Nat) (s : State)  :
    φ.get (runManager die slot s) = φ.get s := by
  have h0 := @modMgr_get φ (Fld.mono hφ rfl)
  have h1 := @setImage_get φ (Fld.mono hφ rfl)
  have h2 := @setTry_get φ (Fld.mono hφ rfl)
  unfold runManager
  with_reducible
    repeat' first
    | rfl | refine (h0 _ _ _).trans ?_ | refine (h1 _ _).trans ?_ | refine (h2 _ _ _ _).trans ?_
    | refine get_ite_of (fun _ => ?_) (fun _ => ?_) | split | dsimp only

/-- Fields that mismatch may change. -/
def mismatchF : List Fld :=
  logF ++ ([.mgrA, .mgrB] : List Fld)

theorem mismatch_get {φ : Fld} (hφ : φ ∉ mismatchF) (s : State)  :
    φ.get (mismatch s) = φ.get s := by
  have h0 := @modMgr_get φ (Fld.mono hφ rfl)
  have h1 := @raiseFatal_get φ (Fld.mono hφ rfl)
  have h2 := @record_get φ (Fld.mono hφ rfl)
  unfold mismatch
  with_reducible
    repeat' first
    | rfl | refine (h0 _ _ _).trans ?_ | refine (h1 _ _).trans ?_ | refine (h2 _ _ _).trans ?_
    | refine get_ite_of (fun _ => ?_) (fun _ => ?_) | split | dsimp only

theorem joinStandby_get {φ : Fld} (hφ : φ ∉ [.mgrA, .mgrB, .checked]) (s : State)  :
    φ.get (joinStandby s) = φ.get s := by
  have h0 := @modMgr_get φ (Fld.mono hφ rfl)
  have h1 := @setChecked_get φ (Fld.mono hφ rfl)
  unfold joinStandby
  with_reducible
    repeat' first
    | rfl | refine (h0 _ _ _).trans ?_ | refine (h1 _ _).trans ?_ | refine get_ite_of (fun _ => ?_) (fun _ => ?_)
    | split | dsimp only

/-- Fields that resetWafer may change. -/
def resetWaferF : List Fld :=
  logF ++ ([.takeover, .rasCheck, .sen, .hub, .part, .xlat0, .xlat1, .routes0, .routes1, .screens, .screenReqs,
    .net, .links, .graph, .stop, .waits, .dram, .answers] : List Fld)

theorem resetWafer_get {φ : Fld} (hφ : φ ∉ resetWaferF) (tests : PowerUp) (seqs : List Nat) (s : State)  :
    φ.get (resetWafer tests seqs s) = φ.get s := by
  have h0 := @completeAll_get φ (Fld.mono hφ rfl)
  have h1 := @modBoot_get φ (Fld.mono hφ rfl)
  have h2 := @record_get φ (Fld.mono hφ rfl)
  have h3 := @replayResult_get φ (Fld.mono hφ rfl)
  have h4 := @setAnswers_get φ (Fld.mono hφ rfl)
  have h5 := @setDram_get φ (Fld.mono hφ rfl)
  have h6 := @setGraph_get φ (Fld.mono hφ rfl)
  have h7 := @setHub_get φ (Fld.mono hφ rfl)
  have h8 := @setLinks_get φ (Fld.mono hφ rfl)
  have h9 := @setNet_get φ (Fld.mono hφ rfl)
  have h10 := @setPart_get φ (Fld.mono hφ rfl)
  have h11 := @setRasCheck_get φ (Fld.mono hφ rfl)
  have h12 := @setRoutes0_get φ (Fld.mono hφ rfl)
  have h13 := @setRoutes1_get φ (Fld.mono hφ rfl)
  have h14 := @setScreenReqs_get φ (Fld.mono hφ rfl)
  have h15 := @setScreens_get φ (Fld.mono hφ rfl)
  have h16 := @setSen_get φ (Fld.mono hφ rfl)
  have h17 := @setSent_get φ (Fld.mono hφ rfl)
  have h18 := @setStop_get φ (Fld.mono hφ rfl)
  have h19 := @setTakeover_get φ (Fld.mono hφ rfl)
  have h20 := @setWaits_get φ (Fld.mono hφ rfl)
  have h21 := @setXlat0_get φ (Fld.mono hφ rfl)
  have h22 := @setXlat1_get φ (Fld.mono hφ rfl)
  unfold resetWafer
  with_reducible
    repeat' first
    | rfl | refine (h0 _ _ _ _).trans ?_ | refine (h1 _ _).trans ?_ | refine (h2 _ _ _).trans ?_
    | refine (h3 _ _ _).trans ?_ | refine (h4 _ _).trans ?_ | refine (h5 _ _).trans ?_ | refine (h6 _ _).trans ?_
    | refine (h7 _ _).trans ?_ | refine (h8 _ _).trans ?_ | refine (h9 _ _).trans ?_ | refine (h10 _ _).trans ?_
    | refine (h11 _ _).trans ?_ | refine (h12 _ _).trans ?_ | refine (h13 _ _).trans ?_ | refine (h14 _ _).trans ?_
    | refine (h15 _ _).trans ?_ | refine (h16 _ _).trans ?_ | refine (h17 _ _).trans ?_ | refine (h18 _ _).trans ?_
    | refine (h19 _ _).trans ?_ | refine (h20 _ _).trans ?_ | refine (h21 _ _).trans ?_ | refine (h22 _ _).trans ?_
    | refine (each_get _ _ (fun _ _ => ?_) _).trans ?_ | refine get_ite_of (fun _ => ?_) (fun _ => ?_) | split
    | dsimp only

/-- Fields that execMainPowerGood may change. -/
def mainPowerGoodF : List Fld :=
  logF ++ ([.powered, .islandA, .islandB, .mgrA, .mgrB, .rasAtA, .rasAtB, .part] : List Fld)

theorem execMainPowerGood_kept {φ : Fld} (hφ : φ ∉ mainPowerGoodF) (p : PowerUp) (s : State)  :
    Kept φ (execMainPowerGood p s) s := by
  have h0 := @countCycle_get φ (Fld.mono hφ rfl)
  have h1 := @endStep_get φ (Fld.mono hφ rfl)
  have h2 := @enterRecovery_get φ (Fld.mono hφ rfl)
  have h3 := @modBoot_get φ (Fld.mono hφ rfl)
  have h4 := @modPort_get φ (Fld.mono hφ rfl)
  have h5 := @selectSlot_get φ (Fld.mono hφ rfl)
  have h6 := @setPowered_get φ (Fld.mono hφ rfl)
  have h7 := @setRasAtA_get φ (Fld.mono hφ rfl)
  have h8 := @setRasAtB_get φ (Fld.mono hφ rfl)
  unfold execMainPowerGood
  with_reducible
    repeat' first
    | rfl | refine (h0 _ _ _).trans ?_ | refine (h1 _ _).trans ?_ | refine (h2 _).trans ?_ | refine (h3 _ _).trans ?_
    | refine (h4 _ _ _).trans ?_ | refine (h5 _ _ _ _).trans ?_ | refine (h6 _ _).trans ?_ | refine (h7 _ _).trans ?_
    | refine (h8 _ _).trans ?_ | refine kept_next.2 ?_ | refine kept_ite (fun _ => ?_) (fun _ => ?_)
    | refine get_ite_of (fun _ => ?_) (fun _ => ?_) | split | dsimp only

/-- Fields that execMainPowerLoss may change. -/
def mainPowerLossF : List Fld :=
  [.slot, .sent, .powered, .warn, .noRuns, .image, .boot, .islandA, .islandB, .mgrA, .mgrB, .active, .failover,
    .checked, .takeover, .switchSeq, .switchOk, .journalSeq, .journal, .auditAlarm, .rasBaseA, .rasAtA,
    .rasBaseB, .rasAtB, .rasArmedB, .rasCheck, .syncRas, .setBusy, .stageOpen, .stageNext, .stageErased,
    .health, .unflushed, .deepPassed, .marginPrev, .spareAt, .sparesLow, .sensors, .sramLog, .memLog, .sen,
    .hub, .part, .xlat0, .xlat1, .routes0, .routes1, .screens, .screenReqs, .net, .links, .graph, .throttle,
    .stop, .waits, .gcount, .drainId, .armId, .scanId, .dram, .recorder, .win, .portA, .portB, .coreTx,
    .coreNaks, .lossRejected, .coreTag, .answers]

theorem execMainPowerLoss_kept {φ : Fld} (hφ : φ ∉ mainPowerLossF) (s : State)  :
    Kept φ (execMainPowerLoss s) s := by
  unfold execMainPowerLoss
  split
  · rfl
  · cases φ <;> first | exact rfl | exact absurd (by decide) hφ

theorem execBackupSupplyLoss_kept {φ : Fld} (hφ : φ ∉ [.islandA, .islandB]) (die : Nat) (s : State)  :
    Kept φ (execBackupSupplyLoss die s) s := by
  have h0 := @modIsland_get φ (hφ)
  unfold execBackupSupplyLoss
  with_reducible
    repeat' first
    | rfl | refine (h0 _ _ _).trans ?_ | refine kept_next.2 ?_ | refine kept_ite (fun _ => ?_) (fun _ => ?_)
    | refine get_ite_of (fun _ => ?_) (fun _ => ?_) | split | dsimp only

/-- Fields that settleOther may change. -/
def settleOtherF : List Fld :=
  logF ++ ([.slot, .image, .mgrA, .mgrB, .journalSeq, .journal, .health, .marginPrev, .sparesLow, .sensors,
    .sramLog, .memLog, .sen, .hub, .part, .xlat0, .xlat1, .routes0, .routes1, .net, .throttle] : List Fld)

theorem settleOther_get {φ : Fld} (hφ : φ ∉ settleOtherF) (s : State)  :
    φ.get (settleOther s) = φ.get s := by
  have h0 := @endStepTwo_get φ (Fld.mono hφ rfl)
  have h1 := @mismatch_get φ (Fld.mono hφ rfl)
  unfold settleOther
  with_reducible
    repeat' first
    | rfl | refine (h0 _).trans ?_ | refine (h1 _).trans ?_ | refine get_ite_of (fun _ => ?_) (fun _ => ?_) | split
    | dsimp only

/-- Fields that recoverInPlace may change. -/
def recoverInPlaceF : List Fld :=
  logF ++ ([.slot, .journalSeq, .journal, .health, .unflushed, .deepPassed, .marginPrev, .sparesLow, .sensors,
    .sen, .hub, .part, .xlat0, .xlat1, .routes0, .routes1, .screens, .screenReqs, .graph, .stop, .gcount,
    .answers] : List Fld)

theorem recoverInPlace_get {φ : Fld} (hφ : φ ∉ recoverInPlaceF) (s : State)  :
    φ.get (recoverInPlace s) = φ.get s := by
  have h0 := @modBoot_get φ (Fld.mono hφ rfl)
  have h1 := @modPart_get φ (Fld.mono hφ rfl)
  have h2 := @modSensor_get φ (Fld.mono hφ rfl)
  have h3 := @modSite_get φ (Fld.mono hφ rfl)
  have h4 := @record_get φ (Fld.mono hφ rfl)
  have h5 := @serveMailbox_get φ (Fld.mono hφ rfl)
  have h6 := @setAnswers_get φ (Fld.mono hφ rfl)
  have h7 := @setGraph_get φ (Fld.mono hφ rfl)
  have h8 := @setJournal_get φ (Fld.mono hφ rfl)
  have h9 := @setJournalSeq_get φ (Fld.mono hφ rfl)
  have h10 := @setMarginPrev_get φ (Fld.mono hφ rfl)
  have h11 := @setRecorder_get φ (Fld.mono hφ rfl)
  have h12 := @setUnflushed_get φ (Fld.mono hφ rfl)
  have h13 := @startAlignment_get φ (Fld.mono hφ rfl)
  have h14 := @startFence_get φ (Fld.mono hφ rfl)
  unfold recoverInPlace
  with_reducible
    repeat' first
    | rfl | refine (h0 _ _).trans ?_ | refine (h1 _ _ _).trans ?_ | refine (h2 _ _ _).trans ?_
    | refine (h3 _ _ _).trans ?_ | refine (h4 _ _ _).trans ?_ | refine (h5 _).trans ?_ | refine (h6 _ _).trans ?_
    | refine (h7 _ _).trans ?_ | refine (h8 _ _).trans ?_ | refine (h9 _ _).trans ?_ | refine (h10 _ _).trans ?_
    | refine (h11 _ _).trans ?_ | refine (h12 _ _).trans ?_ | refine (h13 _).trans ?_
    | refine (h14 _ _ _ _ _).trans ?_ | refine (each_get _ _ (fun _ _ => ?_) _).trans ?_
    | refine get_ite_of (fun _ => ?_) (fun _ => ?_) | split | dsimp only

/-- Fields that managerStarted may change. -/
def managerStartedF : List Fld :=
  logF ++ ([.slot, .image, .mgrA, .mgrB, .checked, .journalSeq, .journal, .health, .unflushed, .deepPassed,
    .marginPrev, .sparesLow, .sensors, .sramLog, .memLog, .sen, .hub, .part, .xlat0, .xlat1, .routes0,
    .routes1, .screens, .screenReqs, .net, .graph, .throttle, .stop, .gcount, .answers] : List Fld)

theorem managerStarted_get {φ : Fld} (hφ : φ ∉ managerStartedF) (die slot : Nat) (s : State)  :
    φ.get (managerStarted die slot s) = φ.get s := by
  have h0 := @endStepTwo_get φ (Fld.mono hφ rfl)
  have h1 := @joinStandby_get φ (Fld.mono hφ rfl)
  have h2 := @recoverInPlace_get φ (Fld.mono hφ rfl)
  have h3 := @runManager_get φ (Fld.mono hφ rfl)
  have h4 := @settleOther_get φ (Fld.mono hφ rfl)
  unfold managerStarted
  with_reducible
    repeat' first
    | rfl | refine (h0 _).trans ?_ | refine (h1 _).trans ?_ | refine (h2 _).trans ?_ | refine (h3 _ _ _).trans ?_
    | refine (h4 _).trans ?_ | refine get_ite_of (fun _ => ?_) (fun _ => ?_) | split | dsimp only

theorem noSlotLeft_get {φ : Fld} (hφ : φ ∉ settleOtherF) (die : Nat) (s : State)  :
    φ.get (noSlotLeft die s) = φ.get s := by
  have h0 := @enterRecovery_get φ (Fld.mono hφ rfl)
  have h1 := @modBoot_get φ (Fld.mono hφ rfl)
  have h2 := @modMgr_get φ (Fld.mono hφ rfl)
  have h3 := @raiseFatal_get φ (Fld.mono hφ rfl)
  have h4 := @serveMailbox_get φ (Fld.mono hφ rfl)
  have h5 := @settleOther_get φ (hφ)
  unfold noSlotLeft
  with_reducible
    repeat' first
    | rfl | refine (h0 _).trans ?_ | refine (h1 _ _).trans ?_ | refine (h2 _ _ _).trans ?_ | refine (h3 _ _).trans ?_
    | refine (h4 _).trans ?_ | refine (h5 _).trans ?_ | refine get_ite_of (fun _ => ?_) (fun _ => ?_) | split
    | dsimp only

theorem execSecurityAuthentication_kept {φ : Fld} (hφ : φ ∉ managerStartedF) (die : Nat) (authentic : Bool) (s : State)  :
    Kept φ (execSecurityAuthentication die authentic s) s := by
  have h0 := @managerStarted_get φ (hφ)
  have h1 := @noSlotLeft_get φ (Fld.mono hφ rfl)
  have h2 := @noteInvalid_get φ (Fld.mono hφ rfl)
  have h3 := @trySlots_get φ (Fld.mono hφ rfl)
  unfold execSecurityAuthentication
  with_reducible
    repeat' first
    | rfl | refine (h0 _ _ _).trans ?_ | refine (h1 _ _).trans ?_ | refine (h2 _ _ _ _ _).trans ?_
    | refine (h3 _ _ _ _).trans ?_ | refine kept_next.2 ?_ | refine kept_ite (fun _ => ?_) (fun _ => ?_)
    | refine get_ite_of (fun _ => ?_) (fun _ => ?_) | split | dsimp only

/-- Fields that execImageDigestExchange may change. -/
def imageDigestExchangeF : List Fld :=
  logF ++ ([.slot, .image, .mgrA, .mgrB, .checked, .journalSeq, .journal, .health, .marginPrev, .sparesLow,
    .sensors, .sramLog, .memLog, .sen, .hub, .part, .xlat0, .xlat1, .routes0, .routes1, .net, .throttle] : List Fld)

theorem execImageDigestExchange_kept {φ : Fld} (hφ : φ ∉ imageDigestExchangeF) (s : State)  :
    Kept φ (execImageDigestExchange s) s := by
  have h0 := @endStepTwo_get φ (Fld.mono hφ rfl)
  have h1 := @joinStandby_get φ (Fld.mono hφ rfl)
  have h2 := @mismatch_get φ (Fld.mono hφ rfl)
  have h3 := @modBoot_get φ (Fld.mono hφ rfl)
  have h4 := @modMgr_get φ (Fld.mono hφ rfl)
  have h5 := @setTry_get φ (Fld.mono hφ rfl)
  unfold execImageDigestExchange
  with_reducible
    repeat' first
    | rfl | refine (h0 _).trans ?_ | refine (h1 _).trans ?_ | refine (h2 _).trans ?_ | refine (h3 _ _).trans ?_
    | refine (h4 _ _ _).trans ?_ | refine (h5 _ _ _ _).trans ?_ | refine kept_next.2 ?_
    | refine kept_ite (fun _ => ?_) (fun _ => ?_) | refine get_ite_of (fun _ => ?_) (fun _ => ?_) | split | dsimp only

theorem keepSettings_get {φ : Fld} (hφ : φ ∉ [.boot]) (u result : Nat) (found : List Byte) (s : State)  :
    φ.get (keepSettings u result found s) = φ.get s := by
  have h0 := @modBoot_get φ (hφ)
  unfold keepSettings
  with_reducible
    repeat' first
    | rfl | refine (h0 _ _).trans ?_ | refine get_ite_of (fun _ => ?_) (fun _ => ?_) | split | dsimp only

theorem trainingResult_get {φ : Fld} (hφ : φ ∉ logF) (kind index result time : Nat) (s : State)  :
    φ.get (trainingResult kind index result time s) = φ.get s := by
  have h0 := @raiseAlert_get φ (Fld.mono hφ rfl)
  have h1 := @record_get φ (hφ)
  unfold trainingResult
  with_reducible
    repeat' first
    | rfl | refine (h0 _ _).trans ?_ | refine (h1 _ _ _).trans ?_ | refine get_ite_of (fun _ => ?_) (fun _ => ?_)
    | split | dsimp only

/-- Fields that execLinkTrainingResult may change. -/
def linkTrainingResultF : List Fld :=
  logF ++ ([.journalSeq, .journal, .setA, .setB, .setBusy, .health, .unflushed, .deepPassed, .marginPrev,
    .sparesLow, .sen, .hub, .part, .xlat0, .xlat1, .routes0, .routes1, .screens, .screenReqs, .net] : List Fld)

theorem execLinkTrainingResult_kept {φ : Fld} (hφ : φ ∉ linkTrainingResultF) (kind index result time : Nat) (settings : List Byte) (s : State)  :
    Kept φ (execLinkTrainingResult kind index result time settings s) s := by
  have h0 := @endTraining_get φ (Fld.mono hφ rfl)
  have h1 := @keepSettings_get φ (Fld.mono hφ rfl)
  have h2 := @modBoot_get φ (Fld.mono hφ rfl)
  have h3 := @setNet_get φ (Fld.mono hφ rfl)
  have h4 := @trainingResult_get φ (Fld.mono hφ rfl)
  unfold execLinkTrainingResult
  with_reducible
    repeat' first
    | rfl | refine (h0 _).trans ?_ | refine (h1 _ _ _ _).trans ?_ | refine (h2 _ _).trans ?_
    | refine (h3 _ _).trans ?_ | refine (h4 _ _ _ _ _).trans ?_ | refine kept_next.2 ?_
    | refine kept_ite (fun _ => ?_) (fun _ => ?_) | refine get_ite_of (fun _ => ?_) (fun _ => ?_) | split | dsimp only

theorem execSettingsWriteComplete_kept {φ : Fld} (hφ : φ ∉ endTrainingF) (s : State)  :
    Kept φ (execSettingsWriteComplete s) s := by
  have h0 := @becomeReady_get φ (Fld.mono hφ rfl)
  have h1 := @complete_get φ (Fld.mono hφ rfl)
  have h2 := @record_get φ (Fld.mono hφ rfl)
  have h3 := @setSetA_get φ (Fld.mono hφ rfl)
  have h4 := @setSetB_get φ (Fld.mono hφ rfl)
  have h5 := @setSetBusy_get φ (Fld.mono hφ rfl)
  have h6 := @writeSettings_get φ (Fld.mono hφ rfl)
  unfold execSettingsWriteComplete
  refine kept_next.2 ?_
  split
  · rfl
  · dsimp only
    repeat' first
      | simp only [h0, h1, h2, h3, h4, h5, h6, get_ite, ite_self]
      | split

/-- Fields that execWaferReset may change. -/
def waferResetF : List Fld :=
  logF ++ ([.slot, .takeover, .journalSeq, .journal, .rasCheck, .health, .marginPrev, .sparesLow, .sensors,
    .sramLog, .memLog, .sen, .hub, .part, .xlat0, .xlat1, .routes0, .routes1, .screens, .screenReqs, .net,
    .links, .graph, .throttle, .stop, .waits, .dram, .answers] : List Fld)

theorem execWaferReset_kept {φ : Fld} (hφ : φ ∉ waferResetF) (seq : Nat) (tests : PowerUp) (s : State)  :
    Kept φ (execWaferReset seq tests s) s := by
  have h0 := @bringUp_get φ (Fld.mono hφ rfl)
  have h1 := @resetWafer_get φ (Fld.mono hφ rfl)
  unfold execWaferReset
  with_reducible
    repeat' first
    | rfl | refine (h0 _).trans ?_ | refine (h1 _ _ _).trans ?_ | refine runCmd_kept (Fld.mono hφ rfl) _ _ _ _ ?_
    | refine kept_next.2 ?_ | refine kept_ite (fun _ => ?_) (fun _ => ?_)
    | refine get_ite_of (fun _ => ?_) (fun _ => ?_) | split | dsimp only

/-- Fields that restartManagers may change. -/
def restartManagersF : List Fld :=
  logF ++ ([.mgrA, .mgrB, .takeover, .rasCheck, .sen, .hub, .part, .xlat0, .xlat1, .routes0, .routes1, .screens,
    .screenReqs, .net, .links, .graph, .stop, .waits, .dram, .answers] : List Fld)

theorem restartManagers_get {φ : Fld} (hφ : φ ∉ restartManagersF) (tests : PowerUp) (s : State)  :
    φ.get (restartManagers tests s) = φ.get s := by
  have h0 := @enterRecovery_get φ (Fld.mono hφ rfl)
  have h1 := @modBoot_get φ (Fld.mono hφ rfl)
  have h2 := @modMgr_get φ (Fld.mono hφ rfl)
  have h3 := @resetWafer_get φ (Fld.mono hφ rfl)
  have h4 := @selectSlot_get φ (Fld.mono hφ rfl)
  unfold restartManagers
  with_reducible
    repeat' first
    | rfl | refine (h0 _).trans ?_ | refine (h1 _ _).trans ?_ | refine (h2 _ _ _).trans ?_
    | refine (h3 _ _ _).trans ?_ | refine (h4 _ _ _ _).trans ?_ | refine get_ite_of (fun _ => ?_) (fun _ => ?_)
    | split | dsimp only

theorem execManagerWatchdogExpiry_kept {φ : Fld} (hφ : φ ∉ settleOtherF) (die : Nat) (s : State)  :
    Kept φ (execManagerWatchdogExpiry die s) s := by
  have h0 := @modBoot_get φ (Fld.mono hφ rfl)
  have h1 := @modMgr_get φ (Fld.mono hφ rfl)
  have h2 := @modRec_get φ (Fld.mono hφ rfl)
  have h3 := @noSlotLeft_get φ (hφ)
  have h4 := @recorderAlert_get φ (Fld.mono hφ rfl)
  have h5 := @selectSlot_get φ (Fld.mono hφ rfl)
  have h6 := @trySlots_get φ (Fld.mono hφ rfl)
  unfold execManagerWatchdogExpiry
  with_reducible
    repeat' first
    | rfl | refine (h0 _ _).trans ?_ | refine (h1 _ _ _).trans ?_ | refine (h2 _ _).trans ?_
    | refine (h3 _ _).trans ?_ | refine (h4 _ _).trans ?_ | refine (h5 _ _ _ _).trans ?_
    | refine (h6 _ _ _ _).trans ?_ | refine kept_next.2 ?_ | refine kept_ite (fun _ => ?_) (fun _ => ?_)
    | refine get_ite_of (fun _ => ?_) (fun _ => ?_) | split | dsimp only

end Sys2Proof.Machine
end

