-- ==== Sys2Proof/Laws/FrameHealthCmd.lean ====
section
/-!
SUPPORT. Frames of the operations of Machine/HealthCmd.lean.
-/
namespace Sys2Proof.Machine

open Sys2Proof

set_option linter.all false
set_option Elab.async false

theorem execHealthQuery_kept {φ : Fld} (hφ : φ ∉ logF) (seq : Nat) (s : State)  :
    Kept φ (execHealthQuery seq s) s := by
  have h0 := @complete_get φ (hφ)
  unfold execHealthQuery
  with_reducible
    repeat' first
    | rfl | refine (h0 _ _ _ _).trans ?_ | refine runCmd_kept (Fld.mono hφ rfl) _ _ _ _ ?_ | refine kept_next.2 ?_
    | refine kept_ite (fun _ => ?_) (fun _ => ?_) | refine get_ite_of (fun _ => ?_) (fun _ => ?_) | split | dsimp only

theorem execHistoryRead_kept {φ : Fld} (hφ : φ ∉ logF) (seq : Nat) (s : State)  :
    Kept φ (execHistoryRead seq s) s := by
  have h0 := @complete_get φ (hφ)
  unfold execHistoryRead
  with_reducible
    repeat' first
    | rfl | refine (h0 _ _ _ _).trans ?_ | refine runCmd_kept (Fld.mono hφ rfl) _ _ _ _ ?_ | refine kept_next.2 ?_
    | refine kept_ite (fun _ => ?_) (fun _ => ?_) | refine get_ite_of (fun _ => ?_) (fun _ => ?_) | split | dsimp only

theorem swapFor_get {φ : Fld} (hφ : φ ∉ prepareSwapF) (site cause seq : Nat) (s : State)  :
    φ.get (swapFor site cause seq s) = φ.get s := by
  have h0 := @complete_get φ (Fld.mono hφ rfl)
  have h1 := @moveOut_get φ (Fld.mono hφ rfl)
  have h2 := @prepareSwap_get φ (hφ)
  have h3 := @requestSwap_get φ (hφ)
  unfold swapFor
  with_reducible
    repeat' first
    | rfl | refine (h0 _ _ _ _).trans ?_ | refine (h1 _ _ _ _ _).trans ?_ | refine (h2 _ _ _ _).trans ?_
    | refine (h3 _ _ _ _).trans ?_ | refine get_ite_of (fun _ => ?_) (fun _ => ?_) | split | dsimp only

/-- Fields that execUnitQuarantine may change. -/
def unitQuarantineF : List Fld :=
  logF ++ ([.journalSeq, .journal, .health, .sparesLow, .sen, .hub, .part, .xlat0, .xlat1, .routes0, .routes1,
    .waits] : List Fld)

theorem execUnitQuarantine_kept {φ : Fld} (hφ : φ ∉ unitQuarantineF) (seq : Nat) (s : State)  :
    Kept φ (execUnitQuarantine seq s) s := by
  have h0 := @changeSite_get φ (Fld.mono hφ rfl)
  have h1 := @complete_get φ (Fld.mono hφ rfl)
  have h2 := @swapFor_get φ (Fld.mono hφ rfl)
  have h3 := @waitFor_get φ (Fld.mono hφ rfl)
  unfold execUnitQuarantine
  with_reducible
    repeat' first
    | rfl | refine (h0 _ _ _ _ _).trans ?_ | refine (h1 _ _ _ _).trans ?_ | refine (h2 _ _ _ _).trans ?_
    | refine (h3 _ _ _ _ _ _).trans ?_ | refine runCmd_kept (Fld.mono hφ rfl) _ _ _ _ ?_ | refine kept_next.2 ?_
    | refine kept_ite (fun _ => ?_) (fun _ => ?_) | refine get_ite_of (fun _ => ?_) (fun _ => ?_) | split | dsimp only

theorem execSpareTakeover_kept {φ : Fld} (hφ : φ ∉ unitQuarantineF) (seq : Nat) (s : State)  :
    Kept φ (execSpareTakeover seq s) s := by
  have h0 := @swapFor_get φ (Fld.mono hφ rfl)
  have h1 := @waitFor_get φ (Fld.mono hφ rfl)
  unfold execSpareTakeover
  with_reducible
    repeat' first
    | rfl | refine (h0 _ _ _ _).trans ?_ | refine (h1 _ _ _ _ _ _).trans ?_
    | refine runCmd_kept (Fld.mono hφ rfl) _ _ _ _ ?_ | refine kept_next.2 ?_
    | refine kept_ite (fun _ => ?_) (fun _ => ?_) | refine get_ite_of (fun _ => ?_) (fun _ => ?_) | split | dsimp only

/-- Fields that execUnitRelease may change. -/
def unitReleaseF : List Fld :=
  logF ++ ([.journalSeq, .journal, .health, .deepPassed, .marginPrev, .sparesLow, .sen, .hub, .part, .xlat0,
    .xlat1, .routes0, .routes1] : List Fld)

theorem execUnitRelease_kept {φ : Fld} (hφ : φ ∉ unitReleaseF) (seq : Nat) (s : State)  :
    Kept φ (execUnitRelease seq s) s := by
  have h0 := @changeSite_get φ (Fld.mono hφ rfl)
  have h1 := @complete_get φ (Fld.mono hφ rfl)
  have h2 := @setDeepPassed_get φ (Fld.mono hφ rfl)
  have h3 := @setMarginPrev_get φ (Fld.mono hφ rfl)
  have h4 := @spareFreed_get φ (Fld.mono hφ rfl)
  unfold execUnitRelease
  with_reducible
    repeat' first
    | rfl | refine (h0 _ _ _ _ _).trans ?_ | refine (h1 _ _ _ _).trans ?_ | refine (h2 _ _).trans ?_
    | refine (h3 _ _).trans ?_ | refine (h4 _ _).trans ?_ | refine runCmd_kept (Fld.mono hφ rfl) _ _ _ _ ?_
    | refine kept_next.2 ?_ | refine kept_ite (fun _ => ?_) (fun _ => ?_)
    | refine get_ite_of (fun _ => ?_) (fun _ => ?_) | split | dsimp only

/-- Fields that execUnitScreen may change. -/
def unitScreenF : List Fld :=
  logF ++ ([.journalSeq, .journal, .health, .unflushed, .deepPassed, .marginPrev, .sparesLow, .sen, .hub, .part,
    .xlat0, .xlat1, .routes0, .routes1, .screens, .screenReqs, .waits] : List Fld)

theorem execUnitScreen_kept {φ : Fld} (hφ : φ ∉ unitScreenF) (seq : Nat) (s : State)  :
    Kept φ (execUnitScreen seq s) s := by
  have h0 := @changeSite_get φ (Fld.mono hφ rfl)
  have h1 := @complete_get φ (Fld.mono hφ rfl)
  have h2 := @requestScreen_get φ (Fld.mono hφ rfl)
  have h3 := @startDeep_get φ (Fld.mono hφ rfl)
  have h4 := @waitFor_get φ (Fld.mono hφ rfl)
  unfold execUnitScreen
  with_reducible
    repeat' first
    | rfl | refine (h0 _ _ _ _ _).trans ?_ | refine (h1 _ _ _ _).trans ?_ | refine (h2 _ _ _).trans ?_
    | refine (h3 _ _).trans ?_ | refine (h4 _ _ _ _ _ _).trans ?_ | refine runCmd_kept (Fld.mono hφ rfl) _ _ _ _ ?_
    | refine kept_next.2 ?_ | refine kept_ite (fun _ => ?_) (fun _ => ?_)
    | refine get_ite_of (fun _ => ?_) (fun _ => ?_) | split | dsimp only

theorem execUnitRetire_kept {φ : Fld} (hφ : φ ∉ forceDeepF) (seq : Nat) (s : State)  :
    Kept φ (execUnitRetire seq s) s := by
  have h0 := @advanceRun_get φ (Fld.mono hφ rfl)
  have h1 := @cancelScreen_get φ (Fld.mono hφ rfl)
  have h2 := @changeSite_get φ (Fld.mono hφ rfl)
  have h3 := @complete_get φ (Fld.mono hφ rfl)
  unfold execUnitRetire
  with_reducible
    repeat' first
    | rfl | refine (h0 _ _).trans ?_ | refine (h1 _ _).trans ?_ | refine (h2 _ _ _ _ _).trans ?_
    | refine (h3 _ _ _ _).trans ?_ | refine runCmd_kept (Fld.mono hφ rfl) _ _ _ _ ?_ | refine kept_next.2 ?_
    | refine kept_ite (fun _ => ?_) (fun _ => ?_) | refine get_ite_of (fun _ => ?_) (fun _ => ?_) | split | dsimp only

end Sys2Proof.Machine
end

