-- ==== Sys2Proof/Laws/FrameImageCmd.lean ====
section
/-!
SUPPORT. Frames of the operations of Machine/ImageCmd.lean.
-/
namespace Sys2Proof.Machine

open Sys2Proof

set_option linter.all false
set_option Elab.async false

theorem withdrawTrial_get {φ : Fld} (hφ : φ ∉ logF) (s : State)  :
    φ.get (withdrawTrial s) = φ.get s := by
  have h0 := @record_get φ (hφ)
  have h1 := @writeBoot_get φ (Fld.mono hφ rfl)
  unfold withdrawTrial
  with_reducible
    repeat' first
    | rfl | refine (h0 _ _ _).trans ?_ | refine (h1 _ _).trans ?_ | refine get_ite_of (fun _ => ?_) (fun _ => ?_)
    | split | dsimp only

/-- Fields that stageChunk may change. -/
def stageChunkF : List Fld :=
  logF ++ ([.flashA, .flashB, .stageOpen, .stageNext, .stageErased] : List Fld)

theorem stageChunk_get {φ : Fld} (hφ : φ ∉ stageChunkF) (off : Nat) (bs : List Byte) (s : State)  :
    φ.get (stageChunk off bs s) = φ.get s := by
  have h0 := @setFlashA_get φ (Fld.mono hφ rfl)
  have h1 := @setFlashB_get φ (Fld.mono hφ rfl)
  have h2 := @setStageErased_get φ (Fld.mono hφ rfl)
  have h3 := @setStageNext_get φ (Fld.mono hφ rfl)
  have h4 := @setStageOpen_get φ (Fld.mono hφ rfl)
  have h5 := @withdrawTrial_get φ (Fld.mono hφ rfl)
  unfold stageChunk
  with_reducible
    repeat' first
    | rfl | refine (h0 _ _).trans ?_ | refine (h1 _ _).trans ?_ | refine (h2 _ _).trans ?_ | refine (h3 _ _).trans ?_
    | refine (h4 _ _).trans ?_ | refine (h5 _).trans ?_ | refine get_ite_of (fun _ => ?_) (fun _ => ?_) | split
    | dsimp only

theorem execImageStage_kept {φ : Fld} (hφ : φ ∉ stageChunkF) (seq : Nat) (s : State)  :
    Kept φ (execImageStage seq s) s := by
  have h0 := @complete_get φ (Fld.mono hφ rfl)
  have h1 := @stageChunk_get φ (hφ)
  unfold execImageStage
  with_reducible
    repeat' first
    | rfl | refine (h0 _ _ _ _).trans ?_ | refine (h1 _ _ _).trans ?_
    | refine runCmd_kept (Fld.mono hφ rfl) _ _ _ _ ?_ | refine kept_next.2 ?_
    | refine kept_ite (fun _ => ?_) (fun _ => ?_) | refine get_ite_of (fun _ => ?_) (fun _ => ?_) | split | dsimp only

theorem settleMram_get {φ : Fld} (hφ : φ ∉ [.sent, .mramA, .mramB]) (s : State)  :
    φ.get (settleMram s) = φ.get s := by
  have h0 := @mramPut_get φ (Fld.mono hφ rfl)
  have h1 := @setSent_get φ (Fld.mono hφ rfl)
  unfold settleMram
  with_reducible
    repeat' first
    | rfl | refine (h0 _ _ _ _).trans ?_ | refine (h1 _ _).trans ?_
    | refine (foldl_get _ _ (fun _ _ => ?_) _).trans ?_ | refine (foldl_fst_get _ _ (fun _ _ => ?_) _).trans ?_
    | refine (foldl_snd_get _ _ (fun _ _ => ?_) _).trans ?_ | refine get_ite_of (fun _ => ?_) (fun _ => ?_) | split
    | dsimp only

/-- Fields that execImageCommit may change. -/
def imageCommitF : List Fld :=
  logF ++ ([.mgrA, .mgrB, .takeover, .rasCheck, .stageOpen, .sen, .hub, .part, .xlat0, .xlat1, .routes0, .routes1,
    .screens, .screenReqs, .net, .links, .graph, .stop, .waits, .dram, .answers] : List Fld)

theorem execImageCommit_kept {φ : Fld} (hφ : φ ∉ imageCommitF) (seq : Nat) (authenticA authenticB : Bool) (tests : PowerUp) (s : State)  :
    Kept φ (execImageCommit seq authenticA authenticB tests s) s := by
  have h0 := @complete_get φ (Fld.mono hφ rfl)
  have h1 := @record_get φ (Fld.mono hφ rfl)
  have h2 := @restartManagers_get φ (Fld.mono hφ rfl)
  have h3 := @setStageOpen_get φ (Fld.mono hφ rfl)
  have h4 := @settleMram_get φ (Fld.mono hφ rfl)
  have h5 := @writeBoot_get φ (Fld.mono hφ rfl)
  unfold execImageCommit
  split
  · exact kept_next.2 rfl
  · dsimp only
    refine kept_trans (t := setStageOpen false s) (runCmd_kept (Fld.mono hφ rfl) _ _ _ _ ?_) (h3 _ _)
    simp only [h0, h1, h2, h3, h4, h5, get_ite, ite_self]

/-- Fields that execTrainingSave may change. -/
def trainingSaveF : List Fld :=
  logF ++ ([.setA, .setB, .setBusy, .waits] : List Fld)

theorem execTrainingSave_kept {φ : Fld} (hφ : φ ∉ trainingSaveF) (seq : Nat) (s : State)  :
    Kept φ (execTrainingSave seq s) s := by
  have h0 := @waitFor_get φ (Fld.mono hφ rfl)
  have h1 := @writeSettings_get φ (Fld.mono hφ rfl)
  unfold execTrainingSave
  with_reducible
    repeat' first
    | rfl | refine (h0 _ _ _ _ _ _).trans ?_ | refine (h1 _ _ _).trans ?_
    | refine runCmd_kept (Fld.mono hφ rfl) _ _ _ _ ?_ | refine kept_next.2 ?_
    | refine kept_ite (fun _ => ?_) (fun _ => ?_) | refine get_ite_of (fun _ => ?_) (fun _ => ?_) | split | dsimp only

end Sys2Proof.Machine
end

