-- ==== Sys2Proof/Laws/FrameManagers.lean ====
section
/-!
SUPPORT. Frames of the operations of Machine/Managers.lean.
-/
namespace Sys2Proof.Machine

open Sys2Proof

set_option linter.all false
set_option Elab.async false

theorem adoptRecorder_get {φ : Fld} (hφ : φ ∉ [.recorder]) (s : State)  :
    φ.get (adoptRecorder s) = φ.get s := by
  have h0 := @modRec_get φ (hφ)
  unfold adoptRecorder
  with_reducible
    repeat' first
    | rfl | refine (h0 _ _).trans ?_ | refine get_ite_of (fun _ => ?_) (fun _ => ?_) | split | dsimp only

theorem repeatReplay_get {φ : Fld} (hφ : φ ∉ acceptF) (p : Nat) (s : State)  :
    φ.get (repeatReplay p s) = φ.get s := by
  have h0 := @modPart_get φ (Fld.mono hφ rfl)
  have h1 := @nextReplay_get φ (hφ)
  unfold repeatReplay
  with_reducible
    repeat' first
    | rfl | refine (h0 _ _ _).trans ?_ | refine (h1 _ _).trans ?_ | refine get_ite_of (fun _ => ?_) (fun _ => ?_)
    | split | dsimp only

/-- Fields that completeTakeover may change. -/
def completeTakeoverF : List Fld :=
  logF ++ ([.mgrA, .mgrB, .active, .failover, .checked, .takeover, .switchSeq, .switchOk, .part] : List Fld)

theorem completeTakeover_get {φ : Fld} (hφ : φ ∉ completeTakeoverF) (s : State)  :
    φ.get (completeTakeover s) = φ.get s := by
  have h0 := @adoptRecorder_get φ (Fld.mono hφ rfl)
  have h1 := @complete_get φ (Fld.mono hφ rfl)
  have h2 := @modMgr_get φ (Fld.mono hφ rfl)
  have h3 := @modPart_get φ (Fld.mono hφ rfl)
  have h4 := @record_get φ (Fld.mono hφ rfl)
  have h5 := @recorderAlert_get φ (Fld.mono hφ rfl)
  have h6 := @repeatReplay_get φ (Fld.mono hφ rfl)
  have h7 := @serveMailbox_get φ (Fld.mono hφ rfl)
  have h8 := @setActive_get φ (Fld.mono hφ rfl)
  have h9 := @setChecked_get φ (Fld.mono hφ rfl)
  have h10 := @setFailover_get φ (Fld.mono hφ rfl)
  have h11 := @setSent_get φ (Fld.mono hφ rfl)
  have h12 := @setSwitchOk_get φ (Fld.mono hφ rfl)
  have h13 := @setSwitchSeq_get φ (Fld.mono hφ rfl)
  have h14 := @setTakeover_get φ (Fld.mono hφ rfl)
  have h15 := @startAlignment_get φ (Fld.mono hφ rfl)
  have h16 := @syncPins_get φ (Fld.mono hφ rfl)
  unfold completeTakeover
  with_reducible
    repeat' first
    | rfl | refine (h0 _).trans ?_ | refine (h1 _ _ _ _).trans ?_ | refine (h2 _ _ _).trans ?_
    | refine (h3 _ _ _).trans ?_ | refine (h4 _ _ _).trans ?_ | refine (h5 _ _).trans ?_ | refine (h6 _ _).trans ?_
    | refine (h7 _).trans ?_ | refine (h8 _ _).trans ?_ | refine (h9 _ _).trans ?_ | refine (h10 _ _).trans ?_
    | refine (h11 _ _).trans ?_ | refine (h12 _ _).trans ?_ | refine (h13 _ _).trans ?_ | refine (h14 _ _).trans ?_
    | refine (h15 _).trans ?_ | refine (h16 _).trans ?_ | refine (each_get _ _ (fun _ _ => ?_) _).trans ?_
    | refine get_ite_of (fun _ => ?_) (fun _ => ?_) | split | dsimp only

theorem checkTakeover_get {φ : Fld} (hφ : φ ∉ completeTakeoverF) (s : State)  :
    φ.get (checkTakeover s) = φ.get s := by
  have h0 := @completeTakeover_get φ (hφ)
  unfold checkTakeover
  with_reducible
    repeat' first
    | rfl | refine (h0 _).trans ?_ | refine get_ite_of (fun _ => ?_) (fun _ => ?_) | split | dsimp only

theorem beginTakeover_get {φ : Fld} (hφ : φ ∉ completeTakeoverF) (seq : Nat) (ok : Bool) (s : State)  :
    φ.get (beginTakeover seq ok s) = φ.get s := by
  have h0 := @checkTakeover_get φ (hφ)
  have h1 := @sendAll_get φ (Fld.mono hφ rfl)
  have h2 := @setFailover_get φ (Fld.mono hφ rfl)
  have h3 := @setSwitchOk_get φ (Fld.mono hφ rfl)
  have h4 := @setSwitchSeq_get φ (Fld.mono hφ rfl)
  have h5 := @setTakeover_get φ (Fld.mono hφ rfl)
  unfold beginTakeover
  with_reducible
    repeat' first
    | rfl | refine (h0 _).trans ?_ | refine (h1 _ _).trans ?_ | refine (h2 _ _).trans ?_ | refine (h3 _ _).trans ?_
    | refine (h4 _ _).trans ?_ | refine (h5 _ _).trans ?_ | refine get_ite_of (fun _ => ?_) (fun _ => ?_) | split
    | dsimp only

theorem execTakeover_kept {φ : Fld} (hφ : φ ∉ [.sent, .hub]) (hub : Nat) (s : State)  :
    Kept φ (execTakeover hub s) s := by
  have h0 := @modHub_get φ (Fld.mono hφ rfl)
  have h1 := @send_get φ (Fld.mono hφ rfl)
  unfold execTakeover
  with_reducible
    repeat' first
    | rfl | refine (h0 _ _ _).trans ?_ | refine (h1 _ _).trans ?_
    | refine arrive_kept (Fld.mono hφ rfl) _ _ _ (fun _ => ?_) | refine kept_next.2 ?_
    | refine kept_ite (fun _ => ?_) (fun _ => ?_) | refine get_ite_of (fun _ => ?_) (fun _ => ?_) | split | dsimp only

/-- Fields that execControlResponse may change. -/
def controlResponseF : List Fld :=
  logF ++ ([.mgrA, .mgrB, .active, .failover, .checked, .takeover, .switchSeq, .switchOk, .hub, .part, .answers] : List Fld)

theorem execControlResponse_kept {φ : Fld} (hφ : φ ∉ controlResponseF) (unit cls opcode tag status : Nat) (empty : Bool) (s : State)  :
    Kept φ (execControlResponse unit cls opcode tag status empty s) s := by
  have h0 := @checkTakeover_get φ (Fld.mono hφ rfl)
  have h1 := @judgeRas_get φ (Fld.mono hφ rfl)
  have h2 := @modMgr_get φ (Fld.mono hφ rfl)
  have h3 := @setAnswers_get φ (Fld.mono hφ rfl)
  have h4 := @setTakeover_get φ (Fld.mono hφ rfl)
  unfold execControlResponse
  with_reducible
    repeat' first
    | rfl | refine (h0 _).trans ?_ | refine (h1 _ _ _).trans ?_ | refine (h2 _ _ _).trans ?_
    | refine (h3 _ _).trans ?_ | refine (h4 _ _).trans ?_ | refine arrive_kept (Fld.mono hφ rfl) _ _ _ (fun _ => ?_)
    | refine kept_next.2 ?_ | refine kept_ite (fun _ => ?_) (fun _ => ?_)
    | refine get_ite_of (fun _ => ?_) (fun _ => ?_) | split | dsimp only

/-- Fields that execHubWatchMissed may change. -/
def hubWatchMissedF : List Fld :=
  logF ++ ([.slot, .mgrA, .mgrB, .active, .failover, .checked, .takeover, .switchSeq, .switchOk, .journalSeq,
    .journal, .rasCheck, .health, .unflushed, .deepPassed, .marginPrev, .sparesLow, .sen, .hub, .part, .xlat0,
    .xlat1, .routes0, .routes1, .screens, .screenReqs, .throttle, .stop, .gcount, .coreTx, .coreTag] : List Fld)

theorem execHubWatchMissed_kept {φ : Fld} (hφ : φ ∉ hubWatchMissedF) (sector : Nat) (s : State)  :
    Kept φ (execHubWatchMissed sector s) s := by
  have h0 := @checkTakeover_get φ (Fld.mono hφ rfl)
  have h1 := @failHub_get φ (Fld.mono hφ rfl)
  have h2 := @setTakeover_get φ (Fld.mono hφ rfl)
  unfold execHubWatchMissed
  with_reducible
    repeat' first
    | rfl | refine (h0 _).trans ?_ | refine (h1 _ _).trans ?_ | refine (h2 _ _).trans ?_ | refine kept_next.2 ?_
    | refine kept_ite (fun _ => ?_) (fun _ => ?_) | refine get_ite_of (fun _ => ?_) (fun _ => ?_) | split | dsimp only

theorem execHeartbeatTimer_kept {φ : Fld} (hφ : φ ∉ [.sent]) (die : Nat) (s : State)  :
    Kept φ (execHeartbeatTimer die s) s := by
  have h0 := @send_get φ (hφ)
  unfold execHeartbeatTimer
  with_reducible
    repeat' first
    | rfl | refine (h0 _ _).trans ?_ | refine kept_next.2 ?_ | refine kept_ite (fun _ => ?_) (fun _ => ?_)
    | refine get_ite_of (fun _ => ?_) (fun _ => ?_) | split | dsimp only

/-- Fields that execHeartbeat may change. -/
def heartbeatF : List Fld :=
  [.sent, .mgrA, .mgrB, .hub]

theorem execHeartbeat_kept {φ : Fld} (hφ : φ ∉ heartbeatF) (die : Nat) (ras : Dword) (role : Nat) (s : State)  :
    Kept φ (execHeartbeat die ras role s) s := by
  have h0 := @modMgr_get φ (Fld.mono hφ rfl)
  have h1 := @receive_get φ (Fld.mono hφ rfl)
  unfold execHeartbeat
  with_reducible
    repeat' first
    | rfl | refine (h0 _ _ _).trans ?_ | refine (h1 _ _).trans ?_ | refine kept_next.2 ?_
    | refine kept_ite (fun _ => ?_) (fun _ => ?_) | refine get_ite_of (fun _ => ?_) (fun _ => ?_) | split | dsimp only

/-- Fields that bringUpAsActive may change. -/
def bringUpAsActiveF : List Fld :=
  logF ++ ([.slot, .image, .mgrA, .mgrB, .active, .journalSeq, .journal, .health, .marginPrev, .sparesLow,
    .sensors, .sramLog, .memLog, .sen, .hub, .part, .xlat0, .xlat1, .routes0, .routes1, .net, .throttle] : List Fld)

theorem bringUpAsActive_get {φ : Fld} (hφ : φ ∉ bringUpAsActiveF) (s : State)  :
    φ.get (bringUpAsActive s) = φ.get s := by
  have h0 := @modMgr_get φ (Fld.mono hφ rfl)
  have h1 := @noSlotLeft_get φ (Fld.mono hφ rfl)
  have h2 := @setActive_get φ (Fld.mono hφ rfl)
  have h3 := @setImage_get φ (Fld.mono hφ rfl)
  have h4 := @setTry_get φ (Fld.mono hφ rfl)
  have h5 := @settleOther_get φ (Fld.mono hφ rfl)
  unfold bringUpAsActive
  with_reducible
    repeat' first
    | rfl | refine (h0 _ _ _).trans ?_ | refine (h1 _ _).trans ?_ | refine (h2 _ _).trans ?_
    | refine (h3 _ _).trans ?_ | refine (h4 _ _ _ _).trans ?_ | refine (h5 _).trans ?_
    | refine get_ite_of (fun _ => ?_) (fun _ => ?_) | split | dsimp only

theorem loseDie_get {φ : Fld} (hφ : φ ∉ [.mgrA, .mgrB]) (die : Nat) (s : State)  :
    φ.get (loseDie die s) = φ.get s := by
  have h0 := @modMgr_get φ (hφ)
  unfold loseDie
  with_reducible
    repeat' first
    | rfl | refine (h0 _ _ _).trans ?_ | refine get_ite_of (fun _ => ?_) (fun _ => ?_) | split | dsimp only

/-- Fields that execHeartbeatLoss may change. -/
def heartbeatLossF : List Fld :=
  logF ++ ([.slot, .image, .mgrA, .mgrB, .active, .failover, .checked, .takeover, .switchSeq, .switchOk,
    .journalSeq, .journal, .health, .marginPrev, .sparesLow, .sensors, .sramLog, .memLog, .sen, .hub, .part,
    .xlat0, .xlat1, .routes0, .routes1, .net, .throttle] : List Fld)

theorem execHeartbeatLoss_kept {φ : Fld} (hφ : φ ∉ heartbeatLossF) (die : Bool) (s : State)  :
    Kept φ (execHeartbeatLoss die s) s := by
  have h0 := @beginTakeover_get φ (Fld.mono hφ rfl)
  have h1 := @bringUpAsActive_get φ (Fld.mono hφ rfl)
  have h2 := @loseDie_get φ (Fld.mono hφ rfl)
  have h3 := @modMgr_get φ (Fld.mono hφ rfl)
  unfold execHeartbeatLoss
  with_reducible
    repeat' first
    | rfl | refine (h0 _ _ _).trans ?_ | refine (h1 _).trans ?_ | refine (h2 _ _).trans ?_
    | refine (h3 _ _ _).trans ?_ | refine kept_next.2 ?_ | refine kept_ite (fun _ => ?_) (fun _ => ?_)
    | refine get_ite_of (fun _ => ?_) (fun _ => ?_) | split | dsimp only

/-- Fields that execStandbyLoss may change. -/
def standbyLossF : List Fld :=
  [.sent, .mgrA, .mgrB, .checked, .recorder, .win, .portA, .portB]

theorem execStandbyLoss_kept {φ : Fld} (hφ : φ ∉ standbyLossF) (die : Bool) (s : State)  :
    Kept φ (execStandbyLoss die s) s := by
  have h0 := @loseDie_get φ (Fld.mono hφ rfl)
  have h1 := @modMgr_get φ (Fld.mono hφ rfl)
  have h2 := @modRec_get φ (Fld.mono hφ rfl)
  have h3 := @recorderAlert_get φ (Fld.mono hφ rfl)
  have h4 := @setChecked_get φ (Fld.mono hφ rfl)
  unfold execStandbyLoss
  with_reducible
    repeat' first
    | rfl | refine (h0 _ _).trans ?_ | refine (h1 _ _ _).trans ?_ | refine (h2 _ _).trans ?_
    | refine (h3 _ _).trans ?_ | refine (h4 _ _).trans ?_ | refine kept_next.2 ?_
    | refine kept_ite (fun _ => ?_) (fun _ => ?_) | refine get_ite_of (fun _ => ?_) (fun _ => ?_) | split | dsimp only

theorem execManagerSwitchover_kept {φ : Fld} (hφ : φ ∉ completeTakeoverF) (seq : Nat) (journalOk : Bool) (s : State)  :
    Kept φ (execManagerSwitchover seq journalOk s) s := by
  have h0 := @beginTakeover_get φ (hφ)
  unfold execManagerSwitchover
  with_reducible
    repeat' first
    | rfl | refine (h0 _ _ _).trans ?_ | refine runCmd_kept (Fld.mono hφ rfl) _ _ _ _ ?_ | refine kept_next.2 ?_
    | refine kept_ite (fun _ => ?_) (fun _ => ?_) | refine get_ite_of (fun _ => ?_) (fun _ => ?_) | split | dsimp only

theorem execMramFailure_kept {φ : Fld} (hφ : φ ∉ completeTakeoverF) (die : Nat) (s : State)  :
    Kept φ (execMramFailure die s) s := by
  have h0 := @beginTakeover_get φ (hφ)
  have h1 := @modMgr_get φ (Fld.mono hφ rfl)
  have h2 := @modRec_get φ (Fld.mono hφ rfl)
  have h3 := @raiseFatal_get φ (Fld.mono hφ rfl)
  have h4 := @recorderAlert_get φ (Fld.mono hφ rfl)
  unfold execMramFailure
  with_reducible
    repeat' first
    | rfl | refine (h0 _ _ _).trans ?_ | refine (h1 _ _ _).trans ?_ | refine (h2 _ _).trans ?_
    | refine (h3 _ _).trans ?_ | refine (h4 _ _).trans ?_ | refine kept_next.2 ?_
    | refine kept_ite (fun _ => ?_) (fun _ => ?_) | refine get_ite_of (fun _ => ?_) (fun _ => ?_) | split | dsimp only

theorem execJournalEntry_kept {φ : Fld} (hφ : φ ∉ [.sent, .hub]) (entry : JournalEntry) (s : State)  :
    Kept φ (execJournalEntry entry s) s := by
  have h0 := @receive_get φ (hφ)
  have h1 := @send_get φ (Fld.mono hφ rfl)
  unfold execJournalEntry
  with_reducible
    repeat' first
    | rfl | refine (h0 _ _).trans ?_ | refine (h1 _ _).trans ?_ | refine kept_next.2 ?_
    | refine kept_ite (fun _ => ?_) (fun _ => ?_) | refine get_ite_of (fun _ => ?_) (fun _ => ?_) | split | dsimp only

theorem execAudit_kept {φ : Fld} (hφ : φ ∉ [.sent, .auditAlarm, .hub]) (sequence : Nat) (agree : Bool) (s : State)  :
    Kept φ (execAudit sequence agree s) s := by
  have h0 := @receive_get φ (Fld.mono hφ rfl)
  have h1 := @setAuditAlarm_get φ (Fld.mono hφ rfl)
  unfold execAudit
  with_reducible
    repeat' first
    | rfl | refine (h0 _ _).trans ?_ | refine (h1 _ _).trans ?_ | refine kept_next.2 ?_
    | refine kept_ite (fun _ => ?_) (fun _ => ?_) | refine get_ite_of (fun _ => ?_) (fun _ => ?_) | split | dsimp only

/-- Fields that execPinState may change. -/
def pinStateF : List Fld :=
  [.sent, .hub, .portA, .portB]

theorem execPinState_kept {φ : Fld} (hφ : φ ∉ pinStateF) (pins : Nat) (s : State)  :
    Kept φ (execPinState pins s) s := by
  have h0 := @modPort_get φ (Fld.mono hφ rfl)
  have h1 := @receive_get φ (Fld.mono hφ rfl)
  unfold execPinState
  with_reducible
    repeat' first
    | rfl | refine (h0 _ _ _).trans ?_ | refine (h1 _ _).trans ?_ | refine kept_next.2 ?_
    | refine kept_ite (fun _ => ?_) (fun _ => ?_) | refine get_ite_of (fun _ => ?_) (fun _ => ?_) | split | dsimp only

theorem failCmds_get {φ : Fld} (hφ : φ ∉ logF) (seqs : List Nat) (s : State)  :
    φ.get (failCmds seqs s) = φ.get s := by
  have h0 := @completeAll_get φ (hφ)
  unfold failCmds
  with_reducible
    repeat' first
    | rfl | refine (h0 _ _ _ _).trans ?_ | refine get_ite_of (fun _ => ?_) (fun _ => ?_) | split | dsimp only

theorem abandonWork_get {φ : Fld} (hφ : φ ∉ abandonSwapF) (p : Nat) (s : State)  :
    φ.get (abandonWork p s) = φ.get s := by
  have h0 := @abandonSwaps_get φ (hφ)
  have h1 := @failCmds_get φ (Fld.mono hφ rfl)
  have h2 := @modPart_get φ (Fld.mono hφ rfl)
  unfold abandonWork
  with_reducible
    repeat' first
    | rfl | refine (h0 _ _).trans ?_ | refine (h1 _ _).trans ?_ | refine (h2 _ _ _).trans ?_
    | refine get_ite_of (fun _ => ?_) (fun _ => ?_) | split | dsimp only

theorem flushRecords_get {φ : Fld} (hφ : φ ∉ [.mramA, .mramB, .recorder]) (written : Nat) (s : State)  :
    φ.get (flushRecords written s) = φ.get s := by
  have h0 := @modRec_get φ (Fld.mono hφ rfl)
  have h1 := @ringWriteAll_get φ (hφ)
  have h2 := @setMramA_get φ (Fld.mono hφ rfl)
  have h3 := @setMramB_get φ (Fld.mono hφ rfl)
  unfold flushRecords
  with_reducible
    repeat' first
    | rfl | refine (h0 _ _).trans ?_ | refine (h1 _ _ _).trans ?_ | refine (h2 _ _).trans ?_
    | refine (h3 _ _).trans ?_ | refine get_ite_of (fun _ => ?_) (fun _ => ?_) | split | dsimp only

/-- Fields that cutTakeover may change. -/
def cutTakeoverF : List Fld :=
  logF ++ ([.mgrA, .mgrB, .active, .failover, .checked, .takeover, .switchSeq, .switchOk] : List Fld)

theorem cutTakeover_get {φ : Fld} (hφ : φ ∉ cutTakeoverF) (s : State)  :
    φ.get (cutTakeover s) = φ.get s := by
  have h0 := @adoptRecorder_get φ (Fld.mono hφ rfl)
  have h1 := @failCmds_get φ (Fld.mono hφ rfl)
  have h2 := @modMgr_get φ (Fld.mono hφ rfl)
  have h3 := @serveMailbox_get φ (Fld.mono hφ rfl)
  have h4 := @setActive_get φ (Fld.mono hφ rfl)
  have h5 := @setChecked_get φ (Fld.mono hφ rfl)
  have h6 := @setFailover_get φ (Fld.mono hφ rfl)
  have h7 := @setSent_get φ (Fld.mono hφ rfl)
  have h8 := @setSwitchOk_get φ (Fld.mono hφ rfl)
  have h9 := @setSwitchSeq_get φ (Fld.mono hφ rfl)
  have h10 := @setTakeover_get φ (Fld.mono hφ rfl)
  unfold cutTakeover
  with_reducible
    repeat' first
    | rfl | refine (h0 _).trans ?_ | refine (h1 _ _).trans ?_ | refine (h2 _ _ _).trans ?_ | refine (h3 _).trans ?_
    | refine (h4 _ _).trans ?_ | refine (h5 _ _).trans ?_ | refine (h6 _ _).trans ?_ | refine (h7 _ _).trans ?_
    | refine (h8 _ _).trans ?_ | refine (h9 _ _).trans ?_ | refine (h10 _ _).trans ?_
    | refine get_ite_of (fun _ => ?_) (fun _ => ?_) | split | dsimp only

/-- Fields that execPwrWarnN may change. -/
def pwrWarnNF : List Fld :=
  logF ++ ([.warn, .noRuns, .mgrA, .mgrB, .active, .failover, .checked, .takeover, .switchSeq, .switchOk,
    .journalSeq, .journal, .setBusy, .health, .unflushed, .sparesLow, .sen, .hub, .part, .xlat0, .xlat1,
    .routes0, .routes1] : List Fld)

theorem execPwrWarnN_kept {φ : Fld} (hφ : φ ∉ pwrWarnNF) (written : Nat) (s : State)  :
    Kept φ (execPwrWarnN written s) s := by
  have h0 := @abandonWork_get φ (Fld.mono hφ rfl)
  have h1 := @cutTakeover_get φ (Fld.mono hφ rfl)
  have h2 := @discardRuns_get φ (Fld.mono hφ rfl)
  have h3 := @failCmds_get φ (Fld.mono hφ rfl)
  have h4 := @flushCount_get φ (Fld.mono hφ rfl)
  have h5 := @flushRecords_get φ (Fld.mono hφ rfl)
  have h6 := @modBoot_get φ (Fld.mono hφ rfl)
  have h7 := @modRec_get φ (Fld.mono hφ rfl)
  have h8 := @setNoRuns_get φ (Fld.mono hφ rfl)
  have h9 := @setSetBusy_get φ (Fld.mono hφ rfl)
  have h10 := @setWarn_get φ (Fld.mono hφ rfl)
  have h11 := @writeBoot_get φ (Fld.mono hφ rfl)
  unfold execPwrWarnN
  with_reducible
    repeat' first
    | rfl | refine (h0 _ _).trans ?_ | refine (h1 _).trans ?_ | refine (h2 _ _).trans ?_ | refine (h3 _ _).trans ?_
    | refine (h4 _ _).trans ?_ | refine (h5 _ _).trans ?_ | refine (h6 _ _).trans ?_ | refine (h7 _ _).trans ?_
    | refine (h8 _ _).trans ?_ | refine (h9 _ _).trans ?_ | refine (h10 _ _).trans ?_ | refine (h11 _ _).trans ?_
    | refine (each_get _ _ (fun _ _ => ?_) _).trans ?_ | refine kept_next.2 ?_
    | refine kept_ite (fun _ => ?_) (fun _ => ?_) | refine get_ite_of (fun _ => ?_) (fun _ => ?_) | split | dsimp only

/-- Fields that execPwrWarnReturn may change. -/
def pwrWarnReturnF : List Fld :=
  logF ++ ([.slot, .warn, .journalSeq, .journal, .health, .unflushed, .deepPassed, .marginPrev, .sparesLow, .sen,
    .hub, .part, .xlat0, .xlat1, .routes0, .routes1, .screens, .screenReqs, .stop, .gcount] : List Fld)

theorem execPwrWarnReturn_kept {φ : Fld} (hφ : φ ∉ pwrWarnReturnF) (s : State)  :
    Kept φ (execPwrWarnReturn s) s := by
  have h0 := @checkBoundary_get φ (Fld.mono hφ rfl)
  have h1 := @modRec_get φ (Fld.mono hφ rfl)
  have h2 := @setWarn_get φ (Fld.mono hφ rfl)
  have h3 := @tryCommit_get φ (Fld.mono hφ rfl)
  unfold execPwrWarnReturn
  with_reducible
    repeat' first
    | rfl | refine (h0 _ _).trans ?_ | refine (h1 _ _).trans ?_ | refine (h2 _ _).trans ?_ | refine (h3 _ _).trans ?_
    | refine (each_get _ _ (fun _ _ => ?_) _).trans ?_ | refine kept_next.2 ?_
    | refine kept_ite (fun _ => ?_) (fun _ => ?_) | refine get_ite_of (fun _ => ?_) (fun _ => ?_) | split | dsimp only

end Sys2Proof.Machine
end

