-- ==== Sys2Proof/Laws/FrameNet.lean ====
section
/-!
SUPPORT. Frames of the operations of Machine/Net.lean.
-/
namespace Sys2Proof.Machine

open Sys2Proof

set_option linter.all false
set_option Elab.async false

theorem removePeers_get {φ : Fld} (hφ : φ ∉ [.part]) (port : Nat) (s : State)  :
    φ.get (removePeers port s) = φ.get s := by
  have h0 := @modPart_get φ (hφ)
  unfold removePeers
  with_reducible
    repeat' first
    | rfl | refine (h0 _ _ _).trans ?_ | refine (each_get _ _ (fun _ _ => ?_) _).trans ?_
    | refine get_ite_of (fun _ => ?_) (fun _ => ?_) | split | dsimp only

/-- Fields that configureNet may change. -/
def configureNetF : List Fld :=
  logF ++ ([.part, .net] : List Fld)

theorem configureNet_get {φ : Fld} (hφ : φ ∉ configureNetF) (kind index result time : Nat) (settings : List Byte) (s : State)  :
    φ.get (configureNet kind index result time settings s) = φ.get s := by
  have h0 := @keepSettings_get φ (Fld.mono hφ rfl)
  have h1 := @removePeers_get φ (Fld.mono hφ rfl)
  have h2 := @setNet_get φ (Fld.mono hφ rfl)
  have h3 := @trainingResult_get φ (Fld.mono hφ rfl)
  unfold configureNet
  with_reducible
    repeat' first
    | rfl | refine (h0 _ _ _ _).trans ?_ | refine (h1 _ _).trans ?_ | refine (h2 _ _).trans ?_
    | refine (h3 _ _ _ _ _).trans ?_ | refine get_ite_of (fun _ => ?_) (fun _ => ?_) | split | dsimp only

theorem execNetConfigure_kept {φ : Fld} (hφ : φ ∉ configureNetF) (seq result time : Nat) (settings : List Byte) (s : State)  :
    Kept φ (execNetConfigure seq result time settings s) s := by
  have h0 := @complete_get φ (Fld.mono hφ rfl)
  have h1 := @configureNet_get φ (hφ)
  unfold execNetConfigure
  with_reducible
    repeat' first
    | rfl | refine (h0 _ _ _ _).trans ?_ | refine (h1 _ _ _ _ _ _).trans ?_
    | refine runCmd_kept (Fld.mono hφ rfl) _ _ _ _ ?_ | refine kept_next.2 ?_
    | refine kept_ite (fun _ => ?_) (fun _ => ?_) | refine get_ite_of (fun _ => ?_) (fun _ => ?_) | split | dsimp only

theorem execNetStatus_kept {φ : Fld} (hφ : φ ∉ logF) (seq : Nat) (s : State)  :
    Kept φ (execNetStatus seq s) s := by
  have h0 := @complete_get φ (hφ)
  unfold execNetStatus
  with_reducible
    repeat' first
    | rfl | refine (h0 _ _ _ _).trans ?_ | refine runCmd_kept (Fld.mono hφ rfl) _ _ _ _ ?_ | refine kept_next.2 ?_
    | refine kept_ite (fun _ => ?_) (fun _ => ?_) | refine get_ite_of (fun _ => ?_) (fun _ => ?_) | split | dsimp only

end Sys2Proof.Machine
end

