-- ==== Sys2Proof/Laws/FramePartitionCmd.lean ====
section
/-!
SUPPORT. Frames of the operations of Machine/PartitionCmd.lean.
-/
namespace Sys2Proof.Machine

open Sys2Proof

set_option linter.all false
set_option Elab.async false

theorem giveUp_get {φ : Fld} (hφ : φ ∉ [.part]) (mask q : Nat) (s : State)  :
    φ.get (giveUp mask q s) = φ.get s := by
  have h0 := @modPart_get φ (hφ)
  unfold giveUp
  with_reducible
    repeat' first
    | rfl | refine (h0 _ _ _).trans ?_ | refine get_ite_of (fun _ => ?_) (fun _ => ?_) | split | dsimp only

theorem definePartition_get {φ : Fld} (hφ : φ ∉ [.part, .gcount]) (p mask : Nat) (s : State)  :
    φ.get (definePartition p mask s) = φ.get s := by
  have h0 := @giveUp_get φ (Fld.mono hφ rfl)
  have h1 := @modPart_get φ (Fld.mono hφ rfl)
  have h2 := @setGcount_get φ (Fld.mono hφ rfl)
  unfold definePartition
  with_reducible
    repeat' first
    | rfl | refine (h0 _ _ _).trans ?_ | refine (h1 _ _ _).trans ?_ | refine (h2 _ _).trans ?_
    | refine (each_get _ _ (fun _ _ => ?_) _).trans ?_ | refine (foldl_get _ _ (fun _ _ => ?_) _).trans ?_
    | refine (foldl_fst_get _ _ (fun _ _ => ?_) _).trans ?_ | refine (foldl_snd_get _ _ (fun _ _ => ?_) _).trans ?_
    | refine get_ite_of (fun _ => ?_) (fun _ => ?_) | split | dsimp only

theorem execPartitionDefine_kept {φ : Fld} (hφ : φ ∉ lateDetectionF) (seq : Nat) (s : State)  :
    Kept φ (execPartitionDefine seq s) s := by
  have h0 := @complete_get φ (Fld.mono hφ rfl)
  have h1 := @definePartition_get φ (Fld.mono hφ rfl)
  unfold execPartitionDefine
  with_reducible
    repeat' first
    | rfl | refine (h0 _ _ _ _).trans ?_ | refine (h1 _ _ _).trans ?_
    | refine runCmd_kept (Fld.mono hφ rfl) _ _ _ _ ?_ | refine kept_next.2 ?_
    | refine kept_ite (fun _ => ?_) (fun _ => ?_) | refine get_ite_of (fun _ => ?_) (fun _ => ?_) | split | dsimp only

theorem execPartitionFence_kept {φ : Fld} (hφ : φ ∉ yieldToFenceF) (seq : Nat) (s : State)  :
    Kept φ (execPartitionFence seq s) s := by
  have h0 := @startFence_get φ (hφ)
  unfold execPartitionFence
  with_reducible
    repeat' first
    | rfl | refine (h0 _ _ _ _ _).trans ?_ | refine runCmd_kept (Fld.mono hφ rfl) _ _ _ _ ?_ | refine kept_next.2 ?_
    | refine kept_ite (fun _ => ?_) (fun _ => ?_) | refine get_ite_of (fun _ => ?_) (fun _ => ?_) | split | dsimp only

theorem execPartitionReset_kept {φ : Fld} (hφ : φ ∉ yieldToFenceF) (seq : Nat) (s : State)  :
    Kept φ (execPartitionReset seq s) s := by
  have h0 := @startFence_get φ (hφ)
  unfold execPartitionReset
  with_reducible
    repeat' first
    | rfl | refine (h0 _ _ _ _ _).trans ?_ | refine runCmd_kept (Fld.mono hφ rfl) _ _ _ _ ?_ | refine kept_next.2 ?_
    | refine kept_ite (fun _ => ?_) (fun _ => ?_) | refine get_ite_of (fun _ => ?_) (fun _ => ?_) | split | dsimp only

theorem releasePartition_get {φ : Fld} (hφ : φ ∉ prepareSwapF) (p : Nat) (s : State)  :
    φ.get (releasePartition p s) = φ.get s := by
  have h0 := @detachJob_get φ (hφ)
  have h1 := @modPart_get φ (Fld.mono hφ rfl)
  have h2 := @modSen_get φ (Fld.mono hφ rfl)
  have h3 := @resumeJob_get φ (Fld.mono hφ rfl)
  unfold releasePartition
  with_reducible
    repeat' first
    | rfl | refine (h0 _ _).trans ?_ | refine (h1 _ _ _).trans ?_ | refine (h2 _ _ _).trans ?_
    | refine (h3 _ _ _).trans ?_ | refine (each_get _ _ (fun _ _ => ?_) _).trans ?_
    | refine get_ite_of (fun _ => ?_) (fun _ => ?_) | split | dsimp only

theorem execPartitionRelease_kept {φ : Fld} (hφ : φ ∉ prepareSwapF) (seq : Nat) (s : State)  :
    Kept φ (execPartitionRelease seq s) s := by
  have h0 := @complete_get φ (Fld.mono hφ rfl)
  have h1 := @releasePartition_get φ (hφ)
  unfold execPartitionRelease
  with_reducible
    repeat' first
    | rfl | refine (h0 _ _ _ _).trans ?_ | refine (h1 _ _).trans ?_ | refine runCmd_kept (Fld.mono hφ rfl) _ _ _ _ ?_
    | refine kept_next.2 ?_ | refine kept_ite (fun _ => ?_) (fun _ => ?_)
    | refine get_ite_of (fun _ => ?_) (fun _ => ?_) | split | dsimp only

theorem startTeardown_get {φ : Fld} (hφ : φ ∉ acceptF) (p mask seq : Nat) (s : State)  :
    φ.get (startTeardown p mask seq s) = φ.get s := by
  have h0 := @finishTeardown_get φ (hφ)
  have h1 := @modPart_get φ (Fld.mono hφ rfl)
  unfold startTeardown
  with_reducible
    repeat' first
    | rfl | refine (h0 _ _).trans ?_ | refine (h1 _ _ _).trans ?_ | refine get_ite_of (fun _ => ?_) (fun _ => ?_)
    | split | dsimp only

theorem execContextTeardown_kept {φ : Fld} (hφ : φ ∉ acceptF) (seq : Nat) (s : State)  :
    Kept φ (execContextTeardown seq s) s := by
  have h0 := @modPart_get φ (Fld.mono hφ rfl)
  have h1 := @startTeardown_get φ (hφ)
  unfold execContextTeardown
  with_reducible
    repeat' first
    | rfl | refine (h0 _ _ _).trans ?_ | refine (h1 _ _ _ _).trans ?_
    | refine runCmd_kept (Fld.mono hφ rfl) _ _ _ _ ?_ | refine kept_next.2 ?_
    | refine kept_ite (fun _ => ?_) (fun _ => ?_) | refine get_ite_of (fun _ => ?_) (fun _ => ?_) | split | dsimp only

theorem attachHub_get {φ : Fld} (hφ : φ ∉ [.hub]) (seed : Dword) (h : Nat) (s : State)  :
    φ.get (attachHub seed h s) = φ.get s := by
  have h0 := @modHub_get φ (hφ)
  have h1 := @wakeUnits_get φ (hφ)
  unfold attachHub
  with_reducible
    repeat' first
    | rfl | refine (h0 _ _ _).trans ?_ | refine (h1 _ _).trans ?_ | refine get_ite_of (fun _ => ?_) (fun _ => ?_)
    | split | dsimp only

theorem attachTile_get {φ : Fld} (hφ : φ ∉ [.sen, .hub]) (seed : Dword) (tile : Nat) (s : State)  :
    φ.get (attachTile seed tile s) = φ.get s := by
  have h0 := @keepKey_get φ (hφ)
  have h1 := @loadSample_get φ (hφ)
  have h2 := @modSen_get φ (Fld.mono hφ rfl)
  unfold attachTile
  with_reducible
    repeat' first
    | rfl | refine (h0 _ _ _ _).trans ?_ | refine (h1 _ _).trans ?_ | refine (h2 _ _ _).trans ?_
    | refine get_ite_of (fun _ => ?_) (fun _ => ?_) | split | dsimp only

theorem endStress_get {φ : Fld} (hφ : φ ∉ discardRunF) (h : Nat) (s : State)  :
    φ.get (endStress h s) = φ.get s := by
  have h0 := @discardRun_get φ (hφ)
  unfold endStress
  with_reducible
    repeat' first
    | rfl | refine (h0 _ _ _).trans ?_ | refine get_ite_of (fun _ => ?_) (fun _ => ?_) | split | dsimp only

theorem attachJob_get {φ : Fld} (hφ : φ ∉ finishScreenF) (p seq : Nat) (j : Job) (peers : List Peer) (s : State)  :
    φ.get (attachJob p seq j peers s) = φ.get s := by
  have h0 := @attachHub_get φ (Fld.mono hφ rfl)
  have h1 := @attachTile_get φ (Fld.mono hφ rfl)
  have h2 := @endStress_get φ (Fld.mono hφ rfl)
  have h3 := @loadDefault_get φ (Fld.mono hφ rfl)
  have h4 := @modPart_get φ (Fld.mono hφ rfl)
  have h5 := @nextRun_get φ (hφ)
  have h6 := @record_get φ (Fld.mono hφ rfl)
  have h7 := @requestSwap_get φ (Fld.mono hφ rfl)
  have h8 := @retrySuspects_get φ (Fld.mono hφ rfl)
  unfold attachJob
  with_reducible
    repeat' first
    | rfl | refine (h0 _ _ _).trans ?_ | refine (h1 _ _ _).trans ?_ | refine (h2 _ _).trans ?_
    | refine (h3 _ _ _ _).trans ?_ | refine (h4 _ _ _).trans ?_ | refine (h5 _ _).trans ?_
    | refine (h6 _ _ _).trans ?_ | refine (h7 _ _ _ _).trans ?_ | refine (h8 _ _).trans ?_
    | refine (each_get _ _ (fun _ _ => ?_) _).trans ?_ | refine get_ite_of (fun _ => ?_) (fun _ => ?_) | split
    | dsimp only

theorem execJobAttach_kept {φ : Fld} (hφ : φ ∉ finishScreenF) (seq : Nat) (s : State)  :
    Kept φ (execJobAttach seq s) s := by
  have h0 := @attachJob_get φ (hφ)
  unfold execJobAttach
  with_reducible
    repeat' first
    | rfl | refine (h0 _ _ _ _ _).trans ?_ | refine runCmd_kept (Fld.mono hφ rfl) _ _ _ _ ?_ | refine kept_next.2 ?_
    | refine kept_ite (fun _ => ?_) (fun _ => ?_) | refine get_ite_of (fun _ => ?_) (fun _ => ?_) | split | dsimp only

theorem rotateSector_get {φ : Fld} (hφ : φ ∉ forceDeepF) (sector : Nat) (x0 : Nat) (x1 : List Nat) (s : State) :
    φ.get (rotateSector sector x0 x1 s).2 = φ.get s := by
  have h0 := @moveTile_get φ (Fld.mono hφ rfl)
  have h1 := @startDeep_get φ (hφ)
  induction x0 generalizing x1 s with
  | zero => rfl
  | succ n ih =>
    unfold rotateSector
    dsimp only
    split
    · rw [ih]; simp only [h0, h1]
    · rfl

theorem rotateAll_get {φ : Fld} (hφ : φ ∉ forceDeepF) (sectors : List Nat) (s : State)  :
    φ.get (rotateAll sectors s).2 = φ.get s := by
  have h0 := @rotateSector_get φ (hφ)
  unfold rotateAll
  with_reducible
    repeat' first
    | rfl | refine (h0 _ _ _ _).trans ?_ | refine (foldl_get _ _ (fun _ _ => ?_) _).trans ?_
    | refine (foldl_fst_get _ _ (fun _ _ => ?_) _).trans ?_ | refine (foldl_snd_get _ _ (fun _ _ => ?_) _).trans ?_
    | refine get_ite_of (fun _ => ?_) (fun _ => ?_) | split | dsimp only

theorem returnLent_get {φ : Fld} (hφ : φ ∉ prepareSwapF) (site : Nat) (x : Nat × State)  :
    φ.get (returnLent site x).2 = φ.get x.2 := by
  have h0 := @moveTile_get φ (Fld.mono hφ rfl)
  have h1 := @retrySuspects_get φ (hφ)
  unfold returnLent
  with_reducible
    repeat' first
    | rfl | refine (h0 _ _ _ _ _ _ _).trans ?_ | refine (h1 _ _).trans ?_
    | refine get_ite_of (fun _ => ?_) (fun _ => ?_) | split | dsimp only

theorem returnAll_get {φ : Fld} (hφ : φ ∉ prepareSwapF) (sites : List Nat) (s : State)  :
    φ.get (returnAll sites s).2 = φ.get s := by
  have h0 := @returnLent_get φ (hφ)
  unfold returnAll
  with_reducible
    repeat' first
    | rfl | refine (h0 _ _).trans ?_ | refine (foldl_get _ _ (fun _ _ => ?_) _).trans ?_
    | refine (foldl_fst_get _ _ (fun _ _ => ?_) _).trans ?_ | refine (foldl_snd_get _ _ (fun _ _ => ?_) _).trans ?_
    | refine get_ite_of (fun _ => ?_) (fun _ => ?_) | split | dsimp only

theorem settleSettings_get {φ : Fld} (hφ : φ ∉ takeSnapshotF) (p : Nat) (s : State)  :
    φ.get (settleSettings p s) = φ.get s := by
  have h0 := @completeAll_get φ (Fld.mono hφ rfl)
  have h1 := @modPart_get φ (Fld.mono hφ rfl)
  have h2 := @modSen_get φ (Fld.mono hφ rfl)
  unfold settleSettings
  with_reducible
    repeat' first
    | rfl | refine (h0 _ _ _ _).trans ?_ | refine (h1 _ _ _).trans ?_ | refine (h2 _ _ _).trans ?_
    | refine (each_get _ _ (fun _ _ => ?_) _).trans ?_ | refine get_ite_of (fun _ => ?_) (fun _ => ?_) | split
    | dsimp only

theorem detachByCommand_get {φ : Fld} (hφ : φ ∉ forceDeepF) (p : Nat) (s : State)  :
    φ.get (detachByCommand p s).2.2 = φ.get s := by
  have h0 := @detachJob_get φ (Fld.mono hφ rfl)
  have h1 := @returnAll_get φ (Fld.mono hφ rfl)
  have h2 := @rotateAll_get φ (hφ)
  have h3 := @settleSettings_get φ (Fld.mono hφ rfl)
  unfold detachByCommand
  with_reducible
    repeat' first
    | rfl | refine (h0 _ _).trans ?_ | refine (h1 _ _).trans ?_ | refine (h2 _ _).trans ?_ | refine (h3 _ _).trans ?_
    | refine get_ite_of (fun _ => ?_) (fun _ => ?_) | split | dsimp only

theorem execJobDetach_kept {φ : Fld} (hφ : φ ∉ forceDeepF) (seq : Nat) (s : State)  :
    Kept φ (execJobDetach seq s) s := by
  have h0 := @complete_get φ (Fld.mono hφ rfl)
  have h1 := @detachByCommand_get φ (hφ)
  unfold execJobDetach
  with_reducible
    repeat' first
    | rfl | refine (h0 _ _ _ _).trans ?_ | refine (h1 _ _).trans ?_ | refine runCmd_kept (Fld.mono hφ rfl) _ _ _ _ ?_
    | refine kept_next.2 ?_ | refine kept_ite (fun _ => ?_) (fun _ => ?_)
    | refine get_ite_of (fun _ => ?_) (fun _ => ?_) | split | dsimp only

theorem execStepVerdictQuery_kept {φ : Fld} (hφ : φ ∉ logF) (seq : Nat) (s : State)  :
    Kept φ (execStepVerdictQuery seq s) s := by
  have h0 := @complete_get φ (hφ)
  unfold execStepVerdictQuery
  with_reducible
    repeat' first
    | rfl | refine (h0 _ _ _ _).trans ?_ | refine runCmd_kept (Fld.mono hφ rfl) _ _ _ _ ?_ | refine kept_next.2 ?_
    | refine kept_ite (fun _ => ?_) (fun _ => ?_) | refine get_ite_of (fun _ => ?_) (fun _ => ?_) | split | dsimp only

theorem execDigestQuery_kept {φ : Fld} (hφ : φ ∉ logF) (seq : Nat) (s : State)  :
    Kept φ (execDigestQuery seq s) s := by
  have h0 := @complete_get φ (hφ)
  unfold execDigestQuery
  with_reducible
    repeat' first
    | rfl | refine (h0 _ _ _ _).trans ?_ | refine runCmd_kept (Fld.mono hφ rfl) _ _ _ _ ?_ | refine kept_next.2 ?_
    | refine kept_ite (fun _ => ?_) (fun _ => ?_) | refine get_ite_of (fun _ => ?_) (fun _ => ?_) | split | dsimp only

end Sys2Proof.Machine
end

