-- ==== Sys2Proof/Laws/FrameObserveCmd.lean ====
section
/-!
SUPPORT. Frames of the operations of Machine/ObserveCmd.lean.
-/
namespace Sys2Proof.Machine

open Sys2Proof

set_option linter.all false
set_option Elab.async false

theorem setPartObs_get {φ : Fld} (hφ : φ ∉ [.sen]) (p : Nat) (ws : List (Nat × Nat)) (trace now : Bool) (s : State)  :
    φ.get (setPartObs p ws trace now s) = φ.get s := by
  have h0 := @modSen_get φ (hφ)
  have h1 := @settleIdle_get φ (hφ)
  unfold setPartObs
  with_reducible
    repeat' first
    | rfl | refine (h0 _ _ _).trans ?_ | refine (h1 _ _).trans ?_ | refine (each_get _ _ (fun _ _ => ?_) _).trans ?_
    | refine get_ite_of (fun _ => ?_) (fun _ => ?_) | split | dsimp only

theorem settingCommand_get {φ : Fld} (hφ : φ ∉ takeSnapshotF) (seq p : Nat) (ws : List (Nat × Nat)) (trace : Bool) (s : State)  :
    φ.get (settingCommand seq p ws trace s) = φ.get s := by
  have h0 := @complete_get φ (Fld.mono hφ rfl)
  have h1 := @modPart_get φ (Fld.mono hφ rfl)
  have h2 := @setPartObs_get φ (Fld.mono hφ rfl)
  unfold settingCommand
  with_reducible
    repeat' first
    | rfl | refine (h0 _ _ _ _).trans ?_ | refine (h1 _ _ _).trans ?_ | refine (h2 _ _ _ _ _).trans ?_
    | refine get_ite_of (fun _ => ?_) (fun _ => ?_) | split | dsimp only

/-- Fields that execTraceConfigure may change. -/
def traceConfigureF : List Fld :=
  logF ++ ([.sen, .part, .waits] : List Fld)

theorem execTraceConfigure_kept {φ : Fld} (hφ : φ ∉ traceConfigureF) (seq : Nat) (s : State)  :
    Kept φ (execTraceConfigure seq s) s := by
  have h0 := @settingCommand_get φ (Fld.mono hφ rfl)
  have h1 := @waitFor_get φ (Fld.mono hφ rfl)
  unfold execTraceConfigure
  with_reducible
    repeat' first
    | rfl | refine (h0 _ _ _ _ _).trans ?_ | refine (h1 _ _ _ _ _ _).trans ?_
    | refine runCmd_kept (Fld.mono hφ rfl) _ _ _ _ ?_ | refine kept_next.2 ?_
    | refine kept_ite (fun _ => ?_) (fun _ => ?_) | refine get_ite_of (fun _ => ?_) (fun _ => ?_) | split | dsimp only

theorem execCounterConfigure_kept {φ : Fld} (hφ : φ ∉ takeSnapshotF) (seq : Nat) (s : State)  :
    Kept φ (execCounterConfigure seq s) s := by
  have h0 := @settingCommand_get φ (hφ)
  unfold execCounterConfigure
  with_reducible
    repeat' first
    | rfl | refine (h0 _ _ _ _ _).trans ?_ | refine runCmd_kept (Fld.mono hφ rfl) _ _ _ _ ?_ | refine kept_next.2 ?_
    | refine kept_ite (fun _ => ?_) (fun _ => ?_) | refine get_ite_of (fun _ => ?_) (fun _ => ?_) | split | dsimp only

theorem drainSite_get {φ : Fld} (hφ : φ ∉ [.sen, .dram]) (id base : Nat) (rearm : Bool) (site : Nat) (s : State)  :
    φ.get (drainSite id base rearm site s) = φ.get s := by
  have h0 := @modSen_get φ (Fld.mono hφ rfl)
  have h1 := @setDram_get φ (Fld.mono hφ rfl)
  unfold drainSite
  with_reducible
    repeat' first
    | rfl | refine (h0 _ _ _).trans ?_ | refine (h1 _ _).trans ?_ | refine get_ite_of (fun _ => ?_) (fun _ => ?_)
    | split | dsimp only

/-- Fields that execTraceDrain may change. -/
def traceDrainF : List Fld :=
  logF ++ ([.sen, .waits, .drainId, .dram] : List Fld)

theorem execTraceDrain_kept {φ : Fld} (hφ : φ ∉ traceDrainF) (seq time : Nat) (s : State)  :
    Kept φ (execTraceDrain seq time s) s := by
  have h0 := @complete_get φ (Fld.mono hφ rfl)
  have h1 := @drainSite_get φ (Fld.mono hφ rfl)
  have h2 := @record_get φ (Fld.mono hφ rfl)
  have h3 := @setDrainId_get φ (Fld.mono hφ rfl)
  have h4 := @waitFor_get φ (Fld.mono hφ rfl)
  unfold execTraceDrain
  with_reducible
    repeat' first
    | rfl | refine (h0 _ _ _ _).trans ?_ | refine (h1 _ _ _ _ _).trans ?_ | refine (h2 _ _ _).trans ?_
    | refine (h3 _ _).trans ?_ | refine (h4 _ _ _ _ _ _).trans ?_ | refine (each_get _ _ (fun _ _ => ?_) _).trans ?_
    | refine runCmd_kept (Fld.mono hφ rfl) _ _ _ _ ?_ | refine kept_next.2 ?_
    | refine kept_ite (fun _ => ?_) (fun _ => ?_) | refine get_ite_of (fun _ => ?_) (fun _ => ?_) | split | dsimp only

/-- Fields that armWatch may change. -/
def armWatchF : List Fld :=
  [.sen, .hub, .part, .armId]

theorem armWatch_get {φ : Fld} (hφ : φ ∉ armWatchF) (p n : Nat) (entry : Dword) (base size : Nat) (s : State)  :
    φ.get (armWatch p n entry base size s) = φ.get s := by
  have h0 := @modHub_get φ (Fld.mono hφ rfl)
  have h1 := @modPart_get φ (Fld.mono hφ rfl)
  have h2 := @setArmId_get φ (Fld.mono hφ rfl)
  have h3 := @setPartObs_get φ (Fld.mono hφ rfl)
  unfold armWatch
  with_reducible
    repeat' first
    | rfl | refine (h0 _ _ _).trans ?_ | refine (h1 _ _ _).trans ?_ | refine (h2 _ _).trans ?_
    | refine (h3 _ _ _ _ _).trans ?_ | refine (each_get _ _ (fun _ _ => ?_) _).trans ?_
    | refine get_ite_of (fun _ => ?_) (fun _ => ?_) | split | dsimp only

/-- Fields that execWatchArm may change. -/
def watchArmF : List Fld :=
  logF ++ ([.sen, .hub, .part, .waits, .armId] : List Fld)

theorem execWatchArm_kept {φ : Fld} (hφ : φ ∉ watchArmF) (seq : Nat) (s : State)  :
    Kept φ (execWatchArm seq s) s := by
  have h0 := @armWatch_get φ (Fld.mono hφ rfl)
  have h1 := @complete_get φ (Fld.mono hφ rfl)
  have h2 := @waitFor_get φ (Fld.mono hφ rfl)
  unfold execWatchArm
  with_reducible
    repeat' first
    | rfl | refine (h0 _ _ _ _ _ _).trans ?_ | refine (h1 _ _ _ _).trans ?_ | refine (h2 _ _ _ _ _ _).trans ?_
    | refine runCmd_kept (Fld.mono hφ rfl) _ _ _ _ ?_ | refine kept_next.2 ?_
    | refine kept_ite (fun _ => ?_) (fun _ => ?_) | refine get_ite_of (fun _ => ?_) (fun _ => ?_) | split | dsimp only

theorem execWatchDisarm_kept {φ : Fld} (hφ : φ ∉ traceConfigureF) (seq : Nat) (s : State)  :
    Kept φ (execWatchDisarm seq s) s := by
  have h0 := @complete_get φ (Fld.mono hφ rfl)
  have h1 := @modPart_get φ (Fld.mono hφ rfl)
  have h2 := @setPartObs_get φ (Fld.mono hφ rfl)
  have h3 := @waitFor_get φ (Fld.mono hφ rfl)
  unfold execWatchDisarm
  with_reducible
    repeat' first
    | rfl | refine (h0 _ _ _ _).trans ?_ | refine (h1 _ _ _).trans ?_ | refine (h2 _ _ _ _ _).trans ?_
    | refine (h3 _ _ _ _ _ _).trans ?_ | refine runCmd_kept (Fld.mono hφ rfl) _ _ _ _ ?_ | refine kept_next.2 ?_
    | refine kept_ite (fun _ => ?_) (fun _ => ?_) | refine get_ite_of (fun _ => ?_) (fun _ => ?_) | split | dsimp only

theorem execHangSnapshot_kept {φ : Fld} (hφ : φ ∉ takeSnapshotF) (seq : Nat) (s : State)  :
    Kept φ (execHangSnapshot seq s) s := by
  have h0 := @complete_get φ (Fld.mono hφ rfl)
  have h1 := @takeSnapshot_get φ (hφ)
  unfold execHangSnapshot
  with_reducible
    repeat' first
    | rfl | refine (h0 _ _ _ _).trans ?_ | refine (h1 _ _ _ _ _).trans ?_
    | refine runCmd_kept (Fld.mono hφ rfl) _ _ _ _ ?_ | refine kept_next.2 ?_
    | refine kept_ite (fun _ => ?_) (fun _ => ?_) | refine get_ite_of (fun _ => ?_) (fun _ => ?_) | split | dsimp only

theorem execPlausibilityLoad_kept {φ : Fld} (hφ : φ ∉ discardRunF) (seq : Nat) (s : State)  :
    Kept φ (execPlausibilityLoad seq s) s := by
  have h0 := @startLoad_get φ (Fld.mono hφ rfl)
  have h1 := @switchNow_get φ (hφ)
  unfold execPlausibilityLoad
  with_reducible
    repeat' first
    | rfl | refine (h0 _ _ _).trans ?_ | refine (h1 _ _).trans ?_ | refine runCmd_kept (Fld.mono hφ rfl) _ _ _ _ ?_
    | refine kept_next.2 ?_ | refine kept_ite (fun _ => ?_) (fun _ => ?_)
    | refine get_ite_of (fun _ => ?_) (fun _ => ?_) | split | dsimp only

end Sys2Proof.Machine
end

