-- ==== Sys2Proof/Laws/FrameWindow.lean ====
section
/-!
SUPPORT. Frames of the operations of Machine/Window.lean.
-/
namespace Sys2Proof.Machine

open Sys2Proof

set_option linter.all false
set_option Elab.async false

theorem countDenied_get {φ : Fld} (hφ : φ ∉ [.win]) (s : State)  :
    φ.get (countDenied s) = φ.get s := by
  have h0 := @modWin_get φ (hφ)
  unfold countDenied
  with_reducible
    repeat' first
    | rfl | refine (h0 _ _).trans ?_ | refine get_ite_of (fun _ => ?_) (fun _ => ?_) | split | dsimp only

theorem readWindow_get {φ : Fld} (hφ : φ ∉ [.win]) (addr size : Nat) (priv : Priv) (s : State)  :
    φ.get (readWindow addr size priv s) = φ.get s := by
  have h0 := @countDenied_get φ (hφ)
  have h1 := @modWin_get φ (hφ)
  unfold readWindow
  with_reducible
    repeat' first
    | rfl | refine (h0 _).trans ?_ | refine (h1 _ _).trans ?_ | refine get_ite_of (fun _ => ?_) (fun _ => ?_) | split
    | dsimp only

theorem clearAlerts_get {φ : Fld} (hφ : φ ∉ raiseAlertF) (v : Nat) (s : State)  :
    φ.get (clearAlerts v s) = φ.get s := by
  have h0 := @modWin_get φ (Fld.mono hφ rfl)
  have h1 := @syncPins_get φ (Fld.mono hφ rfl)
  unfold clearAlerts
  with_reducible
    repeat' first
    | rfl | refine (h0 _ _).trans ?_ | refine (h1 _).trans ?_ | refine (foldl_get _ _ (fun _ _ => ?_) _).trans ?_
    | refine (foldl_fst_get _ _ (fun _ _ => ?_) _).trans ?_ | refine (foldl_snd_get _ _ (fun _ _ => ?_) _).trans ?_
    | refine get_ite_of (fun _ => ?_) (fun _ => ?_) | split | dsimp only

theorem takeCounters_get {φ : Fld} (hφ : φ ∉ [.win]) (priv : Priv) (s : State)  :
    φ.get (takeCounters priv s) = φ.get s := by
  have h0 := @modWin_get φ (hφ)
  unfold takeCounters
  with_reducible
    repeat' first
    | rfl | refine (h0 _ _).trans ?_ | refine get_ite_of (fun _ => ?_) (fun _ => ?_) | split | dsimp only

theorem loadWindow_get {φ : Fld} (hφ : φ ∉ [.recorder]) (v : Word) (s : State)  :
    φ.get (loadWindow v s) = φ.get s := by
  have h0 := @modRec_get φ (hφ)
  unfold loadWindow
  with_reducible
    repeat' first
    | rfl | refine (h0 _ _).trans ?_ | refine get_ite_of (fun _ => ?_) (fun _ => ?_) | split | dsimp only

theorem writeJtag_get {φ : Fld} (hφ : φ ∉ logF) (v : Word) (priv : Priv) (s : State)  :
    φ.get (writeJtag v priv s) = φ.get s := by
  have h0 := @modWin_get φ (Fld.mono hφ rfl)
  have h1 := @record_get φ (hφ)
  unfold writeJtag
  with_reducible
    repeat' first
    | rfl | refine (h0 _ _).trans ?_ | refine (h1 _ _ _).trans ?_ | refine get_ite_of (fun _ => ?_) (fun _ => ?_)
    | split | dsimp only

theorem ackCompletion_get {φ : Fld} (hφ : φ ∉ [.win, .portA, .portB]) (ch : Nat) (s : State)  :
    φ.get (ackCompletion ch s) = φ.get s := by
  have h0 := @modChannel_get φ (Fld.mono hφ rfl)
  have h1 := @modPort_get φ (Fld.mono hφ rfl)
  have h2 := @modWin_get φ (Fld.mono hφ rfl)
  have h3 := @postNext_get φ (hφ)
  unfold ackCompletion
  with_reducible
    repeat' first
    | rfl | refine (h0 _ _ _).trans ?_ | refine (h1 _ _ _).trans ?_ | refine (h2 _ _).trans ?_
    | refine (h3 _ _).trans ?_ | refine get_ite_of (fun _ => ?_) (fun _ => ?_) | split | dsimp only

theorem ringDoorbell_get {φ : Fld} (hφ : φ ∉ [.win, .portA, .portB]) (ch v : Nat) (priv : Priv) (s : State)  :
    φ.get (ringDoorbell ch v priv s) = φ.get s := by
  have h0 := @ackCompletion_get φ (hφ)
  have h1 := @modWin_get φ (Fld.mono hφ rfl)
  have h2 := @submitOn_get φ (hφ)
  unfold ringDoorbell
  with_reducible
    repeat' first
    | rfl | refine (h0 _ _).trans ?_ | refine (h1 _ _).trans ?_ | refine (h2 _ _ _ _ _).trans ?_
    | refine get_ite_of (fun _ => ?_) (fun _ => ?_) | split | dsimp only

theorem writeChannel_get {φ : Fld} (hφ : φ ∉ [.win, .portA, .portB]) (ch off : Nat) (v : Word) (priv : Priv) (s : State)  :
    φ.get (writeChannel ch off v priv s) = φ.get s := by
  have h0 := @modChannel_get φ (Fld.mono hφ rfl)
  have h1 := @ringDoorbell_get φ (hφ)
  unfold writeChannel
  with_reducible
    repeat' first
    | rfl | refine (h0 _ _ _).trans ?_ | refine (h1 _ _ _ _).trans ?_ | refine get_ite_of (fun _ => ?_) (fun _ => ?_)
    | split | dsimp only

theorem writeRegister_get {φ : Fld} (hφ : φ ∉ logF) (off : Nat) (v : Word) (priv : Priv) (s : State)  :
    φ.get (writeRegister off v priv s) = φ.get s := by
  have h0 := @clearAlerts_get φ (Fld.mono hφ rfl)
  have h1 := @loadWindow_get φ (Fld.mono hφ rfl)
  have h2 := @modRec_get φ (Fld.mono hφ rfl)
  have h3 := @modWin_get φ (Fld.mono hφ rfl)
  have h4 := @syncPins_get φ (Fld.mono hφ rfl)
  have h5 := @takeCounters_get φ (Fld.mono hφ rfl)
  have h6 := @writeChannel_get φ (Fld.mono hφ rfl)
  have h7 := @writeJtag_get φ (hφ)
  unfold writeRegister
  with_reducible
    repeat' first
    | rfl | refine (h0 _ _).trans ?_ | refine (h1 _ _).trans ?_ | refine (h2 _ _).trans ?_ | refine (h3 _ _).trans ?_
    | refine (h4 _).trans ?_ | refine (h5 _ _).trans ?_ | refine (h6 _ _ _ _ _).trans ?_ | refine (h7 _ _ _).trans ?_
    | refine get_ite_of (fun _ => ?_) (fun _ => ?_) | split | dsimp only

theorem writeWindow_get {φ : Fld} (hφ : φ ∉ logF) (off : Nat) (v : Word) (priv : Priv) (s : State)  :
    φ.get (writeWindow off v priv s) = φ.get s := by
  have h0 := @countDenied_get φ (Fld.mono hφ rfl)
  have h1 := @writeRegister_get φ (hφ)
  unfold writeWindow
  with_reducible
    repeat' first
    | rfl | refine (h0 _).trans ?_ | refine (h1 _ _ _ _).trans ?_ | refine get_ite_of (fun _ => ?_) (fun _ => ?_)
    | split | dsimp only

theorem execRegisterWrite_kept {φ : Fld} (hφ : φ ∉ logF) (offset size : Nat) (value : Word) (priv : Priv) (s : State)  :
    Kept φ (execRegisterWrite offset size value priv s) s := by
  have h0 := @writeWindow_get φ (hφ)
  unfold execRegisterWrite
  with_reducible
    repeat' first
    | rfl | refine (h0 _ _ _ _).trans ?_ | refine kept_next.2 ?_ | refine kept_ite (fun _ => ?_) (fun _ => ?_)
    | refine get_ite_of (fun _ => ?_) (fun _ => ?_) | split | dsimp only

theorem execLoRegisterRead_kept {φ : Fld} (hφ : φ ∉ [.win]) (offset size : Nat) (priv : Priv) (s : State)  :
    Kept φ (execLoRegisterRead offset size priv s) s := by
  have h0 := @readWindow_get φ (hφ)
  unfold execLoRegisterRead
  with_reducible
    repeat' first
    | rfl | refine (h0 _ _ _ _).trans ?_ | refine kept_next.2 ?_ | refine kept_ite (fun _ => ?_) (fun _ => ?_)
    | refine get_ite_of (fun _ => ?_) (fun _ => ?_) | split | dsimp only

theorem execSubmit_kept {φ : Fld} (hφ : φ ∉ logF) (channel : Nat) (priv : Priv) (s : State)  :
    Kept φ (execSubmit channel priv s) s := by
  have h0 := @writeWindow_get φ (hφ)
  unfold execSubmit
  with_reducible
    repeat' first
    | rfl | refine (h0 _ _ _ _).trans ?_ | refine kept_next.2 ?_ | refine kept_ite (fun _ => ?_) (fun _ => ?_)
    | refine get_ite_of (fun _ => ?_) (fun _ => ?_) | split | dsimp only

theorem execCplAck_kept {φ : Fld} (hφ : φ ∉ [.win, .portA, .portB]) (channel : Nat) (s : State)  :
    Kept φ (execCplAck channel s) s := by
  have h0 := @ackCompletion_get φ (hφ)
  unfold execCplAck
  with_reducible
    repeat' first
    | rfl | refine (h0 _ _).trans ?_ | refine kept_next.2 ?_ | refine kept_ite (fun _ => ?_) (fun _ => ?_)
    | refine get_ite_of (fun _ => ?_) (fun _ => ?_) | split | dsimp only

theorem execClaim_kept {φ : Fld} (hφ : φ ∉ logF) (channel : Nat) (priv : Priv) (s : State)  :
    Kept φ (execClaim channel priv s) s := by
  have h0 := @writeWindow_get φ (hφ)
  unfold execClaim
  with_reducible
    repeat' first
    | rfl | refine (h0 _ _ _ _).trans ?_ | refine kept_next.2 ?_ | refine kept_ite (fun _ => ?_) (fun _ => ?_)
    | refine get_ite_of (fun _ => ?_) (fun _ => ?_) | split | dsimp only

theorem execRelease_kept {φ : Fld} (hφ : φ ∉ [.win]) (channel : Nat) (s : State)  :
    Kept φ (execRelease channel s) s := by
  have h0 := @modWin_get φ (hφ)
  unfold execRelease
  with_reducible
    repeat' first
    | rfl | refine (h0 _ _).trans ?_ | refine kept_next.2 ?_ | refine kept_ite (fun _ => ?_) (fun _ => ?_)
    | refine get_ite_of (fun _ => ?_) (fun _ => ?_) | split | dsimp only

theorem execCntSnapshot_kept {φ : Fld} (hφ : φ ∉ logF) (priv : Priv) (s : State)  :
    Kept φ (execCntSnapshot priv s) s := by
  have h0 := @writeWindow_get φ (hφ)
  unfold execCntSnapshot
  with_reducible
    repeat' first
    | rfl | refine (h0 _ _ _ _).trans ?_ | refine kept_next.2 ?_ | refine kept_ite (fun _ => ?_) (fun _ => ?_)
    | refine get_ite_of (fun _ => ?_) (fun _ => ?_) | split | dsimp only

theorem execCursorHiWrite_kept {φ : Fld} (hφ : φ ∉ logF) (value : Word) (priv : Priv) (s : State)  :
    Kept φ (execCursorHiWrite value priv s) s := by
  have h0 := @writeWindow_get φ (hφ)
  unfold execCursorHiWrite
  with_reducible
    repeat' first
    | rfl | refine (h0 _ _ _ _).trans ?_ | refine kept_next.2 ?_ | refine kept_ite (fun _ => ?_) (fun _ => ?_)
    | refine get_ite_of (fun _ => ?_) (fun _ => ?_) | split | dsimp only

theorem execAltStatusClear_kept {φ : Fld} (hφ : φ ∉ logF) (value : Word) (priv : Priv) (s : State)  :
    Kept φ (execAltStatusClear value priv s) s := by
  have h0 := @writeWindow_get φ (hφ)
  unfold execAltStatusClear
  with_reducible
    repeat' first
    | rfl | refine (h0 _ _ _ _).trans ?_ | refine kept_next.2 ?_ | refine kept_ite (fun _ => ?_) (fun _ => ?_)
    | refine get_ite_of (fun _ => ?_) (fun _ => ?_) | split | dsimp only

theorem execJtagCtrlWrite_kept {φ : Fld} (hφ : φ ∉ logF) (value : Word) (priv : Priv) (s : State)  :
    Kept φ (execJtagCtrlWrite value priv s) s := by
  have h0 := @writeWindow_get φ (hφ)
  unfold execJtagCtrlWrite
  with_reducible
    repeat' first
    | rfl | refine (h0 _ _ _ _).trans ?_ | refine kept_next.2 ?_ | refine kept_ite (fun _ => ?_) (fun _ => ?_)
    | refine get_ite_of (fun _ => ?_) (fun _ => ?_) | split | dsimp only

theorem execWindowForward_kept {φ : Fld} (hφ : φ ∉ raiseTripF) (access : Access) (s : State)  :
    Kept φ (execWindowForward access s) s := by
  have h0 := @readWindow_get φ (Fld.mono hφ rfl)
  have h1 := @receive_get φ (Fld.mono hφ rfl)
  have h2 := @writeWindow_get φ (Fld.mono hφ rfl)
  unfold execWindowForward
  with_reducible
    repeat' first
    | rfl | refine (h0 _ _ _ _).trans ?_ | refine (h1 _ _).trans ?_ | refine (h2 _ _ _ _).trans ?_
    | refine kept_next.2 ?_ | refine kept_ite (fun _ => ?_) (fun _ => ?_)
    | refine get_ite_of (fun _ => ?_) (fun _ => ?_) | split | dsimp only

theorem execFunctionLevelReset_kept {φ : Fld} (hφ : φ ∉ [.win]) (s : State)  :
    Kept φ (execFunctionLevelReset s) s := by
  have h0 := @modWin_get φ (hφ)
  unfold execFunctionLevelReset
  with_reducible
    repeat' first
    | rfl | refine (h0 _ _).trans ?_ | refine (foldl_get _ _ (fun _ _ => ?_) _).trans ?_
    | refine (foldl_fst_get _ _ (fun _ _ => ?_) _).trans ?_ | refine (foldl_snd_get _ _ (fun _ _ => ?_) _).trans ?_
    | refine kept_next.2 ?_ | refine kept_ite (fun _ => ?_) (fun _ => ?_)
    | refine get_ite_of (fun _ => ?_) (fun _ => ?_) | split | dsimp only

theorem execCommandBegin_kept {φ : Fld} (hφ : φ ∉ logF) (seq : Nat) (s : State)  :
    Kept φ (execCommandBegin seq s) s := by
  have h0 := @complete_get φ (hφ)
  have h1 := @modCmd_get φ (Fld.mono hφ rfl)
  unfold execCommandBegin
  with_reducible
    repeat' first
    | rfl | refine (h0 _ _ _ _).trans ?_ | refine (h1 _ _ _).trans ?_ | refine kept_next.2 ?_
    | refine kept_ite (fun _ => ?_) (fun _ => ?_) | refine get_ite_of (fun _ => ?_) (fun _ => ?_) | split | dsimp only

theorem execGetIdentity_kept {φ : Fld} (hφ : φ ∉ logF) (seq : Nat) (s : State)  :
    Kept φ (execGetIdentity seq s) s := by
  have h0 := @complete_get φ (hφ)
  unfold execGetIdentity
  with_reducible
    repeat' first
    | rfl | refine (h0 _ _ _ _).trans ?_ | refine runCmd_kept (Fld.mono hφ rfl) _ _ _ _ ?_ | refine kept_next.2 ?_
    | refine kept_ite (fun _ => ?_) (fun _ => ?_) | refine get_ite_of (fun _ => ?_) (fun _ => ?_) | split | dsimp only

theorem execGetStatus_kept {φ : Fld} (hφ : φ ∉ logF) (seq : Nat) (s : State)  :
    Kept φ (execGetStatus seq s) s := by
  have h0 := @complete_get φ (hφ)
  unfold execGetStatus
  with_reducible
    repeat' first
    | rfl | refine (h0 _ _ _ _).trans ?_ | refine runCmd_kept (Fld.mono hφ rfl) _ _ _ _ ?_ | refine kept_next.2 ?_
    | refine kept_ite (fun _ => ?_) (fun _ => ?_) | refine get_ite_of (fun _ => ?_) (fun _ => ?_) | split | dsimp only

end Sys2Proof.Machine
end

