-- ==== Sys2Proof/Laws/FrameOob.lean ====
section
/-!
SUPPORT. Frames of the operations of Machine/Oob.lean.
-/
namespace Sys2Proof.Machine

open Sys2Proof

set_option linter.all false
set_option Elab.async false

theorem answerControl_get {φ : Fld} (hφ : φ ∉ [.portA, .portB]) (die : Nat) (bs : List Byte) (s : State)  :
    φ.get (answerControl die bs s) = φ.get s := by
  have h0 := @modPort_get φ (hφ)
  unfold answerControl
  with_reducible
    repeat' first
    | rfl | refine (h0 _ _ _).trans ?_ | refine get_ite_of (fun _ => ?_) (fun _ => ?_) | split | dsimp only

theorem execSetEndpointId_kept {φ : Fld} (hφ : φ ∉ [.portA, .portB]) (die eid : Nat) (physical integrity : Bool) (s : State)  :
    Kept φ (execSetEndpointId die eid physical integrity s) s := by
  have h0 := @answerControl_get φ (hφ)
  have h1 := @modPort_get φ (hφ)
  unfold execSetEndpointId
  with_reducible
    repeat' first
    | rfl | refine (h0 _ _ _).trans ?_ | refine (h1 _ _ _).trans ?_ | refine kept_next.2 ?_
    | refine kept_ite (fun _ => ?_) (fun _ => ?_) | refine get_ite_of (fun _ => ?_) (fun _ => ?_) | split | dsimp only

theorem execGetEndpointId_kept {φ : Fld} (hφ : φ ∉ [.portA, .portB]) (die : Nat) (physical integrity : Bool) (s : State)  :
    Kept φ (execGetEndpointId die physical integrity s) s := by
  have h0 := @answerControl_get φ (hφ)
  unfold execGetEndpointId
  with_reducible
    repeat' first
    | rfl | refine (h0 _ _ _).trans ?_ | refine kept_next.2 ?_ | refine kept_ite (fun _ => ?_) (fun _ => ?_)
    | refine get_ite_of (fun _ => ?_) (fun _ => ?_) | split | dsimp only

theorem execGetMctpVersionSupport_kept {φ : Fld} (hφ : φ ∉ [.portA, .portB]) (die : Nat) (physical integrity : Bool) (s : State)  :
    Kept φ (execGetMctpVersionSupport die physical integrity s) s := by
  have h0 := @answerControl_get φ (hφ)
  unfold execGetMctpVersionSupport
  with_reducible
    repeat' first
    | rfl | refine (h0 _ _ _).trans ?_ | refine kept_next.2 ?_ | refine kept_ite (fun _ => ?_) (fun _ => ?_)
    | refine get_ite_of (fun _ => ?_) (fun _ => ?_) | split | dsimp only

theorem execGetMessageTypeSupport_kept {φ : Fld} (hφ : φ ∉ [.portA, .portB]) (die : Nat) (physical integrity : Bool) (s : State)  :
    Kept φ (execGetMessageTypeSupport die physical integrity s) s := by
  have h0 := @answerControl_get φ (hφ)
  unfold execGetMessageTypeSupport
  with_reducible
    repeat' first
    | rfl | refine (h0 _ _ _).trans ?_ | refine kept_next.2 ?_ | refine kept_ite (fun _ => ?_) (fun _ => ?_)
    | refine get_ite_of (fun _ => ?_) (fun _ => ?_) | split | dsimp only

theorem execGetVendorDefinedMessageSupport_kept {φ : Fld} (hφ : φ ∉ [.portA, .portB]) (die : Nat) (physical integrity : Bool) (s : State)  :
    Kept φ (execGetVendorDefinedMessageSupport die physical integrity s) s := by
  have h0 := @answerControl_get φ (hφ)
  unfold execGetVendorDefinedMessageSupport
  with_reducible
    repeat' first
    | rfl | refine (h0 _ _ _).trans ?_ | refine kept_next.2 ?_ | refine kept_ite (fun _ => ?_) (fun _ => ?_)
    | refine get_ite_of (fun _ => ?_) (fun _ => ?_) | split | dsimp only

theorem execUnsupportedMctpMessage_kept {φ : Fld} (hφ : φ ∉ [.portA, .portB]) (die msgType command : Nat) (physical integrity : Bool) (s : State)  :
    Kept φ (execUnsupportedMctpMessage die msgType command physical integrity s) s := by
  have h0 := @answerControl_get φ (hφ)
  have h1 := @modPort_get φ (hφ)
  unfold execUnsupportedMctpMessage
  with_reducible
    repeat' first
    | rfl | refine (h0 _ _ _).trans ?_ | refine (h1 _ _ _).trans ?_ | refine kept_next.2 ?_
    | refine kept_ite (fun _ => ?_) (fun _ => ?_) | refine get_ite_of (fun _ => ?_) (fun _ => ?_) | split | dsimp only

theorem submitOob_get {φ : Fld} (hφ : φ ∉ [.win, .portA, .portB]) (m : OobMsg) (s : State)  :
    φ.get (submitOob m s) = φ.get s := by
  have h0 := @modChannel_get φ (Fld.mono hφ rfl)
  have h1 := @submitOn_get φ (hφ)
  unfold submitOob
  with_reducible
    repeat' first
    | rfl | refine (h0 _ _ _).trans ?_ | refine (h1 _ _ _ _ _).trans ?_
    | refine get_ite_of (fun _ => ?_) (fun _ => ?_) | split | dsimp only

theorem execOobRequest_kept {φ : Fld} (hφ : φ ∉ raiseAlertF) (m : OobMsg) (s : State)  :
    Kept φ (execOobRequest m s) s := by
  have h0 := @modPort_get φ (Fld.mono hφ rfl)
  have h1 := @send_get φ (Fld.mono hφ rfl)
  have h2 := @submitOob_get φ (Fld.mono hφ rfl)
  unfold execOobRequest
  with_reducible
    repeat' first
    | rfl | refine (h0 _ _ _).trans ?_ | refine (h1 _ _).trans ?_ | refine (h2 _ _).trans ?_ | refine kept_next.2 ?_
    | refine kept_ite (fun _ => ?_) (fun _ => ?_) | refine get_ite_of (fun _ => ?_) (fun _ => ?_) | split | dsimp only

/-- Fields that execOobForward may change. -/
def oobForwardF : List Fld :=
  [.sent, .hub, .win, .portA, .portB]

theorem execOobForward_kept {φ : Fld} (hφ : φ ∉ oobForwardF) (m : OobMsg) (s : State)  :
    Kept φ (execOobForward m s) s := by
  have h0 := @receive_get φ (Fld.mono hφ rfl)
  have h1 := @submitOob_get φ (Fld.mono hφ rfl)
  unfold execOobForward
  with_reducible
    repeat' first
    | rfl | refine (h0 _ _).trans ?_ | refine (h1 _ _).trans ?_ | refine kept_next.2 ?_
    | refine kept_ite (fun _ => ?_) (fun _ => ?_) | refine get_ite_of (fun _ => ?_) (fun _ => ?_) | split | dsimp only

theorem execOobCompletionRetry_kept {φ : Fld} (hφ : φ ∉ [.win, .portA, .portB]) (die : Nat) (s : State)  :
    Kept φ (execOobCompletionRetry die s) s := by
  have h0 := @ackCompletion_get φ (hφ)
  have h1 := @modPort_get φ (Fld.mono hφ rfl)
  unfold execOobCompletionRetry
  with_reducible
    repeat' first
    | rfl | refine (h0 _ _).trans ?_ | refine (h1 _ _ _).trans ?_ | refine kept_next.2 ?_
    | refine kept_ite (fun _ => ?_) (fun _ => ?_) | refine get_ite_of (fun _ => ?_) (fun _ => ?_) | split | dsimp only

theorem execSmbusClockLowTimeout_kept {φ : Fld} (hφ : φ ∉ [.portA, .portB]) (die : Nat) (s : State)  :
    Kept φ (execSmbusClockLowTimeout die s) s := by
  have h0 := @modPort_get φ (hφ)
  unfold execSmbusClockLowTimeout
  with_reducible
    repeat' first
    | rfl | refine (h0 _ _ _).trans ?_ | refine kept_next.2 ?_ | refine kept_ite (fun _ => ?_) (fun _ => ?_)
    | refine get_ite_of (fun _ => ?_) (fun _ => ?_) | split | dsimp only

theorem execTapReset_kept {φ : Fld} (hφ : φ ∉ [.portA, .portB]) (die : Nat) (s : State)  :
    Kept φ (execTapReset die s) s := by
  have h0 := @modPort_get φ (hφ)
  unfold execTapReset
  with_reducible
    repeat' first
    | rfl | refine (h0 _ _ _).trans ?_ | refine kept_next.2 ?_ | refine kept_ite (fun _ => ?_) (fun _ => ?_)
    | refine get_ite_of (fun _ => ?_) (fun _ => ?_) | split | dsimp only

theorem selectBypass_get {φ : Fld} (hφ : φ ∉ [.portA, .portB]) (die : Nat) (s : State)  :
    φ.get (selectBypass die s) = φ.get s := by
  have h0 := @modPort_get φ (hφ)
  unfold selectBypass
  with_reducible
    repeat' first
    | rfl | refine (h0 _ _ _).trans ?_ | refine get_ite_of (fun _ => ?_) (fun _ => ?_) | split | dsimp only

theorem execBypass_kept {φ : Fld} (hφ : φ ∉ [.portA, .portB]) (die : Nat) (s : State)  :
    Kept φ (execBypass die s) s := by
  have h0 := @selectBypass_get φ (hφ)
  unfold execBypass
  with_reducible
    repeat' first
    | rfl | refine (h0 _ _).trans ?_ | refine kept_next.2 ?_ | refine kept_ite (fun _ => ?_) (fun _ => ?_)
    | refine get_ite_of (fun _ => ?_) (fun _ => ?_) | split | dsimp only

theorem execIdcode_kept {φ : Fld} (hφ : φ ∉ [.portA, .portB]) (die : Nat) (s : State)  :
    Kept φ (execIdcode die s) s := by
  have h0 := @modPort_get φ (hφ)
  unfold execIdcode
  with_reducible
    repeat' first
    | rfl | refine (h0 _ _ _).trans ?_ | refine kept_next.2 ?_ | refine kept_ite (fun _ => ?_) (fun _ => ?_)
    | refine get_ite_of (fun _ => ?_) (fun _ => ?_) | split | dsimp only

/-- Fields that debugInstruction may change. -/
def debugInstructionF : List Fld :=
  [.win, .portA, .portB, .free]

theorem debugInstruction_get {φ : Fld} (hφ : φ ∉ debugInstructionF) (die ir kind : Nat) (s : State)  :
    φ.get (debugInstruction die ir kind s) = φ.get s := by
  have h0 := @modPort_get φ (Fld.mono hφ rfl)
  have h1 := @serveMailbox_get φ (Fld.mono hφ rfl)
  have h2 := @setFree_get φ (Fld.mono hφ rfl)
  unfold debugInstruction
  with_reducible
    repeat' first
    | rfl | refine (h0 _ _ _).trans ?_ | refine (h1 _).trans ?_ | refine (h2 _ _).trans ?_
    | refine get_ite_of (fun _ => ?_) (fun _ => ?_) | split | dsimp only

theorem execJtagDebugInstruction_kept {φ : Fld} (hφ : φ ∉ debugInstructionF) (die ir kind : Nat) (s : State)  :
    Kept φ (execJtagDebugInstruction die ir kind s) s := by
  have h0 := @debugInstruction_get φ (hφ)
  have h1 := @selectBypass_get φ (Fld.mono hφ rfl)
  unfold execJtagDebugInstruction
  with_reducible
    repeat' first
    | rfl | refine (h0 _ _ _ _).trans ?_ | refine (h1 _ _).trans ?_ | refine kept_next.2 ?_
    | refine kept_ite (fun _ => ?_) (fun _ => ?_) | refine get_ite_of (fun _ => ?_) (fun _ => ?_) | split | dsimp only

end Sys2Proof.Machine
end

