-- ==== Sys2Proof/Laws/FrameWaiting.lean ====
section
/-!
SUPPORT. Frames of the operations of Machine/Waiting.lean.
-/
namespace Sys2Proof.Machine

open Sys2Proof

set_option linter.all false
set_option Elab.async false

/-- Fields that startWaiting may change. -/
def startWaitingF : List Fld :=
  logF ++ ([.slot, .journalSeq, .journal, .setA, .setB, .setBusy, .health, .unflushed, .deepPassed, .marginPrev,
    .sparesLow, .sen, .hub, .part, .xlat0, .xlat1, .routes0, .routes1, .screens, .screenReqs, .stop, .waits,
    .drainId, .armId, .dram] : List Fld)

theorem startWaiting_kept {φ : Fld} (hφ : φ ∉ startWaitingF)  (x0 : Instr) (s : State) :
    Kept φ (startWaiting x0 s) s := by
  have h0 := @execSpareTakeover_kept φ (Fld.mono hφ rfl)
  have h1 := @execStopAtSlot_kept φ (Fld.mono hφ rfl)
  have h2 := @execStopNow_kept φ (Fld.mono hφ rfl)
  have h3 := @execTraceConfigure_kept φ (Fld.mono hφ rfl)
  have h4 := @execTraceDrain_kept φ (Fld.mono hφ rfl)
  have h5 := @execTrainingSave_kept φ (Fld.mono hφ rfl)
  have h6 := @execUnitQuarantine_kept φ (Fld.mono hφ rfl)
  have h7 := @execUnitScreen_kept φ (Fld.mono hφ rfl)
  have h8 := @execWatchArm_kept φ (Fld.mono hφ rfl)
  have h9 := @execWatchDisarm_kept φ (Fld.mono hφ rfl)
  have h10 := @requestStop_get φ (Fld.mono hφ rfl)
  unfold startWaiting
  with_reducible
    repeat' first
    | rfl | refine kept_trans (h0 _ _) ?_ | refine kept_trans (h1 _ _) ?_ | refine kept_trans (h2 _ _) ?_
    | refine kept_trans (h3 _ _) ?_ | refine kept_trans (h4 _ _ _) ?_ | refine kept_trans (h5 _ _) ?_
    | refine kept_trans (h6 _ _) ?_ | refine kept_trans (h7 _ _) ?_ | refine kept_trans (h8 _ _) ?_
    | refine kept_trans (h9 _ _) ?_ | refine (h10 _ _).trans ?_ | refine kept_next.2 ?_
    | refine kept_ite (fun _ => ?_) (fun _ => ?_) | refine get_ite_of (fun _ => ?_) (fun _ => ?_) | split | dsimp only

theorem execWaitingActionStart_kept {φ : Fld} (hφ : φ ∉ startWaitingF) (scope number : Nat) (s : State)  :
    Kept φ (execWaitingActionStart scope number s) s := by
  have h0 := @setWaits_get φ (Fld.mono hφ rfl)
  have h1 := @startWaiting_kept φ (hφ)
  unfold execWaitingActionStart
  split
  · rfl
  · exact kept_trans (h1 _ _) (h0 _ _)

end Sys2Proof.Machine
end

