-- ==== Sys2Proof/Laws/Sparse.lean ====
section
/-!
SUPPORT. Laws of tables and memories: a read after a write, and the canonical form that every operation keeps.
-/
namespace Sys2Proof.Machine

variable {α : Type} [DecidableEq α] {d : α}

theorem Sparse.wfFrom_cons {lo : Option Nat} {k : Nat} {v : α} {m : Sparse α} :
    Sparse.wfFrom d lo ((k, v) :: m) = true ↔
      (∀ l, lo = some l → l < k) ∧ v ≠ d ∧ Sparse.wfFrom d (some k) m = true := by
  cases lo <;> simp [Sparse.wfFrom, and_assoc]

/-- A table whose keys all lie above a bound keeps its form with any lower bound. -/
theorem Sparse.wfFrom_lower {k : Nat} {m : Sparse α} (h : Sparse.wfFrom d (some k) m = true) {lo : Option Nat}
    (hl : ∀ l, lo = some l → l ≤ k) : Sparse.wfFrom d lo m = true := by
  cases m with
  | nil => rfl
  | cons x m =>
    obtain ⟨j, v⟩ := x
    rw [Sparse.wfFrom_cons] at h ⊢
    exact ⟨fun l e => Nat.lt_of_le_of_lt (hl l e) (h.1 k rfl), h.2⟩

theorem Sparse.wfFrom_set {m : Sparse α} {n : Nat} {v : α} {lo : Option Nat}
    (h : Sparse.wfFrom d lo m = true) (hn : ∀ l, lo = some l → l < n) : Sparse.wfFrom d lo (Sparse.set d m n v) = true := by
  induction m generalizing lo with
  | nil =>
    by_cases hv : v = d
    · simp [Sparse.set, hv, Sparse.wfFrom]
    · simp only [Sparse.set, if_neg hv, Sparse.wfFrom_cons]
      exact ⟨hn, hv, rfl⟩
  | cons x m ih =>
    obtain ⟨k, w⟩ := x
    rw [Sparse.wfFrom_cons] at h
    obtain ⟨h1, h2, h3⟩ := h
    by_cases hlt : n < k
    · by_cases hv : v = d
      · simp only [Sparse.set, if_pos hlt, if_pos hv, Sparse.wfFrom_cons]
        exact ⟨h1, h2, h3⟩
      · simp only [Sparse.set, if_pos hlt, if_neg hv, Sparse.wfFrom_cons]
        exact ⟨hn, hv, fun l e => by cases e; exact hlt, h2, h3⟩
    · by_cases he : n = k
      · subst he
        by_cases hv : v = d
        · simp only [Sparse.set, Nat.lt_irrefl, if_false, if_true, if_pos hv]
          exact Sparse.wfFrom_lower h3 fun l e => Nat.le_of_lt (h1 l e)
        · simp only [Sparse.set, Nat.lt_irrefl, if_false, if_true, if_neg hv, Sparse.wfFrom_cons]
          exact ⟨h1, hv, h3⟩
      · simp only [Sparse.set, if_neg hlt, if_neg he, Sparse.wfFrom_cons]
        exact ⟨h1, h2, ih h3 fun l e => by cases e; omega⟩

/-- A write keeps the canonical form. -/
theorem Sparse.wf_set {m : Sparse α} (h : Sparse.wf d m = true) (n : Nat) (v : α) : Sparse.wf d (Sparse.set d m n v) = true :=
  Sparse.wfFrom_set h fun _ e => nomatch e

theorem Sparse.wf_nil : Sparse.wf d ([] : Sparse α) = true := rfl

theorem Sparse.wfFrom_filter {m : Sparse α} (p : Nat × α → Bool) {lo : Option Nat} (h : Sparse.wfFrom d lo m = true) :
    Sparse.wfFrom d lo (m.filter p) = true := by
  induction m generalizing lo with
  | nil => rfl
  | cons x m ih =>
    obtain ⟨k, v⟩ := x
    rw [Sparse.wfFrom_cons] at h
    by_cases hp : p (k, v) = true
    · rw [List.filter_cons_of_pos hp, Sparse.wfFrom_cons]
      exact ⟨h.1, h.2.1, ih h.2.2⟩
    · rw [List.filter_cons_of_neg hp]
      exact ih (Sparse.wfFrom_lower h.2.2 fun l e => Nat.le_of_lt (h.1 l e))

theorem Sparse.wf_filter {m : Sparse α} (p : Nat × α → Bool) (h : Sparse.wf d m = true) : Sparse.wf d (m.filter p) = true :=
  Sparse.wfFrom_filter p h

theorem Sparse.wfFrom_mapAll {m : Sparse α} (f : Nat → α → α) {lo : Option Nat} (h : Sparse.wfFrom d lo m = true) :
    Sparse.wfFrom d lo (Sparse.mapAll d m f) = true := by
  induction m generalizing lo with
  | nil => rfl
  | cons x m ih =>
    obtain ⟨k, v⟩ := x
    rw [Sparse.wfFrom_cons] at h
    by_cases hd : f k v = d
    · simp only [Sparse.mapAll, if_pos hd]
      exact ih (Sparse.wfFrom_lower h.2.2 fun l e => Nat.le_of_lt (h.1 l e))
    · simp only [Sparse.mapAll, if_neg hd, Sparse.wfFrom_cons]
      exact ⟨h.1, hd, ih h.2.2⟩

theorem Sparse.wf_mapAll {m : Sparse α} (h : Sparse.wf d m = true) (f : Nat → α → α) :
    Sparse.wf d (Sparse.mapAll d m f) = true := Sparse.wfFrom_mapAll f h

theorem Sparse.wf_upd {m : Sparse α} (h : Sparse.wf d m = true) (n : Nat) (f : α → α) : Sparse.wf d (Sparse.upd d m n f) = true :=
  Sparse.wf_set h n _

theorem Sparse.wf_foldl {β : Type} (xs : List β) (g : Sparse α → β → Sparse α)
    (h : ∀ m x, Sparse.wf d m = true → Sparse.wf d (g m x) = true) (m : Sparse α) (hm : Sparse.wf d m = true) :
    Sparse.wf d (xs.foldl g m) = true := by
  induction xs generalizing m with
  | nil => exact hm
  | cons x xs ih => exact ih (g m x) (h m x hm)

theorem Sparse.wf_tabulate (ks : List Nat) (f : Nat → α) (h : ks.Pairwise (· < ·)) : Sparse.wf d (Sparse.tabulate d ks f) = true := by
  suffices ∀ lo : Option Nat, (∀ l, lo = some l → ∀ k ∈ ks, l < k) → Sparse.wfFrom d lo (Sparse.tabulate d ks f) = true from
    this none fun _ e => nomatch e
  induction ks with
  | nil => intro _ _; rfl
  | cons k ks ih =>
    intro lo hl
    obtain ⟨h1, h2⟩ := List.pairwise_cons.mp h
    have hk := ih h2
    unfold Sparse.tabulate at hk ⊢
    rw [List.map_cons]
    by_cases hd : f k = d
    · rw [List.filter_cons_of_neg (by simp [hd])]
      exact hk lo fun l e j hj => hl l e j (List.mem_cons_of_mem _ hj)
    · rw [List.filter_cons_of_pos (by simpa using hd), Sparse.wfFrom_cons]
      refine ⟨fun l e => hl l e k List.mem_cons_self, hd, hk (some k) ?_⟩
      intro l e j hj
      cases e
      exact h1 j hj

theorem Sparse.get_below {m : Sparse α} {k n : Nat} (h : Sparse.wfFrom d (some k) m = true) (hn : n ≤ k) : Sparse.get d m n = d := by
  cases m with
  | nil => rfl
  | cons x m =>
    obtain ⟨j, v⟩ := x
    rw [Sparse.wfFrom_cons] at h
    have := h.1 k rfl
    simp only [Sparse.get, if_neg (show ¬n = j by omega), if_pos (show n < j by omega)]

/-- A read after a write: the value written at its key, the old value at any other. The keys need not be in order for it. -/
theorem Sparse.get_set_ne (m : Sparse α) {n k : Nat} (v : α) (hk : k ≠ n) {lo : Option Nat} (h : Sparse.wfFrom d lo m = true) :
    Sparse.get d (Sparse.set d m n v) k = Sparse.get d m k := by
  induction m generalizing lo with
  | nil => by_cases hv : v = d <;> simp [Sparse.set, hv, Sparse.get, hk]
  | cons x m ih =>
    obtain ⟨j, w⟩ := x
    rw [Sparse.wfFrom_cons] at h
    by_cases hlt : n < j
    · by_cases hv : v = d
      · simp only [Sparse.set, if_pos hlt, if_pos hv]
      · simp only [Sparse.set, if_pos hlt, if_neg hv]
        conv => lhs; rw [Sparse.get]
        by_cases hkn : k < n
        · simp [hk, hkn, Sparse.get, show k ≠ j by omega, show k < j by omega]
        · simp [hk, hkn]
    · by_cases he : n = j
      · subst he
        by_cases hv : v = d
        · simp only [Sparse.set, Nat.lt_irrefl, if_false, if_true, if_pos hv]
          conv => rhs; rw [Sparse.get]
          by_cases hkn : k < n
          · simp [hk, hkn, Sparse.get_below h.2.2 (Nat.le_of_lt hkn)]
          · simp [hk, hkn]
        · simp only [Sparse.set, Nat.lt_irrefl, if_false, if_true, if_neg hv]
          simp [Sparse.get, hk]
      · simp only [Sparse.set, if_neg hlt, if_neg he, Sparse.get, ih h.2.2]

theorem Sparse.get_set_self (m : Sparse α) (n : Nat) (v : α) {lo : Option Nat} (h : Sparse.wfFrom d lo m = true) :
    Sparse.get d (Sparse.set d m n v) n = v := by
  induction m generalizing lo with
  | nil => by_cases hv : v = d <;> simp [Sparse.set, hv, Sparse.get]
  | cons x m ih =>
    obtain ⟨j, w⟩ := x
    rw [Sparse.wfFrom_cons] at h
    by_cases hlt : n < j
    · by_cases hv : v = d
      · simp [Sparse.set, hlt, hv, Sparse.get, show n ≠ j by omega]
      · simp [Sparse.set, hlt, hv, Sparse.get]
    · by_cases he : n = j
      · subst he
        by_cases hv : v = d
        · simp only [Sparse.set, Nat.lt_irrefl, if_false, if_true, if_pos hv]
          rw [Sparse.get_below h.2.2 (Nat.le_refl n), hv]
        · simp [Sparse.set, hv, Sparse.get]
      · simp only [Sparse.set, if_neg hlt, if_neg he, Sparse.get, ih h.2.2]

theorem Sparse.get_upd_self {m : Sparse α} (h : Sparse.wf d m = true) (n : Nat) (f : α → α) :
    Sparse.get d (Sparse.upd d m n f) n = f (Sparse.get d m n) := Sparse.get_set_self m n _ h

theorem Sparse.get_upd_ne {m : Sparse α} (h : Sparse.wf d m = true) {n k : Nat} (hk : k ≠ n) (f : α → α) :
    Sparse.get d (Sparse.upd d m n f) k = Sparse.get d m k := Sparse.get_set_ne m _ hk h

theorem Memory.wf_write {e : Byte} {m : Memory} (h : Memory.wf e m = true) (a : Nat) (bs : List Byte) :
    Memory.wf e (Memory.write e m a bs) = true := by
  induction bs generalizing m a with
  | nil => exact h
  | cons b bs ih => exact ih (Sparse.wf_set h a b) (a + 1)

/-- A byte outside those written reads as before. -/
theorem Memory.get_write_out {e : Byte} {m : Memory} (h : Memory.wf e m = true) (a : Nat) (bs : List Byte) {k : Nat}
    (hk : k < a ∨ a + bs.length ≤ k) : Sparse.get e (Memory.write e m a bs) k = Sparse.get e m k := by
  induction bs generalizing m a with
  | nil => rfl
  | cons b bs ih =>
    have hl : (b :: bs).length = bs.length + 1 := rfl
    have hne : k ≠ a := by omega
    have hk' : k < a + 1 ∨ a + 1 + bs.length ≤ k := by omega
    exact (ih (Sparse.wf_set h a b) (a + 1) hk').trans (Sparse.get_set_ne m b hne h)

end Sys2Proof.Machine
end

