-- ==== Sys2Proof/Laws/InvCore.lean ====
section
/-!
SUPPORT. The invariant of Safety.lean through the updates of State that the model writes.
-/
namespace Sys2Proof.Machine

open Sys2Proof

theorem Inv_iff {s : State} : Inv s = true ↔ memoriesWf s = true ∧ tablesWf s = true ∧ numbersOk s = true := by
  simp only [Inv, Bool.and_eq_true, and_assoc]

theorem memoriesWf_iff {s : State} : memoriesWf s = true ↔
    Memory.wf 0 s.mramA = true ∧ Memory.wf 0 s.mramB = true ∧ Memory.wf 0xFF s.flashA = true ∧
      Memory.wf 0xFF s.flashB = true ∧ Memory.wf 0 s.dram = true ∧ Memory.wf 0 s.win.bulk = true := by
  simp only [memoriesWf, Bool.and_eq_true, and_assoc]

theorem tablesWf_iff {s : State} : tablesWf s = true ↔
    Sparse.wf {} s.sen = true ∧
    Sparse.wf {} s.hub = true ∧
    Sparse.wf {} s.part = true ∧
    Sparse.wf {} s.health = true ∧
    Sparse.wf {} s.sensors = true ∧
    Sparse.wf none s.screens = true ∧
    Sparse.wf 0 s.xlat0 = true ∧
    Sparse.wf 0 s.xlat1 = true ∧
    Sparse.wf [] s.routes0 = true ∧
    Sparse.wf [] s.routes1 = true ∧
    Sparse.wf 0 s.net = true ∧
    Sparse.wf 0 s.gcount = true ∧
    Sparse.wf 0x1FF s.marginPrev = true ∧
    Sparse.wf 0 s.spareAt = true ∧
    Sparse.wf 0 s.sparesLow = true ∧
    Sparse.wf {} s.win.channels = true := by
  simp only [tablesWf, Bool.and_eq_true, and_assoc]

theorem numbersOk_iff {s : State} : numbersOk s = true ↔ (0 < s.win.nextSeq ∧ s.win.nextSeq < 2 ^ 32) ∧ s.active ≤ 1 := by
  simp only [numbersOk, Bool.and_eq_true, decide_eq_true_eq]

/-- Fields that the invariant speaks of. -/
def invF : List Fld :=
  [.mramA, .mramB, .flashA, .flashB, .dram, .win, .sen, .hub, .part, .health, .sensors, .screens, .xlat0, .xlat1,
    .routes0, .routes1, .net, .gcount, .marginPrev, .spareAt, .sparesLow, .active]

/-- An operation that leaves those fields as they are keeps the invariant. -/
theorem Inv_of_get {s t : State} (h : ∀ φ : Fld, φ ∈ invF → φ.get t = φ.get s) (hs : Inv s = true) : Inv t = true := by
  have h0 : t.mramA = s.mramA := h .mramA (by decide)
  have h1 : t.mramB = s.mramB := h .mramB (by decide)
  have h2 : t.flashA = s.flashA := h .flashA (by decide)
  have h3 : t.flashB = s.flashB := h .flashB (by decide)
  have h4 : t.dram = s.dram := h .dram (by decide)
  have h5 : t.win = s.win := h .win (by decide)
  have h6 : t.sen = s.sen := h .sen (by decide)
  have h7 : t.hub = s.hub := h .hub (by decide)
  have h8 : t.part = s.part := h .part (by decide)
  have h9 : t.health = s.health := h .health (by decide)
  have h10 : t.sensors = s.sensors := h .sensors (by decide)
  have h11 : t.screens = s.screens := h .screens (by decide)
  have h12 : t.xlat0 = s.xlat0 := h .xlat0 (by decide)
  have h13 : t.xlat1 = s.xlat1 := h .xlat1 (by decide)
  have h14 : t.routes0 = s.routes0 := h .routes0 (by decide)
  have h15 : t.routes1 = s.routes1 := h .routes1 (by decide)
  have h16 : t.net = s.net := h .net (by decide)
  have h17 : t.gcount = s.gcount := h .gcount (by decide)
  have h18 : t.marginPrev = s.marginPrev := h .marginPrev (by decide)
  have h21 : t.spareAt = s.spareAt := h .spareAt (by decide)
  have h20 : t.active = s.active := h .active (by decide)
  have h19 : t.sparesLow = s.sparesLow := h .sparesLow (by decide)
  rw [Inv_iff, memoriesWf_iff, tablesWf_iff, numbersOk_iff] at hs ⊢
  rw [h0, h1, h2, h3, h4, h5, h6, h7, h8, h9, h10, h11, h12, h13, h14, h15, h16, h17, h18, h19, h20, h21]
  exact hs

theorem notMem_of {φ : Fld} {F G : List Fld} (hφ : φ ∈ F) (h : F.all (fun x => !G.contains x) = true) : φ ∉ G := by
  intro hg
  have := List.all_eq_true.mp h φ hφ
  simp_all

theorem setMramA_inv {v : Memory} {s : State} (hv : Memory.wf 0 v = true) (hs : Inv s = true) : Inv (setMramA v s) = true := by
  rw [Inv_iff, memoriesWf_iff] at hs ⊢
  exact ⟨⟨hv, hs.1.2.1, hs.1.2.2.1, hs.1.2.2.2.1, hs.1.2.2.2.2.1, hs.1.2.2.2.2.2⟩, hs.2⟩

theorem mramA_wf {s : State} (hs : Inv s = true) : Memory.wf 0 s.mramA = true := (memoriesWf_iff.mp (Inv_iff.mp hs).1).1

theorem setMramB_inv {v : Memory} {s : State} (hv : Memory.wf 0 v = true) (hs : Inv s = true) : Inv (setMramB v s) = true := by
  rw [Inv_iff, memoriesWf_iff] at hs ⊢
  exact ⟨⟨hs.1.1, hv, hs.1.2.2.1, hs.1.2.2.2.1, hs.1.2.2.2.2.1, hs.1.2.2.2.2.2⟩, hs.2⟩

theorem mramB_wf {s : State} (hs : Inv s = true) : Memory.wf 0 s.mramB = true := (memoriesWf_iff.mp (Inv_iff.mp hs).1).2.1

theorem setFlashA_inv {v : Memory} {s : State} (hv : Memory.wf 0xFF v = true) (hs : Inv s = true) : Inv (setFlashA v s) = true := by
  rw [Inv_iff, memoriesWf_iff] at hs ⊢
  exact ⟨⟨hs.1.1, hs.1.2.1, hv, hs.1.2.2.2.1, hs.1.2.2.2.2.1, hs.1.2.2.2.2.2⟩, hs.2⟩

theorem flashA_wf {s : State} (hs : Inv s = true) : Memory.wf 0xFF s.flashA = true := (memoriesWf_iff.mp (Inv_iff.mp hs).1).2.2.1

theorem setFlashB_inv {v : Memory} {s : State} (hv : Memory.wf 0xFF v = true) (hs : Inv s = true) : Inv (setFlashB v s) = true := by
  rw [Inv_iff, memoriesWf_iff] at hs ⊢
  exact ⟨⟨hs.1.1, hs.1.2.1, hs.1.2.2.1, hv, hs.1.2.2.2.2.1, hs.1.2.2.2.2.2⟩, hs.2⟩

theorem flashB_wf {s : State} (hs : Inv s = true) : Memory.wf 0xFF s.flashB = true := (memoriesWf_iff.mp (Inv_iff.mp hs).1).2.2.2.1

theorem setDram_inv {v : Memory} {s : State} (hv : Memory.wf 0 v = true) (hs : Inv s = true) : Inv (setDram v s) = true := by
  rw [Inv_iff, memoriesWf_iff] at hs ⊢
  exact ⟨⟨hs.1.1, hs.1.2.1, hs.1.2.2.1, hs.1.2.2.2.1, hv, hs.1.2.2.2.2.2⟩, hs.2⟩

theorem dram_wf {s : State} (hs : Inv s = true) : Memory.wf 0 s.dram = true := (memoriesWf_iff.mp (Inv_iff.mp hs).1).2.2.2.2.1

theorem put_sen_inv {v : Sparse Sentinel} {s : State} (hv : Sparse.wf {} v = true) (hs : Inv s = true) :
    Inv { s with sen := v } = true := by
  rw [Inv_iff, tablesWf_iff] at hs ⊢
  exact ⟨hs.1, ⟨hv, hs.2.1.2.1, hs.2.1.2.2.1, hs.2.1.2.2.2.1, hs.2.1.2.2.2.2.1, hs.2.1.2.2.2.2.2.1, hs.2.1.2.2.2.2.2.2.1, hs.2.1.2.2.2.2.2.2.2.1, hs.2.1.2.2.2.2.2.2.2.2.1, hs.2.1.2.2.2.2.2.2.2.2.2.1, hs.2.1.2.2.2.2.2.2.2.2.2.2.1, hs.2.1.2.2.2.2.2.2.2.2.2.2.2.1, hs.2.1.2.2.2.2.2.2.2.2.2.2.2.2.1, hs.2.1.2.2.2.2.2.2.2.2.2.2.2.2.2.1, hs.2.1.2.2.2.2.2.2.2.2.2.2.2.2.2.2.1, hs.2.1.2.2.2.2.2.2.2.2.2.2.2.2.2.2.2⟩, hs.2.2⟩

theorem setSen_inv {v : Sparse Sentinel} {s : State} (hv : Sparse.wf {} v = true) (hs : Inv s = true) :
    Inv (setSen v s) = true := put_sen_inv hv hs

theorem sen_wf {s : State} (hs : Inv s = true) : Sparse.wf {} s.sen = true := (tablesWf_iff.mp (Inv_iff.mp hs).2.1).1

theorem put_hub_inv {v : Sparse Hub} {s : State} (hv : Sparse.wf {} v = true) (hs : Inv s = true) :
    Inv { s with hub := v } = true := by
  rw [Inv_iff, tablesWf_iff] at hs ⊢
  exact ⟨hs.1, ⟨hs.2.1.1, hv, hs.2.1.2.2.1, hs.2.1.2.2.2.1, hs.2.1.2.2.2.2.1, hs.2.1.2.2.2.2.2.1, hs.2.1.2.2.2.2.2.2.1, hs.2.1.2.2.2.2.2.2.2.1, hs.2.1.2.2.2.2.2.2.2.2.1, hs.2.1.2.2.2.2.2.2.2.2.2.1, hs.2.1.2.2.2.2.2.2.2.2.2.2.1, hs.2.1.2.2.2.2.2.2.2.2.2.2.2.1, hs.2.1.2.2.2.2.2.2.2.2.2.2.2.2.1, hs.2.1.2.2.2.2.2.2.2.2.2.2.2.2.2.1, hs.2.1.2.2.2.2.2.2.2.2.2.2.2.2.2.2.1, hs.2.1.2.2.2.2.2.2.2.2.2.2.2.2.2.2.2⟩, hs.2.2⟩

theorem setHub_inv {v : Sparse Hub} {s : State} (hv : Sparse.wf {} v = true) (hs : Inv s = true) :
    Inv (setHub v s) = true := put_hub_inv hv hs

theorem hub_wf {s : State} (hs : Inv s = true) : Sparse.wf {} s.hub = true := (tablesWf_iff.mp (Inv_iff.mp hs).2.1).2.1

theorem put_part_inv {v : Sparse Partition} {s : State} (hv : Sparse.wf {} v = true) (hs : Inv s = true) :
    Inv { s with part := v } = true := by
  rw [Inv_iff, tablesWf_iff] at hs ⊢
  exact ⟨hs.1, ⟨hs.2.1.1, hs.2.1.2.1, hv, hs.2.1.2.2.2.1, hs.2.1.2.2.2.2.1, hs.2.1.2.2.2.2.2.1, hs.2.1.2.2.2.2.2.2.1, hs.2.1.2.2.2.2.2.2.2.1, hs.2.1.2.2.2.2.2.2.2.2.1, hs.2.1.2.2.2.2.2.2.2.2.2.1, hs.2.1.2.2.2.2.2.2.2.2.2.2.1, hs.2.1.2.2.2.2.2.2.2.2.2.2.2.1, hs.2.1.2.2.2.2.2.2.2.2.2.2.2.2.1, hs.2.1.2.2.2.2.2.2.2.2.2.2.2.2.2.1, hs.2.1.2.2.2.2.2.2.2.2.2.2.2.2.2.2.1, hs.2.1.2.2.2.2.2.2.2.2.2.2.2.2.2.2.2⟩, hs.2.2⟩

theorem setPart_inv {v : Sparse Partition} {s : State} (hv : Sparse.wf {} v = true) (hs : Inv s = true) :
    Inv (setPart v s) = true := put_part_inv hv hs

theorem part_wf {s : State} (hs : Inv s = true) : Sparse.wf {} s.part = true := (tablesWf_iff.mp (Inv_iff.mp hs).2.1).2.2.1

theorem put_health_inv {v : Sparse SiteRec} {s : State} (hv : Sparse.wf {} v = true) (hs : Inv s = true) :
    Inv { s with health := v } = true := by
  rw [Inv_iff, tablesWf_iff] at hs ⊢
  exact ⟨hs.1, ⟨hs.2.1.1, hs.2.1.2.1, hs.2.1.2.2.1, hv, hs.2.1.2.2.2.2.1, hs.2.1.2.2.2.2.2.1, hs.2.1.2.2.2.2.2.2.1, hs.2.1.2.2.2.2.2.2.2.1, hs.2.1.2.2.2.2.2.2.2.2.1, hs.2.1.2.2.2.2.2.2.2.2.2.1, hs.2.1.2.2.2.2.2.2.2.2.2.2.1, hs.2.1.2.2.2.2.2.2.2.2.2.2.2.1, hs.2.1.2.2.2.2.2.2.2.2.2.2.2.2.1, hs.2.1.2.2.2.2.2.2.2.2.2.2.2.2.2.1, hs.2.1.2.2.2.2.2.2.2.2.2.2.2.2.2.2.1, hs.2.1.2.2.2.2.2.2.2.2.2.2.2.2.2.2.2⟩, hs.2.2⟩

theorem health_wf {s : State} (hs : Inv s = true) : Sparse.wf {} s.health = true := (tablesWf_iff.mp (Inv_iff.mp hs).2.1).2.2.2.1

theorem put_sensors_inv {v : Sparse Sensor} {s : State} (hv : Sparse.wf {} v = true) (hs : Inv s = true) :
    Inv { s with sensors := v } = true := by
  rw [Inv_iff, tablesWf_iff] at hs ⊢
  exact ⟨hs.1, ⟨hs.2.1.1, hs.2.1.2.1, hs.2.1.2.2.1, hs.2.1.2.2.2.1, hv, hs.2.1.2.2.2.2.2.1, hs.2.1.2.2.2.2.2.2.1, hs.2.1.2.2.2.2.2.2.2.1, hs.2.1.2.2.2.2.2.2.2.2.1, hs.2.1.2.2.2.2.2.2.2.2.2.1, hs.2.1.2.2.2.2.2.2.2.2.2.2.1, hs.2.1.2.2.2.2.2.2.2.2.2.2.2.1, hs.2.1.2.2.2.2.2.2.2.2.2.2.2.2.1, hs.2.1.2.2.2.2.2.2.2.2.2.2.2.2.2.1, hs.2.1.2.2.2.2.2.2.2.2.2.2.2.2.2.2.1, hs.2.1.2.2.2.2.2.2.2.2.2.2.2.2.2.2.2⟩, hs.2.2⟩

theorem setSensors_inv {v : Sparse Sensor} {s : State} (hv : Sparse.wf {} v = true) (hs : Inv s = true) :
    Inv (setSensors v s) = true := put_sensors_inv hv hs

theorem sensors_wf {s : State} (hs : Inv s = true) : Sparse.wf {} s.sensors = true := (tablesWf_iff.mp (Inv_iff.mp hs).2.1).2.2.2.2.1

theorem put_screens_inv {v : Sparse (Option Screen)} {s : State} (hv : Sparse.wf none v = true) (hs : Inv s = true) :
    Inv { s with screens := v } = true := by
  rw [Inv_iff, tablesWf_iff] at hs ⊢
  exact ⟨hs.1, ⟨hs.2.1.1, hs.2.1.2.1, hs.2.1.2.2.1, hs.2.1.2.2.2.1, hs.2.1.2.2.2.2.1, hv, hs.2.1.2.2.2.2.2.2.1, hs.2.1.2.2.2.2.2.2.2.1, hs.2.1.2.2.2.2.2.2.2.2.1, hs.2.1.2.2.2.2.2.2.2.2.2.1, hs.2.1.2.2.2.2.2.2.2.2.2.2.1, hs.2.1.2.2.2.2.2.2.2.2.2.2.2.1, hs.2.1.2.2.2.2.2.2.2.2.2.2.2.2.1, hs.2.1.2.2.2.2.2.2.2.2.2.2.2.2.2.1, hs.2.1.2.2.2.2.2.2.2.2.2.2.2.2.2.2.1, hs.2.1.2.2.2.2.2.2.2.2.2.2.2.2.2.2.2⟩, hs.2.2⟩

theorem setScreens_inv {v : Sparse (Option Screen)} {s : State} (hv : Sparse.wf none v = true) (hs : Inv s = true) :
    Inv (setScreens v s) = true := put_screens_inv hv hs

theorem screens_wf {s : State} (hs : Inv s = true) : Sparse.wf none s.screens = true := (tablesWf_iff.mp (Inv_iff.mp hs).2.1).2.2.2.2.2.1

theorem put_xlat0_inv {v : Sparse Nat} {s : State} (hv : Sparse.wf 0 v = true) (hs : Inv s = true) :
    Inv { s with xlat0 := v } = true := by
  rw [Inv_iff, tablesWf_iff] at hs ⊢
  exact ⟨hs.1, ⟨hs.2.1.1, hs.2.1.2.1, hs.2.1.2.2.1, hs.2.1.2.2.2.1, hs.2.1.2.2.2.2.1, hs.2.1.2.2.2.2.2.1, hv, hs.2.1.2.2.2.2.2.2.2.1, hs.2.1.2.2.2.2.2.2.2.2.1, hs.2.1.2.2.2.2.2.2.2.2.2.1, hs.2.1.2.2.2.2.2.2.2.2.2.2.1, hs.2.1.2.2.2.2.2.2.2.2.2.2.2.1, hs.2.1.2.2.2.2.2.2.2.2.2.2.2.2.1, hs.2.1.2.2.2.2.2.2.2.2.2.2.2.2.2.1, hs.2.1.2.2.2.2.2.2.2.2.2.2.2.2.2.2.1, hs.2.1.2.2.2.2.2.2.2.2.2.2.2.2.2.2.2⟩, hs.2.2⟩

theorem setXlat0_inv {v : Sparse Nat} {s : State} (hv : Sparse.wf 0 v = true) (hs : Inv s = true) :
    Inv (setXlat0 v s) = true := put_xlat0_inv hv hs

theorem xlat0_wf {s : State} (hs : Inv s = true) : Sparse.wf 0 s.xlat0 = true := (tablesWf_iff.mp (Inv_iff.mp hs).2.1).2.2.2.2.2.2.1

theorem put_xlat1_inv {v : Sparse Nat} {s : State} (hv : Sparse.wf 0 v = true) (hs : Inv s = true) :
    Inv { s with xlat1 := v } = true := by
  rw [Inv_iff, tablesWf_iff] at hs ⊢
  exact ⟨hs.1, ⟨hs.2.1.1, hs.2.1.2.1, hs.2.1.2.2.1, hs.2.1.2.2.2.1, hs.2.1.2.2.2.2.1, hs.2.1.2.2.2.2.2.1, hs.2.1.2.2.2.2.2.2.1, hv, hs.2.1.2.2.2.2.2.2.2.2.1, hs.2.1.2.2.2.2.2.2.2.2.2.1, hs.2.1.2.2.2.2.2.2.2.2.2.2.1, hs.2.1.2.2.2.2.2.2.2.2.2.2.2.1, hs.2.1.2.2.2.2.2.2.2.2.2.2.2.2.1, hs.2.1.2.2.2.2.2.2.2.2.2.2.2.2.2.1, hs.2.1.2.2.2.2.2.2.2.2.2.2.2.2.2.2.1, hs.2.1.2.2.2.2.2.2.2.2.2.2.2.2.2.2.2⟩, hs.2.2⟩

theorem setXlat1_inv {v : Sparse Nat} {s : State} (hv : Sparse.wf 0 v = true) (hs : Inv s = true) :
    Inv (setXlat1 v s) = true := put_xlat1_inv hv hs

theorem xlat1_wf {s : State} (hs : Inv s = true) : Sparse.wf 0 s.xlat1 = true := (tablesWf_iff.mp (Inv_iff.mp hs).2.1).2.2.2.2.2.2.2.1

theorem put_routes0_inv {v : Sparse (List (Nat × Nat))} {s : State} (hv : Sparse.wf [] v = true) (hs : Inv s = true) :
    Inv { s with routes0 := v } = true := by
  rw [Inv_iff, tablesWf_iff] at hs ⊢
  exact ⟨hs.1, ⟨hs.2.1.1, hs.2.1.2.1, hs.2.1.2.2.1, hs.2.1.2.2.2.1, hs.2.1.2.2.2.2.1, hs.2.1.2.2.2.2.2.1, hs.2.1.2.2.2.2.2.2.1, hs.2.1.2.2.2.2.2.2.2.1, hv, hs.2.1.2.2.2.2.2.2.2.2.2.1, hs.2.1.2.2.2.2.2.2.2.2.2.2.1, hs.2.1.2.2.2.2.2.2.2.2.2.2.2.1, hs.2.1.2.2.2.2.2.2.2.2.2.2.2.2.1, hs.2.1.2.2.2.2.2.2.2.2.2.2.2.2.2.1, hs.2.1.2.2.2.2.2.2.2.2.2.2.2.2.2.2.1, hs.2.1.2.2.2.2.2.2.2.2.2.2.2.2.2.2.2⟩, hs.2.2⟩

theorem setRoutes0_inv {v : Sparse (List (Nat × Nat))} {s : State} (hv : Sparse.wf [] v = true) (hs : Inv s = true) :
    Inv (setRoutes0 v s) = true := put_routes0_inv hv hs

theorem routes0_wf {s : State} (hs : Inv s = true) : Sparse.wf [] s.routes0 = true := (tablesWf_iff.mp (Inv_iff.mp hs).2.1).2.2.2.2.2.2.2.2.1

theorem put_routes1_inv {v : Sparse (List (Nat × Nat))} {s : State} (hv : Sparse.wf [] v = true) (hs : Inv s = true) :
    Inv { s with routes1 := v } = true := by
  rw [Inv_iff, tablesWf_iff] at hs ⊢
  exact ⟨hs.1, ⟨hs.2.1.1, hs.2.1.2.1, hs.2.1.2.2.1, hs.2.1.2.2.2.1, hs.2.1.2.2.2.2.1, hs.2.1.2.2.2.2.2.1, hs.2.1.2.2.2.2.2.2.1, hs.2.1.2.2.2.2.2.2.2.1, hs.2.1.2.2.2.2.2.2.2.2.1, hv, hs.2.1.2.2.2.2.2.2.2.2.2.2.1, hs.2.1.2.2.2.2.2.2.2.2.2.2.2.1, hs.2.1.2.2.2.2.2.2.2.2.2.2.2.2.1, hs.2.1.2.2.2.2.2.2.2.2.2.2.2.2.2.1, hs.2.1.2.2.2.2.2.2.2.2.2.2.2.2.2.2.1, hs.2.1.2.2.2.2.2.2.2.2.2.2.2.2.2.2.2⟩, hs.2.2⟩

theorem setRoutes1_inv {v : Sparse (List (Nat × Nat))} {s : State} (hv : Sparse.wf [] v = true) (hs : Inv s = true) :
    Inv (setRoutes1 v s) = true := put_routes1_inv hv hs

theorem routes1_wf {s : State} (hs : Inv s = true) : Sparse.wf [] s.routes1 = true := (tablesWf_iff.mp (Inv_iff.mp hs).2.1).2.2.2.2.2.2.2.2.2.1

theorem put_net_inv {v : Sparse Nat} {s : State} (hv : Sparse.wf 0 v = true) (hs : Inv s = true) :
    Inv { s with net := v } = true := by
  rw [Inv_iff, tablesWf_iff] at hs ⊢
  exact ⟨hs.1, ⟨hs.2.1.1, hs.2.1.2.1, hs.2.1.2.2.1, hs.2.1.2.2.2.1, hs.2.1.2.2.2.2.1, hs.2.1.2.2.2.2.2.1, hs.2.1.2.2.2.2.2.2.1, hs.2.1.2.2.2.2.2.2.2.1, hs.2.1.2.2.2.2.2.2.2.2.1, hs.2.1.2.2.2.2.2.2.2.2.2.1, hv, hs.2.1.2.2.2.2.2.2.2.2.2.2.2.1, hs.2.1.2.2.2.2.2.2.2.2.2.2.2.2.1, hs.2.1.2.2.2.2.2.2.2.2.2.2.2.2.2.1, hs.2.1.2.2.2.2.2.2.2.2.2.2.2.2.2.2.1, hs.2.1.2.2.2.2.2.2.2.2.2.2.2.2.2.2.2⟩, hs.2.2⟩

theorem setNet_inv {v : Sparse Nat} {s : State} (hv : Sparse.wf 0 v = true) (hs : Inv s = true) :
    Inv (setNet v s) = true := put_net_inv hv hs

theorem net_wf {s : State} (hs : Inv s = true) : Sparse.wf 0 s.net = true := (tablesWf_iff.mp (Inv_iff.mp hs).2.1).2.2.2.2.2.2.2.2.2.2.1

theorem put_gcount_inv {v : Sparse Nat} {s : State} (hv : Sparse.wf 0 v = true) (hs : Inv s = true) :
    Inv { s with gcount := v } = true := by
  rw [Inv_iff, tablesWf_iff] at hs ⊢
  exact ⟨hs.1, ⟨hs.2.1.1, hs.2.1.2.1, hs.2.1.2.2.1, hs.2.1.2.2.2.1, hs.2.1.2.2.2.2.1, hs.2.1.2.2.2.2.2.1, hs.2.1.2.2.2.2.2.2.1, hs.2.1.2.2.2.2.2.2.2.1, hs.2.1.2.2.2.2.2.2.2.2.1, hs.2.1.2.2.2.2.2.2.2.2.2.1, hs.2.1.2.2.2.2.2.2.2.2.2.2.1, hv, hs.2.1.2.2.2.2.2.2.2.2.2.2.2.2.1, hs.2.1.2.2.2.2.2.2.2.2.2.2.2.2.2.1, hs.2.1.2.2.2.2.2.2.2.2.2.2.2.2.2.2.1, hs.2.1.2.2.2.2.2.2.2.2.2.2.2.2.2.2.2⟩, hs.2.2⟩

theorem setGcount_inv {v : Sparse Nat} {s : State} (hv : Sparse.wf 0 v = true) (hs : Inv s = true) :
    Inv (setGcount v s) = true := put_gcount_inv hv hs

theorem gcount_wf {s : State} (hs : Inv s = true) : Sparse.wf 0 s.gcount = true := (tablesWf_iff.mp (Inv_iff.mp hs).2.1).2.2.2.2.2.2.2.2.2.2.2.1

theorem put_marginPrev_inv {v : Sparse Nat} {s : State} (hv : Sparse.wf 0x1FF v = true) (hs : Inv s = true) :
    Inv { s with marginPrev := v } = true := by
  rw [Inv_iff, tablesWf_iff] at hs ⊢
  exact ⟨hs.1, ⟨hs.2.1.1, hs.2.1.2.1, hs.2.1.2.2.1, hs.2.1.2.2.2.1, hs.2.1.2.2.2.2.1, hs.2.1.2.2.2.2.2.1, hs.2.1.2.2.2.2.2.2.1, hs.2.1.2.2.2.2.2.2.2.1, hs.2.1.2.2.2.2.2.2.2.2.1, hs.2.1.2.2.2.2.2.2.2.2.2.1, hs.2.1.2.2.2.2.2.2.2.2.2.2.1, hs.2.1.2.2.2.2.2.2.2.2.2.2.2.1, hv, hs.2.1.2.2.2.2.2.2.2.2.2.2.2.2.2.1, hs.2.1.2.2.2.2.2.2.2.2.2.2.2.2.2.2.1, hs.2.1.2.2.2.2.2.2.2.2.2.2.2.2.2.2.2⟩, hs.2.2⟩

theorem setMarginPrev_inv {v : Sparse Nat} {s : State} (hv : Sparse.wf 0x1FF v = true) (hs : Inv s = true) :
    Inv (setMarginPrev v s) = true := put_marginPrev_inv hv hs

theorem marginPrev_wf {s : State} (hs : Inv s = true) : Sparse.wf 0x1FF s.marginPrev = true := (tablesWf_iff.mp (Inv_iff.mp hs).2.1).2.2.2.2.2.2.2.2.2.2.2.2.1

theorem put_spareAt_inv {v : Sparse Nat} {s : State} (hv : Sparse.wf 0 v = true) (hs : Inv s = true) :
    Inv { s with spareAt := v } = true := by
  rw [Inv_iff, tablesWf_iff] at hs ⊢
  exact ⟨hs.1, ⟨hs.2.1.1, hs.2.1.2.1, hs.2.1.2.2.1, hs.2.1.2.2.2.1, hs.2.1.2.2.2.2.1, hs.2.1.2.2.2.2.2.1, hs.2.1.2.2.2.2.2.2.1, hs.2.1.2.2.2.2.2.2.2.1, hs.2.1.2.2.2.2.2.2.2.2.1, hs.2.1.2.2.2.2.2.2.2.2.2.1, hs.2.1.2.2.2.2.2.2.2.2.2.2.1, hs.2.1.2.2.2.2.2.2.2.2.2.2.2.1, hs.2.1.2.2.2.2.2.2.2.2.2.2.2.2.1, hv, hs.2.1.2.2.2.2.2.2.2.2.2.2.2.2.2.2.1, hs.2.1.2.2.2.2.2.2.2.2.2.2.2.2.2.2.2⟩, hs.2.2⟩

theorem setSpareAt_inv {v : Sparse Nat} {s : State} (hv : Sparse.wf 0 v = true) (hs : Inv s = true) :
    Inv (setSpareAt v s) = true := put_spareAt_inv hv hs

theorem spareAt_wf {s : State} (hs : Inv s = true) : Sparse.wf 0 s.spareAt = true := (tablesWf_iff.mp (Inv_iff.mp hs).2.1).2.2.2.2.2.2.2.2.2.2.2.2.2.1

theorem put_sparesLow_inv {v : Sparse Nat} {s : State} (hv : Sparse.wf 0 v = true) (hs : Inv s = true) :
    Inv { s with sparesLow := v } = true := by
  rw [Inv_iff, tablesWf_iff] at hs ⊢
  exact ⟨hs.1, ⟨hs.2.1.1, hs.2.1.2.1, hs.2.1.2.2.1, hs.2.1.2.2.2.1, hs.2.1.2.2.2.2.1, hs.2.1.2.2.2.2.2.1, hs.2.1.2.2.2.2.2.2.1, hs.2.1.2.2.2.2.2.2.2.1, hs.2.1.2.2.2.2.2.2.2.2.1, hs.2.1.2.2.2.2.2.2.2.2.2.1, hs.2.1.2.2.2.2.2.2.2.2.2.2.1, hs.2.1.2.2.2.2.2.2.2.2.2.2.2.1, hs.2.1.2.2.2.2.2.2.2.2.2.2.2.2.1, hs.2.1.2.2.2.2.2.2.2.2.2.2.2.2.2.1, hv, hs.2.1.2.2.2.2.2.2.2.2.2.2.2.2.2.2.2⟩, hs.2.2⟩

theorem setSparesLow_inv {v : Sparse Nat} {s : State} (hv : Sparse.wf 0 v = true) (hs : Inv s = true) :
    Inv (setSparesLow v s) = true := put_sparesLow_inv hv hs

theorem sparesLow_wf {s : State} (hs : Inv s = true) : Sparse.wf 0 s.sparesLow = true := (tablesWf_iff.mp (Inv_iff.mp hs).2.1).2.2.2.2.2.2.2.2.2.2.2.2.2.2.1

theorem modSen_inv (k : Nat) (f : Sentinel → Sentinel) (s : State) (hs : Inv s = true) : Inv (modSen k f s) = true :=
  put_sen_inv (Sparse.wf_upd (sen_wf hs) k f) hs

theorem modHub_inv (k : Nat) (f : Hub → Hub) (s : State) (hs : Inv s = true) : Inv (modHub k f s) = true :=
  put_hub_inv (Sparse.wf_upd (hub_wf hs) k f) hs

theorem modPart_inv (k : Nat) (f : Partition → Partition) (s : State) (hs : Inv s = true) : Inv (modPart k f s) = true :=
  put_part_inv (Sparse.wf_upd (part_wf hs) k f) hs

theorem modSite_inv (k : Nat) (f : SiteRec → SiteRec) (s : State) (hs : Inv s = true) : Inv (modSite k f s) = true :=
  put_health_inv (Sparse.wf_upd (health_wf hs) k f) hs

theorem modSensor_inv (k : Nat) (f : Sensor → Sensor) (s : State) (hs : Inv s = true) : Inv (modSensor k f s) = true :=
  put_sensors_inv (Sparse.wf_upd (sensors_wf hs) k f) hs

theorem channels_wf {s : State} (hs : Inv s = true) : Sparse.wf {} s.win.channels = true :=
  (tablesWf_iff.mp (Inv_iff.mp hs).2.1).2.2.2.2.2.2.2.2.2.2.2.2.2.2.2

theorem bulk_wf {s : State} (hs : Inv s = true) : Memory.wf 0 s.win.bulk = true := (memoriesWf_iff.mp (Inv_iff.mp hs).1).2.2.2.2.2

/-- The window after `f` still holds a bulk memory and channels in canonical form. -/
theorem modWin_wf_inv (f : Window → Window) {s : State} (hb : Memory.wf 0 (f s.win).bulk = true)
    (hc : Sparse.wf {} (f s.win).channels = true) (hn : 0 < (f s.win).nextSeq ∧ (f s.win).nextSeq < 2 ^ 32) (hs : Inv s = true) :
    Inv (modWin f s) = true := by
  rw [Inv_iff, memoriesWf_iff, tablesWf_iff, numbersOk_iff] at hs ⊢
  exact ⟨⟨hs.1.1, hs.1.2.1, hs.1.2.2.1, hs.1.2.2.2.1, hs.1.2.2.2.2.1, hb⟩,
    ⟨hs.2.1.1, hs.2.1.2.1, hs.2.1.2.2.1, hs.2.1.2.2.2.1, hs.2.1.2.2.2.2.1, hs.2.1.2.2.2.2.2.1, hs.2.1.2.2.2.2.2.2.1, hs.2.1.2.2.2.2.2.2.2.1, hs.2.1.2.2.2.2.2.2.2.2.1, hs.2.1.2.2.2.2.2.2.2.2.2.1, hs.2.1.2.2.2.2.2.2.2.2.2.2.1, hs.2.1.2.2.2.2.2.2.2.2.2.2.2.1, hs.2.1.2.2.2.2.2.2.2.2.2.2.2.2.1, hs.2.1.2.2.2.2.2.2.2.2.2.2.2.2.2.1, hs.2.1.2.2.2.2.2.2.2.2.2.2.2.2.2.2.1, hc⟩, hn, hs.2.2.2⟩

theorem nextSeq_ok {s : State} (hs : Inv s = true) : 0 < s.win.nextSeq ∧ s.win.nextSeq < 2 ^ 32 :=
  (numbersOk_iff.mp (Inv_iff.mp hs).2.2).1

theorem active_ok {s : State} (hs : Inv s = true) : s.active ≤ 1 := (numbersOk_iff.mp (Inv_iff.mp hs).2.2).2

theorem setActive_inv {v : Nat} {s : State} (hv : v ≤ 1) (hs : Inv s = true) : Inv (setActive v s) = true := by
  rw [Inv_iff, memoriesWf_iff, tablesWf_iff, numbersOk_iff] at hs ⊢
  exact ⟨hs.1, hs.2.1, hs.2.2.1, hv⟩

theorem other_le (s : State) : s.other ≤ 1 := Nat.sub_le 1 s.active

theorem modWin_inv (f : Window → Window) {s : State} (hb : (f s.win).bulk = s.win.bulk) (hc : (f s.win).channels = s.win.channels)
    (hn : (f s.win).nextSeq = s.win.nextSeq) (hs : Inv s = true) : Inv (modWin f s) = true :=
  modWin_wf_inv f (hb.symm ▸ bulk_wf hs) (hc.symm ▸ channels_wf hs) (hn.symm ▸ nextSeq_ok hs) hs

theorem bulkWrite_inv {s : State} (a : Nat) (bs : List Byte) (hs : Inv s = true) :
    Inv (modWin (fun w => { w with bulk := Memory.write 0 w.bulk a bs }) s) = true :=
  modWin_wf_inv _ (Memory.wf_write (bulk_wf hs) a bs) (channels_wf hs) (nextSeq_ok hs) hs

theorem modChannel_inv {s : State} (c : Nat) (f : Channel → Channel) (hs : Inv s = true) : Inv (modChannel c f s) = true :=
  modWin_wf_inv (fun w => { w with channels := Sparse.upd {} w.channels c f }) (bulk_wf hs)
    (Sparse.wf_upd (channels_wf hs) c f) (nextSeq_ok hs) hs

theorem unlockBulk_keeps (seq : Nat) (w : Window) : (unlockBulk seq w).bulk = w.bulk ∧
    (unlockBulk seq w).channels = w.channels ∧ (unlockBulk seq w).nextSeq = w.nextSeq := by
  unfold unlockBulk
  split <;> exact ⟨rfl, rfl, rfl⟩

theorem unlockAll_keeps (qs : List Nat) (w : Window) : (qs.foldl (fun w q => unlockBulk q w) w).bulk = w.bulk ∧
    (qs.foldl (fun w q => unlockBulk q w) w).channels = w.channels ∧
    (qs.foldl (fun w q => unlockBulk q w) w).nextSeq = w.nextSeq := by
  induction qs generalizing w with
  | nil => exact ⟨rfl, rfl, rfl⟩
  | cons q qs ih =>
    have h := ih (unlockBulk q w)
    have k := unlockBulk_keeps q w
    exact ⟨h.1.trans k.1, h.2.1.trans k.2.1, h.2.2.trans k.2.2⟩

theorem bulkOpen_inv {s : State} (a : Nat) (bs : List Byte) (hs : Inv s = true) :
    Inv (modWin (fun w => if w.bulkLocked then w else { w with bulk := Memory.write 0 w.bulk a bs }) s) = true := by
  refine modWin_wf_inv _ ?_ ?_ ?_ hs
  · split
    · exact bulk_wf hs
    · exact Memory.wf_write (bulk_wf hs) a bs
  · split <;> exact channels_wf hs
  · split <;> exact nextSeq_ok hs

theorem releaseBulk_inv (ch : Nat) {s : State} (hs : Inv s = true) : Inv (modWin (releaseBulk ch) s) = true := by
  have h : (releaseBulk ch s.win).bulk = s.win.bulk ∧ (releaseBulk ch s.win).channels = s.win.channels ∧
      (releaseBulk ch s.win).nextSeq = s.win.nextSeq := by
    unfold releaseBulk
    split
    · exact ⟨rfl, rfl, rfl⟩
    · split <;> exact ⟨rfl, rfl, rfl⟩
  exact modWin_inv _ h.1 h.2.1 h.2.2 hs

theorem claimBulk_inv (ch : Nat) (priv : Priv) {s : State} (hs : Inv s = true) : Inv (modWin (claimBulk ch priv) s) = true := by
  have h : (claimBulk ch priv s.win).bulk = s.win.bulk ∧ (claimBulk ch priv s.win).channels = s.win.channels ∧
      (claimBulk ch priv s.win).nextSeq = s.win.nextSeq := by
    unfold claimBulk
    split <;> exact ⟨rfl, rfl, rfl⟩
  exact modWin_inv _ h.1 h.2.1 h.2.2 hs

theorem mram_wf {s : State} (die : Nat) (hs : Inv s = true) : Memory.wf 0 (s.mram die) = true := by
  unfold State.mram
  split
  · exact mramA_wf hs
  · exact mramB_wf hs

theorem programSlot_wf {m : Memory} (h : Memory.wf 0xFF m = true) (slot off : Nat) (erase : List Nat) (bs : List Byte) :
    Memory.wf 0xFF (programSlot slot off erase bs m) = true := by
  unfold programSlot
  exact Memory.wf_write (Sparse.wf_filter _ h) _ _

theorem sectors_sorted (s : State) : s.sectors.Pairwise (· < ·) := List.Pairwise.filter _ List.pairwise_lt_range

theorem sites_sorted (s : State) : (s.sectors.flatMap sitesOfSector).Pairwise (· < ·) := by
  rw [List.pairwise_flatMap]
  refine ⟨fun x _ => ?_, (sectors_sorted s).imp ?_⟩
  · unfold sitesOfSector
    rw [List.pairwise_map]
    exact List.pairwise_lt_range.imp fun h => Nat.add_lt_add_left h _
  · intro a b hab x hx y hy
    unfold sitesOfSector at hx hy
    obtain ⟨i, hi, rfl⟩ := List.mem_map.mp hx
    obtain ⟨j, _, rfl⟩ := List.mem_map.mp hy
    have := List.mem_range.mp hi
    omega

theorem nil_wf {e : Byte} : Memory.wf e [] = true := rfl

theorem wf_ite {c : Prop} [Decidable c] {e : Byte} {a b : Memory} (ha : c → Memory.wf e a = true) (hb : ¬c → Memory.wf e b = true) :
    Memory.wf e (if c then a else b) = true := by
  split
  · exact ha ‹_›
  · exact hb ‹_›

theorem wf_fst_ite {c : Prop} [Decidable c] {e : Byte} {β : Type} {a b : Memory × β} (ha : c → Memory.wf e a.1 = true)
    (hb : ¬c → Memory.wf e b.1 = true) : Memory.wf e (if c then a else b).1 = true := by
  split
  · exact ha ‹_›
  · exact hb ‹_›

theorem dramWrite_inv {s : State} (a : Nat) (bs : List Byte) (hs : Inv s = true) :
    Inv (setDram (Memory.write 0 s.dram a bs) s) = true := setDram_inv (Memory.wf_write (dram_wf hs) a bs) hs

theorem each_inv {α : Type} (xs : List α) (g : α → State → State) (h : ∀ a y, Inv y = true → Inv (g a y) = true)
    (s : State) (hs : Inv s = true) : Inv (each xs g s) = true := by
  induction xs generalizing s with
  | nil => exact hs
  | cons a xs ih => exact ih (g a s) (h a s hs)

theorem foldl_inv {α : Type} (xs : List α) (g : State → α → State) (h : ∀ y a, Inv y = true → Inv (g y a) = true)
    (s : State) (hs : Inv s = true) : Inv (xs.foldl g s) = true := by
  induction xs generalizing s with
  | nil => exact hs
  | cons a xs ih => exact ih (g s a) (h s a hs)

theorem foldl_fst_inv {α β : Type} (xs : List α) (g : State × β → α → State × β) (h : ∀ y a, Inv y.1 = true → Inv (g y a).1 = true)
    (s : State × β) (hs : Inv s.1 = true) : Inv (xs.foldl g s).1 = true := by
  induction xs generalizing s with
  | nil => exact hs
  | cons a xs ih => exact ih (g s a) (h s a hs)

theorem foldl_snd_inv {α β : Type} (xs : List α) (g : β × State → α → β × State) (h : ∀ y a, Inv y.2 = true → Inv (g y a).2 = true)
    (s : β × State) (hs : Inv s.2 = true) : Inv (xs.foldl g s).2 = true := by
  induction xs generalizing s with
  | nil => exact hs
  | cons a xs ih => exact ih (g s a) (h s a hs)

/-- A result keeps the invariant. -/
def Safe (r : Result) : Prop :=
  match r with
  | .next t => Inv t = true
  | _ => True

theorem safe_of_kept {r : Result} {s : State} (h : ∀ φ : Fld, φ ∈ invF → Kept φ r s) (hs : Inv s = true) : Safe r := by
  cases r with
  | next t => exact Inv_of_get h hs
  | fault _ => trivial
  | refused _ => trivial

theorem inv_ite {c : Prop} [Decidable c] {a b : State} (ha : c → Inv a = true) (hb : ¬c → Inv b = true) :
    Inv (if c then a else b) = true := by
  split
  · exact ha ‹_›
  · exact hb ‹_›

theorem safe_ite {c : Prop} [Decidable c] {a b : Result} (ha : c → Safe a) (hb : ¬c → Safe b) :
    Safe (if c then a else b) := by
  split
  · exact ha ‹_›
  · exact hb ‹_›

theorem safe_next {t : State} : Safe (.next t) ↔ Inv t = true := Iff.rfl

theorem ringPut_wf {m : Memory} (h : Memory.wf 0 m = true) (off : Nat) (bs : List Byte) : Memory.wf 0 (ringPut m off bs) = true := by
  unfold ringPut
  exact Memory.wf_write (Memory.wf_write h _ _) _ _

theorem ringBatch_wf {m : Memory} (h : Memory.wf 0 m = true) (c : RingCtl) (rs : List (List Byte)) :
    Memory.wf 0 (ringBatch m c rs).1 = true := by
  unfold ringBatch
  dsimp only
  with_reducible exact Memory.wf_write (ringPut_wf h _ _) _ _

theorem ringCtlPut_wf {m : Memory} (h : Memory.wf 0 m = true) (c : RingCtl) : Memory.wf 0 (ringCtlPut m c).1 = true := by
  unfold ringCtlPut
  dsimp only
  with_reducible exact Memory.wf_write h _ _

end Sys2Proof.Machine
end

