-- ==== Sys2Proof/Laws/InvOps.lean ====
section
/-!
SUPPORT. The invariant through the operations of Machine/Ops.lean.
-/
namespace Sys2Proof.Machine

open Sys2Proof

set_option linter.all false
set_option Elab.async false

theorem setSlot_inv (v : Nat) (s : State)  (hs : Inv s = true) : Inv (setSlot v s) = true := by
  exact Inv_of_get (fun φ hφ => setSlot_get (notMem_of hφ rfl) _ _) hs

theorem setSent_inv (v : List Instr) (s : State)  (hs : Inv s = true) : Inv (setSent v s) = true := by
  exact Inv_of_get (fun φ hφ => setSent_get (notMem_of hφ rfl) _ _) hs

theorem setPowered_inv (v : Bool) (s : State)  (hs : Inv s = true) : Inv (setPowered v s) = true := by
  exact Inv_of_get (fun φ hφ => setPowered_get (notMem_of hφ rfl) _ _) hs

theorem setWarn_inv (v : Bool) (s : State)  (hs : Inv s = true) : Inv (setWarn v s) = true := by
  exact Inv_of_get (fun φ hφ => setWarn_get (notMem_of hφ rfl) _ _) hs

theorem setNoRuns_inv (v : Bool) (s : State)  (hs : Inv s = true) : Inv (setNoRuns v s) = true := by
  exact Inv_of_get (fun φ hφ => setNoRuns_get (notMem_of hφ rfl) _ _) hs

theorem setImage_inv (v : Image) (s : State)  (hs : Inv s = true) : Inv (setImage v s) = true := by
  exact Inv_of_get (fun φ hφ => setImage_get (notMem_of hφ rfl) _ _) hs

theorem setFailover_inv (v : Bool) (s : State)  (hs : Inv s = true) : Inv (setFailover v s) = true := by
  exact Inv_of_get (fun φ hφ => setFailover_get (notMem_of hφ rfl) _ _) hs

theorem setChecked_inv (v : Bool) (s : State)  (hs : Inv s = true) : Inv (setChecked v s) = true := by
  exact Inv_of_get (fun φ hφ => setChecked_get (notMem_of hφ rfl) _ _) hs

theorem setTakeover_inv (v : List Nat) (s : State)  (hs : Inv s = true) : Inv (setTakeover v s) = true := by
  exact Inv_of_get (fun φ hφ => setTakeover_get (notMem_of hφ rfl) _ _) hs

theorem setSwitchSeq_inv (v : Nat) (s : State)  (hs : Inv s = true) : Inv (setSwitchSeq v s) = true := by
  exact Inv_of_get (fun φ hφ => setSwitchSeq_get (notMem_of hφ rfl) _ _) hs

theorem setSwitchOk_inv (v : Bool) (s : State)  (hs : Inv s = true) : Inv (setSwitchOk v s) = true := by
  exact Inv_of_get (fun φ hφ => setSwitchOk_get (notMem_of hφ rfl) _ _) hs

theorem setJournalSeq_inv (v : Nat) (s : State)  (hs : Inv s = true) : Inv (setJournalSeq v s) = true := by
  exact Inv_of_get (fun φ hφ => setJournalSeq_get (notMem_of hφ rfl) _ _) hs

theorem setJournal_inv (v : List JournalEntry) (s : State)  (hs : Inv s = true) : Inv (setJournal v s) = true := by
  exact Inv_of_get (fun φ hφ => setJournal_get (notMem_of hφ rfl) _ _) hs

theorem setAuditAlarm_inv (v : Bool) (s : State)  (hs : Inv s = true) : Inv (setAuditAlarm v s) = true := by
  exact Inv_of_get (fun φ hφ => setAuditAlarm_get (notMem_of hφ rfl) _ _) hs

theorem setRasBaseA_inv (v : Dword) (s : State)  (hs : Inv s = true) : Inv (setRasBaseA v s) = true := by
  exact Inv_of_get (fun φ hφ => setRasBaseA_get (notMem_of hφ rfl) _ _) hs

theorem setRasAtA_inv (v : Nat) (s : State)  (hs : Inv s = true) : Inv (setRasAtA v s) = true := by
  exact Inv_of_get (fun φ hφ => setRasAtA_get (notMem_of hφ rfl) _ _) hs

theorem setRasBaseB_inv (v : Dword) (s : State)  (hs : Inv s = true) : Inv (setRasBaseB v s) = true := by
  exact Inv_of_get (fun φ hφ => setRasBaseB_get (notMem_of hφ rfl) _ _) hs

theorem setRasAtB_inv (v : Nat) (s : State)  (hs : Inv s = true) : Inv (setRasAtB v s) = true := by
  exact Inv_of_get (fun φ hφ => setRasAtB_get (notMem_of hφ rfl) _ _) hs

theorem setRasArmedB_inv (v : Option Dword) (s : State)  (hs : Inv s = true) : Inv (setRasArmedB v s) = true := by
  exact Inv_of_get (fun φ hφ => setRasArmedB_get (notMem_of hφ rfl) _ _) hs

theorem setRasCheck_inv (v : List Nat) (s : State)  (hs : Inv s = true) : Inv (setRasCheck v s) = true := by
  exact Inv_of_get (fun φ hφ => setRasCheck_get (notMem_of hφ rfl) _ _) hs

theorem setSyncRas_inv (v : Dword) (s : State)  (hs : Inv s = true) : Inv (setSyncRas v s) = true := by
  exact Inv_of_get (fun φ hφ => setSyncRas_get (notMem_of hφ rfl) _ _) hs

theorem setSetA_inv (v : List Settings) (s : State)  (hs : Inv s = true) : Inv (setSetA v s) = true := by
  exact Inv_of_get (fun φ hφ => setSetA_get (notMem_of hφ rfl) _ _) hs

theorem setSetB_inv (v : List Settings) (s : State)  (hs : Inv s = true) : Inv (setSetB v s) = true := by
  exact Inv_of_get (fun φ hφ => setSetB_get (notMem_of hφ rfl) _ _) hs

theorem setSetBusy_inv (v : Option (Nat × Nat × Nat)) (s : State)  (hs : Inv s = true) : Inv (setSetBusy v s) = true := by
  exact Inv_of_get (fun φ hφ => setSetBusy_get (notMem_of hφ rfl) _ _) hs

theorem setStageOpen_inv (v : Bool) (s : State)  (hs : Inv s = true) : Inv (setStageOpen v s) = true := by
  exact Inv_of_get (fun φ hφ => setStageOpen_get (notMem_of hφ rfl) _ _) hs

theorem setStageNext_inv (v : Nat) (s : State)  (hs : Inv s = true) : Inv (setStageNext v s) = true := by
  exact Inv_of_get (fun φ hφ => setStageNext_get (notMem_of hφ rfl) _ _) hs

theorem setStageErased_inv (v : List Nat) (s : State)  (hs : Inv s = true) : Inv (setStageErased v s) = true := by
  exact Inv_of_get (fun φ hφ => setStageErased_get (notMem_of hφ rfl) _ _) hs

theorem setUnflushed_inv (v : List Nat) (s : State)  (hs : Inv s = true) : Inv (setUnflushed v s) = true := by
  exact Inv_of_get (fun φ hφ => setUnflushed_get (notMem_of hφ rfl) _ _) hs

theorem setDeepPassed_inv (v : List Nat) (s : State)  (hs : Inv s = true) : Inv (setDeepPassed v s) = true := by
  exact Inv_of_get (fun φ hφ => setDeepPassed_get (notMem_of hφ rfl) _ _) hs

theorem setSramLog_inv (v : List SramRepair) (s : State)  (hs : Inv s = true) : Inv (setSramLog v s) = true := by
  exact Inv_of_get (fun φ hφ => setSramLog_get (notMem_of hφ rfl) _ _) hs

theorem setMemLog_inv (v : List (Nat × Nat × Nat)) (s : State)  (hs : Inv s = true) : Inv (setMemLog v s) = true := by
  exact Inv_of_get (fun φ hφ => setMemLog_get (notMem_of hφ rfl) _ _) hs

theorem setScreenReqs_inv (v : List (Nat × Nat)) (s : State)  (hs : Inv s = true) : Inv (setScreenReqs v s) = true := by
  exact Inv_of_get (fun φ hφ => setScreenReqs_get (notMem_of hφ rfl) _ _) hs

theorem setLinks_inv (v : List MidLink) (s : State)  (hs : Inv s = true) : Inv (setLinks v s) = true := by
  exact Inv_of_get (fun φ hφ => setLinks_get (notMem_of hφ rfl) _ _) hs

theorem setGraph_inv (v : List (Edge × Dword)) (s : State)  (hs : Inv s = true) : Inv (setGraph v s) = true := by
  exact Inv_of_get (fun φ hφ => setGraph_get (notMem_of hφ rfl) _ _) hs

theorem setThrottle_inv (v : Throttle) (s : State)  (hs : Inv s = true) : Inv (setThrottle v s) = true := by
  exact Inv_of_get (fun φ hφ => setThrottle_get (notMem_of hφ rfl) _ _) hs

theorem setStop_inv (v : Stop) (s : State)  (hs : Inv s = true) : Inv (setStop v s) = true := by
  exact Inv_of_get (fun φ hφ => setStop_get (notMem_of hφ rfl) _ _) hs

theorem setWaits_inv (v : List WaitAct) (s : State)  (hs : Inv s = true) : Inv (setWaits v s) = true := by
  exact Inv_of_get (fun φ hφ => setWaits_get (notMem_of hφ rfl) _ _) hs

theorem setDrainId_inv (v : Nat) (s : State)  (hs : Inv s = true) : Inv (setDrainId v s) = true := by
  exact Inv_of_get (fun φ hφ => setDrainId_get (notMem_of hφ rfl) _ _) hs

theorem setArmId_inv (v : Nat) (s : State)  (hs : Inv s = true) : Inv (setArmId v s) = true := by
  exact Inv_of_get (fun φ hφ => setArmId_get (notMem_of hφ rfl) _ _) hs

theorem setScanId_inv (v : Nat) (s : State)  (hs : Inv s = true) : Inv (setScanId v s) = true := by
  exact Inv_of_get (fun φ hφ => setScanId_get (notMem_of hφ rfl) _ _) hs

theorem setRecorder_inv (v : Recorder) (s : State)  (hs : Inv s = true) : Inv (setRecorder v s) = true := by
  exact Inv_of_get (fun φ hφ => setRecorder_get (notMem_of hφ rfl) _ _) hs

theorem setCoreTx_inv (v : List CoreMsg) (s : State)  (hs : Inv s = true) : Inv (setCoreTx v s) = true := by
  exact Inv_of_get (fun φ hφ => setCoreTx_get (notMem_of hφ rfl) _ _) hs

theorem setCoreNaks_inv (v : Nat) (s : State)  (hs : Inv s = true) : Inv (setCoreNaks v s) = true := by
  exact Inv_of_get (fun φ hφ => setCoreNaks_get (notMem_of hφ rfl) _ _) hs

theorem setLossRejected_inv (v : Nat) (s : State)  (hs : Inv s = true) : Inv (setLossRejected v s) = true := by
  exact Inv_of_get (fun φ hφ => setLossRejected_get (notMem_of hφ rfl) _ _) hs

theorem setCoreTag_inv (v : Nat) (s : State)  (hs : Inv s = true) : Inv (setCoreTag v s) = true := by
  exact Inv_of_get (fun φ hφ => setCoreTag_get (notMem_of hφ rfl) _ _) hs

theorem setAnswers_inv (v : List Answer) (s : State)  (hs : Inv s = true) : Inv (setAnswers v s) = true := by
  exact Inv_of_get (fun φ hφ => setAnswers_get (notMem_of hφ rfl) _ _) hs

theorem setFree_inv (v : Nat) (s : State)  (hs : Inv s = true) : Inv (setFree v s) = true := by
  exact Inv_of_get (fun φ hφ => setFree_get (notMem_of hφ rfl) _ _) hs

theorem modRec_inv (f : Recorder → Recorder) (s : State)  (hs : Inv s = true) : Inv (modRec f s) = true := by
  exact Inv_of_get (fun φ hφ => modRec_get (notMem_of hφ rfl) _ _) hs

theorem modStop_inv (f : Stop → Stop) (s : State)  (hs : Inv s = true) : Inv (modStop f s) = true := by
  exact Inv_of_get (fun φ hφ => modStop_get (notMem_of hφ rfl) _ _) hs

theorem modThrottle_inv (f : Throttle → Throttle) (s : State)  (hs : Inv s = true) : Inv (modThrottle f s) = true := by
  exact Inv_of_get (fun φ hφ => modThrottle_get (notMem_of hφ rfl) _ _) hs

theorem modBoot_inv (f : Boot → Boot) (s : State)  (hs : Inv s = true) : Inv (modBoot f s) = true := by
  exact Inv_of_get (fun φ hφ => modBoot_get (notMem_of hφ rfl) _ _) hs

theorem modPort_inv (die : Nat) (f : Port → Port) (s : State)  (hs : Inv s = true) : Inv (modPort die f s) = true := by
  exact Inv_of_get (fun φ hφ => modPort_get (notMem_of hφ rfl) _ _ _) hs

theorem modMgr_inv (die : Nat) (f : Manager → Manager) (s : State)  (hs : Inv s = true) : Inv (modMgr die f s) = true := by
  exact Inv_of_get (fun φ hφ => modMgr_get (notMem_of hφ rfl) _ _ _) hs

theorem modIsland_inv (die : Nat) (f : Island → Island) (s : State)  (hs : Inv s = true) : Inv (modIsland die f s) = true := by
  exact Inv_of_get (fun φ hφ => modIsland_get (notMem_of hφ rfl) _ _ _) hs

theorem countSen_inv (site k n : Nat) (s : State)  (hs : Inv s = true) : Inv (countSen site k n s) = true := by
  unfold countSen
  with_reducible
    repeat' first
    | assumption | refine modSen_inv _ _ _ ?_ | refine inv_ite (fun _ => ?_) (fun _ => ?_) | split | dsimp only

theorem countHub_inv (h k n : Nat) (s : State)  (hs : Inv s = true) : Inv (countHub h k n s) = true := by
  unfold countHub
  with_reducible
    repeat' first
    | assumption | refine modHub_inv _ _ _ ?_ | refine inv_ite (fun _ => ?_) (fun _ => ?_) | split | dsimp only

theorem countGlobal_inv (p k n : Nat) (s : State)  (hs : Inv s = true) : Inv (countGlobal p k n s) = true := by
  unfold countGlobal
  with_reducible
    repeat' first
    | assumption | refine setGcount_inv ?_ ?_ | refine gcount_wf ?_ | refine Sparse.wf_set ?_ _ _
    | refine Sparse.wf_upd ?_ _ _ | refine Sparse.wf_mapAll ?_ _ | exact Sparse.wf_nil
    | exact Sparse.wf_tabulate _ _ (sectors_sorted _) | exact Sparse.wf_tabulate _ _ (sites_sorted _)
    | refine Sparse.wf_foldl _ _ (fun _ _ _ => ?_) _ ?_ | refine wf_ite (fun _ => ?_) (fun _ => ?_)
    | refine inv_ite (fun _ => ?_) (fun _ => ?_) | split | dsimp only

theorem holdSlot_inv (site : Nat) (s : State)  (hs : Inv s = true) : Inv (holdSlot site s) = true := by
  unfold holdSlot
  with_reducible
    repeat' first
    | assumption | refine modSen_inv _ _ _ ?_ | refine inv_ite (fun _ => ?_) (fun _ => ?_) | split | dsimp only

theorem send_inv (m : Instr) (s : State)  (hs : Inv s = true) : Inv (send m s) = true := by
  exact Inv_of_get (fun φ hφ => send_get (notMem_of hφ rfl) _ _) hs

theorem respond_inv (unit cls opcode : Nat) (words : List Word) (s : State)  (hs : Inv s = true) : Inv (respond unit cls opcode words s) = true := by
  exact Inv_of_get (fun φ hφ => respond_get (notMem_of hφ rfl) _ _ _ _ _) hs

theorem sendAll_inv (ms : List Instr) (s : State)  (hs : Inv s = true) : Inv (sendAll ms s) = true := by
  exact Inv_of_get (fun φ hφ => sendAll_get (notMem_of hφ rfl) _ _) hs

theorem sendGroup_inv (group : Nat) (f : Nat → Instr) (s : State)  (hs : Inv s = true) : Inv (sendGroup group f s) = true := by
  exact Inv_of_get (fun φ hφ => sendGroup_get (notMem_of hφ rfl) _ _ _) hs

theorem loadTime_inv (s : State)  (hs : Inv s = true) : Inv (loadTime s) = true := by
  exact Inv_of_get (fun φ hφ => loadTime_get (notMem_of hφ rfl) _) hs

theorem receive_inv (m : Instr) (s : State)  (hs : Inv s = true) : Inv (receive m s) = true := by
  unfold receive
  with_reducible
    repeat' first
    | assumption | refine countHub_inv _ _ _ _ ?_ | refine modHub_inv _ _ _ ?_ | refine setSent_inv _ _ ?_
    | refine each_inv _ _ (fun _ _ _ => ?_) _ ?_ | refine inv_ite (fun _ => ?_) (fun _ => ?_) | split | dsimp only

theorem holdBack_inv (m : Instr) (s : State)  (hs : Inv s = true) : Inv (holdBack m s) = true := by
  unfold holdBack
  with_reducible
    repeat' first
    | assumption | refine countHub_inv _ _ _ _ ?_ | refine modHub_inv _ _ _ ?_ | refine setSent_inv _ _ ?_
    | refine inv_ite (fun _ => ?_) (fun _ => ?_) | split | dsimp only

theorem arrive_safe (m : Instr) (f : State → State) (s : State) (hf : ∀ y, Inv y = true → Inv (f y) = true) (hs : Inv s = true) : Safe (arrive m f s) := by
  unfold arrive
  exact safe_ite (fun _ => hf _ (receive_inv _ _ hs)) (fun _ => holdBack_inv _ _ hs)

theorem reportDrops_inv (site : Nat) (s : State)  (hs : Inv s = true) : Inv (reportDrops site s) = true := by
  unfold reportDrops
  with_reducible
    repeat' first
    | assumption | refine modSen_inv _ _ _ ?_ | refine send_inv _ _ ?_ | refine inv_ite (fun _ => ?_) (fun _ => ?_)
    | split | dsimp only

theorem senReport_inv (site : Nat) (m : Instr) (s : State)  (hs : Inv s = true) : Inv (senReport site m s) = true := by
  unfold senReport
  with_reducible
    repeat' first
    | assumption | refine modSen_inv _ _ _ ?_ | refine reportDrops_inv _ _ ?_ | refine send_inv _ _ ?_
    | refine setSent_inv _ _ ?_ | refine inv_ite (fun _ => ?_) (fun _ => ?_) | split | dsimp only

theorem senEvent_inv (site code : Nat) (payload : List Byte) (s : State)  (hs : Inv s = true) : Inv (senEvent site code payload s) = true := by
  unfold senEvent
  with_reducible
    repeat' first
    | assumption | refine senReport_inv _ _ _ ?_ | refine inv_ite (fun _ => ?_) (fun _ => ?_) | split | dsimp only

theorem hubEvent_inv (h code : Nat) (payload : List Byte) (s : State)  (hs : Inv s = true) : Inv (hubEvent h code payload s) = true := by
  exact Inv_of_get (fun φ hφ => hubEvent_get (notMem_of hφ rfl) _ _ _ _) hs

theorem journalize_inv (kind object trigger before after aux : Nat) (s : State)  (hs : Inv s = true) : Inv (journalize kind object trigger before after aux s) = true := by
  exact Inv_of_get (fun φ hφ => journalize_get (notMem_of hφ rfl) _ _ _ _ _ _ _) hs

theorem mramPut_inv (die off : Nat) (bs : List Byte) (s : State)  (hs : Inv s = true) : Inv (mramPut die off bs s) = true := by
  unfold mramPut
  split
  · exact hs
  · split
    · exact setMramA_inv (Memory.wf_write (mramA_wf hs) _ _) hs
    · exact setMramB_inv (Memory.wf_write (mramB_wf hs) _ _) hs

theorem mramBoth_inv (off : Nat) (bs : List Byte) (s : State)  (hs : Inv s = true) : Inv (mramBoth off bs s) = true := by
  unfold mramBoth
  with_reducible
    repeat' first
    | assumption | refine mramPut_inv _ _ _ _ ?_ | refine sendAll_inv _ _ ?_
    | refine inv_ite (fun _ => ?_) (fun _ => ?_) | split | dsimp only

end Sys2Proof.Machine
end

