-- ==== Sys2Proof/Laws/InvFlags.lean ====
section
/-!
SUPPORT. The invariant through the operations of Machine/Flags.lean.
-/
namespace Sys2Proof.Machine

open Sys2Proof

set_option linter.all false
set_option Elab.async false

theorem syncPins_inv (s : State)  (hs : Inv s = true) : Inv (syncPins s) = true := by
  exact Inv_of_get (fun φ hφ => syncPins_get (notMem_of hφ rfl) _) hs

theorem raiseAlert_inv (n : Nat) (s : State)  (hs : Inv s = true) : Inv (raiseAlert n s) = true := by
  unfold raiseAlert
  with_reducible
    repeat' first
    | assumption | refine syncPins_inv _ ?_ | refine modWin_inv _ (by rfl) (by rfl) (by rfl) ?_
    | refine modWin_inv _ (by exact (unlockBulk_keeps _ _).1) (by exact (unlockBulk_keeps _ _).2.1) (by exact (unlockBulk_keeps _ _).2.2) ?_
    | refine bulkWrite_inv _ _ ?_ | refine releaseBulk_inv _ ?_ | refine claimBulk_inv _ _ ?_
    | refine bulkOpen_inv _ _ ?_ | refine inv_ite (fun _ => ?_) (fun _ => ?_) | split | dsimp only

theorem raiseFatal_inv (n : Nat) (s : State)  (hs : Inv s = true) : Inv (raiseFatal n s) = true := by
  unfold raiseFatal
  with_reducible
    repeat' first
    | assumption | refine syncPins_inv _ ?_ | refine modWin_inv _ (by rfl) (by rfl) (by rfl) ?_
    | refine modWin_inv _ (by exact (unlockBulk_keeps _ _).1) (by exact (unlockBulk_keeps _ _).2.1) (by exact (unlockBulk_keeps _ _).2.2) ?_
    | refine bulkWrite_inv _ _ ?_ | refine releaseBulk_inv _ ?_ | refine claimBulk_inv _ _ ?_
    | refine bulkOpen_inv _ _ ?_ | refine inv_ite (fun _ => ?_) (fun _ => ?_) | split | dsimp only

theorem recorderAlert_inv (was : Recorder) (s : State)  (hs : Inv s = true) : Inv (recorderAlert was s) = true := by
  unfold recorderAlert
  with_reducible
    repeat' first
    | assumption | refine raiseAlert_inv _ _ ?_ | refine inv_ite (fun _ => ?_) (fun _ => ?_) | split | dsimp only

end Sys2Proof.Machine
end

