-- ==== Sys2Proof/Laws/InvRecorder.lean ====
section
/-!
SUPPORT. The invariant through the operations of Machine/Recorder.lean.
-/
namespace Sys2Proof.Machine

open Sys2Proof

set_option linter.all false
set_option Elab.async false

theorem ringWrite_inv (qs : List Queued) (s : State)  (hs : Inv s = true) : Inv (ringWrite qs s) = true := by
  have hb : Memory.wf 0 (if (s.mgr s.active).mramOk then ringBatch (s.mram s.active) s.recorder.ring (qs.map ringRecord)
      else (s.mram s.active, s.recorder.ring)).1 = true := by
    split
    · exact ringBatch_wf (mram_wf _ hs) _ _
    · exact mram_wf _ hs
  unfold ringWrite
  refine modRec_inv _ _ ?_
  split
  · exact setMramA_inv hb hs
  · exact setMramB_inv hb hs

theorem ringWriteAll_inv  (x0 : Nat) (x1 : List Queued) (s : State) (hs : Inv s = true) : Inv (ringWriteAll x0 x1 s) = true := by
  induction x0 generalizing x1 s with
  | zero => exact hs
  | succ n ih =>
    unfold ringWriteAll
    split
    · exact hs
    · dsimp only
      split
      · exact hs
      · exact ih _ _ (ringWrite_inv _ _ hs)

theorem mirrorWrite_inv (qs : List Queued) (s : State)  (hs : Inv s = true) : Inv (mirrorWrite qs s) = true := by
  have hb := ringBatch_wf (mram_wf s.other hs) s.recorder.mirrorRing (qs.map ringRecord)
  unfold mirrorWrite
  refine modRec_inv _ _ ?_
  split
  · exact setMramB_inv hb hs
  · exact setMramA_inv hb hs

theorem acceptInto_inv (staging : Bool) (r : Rec) (s : State)  (hs : Inv s = true) : Inv (acceptInto staging r s) = true := by
  unfold acceptInto
  with_reducible
    repeat' first
    | assumption | refine modRec_inv _ _ ?_ | refine recorderAlert_inv _ _ ?_ | refine send_inv _ _ ?_
    | refine inv_ite (fun _ => ?_) (fun _ => ?_) | split | dsimp only

theorem acceptPlain_inv (code : Nat) (payload : List Byte) (s : State)  (hs : Inv s = true) : Inv (acceptPlain code payload s) = true := by
  unfold acceptPlain
  with_reducible
    repeat' first
    | assumption | refine acceptInto_inv _ _ _ ?_ | refine inv_ite (fun _ => ?_) (fun _ => ?_) | split | dsimp only

theorem dropSummary_inv (s : State)  (hs : Inv s = true) : Inv (dropSummary s) = true := by
  unfold dropSummary
  with_reducible
    repeat' first
    | assumption | refine acceptPlain_inv _ _ _ ?_ | refine modRec_inv _ _ ?_
    | refine inv_ite (fun _ => ?_) (fun _ => ?_) | split | dsimp only

theorem thaw_inv (cause : Nat) (s : State)  (hs : Inv s = true) : Inv (thaw cause s) = true := by
  unfold thaw
  with_reducible
    repeat' first
    | assumption | refine acceptPlain_inv _ _ _ ?_ | refine dropSummary_inv _ ?_ | refine mirrorWrite_inv _ _ ?_
    | refine modRec_inv _ _ ?_ | refine ringWriteAll_inv _ _ _ ?_ | refine inv_ite (fun _ => ?_) (fun _ => ?_) | split
    | dsimp only

theorem noteReason_inv (site bit : Nat) (s : State)  (hs : Inv s = true) : Inv (noteReason site bit s) = true := by
  unfold noteReason
  with_reducible
    repeat' first
    | assumption | refine modPart_inv _ _ _ ?_ | refine inv_ite (fun _ => ?_) (fun _ => ?_) | split | dsimp only

theorem accept_inv (e : Happening) (s : State)  (hs : Inv s = true) : Inv (accept e s) = true := by
  unfold accept
  with_reducible
    repeat' first
    | assumption | refine acceptInto_inv _ _ _ ?_ | refine modBoot_inv _ _ ?_ | refine modRec_inv _ _ ?_
    | refine noteReason_inv _ _ _ ?_ | refine thaw_inv _ _ ?_ | refine inv_ite (fun _ => ?_) (fun _ => ?_) | split
    | dsimp only

theorem recordFrom_inv (source code : Nat) (payload : List Byte) (s : State)  (hs : Inv s = true) : Inv (recordFrom source code payload s) = true := by
  unfold recordFrom
  with_reducible
    repeat' first
    | assumption | refine accept_inv _ _ ?_ | refine inv_ite (fun _ => ?_) (fun _ => ?_) | split | dsimp only

theorem record_inv (code : Nat) (payload : List Byte) (s : State)  (hs : Inv s = true) : Inv (record code payload s) = true := by
  unfold record
  with_reducible
    repeat' first
    | assumption | refine recordFrom_inv _ _ _ _ ?_ | refine inv_ite (fun _ => ?_) (fun _ => ?_) | split | dsimp only

theorem drained_inv (s : State)  (hs : Inv s = true) : Inv (drained s) = true := by
  unfold drained
  with_reducible
    repeat' first
    | assumption | refine dropSummary_inv _ ?_ | refine inv_ite (fun _ => ?_) (fun _ => ?_) | split | dsimp only

theorem acceptWaiting_inv  (x0 : Nat) (s : State) (hs : Inv s = true) : Inv (acceptWaiting x0 s) = true := by
  induction x0 generalizing s with
  | zero => exact hs
  | succ n ih =>
    unfold acceptWaiting
    split
    · exact hs
    · split
      · exact hs
      · exact ih _ (accept_inv _ _ (modRec_inv _ _ hs))

theorem calendarMark_inv (cause previous : Nat) (s : State)  (hs : Inv s = true) : Inv (calendarMark cause previous s) = true := by
  unfold calendarMark
  with_reducible
    repeat' first
    | assumption | refine record_inv _ _ _ ?_ | refine inv_ite (fun _ => ?_) (fun _ => ?_) | split | dsimp only

end Sys2Proof.Machine
end

