-- ==== Sys2Proof/Laws/InvOperands.lean ====
section
/-!
SUPPORT. The invariant through the operations of Machine/Operands.lean.
-/
namespace Sys2Proof.Machine

open Sys2Proof

set_option linter.all false
set_option Elab.async false

theorem modCmd_inv (seq : Nat) (f : Cmd → Cmd) (s : State)  (hs : Inv s = true) : Inv (modCmd seq f s) = true := by
  unfold modCmd
  with_reducible
    repeat' first
    | assumption | refine modWin_inv _ (by rfl) (by rfl) (by rfl) ?_
    | refine modWin_inv _ (by exact (unlockBulk_keeps _ _).1) (by exact (unlockBulk_keeps _ _).2.1) (by exact (unlockBulk_keeps _ _).2.2) ?_
    | refine bulkWrite_inv _ _ ?_ | refine releaseBulk_inv _ ?_ | refine claimBulk_inv _ _ ?_
    | refine bulkOpen_inv _ _ ?_ | refine inv_ite (fun _ => ?_) (fun _ => ?_) | split | dsimp only

theorem postNext_inv (ch : Nat) (s : State)  (hs : Inv s = true) : Inv (postNext ch s) = true := by
  unfold postNext
  with_reducible
    repeat' first
    | assumption | refine modCmd_inv _ _ _ ?_ | refine modPort_inv _ _ _ ?_ | refine modChannel_inv _ _ ?_
    | refine inv_ite (fun _ => ?_) (fun _ => ?_) | split | dsimp only

theorem auditCmd_inv (c : Cmd) (status : Nat) (s : State)  (hs : Inv s = true) : Inv (auditCmd c status s) = true := by
  unfold auditCmd
  with_reducible
    repeat' first
    | assumption | refine record_inv _ _ _ ?_ | refine inv_ite (fun _ => ?_) (fun _ => ?_) | split | dsimp only

theorem complete_inv (seq status : Nat) (rsp : List Byte) (s : State)  (hs : Inv s = true) : Inv (complete seq status rsp s) = true := by
  unfold complete
  with_reducible
    repeat' first
    | assumption | refine auditCmd_inv _ _ _ ?_ | refine modCmd_inv _ _ _ ?_ | refine postNext_inv _ _ ?_
    | refine modChannel_inv _ _ ?_ | refine modWin_inv _ (by rfl) (by rfl) (by rfl) ?_
    | refine modWin_inv _ (by exact (unlockBulk_keeps _ _).1) (by exact (unlockBulk_keeps _ _).2.1) (by exact (unlockBulk_keeps _ _).2.2) ?_
    | refine bulkWrite_inv _ _ ?_ | refine releaseBulk_inv _ ?_ | refine claimBulk_inv _ _ ?_
    | refine bulkOpen_inv _ _ ?_ | refine inv_ite (fun _ => ?_) (fun _ => ?_) | split | dsimp only

theorem completeAll_inv (seqs : List Nat) (status : Nat) (rsp : List Byte) (s : State)  (hs : Inv s = true) : Inv (completeAll seqs status rsp s) = true := by
  unfold completeAll
  with_reducible
    repeat' first
    | assumption | refine complete_inv _ _ _ _ ?_ | refine each_inv _ _ (fun _ _ _ => ?_) _ ?_
    | refine inv_ite (fun _ => ?_) (fun _ => ?_) | split | dsimp only

theorem runCmd_safe (seq status : Nat) (act : State → State) (s : State) (h : Inv (act s) = true) (hs : Inv s = true) : Safe (runCmd seq status act s) := by
  unfold runCmd
  split
  · exact h
  · exact complete_inv _ _ _ _ hs

theorem waitFor_inv (rank scope number seq : Nat) (act : Instr) (s : State)  (hs : Inv s = true) : Inv (waitFor rank scope number seq act s) = true := by
  exact Inv_of_get (fun φ hφ => waitFor_get (notMem_of hφ rfl) _ _ _ _ _ _) hs

end Sys2Proof.Machine
end

