-- ==== Sys2Proof/Laws/InvHealth.lean ====
section
/-!
SUPPORT. The invariant through the operations of Machine/Health.lean.
-/
namespace Sys2Proof.Machine

open Sys2Proof

set_option linter.all false
set_option Elab.async false

theorem writeSite_inv (site : Nat) (s : State)  (hs : Inv s = true) : Inv (writeSite site s) = true := by
  unfold writeSite
  with_reducible
    repeat' first
    | assumption | refine modSite_inv _ _ _ ?_ | refine mramBoth_inv _ _ _ ?_
    | refine inv_ite (fun _ => ?_) (fun _ => ?_) | split | dsimp only

theorem checkSpares_inv (sector : Nat) (s : State)  (hs : Inv s = true) : Inv (checkSpares sector s) = true := by
  unfold checkSpares
  with_reducible
    repeat' first
    | assumption | refine raiseAlert_inv _ _ ?_ | refine record_inv _ _ _ ?_ | refine setSparesLow_inv ?_ ?_
    | refine sparesLow_wf ?_ | refine Sparse.wf_set ?_ _ _ | refine Sparse.wf_upd ?_ _ _
    | refine Sparse.wf_mapAll ?_ _ | exact Sparse.wf_nil | exact Sparse.wf_tabulate _ _ (sectors_sorted _)
    | exact Sparse.wf_tabulate _ _ (sites_sorted _) | refine Sparse.wf_foldl _ _ (fun _ _ _ => ?_) _ ?_
    | refine wf_ite (fun _ => ?_) (fun _ => ?_) | refine inv_ite (fun _ => ?_) (fun _ => ?_) | split | dsimp only

theorem changeSite_inv (site kind aux : Nat) (f : SiteRec → SiteRec) (s : State)  (hs : Inv s = true) : Inv (changeSite site kind aux f s) = true := by
  unfold changeSite
  with_reducible
    repeat' first
    | assumption | refine checkSpares_inv _ _ ?_ | refine journalize_inv _ _ _ _ _ _ _ ?_
    | refine modSite_inv _ _ _ ?_ | refine noteReason_inv _ _ _ ?_ | refine recordFrom_inv _ _ _ _ ?_
    | refine send_inv _ _ ?_ | refine writeSite_inv _ _ ?_ | refine inv_ite (fun _ => ?_) (fun _ => ?_) | split
    | dsimp only

theorem putXlat_inv (bank tile new : Nat) (route : List (Nat × Nat)) (s : State)  (hs : Inv s = true) : Inv (putXlat bank tile new route s) = true := by
  unfold putXlat
  with_reducible
    repeat' first
    | assumption | refine setRoutes0_inv ?_ ?_ | refine setRoutes1_inv ?_ ?_ | refine setXlat0_inv ?_ ?_
    | refine setXlat1_inv ?_ ?_ | refine routes0_wf ?_ | refine routes1_wf ?_ | refine xlat0_wf ?_
    | refine xlat1_wf ?_ | refine Sparse.wf_set ?_ _ _ | refine Sparse.wf_upd ?_ _ _ | refine Sparse.wf_mapAll ?_ _
    | exact Sparse.wf_nil | exact Sparse.wf_tabulate _ _ (sectors_sorted _)
    | exact Sparse.wf_tabulate _ _ (sites_sorted _) | refine Sparse.wf_foldl _ _ (fun _ _ _ => ?_) _ ?_
    | refine wf_ite (fun _ => ?_) (fun _ => ?_) | refine inv_ite (fun _ => ?_) (fun _ => ?_) | split | dsimp only

theorem putBoth_inv (tile old new : Nat) (s : State)  (hs : Inv s = true) : Inv (putBoth tile old new s) = true := by
  unfold putBoth
  with_reducible
    repeat' first
    | assumption | refine putXlat_inv _ _ _ _ _ ?_ | refine inv_ite (fun _ => ?_) (fun _ => ?_) | split | dsimp only

theorem putIdle_inv (p tile old new : Nat) (s : State)  (hs : Inv s = true) : Inv (putIdle p tile old new s) = true := by
  unfold putIdle
  with_reducible
    repeat' first
    | assumption | refine putXlat_inv _ _ _ _ _ ?_ | refine inv_ite (fun _ => ?_) (fun _ => ?_) | split | dsimp only

theorem moveTile_inv (tile old new detour : Nat) (kind : Nat) (out : SiteRec → SiteRec) (s : State)  (hs : Inv s = true) : Inv (moveTile tile old new detour kind out s) = true := by
  unfold moveTile
  with_reducible
    repeat' first
    | assumption | refine changeSite_inv _ _ _ _ _ ?_ | refine holdSlot_inv _ _ ?_ | refine putBoth_inv _ _ _ _ ?_
    | refine recordFrom_inv _ _ _ _ ?_ | refine send_inv _ _ ?_ | refine inv_ite (fun _ => ?_) (fun _ => ?_) | split
    | dsimp only

theorem moveOut_inv (tile old new : Nat) (out : SiteRec → SiteRec) (s : State)  (hs : Inv s = true) : Inv (moveOut tile old new out s) = true := by
  unfold moveOut
  with_reducible
    repeat' first
    | assumption | refine journalize_inv _ _ _ _ _ _ _ ?_ | refine moveTile_inv _ _ _ _ _ _ _ ?_
    | refine inv_ite (fun _ => ?_) (fun _ => ?_) | split | dsimp only

theorem modSwap_inv (p tile : Nat) (f : Swap → Swap) (s : State)  (hs : Inv s = true) : Inv (modSwap p tile f s) = true := by
  unfold modSwap
  with_reducible
    repeat' first
    | assumption | refine modPart_inv _ _ _ ?_ | refine inv_ite (fun _ => ?_) (fun _ => ?_) | split | dsimp only

theorem keepKey_inv (site tile : Nat) (seed : Dword) (s : State)  (hs : Inv s = true) : Inv (keepKey site tile seed s) = true := by
  unfold keepKey
  with_reducible
    repeat' first
    | assumption | refine modHub_inv _ _ _ ?_ | refine modSen_inv _ _ _ ?_
    | refine inv_ite (fun _ => ?_) (fun _ => ?_) | split | dsimp only

theorem prepareSwap_inv (p tile old : Nat) (s : State)  (hs : Inv s = true) : Inv (prepareSwap p tile old s) = true := by
  unfold prepareSwap
  with_reducible
    repeat' first
    | assumption | refine changeSite_inv _ _ _ _ _ ?_ | refine journalize_inv _ _ _ _ _ _ _ ?_
    | refine keepKey_inv _ _ _ _ ?_ | refine modSwap_inv _ _ _ _ ?_ | refine putIdle_inv _ _ _ _ _ ?_
    | refine send_inv _ _ ?_ | refine inv_ite (fun _ => ?_) (fun _ => ?_) | split | dsimp only

theorem degrade_inv (p site step : Nat) (s : State)  (hs : Inv s = true) : Inv (degrade p site step s) = true := by
  unfold degrade
  with_reducible
    repeat' first
    | assumption | refine modPart_inv _ _ _ ?_ | refine record_inv _ _ _ ?_
    | refine inv_ite (fun _ => ?_) (fun _ => ?_) | split | dsimp only

theorem addSwap_inv (p tile site cause : Nat) (seqs : List Nat) (s : State)  (hs : Inv s = true) : Inv (addSwap p tile site cause seqs s) = true := by
  unfold addSwap
  with_reducible
    repeat' first
    | assumption | refine modPart_inv _ _ _ ?_ | refine inv_ite (fun _ => ?_) (fun _ => ?_) | split | dsimp only

theorem requestSwap_inv (site cause : Nat) (seqs : List Nat) (s : State)  (hs : Inv s = true) : Inv (requestSwap site cause seqs s) = true := by
  unfold requestSwap
  with_reducible
    repeat' first
    | assumption | refine addSwap_inv _ _ _ _ _ _ ?_ | refine degrade_inv _ _ _ _ ?_ | refine modSwap_inv _ _ _ _ ?_
    | refine moveOut_inv _ _ _ _ _ ?_ | refine prepareSwap_inv _ _ _ _ ?_ | refine inv_ite (fun _ => ?_) (fun _ => ?_)
    | split | dsimp only

theorem retrySuspects_inv (sector : Nat) (s : State)  (hs : Inv s = true) : Inv (retrySuspects sector s) = true := by
  unfold retrySuspects
  with_reducible
    repeat' first
    | assumption | refine requestSwap_inv _ _ _ _ ?_ | refine each_inv _ _ (fun _ _ _ => ?_) _ ?_
    | refine inv_ite (fun _ => ?_) (fun _ => ?_) | split | dsimp only

theorem spareFreed_inv (site : Nat) (s : State)  (hs : Inv s = true) : Inv (spareFreed site s) = true := by
  unfold spareFreed
  with_reducible
    repeat' first
    | assumption | refine modPart_inv _ _ _ ?_ | refine retrySuspects_inv _ _ ?_
    | refine inv_ite (fun _ => ?_) (fun _ => ?_) | split | dsimp only

theorem followHealth_inv (site : Nat) (r : SiteRec) (h : Health) (s : State)  (hs : Inv s = true) : Inv (followHealth site r h s) = true := by
  unfold followHealth
  with_reducible
    repeat' first
    | assumption | refine modSwap_inv _ _ _ _ ?_ | refine prepareSwap_inv _ _ _ _ ?_
    | refine requestSwap_inv _ _ _ _ ?_ | refine each_inv _ _ (fun _ _ _ => ?_) _ ?_
    | refine inv_ite (fun _ => ?_) (fun _ => ?_) | split | dsimp only

theorem noteRose_inv (site kind : Nat) (was : Health) (s : State)  (hs : Inv s = true) : Inv (noteRose site kind was s) = true := by
  unfold noteRose
  with_reducible
    repeat' first
    | assumption | refine modHub_inv _ _ _ ?_ | refine inv_ite (fun _ => ?_) (fun _ => ?_) | split | dsimp only

theorem charge_inv (site kind steps : Nat) (reproduced : Bool) (s : State)  (hs : Inv s = true) : Inv (charge site kind steps reproduced s) = true := by
  unfold charge
  with_reducible
    repeat' first
    | assumption | refine changeSite_inv _ _ _ _ _ ?_ | refine followHealth_inv _ _ _ _ ?_
    | refine modSite_inv _ _ _ ?_ | refine noteRose_inv _ _ _ _ ?_ | refine setUnflushed_inv _ _ ?_
    | refine inv_ite (fun _ => ?_) (fun _ => ?_) | split | dsimp only

theorem reproduce_inv (site kind : Nat) (s : State)  (hs : Inv s = true) : Inv (reproduce site kind s) = true := by
  unfold reproduce
  with_reducible
    repeat' first
    | assumption | refine changeSite_inv _ _ _ _ _ ?_ | refine followHealth_inv _ _ _ _ ?_
    | refine inv_ite (fun _ => ?_) (fun _ => ?_) | split | dsimp only

theorem logMemRepair_inv (source addr : Nat) (s : State)  (hs : Inv s = true) : Inv (logMemRepair source addr s) = true := by
  unfold logMemRepair
  with_reducible
    repeat' first
    | assumption | refine mramBoth_inv _ _ _ ?_ | refine setMemLog_inv _ _ ?_
    | refine inv_ite (fun _ => ?_) (fun _ => ?_) | split | dsimp only

theorem chargeLoss_inv (site : Nat) (s : State)  (hs : Inv s = true) : Inv (chargeLoss site s) = true := by
  unfold chargeLoss
  with_reducible
    repeat' first
    | assumption | refine charge_inv _ _ _ _ _ ?_ | refine inv_ite (fun _ => ?_) (fun _ => ?_) | split | dsimp only

theorem loseSentinel_inv (site : Nat) (s : State)  (hs : Inv s = true) : Inv (loseSentinel site s) = true := by
  unfold loseSentinel
  with_reducible
    repeat' first
    | assumption | refine chargeLoss_inv _ _ ?_ | refine modSen_inv _ _ _ ?_
    | refine inv_ite (fun _ => ?_) (fun _ => ?_) | split | dsimp only

end Sys2Proof.Machine
end

