-- ==== Sys2Proof/Laws/InvFront.lean ====
section
/-!
SUPPORT. The invariant through the operations of Machine/Front.lean.
-/
namespace Sys2Proof.Machine

open Sys2Proof

set_option linter.all false
set_option Elab.async false

theorem pushVerdict_inv (site slots : Nat) (item : Instr) (s : State)  (hs : Inv s = true) : Inv (pushVerdict site slots item s) = true := by
  unfold pushVerdict
  with_reducible
    repeat' first
    | assumption | refine modSen_inv _ _ _ ?_ | refine inv_ite (fun _ => ?_) (fun _ => ?_) | split | dsimp only

theorem pushAlarm_inv (site : Nat) (item : Instr) (s : State)  (hs : Inv s = true) : Inv (pushAlarm site item s) = true := by
  unfold pushAlarm
  with_reducible
    repeat' first
    | assumption | refine modSen_inv _ _ _ ?_ | refine inv_ite (fun _ => ?_) (fun _ => ?_) | split | dsimp only

theorem pushReport_inv (site : Nat) (item : Instr) (s : State)  (hs : Inv s = true) : Inv (pushReport site item s) = true := by
  unfold pushReport
  with_reducible
    repeat' first
    | assumption | refine modSen_inv _ _ _ ?_ | refine inv_ite (fun _ => ?_) (fun _ => ?_) | split | dsimp only

theorem raiseEv_inv (site code : Nat) (detail : List Byte) (s : State)  (hs : Inv s = true) : Inv (raiseEv site code detail s) = true := by
  unfold raiseEv
  with_reducible
    repeat' first
    | assumption | refine modSen_inv _ _ _ ?_ | refine inv_ite (fun _ => ?_) (fun _ => ?_) | split | dsimp only

theorem fenceIdle_inv (site : Nat) (s : State)  (hs : Inv s = true) : Inv (fenceIdle site s) = true := by
  exact Inv_of_get (fun φ hφ => fenceIdle_get (notMem_of hφ rfl) _ _) hs

theorem setAlarm_inv (site code : Nat) (raised : Bool) (edge : Edge) (s : State)  (hs : Inv s = true) : Inv (setAlarm site code raised edge s) = true := by
  unfold setAlarm
  with_reducible
    repeat' first
    | assumption | refine modSen_inv _ _ _ ?_ | refine send_inv _ _ ?_ | refine inv_ite (fun _ => ?_) (fun _ => ?_)
    | split | dsimp only

theorem raiseWake_inv (site : Nat) (s : State)  (hs : Inv s = true) : Inv (raiseWake site s) = true := by
  unfold raiseWake
  with_reducible
    repeat' first
    | assumption | refine modSen_inv _ _ _ ?_ | refine inv_ite (fun _ => ?_) (fun _ => ?_) | split | dsimp only

theorem waitFront_inv (site : Nat) (f : Sentinel → Sentinel) (s : State)  (hs : Inv s = true) : Inv (waitFront site f s) = true := by
  unfold waitFront
  with_reducible
    repeat' first
    | assumption | refine modSen_inv _ _ _ ?_ | refine raiseWake_inv _ _ ?_
    | refine inv_ite (fun _ => ?_) (fun _ => ?_) | split | dsimp only

theorem waitWake_inv (site : Nat) (m : Instr) (s : State)  (hs : Inv s = true) : Inv (waitWake site m s) = true := by
  unfold waitWake
  with_reducible
    repeat' first
    | assumption | refine waitFront_inv _ _ _ ?_ | refine inv_ite (fun _ => ?_) (fun _ => ?_) | split | dsimp only

theorem takeEv_inv (site code : Nat) (s : State)  (hs : Inv s = true) : Inv (takeEv site code s) = true := by
  unfold takeEv
  with_reducible
    repeat' first
    | assumption | refine modSen_inv _ _ _ ?_ | refine setAlarm_inv _ _ _ _ _ ?_
    | refine inv_ite (fun _ => ?_) (fun _ => ?_) | split | dsimp only

theorem resetSentinel_inv (site : Nat) (s : State)  (hs : Inv s = true) : Inv (resetSentinel site s) = true := by
  unfold resetSentinel
  with_reducible
    repeat' first
    | assumption | refine modSen_inv _ _ _ ?_ | refine senEvent_inv _ _ _ _ ?_ | refine setAlarm_inv _ _ _ _ _ ?_
    | refine each_inv _ _ (fun _ _ _ => ?_) _ ?_ | refine inv_ite (fun _ => ?_) (fun _ => ?_) | split | dsimp only

end Sys2Proof.Machine
end

