-- ==== Sys2Proof/Laws/InvPasses.lean ====
section
/-!
SUPPORT. The invariant through the operations of Machine/Passes.lean.
-/
namespace Sys2Proof.Machine

open Sys2Proof

set_option linter.all false
set_option Elab.async false

theorem screenResult_inv (site outcome : Nat) (c : Screen) (s : State)  (hs : Inv s = true) : Inv (screenResult site outcome c s) = true := by
  unfold screenResult
  with_reducible
    repeat' first
    | assumption | refine recordFrom_inv _ _ _ _ ?_ | refine inv_ite (fun _ => ?_) (fun _ => ?_) | split | dsimp only

theorem declineAxis_inv (site code prev : Nat) (epoch : Dword) (a : Nat) (x : State × Nat)  (hs : Inv x.1 = true) : Inv (declineAxis site code prev epoch a x).1 = true := by
  unfold declineAxis
  with_reducible
    repeat' first
    | assumption | refine modSite_inv _ _ _ ?_ | refine recordFrom_inv _ _ _ _ ?_
    | refine inv_ite (fun _ => ?_) (fun _ => ?_) | split | dsimp only

theorem passScreen_inv (site code : Nat) (full deep : Bool) (epoch : Dword) (s : State)  (hs : Inv s = true) : Inv (passScreen site code full deep epoch s) = true := by
  unfold passScreen
  with_reducible
    repeat' first
    | assumption | refine changeSite_inv _ _ _ _ _ ?_ | refine charge_inv _ _ _ _ _ ?_
    | refine declineAxis_inv _ _ _ _ _ _ ?_ | refine setMarginPrev_inv ?_ ?_ | refine marginPrev_wf ?_
    | refine Sparse.wf_set ?_ _ _ | refine Sparse.wf_upd ?_ _ _ | refine Sparse.wf_mapAll ?_ _ | exact Sparse.wf_nil
    | exact Sparse.wf_tabulate _ _ (sectors_sorted _) | exact Sparse.wf_tabulate _ _ (sites_sorted _)
    | refine Sparse.wf_foldl _ _ (fun _ _ _ => ?_) _ ?_ | refine wf_ite (fun _ => ?_) (fun _ => ?_)
    | refine foldl_inv _ _ (fun _ _ _ => ?_) _ ?_ | refine foldl_fst_inv _ _ (fun _ _ _ => ?_) _ ?_
    | refine foldl_snd_inv _ _ (fun _ _ _ => ?_) _ ?_ | refine inv_ite (fun _ => ?_) (fun _ => ?_) | split
    | dsimp only

theorem passDeep_inv (site code : Nat) (epoch : Dword) (s : State)  (hs : Inv s = true) : Inv (passDeep site code epoch s) = true := by
  unfold passDeep
  with_reducible
    repeat' first
    | assumption | refine changeSite_inv _ _ _ _ _ ?_ | refine passScreen_inv _ _ _ _ _ _ ?_
    | refine setDeepPassed_inv _ _ ?_ | refine spareFreed_inv _ _ ?_ | refine inv_ite (fun _ => ?_) (fun _ => ?_)
    | split | dsimp only

theorem failDeep_inv (site : Nat) (s : State)  (hs : Inv s = true) : Inv (failDeep site s) = true := by
  unfold failDeep
  with_reducible
    repeat' first
    | assumption | refine changeSite_inv _ _ _ _ _ ?_ | refine charge_inv _ _ _ _ _ ?_ | refine modSite_inv _ _ _ ?_
    | refine setDeepPassed_inv _ _ ?_ | refine inv_ite (fun _ => ?_) (fun _ => ?_) | split | dsimp only

theorem finishScreen_inv (site outcome : Nat) (s : State)  (hs : Inv s = true) : Inv (finishScreen site outcome s) = true := by
  unfold finishScreen
  with_reducible
    repeat' first
    | assumption | refine charge_inv _ _ _ _ _ ?_ | refine failDeep_inv _ _ ?_ | refine passDeep_inv _ _ _ _ ?_
    | refine passScreen_inv _ _ _ _ _ _ ?_ | refine screenResult_inv _ _ _ _ ?_ | refine setScreens_inv ?_ ?_
    | refine screens_wf ?_ | refine Sparse.wf_set ?_ _ _ | refine Sparse.wf_upd ?_ _ _ | refine Sparse.wf_mapAll ?_ _
    | exact Sparse.wf_nil | exact Sparse.wf_tabulate _ _ (sectors_sorted _)
    | exact Sparse.wf_tabulate _ _ (sites_sorted _) | refine Sparse.wf_foldl _ _ (fun _ _ _ => ?_) _ ?_
    | refine wf_ite (fun _ => ?_) (fun _ => ?_) | refine inv_ite (fun _ => ?_) (fun _ => ?_) | split | dsimp only

theorem endRun_inv (site : Nat) (s : State)  (hs : Inv s = true) : Inv (endRun site s) = true := by
  unfold endRun
  with_reducible
    repeat' first
    | assumption | refine holdSlot_inv _ _ ?_ | refine modSen_inv _ _ _ ?_
    | refine inv_ite (fun _ => ?_) (fun _ => ?_) | split | dsimp only

theorem restoreStress_inv (h : Nat) (s : State)  (hs : Inv s = true) : Inv (restoreStress h s) = true := by
  unfold restoreStress
  with_reducible
    repeat' first
    | assumption | refine modHub_inv _ _ _ ?_ | refine inv_ite (fun _ => ?_) (fun _ => ?_) | split | dsimp only

theorem endHeat_inv (h : Nat) (s : State)  (hs : Inv s = true) : Inv (endHeat h s) = true := by
  unfold endHeat
  with_reducible
    repeat' first
    | assumption | refine holdSlot_inv _ _ ?_ | refine modSen_inv _ _ _ ?_
    | refine each_inv _ _ (fun _ _ _ => ?_) _ ?_ | refine inv_ite (fun _ => ?_) (fun _ => ?_) | split | dsimp only

theorem discardRun_inv (h reason : Nat) (s : State)  (hs : Inv s = true) : Inv (discardRun h reason s) = true := by
  unfold discardRun
  with_reducible
    repeat' first
    | assumption | refine endHeat_inv _ _ ?_ | refine endRun_inv _ _ ?_ | refine modHub_inv _ _ _ ?_
    | refine recordFrom_inv _ _ _ _ ?_ | refine restoreStress_inv _ _ ?_ | refine each_inv _ _ (fun _ _ _ => ?_) _ ?_
    | refine inv_ite (fun _ => ?_) (fun _ => ?_) | split | dsimp only

theorem sendContent_inv (sector : Nat) (blocks : List Block) (s : State)  (hs : Inv s = true) : Inv (sendContent sector blocks s) = true := by
  exact Inv_of_get (fun φ hφ => sendContent_get (notMem_of hφ rfl) _ _ _) hs

theorem sendRecipe_inv (h : Nat) (s : State)  (hs : Inv s = true) : Inv (sendRecipe h s) = true := by
  unfold sendRecipe
  with_reducible
    repeat' first
    | assumption | refine modHub_inv _ _ _ ?_ | refine sendAll_inv _ _ ?_ | refine sendContent_inv _ _ _ ?_
    | refine inv_ite (fun _ => ?_) (fun _ => ?_) | split | dsimp only

theorem beginRun_inv (h : Nat) (s : State)  (hs : Inv s = true) : Inv (beginRun h s) = true := by
  unfold beginRun
  with_reducible
    repeat' first
    | assumption | refine countHub_inv _ _ _ _ ?_ | refine modHub_inv _ _ _ ?_ | refine sendRecipe_inv _ _ ?_
    | refine setScreens_inv ?_ ?_ | refine screens_wf ?_ | refine Sparse.wf_set ?_ _ _ | refine Sparse.wf_upd ?_ _ _
    | refine Sparse.wf_mapAll ?_ _ | exact Sparse.wf_nil | exact Sparse.wf_tabulate _ _ (sectors_sorted _)
    | exact Sparse.wf_tabulate _ _ (sites_sorted _) | refine Sparse.wf_foldl _ _ (fun _ _ _ => ?_) _ ?_
    | refine wf_ite (fun _ => ?_) (fun _ => ?_) | refine each_inv _ _ (fun _ _ _ => ?_) _ ?_
    | refine inv_ite (fun _ => ?_) (fun _ => ?_) | split | dsimp only

theorem restUnits_inv (h : Nat) (s : State)  (hs : Inv s = true) : Inv (restUnits h s) = true := by
  unfold restUnits
  with_reducible
    repeat' first
    | assumption | refine modHub_inv _ _ _ ?_ | refine inv_ite (fun _ => ?_) (fun _ => ?_) | split | dsimp only

theorem wakeUnits_inv (h : Nat) (s : State)  (hs : Inv s = true) : Inv (wakeUnits h s) = true := by
  unfold wakeUnits
  with_reducible
    repeat' first
    | assumption | refine modHub_inv _ _ _ ?_ | refine inv_ite (fun _ => ?_) (fun _ => ?_) | split | dsimp only

theorem setUpRun_inv (h point phase : Nat) (epoch : Dword) (testing : List Nat) (x : Pass) (s : State)  (hs : Inv s = true) : Inv (setUpRun h point phase epoch testing x s) = true := by
  unfold setUpRun
  with_reducible
    repeat' first
    | assumption | refine beginRun_inv _ _ ?_ | refine modHub_inv _ _ _ ?_ | refine modSen_inv _ _ _ ?_
    | refine each_inv _ _ (fun _ _ _ => ?_) _ ?_ | refine inv_ite (fun _ => ?_) (fun _ => ?_) | split | dsimp only

theorem startReplay_inv (h : Nat) (r : ReplayRec) (x : Pass) (s : State)  (hs : Inv s = true) : Inv (startReplay h r x s) = true := by
  unfold startReplay
  with_reducible
    repeat' first
    | assumption | refine countHub_inv _ _ _ _ ?_ | refine modHub_inv _ _ _ ?_ | refine modSen_inv _ _ _ ?_
    | refine send_inv _ _ ?_ | refine sendContent_inv _ _ _ ?_ | refine inv_ite (fun _ => ?_) (fun _ => ?_) | split
    | dsimp only

theorem skipPoints_inv (site : Nat) (s : State)  (hs : Inv s = true) : Inv (skipPoints site s) = true := by
  unfold skipPoints
  with_reducible
    repeat' first
    | assumption | refine finishScreen_inv _ _ _ ?_ | refine setScreens_inv ?_ ?_ | refine screens_wf ?_
    | refine Sparse.wf_set ?_ _ _ | refine Sparse.wf_upd ?_ _ _ | refine Sparse.wf_mapAll ?_ _ | exact Sparse.wf_nil
    | exact Sparse.wf_tabulate _ _ (sectors_sorted _) | exact Sparse.wf_tabulate _ _ (sites_sorted _)
    | refine Sparse.wf_foldl _ _ (fun _ _ _ => ?_) _ ?_ | refine wf_ite (fun _ => ?_) (fun _ => ?_)
    | refine inv_ite (fun _ => ?_) (fun _ => ?_) | split | dsimp only

theorem nextRun_inv (h : Nat) (s : State)  (hs : Inv s = true) : Inv (nextRun h s) = true := by
  unfold nextRun
  with_reducible
    repeat' first
    | assumption | refine modHub_inv _ _ _ ?_ | refine restUnits_inv _ _ ?_ | refine restoreStress_inv _ _ ?_
    | refine setUpRun_inv _ _ _ _ _ _ _ ?_ | refine skipPoints_inv _ _ ?_ | refine startReplay_inv _ _ _ _ ?_
    | refine each_inv _ _ (fun _ _ _ => ?_) _ ?_ | refine foldl_inv _ _ (fun _ _ _ => ?_) _ ?_
    | refine foldl_fst_inv _ _ (fun _ _ _ => ?_) _ ?_ | refine foldl_snd_inv _ _ (fun _ _ _ => ?_) _ ?_
    | refine inv_ite (fun _ => ?_) (fun _ => ?_) | split | dsimp only

theorem joinPass_inv (h : Nat) (sites : List Nat) (s : State)  (hs : Inv s = true) : Inv (joinPass h sites s) = true := by
  unfold joinPass
  with_reducible
    repeat' first
    | assumption | refine modHub_inv _ _ _ ?_ | refine nextRun_inv _ _ ?_ | refine inv_ite (fun _ => ?_) (fun _ => ?_)
    | split | dsimp only

theorem resumePasses_inv (s : State)  (hs : Inv s = true) : Inv (resumePasses s) = true := by
  unfold resumePasses
  with_reducible
    repeat' first
    | assumption | refine nextRun_inv _ _ ?_ | refine each_inv _ _ (fun _ _ _ => ?_) _ ?_
    | refine inv_ite (fun _ => ?_) (fun _ => ?_) | split | dsimp only

theorem discardRuns_inv (reason : Nat) (s : State)  (hs : Inv s = true) : Inv (discardRuns reason s) = true := by
  unfold discardRuns
  with_reducible
    repeat' first
    | assumption | refine discardRun_inv _ _ _ ?_ | refine each_inv _ _ (fun _ _ _ => ?_) _ ?_
    | refine inv_ite (fun _ => ?_) (fun _ => ?_) | split | dsimp only

theorem leavePass_inv (site : Nat) (s : State)  (hs : Inv s = true) : Inv (leavePass site s) = true := by
  unfold leavePass
  with_reducible
    repeat' first
    | assumption | refine endRun_inv _ _ ?_ | refine modHub_inv _ _ _ ?_ | refine inv_ite (fun _ => ?_) (fun _ => ?_)
    | split | dsimp only

theorem newScreen_inv (site : Nat) (c : Screen) (s : State)  (hs : Inv s = true) : Inv (newScreen site c s) = true := by
  unfold newScreen
  with_reducible
    repeat' first
    | assumption | refine setScreens_inv ?_ ?_ | refine screens_wf ?_ | refine Sparse.wf_set ?_ _ _
    | refine Sparse.wf_upd ?_ _ _ | refine Sparse.wf_mapAll ?_ _ | exact Sparse.wf_nil
    | exact Sparse.wf_tabulate _ _ (sectors_sorted _) | exact Sparse.wf_tabulate _ _ (sites_sorted _)
    | refine Sparse.wf_foldl _ _ (fun _ _ _ => ?_) _ ?_ | refine wf_ite (fun _ => ?_) (fun _ => ?_)
    | refine inv_ite (fun _ => ?_) (fun _ => ?_) | split | dsimp only

theorem cancelScreen_inv (site : Nat) (s : State)  (hs : Inv s = true) : Inv (cancelScreen site s) = true := by
  unfold cancelScreen
  with_reducible
    repeat' first
    | assumption | refine leavePass_inv _ _ ?_ | refine setScreenReqs_inv _ _ ?_ | refine setScreens_inv ?_ ?_
    | refine screens_wf ?_ | refine Sparse.wf_set ?_ _ _ | refine Sparse.wf_upd ?_ _ _ | refine Sparse.wf_mapAll ?_ _
    | exact Sparse.wf_nil | exact Sparse.wf_tabulate _ _ (sectors_sorted _)
    | exact Sparse.wf_tabulate _ _ (sites_sorted _) | refine Sparse.wf_foldl _ _ (fun _ _ _ => ?_) _ ?_
    | refine wf_ite (fun _ => ?_) (fun _ => ?_) | refine inv_ite (fun _ => ?_) (fun _ => ?_) | split | dsimp only

theorem forceDeep_inv (site : Nat) (s : State)  (hs : Inv s = true) : Inv (forceDeep site s) = true := by
  unfold forceDeep
  with_reducible
    repeat' first
    | assumption | refine joinPass_inv _ _ _ ?_ | refine newScreen_inv _ _ _ ?_ | refine send_inv _ _ ?_
    | refine setScreenReqs_inv _ _ ?_ | refine inv_ite (fun _ => ?_) (fun _ => ?_) | split | dsimp only

theorem startDeep_inv (site : Nat) (s : State)  (hs : Inv s = true) : Inv (startDeep site s) = true := by
  unfold startDeep
  with_reducible
    repeat' first
    | assumption | refine forceDeep_inv _ _ ?_ | refine inv_ite (fun _ => ?_) (fun _ => ?_) | split | dsimp only

theorem replayResult_inv (r : ReplayRec) (outcome : Nat) (s : State)  (hs : Inv s = true) : Inv (replayResult r outcome s) = true := by
  unfold replayResult
  with_reducible
    repeat' first
    | assumption | refine recordFrom_inv _ _ _ _ ?_ | refine inv_ite (fun _ => ?_) (fun _ => ?_) | split | dsimp only

theorem chargeReplay_inv (r : ReplayRec) (compute checker : Bool) (s : State)  (hs : Inv s = true) : Inv (chargeReplay r compute checker s) = true := by
  unfold chargeReplay
  with_reducible
    repeat' first
    | assumption | refine charge_inv _ _ _ _ _ ?_ | refine newScreen_inv _ _ _ ?_ | refine reproduce_inv _ _ _ ?_
    | refine startDeep_inv _ _ ?_ | refine inv_ite (fun _ => ?_) (fun _ => ?_) | split | dsimp only

theorem endReplays_inv (site : Nat) (s : State)  (hs : Inv s = true) : Inv (endReplays site s) = true := by
  unfold endReplays
  with_reducible
    repeat' first
    | assumption | refine modHub_inv _ _ _ ?_ | refine replayResult_inv _ _ _ ?_
    | refine each_inv _ _ (fun _ _ _ => ?_) _ ?_ | refine inv_ite (fun _ => ?_) (fun _ => ?_) | split | dsimp only

theorem finishReplay_inv (h : Nat) (r : ReplayRec) (s : State)  (hs : Inv s = true) : Inv (finishReplay h r s) = true := by
  unfold finishReplay
  with_reducible
    repeat' first
    | assumption | refine chargeReplay_inv _ _ _ _ ?_ | refine modHub_inv _ _ _ ?_ | refine replayResult_inv _ _ _ ?_
    | refine inv_ite (fun _ => ?_) (fun _ => ?_) | split | dsimp only

end Sys2Proof.Machine
end

