-- ==== Sys2Proof/Laws/InvActions.lean ====
section
/-!
SUPPORT. The invariant through the operations of Machine/Actions.lean.
-/
namespace Sys2Proof.Machine

open Sys2Proof

set_option linter.all false
set_option Elab.async false

theorem openStep_inv (p : Nat) (restart : Bool) (s : State)  (hs : Inv s = true) : Inv (openStep p restart s) = true := by
  unfold openStep
  with_reducible
    repeat' first
    | assumption | refine complete_inv _ _ _ _ ?_ | refine modPart_inv _ _ _ ?_ | refine noteReason_inv _ _ _ ?_
    | refine sendAll_inv _ _ ?_ | refine each_inv _ _ (fun _ _ _ => ?_) _ ?_
    | refine inv_ite (fun _ => ?_) (fun _ => ?_) | split | dsimp only

theorem checkPair_inv (p owner holder was : Nat) (s : State)  (hs : Inv s = true) : Inv (checkPair p owner holder was s) = true := by
  unfold checkPair
  with_reducible
    repeat' first
    | assumption | refine record_inv _ _ _ ?_ | refine inv_ite (fun _ => ?_) (fun _ => ?_) | split | dsimp only

theorem restoreBank_inv (p tile : Nat) (s : State)  (hs : Inv s = true) : Inv (restoreBank p tile s) = true := by
  unfold restoreBank
  with_reducible
    repeat' first
    | assumption | refine setRoutes0_inv ?_ ?_ | refine setRoutes1_inv ?_ ?_ | refine setXlat0_inv ?_ ?_
    | refine setXlat1_inv ?_ ?_ | refine routes0_wf ?_ | refine routes1_wf ?_ | refine xlat0_wf ?_
    | refine xlat1_wf ?_ | refine Sparse.wf_set ?_ _ _ | refine Sparse.wf_upd ?_ _ _ | refine Sparse.wf_mapAll ?_ _
    | exact Sparse.wf_nil | exact Sparse.wf_tabulate _ _ (sectors_sorted _)
    | exact Sparse.wf_tabulate _ _ (sites_sorted _) | refine Sparse.wf_foldl _ _ (fun _ _ _ => ?_) _ ?_
    | refine wf_ite (fun _ => ?_) (fun _ => ?_) | refine inv_ite (fun _ => ?_) (fun _ => ?_) | split | dsimp only

theorem keepPrepared_inv (p : Nat) (w : Swap) (s : State)  (hs : Inv s = true) : Inv (keepPrepared p w s) = true := by
  unfold keepPrepared
  with_reducible
    repeat' first
    | assumption | refine putIdle_inv _ _ _ _ _ ?_ | refine inv_ite (fun _ => ?_) (fun _ => ?_) | split | dsimp only

theorem fillRegions_inv (p : Nat) (w : Swap) (new st : Nat) (s : State)  (hs : Inv s = true) : Inv (fillRegions p w new st s) = true := by
  unfold fillRegions
  with_reducible
    repeat' first
    | assumption | refine modSen_inv _ _ _ ?_ | refine inv_ite (fun _ => ?_) (fun _ => ?_) | split | dsimp only

theorem finishSwap_inv (p st hold : Nat) (w : Swap) (s : State)  (hs : Inv s = true) : Inv (finishSwap p st hold w s) = true := by
  unfold finishSwap
  with_reducible
    repeat' first
    | assumption | refine changeSite_inv _ _ _ _ _ ?_ | refine completeAll_inv _ _ _ _ ?_
    | refine countGlobal_inv _ _ _ _ ?_ | refine fillRegions_inv _ _ _ _ _ ?_ | refine holdSlot_inv _ _ ?_
    | refine modSen_inv _ _ _ ?_ | refine record_inv _ _ _ ?_ | refine recordFrom_inv _ _ _ _ ?_
    | refine send_inv _ _ ?_ | refine inv_ite (fun _ => ?_) (fun _ => ?_) | split | dsimp only

theorem openNext_inv (p : Nat) (s : State)  (hs : Inv s = true) : Inv (openNext p s) = true := by
  unfold openNext
  with_reducible
    repeat' first
    | assumption | refine checkPair_inv _ _ _ _ _ ?_ | refine finishSwap_inv _ _ _ _ _ ?_
    | refine keepPrepared_inv _ _ _ ?_ | refine modPart_inv _ _ _ ?_ | refine openStep_inv _ _ _ ?_
    | refine restoreBank_inv _ _ _ ?_ | refine each_inv _ _ (fun _ _ _ => ?_) _ ?_
    | refine inv_ite (fun _ => ?_) (fun _ => ?_) | split | dsimp only

theorem resumeJob_inv (p contexts : Nat) (s : State)  (hs : Inv s = true) : Inv (resumeJob p contexts s) = true := by
  unfold resumeJob
  with_reducible
    repeat' first
    | assumption | refine modPart_inv _ _ _ ?_ | refine openStep_inv _ _ _ ?_
    | refine inv_ite (fun _ => ?_) (fun _ => ?_) | split | dsimp only

theorem pruneCopies_inv (p : Nat) (s : State)  (hs : Inv s = true) : Inv (pruneCopies p s) = true := by
  unfold pruneCopies
  with_reducible
    repeat' first
    | assumption | refine modPart_inv _ _ _ ?_ | refine inv_ite (fun _ => ?_) (fun _ => ?_) | split | dsimp only

theorem tryCommit_inv (p : Nat) (s : State)  (hs : Inv s = true) : Inv (tryCommit p s) = true := by
  unfold tryCommit
  with_reducible
    repeat' first
    | assumption | refine modPart_inv _ _ _ ?_ | refine pruneCopies_inv _ _ ?_
    | refine inv_ite (fun _ => ?_) (fun _ => ?_) | split | dsimp only

theorem finishRelease_inv (s : State)  (hs : Inv s = true) : Inv (finishRelease s) = true := by
  unfold finishRelease
  with_reducible
    repeat' first
    | assumption | refine completeAll_inv _ _ _ _ ?_ | refine openNext_inv _ _ ?_ | refine record_inv _ _ _ ?_
    | refine resumePasses_inv _ ?_ | refine setSlot_inv _ _ ?_ | refine setStop_inv _ _ ?_
    | refine tryCommit_inv _ _ ?_ | refine each_inv _ _ (fun _ _ _ => ?_) _ ?_
    | refine inv_ite (fun _ => ?_) (fun _ => ?_) | split | dsimp only

theorem releaseStop_inv (cause : Nat) (seqs : List Nat) (s : State)  (hs : Inv s = true) : Inv (releaseStop cause seqs s) = true := by
  unfold releaseStop
  with_reducible
    repeat' first
    | assumption | refine completeAll_inv _ _ _ _ ?_ | refine finishRelease_inv _ ?_ | refine modSen_inv _ _ _ ?_
    | refine modStop_inv _ _ ?_ | refine sendAll_inv _ _ ?_ | refine each_inv _ _ (fun _ _ _ => ?_) _ ?_
    | refine foldl_inv _ _ (fun _ _ _ => ?_) _ ?_ | refine foldl_fst_inv _ _ (fun _ _ _ => ?_) _ ?_
    | refine foldl_snd_inv _ _ (fun _ _ _ => ?_) _ ?_ | refine inv_ite (fun _ => ?_) (fun _ => ?_) | split
    | dsimp only

theorem endPasses_inv (p reason : Nat) (s : State)  (hs : Inv s = true) : Inv (endPasses p reason s) = true := by
  unfold endPasses
  with_reducible
    repeat' first
    | assumption | refine discardRun_inv _ _ _ ?_ | refine modHub_inv _ _ _ ?_
    | refine each_inv _ _ (fun _ _ _ => ?_) _ ?_ | refine inv_ite (fun _ => ?_) (fun _ => ?_) | split | dsimp only

theorem cancelScreens_inv (p : Nat) (s : State)  (hs : Inv s = true) : Inv (cancelScreens p s) = true := by
  unfold cancelScreens
  with_reducible
    repeat' first
    | assumption | refine cancelScreen_inv _ _ ?_ | refine endPasses_inv _ _ _ ?_ | refine setScreenReqs_inv _ _ ?_
    | refine each_inv _ _ (fun _ _ _ => ?_) _ ?_ | refine inv_ite (fun _ => ?_) (fun _ => ?_) | split | dsimp only

theorem abandonSwap_inv (p : Nat) (w : Swap) (s : State)  (hs : Inv s = true) : Inv (abandonSwap p w s) = true := by
  unfold abandonSwap
  with_reducible
    repeat' first
    | assumption | refine changeSite_inv _ _ _ _ _ ?_ | refine completeAll_inv _ _ _ _ ?_
    | refine restoreBank_inv _ _ _ ?_ | refine inv_ite (fun _ => ?_) (fun _ => ?_) | split | dsimp only

theorem abandonSwaps_inv (p : Nat) (s : State)  (hs : Inv s = true) : Inv (abandonSwaps p s) = true := by
  unfold abandonSwaps
  with_reducible
    repeat' first
    | assumption | refine abandonSwap_inv _ _ _ ?_ | refine modPart_inv _ _ _ ?_
    | refine each_inv _ _ (fun _ _ _ => ?_) _ ?_ | refine inv_ite (fun _ => ?_) (fun _ => ?_) | split | dsimp only

theorem putStepRec_inv (p : Nat) (r : StepRec) (s : State)  (hs : Inv s = true) : Inv (putStepRec p r s) = true := by
  unfold putStepRec
  with_reducible
    repeat' first
    | assumption | refine countGlobal_inv _ _ _ _ ?_ | refine journalize_inv _ _ _ _ _ _ _ ?_
    | refine modPart_inv _ _ _ ?_ | refine raiseAlert_inv _ _ ?_ | refine record_inv _ _ _ ?_
    | refine inv_ite (fun _ => ?_) (fun _ => ?_) | split | dsimp only

theorem abortSteps_inv (p : Nat) (replay : Bool) (s : State)  (hs : Inv s = true) : Inv (abortSteps p replay s) = true := by
  unfold abortSteps
  with_reducible
    repeat' first
    | assumption | refine modHub_inv _ _ _ ?_ | refine modPart_inv _ _ _ ?_ | refine putStepRec_inv _ _ _ ?_
    | refine each_inv _ _ (fun _ _ _ => ?_) _ ?_ | refine inv_ite (fun _ => ?_) (fun _ => ?_) | split | dsimp only

theorem finishSnapshot_inv (p : Nat) (s : State)  (hs : Inv s = true) : Inv (finishSnapshot p s) = true := by
  unfold finishSnapshot
  with_reducible
    repeat' first
    | assumption | refine complete_inv _ _ _ _ ?_ | refine modPart_inv _ _ _ ?_ | refine record_inv _ _ _ ?_
    | refine each_inv _ _ (fun _ _ _ => ?_) _ ?_ | refine inv_ite (fun _ => ?_) (fun _ => ?_) | split | dsimp only

theorem cutSnapshot_inv (p : Nat) (s : State)  (hs : Inv s = true) : Inv (cutSnapshot p s) = true := by
  unfold cutSnapshot
  with_reducible
    repeat' first
    | assumption | refine finishSnapshot_inv _ _ ?_ | refine modPart_inv _ _ _ ?_
    | refine foldl_inv _ _ (fun _ _ _ => ?_) _ ?_ | refine foldl_fst_inv _ _ (fun _ _ _ => ?_) _ ?_
    | refine foldl_snd_inv _ _ (fun _ _ _ => ?_) _ ?_ | refine inv_ite (fun _ => ?_) (fun _ => ?_) | split
    | dsimp only

theorem takeSnapshot_inv (p cause seq : Nat) (path : List Edge) (s : State)  (hs : Inv s = true) : Inv (takeSnapshot p cause seq path s) = true := by
  unfold takeSnapshot
  with_reducible
    repeat' first
    | assumption | refine finishSnapshot_inv _ _ ?_ | refine modPart_inv _ _ _ ?_ | refine sendAll_inv _ _ ?_
    | refine waitWake_inv _ _ _ ?_ | refine each_inv _ _ (fun _ _ _ => ?_) _ ?_
    | refine inv_ite (fun _ => ?_) (fun _ => ?_) | split | dsimp only

theorem goDown_inv (p reason : Nat) (s : State)  (hs : Inv s = true) : Inv (goDown p reason s) = true := by
  unfold goDown
  with_reducible
    repeat' first
    | assumption | refine modPart_inv _ _ _ ?_ | refine raiseAlert_inv _ _ ?_ | refine record_inv _ _ _ ?_
    | refine inv_ite (fun _ => ?_) (fun _ => ?_) | split | dsimp only

theorem recordPoison_inv (p : Nat) (s : State)  (hs : Inv s = true) : Inv (recordPoison p s) = true := by
  unfold recordPoison
  with_reducible
    repeat' first
    | assumption | refine modPart_inv _ _ _ ?_ | refine raiseAlert_inv _ _ ?_ | refine recordFrom_inv _ _ _ _ ?_
    | refine inv_ite (fun _ => ?_) (fun _ => ?_) | split | dsimp only

theorem failFence_inv (p result : Nat) (failed : List Nat) (s : State)  (hs : Inv s = true) : Inv (failFence p result failed s) = true := by
  unfold failFence
  with_reducible
    repeat' first
    | assumption | refine chargeLoss_inv _ _ ?_ | refine completeAll_inv _ _ _ _ ?_ | refine goDown_inv _ _ _ ?_
    | refine modPart_inv _ _ _ ?_ | refine record_inv _ _ _ ?_ | refine recordPoison_inv _ _ ?_
    | refine each_inv _ _ (fun _ _ _ => ?_) _ ?_ | refine inv_ite (fun _ => ?_) (fun _ => ?_) | split | dsimp only

theorem yieldToFence_inv (p : Nat) (s : State)  (hs : Inv s = true) : Inv (yieldToFence p s) = true := by
  unfold yieldToFence
  with_reducible
    repeat' first
    | assumption | refine abandonSwaps_inv _ _ ?_ | refine cancelScreens_inv _ _ ?_ | refine cutSnapshot_inv _ _ ?_
    | refine releaseStop_inv _ _ _ ?_ | refine inv_ite (fun _ => ?_) (fun _ => ?_) | split | dsimp only

theorem startReset_inv (p cause began : Nat) (seqs : List Nat) (s : State)  (hs : Inv s = true) : Inv (startReset p cause began seqs s) = true := by
  unfold startReset
  with_reducible
    repeat' first
    | assumption | refine holdSlot_inv _ _ ?_ | refine journalize_inv _ _ _ _ _ _ _ ?_ | refine modPart_inv _ _ _ ?_
    | refine modSen_inv _ _ _ ?_ | refine sendAll_inv _ _ ?_ | refine yieldToFence_inv _ _ ?_
    | refine each_inv _ _ (fun _ _ _ => ?_) _ ?_ | refine inv_ite (fun _ => ?_) (fun _ => ?_) | split | dsimp only

theorem resetPartition_inv (p cause began : Nat) (seqs : List Nat) (s : State)  (hs : Inv s = true) : Inv (resetPartition p cause began seqs s) = true := by
  unfold resetPartition
  with_reducible
    repeat' first
    | assumption | refine completeAll_inv _ _ _ _ ?_ | refine startReset_inv _ _ _ _ _ ?_
    | refine inv_ite (fun _ => ?_) (fun _ => ?_) | split | dsimp only

theorem checkFence_inv (p : Nat) (s : State)  (hs : Inv s = true) : Inv (checkFence p s) = true := by
  unfold checkFence
  with_reducible
    repeat' first
    | assumption | refine completeAll_inv _ _ _ _ ?_ | refine failFence_inv _ _ _ _ ?_ | refine modPart_inv _ _ _ ?_
    | refine record_inv _ _ _ ?_ | refine resetPartition_inv _ _ _ _ _ ?_ | refine inv_ite (fun _ => ?_) (fun _ => ?_)
    | split | dsimp only

theorem issueFence_inv (p : Nat) (s : State)  (hs : Inv s = true) : Inv (issueFence p s) = true := by
  unfold issueFence
  with_reducible
    repeat' first
    | assumption | refine checkFence_inv _ _ ?_ | refine modPart_inv _ _ _ ?_ | refine sendAll_inv _ _ ?_
    | refine inv_ite (fun _ => ?_) (fun _ => ?_) | split | dsimp only

theorem startFence_inv (p cause : Nat) (seqs : List Nat) (rst : Option Nat) (s : State)  (hs : Inv s = true) : Inv (startFence p cause seqs rst s) = true := by
  unfold startFence
  with_reducible
    repeat' first
    | assumption | refine abortSteps_inv _ _ _ ?_ | refine completeAll_inv _ _ _ _ ?_ | refine issueFence_inv _ _ ?_
    | refine modPart_inv _ _ _ ?_ | refine resetPartition_inv _ _ _ _ _ ?_ | refine yieldToFence_inv _ _ ?_
    | refine inv_ite (fun _ => ?_) (fun _ => ?_) | split | dsimp only

theorem finishTeardown_inv (p : Nat) (s : State)  (hs : Inv s = true) : Inv (finishTeardown p s) = true := by
  unfold finishTeardown
  with_reducible
    repeat' first
    | assumption | refine completeAll_inv _ _ _ _ ?_ | refine modPart_inv _ _ _ ?_
    | refine inv_ite (fun _ => ?_) (fun _ => ?_) | split | dsimp only

theorem endTeardown_inv (p context reads writes : Nat) (dirty : Bool) (s : State)  (hs : Inv s = true) : Inv (endTeardown p context reads writes dirty s) = true := by
  unfold endTeardown
  with_reducible
    repeat' first
    | assumption | refine checkFence_inv _ _ ?_ | refine finishTeardown_inv _ _ ?_ | refine modPart_inv _ _ _ ?_
    | refine record_inv _ _ _ ?_ | refine inv_ite (fun _ => ?_) (fun _ => ?_) | split | dsimp only

theorem discardLoad_inv (p status : Nat) (s : State)  (hs : Inv s = true) : Inv (discardLoad p status s) = true := by
  unfold discardLoad
  with_reducible
    repeat' first
    | assumption | refine complete_inv _ _ _ _ ?_ | refine modHub_inv _ _ _ ?_ | refine modPart_inv _ _ _ ?_
    | refine each_inv _ _ (fun _ _ _ => ?_) _ ?_ | refine inv_ite (fun _ => ?_) (fun _ => ?_) | split | dsimp only

theorem installSet_inv (set : List Byte) (p h : Nat) (s : State)  (hs : Inv s = true) : Inv (installSet set p h s) = true := by
  unfold installSet
  with_reducible
    repeat' first
    | assumption | refine modHub_inv _ _ _ ?_ | refine modSen_inv _ _ _ ?_
    | refine each_inv _ _ (fun _ _ _ => ?_) _ ?_ | refine inv_ite (fun _ => ?_) (fun _ => ?_) | split | dsimp only

theorem dropReplays_inv (p h : Nat) (s : State)  (hs : Inv s = true) : Inv (dropReplays p h s) = true := by
  unfold dropReplays
  with_reducible
    repeat' first
    | assumption | refine modHub_inv _ _ _ ?_ | refine replayResult_inv _ _ _ ?_
    | refine each_inv _ _ (fun _ _ _ => ?_) _ ?_ | refine inv_ite (fun _ => ?_) (fun _ => ?_) | split | dsimp only

theorem detachJob_inv (p : Nat) (s : State)  (hs : Inv s = true) : Inv (detachJob p s) = true := by
  unfold detachJob
  with_reducible
    repeat' first
    | assumption | refine abandonSwaps_inv _ _ ?_ | refine complete_inv _ _ _ _ ?_ | refine discardLoad_inv _ _ _ ?_
    | refine dropReplays_inv _ _ _ ?_ | refine installSet_inv _ _ _ _ ?_ | refine modHub_inv _ _ _ ?_
    | refine modPart_inv _ _ _ ?_ | refine restUnits_inv _ _ ?_ | refine retrySuspects_inv _ _ ?_
    | refine each_inv _ _ (fun _ _ _ => ?_) _ ?_ | refine inv_ite (fun _ => ?_) (fun _ => ?_) | split | dsimp only

end Sys2Proof.Machine
end

