-- ==== Sys2Proof/Laws/InvTracer.lean ====
section
/-!
SUPPORT. The invariant through the operations of Machine/Tracer.lean.
-/
namespace Sys2Proof.Machine

open Sys2Proof

set_option linter.all false
set_option Elab.async false

theorem fireTrigger_inv (site : Nat) (s : State)  (hs : Inv s = true) : Inv (fireTrigger site s) = true := by
  unfold fireTrigger
  with_reducible
    repeat' first
    | assumption | refine modSen_inv _ _ _ ?_ | refine senEvent_inv _ _ _ _ ?_ | refine send_inv _ _ ?_
    | refine sendAll_inv _ _ ?_ | refine inv_ite (fun _ => ?_) (fun _ => ?_) | split | dsimp only

theorem fireUnwritten_inv (site kind : Nat) (s : State)  (hs : Inv s = true) : Inv (fireUnwritten site kind s) = true := by
  unfold fireUnwritten
  with_reducible
    repeat' first
    | assumption | refine fireTrigger_inv _ _ ?_ | refine modSen_inv _ _ _ ?_
    | refine inv_ite (fun _ => ?_) (fun _ => ?_) | split | dsimp only

theorem traceLost_inv (site : Nat) (s : State)  (hs : Inv s = true) : Inv (traceLost site s) = true := by
  unfold traceLost
  with_reducible
    repeat' first
    | assumption | refine countSen_inv _ _ _ _ ?_ | refine raiseEv_inv _ _ _ _ ?_
    | refine inv_ite (fun _ => ?_) (fun _ => ?_) | split | dsimp only

theorem traceRecord_inv (site : Nat) (op : QueueOp) (ended discarded : Bool) (s : State)  (hs : Inv s = true) : Inv (traceRecord site op ended discarded s) = true := by
  unfold traceRecord
  with_reducible
    repeat' first
    | assumption | refine countSen_inv _ _ _ _ ?_ | refine fireTrigger_inv _ _ ?_ | refine modSen_inv _ _ _ ?_
    | refine raiseEv_inv _ _ _ _ ?_ | refine traceLost_inv _ _ ?_ | refine inv_ite (fun _ => ?_) (fun _ => ?_) | split
    | dsimp only

theorem dropMatch_inv (site n : Nat) (s : State)  (hs : Inv s = true) : Inv (dropMatch site n s) = true := by
  unfold dropMatch
  with_reducible
    repeat' first
    | assumption | refine countSen_inv _ _ _ _ ?_ | refine modHub_inv _ _ _ ?_
    | refine inv_ite (fun _ => ?_) (fun _ => ?_) | split | dsimp only

theorem watchMatch_inv (site n kind : Nat) (b : Block) (s : State)  (hs : Inv s = true) : Inv (watchMatch site n kind b s) = true := by
  unfold watchMatch
  with_reducible
    repeat' first
    | assumption | refine countSen_inv _ _ _ _ ?_ | refine dropMatch_inv _ _ _ ?_ | refine fireUnwritten_inv _ _ _ ?_
    | refine modHub_inv _ _ _ ?_ | refine modSen_inv _ _ _ ?_ | refine inv_ite (fun _ => ?_) (fun _ => ?_) | split
    | dsimp only

theorem watchBlock_inv (site kind : Nat) (b : Block) (s : State)  (hs : Inv s = true) : Inv (watchBlock site kind b s) = true := by
  unfold watchBlock
  with_reducible
    repeat' first
    | assumption | refine watchMatch_inv _ _ _ _ _ ?_ | refine each_inv _ _ (fun _ _ _ => ?_) _ ?_
    | refine inv_ite (fun _ => ?_) (fun _ => ?_) | split | dsimp only

end Sys2Proof.Machine
end

