-- ==== Sys2Proof/Laws/InvRegisters.lean ====
section
/-!
SUPPORT. The invariant through the operations of Machine/Registers.lean.
-/
namespace Sys2Proof.Machine

open Sys2Proof

set_option linter.all false
set_option Elab.async false

theorem senReadAll_inv (site : Nat) (x0 : List Nat) (s : State) (hs : Inv s = true) : Inv (senReadAll site x0 s).1 = true := by
  induction x0 generalizing s with
  | nil => exact hs
  | cons o os ih =>
    simp only [senReadAll]
    exact ih _ (modSen_inv _ _ _ hs)

theorem answer_inv (unit opcode tag status : Nat) (words : List Word) (s : State)  (hs : Inv s = true) : Inv (answer unit opcode tag status words s) = true := by
  exact Inv_of_get (fun φ hφ => answer_get (notMem_of hφ rfl) _ _ _ _ _ _) hs

theorem senRead_inv (site off n tag : Nat) (s : State)  (hs : Inv s = true) : Inv (senRead site off n tag s) = true := by
  unfold senRead
  with_reducible
    repeat' first
    | assumption | refine answer_inv _ _ _ _ _ _ ?_ | refine senReadAll_inv _ _ _ ?_
    | refine inv_ite (fun _ => ?_) (fun _ => ?_) | split | dsimp only

theorem settleIdle_inv (site : Nat) (s : State)  (hs : Inv s = true) : Inv (settleIdle site s) = true := by
  unfold settleIdle
  with_reducible
    repeat' first
    | assumption | refine modSen_inv _ _ _ ?_ | refine waitFront_inv _ _ _ ?_
    | refine inv_ite (fun _ => ?_) (fun _ => ?_) | split | dsimp only

theorem senWrite_inv (site off : Nat) (ws : List Word) (tag : Nat) (s : State)  (hs : Inv s = true) : Inv (senWrite site off ws tag s) = true := by
  unfold senWrite
  with_reducible
    repeat' first
    | assumption | refine answer_inv _ _ _ _ _ _ ?_ | refine modSen_inv _ _ _ ?_ | refine settleIdle_inv _ _ ?_
    | refine inv_ite (fun _ => ?_) (fun _ => ?_) | split | dsimp only

theorem hubRead_inv (h off n tag : Nat) (s : State)  (hs : Inv s = true) : Inv (hubRead h off n tag s) = true := by
  exact Inv_of_get (fun φ hφ => hubRead_get (notMem_of hφ rfl) _ _ _ _ _) hs

theorem hubWrite_inv (h off : Nat) (ws : List Word) (tag : Nat) (s : State)  (hs : Inv s = true) : Inv (hubWrite h off ws tag s) = true := by
  unfold hubWrite
  with_reducible
    repeat' first
    | assumption | refine answer_inv _ _ _ _ _ _ ?_ | refine modHub_inv _ _ _ ?_
    | refine inv_ite (fun _ => ?_) (fun _ => ?_) | split | dsimp only

theorem waitUnit_inv (h unit : Nat) (m : Instr) (s : State)  (hs : Inv s = true) : Inv (waitUnit h unit m s) = true := by
  unfold waitUnit
  with_reducible
    repeat' first
    | assumption | refine modHub_inv _ _ _ ?_ | refine inv_ite (fun _ => ?_) (fun _ => ?_) | split | dsimp only

theorem programStore_inv (site offset : Nat) (words : List Word) (tag : Nat) (s : State)  (hs : Inv s = true) : Inv (programStore site offset words tag s) = true := by
  unfold programStore
  with_reducible
    repeat' first
    | assumption | refine answer_inv _ _ _ _ _ _ ?_ | refine modSen_inv _ _ _ ?_
    | refine inv_ite (fun _ => ?_) (fun _ => ?_) | split | dsimp only

theorem programLoad_inv (site offset count tag : Nat) (s : State)  (hs : Inv s = true) : Inv (programLoad site offset count tag s) = true := by
  exact Inv_of_get (fun φ hφ => programLoad_get (notMem_of hφ rfl) _ _ _ _ _) hs

theorem performAccess_inv (m : Instr) (s : State)  (hs : Inv s = true) : Inv (performAccess m s) = true := by
  unfold performAccess
  with_reducible
    repeat' first
    | assumption | refine programLoad_inv _ _ _ _ _ ?_ | refine programStore_inv _ _ _ _ _ ?_
    | refine senRead_inv _ _ _ _ _ ?_ | refine senWrite_inv _ _ _ _ _ ?_ | refine send_inv _ _ ?_
    | refine takeEv_inv _ _ _ ?_ | refine inv_ite (fun _ => ?_) (fun _ => ?_) | split | dsimp only

theorem timeoutAccess_inv (m : Instr) (s : State)  (hs : Inv s = true) : Inv (timeoutAccess m s) = true := by
  exact Inv_of_get (fun φ hφ => timeoutAccess_get (notMem_of hφ rfl) _ _) hs

theorem serveWake_inv (site : Nat) (s : State)  (hs : Inv s = true) : Inv (serveWake site s) = true := by
  unfold serveWake
  with_reducible
    repeat' first
    | assumption | refine modSen_inv _ _ _ ?_ | refine performAccess_inv _ _ ?_
    | refine each_inv _ _ (fun _ _ _ => ?_) _ ?_ | refine inv_ite (fun _ => ?_) (fun _ => ?_) | split | dsimp only

end Sys2Proof.Machine
end

