-- ==== Sys2Proof/Laws/InvTileFront.lean ====
section
/-!
SUPPORT. The invariant through the operations of Machine/TileFront.lean.
-/
namespace Sys2Proof.Machine

open Sys2Proof

set_option linter.all false
set_option Elab.async false

theorem failLineage_inv (site lineage : Nat) (s : State)  (hs : Inv s = true) : Inv (failLineage site lineage s) = true := by
  unfold failLineage
  with_reducible
    repeat' first
    | assumption | refine modSen_inv _ _ _ ?_ | refine inv_ite (fun _ => ?_) (fun _ => ?_) | split | dsimp only

theorem sramReport_inv (site : Nat) (corrected : Bool) (path address : Nat) (s : State)  (hs : Inv s = true) : Inv (sramReport site corrected path address s) = true := by
  unfold sramReport
  with_reducible
    repeat' first
    | assumption | refine charge_inv _ _ _ _ _ ?_ | refine senEvent_inv _ _ _ _ ?_
    | refine inv_ite (fun _ => ?_) (fun _ => ?_) | split | dsimp only

theorem drainItem_inv (site : Nat) (e : FrontEntry) (s : State)  (hs : Inv s = true) : Inv (drainItem site e s) = true := by
  unfold drainItem
  with_reducible
    repeat' first
    | assumption | refine failLineage_inv _ _ _ ?_ | refine fireUnwritten_inv _ _ _ ?_ | refine senReport_inv _ _ _ ?_
    | refine send_inv _ _ ?_ | refine setAlarm_inv _ _ _ _ _ ?_ | refine sramReport_inv _ _ _ _ _ ?_
    | refine each_inv _ _ (fun _ _ _ => ?_) _ ?_ | refine inv_ite (fun _ => ?_) (fun _ => ?_) | split | dsimp only

theorem drainOne_inv (site : Nat) (s : State)  (hs : Inv s = true) : Inv (drainOne site s) = true := by
  unfold drainOne
  with_reducible
    repeat' first
    | assumption | refine drainItem_inv _ _ _ ?_ | refine modSen_inv _ _ _ ?_
    | refine inv_ite (fun _ => ?_) (fun _ => ?_) | split | dsimp only

theorem serveFront_inv (site : Nat) (s : State)  (hs : Inv s = true) : Inv (serveFront site s) = true := by
  unfold serveFront
  with_reducible
    repeat' first
    | assumption | refine drainOne_inv _ _ ?_ | refine modSen_inv _ _ _ ?_ | refine serveWake_inv _ _ ?_
    | refine each_inv _ _ (fun _ _ _ => ?_) _ ?_ | refine inv_ite (fun _ => ?_) (fun _ => ?_) | split | dsimp only

theorem execTcgWakeAckRise_safe (site : Nat) (s : State)  (hs : Inv s = true) : Safe (execTcgWakeAckRise site s) := by
  unfold execTcgWakeAckRise
  with_reducible
    repeat' first
    | assumption | refine modSen_inv _ _ _ ?_ | refine serveFront_inv _ _ ?_ | refine setAlarm_inv _ _ _ _ _ ?_
    | refine safe_next.2 ?_ | refine safe_ite (fun _ => ?_) (fun _ => ?_) | refine inv_ite (fun _ => ?_) (fun _ => ?_)
    | split | dsimp only

theorem execTcgWakeAckFall_safe (site : Nat) (s : State)  (hs : Inv s = true) : Safe (execTcgWakeAckFall site s) := by
  unfold execTcgWakeAckFall
  with_reducible
    repeat' first
    | assumption | refine modSen_inv _ _ _ ?_ | refine raiseWake_inv _ _ ?_ | refine safe_next.2 ?_
    | refine safe_ite (fun _ => ?_) (fun _ => ?_) | refine inv_ite (fun _ => ?_) (fun _ => ?_) | split | dsimp only

theorem execWakeTimeout_safe (site : Nat) (s : State)  (hs : Inv s = true) : Safe (execWakeTimeout site s) := by
  unfold execWakeTimeout
  with_reducible
    repeat' first
    | assumption | refine modSen_inv _ _ _ ?_ | refine setAlarm_inv _ _ _ _ _ ?_ | refine timeoutAccess_inv _ _ ?_
    | refine each_inv _ _ (fun _ _ _ => ?_) _ ?_ | refine safe_next.2 ?_ | refine safe_ite (fun _ => ?_) (fun _ => ?_)
    | refine inv_ite (fun _ => ?_) (fun _ => ?_) | split | dsimp only

theorem execWrite_safe (unit offset : Nat) (words : List Word) (tag : Nat) (s : State)  (hs : Inv s = true) : Safe (execWrite unit offset words tag s) := by
  unfold execWrite
  with_reducible
    repeat' first
    | assumption | refine hubWrite_inv _ _ _ _ _ ?_ | refine senWrite_inv _ _ _ _ _ ?_
    | refine waitUnit_inv _ _ _ _ ?_ | refine arrive_safe _ _ _ (fun _ _ => ?_) ?_ | refine safe_next.2 ?_
    | refine safe_ite (fun _ => ?_) (fun _ => ?_) | refine inv_ite (fun _ => ?_) (fun _ => ?_) | split | dsimp only

theorem execDropCountRead_safe (site tag : Nat) (s : State)  (hs : Inv s = true) : Safe (execDropCountRead site tag s) := by
  unfold execDropCountRead
  with_reducible
    repeat' first
    | assumption | refine senRead_inv _ _ _ _ _ ?_ | refine arrive_safe _ _ _ (fun _ _ => ?_) ?_
    | refine safe_next.2 ?_ | refine safe_ite (fun _ => ?_) (fun _ => ?_) | refine inv_ite (fun _ => ?_) (fun _ => ?_)
    | split | dsimp only

theorem execProgramWrite_safe (site offset : Nat) (words : List Word) (tag : Nat) (s : State)  (hs : Inv s = true) : Safe (execProgramWrite site offset words tag s) := by
  unfold execProgramWrite
  with_reducible
    repeat' first
    | assumption | refine programStore_inv _ _ _ _ _ ?_ | refine waitWake_inv _ _ _ ?_
    | refine arrive_safe _ _ _ (fun _ _ => ?_) ?_ | refine safe_next.2 ?_
    | refine safe_ite (fun _ => ?_) (fun _ => ?_) | refine inv_ite (fun _ => ?_) (fun _ => ?_) | split | dsimp only

theorem execProgramRead_safe (site offset count tag : Nat) (s : State)  (hs : Inv s = true) : Safe (execProgramRead site offset count tag s) := by
  unfold execProgramRead
  with_reducible
    repeat' first
    | assumption | refine programLoad_inv _ _ _ _ _ ?_ | refine waitWake_inv _ _ _ ?_
    | refine arrive_safe _ _ _ (fun _ _ => ?_) ?_ | refine safe_next.2 ?_
    | refine safe_ite (fun _ => ?_) (fun _ => ?_) | refine inv_ite (fun _ => ?_) (fun _ => ?_) | split | dsimp only

theorem execSeedLoad_safe (hub : Nat) (sampling : Bool) (value : Word) (s : State)  (hs : Inv s = true) : Safe (execSeedLoad hub sampling value s) := by
  unfold execSeedLoad
  with_reducible
    repeat' first
    | assumption | refine modHub_inv _ _ _ ?_ | refine safe_next.2 ?_ | refine safe_ite (fun _ => ?_) (fun _ => ?_)
    | refine inv_ite (fun _ => ?_) (fun _ => ?_) | split | dsimp only

theorem sampleEv_inv (site code : Nat) (s : State)  (hs : Inv s = true) : Inv (sampleEv site code s) = true := by
  unfold sampleEv
  with_reducible
    repeat' first
    | assumption | refine takeEv_inv _ _ _ ?_ | refine waitWake_inv _ _ _ ?_
    | refine inv_ite (fun _ => ?_) (fun _ => ?_) | split | dsimp only

theorem execEventLevelRise_safe (site code : Nat) (s : State)  (hs : Inv s = true) : Safe (execEventLevelRise site code s) := by
  unfold execEventLevelRise
  with_reducible
    repeat' first
    | assumption | refine sampleEv_inv _ _ _ ?_ | refine safe_next.2 ?_ | refine safe_ite (fun _ => ?_) (fun _ => ?_)
    | refine inv_ite (fun _ => ?_) (fun _ => ?_) | split | dsimp only

theorem execEventCounterSampleTimer_safe (site : Nat) (s : State)  (hs : Inv s = true) : Safe (execEventCounterSampleTimer site s) := by
  unfold execEventCounterSampleTimer
  with_reducible
    repeat' first
    | assumption | refine sampleEv_inv _ _ _ ?_ | refine each_inv _ _ (fun _ _ _ => ?_) _ ?_ | refine safe_next.2 ?_
    | refine safe_ite (fun _ => ?_) (fun _ => ?_) | refine inv_ite (fun _ => ?_) (fun _ => ?_) | split | dsimp only

theorem execFrontQueueEntry_safe (site : Nat) (s : State)  (hs : Inv s = true) : Safe (execFrontQueueEntry site s) := by
  unfold execFrontQueueEntry
  with_reducible
    repeat' first
    | assumption | refine drainOne_inv _ _ ?_ | refine waitFront_inv _ _ _ ?_ | refine safe_next.2 ?_
    | refine safe_ite (fun _ => ?_) (fun _ => ?_) | refine inv_ite (fun _ => ?_) (fun _ => ?_) | split | dsimp only

theorem execDropCount_safe (site count : Nat) (s : State)  (hs : Inv s = true) : Safe (execDropCount site count s) := by
  unfold execDropCount
  with_reducible
    repeat' first
    | assumption | refine modRec_inv _ _ ?_ | refine arrive_safe _ _ _ (fun _ _ => ?_) ?_ | refine safe_next.2 ?_
    | refine safe_ite (fun _ => ?_) (fun _ => ?_) | refine inv_ite (fun _ => ?_) (fun _ => ?_) | split | dsimp only

theorem windowBreach_inv (site handle : Nat) (s : State)  (hs : Inv s = true) : Inv (windowBreach site handle s) = true := by
  unfold windowBreach
  with_reducible
    repeat' first
    | assumption | refine endPasses_inv _ _ _ ?_ | refine hubEvent_inv _ _ _ _ ?_ | refine modPart_inv _ _ _ ?_
    | refine inv_ite (fun _ => ?_) (fun _ => ?_) | split | dsimp only

theorem issueCommand_inv (site : Nat) (op : QueueOp) (s : State)  (hs : Inv s = true) : Inv (issueCommand site op s) = true := by
  unfold issueCommand
  with_reducible
    repeat' first
    | assumption | refine modSen_inv _ _ _ ?_ | refine pushAlarm_inv _ _ _ ?_ | refine traceRecord_inv _ _ _ _ _ ?_
    | refine windowBreach_inv _ _ _ ?_ | refine inv_ite (fun _ => ?_) (fun _ => ?_) | split | dsimp only

theorem execQueueCommandIssue_safe (site : Nat) (op : QueueOp) (s : State)  (hs : Inv s = true) : Safe (execQueueCommandIssue site op s) := by
  unfold execQueueCommandIssue
  with_reducible
    repeat' first
    | assumption | refine issueCommand_inv _ _ _ ?_ | refine safe_next.2 ?_
    | refine safe_ite (fun _ => ?_) (fun _ => ?_) | refine inv_ite (fun _ => ?_) (fun _ => ?_) | split | dsimp only

theorem execQueueCommandComplete_safe (site : Nat) (op : QueueOp) (discarded : Bool) (s : State)  (hs : Inv s = true) : Safe (execQueueCommandComplete site op discarded s) := by
  unfold execQueueCommandComplete
  with_reducible
    repeat' first
    | assumption | refine fenceIdle_inv _ _ ?_ | refine modSen_inv _ _ _ ?_ | refine pushAlarm_inv _ _ _ ?_
    | refine traceRecord_inv _ _ _ _ _ ?_ | refine safe_next.2 ?_ | refine safe_ite (fun _ => ?_) (fun _ => ?_)
    | refine inv_ite (fun _ => ?_) (fun _ => ?_) | split | dsimp only

theorem execTraceTrigger_safe (site firing : Nat) (slot : Dword) (s : State)  (hs : Inv s = true) : Safe (execTraceTrigger site firing slot s) := by
  unfold execTraceTrigger
  with_reducible
    repeat' first
    | assumption | refine modSen_inv _ _ _ ?_ | refine respond_inv _ _ _ _ _ ?_
    | refine arrive_safe _ _ _ (fun _ _ => ?_) ?_ | refine safe_next.2 ?_
    | refine safe_ite (fun _ => ?_) (fun _ => ?_) | refine inv_ite (fun _ => ?_) (fun _ => ?_) | split | dsimp only

theorem execWatchDumpComplete_safe (site slot : Nat) (s : State)  (hs : Inv s = true) : Safe (execWatchDumpComplete site slot s) := by
  unfold execWatchDumpComplete
  with_reducible
    repeat' first
    | assumption | refine modSen_inv _ _ _ ?_ | refine dramWrite_inv _ _ ?_ | refine setDram_inv nil_wf ?_
    | refine safe_next.2 ?_ | refine safe_ite (fun _ => ?_) (fun _ => ?_) | refine inv_ite (fun _ => ?_) (fun _ => ?_)
    | split | dsimp only

theorem execSramErrorReport_safe (site : Nat) (corrected : Bool) (path address : Nat) (desc : Desc) (s : State)  (hs : Inv s = true) : Safe (execSramErrorReport site corrected path address desc s) := by
  unfold execSramErrorReport
  with_reducible
    repeat' first
    | assumption | refine modSen_inv _ _ _ ?_ | refine pushReport_inv _ _ _ ?_ | refine raiseEv_inv _ _ _ _ ?_
    | refine safe_next.2 ?_ | refine safe_ite (fun _ => ?_) (fun _ => ?_) | refine inv_ite (fun _ => ?_) (fun _ => ?_)
    | split | dsimp only

end Sys2Proof.Machine
end

