-- ==== Sys2Proof/Laws/InvSeals.lean ====
section
/-!
SUPPORT. The invariant through the operations of Machine/Seals.lean.
-/
namespace Sys2Proof.Machine

open Sys2Proof

set_option linter.all false
set_option Elab.async false

theorem sealItem_inv (site test : Nat) (c : Consume) (i : SealInfo) (s : State)  (hs : Inv s = true) : Inv (sealItem site test c i s) = true := by
  unfold sealItem
  with_reducible
    repeat' first
    | assumption | refine modSen_inv _ _ _ ?_ | refine inv_ite (fun _ => ?_) (fun _ => ?_) | split | dsimp only

theorem consumePoison_inv (site : Nat) (c : Consume) (slot : Nat) (s : State)  (hs : Inv s = true) : Inv (consumePoison site c slot s) = true := by
  unfold consumePoison
  with_reducible
    repeat' first
    | assumption | refine raiseEv_inv _ _ _ _ ?_ | refine inv_ite (fun _ => ?_) (fun _ => ?_) | split | dsimp only

theorem consumeFails_inv (site test : Nat) (c : Consume) (i : SealInfo) (s : State)  (hs : Inv s = true) : Inv (consumeFails site test c i s) = true := by
  unfold consumeFails
  with_reducible
    repeat' first
    | assumption | refine countSen_inv _ _ _ _ ?_ | refine modSen_inv _ _ _ ?_ | refine pushReport_inv _ _ _ ?_
    | refine sealItem_inv _ _ _ _ _ ?_ | refine inv_ite (fun _ => ?_) (fun _ => ?_) | split | dsimp only

theorem countsCheck_inv (site : Nat) (c : Consume) (i : SealInfo) (s : State)  (hs : Inv s = true) : Inv (countsCheck site c i s) = true := by
  unfold countsCheck
  with_reducible
    repeat' first
    | assumption | refine pushReport_inv _ _ _ ?_ | refine inv_ite (fun _ => ?_) (fun _ => ?_) | split | dsimp only

theorem consumePasses_inv (site : Nat) (c : Consume) (i : SealInfo) (s : State)  (hs : Inv s = true) : Inv (consumePasses site c i s) = true := by
  unfold consumePasses
  with_reducible
    repeat' first
    | assumption | refine pushReport_inv _ _ _ ?_ | refine sealItem_inv _ _ _ _ _ ?_
    | refine watchBlock_inv _ _ _ _ ?_ | refine inv_ite (fun _ => ?_) (fun _ => ?_) | split | dsimp only

theorem verifyConsumed_inv (site : Nat) (c : Consume) (slot : Nat) (i : SealInfo) (s : State)  (hs : Inv s = true) : Inv (verifyConsumed site c slot i s) = true := by
  unfold verifyConsumed
  with_reducible
    repeat' first
    | assumption | refine consumeFails_inv _ _ _ _ _ ?_ | refine consumePasses_inv _ _ _ _ ?_
    | refine consumePoison_inv _ _ _ _ ?_ | refine countSen_inv _ _ _ _ ?_ | refine modSen_inv _ _ _ ?_
    | refine inv_ite (fun _ => ?_) (fun _ => ?_) | split | dsimp only

theorem execBlockConsumed_safe (site : Nat) (c : Consume) (s : State)  (hs : Inv s = true) : Safe (execBlockConsumed site c s) := by
  unfold execBlockConsumed
  with_reducible
    repeat' first
    | assumption | refine countsCheck_inv _ _ _ _ ?_ | refine modSen_inv _ _ _ ?_
    | refine verifyConsumed_inv _ _ _ _ _ ?_ | refine safe_next.2 ?_ | refine safe_ite (fun _ => ?_) (fun _ => ?_)
    | refine inv_ite (fun _ => ?_) (fun _ => ?_) | split | dsimp only

theorem execSealReread_safe (site : Nat) (stored : Block) (s : State)  (hs : Inv s = true) : Safe (execSealReread site stored s) := by
  unfold execSealReread
  with_reducible
    repeat' first
    | assumption | refine charge_inv _ _ _ _ _ ?_ | refine modSen_inv _ _ _ ?_ | refine pushReport_inv _ _ _ ?_
    | refine safe_next.2 ?_ | refine safe_ite (fun _ => ?_) (fun _ => ?_) | refine inv_ite (fun _ => ?_) (fun _ => ?_)
    | split | dsimp only

theorem lastSealed_inv (p : Nat) (s : State)  (hs : Inv s = true) : Inv (lastSealed p s) = true := by
  unfold lastSealed
  with_reducible
    repeat' first
    | assumption | refine modPart_inv _ _ _ ?_ | refine inv_ite (fun _ => ?_) (fun _ => ?_) | split | dsimp only

theorem execBlockProduced_safe (site : Nat) (p : Produce) (s : State)  (hs : Inv s = true) : Safe (execBlockProduced site p s) := by
  unfold execBlockProduced
  with_reducible
    repeat' first
    | assumption | refine lastSealed_inv _ _ ?_ | refine modSen_inv _ _ _ ?_ | refine watchBlock_inv _ _ _ _ ?_
    | refine safe_next.2 ?_ | refine safe_ite (fun _ => ?_) (fun _ => ?_) | refine inv_ite (fun _ => ?_) (fun _ => ?_)
    | split | dsimp only

theorem digestEntry_inv (h : Nat) (out : Bool) (t : Transfer) (tag : Tag) (s : State)  (hs : Inv s = true) : Inv (digestEntry h out t tag s) = true := by
  unfold digestEntry
  with_reducible
    repeat' first
    | assumption | refine modHub_inv _ _ _ ?_ | refine inv_ite (fun _ => ?_) (fun _ => ?_) | split | dsimp only

theorem refuseRequest_inv (h : Nat) (s : State)  (hs : Inv s = true) : Inv (refuseRequest h s) = true := by
  unfold refuseRequest
  with_reducible
    repeat' first
    | assumption | refine modHub_inv _ _ _ ?_ | refine inv_ite (fun _ => ?_) (fun _ => ?_) | split | dsimp only

theorem execMemoryEntryRead_safe (t : Transfer) (s : State)  (hs : Inv s = true) : Safe (execMemoryEntryRead t s) := by
  unfold execMemoryEntryRead
  with_reducible
    repeat' first
    | assumption | refine digestEntry_inv _ _ _ _ _ ?_ | refine modHub_inv _ _ _ ?_ | refine refuseRequest_inv _ _ ?_
    | refine safe_next.2 ?_ | refine safe_ite (fun _ => ?_) (fun _ => ?_) | refine inv_ite (fun _ => ?_) (fun _ => ?_)
    | split | dsimp only

theorem takeLinkBlock_inv (t : Transfer) (s : State)  (hs : Inv s = true) : Inv (takeLinkBlock t s) = true := by
  unfold takeLinkBlock
  with_reducible
    repeat' first
    | assumption | refine countHub_inv _ _ _ _ ?_ | refine digestEntry_inv _ _ _ _ _ ?_
    | refine hubEvent_inv _ _ _ _ ?_ | refine modHub_inv _ _ _ ?_ | refine modPart_inv _ _ _ ?_
    | refine inv_ite (fun _ => ?_) (fun _ => ?_) | split | dsimp only

theorem execLinkEntryBlock_safe (t : Transfer) (s : State)  (hs : Inv s = true) : Safe (execLinkEntryBlock t s) := by
  unfold execLinkEntryBlock
  with_reducible
    repeat' first
    | assumption | refine digestEntry_inv _ _ _ _ _ ?_ | refine modHub_inv _ _ _ ?_ | refine refuseRequest_inv _ _ ?_
    | refine takeLinkBlock_inv _ _ ?_ | refine safe_next.2 ?_ | refine safe_ite (fun _ => ?_) (fun _ => ?_)
    | refine inv_ite (fun _ => ?_) (fun _ => ?_) | split | dsimp only

theorem exitVerdict_inv (h test : Nat) (t : Transfer) (i : SealInfo) (s : State)  (hs : Inv s = true) : Inv (exitVerdict h test t i s) = true := by
  exact Inv_of_get (fun φ hφ => exitVerdict_get (notMem_of hφ rfl) _ _ _ _ _) hs

theorem exitEvent_inv (h test : Nat) (t : Transfer) (i : SealInfo) (s : State)  (hs : Inv s = true) : Inv (exitEvent h test t i s) = true := by
  unfold exitEvent
  with_reducible
    repeat' first
    | assumption | refine countHub_inv _ _ _ _ ?_ | refine hubEvent_inv _ _ _ _ ?_
    | refine inv_ite (fun _ => ?_) (fun _ => ?_) | split | dsimp only

theorem execMemoryExitWrite_safe (t : Transfer) (s : State)  (hs : Inv s = true) : Safe (execMemoryExitWrite t s) := by
  unfold execMemoryExitWrite
  with_reducible
    repeat' first
    | assumption | refine digestEntry_inv _ _ _ _ _ ?_ | refine exitEvent_inv _ _ _ _ _ ?_
    | refine exitVerdict_inv _ _ _ _ _ ?_ | refine modHub_inv _ _ _ ?_ | refine refuseRequest_inv _ _ ?_
    | refine safe_next.2 ?_ | refine safe_ite (fun _ => ?_) (fun _ => ?_) | refine inv_ite (fun _ => ?_) (fun _ => ?_)
    | split | dsimp only

theorem execLinkExitBlock_safe (t : Transfer) (s : State)  (hs : Inv s = true) : Safe (execLinkExitBlock t s) := by
  unfold execLinkExitBlock
  with_reducible
    repeat' first
    | assumption | refine digestEntry_inv _ _ _ _ _ ?_ | refine exitEvent_inv _ _ _ _ _ ?_
    | refine exitVerdict_inv _ _ _ _ _ ?_ | refine modHub_inv _ _ _ ?_ | refine modPart_inv _ _ _ ?_
    | refine refuseRequest_inv _ _ ?_ | refine safe_next.2 ?_ | refine safe_ite (fun _ => ?_) (fun _ => ?_)
    | refine inv_ite (fun _ => ?_) (fun _ => ?_) | split | dsimp only

end Sys2Proof.Machine
end

