-- ==== Sys2Proof/Laws/InvLineage.lean ====
section
/-!
SUPPORT. The invariant through the operations of Machine/Lineage.lean.
-/
namespace Sys2Proof.Machine

open Sys2Proof

set_option linter.all false
set_option Elab.async false

theorem noteLineage_inv (site lineage : Nat) (s : State)  (hs : Inv s = true) : Inv (noteLineage site lineage s) = true := by
  unfold noteLineage
  with_reducible
    repeat' first
    | assumption | refine hubEvent_inv _ _ _ _ ?_ | refine modHub_inv _ _ _ ?_
    | refine inv_ite (fun _ => ?_) (fun _ => ?_) | split | dsimp only

theorem failItem_inv (site lineage : Nat) (s : State)  (hs : Inv s = true) : Inv (failItem site lineage s) = true := by
  unfold failItem
  with_reducible
    repeat' first
    | assumption | refine modHub_inv _ _ _ ?_ | refine noteLineage_inv _ _ _ ?_
    | refine inv_ite (fun _ => ?_) (fun _ => ?_) | split | dsimp only

theorem lateDetection_inv (p step lineage outcome tile delay : Nat) (s : State)  (hs : Inv s = true) : Inv (lateDetection p step lineage outcome tile delay s) = true := by
  unfold lateDetection
  with_reducible
    repeat' first
    | assumption | refine countGlobal_inv _ _ _ _ ?_ | refine modPart_inv _ _ _ ?_ | refine raiseAlert_inv _ _ ?_
    | refine record_inv _ _ _ ?_ | refine inv_ite (fun _ => ?_) (fun _ => ?_) | split | dsimp only

theorem sampleDraw_inv (h : Nat) (s : State)  (hs : Inv s = true) : Inv (sampleDraw h s).1 = true := by
  unfold sampleDraw
  with_reducible
    repeat' first
    | assumption | refine modHub_inv _ _ _ ?_ | refine inv_ite (fun _ => ?_) (fun _ => ?_) | split | dsimp only

theorem loadSample_inv (site : Nat) (s : State)  (hs : Inv s = true) : Inv (loadSample site s) = true := by
  unfold loadSample
  with_reducible
    repeat' first
    | assumption | refine modSen_inv _ _ _ ?_ | refine sampleDraw_inv _ _ ?_
    | refine inv_ite (fun _ => ?_) (fun _ => ?_) | split | dsimp only

theorem raiseRate_inv (site : Nat) (s : State)  (hs : Inv s = true) : Inv (raiseRate site s) = true := by
  unfold raiseRate
  with_reducible
    repeat' first
    | assumption | refine loadSample_inv _ _ ?_ | refine modHub_inv _ _ _ ?_
    | refine inv_ite (fun _ => ?_) (fun _ => ?_) | split | dsimp only

theorem skipRepeat_inv (h : Nat) (s : State)  (hs : Inv s = true) : Inv (skipRepeat h s) = true := by
  unfold skipRepeat
  with_reducible
    repeat' first
    | assumption | refine countHub_inv _ _ _ _ ?_ | refine modHub_inv _ _ _ ?_
    | refine inv_ite (fun _ => ?_) (fun _ => ?_) | split | dsimp only

theorem countOutcome_inv (h outcome : Nat) (s : State)  (hs : Inv s = true) : Inv (countOutcome h outcome s) = true := by
  unfold countOutcome
  with_reducible
    repeat' first
    | assumption | refine countHub_inv _ _ _ _ ?_ | refine modHub_inv _ _ _ ?_
    | refine inv_ite (fun _ => ?_) (fun _ => ?_) | split | dsimp only

theorem releaseCapture_inv (h site seq step : Nat) (s : State)  (hs : Inv s = true) : Inv (releaseCapture h site seq step s) = true := by
  unfold releaseCapture
  with_reducible
    repeat' first
    | assumption | refine modSen_inv _ _ _ ?_ | refine inv_ite (fun _ => ?_) (fun _ => ?_) | split | dsimp only

theorem endUnavailable_inv (h : Nat) (r : RepeatReq) (s : State)  (hs : Inv s = true) : Inv (endUnavailable h r s) = true := by
  unfold endUnavailable
  with_reducible
    repeat' first
    | assumption | refine countOutcome_inv _ _ _ ?_ | refine recordFrom_inv _ _ _ _ ?_
    | refine releaseCapture_inv _ _ _ _ _ ?_ | refine inv_ite (fun _ => ?_) (fun _ => ?_) | split | dsimp only

theorem dropRepeat_inv (h : Nat) (r : RepeatReq) (s : State)  (hs : Inv s = true) : Inv (dropRepeat h r s) = true := by
  unfold dropRepeat
  with_reducible
    repeat' first
    | assumption | refine endUnavailable_inv _ _ _ ?_ | refine releaseCapture_inv _ _ _ _ _ ?_
    | refine skipRepeat_inv _ _ ?_ | refine inv_ite (fun _ => ?_) (fun _ => ?_) | split | dsimp only

theorem serveRepeat_inv (h : Nat) (s : State)  (hs : Inv s = true) : Inv (serveRepeat h s) = true := by
  unfold serveRepeat
  with_reducible
    repeat' first
    | assumption | refine modHub_inv _ _ _ ?_ | refine send_inv _ _ ?_ | refine inv_ite (fun _ => ?_) (fun _ => ?_)
    | split | dsimp only

theorem requestRepeat_inv (h : Nat) (r : RepeatReq) (s : State)  (hs : Inv s = true) : Inv (requestRepeat h r s) = true := by
  unfold requestRepeat
  with_reducible
    repeat' first
    | assumption | refine dropRepeat_inv _ _ _ ?_ | refine modHub_inv _ _ _ ?_ | refine send_inv _ _ ?_
    | refine serveRepeat_inv _ _ ?_ | refine inv_ite (fun _ => ?_) (fun _ => ?_) | split | dsimp only

end Sys2Proof.Machine
end

