-- ==== Sys2Proof/Laws/InvOutputs.lean ====
section
/-!
SUPPORT. The invariant through the operations of Machine/Outputs.lean.
-/
namespace Sys2Proof.Machine

open Sys2Proof

set_option linter.all false
set_option Elab.async false

theorem reportRun_inv (site : Nat) (t : TileObs) (v : VerdictItem) (s : State)  (hs : Inv s = true) : Inv (reportRun site t v s) = true := by
  exact Inv_of_get (fun φ hφ => reportRun_get (notMem_of hφ rfl) _ _ _ _) hs

theorem execOutputTileSealed_safe (site : Nat) (t : TileObs) (s : State)  (hs : Inv s = true) : Safe (execOutputTileSealed site t s) := by
  unfold execOutputTileSealed
  with_reducible
    repeat' first
    | assumption | refine modSen_inv _ _ _ ?_ | refine pushReport_inv _ _ _ ?_ | refine pushVerdict_inv _ _ _ _ ?_
    | refine reportRun_inv _ _ _ _ ?_ | refine send_inv _ _ ?_ | refine safe_next.2 ?_
    | refine safe_ite (fun _ => ?_) (fun _ => ?_) | refine inv_ite (fun _ => ?_) (fun _ => ?_) | split | dsimp only

theorem execSampleSelect_safe (site seq : Nat) (s : State)  (hs : Inv s = true) : Safe (execSampleSelect site seq s) := by
  unfold execSampleSelect
  with_reducible
    repeat' first
    | assumption | refine countHub_inv _ _ _ _ ?_ | refine loadSample_inv _ _ ?_ | refine receive_inv _ _ ?_
    | refine requestRepeat_inv _ _ _ ?_ | refine sampleDraw_inv _ _ ?_ | refine safe_next.2 ?_
    | refine safe_ite (fun _ => ?_) (fun _ => ?_) | refine inv_ite (fun _ => ?_) (fun _ => ?_) | split | dsimp only

theorem execResidueVerdict_safe (site : Nat) (item : VerdictItem) (detail : DetailItem) (s : State)  (hs : Inv s = true) : Safe (execResidueVerdict site item detail s) := by
  unfold execResidueVerdict
  with_reducible
    repeat' first
    | assumption | refine countHub_inv _ _ _ _ ?_ | refine failItem_inv _ _ _ ?_ | refine modHub_inv _ _ _ ?_
    | refine noteLineage_inv _ _ _ ?_ | refine raiseRate_inv _ _ ?_ | refine requestRepeat_inv _ _ _ ?_
    | refine sampleDraw_inv _ _ ?_ | refine arrive_safe _ _ _ (fun _ _ => ?_) ?_ | refine safe_next.2 ?_
    | refine safe_ite (fun _ => ?_) (fun _ => ?_) | refine inv_ite (fun _ => ?_) (fun _ => ?_) | split | dsimp only

theorem execPlausVerdict_safe (site : Nat) (item : PlausItem) (s : State)  (hs : Inv s = true) : Safe (execPlausVerdict site item s) := by
  unfold execPlausVerdict
  with_reducible
    repeat' first
    | assumption | refine failItem_inv _ _ _ ?_ | refine arrive_safe _ _ _ (fun _ _ => ?_) ?_ | refine safe_next.2 ?_
    | refine safe_ite (fun _ => ?_) (fun _ => ?_) | refine inv_ite (fun _ => ?_) (fun _ => ?_) | split | dsimp only

theorem execRedundancy_safe (site : Nat) (item : RedundancyItem) (s : State)  (hs : Inv s = true) : Safe (execRedundancy site item s) := by
  unfold execRedundancy
  with_reducible
    repeat' first
    | assumption | refine failItem_inv _ _ _ ?_ | refine recordFrom_inv _ _ _ _ ?_ | refine requestRepeat_inv _ _ _ ?_
    | refine arrive_safe _ _ _ (fun _ _ => ?_) ?_ | refine safe_next.2 ?_
    | refine safe_ite (fun _ => ?_) (fun _ => ?_) | refine inv_ite (fun _ => ?_) (fun _ => ?_) | split | dsimp only

theorem execRepeatRead_safe (site seq reason : Nat) (elems : List (Nat × Nat)) (outs operands : List Block) (early : Nat) (s : State)  (hs : Inv s = true) : Safe (execRepeatRead site seq reason elems outs operands early s) := by
  unfold execRepeatRead
  with_reducible
    repeat' first
    | assumption | refine modSen_inv _ _ _ ?_ | refine receive_inv _ _ ?_ | refine respond_inv _ _ _ _ _ ?_
    | refine senEvent_inv _ _ _ _ ?_ | refine sendAll_inv _ _ ?_ | refine each_inv _ _ (fun _ _ _ => ?_) _ ?_
    | refine safe_next.2 ?_ | refine safe_ite (fun _ => ?_) (fun _ => ?_) | refine inv_ite (fun _ => ?_) (fun _ => ?_)
    | split | dsimp only

theorem execRepeatHeader_safe (site : Nat) (hdr : RepeatHeader) (s : State)  (hs : Inv s = true) : Safe (execRepeatHeader site hdr s) := by
  unfold execRepeatHeader
  with_reducible
    repeat' first
    | assumption | refine modHub_inv _ _ _ ?_ | refine arrive_safe _ _ _ (fun _ _ => ?_) ?_ | refine safe_next.2 ?_
    | refine safe_ite (fun _ => ?_) (fun _ => ?_) | refine inv_ite (fun _ => ?_) (fun _ => ?_) | split | dsimp only

theorem putReplay_inv (h : Nat) (r : ReplayRec) (s : State)  (hs : Inv s = true) : Inv (putReplay h r s) = true := by
  unfold putReplay
  with_reducible
    repeat' first
    | assumption | refine joinPass_inv _ _ _ ?_ | refine modHub_inv _ _ _ ?_ | refine replayResult_inv _ _ _ ?_
    | refine inv_ite (fun _ => ?_) (fun _ => ?_) | split | dsimp only

theorem outcomeLineage_inv (h o : Nat) (r : RepeatReq) (v : VerdictItem) (s : State)  (hs : Inv s = true) : Inv (outcomeLineage h o r v s) = true := by
  unfold outcomeLineage
  with_reducible
    repeat' first
    | assumption | refine failItem_inv _ _ _ ?_ | refine lateDetection_inv _ _ _ _ _ _ _ ?_
    | refine inv_ite (fun _ => ?_) (fun _ => ?_) | split | dsimp only

theorem concludeRepeat_inv (h : Nat) (j : RepeatJob) (s : State)  (hs : Inv s = true) : Inv (concludeRepeat h j s) = true := by
  unfold concludeRepeat
  with_reducible
    repeat' first
    | assumption | refine charge_inv _ _ _ _ _ ?_ | refine countOutcome_inv _ _ _ ?_ | refine modHub_inv _ _ _ ?_
    | refine outcomeLineage_inv _ _ _ _ _ ?_ | refine putReplay_inv _ _ _ ?_ | refine recordFrom_inv _ _ _ _ ?_
    | refine releaseCapture_inv _ _ _ _ _ ?_ | refine serveRepeat_inv _ _ ?_ | refine startDeep_inv _ _ ?_
    | refine each_inv _ _ (fun _ _ _ => ?_) _ ?_ | refine inv_ite (fun _ => ?_) (fun _ => ?_) | split | dsimp only

theorem execLaneData_safe (site : Nat) (data : LaneData) (s : State)  (hs : Inv s = true) : Safe (execLaneData site data s) := by
  unfold execLaneData
  with_reducible
    repeat' first
    | assumption | refine concludeRepeat_inv _ _ _ ?_ | refine modHub_inv _ _ _ ?_
    | refine arrive_safe _ _ _ (fun _ _ => ?_) ?_ | refine safe_next.2 ?_
    | refine safe_ite (fun _ => ?_) (fun _ => ?_) | refine inv_ite (fun _ => ?_) (fun _ => ?_) | split | dsimp only

end Sys2Proof.Machine
end

