-- ==== Sys2Proof/Laws/InvPlaus.lean ====
section
/-!
SUPPORT. The invariant through the operations of Machine/Plaus.lean.
-/
namespace Sys2Proof.Machine

open Sys2Proof

set_option linter.all false
set_option Elab.async false

theorem execVectorBeat_safe (site : Nat) (b : Beat) (s : State)  (hs : Inv s = true) : Safe (execVectorBeat site b s) := by
  unfold execVectorBeat
  with_reducible
    repeat' first
    | assumption | refine modSen_inv _ _ _ ?_ | refine safe_next.2 ?_ | refine safe_ite (fun _ => ?_) (fun _ => ?_)
    | refine inv_ite (fun _ => ?_) (fun _ => ?_) | split | dsimp only

theorem plausFail_inv (site : Nat) (m : Summary) (s : State)  (hs : Inv s = true) : Inv (plausFail site m s) = true := by
  unfold plausFail
  with_reducible
    repeat' first
    | assumption | refine modSen_inv _ _ _ ?_ | refine pushReport_inv _ _ _ ?_ | refine pushVerdict_inv _ _ _ _ ?_
    | refine inv_ite (fun _ => ?_) (fun _ => ?_) | split | dsimp only

theorem endStream_inv (site : Nat) (cut : Bool) (s : State)  (hs : Inv s = true) : Inv (endStream site cut s) = true := by
  unfold endStream
  with_reducible
    repeat' first
    | assumption | refine countSen_inv _ _ _ _ ?_ | refine modSen_inv _ _ _ ?_ | refine plausFail_inv _ _ _ ?_
    | refine pushReport_inv _ _ _ ?_ | refine inv_ite (fun _ => ?_) (fun _ => ?_) | split | dsimp only

theorem execStreamEnd_safe (site : Nat) (s : State)  (hs : Inv s = true) : Safe (execStreamEnd site s) := by
  unfold execStreamEnd
  with_reducible
    repeat' first
    | assumption | refine endStream_inv _ _ _ ?_ | refine safe_next.2 ?_ | refine safe_ite (fun _ => ?_) (fun _ => ?_)
    | refine inv_ite (fun _ => ?_) (fun _ => ?_) | split | dsimp only

theorem watchRequest_inv (site : Nat) (s : State)  (hs : Inv s = true) : Inv (watchRequest site s) = true := by
  unfold watchRequest
  with_reducible
    repeat' first
    | assumption | refine charge_inv _ _ _ _ _ ?_ | refine modHub_inv _ _ _ ?_
    | refine inv_ite (fun _ => ?_) (fun _ => ?_) | split | dsimp only

theorem ruleEffect_inv (site action rule : Nat) (m : Summary) (entry : List Byte) (s : State)  (hs : Inv s = true) : Inv (ruleEffect site action rule m entry s) = true := by
  unfold ruleEffect
  with_reducible
    repeat' first
    | assumption | refine noteReason_inv _ _ _ ?_ | refine raiseRate_inv _ _ ?_ | refine recordFrom_inv _ _ _ _ ?_
    | refine watchRequest_inv _ _ ?_ | refine inv_ite (fun _ => ?_) (fun _ => ?_) | split | dsimp only

theorem takeSummary_inv (site : Nat) (sum : Summary) (s : State)  (hs : Inv s = true) : Inv (takeSummary site sum s) = true := by
  unfold takeSummary
  with_reducible
    repeat' first
    | assumption | refine countHub_inv _ _ _ _ ?_ | refine ruleEffect_inv _ _ _ _ _ _ ?_
    | refine inv_ite (fun _ => ?_) (fun _ => ?_) | split | dsimp only

theorem execSummary_safe (site : Nat) (sum : Summary) (s : State)  (hs : Inv s = true) : Safe (execSummary site sum s) := by
  unfold execSummary
  with_reducible
    repeat' first
    | assumption | refine takeSummary_inv _ _ _ ?_ | refine waitUnit_inv _ _ _ _ ?_
    | refine arrive_safe _ _ _ (fun _ _ => ?_) ?_ | refine safe_next.2 ?_
    | refine safe_ite (fun _ => ?_) (fun _ => ?_) | refine inv_ite (fun _ => ?_) (fun _ => ?_) | split | dsimp only

theorem switchHub_inv (p h : Nat) (s : State)  (hs : Inv s = true) : Inv (switchHub p h s) = true := by
  unfold switchHub
  with_reducible
    repeat' first
    | assumption | refine modHub_inv _ _ _ ?_ | refine modSen_inv _ _ _ ?_
    | refine each_inv _ _ (fun _ _ _ => ?_) _ ?_ | refine inv_ite (fun _ => ?_) (fun _ => ?_) | split | dsimp only

theorem startLoad_inv (p : Nat) (l : PlausLoad) (s : State)  (hs : Inv s = true) : Inv (startLoad p l s) = true := by
  unfold startLoad
  with_reducible
    repeat' first
    | assumption | refine modHub_inv _ _ _ ?_ | refine modPart_inv _ _ _ ?_ | refine sendAll_inv _ _ ?_
    | refine each_inv _ _ (fun _ _ _ => ?_) _ ?_ | refine inv_ite (fun _ => ?_) (fun _ => ?_) | split | dsimp only

theorem finishLoad_inv (p : Nat) (s : State)  (hs : Inv s = true) : Inv (finishLoad p s) = true := by
  unfold finishLoad
  with_reducible
    repeat' first
    | assumption | refine complete_inv _ _ _ _ ?_ | refine modPart_inv _ _ _ ?_ | refine record_inv _ _ _ ?_
    | refine startLoad_inv _ _ _ ?_ | refine inv_ite (fun _ => ?_) (fun _ => ?_) | split | dsimp only

theorem switchNow_inv (p : Nat) (s : State)  (hs : Inv s = true) : Inv (switchNow p s) = true := by
  unfold switchNow
  with_reducible
    repeat' first
    | assumption | refine finishLoad_inv _ _ ?_ | refine switchHub_inv _ _ _ ?_
    | refine each_inv _ _ (fun _ _ _ => ?_) _ ?_ | refine inv_ite (fun _ => ?_) (fun _ => ?_) | split | dsimp only

theorem loadDefault_inv (p seq : Nat) (response : List Byte) (s : State)  (hs : Inv s = true) : Inv (loadDefault p seq response s) = true := by
  unfold loadDefault
  with_reducible
    repeat' first
    | assumption | refine modPart_inv _ _ _ ?_ | refine openStep_inv _ _ _ ?_ | refine startLoad_inv _ _ _ ?_
    | refine inv_ite (fun _ => ?_) (fun _ => ?_) | split | dsimp only

theorem failAttach_inv (p : Nat) (s : State)  (hs : Inv s = true) : Inv (failAttach p s) = true := by
  unfold failAttach
  with_reducible
    repeat' first
    | assumption | refine complete_inv _ _ _ _ ?_ | refine detachJob_inv _ _ ?_ | refine modPart_inv _ _ _ ?_
    | refine inv_ite (fun _ => ?_) (fun _ => ?_) | split | dsimp only

theorem execPlausibilitySetConfirmed_safe (hub partition : Nat) (s : State)  (hs : Inv s = true) : Safe (execPlausibilitySetConfirmed hub partition s) := by
  unfold execPlausibilitySetConfirmed
  with_reducible
    repeat' first
    | assumption | refine modPart_inv _ _ _ ?_ | refine modSen_inv _ _ _ ?_ | refine openStep_inv _ _ _ ?_
    | refine receive_inv _ _ ?_ | refine switchNow_inv _ _ ?_ | refine each_inv _ _ (fun _ _ _ => ?_) _ ?_
    | refine safe_next.2 ?_ | refine safe_ite (fun _ => ?_) (fun _ => ?_) | refine inv_ite (fun _ => ?_) (fun _ => ?_)
    | split | dsimp only

theorem execPlausibilityLoadTimeout_safe (partition : Nat) (s : State)  (hs : Inv s = true) : Safe (execPlausibilityLoadTimeout partition s) := by
  unfold execPlausibilityLoadTimeout
  with_reducible
    repeat' first
    | assumption | refine discardLoad_inv _ _ _ ?_ | refine failAttach_inv _ _ ?_ | refine safe_next.2 ?_
    | refine safe_ite (fun _ => ?_) (fun _ => ?_) | refine inv_ite (fun _ => ?_) (fun _ => ?_) | split | dsimp only

theorem coreSend_inv (type tag : Nat) (payload : List Byte) (s : State)  (hs : Inv s = true) : Inv (coreSend type tag payload s) = true := by
  exact Inv_of_get (fun φ hφ => coreSend_get (notMem_of hφ rfl) _ _ _ _) hs

theorem coreNak_inv (type tag : Nat) (s : State)  (hs : Inv s = true) : Inv (coreNak type tag s) = true := by
  exact Inv_of_get (fun φ hφ => coreNak_get (notMem_of hφ rfl) _ _ _) hs

theorem requestScreen_inv (site source : Nat) (s : State)  (hs : Inv s = true) : Inv (requestScreen site source s) = true := by
  exact Inv_of_get (fun φ hφ => requestScreen_get (notMem_of hφ rfl) _ _ _) hs

theorem spike_inv (p step loss : Nat) (window : List Nat) (s : State)  (hs : Inv s = true) : Inv (spike p step loss window s) = true := by
  unfold spike
  with_reducible
    repeat' first
    | assumption | refine record_inv _ _ _ ?_ | refine requestScreen_inv _ _ _ ?_ | refine setFree_inv _ _ ?_
    | refine each_inv _ _ (fun _ _ _ => ?_) _ ?_ | refine inv_ite (fun _ => ?_) (fun _ => ?_) | split | dsimp only

theorem lossShift_inv (p step : Nat) (s : State)  (hs : Inv s = true) : Inv (lossShift p step s) = true := by
  unfold lossShift
  with_reducible
    repeat' first
    | assumption | refine modPart_inv _ _ _ ?_ | refine record_inv _ _ _ ?_
    | refine inv_ite (fun _ => ?_) (fun _ => ?_) | split | dsimp only

theorem takeLoss_inv (p step loss : Nat) (s : State)  (hs : Inv s = true) : Inv (takeLoss p step loss s) = true := by
  unfold takeLoss
  with_reducible
    repeat' first
    | assumption | refine lossShift_inv _ _ _ ?_ | refine modPart_inv _ _ _ ?_ | refine spike_inv _ _ _ _ _ ?_
    | refine inv_ite (fun _ => ?_) (fun _ => ?_) | split | dsimp only

theorem execLossReport_safe (step : Nat) (loss : Word) (partition length tag : Nat) (s : State)  (hs : Inv s = true) : Safe (execLossReport step loss partition length tag s) := by
  unfold execLossReport
  with_reducible
    repeat' first
    | assumption | refine coreNak_inv _ _ _ ?_ | refine coreSend_inv _ _ _ _ ?_ | refine record_inv _ _ _ ?_
    | refine setLossRejected_inv _ _ ?_ | refine takeLoss_inv _ _ _ _ ?_ | refine safe_next.2 ?_
    | refine safe_ite (fun _ => ?_) (fun _ => ?_) | refine inv_ite (fun _ => ?_) (fun _ => ?_) | split | dsimp only

end Sys2Proof.Machine
end

