-- ==== Sys2Proof/Laws/InvContainment.lean ====
section
/-!
SUPPORT. The invariant through the operations of Machine/Containment.lean.
-/
namespace Sys2Proof.Machine

open Sys2Proof

set_option linter.all false
set_option Elab.async false

theorem execMemoryError_safe (hub : Nat) (report : MemReport) (s : State)  (hs : Inv s = true) : Safe (execMemoryError hub report s) := by
  unfold execMemoryError
  with_reducible
    repeat' first
    | assumption | refine hubEvent_inv _ _ _ _ ?_ | refine logMemRepair_inv _ _ _ ?_ | refine modHub_inv _ _ _ ?_
    | refine modPart_inv _ _ _ ?_ | refine raiseAlert_inv _ _ ?_ | refine arrive_safe _ _ _ (fun _ _ => ?_) ?_
    | refine safe_next.2 ?_ | refine safe_ite (fun _ => ?_) (fun _ => ?_) | refine inv_ite (fun _ => ?_) (fun _ => ?_)
    | split | dsimp only

theorem execMemCeHour_safe (s : State)  (hs : Inv s = true) : Safe (execMemCeHour s) := by
  unfold execMemCeHour
  with_reducible
    repeat' first
    | assumption | refine setHub_inv ?_ ?_ | refine hub_wf ?_ | refine Sparse.wf_set ?_ _ _
    | refine Sparse.wf_upd ?_ _ _ | refine Sparse.wf_mapAll ?_ _ | exact Sparse.wf_nil
    | exact Sparse.wf_tabulate _ _ (sectors_sorted _) | exact Sparse.wf_tabulate _ _ (sites_sorted _)
    | refine Sparse.wf_foldl _ _ (fun _ _ _ => ?_) _ ?_ | refine wf_ite (fun _ => ?_) (fun _ => ?_)
    | refine safe_next.2 ?_ | refine safe_ite (fun _ => ?_) (fun _ => ?_) | refine inv_ite (fun _ => ?_) (fun _ => ?_)
    | split | dsimp only

theorem execMemoryCompletion_safe (hub point partition context gen : Nat) (s : State)  (hs : Inv s = true) : Safe (execMemoryCompletion hub point partition context gen s) := by
  unfold execMemoryCompletion
  with_reducible
    repeat' first
    | assumption | refine countHub_inv _ _ _ _ ?_ | refine modHub_inv _ _ _ ?_ | refine safe_next.2 ?_
    | refine safe_ite (fun _ => ?_) (fun _ => ?_) | refine inv_ite (fun _ => ?_) (fun _ => ?_) | split | dsimp only

theorem execStaleCompletionSecond_safe (hub : Nat) (s : State)  (hs : Inv s = true) : Safe (execStaleCompletionSecond hub s) := by
  unfold execStaleCompletionSecond
  with_reducible
    repeat' first
    | assumption | refine hubEvent_inv _ _ _ _ ?_ | refine modHub_inv _ _ _ ?_
    | refine each_inv _ _ (fun _ _ _ => ?_) _ ?_ | refine safe_next.2 ?_ | refine safe_ite (fun _ => ?_) (fun _ => ?_)
    | refine inv_ite (fun _ => ?_) (fun _ => ?_) | split | dsimp only

theorem poisonAlarm_inv (site : Nat) (s : State)  (hs : Inv s = true) : Inv (poisonAlarm site s) = true := by
  unfold poisonAlarm
  with_reducible
    repeat' first
    | assumption | refine modPart_inv _ _ _ ?_ | refine recordPoison_inv _ _ ?_ | refine startFence_inv _ _ _ _ _ ?_
    | refine inv_ite (fun _ => ?_) (fun _ => ?_) | split | dsimp only

theorem lateAlarm_inv (site : Nat) (s : State)  (hs : Inv s = true) : Inv (lateAlarm site s) = true := by
  unfold lateAlarm
  with_reducible
    repeat' first
    | assumption | refine recordFrom_inv _ _ _ _ ?_ | refine startFence_inv _ _ _ _ _ ?_
    | refine inv_ite (fun _ => ?_) (fun _ => ?_) | split | dsimp only

theorem edgeAlarm_inv (site queue : Nat) (raised : Bool) (edge : Edge) (s : State)  (hs : Inv s = true) : Inv (edgeAlarm site queue raised edge s) = true := by
  unfold edgeAlarm
  with_reducible
    repeat' first
    | assumption | refine modHub_inv _ _ _ ?_ | refine send_inv _ _ ?_ | refine sendAll_inv _ _ ?_
    | refine inv_ite (fun _ => ?_) (fun _ => ?_) | split | dsimp only

theorem sentinelAlarm_inv (site code : Nat) (raised : Bool) (edge : Edge) (s : State)  (hs : Inv s = true) : Inv (sentinelAlarm site code raised edge s) = true := by
  unfold sentinelAlarm
  with_reducible
    repeat' first
    | assumption | refine chargeLoss_inv _ _ ?_ | refine edgeAlarm_inv _ _ _ _ _ ?_ | refine lateAlarm_inv _ _ ?_
    | refine poisonAlarm_inv _ _ ?_ | refine inv_ite (fun _ => ?_) (fun _ => ?_) | split | dsimp only

theorem execEdgeChange_safe (hub : Nat) (raised : Bool) (edge : Edge) (s : State)  (hs : Inv s = true) : Safe (execEdgeChange hub raised edge s) := by
  unfold execEdgeChange
  with_reducible
    repeat' first
    | assumption | refine setGraph_inv _ _ ?_ | refine arrive_safe _ _ _ (fun _ _ => ?_) ?_ | refine safe_next.2 ?_
    | refine safe_ite (fun _ => ?_) (fun _ => ?_) | refine inv_ite (fun _ => ?_) (fun _ => ?_) | split | dsimp only

theorem fenceSite_inv (site : Nat) (s : State)  (hs : Inv s = true) : Inv (fenceSite site s) = true := by
  unfold fenceSite
  with_reducible
    repeat' first
    | assumption | refine endStream_inv _ _ _ ?_ | refine fenceIdle_inv _ _ ?_ | refine modSen_inv _ _ _ ?_
    | refine foldl_inv _ _ (fun _ _ _ => ?_) _ ?_ | refine foldl_fst_inv _ _ (fun _ _ _ => ?_) _ ?_
    | refine foldl_snd_inv _ _ (fun _ _ _ => ?_) _ ?_ | refine inv_ite (fun _ => ?_) (fun _ => ?_) | split
    | dsimp only

theorem execFence_safe (unit partition cause : Nat) (s : State)  (hs : Inv s = true) : Safe (execFence unit partition cause s) := by
  unfold execFence
  with_reducible
    repeat' first
    | assumption | refine fenceSite_inv _ _ ?_ | refine sendAll_inv _ _ ?_
    | refine arrive_safe _ _ _ (fun _ _ => ?_) ?_ | refine safe_next.2 ?_
    | refine safe_ite (fun _ => ?_) (fun _ => ?_) | refine inv_ite (fun _ => ?_) (fun _ => ?_) | split | dsimp only

theorem execFenceDone_safe (site : Nat) (s : State)  (hs : Inv s = true) : Safe (execFenceDone site s) := by
  unfold execFenceDone
  with_reducible
    repeat' first
    | assumption | refine checkFence_inv _ _ ?_ | refine modPart_inv _ _ _ ?_
    | refine arrive_safe _ _ _ (fun _ _ => ?_) ?_ | refine safe_next.2 ?_
    | refine safe_ite (fun _ => ?_) (fun _ => ?_) | refine inv_ite (fun _ => ?_) (fun _ => ?_) | split | dsimp only

theorem execFenceDeadline_safe (partition : Nat) (s : State)  (hs : Inv s = true) : Safe (execFenceDeadline partition s) := by
  unfold execFenceDeadline
  with_reducible
    repeat' first
    | assumption | refine failFence_inv _ _ _ _ ?_ | refine safe_next.2 ?_
    | refine safe_ite (fun _ => ?_) (fun _ => ?_) | refine inv_ite (fun _ => ?_) (fun _ => ?_) | split | dsimp only

theorem execCommitWaitExpiry_safe (partition : Nat) (s : State)  (hs : Inv s = true) : Safe (execCommitWaitExpiry partition s) := by
  unfold execCommitWaitExpiry
  with_reducible
    repeat' first
    | assumption | refine abortSteps_inv _ _ _ ?_ | refine issueFence_inv _ _ ?_ | refine modPart_inv _ _ _ ?_
    | refine record_inv _ _ _ ?_ | refine safe_next.2 ?_ | refine safe_ite (fun _ => ?_) (fun _ => ?_)
    | refine inv_ite (fun _ => ?_) (fun _ => ?_) | split | dsimp only

theorem execFlitIntoFencedPartition_safe (site : Nat) (expects : Bool) (s : State)  (hs : Inv s = true) : Safe (execFlitIntoFencedPartition site expects s) := by
  unfold execFlitIntoFencedPartition
  with_reducible
    repeat' first
    | assumption | refine countHub_inv _ _ _ _ ?_ | refine modSen_inv _ _ _ ?_ | refine safe_next.2 ?_
    | refine safe_ite (fun _ => ?_) (fun _ => ?_) | refine inv_ite (fun _ => ?_) (fun _ => ?_) | split | dsimp only

theorem execTeardownWritesDrained_safe (partition context reads writes : Nat) (s : State)  (hs : Inv s = true) : Safe (execTeardownWritesDrained partition context reads writes s) := by
  unfold execTeardownWritesDrained
  with_reducible
    repeat' first
    | assumption | refine endTeardown_inv _ _ _ _ _ _ ?_ | refine safe_next.2 ?_
    | refine safe_ite (fun _ => ?_) (fun _ => ?_) | refine inv_ite (fun _ => ?_) (fun _ => ?_) | split | dsimp only

theorem execTeardownWriteTimeout_safe (partition context reads writes : Nat) (s : State)  (hs : Inv s = true) : Safe (execTeardownWriteTimeout partition context reads writes s) := by
  unfold execTeardownWriteTimeout
  with_reducible
    repeat' first
    | assumption | refine endTeardown_inv _ _ _ _ _ _ ?_ | refine modPart_inv _ _ _ ?_ | refine safe_next.2 ?_
    | refine safe_ite (fun _ => ?_) (fun _ => ?_) | refine inv_ite (fun _ => ?_) (fun _ => ?_) | split | dsimp only

theorem hangResolved_inv (p outcome resumed : Nat) (h : Hang) (s : State)  (hs : Inv s = true) : Inv (hangResolved p outcome resumed h s) = true := by
  unfold hangResolved
  with_reducible
    repeat' first
    | assumption | refine record_inv _ _ _ ?_ | refine inv_ite (fun _ => ?_) (fun _ => ?_) | split | dsimp only

theorem finishHang_inv (p : Nat) (h : Hang) (s : State)  (hs : Inv s = true) : Inv (finishHang p h s) = true := by
  unfold finishHang
  with_reducible
    repeat' first
    | assumption | refine hangResolved_inv _ _ _ _ _ ?_ | refine modPart_inv _ _ _ ?_ | refine resumeJob_inv _ _ _ ?_
    | refine inv_ite (fun _ => ?_) (fun _ => ?_) | split | dsimp only

theorem nextReplay_inv (p : Nat) (s : State)  (hs : Inv s = true) : Inv (nextReplay p s) = true := by
  unfold nextReplay
  with_reducible
    repeat' first
    | assumption | refine finishHang_inv _ _ _ ?_ | refine modPart_inv _ _ _ ?_ | refine openStep_inv _ _ _ ?_
    | refine inv_ite (fun _ => ?_) (fun _ => ?_) | split | dsimp only

theorem hangReplay_inv (p outcome : Nat) (h : Hang) (s : State)  (hs : Inv s = true) : Inv (hangReplay p outcome h s) = true := by
  unfold hangReplay
  with_reducible
    repeat' first
    | assumption | refine record_inv _ _ _ ?_ | refine inv_ite (fun _ => ?_) (fun _ => ?_) | split | dsimp only

theorem refuseContext_inv (p outcome : Nat) (s : State)  (hs : Inv s = true) : Inv (refuseContext p outcome s) = true := by
  unfold refuseContext
  with_reducible
    repeat' first
    | assumption | refine hangReplay_inv _ _ _ _ ?_ | refine modPart_inv _ _ _ ?_
    | refine inv_ite (fun _ => ?_) (fun _ => ?_) | split | dsimp only

theorem replayEnded_inv (p site : Nat) (s : State)  (hs : Inv s = true) : Inv (replayEnded p site s) = true := by
  unfold replayEnded
  with_reducible
    repeat' first
    | assumption | refine hangReplay_inv _ _ _ _ ?_ | refine modPart_inv _ _ _ ?_ | refine nextReplay_inv _ _ ?_
    | refine inv_ite (fun _ => ?_) (fun _ => ?_) | split | dsimp only

theorem execReplayStepLimitExpiry_safe (partition : Nat) (s : State)  (hs : Inv s = true) : Safe (execReplayStepLimitExpiry partition s) := by
  unfold execReplayStepLimitExpiry
  with_reducible
    repeat' first
    | assumption | refine refuseContext_inv _ _ _ ?_ | refine startFence_inv _ _ _ _ _ ?_ | refine safe_next.2 ?_
    | refine safe_ite (fun _ => ?_) (fun _ => ?_) | refine inv_ite (fun _ => ?_) (fun _ => ?_) | split | dsimp only

theorem endRepeats_inv (site : Nat) (s : State)  (hs : Inv s = true) : Inv (endRepeats site s) = true := by
  unfold endRepeats
  with_reducible
    repeat' first
    | assumption | refine endUnavailable_inv _ _ _ ?_ | refine modHub_inv _ _ _ ?_ | refine serveRepeat_inv _ _ ?_
    | refine each_inv _ _ (fun _ _ _ => ?_) _ ?_ | refine inv_ite (fun _ => ?_) (fun _ => ?_) | split | dsimp only

theorem execTileReset_safe (site cause : Nat) (s : State)  (hs : Inv s = true) : Safe (execTileReset site cause s) := by
  unfold execTileReset
  with_reducible
    repeat' first
    | assumption | refine cancelScreen_inv _ _ ?_ | refine endRepeats_inv _ _ ?_ | refine endReplays_inv _ _ ?_
    | refine holdSlot_inv _ _ ?_ | refine modSen_inv _ _ _ ?_ | refine receive_inv _ _ ?_
    | refine resetSentinel_inv _ _ ?_ | refine safe_next.2 ?_ | refine safe_ite (fun _ => ?_) (fun _ => ?_)
    | refine inv_ite (fun _ => ?_) (fun _ => ?_) | split | dsimp only

theorem tileResetEvent_inv (site cause result : Nat) (s : State)  (hs : Inv s = true) : Inv (tileResetEvent site cause result s) = true := by
  unfold tileResetEvent
  with_reducible
    repeat' first
    | assumption | refine record_inv _ _ _ ?_ | refine inv_ite (fun _ => ?_) (fun _ => ?_) | split | dsimp only

theorem clearPartition_inv (p : Nat) (s : State)  (hs : Inv s = true) : Inv (clearPartition p s) = true := by
  unfold clearPartition
  with_reducible
    repeat' first
    | assumption | refine modSen_inv _ _ _ ?_ | refine setAlarm_inv _ _ _ _ _ ?_ | refine setGraph_inv _ _ ?_
    | refine setHub_inv ?_ ?_ | refine hub_wf ?_ | refine Sparse.wf_set ?_ _ _ | refine Sparse.wf_upd ?_ _ _
    | refine Sparse.wf_mapAll ?_ _ | exact Sparse.wf_nil | exact Sparse.wf_tabulate _ _ (sectors_sorted _)
    | exact Sparse.wf_tabulate _ _ (sites_sorted _) | refine Sparse.wf_foldl _ _ (fun _ _ _ => ?_) _ ?_
    | refine wf_ite (fun _ => ?_) (fun _ => ?_) | refine each_inv _ _ (fun _ _ _ => ?_) _ ?_
    | refine inv_ite (fun _ => ?_) (fun _ => ?_) | split | dsimp only

theorem afterReset_inv (p : Nat) (r : Reset) (s : State)  (hs : Inv s = true) : Inv (afterReset p r s) = true := by
  unfold afterReset
  with_reducible
    repeat' first
    | assumption | refine detachJob_inv _ _ ?_ | refine hangResolved_inv _ _ _ _ _ ?_ | refine nextReplay_inv _ _ ?_
    | refine resumeJob_inv _ _ _ ?_ | refine inv_ite (fun _ => ?_) (fun _ => ?_) | split | dsimp only

theorem finishReset_inv (p : Nat) (s : State)  (hs : Inv s = true) : Inv (finishReset p s) = true := by
  unfold finishReset
  with_reducible
    repeat' first
    | assumption | refine afterReset_inv _ _ _ ?_ | refine clearPartition_inv _ _ ?_
    | refine completeAll_inv _ _ _ _ ?_ | refine modPart_inv _ _ _ ?_ | refine record_inv _ _ _ ?_
    | refine recordPoison_inv _ _ ?_ | refine inv_ite (fun _ => ?_) (fun _ => ?_) | split | dsimp only

theorem failReset_inv (p result channel : Nat) (failed : List Nat) (s : State)  (hs : Inv s = true) : Inv (failReset p result channel failed s) = true := by
  unfold failReset
  with_reducible
    repeat' first
    | assumption | refine chargeLoss_inv _ _ ?_ | refine completeAll_inv _ _ _ _ ?_ | refine goDown_inv _ _ _ ?_
    | refine modPart_inv _ _ _ ?_ | refine record_inv _ _ _ ?_ | refine recordPoison_inv _ _ ?_
    | refine each_inv _ _ (fun _ _ _ => ?_) _ ?_ | refine inv_ite (fun _ => ?_) (fun _ => ?_) | split | dsimp only

theorem checkReset_inv (p : Nat) (s : State)  (hs : Inv s = true) : Inv (checkReset p s) = true := by
  unfold checkReset
  with_reducible
    repeat' first
    | assumption | refine finishReset_inv _ _ ?_ | refine inv_ite (fun _ => ?_) (fun _ => ?_) | split | dsimp only

theorem execResetDone_safe (site : Nat) (s : State)  (hs : Inv s = true) : Safe (execResetDone site s) := by
  unfold execResetDone
  with_reducible
    repeat' first
    | assumption | refine checkReset_inv _ _ ?_ | refine joinPass_inv _ _ _ ?_ | refine modPart_inv _ _ _ ?_
    | refine modSen_inv _ _ _ ?_ | refine raiseWake_inv _ _ ?_ | refine serveFront_inv _ _ ?_
    | refine tileResetEvent_inv _ _ _ _ ?_ | refine arrive_safe _ _ _ (fun _ _ => ?_) ?_ | refine safe_next.2 ?_
    | refine safe_ite (fun _ => ?_) (fun _ => ?_) | refine inv_ite (fun _ => ?_) (fun _ => ?_) | split | dsimp only

theorem execTileResetTimeout_safe (site : Nat) (s : State)  (hs : Inv s = true) : Safe (execTileResetTimeout site s) := by
  unfold execTileResetTimeout
  with_reducible
    repeat' first
    | assumption | refine chargeLoss_inv _ _ ?_ | refine failReset_inv _ _ _ _ _ ?_ | refine modSen_inv _ _ _ ?_
    | refine tileResetEvent_inv _ _ _ _ ?_ | refine safe_next.2 ?_ | refine safe_ite (fun _ => ?_) (fun _ => ?_)
    | refine inv_ite (fun _ => ?_) (fun _ => ?_) | split | dsimp only

theorem execResetMemoryReady_safe (partition failing : Nat) (s : State)  (hs : Inv s = true) : Safe (execResetMemoryReady partition failing s) := by
  unfold execResetMemoryReady
  with_reducible
    repeat' first
    | assumption | refine checkReset_inv _ _ ?_ | refine failReset_inv _ _ _ _ _ ?_ | refine modPart_inv _ _ _ ?_
    | refine safe_next.2 ?_ | refine safe_ite (fun _ => ?_) (fun _ => ?_) | refine inv_ite (fun _ => ?_) (fun _ => ?_)
    | split | dsimp only

end Sys2Proof.Machine
end

