-- ==== Sys2Proof/Laws/InvStop.lean ====
section
/-!
SUPPORT. The invariant through the operations of Machine/Stop.lean.
-/
namespace Sys2Proof.Machine

open Sys2Proof

set_option linter.all false
set_option Elab.async false

theorem completeStop_inv (x : Stop) (s : State)  (hs : Inv s = true) : Inv (completeStop x s) = true := by
  unfold completeStop
  with_reducible
    repeat' first
    | assumption | refine complete_inv _ _ _ _ ?_ | refine each_inv _ _ (fun _ _ _ => ?_) _ ?_
    | refine inv_ite (fun _ => ?_) (fun _ => ?_) | split | dsimp only

theorem markStopped_inv (p : Nat) (s : State)  (hs : Inv s = true) : Inv (markStopped p s) = true := by
  unfold markStopped
  with_reducible
    repeat' first
    | assumption | refine modPart_inv _ _ _ ?_ | refine inv_ite (fun _ => ?_) (fun _ => ?_) | split | dsimp only

theorem checkStopped_inv (s : State)  (hs : Inv s = true) : Inv (checkStopped s) = true := by
  unfold checkStopped
  with_reducible
    repeat' first
    | assumption | refine completeStop_inv _ _ ?_ | refine markStopped_inv _ _ ?_ | refine record_inv _ _ _ ?_
    | refine setSlot_inv _ _ ?_ | refine setStop_inv _ _ ?_ | refine each_inv _ _ (fun _ _ _ => ?_) _ ?_
    | refine foldl_inv _ _ (fun _ _ _ => ?_) _ ?_ | refine foldl_fst_inv _ _ (fun _ _ _ => ?_) _ ?_
    | refine foldl_snd_inv _ _ (fun _ _ _ => ?_) _ ?_ | refine inv_ite (fun _ => ?_) (fun _ => ?_) | split
    | dsimp only

theorem haltSite_inv (site n : Nat) (s : State)  (hs : Inv s = true) : Inv (haltSite site n s) = true := by
  unfold haltSite
  with_reducible
    repeat' first
    | assumption | refine discardRun_inv _ _ _ ?_ | refine modSen_inv _ _ _ ?_ | refine modStop_inv _ _ ?_
    | refine inv_ite (fun _ => ?_) (fun _ => ?_) | split | dsimp only

theorem execStopSlot_safe (site : Nat) (n : Dword) (s : State)  (hs : Inv s = true) : Safe (execStopSlot site n s) := by
  unfold execStopSlot
  with_reducible
    repeat' first
    | assumption | refine checkStopped_inv _ ?_ | refine haltSite_inv _ _ _ ?_ | refine modSen_inv _ _ _ ?_
    | refine modStop_inv _ _ ?_ | refine respond_inv _ _ _ _ _ ?_ | refine arrive_safe _ _ _ (fun _ _ => ?_) ?_
    | refine safe_next.2 ?_ | refine safe_ite (fun _ => ?_) (fun _ => ?_) | refine inv_ite (fun _ => ?_) (fun _ => ?_)
    | split | dsimp only

theorem execStopSlotReached_safe (site : Nat) (s : State)  (hs : Inv s = true) : Safe (execStopSlotReached site s) := by
  unfold execStopSlotReached
  with_reducible
    repeat' first
    | assumption | refine checkStopped_inv _ ?_ | refine haltSite_inv _ _ _ ?_ | refine setSlot_inv _ _ ?_
    | refine safe_next.2 ?_ | refine safe_ite (fun _ => ?_) (fun _ => ?_) | refine inv_ite (fun _ => ?_) (fun _ => ?_)
    | split | dsimp only

theorem execStopCodeDecoded_safe (site : Nat) (slot : Dword) (s : State)  (hs : Inv s = true) : Safe (execStopCodeDecoded site slot s) := by
  unfold execStopCodeDecoded
  with_reducible
    repeat' first
    | assumption | refine checkStopped_inv _ ?_ | refine haltSite_inv _ _ _ ?_ | refine safe_next.2 ?_
    | refine safe_ite (fun _ => ?_) (fun _ => ?_) | refine inv_ite (fun _ => ?_) (fun _ => ?_) | split | dsimp only

theorem stopImmediately_inv (seqs : List Nat) (s : State)  (hs : Inv s = true) : Inv (stopImmediately seqs s) = true := by
  unfold stopImmediately
  with_reducible
    repeat' first
    | assumption | refine checkStopped_inv _ ?_ | refine modSen_inv _ _ _ ?_ | refine modStop_inv _ _ ?_
    | refine each_inv _ _ (fun _ _ _ => ?_) _ ?_ | refine inv_ite (fun _ => ?_) (fun _ => ?_) | split | dsimp only

theorem execStopAtSlot_safe (seq : Nat) (s : State)  (hs : Inv s = true) : Safe (execStopAtSlot seq s) := by
  unfold execStopAtSlot
  with_reducible
    repeat' first
    | assumption | refine checkStopped_inv _ ?_ | refine modStop_inv _ _ ?_ | refine sendAll_inv _ _ ?_
    | refine waitFor_inv _ _ _ _ _ _ ?_ | refine runCmd_safe _ _ _ _ ?_ ?_ | refine safe_next.2 ?_
    | refine safe_ite (fun _ => ?_) (fun _ => ?_) | refine inv_ite (fun _ => ?_) (fun _ => ?_) | split | dsimp only

theorem execStopNow_safe (seq : Nat) (s : State)  (hs : Inv s = true) : Safe (execStopNow seq s) := by
  unfold execStopNow
  with_reducible
    repeat' first
    | assumption | refine stopImmediately_inv _ _ ?_ | refine waitFor_inv _ _ _ _ _ _ ?_
    | refine runCmd_safe _ _ _ _ ?_ ?_ | refine safe_next.2 ?_ | refine safe_ite (fun _ => ?_) (fun _ => ?_)
    | refine inv_ite (fun _ => ?_) (fun _ => ?_) | split | dsimp only

theorem requestStop_inv (site : Nat) (s : State)  (hs : Inv s = true) : Inv (requestStop site s) = true := by
  unfold requestStop
  with_reducible
    repeat' first
    | assumption | refine stopImmediately_inv _ _ ?_ | refine waitFor_inv _ _ _ _ _ _ ?_
    | refine inv_ite (fun _ => ?_) (fun _ => ?_) | split | dsimp only

theorem execStopRequest_safe (site : Nat) (s : State)  (hs : Inv s = true) : Safe (execStopRequest site s) := by
  unfold execStopRequest
  with_reducible
    repeat' first
    | assumption | refine requestStop_inv _ _ ?_ | refine respond_inv _ _ _ _ _ ?_
    | refine arrive_safe _ _ _ (fun _ _ => ?_) ?_ | refine safe_next.2 ?_
    | refine safe_ite (fun _ => ?_) (fun _ => ?_) | refine inv_ite (fun _ => ?_) (fun _ => ?_) | split | dsimp only

theorem execStopRelease_safe (seq : Nat) (s : State)  (hs : Inv s = true) : Safe (execStopRelease seq s) := by
  unfold execStopRelease
  with_reducible
    repeat' first
    | assumption | refine releaseStop_inv _ _ _ ?_ | refine runCmd_safe _ _ _ _ ?_ ?_ | refine safe_next.2 ?_
    | refine safe_ite (fun _ => ?_) (fun _ => ?_) | refine inv_ite (fun _ => ?_) (fun _ => ?_) | split | dsimp only

theorem execStopReleaseMessage_safe (site : Nat) (sMin : Dword) (s : State)  (hs : Inv s = true) : Safe (execStopReleaseMessage site sMin s) := by
  unfold execStopReleaseMessage
  with_reducible
    repeat' first
    | assumption | refine modSen_inv _ _ _ ?_ | refine respond_inv _ _ _ _ _ ?_
    | refine arrive_safe _ _ _ (fun _ _ => ?_) ?_ | refine safe_next.2 ?_
    | refine safe_ite (fun _ => ?_) (fun _ => ?_) | refine inv_ite (fun _ => ?_) (fun _ => ?_) | split | dsimp only

theorem execTileRestart_safe (site : Nat) (s : State)  (hs : Inv s = true) : Safe (execTileRestart site s) := by
  unfold execTileRestart
  with_reducible
    repeat' first
    | assumption | refine finishRelease_inv _ ?_ | refine modSen_inv _ _ _ ?_ | refine modStop_inv _ _ ?_
    | refine safe_next.2 ?_ | refine safe_ite (fun _ => ?_) (fun _ => ?_) | refine inv_ite (fun _ => ?_) (fun _ => ?_)
    | split | dsimp only

theorem endAllRepeats_inv (s : State)  (hs : Inv s = true) : Inv (endAllRepeats s) = true := by
  unfold endAllRepeats
  with_reducible
    repeat' first
    | assumption | refine endRepeats_inv _ _ ?_ | refine each_inv _ _ (fun _ _ _ => ?_) _ ?_
    | refine inv_ite (fun _ => ?_) (fun _ => ?_) | split | dsimp only

theorem execScanOut_safe (seq : Nat) (absent : List Nat) (time : Nat) (expired : Bool) (s : State)  (hs : Inv s = true) : Safe (execScanOut seq absent time expired s) := by
  unfold execScanOut
  with_reducible
    repeat' first
    | assumption | refine complete_inv _ _ _ _ ?_ | refine endAllRepeats_inv _ ?_ | refine modStop_inv _ _ ?_
    | refine record_inv _ _ _ ?_ | refine setScanId_inv _ _ ?_ | refine dramWrite_inv _ _ ?_
    | refine setDram_inv nil_wf ?_ | refine each_inv _ _ (fun _ _ _ => ?_) _ ?_ | refine runCmd_safe _ _ _ _ ?_ ?_
    | refine safe_next.2 ?_ | refine safe_ite (fun _ => ?_) (fun _ => ?_) | refine inv_ite (fun _ => ?_) (fun _ => ?_)
    | split | dsimp only

end Sys2Proof.Machine
end

