-- ==== Sys2Proof/Laws/InvHangs.lean ====
section
/-!
SUPPORT. The invariant through the operations of Machine/Hangs.lean.
-/
namespace Sys2Proof.Machine

open Sys2Proof

set_option linter.all false
set_option Elab.async false

theorem tickQueue_inv (site n : Nat) (s : State)  (hs : Inv s = true) : Inv (tickQueue site n s) = true := by
  unfold tickQueue
  with_reducible
    repeat' first
    | assumption | refine countSen_inv _ _ _ _ ?_ | refine modSen_inv _ _ _ ?_ | refine pushAlarm_inv _ _ _ ?_
    | refine inv_ite (fun _ => ?_) (fun _ => ?_) | split | dsimp only

theorem execEdgeTick_safe (site : Nat) (s : State)  (hs : Inv s = true) : Safe (execEdgeTick site s) := by
  unfold execEdgeTick
  with_reducible
    repeat' first
    | assumption | refine modSen_inv _ _ _ ?_ | refine tickQueue_inv _ _ _ ?_
    | refine each_inv _ _ (fun _ _ _ => ?_) _ ?_ | refine arrive_safe _ _ _ (fun _ _ => ?_) ?_ | refine safe_next.2 ?_
    | refine safe_ite (fun _ => ?_) (fun _ => ?_) | refine inv_ite (fun _ => ?_) (fun _ => ?_) | split | dsimp only

theorem hangDetected_inv (p cause : Nat) (path : List Edge) (s : State)  (hs : Inv s = true) : Inv (hangDetected p cause path s) = true := by
  unfold hangDetected
  with_reducible
    repeat' first
    | assumption | refine record_inv _ _ _ ?_ | refine foldl_inv _ _ (fun _ _ _ => ?_) _ ?_
    | refine foldl_fst_inv _ _ (fun _ _ _ => ?_) _ ?_ | refine foldl_snd_inv _ _ (fun _ _ _ => ?_) _ ?_
    | refine inv_ite (fun _ => ?_) (fun _ => ?_) | split | dsimp only

theorem fenceHang_inv (p : Nat) (s : State)  (hs : Inv s = true) : Inv (fenceHang p s) = true := by
  unfold fenceHang
  with_reducible
    repeat' first
    | assumption | refine modPart_inv _ _ _ ?_ | refine startFence_inv _ _ _ _ _ ?_
    | refine inv_ite (fun _ => ?_) (fun _ => ?_) | split | dsimp only

theorem declareHang_inv (p cause : Nat) (path : List Edge) (s : State)  (hs : Inv s = true) : Inv (declareHang p cause path s) = true := by
  unfold declareHang
  with_reducible
    repeat' first
    | assumption | refine fenceHang_inv _ _ ?_ | refine hangDetected_inv _ _ _ _ ?_ | refine modPart_inv _ _ _ ?_
    | refine refuseContext_inv _ _ _ ?_ | refine takeSnapshot_inv _ _ _ _ _ ?_
    | refine each_inv _ _ (fun _ _ _ => ?_) _ ?_ | refine inv_ite (fun _ => ?_) (fun _ => ?_) | split | dsimp only

theorem searchPartition_inv (p : Nat) (s : State)  (hs : Inv s = true) : Inv (searchPartition p s) = true := by
  unfold searchPartition
  with_reducible
    repeat' first
    | assumption | refine declareHang_inv _ _ _ _ ?_ | refine inv_ite (fun _ => ?_) (fun _ => ?_) | split | dsimp only

theorem execWaitForSearchTimer_safe (s : State)  (hs : Inv s = true) : Safe (execWaitForSearchTimer s) := by
  unfold execWaitForSearchTimer
  with_reducible
    repeat' first
    | assumption | refine searchPartition_inv _ _ ?_ | refine each_inv _ _ (fun _ _ _ => ?_) _ ?_
    | refine safe_next.2 ?_ | refine safe_ite (fun _ => ?_) (fun _ => ?_) | refine inv_ite (fun _ => ?_) (fun _ => ?_)
    | split | dsimp only

theorem takeAnswers_inv (p hub : Nat) (sites : List SnapSite) (edges : List Edge) (s : State)  (hs : Inv s = true) : Inv (takeAnswers p hub sites edges s) = true := by
  unfold takeAnswers
  with_reducible
    repeat' first
    | assumption | refine fenceHang_inv _ _ ?_ | refine finishSnapshot_inv _ _ ?_ | refine modPart_inv _ _ _ ?_
    | refine foldl_inv _ _ (fun _ _ _ => ?_) _ ?_ | refine foldl_fst_inv _ _ (fun _ _ _ => ?_) _ ?_
    | refine foldl_snd_inv _ _ (fun _ _ _ => ?_) _ ?_ | refine inv_ite (fun _ => ?_) (fun _ => ?_) | split
    | dsimp only

theorem execSnapshotPart_safe (hub partition : Nat) (sites : List SnapSite) (edges : List Edge) (s : State)  (hs : Inv s = true) : Safe (execSnapshotPart hub partition sites edges s) := by
  unfold execSnapshotPart
  with_reducible
    repeat' first
    | assumption | refine takeAnswers_inv _ _ _ _ _ ?_ | refine arrive_safe _ _ _ (fun _ _ => ?_) ?_
    | refine safe_next.2 ?_ | refine safe_ite (fun _ => ?_) (fun _ => ?_) | refine inv_ite (fun _ => ?_) (fun _ => ?_)
    | split | dsimp only

theorem execSnapshotSiteTimeout_safe (site : Nat) (s : State)  (hs : Inv s = true) : Safe (execSnapshotSiteTimeout site s) := by
  unfold execSnapshotSiteTimeout
  with_reducible
    repeat' first
    | assumption | refine takeAnswers_inv _ _ _ _ _ ?_ | refine safe_next.2 ?_
    | refine safe_ite (fun _ => ?_) (fun _ => ?_) | refine inv_ite (fun _ => ?_) (fun _ => ?_) | split | dsimp only

end Sys2Proof.Machine
end

