-- ==== Sys2Proof/Laws/InvSafetyNet.lean ====
section
/-!
SUPPORT. The invariant through the operations of Machine/SafetyNet.lean.
-/
namespace Sys2Proof.Machine

open Sys2Proof

set_option linter.all false
set_option Elab.async false

theorem safetyNetLost_inv (p tile : Nat) (s : State)  (hs : Inv s = true) : Inv (safetyNetLost p tile s) = true := by
  unfold safetyNetLost
  with_reducible
    repeat' first
    | assumption | refine record_inv _ _ _ ?_ | refine startFence_inv _ _ _ _ _ ?_
    | refine inv_ite (fun _ => ?_) (fun _ => ?_) | split | dsimp only

theorem replayFill_inv (p tile st c : Nat) (s : State)  (hs : Inv s = true) : Inv (replayFill p tile st c s) = true := by
  unfold replayFill
  with_reducible
    repeat' first
    | assumption | refine coreSend_inv _ _ _ _ ?_ | refine modPart_inv _ _ _ ?_ | refine record_inv _ _ _ ?_
    | refine setCoreTag_inv _ _ ?_ | refine inv_ite (fun _ => ?_) (fun _ => ?_) | split | dsimp only

theorem residentFill_inv (p : Nat) (w : Swap) (src : Nat) (s : State)  (hs : Inv s = true) : Inv (residentFill p w src s) = true := by
  unfold residentFill
  with_reducible
    repeat' first
    | assumption | refine modSwap_inv _ _ _ _ ?_ | refine replayFill_inv _ _ _ _ _ ?_
    | refine safetyNetLost_inv _ _ _ ?_ | refine inv_ite (fun _ => ?_) (fun _ => ?_) | split | dsimp only

theorem mirrorFill_inv (p : Nat) (w : Swap) (src : Nat) (s : State)  (hs : Inv s = true) : Inv (mirrorFill p w src s) = true := by
  unfold mirrorFill
  with_reducible
    repeat' first
    | assumption | refine modSwap_inv _ _ _ _ ?_ | refine inv_ite (fun _ => ?_) (fun _ => ?_) | split | dsimp only

theorem tryFills_inv (p : Nat) (s : State)  (hs : Inv s = true) : Inv (tryFills p s) = true := by
  unfold tryFills
  with_reducible
    repeat' first
    | assumption | refine mirrorFill_inv _ _ _ _ ?_ | refine modPart_inv _ _ _ ?_ | refine modSwap_inv _ _ _ _ ?_
    | refine pruneCopies_inv _ _ ?_ | refine residentFill_inv _ _ _ _ ?_ | refine each_inv _ _ (fun _ _ _ => ?_) _ ?_
    | refine inv_ite (fun _ => ?_) (fun _ => ?_) | split | dsimp only

theorem lostWithoutSpare_inv (p : Nat) (s : State)  (hs : Inv s = true) : Inv (lostWithoutSpare p s) = true := by
  unfold lostWithoutSpare
  with_reducible
    repeat' first
    | assumption | refine degrade_inv _ _ _ _ ?_ | refine startFence_inv _ _ _ _ _ ?_
    | refine inv_ite (fun _ => ?_) (fun _ => ?_) | split | dsimp only

theorem checkBoundary_inv (p : Nat) (s : State)  (hs : Inv s = true) : Inv (checkBoundary p s) = true := by
  unfold checkBoundary
  with_reducible
    repeat' first
    | assumption | refine lostWithoutSpare_inv _ _ ?_ | refine modPart_inv _ _ _ ?_ | refine openNext_inv _ _ ?_
    | refine inv_ite (fun _ => ?_) (fun _ => ?_) | split | dsimp only

theorem retrySwaps_inv (p : Nat) (s : State)  (hs : Inv s = true) : Inv (retrySwaps p s) = true := by
  unfold retrySwaps
  with_reducible
    repeat' first
    | assumption | refine addSwap_inv _ _ _ _ _ _ ?_ | refine each_inv _ _ (fun _ _ _ => ?_) _ ?_
    | refine inv_ite (fun _ => ?_) (fun _ => ?_) | split | dsimp only

theorem startBoundary_inv (p : Nat) (s : State)  (hs : Inv s = true) : Inv (startBoundary p s) = true := by
  unfold startBoundary
  with_reducible
    repeat' first
    | assumption | refine checkBoundary_inv _ _ ?_ | refine modPart_inv _ _ _ ?_ | refine prepareSwap_inv _ _ _ _ ?_
    | refine retrySwaps_inv _ _ ?_ | refine tryFills_inv _ _ ?_ | refine each_inv _ _ (fun _ _ _ => ?_) _ ?_
    | refine inv_ite (fun _ => ?_) (fun _ => ?_) | split | dsimp only

theorem resumeBoundary_inv (p : Nat) (s : State)  (hs : Inv s = true) : Inv (resumeBoundary p s) = true := by
  unfold resumeBoundary
  with_reducible
    repeat' first
    | assumption | refine checkBoundary_inv _ _ ?_ | refine tryFills_inv _ _ ?_
    | refine inv_ite (fun _ => ?_) (fun _ => ?_) | split | dsimp only

theorem resumeBoundaries_inv (s : State)  (hs : Inv s = true) : Inv (resumeBoundaries s) = true := by
  unfold resumeBoundaries
  with_reducible
    repeat' first
    | assumption | refine resumeBoundary_inv _ _ ?_ | refine each_inv _ _ (fun _ _ _ => ?_) _ ?_
    | refine inv_ite (fun _ => ?_) (fun _ => ?_) | split | dsimp only

theorem execTakeoverFillComplete_safe (tile : Nat) (resFailed mirFailed : Bool) (s : State)  (hs : Inv s = true) : Safe (execTakeoverFillComplete tile resFailed mirFailed s) := by
  unfold execTakeoverFillComplete
  with_reducible
    repeat' first
    | assumption | refine mirrorFill_inv _ _ _ _ ?_ | refine modSwap_inv _ _ _ _ ?_
    | refine residentFill_inv _ _ _ _ ?_ | refine resumeBoundary_inv _ _ ?_ | refine safe_next.2 ?_
    | refine safe_ite (fun _ => ?_) (fun _ => ?_) | refine inv_ite (fun _ => ?_) (fun _ => ?_) | split | dsimp only

theorem execReplayDone_safe (partition result tile _lastStep length tag : Nat) (s : State)  (hs : Inv s = true) : Safe (execReplayDone partition result tile _lastStep length tag s) := by
  unfold execReplayDone
  with_reducible
    repeat' first
    | assumption | refine checkBoundary_inv _ _ ?_ | refine coreNak_inv _ _ _ ?_ | refine modPart_inv _ _ _ ?_
    | refine safetyNetLost_inv _ _ _ ?_ | refine safe_next.2 ?_ | refine safe_ite (fun _ => ?_) (fun _ => ?_)
    | refine inv_ite (fun _ => ?_) (fun _ => ?_) | split | dsimp only

theorem execReplayDoneTimeout_safe (partition tile : Nat) (s : State)  (hs : Inv s = true) : Safe (execReplayDoneTimeout partition tile s) := by
  unfold execReplayDoneTimeout
  with_reducible
    repeat' first
    | assumption | refine safetyNetLost_inv _ _ _ ?_ | refine safe_next.2 ?_
    | refine safe_ite (fun _ => ?_) (fun _ => ?_) | refine inv_ite (fun _ => ?_) (fun _ => ?_) | split | dsimp only

theorem execAlarmLevel_safe (unit code : Nat) (raised : Bool) (edge : Edge) (s : State)  (hs : Inv s = true) : Safe (execAlarmLevel unit code raised edge s) := by
  unfold execAlarmLevel
  with_reducible
    repeat' first
    | assumption | refine modHub_inv _ _ _ ?_ | refine modThrottle_inv _ _ ?_ | refine raiseAlert_inv _ _ ?_
    | refine raiseFatal_inv _ _ ?_ | refine resumeBoundaries_inv _ ?_ | refine sentinelAlarm_inv _ _ _ _ _ ?_
    | refine arrive_safe _ _ _ (fun _ _ => ?_) ?_ | refine safe_next.2 ?_
    | refine safe_ite (fun _ => ?_) (fun _ => ?_) | refine inv_ite (fun _ => ?_) (fun _ => ?_) | split | dsimp only

end Sys2Proof.Machine
end

