-- ==== Sys2Proof/Laws/InvStepVerdict.lean ====
section
/-!
SUPPORT. The invariant through the operations of Machine/StepVerdict.lean.
-/
namespace Sys2Proof.Machine

open Sys2Proof

set_option linter.all false
set_option Elab.async false

theorem answerBoundary_inv (p step : Nat) (s : State)  (hs : Inv s = true) : Inv (answerBoundary p step s) = true := by
  unfold answerBoundary
  with_reducible
    repeat' first
    | assumption | refine completeAll_inv _ _ _ _ ?_ | refine modPart_inv _ _ _ ?_
    | refine inv_ite (fun _ => ?_) (fun _ => ?_) | split | dsimp only

theorem endBoundary_inv (p step flags : Nat) (s : State)  (hs : Inv s = true) : Inv (endBoundary p step flags s) = true := by
  unfold endBoundary
  with_reducible
    repeat' first
    | assumption | refine answerBoundary_inv _ _ _ ?_ | refine finishLoad_inv _ _ ?_
    | refine inv_ite (fun _ => ?_) (fun _ => ?_) | split | dsimp only

theorem execStepBoundary_safe (hub partition step : Nat) (sk : Dword) (flags : Nat) (s : State)  (hs : Inv s = true) : Safe (execStepBoundary hub partition step sk flags s) := by
  unfold execStepBoundary
  with_reducible
    repeat' first
    | assumption | refine endBoundary_inv _ _ _ _ ?_ | refine loadSample_inv _ _ ?_ | refine modHub_inv _ _ _ ?_
    | refine modSen_inv _ _ _ ?_ | refine respond_inv _ _ _ _ _ ?_ | refine switchHub_inv _ _ _ ?_
    | refine each_inv _ _ (fun _ _ _ => ?_) _ ?_ | refine arrive_safe _ _ _ (fun _ _ => ?_) ?_ | refine safe_next.2 ?_
    | refine safe_ite (fun _ => ?_) (fun _ => ?_) | refine inv_ite (fun _ => ?_) (fun _ => ?_) | split | dsimp only

theorem execStepLastComplete_safe (site : Nat) (s : State)  (hs : Inv s = true) : Safe (execStepLastComplete site s) := by
  unfold execStepLastComplete
  with_reducible
    repeat' first
    | assumption | refine modPart_inv _ _ _ ?_ | refine modSen_inv _ _ _ ?_ | refine replayEnded_inv _ _ _ ?_
    | refine foldl_inv _ _ (fun _ _ _ => ?_) _ ?_ | refine foldl_fst_inv _ _ (fun _ _ _ => ?_) _ ?_
    | refine foldl_snd_inv _ _ (fun _ _ _ => ?_) _ ?_ | refine safe_next.2 ?_
    | refine safe_ite (fun _ => ?_) (fun _ => ?_) | refine inv_ite (fun _ => ?_) (fun _ => ?_) | split | dsimp only

theorem execLedger_safe (site : Nat) (entry : LedgerEntry) (s : State)  (hs : Inv s = true) : Safe (execLedger site entry s) := by
  unfold execLedger
  with_reducible
    repeat' first
    | assumption | refine modHub_inv _ _ _ ?_ | refine arrive_safe _ _ _ (fun _ _ => ?_) ?_ | refine safe_next.2 ?_
    | refine safe_ite (fun _ => ?_) (fun _ => ?_) | refine inv_ite (fun _ => ?_) (fun _ => ?_) | split | dsimp only

theorem stepEndEvents_inv (h step : Nat) (c : Collect) (s : State)  (hs : Inv s = true) : Inv (stepEndEvents h step c s) = true := by
  exact Inv_of_get (fun φ hφ => stepEndEvents_get (notMem_of hφ rfl) _ _ _ _) hs

theorem sendContribution_inv (h p : Nat) (s : State)  (hs : Inv s = true) : Inv (sendContribution h p s) = true := by
  unfold sendContribution
  with_reducible
    repeat' first
    | assumption | refine modHub_inv _ _ _ ?_ | refine send_inv _ _ ?_ | refine stepEndEvents_inv _ _ _ _ ?_
    | refine inv_ite (fun _ => ?_) (fun _ => ?_) | split | dsimp only

theorem checkContribution_inv (h p : Nat) (s : State)  (hs : Inv s = true) : Inv (checkContribution h p s) = true := by
  unfold checkContribution
  with_reducible
    repeat' first
    | assumption | refine sendContribution_inv _ _ _ ?_ | refine inv_ite (fun _ => ?_) (fun _ => ?_) | split
    | dsimp only

theorem execStepDone_safe (site : Nat) (item : StepDoneItem) (s : State)  (hs : Inv s = true) : Safe (execStepDone site item s) := by
  unfold execStepDone
  with_reducible
    repeat' first
    | assumption | refine checkContribution_inv _ _ _ ?_ | refine countHub_inv _ _ _ _ ?_ | refine modHub_inv _ _ _ ?_
    | refine noteLineage_inv _ _ _ ?_ | refine each_inv _ _ (fun _ _ _ => ?_) _ ?_
    | refine arrive_safe _ _ _ (fun _ _ => ?_) ?_ | refine safe_next.2 ?_
    | refine safe_ite (fun _ => ?_) (fun _ => ?_) | refine inv_ite (fun _ => ?_) (fun _ => ?_) | split | dsimp only

theorem execStepDoneWaitExpiry_safe (hub partition : Nat) (s : State)  (hs : Inv s = true) : Safe (execStepDoneWaitExpiry hub partition s) := by
  unfold execStepDoneWaitExpiry
  with_reducible
    repeat' first
    | assumption | refine modHub_inv _ _ _ ?_ | refine sendAll_inv _ _ ?_ | refine safe_next.2 ?_
    | refine safe_ite (fun _ => ?_) (fun _ => ?_) | refine inv_ite (fun _ => ?_) (fun _ => ?_) | split | dsimp only

theorem giveUpDone_inv (site : Nat) (loss : Bool) (s : State)  (hs : Inv s = true) : Inv (giveUpDone site loss s) = true := by
  unfold giveUpDone
  with_reducible
    repeat' first
    | assumption | refine checkContribution_inv _ _ _ ?_ | refine loseSentinel_inv _ _ ?_ | refine modHub_inv _ _ _ ?_
    | refine resumeBoundaries_inv _ ?_ | refine inv_ite (fun _ => ?_) (fun _ => ?_) | split | dsimp only

theorem readAnswered_inv (unit offset count : Nat) (s : State)  (hs : Inv s = true) : Inv (readAnswered unit offset count s) = true := by
  unfold readAnswered
  with_reducible
    repeat' first
    | assumption | refine giveUpDone_inv _ _ _ ?_ | refine inv_ite (fun _ => ?_) (fun _ => ?_) | split | dsimp only

theorem execRead_safe (unit offset count tag : Nat) (s : State)  (hs : Inv s = true) : Safe (execRead unit offset count tag s) := by
  unfold execRead
  with_reducible
    repeat' first
    | assumption | refine hubRead_inv _ _ _ _ _ ?_ | refine readAnswered_inv _ _ _ _ ?_
    | refine senRead_inv _ _ _ _ _ ?_ | refine waitUnit_inv _ _ _ _ ?_ | refine waitWake_inv _ _ _ ?_
    | refine arrive_safe _ _ _ (fun _ _ => ?_) ?_ | refine safe_next.2 ?_
    | refine safe_ite (fun _ => ?_) (fun _ => ?_) | refine inv_ite (fun _ => ?_) (fun _ => ?_) | split | dsimp only

theorem execSentinelReadTimeout_safe (site : Nat) (s : State)  (hs : Inv s = true) : Safe (execSentinelReadTimeout site s) := by
  unfold execSentinelReadTimeout
  with_reducible
    repeat' first
    | assumption | refine giveUpDone_inv _ _ _ ?_ | refine safe_next.2 ?_
    | refine safe_ite (fun _ => ?_) (fun _ => ?_) | refine inv_ite (fun _ => ?_) (fun _ => ?_) | split | dsimp only

theorem ledgerEvent_inv (root step : Nat) (e : LedgerEntry) (s : State)  (hs : Inv s = true) : Inv (ledgerEvent root step e s) = true := by
  exact Inv_of_get (fun φ hφ => ledgerEvent_get (notMem_of hφ rfl) _ _ _ _) hs

theorem issueToken_inv (p : Nat) (s : State)  (hs : Inv s = true) : Inv (issueToken p s) = true := by
  unfold issueToken
  with_reducible
    repeat' first
    | assumption | refine countHub_inv _ _ _ _ ?_ | refine ledgerEvent_inv _ _ _ _ ?_ | refine modPart_inv _ _ _ ?_
    | refine send_inv _ _ ?_ | refine each_inv _ _ (fun _ _ _ => ?_) _ ?_ | refine inv_ite (fun _ => ?_) (fun _ => ?_)
    | split | dsimp only

theorem formToken_inv (p : Nat) (s : State)  (hs : Inv s = true) : Inv (formToken p s) = true := by
  unfold formToken
  with_reducible
    repeat' first
    | assumption | refine issueToken_inv _ _ ?_ | refine inv_ite (fun _ => ?_) (fun _ => ?_) | split | dsimp only

theorem execContribution_safe (hub partition step : Nat) (failed : Word) (groups : List LedgerEntry) (s : State)  (hs : Inv s = true) : Safe (execContribution hub partition step failed groups s) := by
  unfold execContribution
  with_reducible
    repeat' first
    | assumption | refine formToken_inv _ _ ?_ | refine modPart_inv _ _ _ ?_
    | refine foldl_inv _ _ (fun _ _ _ => ?_) _ ?_ | refine foldl_fst_inv _ _ (fun _ _ _ => ?_) _ ?_
    | refine foldl_snd_inv _ _ (fun _ _ _ => ?_) _ ?_ | refine arrive_safe _ _ _ (fun _ _ => ?_) ?_
    | refine safe_next.2 ?_ | refine safe_ite (fun _ => ?_) (fun _ => ?_) | refine inv_ite (fun _ => ?_) (fun _ => ?_)
    | split | dsimp only

theorem execSealVerdict_safe (unit partition lineage test step seq : Nat) (info : SealInfo) (s : State)  (hs : Inv s = true) : Safe (execSealVerdict unit partition lineage test step seq info s) := by
  unfold execSealVerdict
  with_reducible
    repeat' first
    | assumption | refine failItem_inv _ _ _ ?_ | refine lateDetection_inv _ _ _ _ _ _ _ ?_
    | refine modPart_inv _ _ _ ?_ | refine arrive_safe _ _ _ (fun _ _ => ?_) ?_ | refine safe_next.2 ?_
    | refine safe_ite (fun _ => ?_) (fun _ => ?_) | refine inv_ite (fun _ => ?_) (fun _ => ?_) | split | dsimp only

theorem checkRelease_inv (p : Nat) (s : State)  (hs : Inv s = true) : Inv (checkRelease p s) = true := by
  unfold checkRelease
  with_reducible
    repeat' first
    | assumption | refine modPart_inv _ _ _ ?_ | refine send_inv _ _ ?_ | refine inv_ite (fun _ => ?_) (fun _ => ?_)
    | split | dsimp only

theorem judgeEntry_inv (p n : Nat) (t : Trailer) (s : State)  (hs : Inv s = true) : Inv (judgeEntry p n t s) = true := by
  unfold judgeEntry
  with_reducible
    repeat' first
    | assumption | refine modPart_inv _ _ _ ?_ | refine record_inv _ _ _ ?_
    | refine inv_ite (fun _ => ?_) (fun _ => ?_) | split | dsimp only

theorem judgeTrailer_inv (p : Nat) (t : Trailer) (s : State)  (hs : Inv s = true) : Inv (judgeTrailer p t s) = true := by
  unfold judgeTrailer
  with_reducible
    repeat' first
    | assumption | refine checkRelease_inv _ _ ?_ | refine judgeEntry_inv _ _ _ _ ?_ | refine modPart_inv _ _ _ ?_
    | refine each_inv _ _ (fun _ _ _ => ?_) _ ?_ | refine inv_ite (fun _ => ?_) (fun _ => ?_) | split | dsimp only

theorem execTrailerReceived_safe (partition port : Nat) (block : Block) (s : State)  (hs : Inv s = true) : Safe (execTrailerReceived partition port block s) := by
  unfold execTrailerReceived
  with_reducible
    repeat' first
    | assumption | refine judgeTrailer_inv _ _ _ ?_ | refine modPart_inv _ _ _ ?_ | refine safe_next.2 ?_
    | refine safe_ite (fun _ => ?_) (fun _ => ?_) | refine inv_ite (fun _ => ?_) (fun _ => ?_) | split | dsimp only

theorem execPeerTimeout_safe (partition entry : Nat) (s : State)  (hs : Inv s = true) : Safe (execPeerTimeout partition entry s) := by
  unfold execPeerTimeout
  with_reducible
    repeat' first
    | assumption | refine checkRelease_inv _ _ ?_ | refine modPart_inv _ _ _ ?_ | refine record_inv _ _ _ ?_
    | refine safe_next.2 ?_ | refine safe_ite (fun _ => ?_) (fun _ => ?_) | refine inv_ite (fun _ => ?_) (fun _ => ?_)
    | split | dsimp only

theorem execPeerRelease_safe (partition : Nat) (s : State)  (hs : Inv s = true) : Safe (execPeerRelease partition s) := by
  unfold execPeerRelease
  with_reducible
    repeat' first
    | assumption | refine modPart_inv _ _ _ ?_ | refine tryCommit_inv _ _ ?_
    | refine arrive_safe _ _ _ (fun _ _ => ?_) ?_ | refine safe_next.2 ?_
    | refine safe_ite (fun _ => ?_) (fun _ => ?_) | refine inv_ite (fun _ => ?_) (fun _ => ?_) | split | dsimp only

theorem endWatches_inv (p step : Nat) (s : State)  (hs : Inv s = true) : Inv (endWatches p step s) = true := by
  unfold endWatches
  with_reducible
    repeat' first
    | assumption | refine hubEvent_inv _ _ _ _ ?_ | refine modHub_inv _ _ _ ?_ | refine modPart_inv _ _ _ ?_
    | refine modSen_inv _ _ _ ?_ | refine each_inv _ _ (fun _ _ _ => ?_) _ ?_
    | refine foldl_inv _ _ (fun _ _ _ => ?_) _ ?_ | refine foldl_fst_inv _ _ (fun _ _ _ => ?_) _ ?_
    | refine foldl_snd_inv _ _ (fun _ _ _ => ?_) _ ?_ | refine inv_ite (fun _ => ?_) (fun _ => ?_) | split
    | dsimp only

theorem takeToken_inv (p : Nat) (s : State)  (hs : Inv s = true) : Inv (takeToken p s) = true := by
  unfold takeToken
  with_reducible
    repeat' first
    | assumption | refine judgeTrailer_inv _ _ _ ?_ | refine modPart_inv _ _ _ ?_
    | refine each_inv _ _ (fun _ _ _ => ?_) _ ?_ | refine inv_ite (fun _ => ?_) (fun _ => ?_) | split | dsimp only

theorem execStepToken_safe (partition : Nat) (s : State)  (hs : Inv s = true) : Safe (execStepToken partition s) := by
  unfold execStepToken
  with_reducible
    repeat' first
    | assumption | refine endWatches_inv _ _ _ ?_ | refine modPart_inv _ _ _ ?_ | refine modSen_inv _ _ _ ?_
    | refine startBoundary_inv _ _ ?_ | refine takeToken_inv _ _ ?_ | refine each_inv _ _ (fun _ _ _ => ?_) _ ?_
    | refine arrive_safe _ _ _ (fun _ _ => ?_) ?_ | refine safe_next.2 ?_
    | refine safe_ite (fun _ => ?_) (fun _ => ?_) | refine inv_ite (fun _ => ?_) (fun _ => ?_) | split | dsimp only

theorem dropContributor_inv (p step mask : Nat) (s : State)  (hs : Inv s = true) : Inv (dropContributor p step mask s) = true := by
  unfold dropContributor
  with_reducible
    repeat' first
    | assumption | refine modPart_inv _ _ _ ?_ | refine inv_ite (fun _ => ?_) (fun _ => ?_) | split | dsimp only

theorem execReductionInputBlock_safe (t : Transfer) (s : State)  (hs : Inv s = true) : Safe (execReductionInputBlock t s) := by
  unfold execReductionInputBlock
  with_reducible
    repeat' first
    | assumption | refine dropContributor_inv _ _ _ _ ?_ | refine exitEvent_inv _ _ _ _ _ ?_
    | refine hubEvent_inv _ _ _ _ ?_ | refine modPart_inv _ _ _ ?_ | refine safe_next.2 ?_
    | refine safe_ite (fun _ => ?_) (fun _ => ?_) | refine inv_ite (fun _ => ?_) (fun _ => ?_) | split | dsimp only

theorem execReductionCompareMismatch_safe (partition : Nat) (s : State)  (hs : Inv s = true) : Safe (execReductionCompareMismatch partition s) := by
  unfold execReductionCompareMismatch
  with_reducible
    repeat' first
    | assumption | refine modPart_inv _ _ _ ?_ | refine safe_next.2 ?_ | refine safe_ite (fun _ => ?_) (fun _ => ?_)
    | refine inv_ite (fun _ => ?_) (fun _ => ?_) | split | dsimp only

theorem sendTrailers_inv (p : Nat) (t : Token) (status kept : Nat) (blocks : List (Nat × Nat)) (s : State)  (hs : Inv s = true) : Inv (sendTrailers p t status kept blocks s) = true := by
  unfold sendTrailers
  with_reducible
    repeat' first
    | assumption | refine modPart_inv _ _ _ ?_ | refine inv_ite (fun _ => ?_) (fun _ => ?_) | split | dsimp only

theorem execFinalKept_safe (partition step : Nat) (kept : Word) (restarted failed : Bool) (blocks : List (Nat × Nat)) (s : State)  (hs : Inv s = true) : Safe (execFinalKept partition step kept restarted failed blocks s) := by
  unfold execFinalKept
  with_reducible
    repeat' first
    | assumption | refine modPart_inv _ _ _ ?_ | refine putStepRec_inv _ _ _ ?_
    | refine sendTrailers_inv _ _ _ _ _ _ ?_ | refine tryCommit_inv _ _ ?_
    | refine arrive_safe _ _ _ (fun _ _ => ?_) ?_ | refine safe_next.2 ?_
    | refine safe_ite (fun _ => ?_) (fun _ => ?_) | refine inv_ite (fun _ => ?_) (fun _ => ?_) | split | dsimp only

end Sys2Proof.Machine
end

