-- ==== Sys2Proof/Laws/InvCommit.lean ====
section
/-!
SUPPORT. The invariant through the operations of Machine/Commit.lean.
-/
namespace Sys2Proof.Machine

open Sys2Proof

set_option linter.all false
set_option Elab.async false

theorem startCopy_inv (p st size tile : Nat) (s : State)  (hs : Inv s = true) : Inv (startCopy p st size tile s) = true := by
  unfold startCopy
  with_reducible
    repeat' first
    | assumption | refine modPart_inv _ _ _ ?_ | refine modSen_inv _ _ _ ?_
    | refine inv_ite (fun _ => ?_) (fun _ => ?_) | split | dsimp only

theorem startCopies_inv (p st : Nat) (written : List (Nat × List Nat)) (s : State)  (hs : Inv s = true) : Inv (startCopies p st written s) = true := by
  unfold startCopies
  with_reducible
    repeat' first
    | assumption | refine modSen_inv _ _ _ ?_ | refine startCopy_inv _ _ _ _ _ ?_
    | refine each_inv _ _ (fun _ _ _ => ?_) _ ?_ | refine inv_ite (fun _ => ?_) (fun _ => ?_) | split | dsimp only

theorem putHeader_inv (p slot step state region : Nat) (s : State)  (hs : Inv s = true) : Inv (putHeader p slot step state region s) = true := by
  unfold putHeader
  with_reducible
    repeat' first
    | assumption | refine dramWrite_inv _ _ ?_ | refine setDram_inv nil_wf ?_
    | refine inv_ite (fun _ => ?_) (fun _ => ?_) | split | dsimp only

theorem startTier2_inv (p st : Nat) (s : State)  (hs : Inv s = true) : Inv (startTier2 p st s) = true := by
  unfold startTier2
  with_reducible
    repeat' first
    | assumption | refine modPart_inv _ _ _ ?_ | refine putHeader_inv _ _ _ _ _ _ ?_
    | refine each_inv _ _ (fun _ _ _ => ?_) _ ?_ | refine inv_ite (fun _ => ?_) (fun _ => ?_) | split | dsimp only

theorem copyTier2_inv (p slot region : Nat) (s : State)  (hs : Inv s = true) : Inv (copyTier2 p slot region s) = true := by
  unfold copyTier2
  with_reducible
    repeat' first
    | assumption | refine dramWrite_inv _ _ ?_ | refine setDram_inv nil_wf ?_
    | refine each_inv _ _ (fun _ _ _ => ?_) _ ?_ | refine inv_ite (fun _ => ?_) (fun _ => ?_) | split | dsimp only

theorem execTier2CopyComplete_safe (partition region : Nat) (s : State)  (hs : Inv s = true) : Safe (execTier2CopyComplete partition region s) := by
  unfold execTier2CopyComplete
  with_reducible
    repeat' first
    | assumption | refine copyTier2_inv _ _ _ _ ?_ | refine modPart_inv _ _ _ ?_ | refine putHeader_inv _ _ _ _ _ _ ?_
    | refine record_inv _ _ _ ?_ | refine tryCommit_inv _ _ ?_ | refine safe_next.2 ?_
    | refine safe_ite (fun _ => ?_) (fun _ => ?_) | refine inv_ite (fun _ => ?_) (fun _ => ?_) | split | dsimp only

theorem putDigest_inv (p : Nat) (r : DigestRec) (s : State)  (hs : Inv s = true) : Inv (putDigest p r s) = true := by
  unfold putDigest
  with_reducible
    repeat' first
    | assumption | refine journalize_inv _ _ _ _ _ _ _ ?_ | refine modPart_inv _ _ _ ?_
    | refine inv_ite (fun _ => ?_) (fun _ => ?_) | split | dsimp only

theorem streamDigest_inv (p step : Nat) (program : List Byte) (s : State)  (hs : Inv s = true) : Inv (streamDigest p step program s) = true := by
  unfold streamDigest
  with_reducible
    repeat' first
    | assumption | refine modHub_inv _ _ _ ?_ | refine modPart_inv _ _ _ ?_ | refine send_inv _ _ ?_
    | refine each_inv _ _ (fun _ _ _ => ?_) _ ?_ | refine inv_ite (fun _ => ?_) (fun _ => ?_) | split | dsimp only

theorem startDigest_inv (p step : Nat) (s : State)  (hs : Inv s = true) : Inv (startDigest p step s) = true := by
  unfold startDigest
  with_reducible
    repeat' first
    | assumption | refine modPart_inv _ _ _ ?_ | refine putDigest_inv _ _ _ ?_ | refine streamDigest_inv _ _ _ _ ?_
    | refine inv_ite (fun _ => ?_) (fun _ => ?_) | split | dsimp only

theorem execDigestRun_safe (hub partition : Nat) (inputs outputs : List Tag) (lost : Nat) (s : State)  (hs : Inv s = true) : Safe (execDigestRun hub partition inputs outputs lost s) := by
  unfold execDigestRun
  with_reducible
    repeat' first
    | assumption | refine modPart_inv _ _ _ ?_ | refine arrive_safe _ _ _ (fun _ _ => ?_) ?_ | refine safe_next.2 ?_
    | refine safe_ite (fun _ => ?_) (fun _ => ?_) | refine inv_ite (fun _ => ?_) (fun _ => ?_) | split | dsimp only

theorem execDigestComplete_safe (partition : Nat) (s : State)  (hs : Inv s = true) : Safe (execDigestComplete partition s) := by
  unfold execDigestComplete
  with_reducible
    repeat' first
    | assumption | refine modPart_inv _ _ _ ?_ | refine putDigest_inv _ _ _ ?_ | refine streamDigest_inv _ _ _ _ ?_
    | refine safe_next.2 ?_ | refine safe_ite (fun _ => ?_) (fun _ => ?_) | refine inv_ite (fun _ => ?_) (fun _ => ?_)
    | split | dsimp only

theorem sealReduced_inv (p step : Nat) (reduced : List (Desc × List Byte)) (s : State)  (hs : Inv s = true) : Inv (sealReduced p step reduced s) = true := by
  unfold sealReduced
  with_reducible
    repeat' first
    | assumption | refine digestEntry_inv _ _ _ _ _ ?_ | refine modPart_inv _ _ _ ?_
    | refine each_inv _ _ (fun _ _ _ => ?_) _ ?_ | refine inv_ite (fun _ => ?_) (fun _ => ?_) | split | dsimp only

theorem execCommitDone_safe (partition : Nat) (written : List (Nat × List Nat)) (reduced : List (Desc × List Byte)) (s : State)  (hs : Inv s = true) : Safe (execCommitDone partition written reduced s) := by
  unfold execCommitDone
  with_reducible
    repeat' first
    | assumption | refine abortSteps_inv _ _ _ ?_ | refine checkBoundary_inv _ _ ?_ | refine issueFence_inv _ _ ?_
    | refine modPart_inv _ _ _ ?_ | refine sealReduced_inv _ _ _ _ ?_ | refine startCopies_inv _ _ _ _ ?_
    | refine startDigest_inv _ _ _ ?_ | refine startTier2_inv _ _ _ ?_ | refine takeToken_inv _ _ ?_
    | refine tryFills_inv _ _ ?_ | refine safe_next.2 ?_ | refine safe_ite (fun _ => ?_) (fun _ => ?_)
    | refine inv_ite (fun _ => ?_) (fun _ => ?_) | split | dsimp only

theorem execMirrorBlockReceived_safe (owner index : Nat) (block : Block) (markedFailed : Bool) (s : State)  (hs : Inv s = true) : Safe (execMirrorBlockReceived owner index block markedFailed s) := by
  unfold execMirrorBlockReceived
  with_reducible
    repeat' first
    | assumption | refine modSen_inv _ _ _ ?_ | refine senEvent_inv _ _ _ _ ?_ | refine safe_next.2 ?_
    | refine safe_ite (fun _ => ?_) (fun _ => ?_) | refine inv_ite (fun _ => ?_) (fun _ => ?_) | split | dsimp only

theorem execPartnerCopyComplete_safe (owner : Nat) (s : State)  (hs : Inv s = true) : Safe (execPartnerCopyComplete owner s) := by
  unfold execPartnerCopyComplete
  with_reducible
    repeat' first
    | assumption | refine checkBoundary_inv _ _ ?_ | refine modPart_inv _ _ _ ?_ | refine modSen_inv _ _ _ ?_
    | refine tryCommit_inv _ _ ?_ | refine tryFills_inv _ _ ?_ | refine safe_next.2 ?_
    | refine safe_ite (fun _ => ?_) (fun _ => ?_) | refine inv_ite (fun _ => ?_) (fun _ => ?_) | split | dsimp only

end Sys2Proof.Machine
end

