-- ==== Sys2Proof/Laws/InvScreening.lean ====
section
/-!
SUPPORT. The invariant through the operations of Machine/Screening.lean.
-/
namespace Sys2Proof.Machine

open Sys2Proof

set_option linter.all false
set_option Elab.async false

theorem planPass_inv (p h : Nat) (s : State)  (hs : Inv s = true) : Inv (planPass p h s) = true := by
  unfold planPass
  with_reducible
    repeat' first
    | assumption | refine joinPass_inv _ _ _ ?_ | refine newScreen_inv _ _ _ ?_ | refine setScreenReqs_inv _ _ ?_
    | refine startDeep_inv _ _ ?_ | refine each_inv _ _ (fun _ _ _ => ?_) _ ?_
    | refine inv_ite (fun _ => ?_) (fun _ => ?_) | split | dsimp only

theorem execScreeningWindowStart_safe (partition : Nat) (s : State)  (hs : Inv s = true) : Safe (execScreeningWindowStart partition s) := by
  unfold execScreeningWindowStart
  with_reducible
    repeat' first
    | assumption | refine modPart_inv _ _ _ ?_ | refine planPass_inv _ _ _ ?_
    | refine each_inv _ _ (fun _ _ _ => ?_) _ ?_ | refine safe_next.2 ?_ | refine safe_ite (fun _ => ?_) (fun _ => ?_)
    | refine inv_ite (fun _ => ?_) (fun _ => ?_) | split | dsimp only

theorem execSpareScreenStart_safe (site : Nat) (heaters : Bool) (s : State)  (hs : Inv s = true) : Safe (execSpareScreenStart site heaters s) := by
  unfold execSpareScreenStart
  with_reducible
    repeat' first
    | assumption | refine joinPass_inv _ _ _ ?_ | refine newScreen_inv _ _ _ ?_ | refine setScreenReqs_inv _ _ ?_
    | refine startDeep_inv _ _ ?_ | refine setSpareAt_inv ?_ ?_ | refine spareAt_wf ?_ | refine Sparse.wf_set ?_ _ _
    | refine Sparse.wf_upd ?_ _ _ | refine Sparse.wf_mapAll ?_ _ | exact Sparse.wf_nil
    | exact Sparse.wf_tabulate _ _ (sectors_sorted _) | exact Sparse.wf_tabulate _ _ (sites_sorted _)
    | refine Sparse.wf_foldl _ _ (fun _ _ _ => ?_) _ ?_ | refine wf_ite (fun _ => ?_) (fun _ => ?_)
    | refine safe_next.2 ?_ | refine safe_ite (fun _ => ?_) (fun _ => ?_) | refine inv_ite (fun _ => ?_) (fun _ => ?_)
    | split | dsimp only

theorem execDeepScreenStart_safe (site : Nat) (s : State)  (hs : Inv s = true) : Safe (execDeepScreenStart site s) := by
  unfold execDeepScreenStart
  with_reducible
    repeat' first
    | assumption | refine forceDeep_inv _ _ ?_ | refine startDeep_inv _ _ ?_ | refine safe_next.2 ?_
    | refine safe_ite (fun _ => ?_) (fun _ => ?_) | refine inv_ite (fun _ => ?_) (fun _ => ?_) | split | dsimp only

theorem execScreenRun_safe (site sector point recipe : Nat) (epoch : Dword) (s : State)  (hs : Inv s = true) : Safe (execScreenRun site sector point recipe epoch s) := by
  unfold execScreenRun
  with_reducible
    repeat' first
    | assumption | refine modSen_inv _ _ _ ?_ | refine respond_inv _ _ _ _ _ ?_
    | refine each_inv _ _ (fun _ _ _ => ?_) _ ?_ | refine arrive_safe _ _ _ (fun _ _ => ?_) ?_ | refine safe_next.2 ?_
    | refine safe_ite (fun _ => ?_) (fun _ => ?_) | refine inv_ite (fun _ => ?_) (fun _ => ?_) | split | dsimp only

theorem execContent_safe (sector offset : Nat) (bytes : List Byte) (s : State)  (hs : Inv s = true) : Safe (execContent sector offset bytes s) := by
  unfold execContent
  with_reducible
    repeat' first
    | assumption | refine modSen_inv _ _ _ ?_ | refine receive_inv _ _ ?_ | refine each_inv _ _ (fun _ _ _ => ?_) _ ?_
    | refine safe_next.2 ?_ | refine safe_ite (fun _ => ?_) (fun _ => ?_) | refine inv_ite (fun _ => ?_) (fun _ => ?_)
    | split | dsimp only

theorem execVmarginAck_safe (sector : Nat) (s : State)  (hs : Inv s = true) : Safe (execVmarginAck sector s) := by
  unfold execVmarginAck
  with_reducible
    repeat' first
    | assumption | refine modHub_inv _ _ _ ?_ | refine setUpRun_inv _ _ _ _ _ _ _ ?_ | refine safe_next.2 ?_
    | refine safe_ite (fun _ => ?_) (fun _ => ?_) | refine inv_ite (fun _ => ?_) (fun _ => ?_) | split | dsimp only

theorem execVmarginKeepaliveTimer_safe (sector : Nat) (s : State)  (hs : Inv s = true) : Safe (execVmarginKeepaliveTimer sector s) := by
  unfold execVmarginKeepaliveTimer
  with_reducible
    repeat' first
    | assumption | refine modHub_inv _ _ _ ?_ | refine safe_next.2 ?_ | refine safe_ite (fun _ => ?_) (fun _ => ?_)
    | refine inv_ite (fun _ => ?_) (fun _ => ?_) | split | dsimp only

theorem execHeatingTimeout_safe (sector : Nat) (s : State)  (hs : Inv s = true) : Safe (execHeatingTimeout sector s) := by
  unfold execHeatingTimeout
  with_reducible
    repeat' first
    | assumption | refine endHeat_inv _ _ ?_ | refine finishScreen_inv _ _ _ ?_ | refine modHub_inv _ _ _ ?_
    | refine nextRun_inv _ _ ?_ | refine setScreens_inv ?_ ?_ | refine screens_wf ?_ | refine Sparse.wf_set ?_ _ _
    | refine Sparse.wf_upd ?_ _ _ | refine Sparse.wf_mapAll ?_ _ | exact Sparse.wf_nil
    | exact Sparse.wf_tabulate _ _ (sectors_sorted _) | exact Sparse.wf_tabulate _ _ (sites_sorted _)
    | refine Sparse.wf_foldl _ _ (fun _ _ _ => ?_) _ ?_ | refine wf_ite (fun _ => ?_) (fun _ => ?_)
    | refine each_inv _ _ (fun _ _ _ => ?_) _ ?_ | refine foldl_inv _ _ (fun _ _ _ => ?_) _ ?_
    | refine foldl_fst_inv _ _ (fun _ _ _ => ?_) _ ?_ | refine foldl_snd_inv _ _ (fun _ _ _ => ?_) _ ?_
    | refine safe_next.2 ?_ | refine safe_ite (fun _ => ?_) (fun _ => ?_) | refine inv_ite (fun _ => ?_) (fun _ => ?_)
    | split | dsimp only

theorem execStageZeroHold_safe (s : State)  (hs : Inv s = true) : Safe (execStageZeroHold s) := by
  unfold execStageZeroHold
  with_reducible
    repeat' first
    | assumption | refine modThrottle_inv _ _ ?_ | refine resumePasses_inv _ ?_ | refine safe_next.2 ?_
    | refine safe_ite (fun _ => ?_) (fun _ => ?_) | refine inv_ite (fun _ => ?_) (fun _ => ?_) | split | dsimp only

theorem mirrorResult_inv (h recipe : Nat) (epoch : Dword) (rows : List RunRow) (s : State)  (hs : Inv s = true) : Inv (mirrorResult h recipe epoch rows s) = true := by
  exact Inv_of_get (fun φ hφ => mirrorResult_get (notMem_of hφ rfl) _ _ _ _ _) hs

theorem concludeRun_inv (h : Nat) (x : Pass) (s : State)  (hs : Inv s = true) : Inv (concludeRun h x s) = true := by
  unfold concludeRun
  with_reducible
    repeat' first
    | assumption | refine charge_inv _ _ _ _ _ ?_ | refine countHub_inv _ _ _ _ ?_ | refine endHeat_inv _ _ ?_
    | refine endRun_inv _ _ ?_ | refine finishScreen_inv _ _ _ ?_ | refine mirrorResult_inv _ _ _ _ _ ?_
    | refine modHub_inv _ _ _ ?_ | refine nextRun_inv _ _ ?_ | refine setScreens_inv ?_ ?_ | refine screens_wf ?_
    | refine Sparse.wf_set ?_ _ _ | refine Sparse.wf_upd ?_ _ _ | refine Sparse.wf_mapAll ?_ _ | exact Sparse.wf_nil
    | exact Sparse.wf_tabulate _ _ (sectors_sorted _) | exact Sparse.wf_tabulate _ _ (sites_sorted _)
    | refine Sparse.wf_foldl _ _ (fun _ _ _ => ?_) _ ?_ | refine wf_ite (fun _ => ?_) (fun _ => ?_)
    | refine each_inv _ _ (fun _ _ _ => ?_) _ ?_ | refine foldl_inv _ _ (fun _ _ _ => ?_) _ ?_
    | refine foldl_fst_inv _ _ (fun _ _ _ => ?_) _ ?_ | refine foldl_snd_inv _ _ (fun _ _ _ => ?_) _ ?_
    | refine inv_ite (fun _ => ?_) (fun _ => ?_) | split | dsimp only

theorem advanceRun_inv (h : Nat) (s : State)  (hs : Inv s = true) : Inv (advanceRun h s) = true := by
  unfold advanceRun
  with_reducible
    repeat' first
    | assumption | refine concludeRun_inv _ _ _ ?_ | refine endHeat_inv _ _ ?_ | refine modHub_inv _ _ _ ?_
    | refine nextRun_inv _ _ ?_ | refine sendRecipe_inv _ _ ?_ | refine inv_ite (fun _ => ?_) (fun _ => ?_) | split
    | dsimp only

theorem takeReplay_inv (h site : Nat) (rep : ReplayReport) (x : Pass) (s : State)  (hs : Inv s = true) : Inv (takeReplay h site rep x s) = true := by
  unfold takeReplay
  with_reducible
    repeat' first
    | assumption | refine endRun_inv _ _ ?_ | refine finishReplay_inv _ _ _ ?_ | refine modHub_inv _ _ _ ?_
    | refine nextRun_inv _ _ ?_ | refine inv_ite (fun _ => ?_) (fun _ => ?_) | split | dsimp only

theorem execRunResult_safe (site recipe verdict seals : Nat) (signature : Dword) (status : Word) (replay : ReplayReport) (s : State)  (hs : Inv s = true) : Safe (execRunResult site recipe verdict seals signature status replay s) := by
  unfold execRunResult
  with_reducible
    repeat' first
    | assumption | refine advanceRun_inv _ _ ?_ | refine modHub_inv _ _ _ ?_ | refine takeReplay_inv _ _ _ _ _ ?_
    | refine arrive_safe _ _ _ (fun _ _ => ?_) ?_ | refine safe_next.2 ?_
    | refine safe_ite (fun _ => ?_) (fun _ => ?_) | refine inv_ite (fun _ => ?_) (fun _ => ?_) | split | dsimp only

theorem execScreenSpanExpiry_safe (site : Nat) (s : State)  (hs : Inv s = true) : Safe (execScreenSpanExpiry site s) := by
  unfold execScreenSpanExpiry
  with_reducible
    repeat' first
    | assumption | refine advanceRun_inv _ _ ?_ | refine finishScreen_inv _ _ _ ?_ | refine leavePass_inv _ _ ?_
    | refine safe_next.2 ?_ | refine safe_ite (fun _ => ?_) (fun _ => ?_) | refine inv_ite (fun _ => ?_) (fun _ => ?_)
    | split | dsimp only

theorem execQuarantine_safe (site : Nat) (s : State)  (hs : Inv s = true) : Safe (execQuarantine site s) := by
  unfold execQuarantine
  with_reducible
    repeat' first
    | assumption | refine advanceRun_inv _ _ ?_ | refine cancelScreen_inv _ _ ?_ | refine modSen_inv _ _ _ ?_
    | refine respond_inv _ _ _ _ _ ?_ | refine startDeep_inv _ _ ?_ | refine arrive_safe _ _ _ (fun _ _ => ?_) ?_
    | refine safe_next.2 ?_ | refine safe_ite (fun _ => ?_) (fun _ => ?_) | refine inv_ite (fun _ => ?_) (fun _ => ?_)
    | split | dsimp only

theorem execCleanPeriodEnd_safe (site : Nat) (s : State)  (hs : Inv s = true) : Safe (execCleanPeriodEnd site s) := by
  unfold execCleanPeriodEnd
  with_reducible
    repeat' first
    | assumption | refine changeSite_inv _ _ _ _ _ ?_ | refine safe_next.2 ?_
    | refine safe_ite (fun _ => ?_) (fun _ => ?_) | refine inv_ite (fun _ => ?_) (fun _ => ?_) | split | dsimp only

end Sys2Proof.Machine
end

