-- ==== Sys2Proof/Laws/InvThermal.lean ====
section
/-!
SUPPORT. The invariant through the operations of Machine/Thermal.lean.
-/
namespace Sys2Proof.Machine

open Sys2Proof

set_option linter.all false
set_option Elab.async false

theorem modelStep_inv (sector : Nat) (s : State)  (hs : Inv s = true) : Inv (modelStep sector s) = true := by
  unfold modelStep
  with_reducible
    repeat' first
    | assumption | refine modHub_inv _ _ _ ?_ | refine foldl_inv _ _ (fun _ _ _ => ?_) _ ?_
    | refine foldl_fst_inv _ _ (fun _ _ _ => ?_) _ ?_ | refine foldl_snd_inv _ _ (fun _ _ _ => ?_) _ ?_
    | refine inv_ite (fun _ => ?_) (fun _ => ?_) | split | dsimp only

theorem checkHeating_inv (h : Nat) (s : State)  (hs : Inv s = true) : Inv (checkHeating h s) = true := by
  unfold checkHeating
  with_reducible
    repeat' first
    | assumption | refine beginRun_inv _ _ ?_ | refine inv_ite (fun _ => ?_) (fun _ => ?_) | split | dsimp only

theorem coolHeaters_inv (sector : Nat) (s : State)  (hs : Inv s = true) : Inv (coolHeaters sector s) = true := by
  unfold coolHeaters
  with_reducible
    repeat' first
    | assumption | refine holdSlot_inv _ _ ?_ | refine modSen_inv _ _ _ ?_
    | refine each_inv _ _ (fun _ _ _ => ?_) _ ?_ | refine inv_ite (fun _ => ?_) (fun _ => ?_) | split | dsimp only

theorem execModelStep_safe (sector : Nat) (s : State)  (hs : Inv s = true) : Safe (execModelStep sector s) := by
  unfold execModelStep
  with_reducible
    repeat' first
    | assumption | refine checkHeating_inv _ _ ?_ | refine coolHeaters_inv _ _ ?_ | refine modelStep_inv _ _ ?_
    | refine safe_next.2 ?_ | refine safe_ite (fun _ => ?_) (fun _ => ?_) | refine inv_ite (fun _ => ?_) (fun _ => ?_)
    | split | dsimp only

theorem decideStage_inv (sector : Nat) (s : State)  (hs : Inv s = true) : Inv (decideStage sector s) = true := by
  exact Inv_of_get (fun φ hφ => decideStage_get (notMem_of hφ rfl) _ _) hs

theorem execThrottleRequest_safe (sector stage : Nat) (s : State)  (hs : Inv s = true) : Safe (execThrottleRequest sector stage s) := by
  unfold execThrottleRequest
  with_reducible
    repeat' first
    | assumption | refine decideStage_inv _ _ ?_ | refine modThrottle_inv _ _ ?_ | refine respond_inv _ _ _ _ _ ?_
    | refine arrive_safe _ _ _ (fun _ _ => ?_) ?_ | refine safe_next.2 ?_
    | refine safe_ite (fun _ => ?_) (fun _ => ?_) | refine inv_ite (fun _ => ?_) (fun _ => ?_) | split | dsimp only

theorem requestStage_inv (sector k : Nat) (s : State)  (hs : Inv s = true) : Inv (requestStage sector k s) = true := by
  unfold requestStage
  with_reducible
    repeat' first
    | assumption | refine countHub_inv _ _ _ _ ?_ | refine modHub_inv _ _ _ ?_ | refine send_inv _ _ ?_
    | refine inv_ite (fun _ => ?_) (fun _ => ?_) | split | dsimp only

theorem execThrottleStage_safe (unit stage : Nat) (engage : Dword) (s : State)  (hs : Inv s = true) : Safe (execThrottleStage unit stage engage s) := by
  unfold execThrottleStage
  with_reducible
    repeat' first
    | assumption | refine modSen_inv _ _ _ ?_ | refine respond_inv _ _ _ _ _ ?_ | refine sendAll_inv _ _ ?_
    | refine setAlarm_inv _ _ _ _ _ ?_ | refine arrive_safe _ _ _ (fun _ _ => ?_) ?_ | refine safe_next.2 ?_
    | refine safe_ite (fun _ => ?_) (fun _ => ?_) | refine inv_ite (fun _ => ?_) (fun _ => ?_) | split | dsimp only

theorem execThrottleEngage_safe (s : State)  (hs : Inv s = true) : Safe (execThrottleEngage s) := by
  unfold execThrottleEngage
  with_reducible
    repeat' first
    | assumption | refine discardRuns_inv _ _ ?_ | refine modThrottle_inv _ _ ?_ | refine setSen_inv ?_ ?_
    | refine sen_wf ?_ | refine Sparse.wf_set ?_ _ _ | refine Sparse.wf_upd ?_ _ _ | refine Sparse.wf_mapAll ?_ _
    | exact Sparse.wf_nil | exact Sparse.wf_tabulate _ _ (sectors_sorted _)
    | exact Sparse.wf_tabulate _ _ (sites_sorted _) | refine Sparse.wf_foldl _ _ (fun _ _ _ => ?_) _ ?_
    | refine wf_ite (fun _ => ?_) (fun _ => ?_) | refine safe_next.2 ?_ | refine safe_ite (fun _ => ?_) (fun _ => ?_)
    | refine inv_ite (fun _ => ?_) (fun _ => ?_) | split | dsimp only

theorem execReleaseHoldExpiry_safe (sector : Nat) (s : State)  (hs : Inv s = true) : Safe (execReleaseHoldExpiry sector s) := by
  unfold execReleaseHoldExpiry
  with_reducible
    repeat' first
    | assumption | refine modHub_inv _ _ _ ?_ | refine requestStage_inv _ _ _ ?_ | refine safe_next.2 ?_
    | refine safe_ite (fun _ => ?_) (fun _ => ?_) | refine inv_ite (fun _ => ?_) (fun _ => ?_) | split | dsimp only

theorem writeSensor_inv (n : Nat) (s : State)  (hs : Inv s = true) : Inv (writeSensor n s) = true := by
  unfold writeSensor
  with_reducible
    repeat' first
    | assumption | refine mramBoth_inv _ _ _ ?_ | refine inv_ite (fun _ => ?_) (fun _ => ?_) | split | dsimp only

theorem sensorBroken_inv (n reason : Nat) (i : Int) (model : Option Nat) (source : Option Nat) (s : State)  (hs : Inv s = true) : Inv (sensorBroken n reason i model source s) = true := by
  unfold sensorBroken
  with_reducible
    repeat' first
    | assumption | refine hubEvent_inv _ _ _ _ ?_ | refine modSensor_inv _ _ _ ?_ | refine raiseAlert_inv _ _ ?_
    | refine record_inv _ _ _ ?_ | refine writeSensor_inv _ _ ?_ | refine inv_ite (fun _ => ?_) (fun _ => ?_) | split
    | dsimp only

theorem takeReading_inv (n : Nat) (i : Int) (model : Option Nat) (source : Option Nat) (s : State)  (hs : Inv s = true) : Inv (takeReading n i model source s) = true := by
  unfold takeReading
  with_reducible
    repeat' first
    | assumption | refine modSensor_inv _ _ _ ?_ | refine sensorBroken_inv _ _ _ _ _ _ ?_
    | refine inv_ite (fun _ => ?_) (fun _ => ?_) | split | dsimp only

theorem raiseTrip_inv (h sector sensor kind : Nat) (temp : Int) (sectors : List Nat) (s : State)  (hs : Inv s = true) : Inv (raiseTrip h sector sensor kind temp sectors s) = true := by
  unfold raiseTrip
  with_reducible
    repeat' first
    | assumption | refine modHub_inv _ _ _ ?_ | refine record_inv _ _ _ ?_ | refine requestStage_inv _ _ _ ?_
    | refine send_inv _ _ ?_ | refine each_inv _ _ (fun _ _ _ => ?_) _ ?_ | refine inv_ite (fun _ => ?_) (fun _ => ?_)
    | split | dsimp only

theorem stepOffset_inv (sector : Nat) (diode : Int) (s : State)  (hs : Inv s = true) : Inv (stepOffset sector diode s) = true := by
  unfold stepOffset
  with_reducible
    repeat' first
    | assumption | refine hubEvent_inv _ _ _ _ ?_ | refine modHub_inv _ _ _ ?_
    | refine inv_ite (fun _ => ?_) (fun _ => ?_) | split | dsimp only

theorem stepRequest_inv (sector : Nat) (s : State)  (hs : Inv s = true) : Inv (stepRequest sector s) = true := by
  unfold stepRequest
  with_reducible
    repeat' first
    | assumption | refine modHub_inv _ _ _ ?_ | refine requestStage_inv _ _ _ ?_
    | refine inv_ite (fun _ => ?_) (fun _ => ?_) | split | dsimp only

theorem execThermalSample_safe (sector : Nat) (counts : List (Nat × List Word)) (diode : Int) (s : State)  (hs : Inv s = true) : Safe (execThermalSample sector counts diode s) := by
  unfold execThermalSample
  with_reducible
    repeat' first
    | assumption | refine coolHeaters_inv _ _ ?_ | refine countHub_inv _ _ _ _ ?_ | refine modHub_inv _ _ _ ?_
    | refine modSen_inv _ _ _ ?_ | refine raiseTrip_inv _ _ _ _ _ _ _ ?_ | refine stepOffset_inv _ _ _ ?_
    | refine stepRequest_inv _ _ ?_ | refine takeReading_inv _ _ _ _ _ ?_ | refine each_inv _ _ (fun _ _ _ => ?_) _ ?_
    | refine foldl_inv _ _ (fun _ _ _ => ?_) _ ?_ | refine foldl_fst_inv _ _ (fun _ _ _ => ?_) _ ?_
    | refine foldl_snd_inv _ _ (fun _ _ _ => ?_) _ ?_ | refine safe_next.2 ?_
    | refine safe_ite (fun _ => ?_) (fun _ => ?_) | refine inv_ite (fun _ => ?_) (fun _ => ?_) | split | dsimp only

theorem execEdgeDiodeRead_safe (die : Nat) (readings : List Int) (s : State)  (hs : Inv s = true) : Safe (execEdgeDiodeRead die readings s) := by
  unfold execEdgeDiodeRead
  with_reducible
    repeat' first
    | assumption | refine modSensor_inv _ _ _ ?_ | refine raiseTrip_inv _ _ _ _ _ _ _ ?_
    | refine requestStage_inv _ _ _ ?_ | refine takeReading_inv _ _ _ _ _ ?_
    | refine each_inv _ _ (fun _ _ _ => ?_) _ ?_ | refine safe_next.2 ?_ | refine safe_ite (fun _ => ?_) (fun _ => ?_)
    | refine inv_ite (fun _ => ?_) (fun _ => ?_) | split | dsimp only

theorem execUnitWakeStart_safe (hub unit : Nat) (s : State)  (hs : Inv s = true) : Safe (execUnitWakeStart hub unit s) := by
  unfold execUnitWakeStart
  with_reducible
    repeat' first
    | assumption | refine modHub_inv _ _ _ ?_ | refine safe_next.2 ?_ | refine safe_ite (fun _ => ?_) (fun _ => ?_)
    | refine inv_ite (fun _ => ?_) (fun _ => ?_) | split | dsimp only

theorem takeWaiting_inv (h : Nat) (m : Instr) (s : State)  (hs : Inv s = true) : Inv (takeWaiting h m s) = true := by
  unfold takeWaiting
  with_reducible
    repeat' first
    | assumption | refine hubRead_inv _ _ _ _ _ ?_ | refine hubWrite_inv _ _ _ _ _ ?_
    | refine takeSummary_inv _ _ _ ?_ | refine inv_ite (fun _ => ?_) (fun _ => ?_) | split | dsimp only

theorem execUnitWakeComplete_safe (hub unit : Nat) (s : State)  (hs : Inv s = true) : Safe (execUnitWakeComplete hub unit s) := by
  unfold execUnitWakeComplete
  with_reducible
    repeat' first
    | assumption | refine modHub_inv _ _ _ ?_ | refine takeWaiting_inv _ _ _ ?_
    | refine each_inv _ _ (fun _ _ _ => ?_) _ ?_ | refine safe_next.2 ?_ | refine safe_ite (fun _ => ?_) (fun _ => ?_)
    | refine inv_ite (fun _ => ?_) (fun _ => ?_) | split | dsimp only

theorem execThmUpdate_safe (s : State)  (hs : Inv s = true) : Safe (execThmUpdate s) := by
  unfold execThmUpdate
  with_reducible
    repeat' first
    | assumption | refine modWin_inv _ (by rfl) (by rfl) (by rfl) ?_
    | refine modWin_inv _ (by exact (unlockBulk_keeps _ _).1) (by exact (unlockBulk_keeps _ _).2.1) (by exact (unlockBulk_keeps _ _).2.2) ?_
    | refine bulkWrite_inv _ _ ?_ | refine releaseBulk_inv _ ?_ | refine claimBulk_inv _ _ ?_
    | refine bulkOpen_inv _ _ ?_ | refine safe_next.2 ?_ | refine safe_ite (fun _ => ?_) (fun _ => ?_)
    | refine inv_ite (fun _ => ?_) (fun _ => ?_) | split | dsimp only

theorem execThermalPolicy_safe (seq : Nat) (s : State)  (hs : Inv s = true) : Safe (execThermalPolicy seq s) := by
  unfold execThermalPolicy
  with_reducible
    repeat' first
    | assumption | refine complete_inv _ _ _ _ ?_ | refine modThrottle_inv _ _ ?_ | refine record_inv _ _ _ ?_
    | refine runCmd_safe _ _ _ _ ?_ ?_ | refine safe_next.2 ?_ | refine safe_ite (fun _ => ?_) (fun _ => ?_)
    | refine inv_ite (fun _ => ?_) (fun _ => ?_) | split | dsimp only

theorem execSensorRetire_safe (seq : Nat) (s : State)  (hs : Inv s = true) : Safe (execSensorRetire seq s) := by
  unfold execSensorRetire
  with_reducible
    repeat' first
    | assumption | refine complete_inv _ _ _ _ ?_ | refine modHub_inv _ _ _ ?_ | refine modSensor_inv _ _ _ ?_
    | refine recordFrom_inv _ _ _ _ ?_ | refine writeSensor_inv _ _ ?_ | refine runCmd_safe _ _ _ _ ?_ ?_
    | refine safe_next.2 ?_ | refine safe_ite (fun _ => ?_) (fun _ => ?_) | refine inv_ite (fun _ => ?_) (fun _ => ?_)
    | split | dsimp only

end Sys2Proof.Machine
end

