-- ==== Sys2Proof/Laws/InvMidway.lean ====
section
/-!
SUPPORT. The invariant through the operations of Machine/Midway.lean.
-/
namespace Sys2Proof.Machine

open Sys2Proof

set_option linter.all false
set_option Elab.async false

theorem execTimeLoad_safe (unit : Nat) (v : Dword) (s : State)  (hs : Inv s = true) : Safe (execTimeLoad unit v s) := by
  unfold execTimeLoad
  with_reducible
    repeat' first
    | assumption | refine modHub_inv _ _ _ ?_ | refine setRasArmedB_inv _ _ ?_
    | refine arrive_safe _ _ _ (fun _ _ => ?_) ?_ | refine safe_next.2 ?_
    | refine safe_ite (fun _ => ?_) (fun _ => ?_) | refine inv_ite (fun _ => ?_) (fun _ => ?_) | split | dsimp only

theorem execTimeCheck_safe (hub : Nat) (s : State)  (hs : Inv s = true) : Safe (execTimeCheck hub s) := by
  unfold execTimeCheck
  with_reducible
    repeat' first
    | assumption | refine setRasCheck_inv _ _ ?_ | refine arrive_safe _ _ _ (fun _ _ => ?_) ?_ | refine safe_next.2 ?_
    | refine safe_ite (fun _ => ?_) (fun _ => ?_) | refine inv_ite (fun _ => ?_) (fun _ => ?_) | split | dsimp only

theorem startAlignment_inv (s : State)  (hs : Inv s = true) : Inv (startAlignment s) = true := by
  exact Inv_of_get (fun φ hφ => startAlignment_get (notMem_of hφ rfl) _) hs

theorem reportRas_inv (h : Nat) (s : State)  (hs : Inv s = true) : Inv (reportRas h s) = true := by
  exact Inv_of_get (fun φ hφ => reportRas_get (notMem_of hφ rfl) _ _) hs

theorem judgeRas_inv (h : Nat) (ws : List Word) (s : State)  (hs : Inv s = true) : Inv (judgeRas h ws s) = true := by
  unfold judgeRas
  with_reducible
    repeat' first
    | assumption | refine record_inv _ _ _ ?_ | refine send_inv _ _ ?_ | refine inv_ite (fun _ => ?_) (fun _ => ?_)
    | split | dsimp only

theorem execSyncPulse_safe (s : State)  (hs : Inv s = true) : Safe (execSyncPulse s) := by
  unfold execSyncPulse
  with_reducible
    repeat' first
    | assumption | refine modHub_inv _ _ _ ?_ | refine reportRas_inv _ _ ?_ | refine setRasArmedB_inv _ _ ?_
    | refine setRasAtB_inv _ _ ?_ | refine setRasBaseB_inv _ _ ?_ | refine setRasCheck_inv _ _ ?_
    | refine setSyncRas_inv _ _ ?_ | refine each_inv _ _ (fun _ _ _ => ?_) _ ?_ | refine safe_next.2 ?_
    | refine safe_ite (fun _ => ?_) (fun _ => ?_) | refine inv_ite (fun _ => ?_) (fun _ => ?_) | split | dsimp only

theorem moveSites_inv (x y : Nat) (sites : List Nat) (s : State)  (hs : Inv s = true) : Inv (moveSites x y sites s) = true := by
  unfold moveSites
  with_reducible
    repeat' first
    | assumption | refine modHub_inv _ _ _ ?_ | refine foldl_inv _ _ (fun _ _ _ => ?_) _ ?_
    | refine foldl_fst_inv _ _ (fun _ _ _ => ?_) _ ?_ | refine foldl_snd_inv _ _ (fun _ _ _ => ?_) _ ?_
    | refine inv_ite (fun _ => ?_) (fun _ => ?_) | split | dsimp only

theorem reopenContribution_inv (y p : Nat) (fresh : List LedgerEntry) (s : State)  (hs : Inv s = true) : Inv (reopenContribution y p fresh s) = true := by
  unfold reopenContribution
  with_reducible
    repeat' first
    | assumption | refine modHub_inv _ _ _ ?_ | refine modPart_inv _ _ _ ?_ | refine setSent_inv _ _ ?_
    | refine foldl_inv _ _ (fun _ _ _ => ?_) _ ?_ | refine foldl_fst_inv _ _ (fun _ _ _ => ?_) _ ?_
    | refine foldl_snd_inv _ _ (fun _ _ _ => ?_) _ ?_ | refine inv_ite (fun _ => ?_) (fun _ => ?_) | split
    | dsimp only

theorem census_inv (y site : Nat) (s : State)  (hs : Inv s = true) : Inv (census y site s) = true := by
  unfold census
  with_reducible
    repeat' first
    | assumption | refine modHub_inv _ _ _ ?_ | refine foldl_inv _ _ (fun _ _ _ => ?_) _ ?_
    | refine foldl_fst_inv _ _ (fun _ _ _ => ?_) _ ?_ | refine foldl_snd_inv _ _ (fun _ _ _ => ?_) _ ?_
    | refine inv_ite (fun _ => ?_) (fun _ => ?_) | split | dsimp only

theorem unitEvent_inv (unit code : Nat) (payload : List Byte) (s : State)  (hs : Inv s = true) : Inv (unitEvent unit code payload s) = true := by
  unfold unitEvent
  with_reducible
    repeat' first
    | assumption | refine hubEvent_inv _ _ _ _ ?_ | refine recordFrom_inv _ _ _ _ ?_ | refine senEvent_inv _ _ _ _ ?_
    | refine inv_ite (fun _ => ?_) (fun _ => ?_) | split | dsimp only

theorem execLinkWatchdogExpiry_safe (link : MidLink) (s : State)  (hs : Inv s = true) : Safe (execLinkWatchdogExpiry link s) := by
  unfold execLinkWatchdogExpiry
  with_reducible
    repeat' first
    | assumption | refine checkContribution_inv _ _ _ ?_ | refine countHub_inv _ _ _ _ ?_
    | refine hubEvent_inv _ _ _ _ ?_ | refine loseSentinel_inv _ _ ?_ | refine moveSites_inv _ _ _ _ ?_
    | refine reopenContribution_inv _ _ _ _ ?_ | refine resumeBoundaries_inv _ ?_ | refine send_inv _ _ ?_
    | refine setLinks_inv _ _ ?_ | refine unitEvent_inv _ _ _ _ ?_ | refine each_inv _ _ (fun _ _ _ => ?_) _ ?_
    | refine safe_next.2 ?_ | refine safe_ite (fun _ => ?_) (fun _ => ?_) | refine inv_ite (fun _ => ?_) (fun _ => ?_)
    | split | dsimp only

theorem execHubBufferFreed_safe (hub index : Nat) (s : State)  (hs : Inv s = true) : Safe (execHubBufferFreed hub index s) := by
  unfold execHubBufferFreed
  with_reducible
    repeat' first
    | assumption | refine modHub_inv _ _ _ ?_ | refine send_inv _ _ ?_ | refine safe_next.2 ?_
    | refine safe_ite (fun _ => ?_) (fun _ => ?_) | refine inv_ite (fun _ => ?_) (fun _ => ?_) | split | dsimp only

theorem execReservedClassDiscard_safe (hub cls opcode : Nat) (s : State)  (hs : Inv s = true) : Safe (execReservedClassDiscard hub cls opcode s) := by
  unfold execReservedClassDiscard
  with_reducible
    repeat' first
    | assumption | refine countHub_inv _ _ _ _ ?_ | refine hubEvent_inv _ _ _ _ ?_ | refine modHub_inv _ _ _ ?_
    | refine safe_next.2 ?_ | refine safe_ite (fun _ => ?_) (fun _ => ?_) | refine inv_ite (fun _ => ?_) (fun _ => ?_)
    | split | dsimp only

theorem execHubWatch_safe (sector : Nat) (s : State)  (hs : Inv s = true) : Safe (execHubWatch sector s) := by
  unfold execHubWatch
  with_reducible
    repeat' first
    | assumption | refine modHub_inv _ _ _ ?_ | refine arrive_safe _ _ _ (fun _ _ => ?_) ?_ | refine safe_next.2 ?_
    | refine safe_ite (fun _ => ?_) (fun _ => ?_) | refine inv_ite (fun _ => ?_) (fun _ => ?_) | split | dsimp only

theorem loseSector_inv (x : Nat) (s : State)  (hs : Inv s = true) : Inv (loseSector x s) = true := by
  unfold loseSector
  with_reducible
    repeat' first
    | assumption | refine decideStage_inv _ _ ?_ | refine loseSentinel_inv _ _ ?_ | refine modHub_inv _ _ _ ?_
    | refine modThrottle_inv _ _ ?_ | refine each_inv _ _ (fun _ _ _ => ?_) _ ?_
    | refine inv_ite (fun _ => ?_) (fun _ => ?_) | split | dsimp only

theorem captureRepeat_inv (h site : Nat) (c : Capture) (s : State)  (hs : Inv s = true) : Inv (captureRepeat h site c s) = true := by
  unfold captureRepeat
  with_reducible
    repeat' first
    | assumption | refine requestRepeat_inv _ _ _ ?_ | refine sampleDraw_inv _ _ ?_
    | refine inv_ite (fun _ => ?_) (fun _ => ?_) | split | dsimp only

theorem moveMaster_inv (s : State)  (hs : Inv s = true) : Inv (moveMaster s) = true := by
  exact Inv_of_get (fun φ hφ => moveMaster_get (notMem_of hφ rfl) _) hs

theorem adoptStep_inv (x y p : Nat) (sites : List Nat) (late : Option Instr) (s : State)  (hs : Inv s = true) : Inv (adoptStep x y p sites late s) = true := by
  unfold adoptStep
  with_reducible
    repeat' first
    | assumption | refine checkContribution_inv _ _ _ ?_ | refine endBoundary_inv _ _ _ _ ?_
    | refine modHub_inv _ _ _ ?_ | refine modSen_inv _ _ _ ?_ | refine moveSites_inv _ _ _ _ ?_
    | refine reopenContribution_inv _ _ _ _ ?_ | refine setSent_inv _ _ ?_
    | refine each_inv _ _ (fun _ _ _ => ?_) _ ?_ | refine foldl_inv _ _ (fun _ _ _ => ?_) _ ?_
    | refine foldl_fst_inv _ _ (fun _ _ _ => ?_) _ ?_ | refine foldl_snd_inv _ _ (fun _ _ _ => ?_) _ ?_
    | refine inv_ite (fun _ => ?_) (fun _ => ?_) | split | dsimp only

theorem adoptSector_inv (x y : Nat) (s : State)  (hs : Inv s = true) : Inv (adoptSector x y s) = true := by
  unfold adoptSector
  with_reducible
    repeat' first
    | assumption | refine adoptStep_inv _ _ _ _ _ _ ?_ | refine captureRepeat_inv _ _ _ _ ?_
    | refine census_inv _ _ _ ?_ | refine discardRun_inv _ _ _ ?_ | refine hubEvent_inv _ _ _ _ ?_
    | refine joinPass_inv _ _ _ ?_ | refine loseSentinel_inv _ _ ?_ | refine modHub_inv _ _ _ ?_
    | refine modPart_inv _ _ _ ?_ | refine modSen_inv _ _ _ ?_ | refine moveMaster_inv _ ?_
    | refine replayResult_inv _ _ _ ?_ | refine send_inv _ _ ?_ | refine sendAll_inv _ _ ?_
    | refine setRasCheck_inv _ _ ?_ | refine setSent_inv _ _ ?_ | refine setTakeover_inv _ _ ?_
    | refine each_inv _ _ (fun _ _ _ => ?_) _ ?_ | refine foldl_inv _ _ (fun _ _ _ => ?_) _ ?_
    | refine foldl_fst_inv _ _ (fun _ _ _ => ?_) _ ?_ | refine foldl_snd_inv _ _ (fun _ _ _ => ?_) _ ?_
    | refine inv_ite (fun _ => ?_) (fun _ => ?_) | split | dsimp only

theorem failHub_inv (x : Nat) (s : State)  (hs : Inv s = true) : Inv (failHub x s) = true := by
  unfold failHub
  with_reducible
    repeat' first
    | assumption | refine adoptSector_inv _ _ _ ?_ | refine loseSector_inv _ _ ?_ | refine loseSentinel_inv _ _ ?_
    | refine moveMaster_inv _ ?_ | refine resumeBoundaries_inv _ ?_ | refine each_inv _ _ (fun _ _ _ => ?_) _ ?_
    | refine inv_ite (fun _ => ?_) (fun _ => ?_) | split | dsimp only

end Sys2Proof.Machine
end

