-- ==== Sys2Proof/Laws/InvLog.lean ====
section
/-!
SUPPORT. The invariant through the operations of Machine/Log.lean.
-/
namespace Sys2Proof.Machine

open Sys2Proof

set_option linter.all false
set_option Elab.async false

theorem execEvent_safe (ev : EventMsg) (s : State)  (hs : Inv s = true) : Safe (execEvent ev s) := by
  unfold execEvent
  with_reducible
    repeat' first
    | assumption | refine accept_inv _ _ ?_ | refine arrive_safe _ _ _ (fun _ _ => ?_) ?_ | refine safe_next.2 ?_
    | refine safe_ite (fun _ => ?_) (fun _ => ?_) | refine inv_ite (fun _ => ?_) (fun _ => ?_) | split | dsimp only

theorem execRecordMirror_safe (index : Nat) (r : Rec) (s : State)  (hs : Inv s = true) : Safe (execRecordMirror index r s) := by
  unfold execRecordMirror
  with_reducible
    repeat' first
    | assumption | refine mirrorWrite_inv _ _ ?_ | refine modRec_inv _ _ ?_ | refine receive_inv _ _ ?_
    | refine send_inv _ _ ?_ | refine safe_next.2 ?_ | refine safe_ite (fun _ => ?_) (fun _ => ?_)
    | refine inv_ite (fun _ => ?_) (fun _ => ?_) | split | dsimp only

theorem execMirrorAck_safe (index : Nat) (s : State)  (hs : Inv s = true) : Safe (execMirrorAck index s) := by
  unfold execMirrorAck
  with_reducible
    repeat' first
    | assumption | refine modRec_inv _ _ ?_ | refine receive_inv _ _ ?_ | refine safe_next.2 ?_
    | refine safe_ite (fun _ => ?_) (fun _ => ?_) | refine inv_ite (fun _ => ?_) (fun _ => ?_) | split | dsimp only

theorem execMirrorAckTimeout_safe (index : Nat) (s : State)  (hs : Inv s = true) : Safe (execMirrorAckTimeout index s) := by
  unfold execMirrorAckTimeout
  with_reducible
    repeat' first
    | assumption | refine modRec_inv _ _ ?_ | refine recorderAlert_inv _ _ ?_ | refine safe_next.2 ?_
    | refine safe_ite (fun _ => ?_) (fun _ => ?_) | refine inv_ite (fun _ => ?_) (fun _ => ?_) | split | dsimp only

theorem rejoinMirror_inv (s : State)  (hs : Inv s = true) : Inv (rejoinMirror s) = true := by
  unfold rejoinMirror
  with_reducible
    repeat' first
    | assumption | refine mirrorWrite_inv _ _ ?_ | refine modRec_inv _ _ ?_ | refine setMramA_inv ?_ ?_
    | refine setMramB_inv ?_ ?_ | refine ringBatch_wf (mram_wf _ ?_) _ _ | refine ringCtlPut_wf (mram_wf _ ?_) _
    | refine mram_wf _ ?_ | refine mramA_wf ?_ | refine mramB_wf ?_ | refine wf_ite (fun _ => ?_) (fun _ => ?_)
    | refine wf_fst_ite (fun _ => ?_) (fun _ => ?_) | refine inv_ite (fun _ => ?_) (fun _ => ?_) | split | dsimp only

theorem execStandbyRejoin_safe (s : State)  (hs : Inv s = true) : Safe (execStandbyRejoin s) := by
  unfold execStandbyRejoin
  with_reducible
    repeat' first
    | assumption | refine rejoinMirror_inv _ ?_ | refine setChecked_inv _ _ ?_ | refine safe_next.2 ?_
    | refine safe_ite (fun _ => ?_) (fun _ => ?_) | refine inv_ite (fun _ => ?_) (fun _ => ?_) | split | dsimp only

theorem execRingBatchWrite_safe (count : Nat) (s : State)  (hs : Inv s = true) : Safe (execRingBatchWrite count s) := by
  unfold execRingBatchWrite
  with_reducible
    repeat' first
    | assumption | refine acceptWaiting_inv _ _ ?_ | refine drained_inv _ ?_ | refine modRec_inv _ _ ?_
    | refine ringWrite_inv _ _ ?_ | refine safe_next.2 ?_ | refine safe_ite (fun _ => ?_) (fun _ => ?_)
    | refine inv_ite (fun _ => ?_) (fun _ => ?_) | split | dsimp only

theorem suppressionSummary_inv (window : Dword) (x : Suppressed) (s : State)  (hs : Inv s = true) : Inv (suppressionSummary window x s) = true := by
  unfold suppressionSummary
  with_reducible
    repeat' first
    | assumption | refine accept_inv _ _ ?_ | refine inv_ite (fun _ => ?_) (fun _ => ?_) | split | dsimp only

theorem execRateWindowStart_safe (s : State)  (hs : Inv s = true) : Safe (execRateWindowStart s) := by
  unfold execRateWindowStart
  with_reducible
    repeat' first
    | assumption | refine modRec_inv _ _ ?_ | refine suppressionSummary_inv _ _ _ ?_
    | refine each_inv _ _ (fun _ _ _ => ?_) _ ?_ | refine safe_next.2 ?_ | refine safe_ite (fun _ => ?_) (fun _ => ?_)
    | refine inv_ite (fun _ => ?_) (fun _ => ?_) | split | dsimp only

theorem execDropSummarySecond_safe (s : State)  (hs : Inv s = true) : Safe (execDropSummarySecond s) := by
  unfold execDropSummarySecond
  with_reducible
    repeat' first
    | assumption | refine dropSummary_inv _ ?_ | refine safe_next.2 ?_ | refine safe_ite (fun _ => ?_) (fun _ => ?_)
    | refine inv_ite (fun _ => ?_) (fun _ => ?_) | split | dsimp only

theorem execFreezeLimitExpiry_safe (s : State)  (hs : Inv s = true) : Safe (execFreezeLimitExpiry s) := by
  unfold execFreezeLimitExpiry
  with_reducible
    repeat' first
    | assumption | refine thaw_inv _ _ ?_ | refine safe_next.2 ?_ | refine safe_ite (fun _ => ?_) (fun _ => ?_)
    | refine inv_ite (fun _ => ?_) (fun _ => ?_) | split | dsimp only

theorem execLogFreeze_safe (seq : Nat) (s : State)  (hs : Inv s = true) : Safe (execLogFreeze seq s) := by
  unfold execLogFreeze
  with_reducible
    repeat' first
    | assumption | refine complete_inv _ _ _ _ ?_ | refine modRec_inv _ _ ?_ | refine runCmd_safe _ _ _ _ ?_ ?_
    | refine safe_next.2 ?_ | refine safe_ite (fun _ => ?_) (fun _ => ?_) | refine inv_ite (fun _ => ?_) (fun _ => ?_)
    | split | dsimp only

theorem execLogThaw_safe (seq : Nat) (s : State)  (hs : Inv s = true) : Safe (execLogThaw seq s) := by
  unfold execLogThaw
  with_reducible
    repeat' first
    | assumption | refine complete_inv _ _ _ _ ?_ | refine thaw_inv _ _ ?_ | refine runCmd_safe _ _ _ _ ?_ ?_
    | refine safe_next.2 ?_ | refine safe_ite (fun _ => ?_) (fun _ => ?_) | refine inv_ite (fun _ => ?_) (fun _ => ?_)
    | split | dsimp only

theorem execLogClear_safe (seq : Nat) (s : State)  (hs : Inv s = true) : Safe (execLogClear seq s) := by
  unfold execLogClear
  with_reducible
    repeat' first
    | assumption | refine complete_inv _ _ _ _ ?_ | refine modRec_inv _ _ ?_ | refine record_inv _ _ _ ?_
    | refine setMramA_inv ?_ ?_ | refine setMramB_inv ?_ ?_ | refine ringBatch_wf (mram_wf _ ?_) _ _
    | refine ringCtlPut_wf (mram_wf _ ?_) _ | refine mram_wf _ ?_ | refine mramA_wf ?_ | refine mramB_wf ?_
    | refine wf_ite (fun _ => ?_) (fun _ => ?_) | refine wf_fst_ite (fun _ => ?_) (fun _ => ?_)
    | refine runCmd_safe _ _ _ _ ?_ ?_ | refine safe_next.2 ?_ | refine safe_ite (fun _ => ?_) (fun _ => ?_)
    | refine inv_ite (fun _ => ?_) (fun _ => ?_) | split | dsimp only

theorem execLogMark_safe (seq : Nat) (s : State)  (hs : Inv s = true) : Safe (execLogMark seq s) := by
  unfold execLogMark
  with_reducible
    repeat' first
    | assumption | refine accept_inv _ _ ?_ | refine complete_inv _ _ _ _ ?_ | refine runCmd_safe _ _ _ _ ?_ ?_
    | refine safe_next.2 ?_ | refine safe_ite (fun _ => ?_) (fun _ => ?_) | refine inv_ite (fun _ => ?_) (fun _ => ?_)
    | split | dsimp only

theorem execTimeSetCalendar_safe (seq : Nat) (s : State)  (hs : Inv s = true) : Safe (execTimeSetCalendar seq s) := by
  unfold execTimeSetCalendar
  with_reducible
    repeat' first
    | assumption | refine calendarMark_inv _ _ _ ?_ | refine complete_inv _ _ _ _ ?_ | refine modIsland_inv _ _ _ ?_
    | refine modWin_inv _ (by rfl) (by rfl) (by rfl) ?_
    | refine modWin_inv _ (by exact (unlockBulk_keeps _ _).1) (by exact (unlockBulk_keeps _ _).2.1) (by exact (unlockBulk_keeps _ _).2.2) ?_
    | refine bulkWrite_inv _ _ ?_ | refine releaseBulk_inv _ ?_ | refine claimBulk_inv _ _ ?_
    | refine bulkOpen_inv _ _ ?_ | refine runCmd_safe _ _ _ _ ?_ ?_ | refine safe_next.2 ?_
    | refine safe_ite (fun _ => ?_) (fun _ => ?_) | refine inv_ite (fun _ => ?_) (fun _ => ?_) | split | dsimp only

theorem execHourlyCalendarMark_safe (s : State)  (hs : Inv s = true) : Safe (execHourlyCalendarMark s) := by
  unfold execHourlyCalendarMark
  with_reducible
    repeat' first
    | assumption | refine calendarMark_inv _ _ _ ?_ | refine safe_next.2 ?_
    | refine safe_ite (fun _ => ?_) (fun _ => ?_) | refine inv_ite (fun _ => ?_) (fun _ => ?_) | split | dsimp only

theorem writeBoot_inv (f : BootCtl → BootCtl) (s : State)  (hs : Inv s = true) : Inv (writeBoot f s) = true := by
  unfold writeBoot
  with_reducible
    repeat' first
    | assumption | refine modBoot_inv _ _ ?_ | refine mramBoth_inv _ _ _ ?_
    | refine inv_ite (fun _ => ?_) (fun _ => ?_) | split | dsimp only

theorem execCounterCopyTimer_safe (s : State)  (hs : Inv s = true) : Safe (execCounterCopyTimer s) := by
  unfold execCounterCopyTimer
  with_reducible
    repeat' first
    | assumption | refine modIsland_inv _ _ _ ?_ | refine writeBoot_inv _ _ ?_ | refine safe_next.2 ?_
    | refine safe_ite (fun _ => ?_) (fun _ => ?_) | refine inv_ite (fun _ => ?_) (fun _ => ?_) | split | dsimp only

theorem execMramWrite_safe (die offset : Nat) (data : List Byte) (s : State)  (hs : Inv s = true) : Safe (execMramWrite die offset data s) := by
  unfold execMramWrite
  with_reducible
    repeat' first
    | assumption | refine mramPut_inv _ _ _ _ ?_ | refine receive_inv _ _ ?_ | refine safe_next.2 ?_
    | refine safe_ite (fun _ => ?_) (fun _ => ?_) | refine inv_ite (fun _ => ?_) (fun _ => ?_) | split | dsimp only

theorem flushCount_inv (site : Nat) (s : State)  (hs : Inv s = true) : Inv (flushCount site s) = true := by
  unfold flushCount
  with_reducible
    repeat' first
    | assumption | refine setUnflushed_inv _ _ ?_ | refine writeSite_inv _ _ ?_
    | refine inv_ite (fun _ => ?_) (fun _ => ?_) | split | dsimp only

theorem execHistoryCountFlush_safe (site : Nat) (s : State)  (hs : Inv s = true) : Safe (execHistoryCountFlush site s) := by
  unfold execHistoryCountFlush
  with_reducible
    repeat' first
    | assumption | refine flushCount_inv _ _ ?_ | refine safe_next.2 ?_ | refine safe_ite (fun _ => ?_) (fun _ => ?_)
    | refine inv_ite (fun _ => ?_) (fun _ => ?_) | split | dsimp only

end Sys2Proof.Machine
end

