-- ==== Sys2Proof/Laws/InvMailbox.lean ====
section
/-!
SUPPORT. The invariant through the operations of Machine/Mailbox.lean.
-/
namespace Sys2Proof.Machine

open Sys2Proof

set_option linter.all false
set_option Elab.async false

theorem acceptCmd_inv (c : Cmd) (lock : Bool) (s : State)  (hs : Inv s = true) : Inv (acceptCmd c lock s) = true := by
  have hn : 0 < nextSequence s.win.nextSeq ∧ nextSequence s.win.nextSeq < 2 ^ 32 := by
    unfold nextSequence
    split <;> omega
  exact modWin_wf_inv _ (bulk_wf hs) (channels_wf hs) hn hs

theorem oobAck_inv (die eid status op : Nat) (tag : Word) (seq : Nat) (s : State)  (hs : Inv s = true) : Inv (oobAck die eid status op tag seq s) = true := by
  exact Inv_of_get (fun φ hφ => oobAck_get (notMem_of hφ rfl) _ _ _ _ _ _ _) hs

theorem acknowledge_inv (ch : Nat) (s : State)  (hs : Inv s = true) : Inv (acknowledge ch s) = true := by
  unfold acknowledge
  with_reducible
    repeat' first
    | assumption | refine acceptCmd_inv _ _ _ ?_ | refine oobAck_inv _ _ _ _ _ _ _ ?_ | refine modChannel_inv _ _ ?_
    | refine inv_ite (fun _ => ?_) (fun _ => ?_) | split | dsimp only

theorem serveMailbox_inv (s : State)  (hs : Inv s = true) : Inv (serveMailbox s) = true := by
  unfold serveMailbox
  with_reducible
    repeat' first
    | assumption | refine acknowledge_inv _ _ ?_ | refine each_inv _ _ (fun _ _ _ => ?_) _ ?_
    | refine inv_ite (fun _ => ?_) (fun _ => ?_) | split | dsimp only

theorem submitOn_inv (ch : Nat) (priv : Priv) (oob : Option (Nat × Nat)) (bulk : List Byte) (s : State)  (hs : Inv s = true) : Inv (submitOn ch priv oob bulk s) = true := by
  unfold submitOn
  with_reducible
    repeat' first
    | assumption | refine acknowledge_inv _ _ ?_ | refine modChannel_inv _ _ ?_
    | refine inv_ite (fun _ => ?_) (fun _ => ?_) | split | dsimp only

end Sys2Proof.Machine
end

