-- ==== Sys2Proof/Laws/InvBringUp.lean ====
section
/-!
SUPPORT. The invariant through the operations of Machine/BringUp.lean.
-/
namespace Sys2Proof.Machine

open Sys2Proof

set_option linter.all false
set_option Elab.async false

theorem endStep_inv (n : Nat) (s : State)  (hs : Inv s = true) : Inv (endStep n s) = true := by
  exact Inv_of_get (fun φ hφ => endStep_get (notMem_of hφ rfl) _ _) hs

theorem countCycle_inv (die offTime : Nat) (s : State)  (hs : Inv s = true) : Inv (countCycle die offTime s) = true := by
  unfold countCycle
  with_reducible
    repeat' first
    | assumption | refine modIsland_inv _ _ _ ?_ | refine record_inv _ _ _ ?_
    | refine inv_ite (fun _ => ?_) (fun _ => ?_) | split | dsimp only

theorem noteInvalid_inv (die slot test type : Nat) (s : State)  (hs : Inv s = true) : Inv (noteInvalid die slot test type s) = true := by
  unfold noteInvalid
  with_reducible
    repeat' first
    | assumption | refine modBoot_inv _ _ ?_ | refine record_inv _ _ _ ?_ | refine inv_ite (fun _ => ?_) (fun _ => ?_)
    | split | dsimp only

theorem setTry_inv (die : Nat) (slots : List Nat) (auth : Bool) (s : State)  (hs : Inv s = true) : Inv (setTry die slots auth s) = true := by
  exact Inv_of_get (fun φ hφ => setTry_get (notMem_of hφ rfl) _ _ _ _) hs

theorem trySlots_inv (die : Nat) (p : PowerUp) (x0 : List Nat) (s : State) (hs : Inv s = true) : Inv (trySlots die p x0 s) = true := by
  induction x0 generalizing s with
  | nil => exact setTry_inv _ _ _ _ hs
  | cons k ks ih =>
    unfold trySlots
    dsimp only
    split
    · exact setTry_inv _ _ _ _ hs
    · exact ih _ (noteInvalid_inv _ _ _ _ _ hs)

theorem selectSlot_inv (die cause : Nat) (p : PowerUp) (s : State)  (hs : Inv s = true) : Inv (selectSlot die cause p s) = true := by
  unfold selectSlot
  with_reducible
    repeat' first
    | assumption | refine modBoot_inv _ _ ?_ | refine mramPut_inv _ _ _ _ ?_ | refine record_inv _ _ _ ?_
    | refine trySlots_inv _ _ _ _ ?_ | refine inv_ite (fun _ => ?_) (fun _ => ?_) | split | dsimp only

theorem startRecorder_inv (s : State)  (hs : Inv s = true) : Inv (startRecorder s) = true := by
  unfold startRecorder
  with_reducible
    repeat' first
    | assumption | refine accept_inv _ _ ?_ | refine calendarMark_inv _ _ _ ?_ | refine dropSummary_inv _ ?_
    | refine modBoot_inv _ _ ?_ | refine modRec_inv _ _ ?_ | refine setMramA_inv ?_ ?_ | refine setMramB_inv ?_ ?_
    | refine ringBatch_wf (mram_wf _ ?_) _ _ | refine ringCtlPut_wf (mram_wf _ ?_) _ | refine mram_wf _ ?_
    | refine mramA_wf ?_ | refine mramB_wf ?_ | refine wf_ite (fun _ => ?_) (fun _ => ?_)
    | refine wf_fst_ite (fun _ => ?_) (fun _ => ?_) | refine each_inv _ _ (fun _ _ _ => ?_) _ ?_
    | refine inv_ite (fun _ => ?_) (fun _ => ?_) | split | dsimp only

theorem enterRecovery_inv (s : State)  (hs : Inv s = true) : Inv (enterRecovery s) = true := by
  unfold enterRecovery
  with_reducible
    repeat' first
    | assumption | refine endStep_inv _ _ ?_ | refine modBoot_inv _ _ ?_ | refine modMgr_inv _ _ _ ?_
    | refine raiseFatal_inv _ _ ?_ | refine record_inv _ _ _ ?_ | refine serveMailbox_inv _ ?_
    | refine startRecorder_inv _ ?_ | refine inv_ite (fun _ => ?_) (fun _ => ?_) | split | dsimp only

theorem stepThree_inv (p : PowerUp) (s : State)  (hs : Inv s = true) : Inv (stepThree p s) = true := by
  unfold stepThree
  with_reducible
    repeat' first
    | assumption | refine endStep_inv _ _ ?_ | refine loadTime_inv _ ?_ | refine setSlot_inv _ _ ?_
    | refine setThrottle_inv _ _ ?_ | refine setHub_inv ?_ ?_ | refine setSen_inv ?_ ?_ | refine setSensors_inv ?_ ?_
    | refine hub_wf ?_ | refine sen_wf ?_ | refine sensors_wf ?_ | refine Sparse.wf_set ?_ _ _
    | refine Sparse.wf_upd ?_ _ _ | refine Sparse.wf_mapAll ?_ _ | exact Sparse.wf_nil
    | exact Sparse.wf_tabulate _ _ (sectors_sorted _) | exact Sparse.wf_tabulate _ _ (sites_sorted _)
    | refine Sparse.wf_foldl _ _ (fun _ _ _ => ?_) _ ?_ | refine wf_ite (fun _ => ?_) (fun _ => ?_)
    | refine foldl_inv _ _ (fun _ _ _ => ?_) _ ?_ | refine foldl_fst_inv _ _ (fun _ _ _ => ?_) _ ?_
    | refine foldl_snd_inv _ _ (fun _ _ _ => ?_) _ ?_ | refine inv_ite (fun _ => ?_) (fun _ => ?_) | split
    | dsimp only

theorem logSramRepair_inv (r : SramRepair) (s : State)  (hs : Inv s = true) : Inv (logSramRepair r s) = true := by
  unfold logSramRepair
  with_reducible
    repeat' first
    | assumption | refine mramBoth_inv _ _ _ ?_ | refine setSramLog_inv _ _ ?_
    | refine inv_ite (fun _ => ?_) (fun _ => ?_) | split | dsimp only

theorem stepFour_inv (p : PowerUp) (s : State)  (hs : Inv s = true) : Inv (stepFour p s) = true := by
  unfold stepFour
  with_reducible
    repeat' first
    | assumption | refine endStep_inv _ _ ?_ | refine logSramRepair_inv _ _ ?_ | refine record_inv _ _ _ ?_
    | refine setSramLog_inv _ _ ?_ | refine each_inv _ _ (fun _ _ _ => ?_) _ ?_
    | refine inv_ite (fun _ => ?_) (fun _ => ?_) | split | dsimp only

theorem loadSite_inv (site : Nat) (s : State)  (hs : Inv s = true) : Inv (loadSite site s) = true := by
  unfold loadSite
  with_reducible
    repeat' first
    | assumption | refine modSite_inv _ _ _ ?_ | refine record_inv _ _ _ ?_ | refine writeSite_inv _ _ ?_
    | refine setMarginPrev_inv ?_ ?_ | refine marginPrev_wf ?_ | refine Sparse.wf_set ?_ _ _
    | refine Sparse.wf_upd ?_ _ _ | refine Sparse.wf_mapAll ?_ _ | exact Sparse.wf_nil
    | exact Sparse.wf_tabulate _ _ (sectors_sorted _) | exact Sparse.wf_tabulate _ _ (sites_sorted _)
    | refine Sparse.wf_foldl _ _ (fun _ _ _ => ?_) _ ?_ | refine wf_ite (fun _ => ?_) (fun _ => ?_)
    | refine inv_ite (fun _ => ?_) (fun _ => ?_) | split | dsimp only

theorem decideSite_inv (site : Nat) (s : State)  (hs : Inv s = true) : Inv (decideSite site s) = true := by
  unfold decideSite
  with_reducible
    repeat' first
    | assumption | refine changeSite_inv _ _ _ _ _ ?_ | refine loadSite_inv _ _ ?_
    | refine inv_ite (fun _ => ?_) (fun _ => ?_) | split | dsimp only

theorem checkShort_inv (sector : Nat) (s : State)  (hs : Inv s = true) : Inv (checkShort sector s) = true := by
  unfold checkShort
  with_reducible
    repeat' first
    | assumption | refine hubEvent_inv _ _ _ _ ?_ | refine modBoot_inv _ _ ?_ | refine raiseAlert_inv _ _ ?_
    | refine inv_ite (fun _ => ?_) (fun _ => ?_) | split | dsimp only

theorem stepFive_inv (s : State)  (hs : Inv s = true) : Inv (stepFive s) = true := by
  unfold stepFive
  with_reducible
    repeat' first
    | assumption | refine checkShort_inv _ _ ?_ | refine checkSpares_inv _ _ ?_ | refine decideSite_inv _ _ ?_
    | refine endStep_inv _ _ ?_ | refine modBoot_inv _ _ ?_ | refine each_inv _ _ (fun _ _ _ => ?_) _ ?_
    | refine inv_ite (fun _ => ?_) (fun _ => ?_) | split | dsimp only

theorem placeAt_inv (tile site : Nat) (s : State)  (hs : Inv s = true) : Inv (placeAt tile site s) = true := by
  unfold placeAt
  with_reducible
    repeat' first
    | assumption | refine setXlat0_inv ?_ ?_ | refine setXlat1_inv ?_ ?_ | refine xlat0_wf ?_ | refine xlat1_wf ?_
    | refine Sparse.wf_set ?_ _ _ | refine Sparse.wf_upd ?_ _ _ | refine Sparse.wf_mapAll ?_ _ | exact Sparse.wf_nil
    | exact Sparse.wf_tabulate _ _ (sectors_sorted _) | exact Sparse.wf_tabulate _ _ (sites_sorted _)
    | refine Sparse.wf_foldl _ _ (fun _ _ _ => ?_) _ ?_ | refine wf_ite (fun _ => ?_) (fun _ => ?_)
    | refine inv_ite (fun _ => ?_) (fun _ => ?_) | split | dsimp only

theorem placeTile_inv (tile : Nat) (s : State)  (hs : Inv s = true) : Inv (placeTile tile s) = true := by
  unfold placeTile
  with_reducible
    repeat' first
    | assumption | refine changeSite_inv _ _ _ _ _ ?_ | refine placeAt_inv _ _ _ ?_ | refine putBoth_inv _ _ _ _ ?_
    | refine recordFrom_inv _ _ _ _ ?_ | refine inv_ite (fun _ => ?_) (fun _ => ?_) | split | dsimp only

theorem stepSix_inv (s : State)  (hs : Inv s = true) : Inv (stepSix s) = true := by
  unfold stepSix
  with_reducible
    repeat' first
    | assumption | refine endStep_inv _ _ ?_ | refine modBoot_inv _ _ ?_ | refine placeTile_inv _ _ ?_
    | refine restUnits_inv _ _ ?_ | refine setHub_inv ?_ ?_ | refine setRoutes0_inv ?_ ?_
    | refine setRoutes1_inv ?_ ?_ | refine setSen_inv ?_ ?_ | refine setXlat0_inv ?_ ?_ | refine setXlat1_inv ?_ ?_
    | refine hub_wf ?_ | refine routes0_wf ?_ | refine routes1_wf ?_ | refine sen_wf ?_ | refine xlat0_wf ?_
    | refine xlat1_wf ?_ | refine Sparse.wf_set ?_ _ _ | refine Sparse.wf_upd ?_ _ _ | refine Sparse.wf_mapAll ?_ _
    | exact Sparse.wf_nil | exact Sparse.wf_tabulate _ _ (sectors_sorted _)
    | exact Sparse.wf_tabulate _ _ (sites_sorted _) | refine Sparse.wf_foldl _ _ (fun _ _ _ => ?_) _ ?_
    | refine wf_ite (fun _ => ?_) (fun _ => ?_) | refine each_inv _ _ (fun _ _ _ => ?_) _ ?_
    | refine inv_ite (fun _ => ?_) (fun _ => ?_) | split | dsimp only

theorem repairMemory_inv (p : PowerUp) (source addr : Nat) (s : State)  (hs : Inv s = true) : Inv (repairMemory p source addr s) = true := by
  unfold repairMemory
  with_reducible
    repeat' first
    | assumption | refine record_inv _ _ _ ?_ | refine inv_ite (fun _ => ?_) (fun _ => ?_) | split | dsimp only

theorem repairLogged_inv (p : PowerUp) (n : Nat) (s : State)  (hs : Inv s = true) : Inv (repairLogged p n s) = true := by
  unfold repairLogged
  with_reducible
    repeat' first
    | assumption | refine mramBoth_inv _ _ _ ?_ | refine repairMemory_inv _ _ _ _ ?_ | refine setMemLog_inv _ _ ?_
    | refine inv_ite (fun _ => ?_) (fun _ => ?_) | split | dsimp only

theorem stepSeven_inv (p : PowerUp) (s : State)  (hs : Inv s = true) : Inv (stepSeven p s) = true := by
  unfold stepSeven
  with_reducible
    repeat' first
    | assumption | refine modBoot_inv _ _ ?_ | refine repairLogged_inv _ _ _ ?_ | refine repairMemory_inv _ _ _ _ ?_
    | refine setMemLog_inv _ _ ?_ | refine setNet_inv ?_ ?_ | refine net_wf ?_ | refine Sparse.wf_set ?_ _ _
    | refine Sparse.wf_upd ?_ _ _ | refine Sparse.wf_mapAll ?_ _ | exact Sparse.wf_nil
    | exact Sparse.wf_tabulate _ _ (sectors_sorted _) | exact Sparse.wf_tabulate _ _ (sites_sorted _)
    | refine Sparse.wf_foldl _ _ (fun _ _ _ => ?_) _ ?_ | refine wf_ite (fun _ => ?_) (fun _ => ?_)
    | refine each_inv _ _ (fun _ _ _ => ?_) _ ?_ | refine inv_ite (fun _ => ?_) (fun _ => ?_) | split | dsimp only

theorem bringUp_inv (s : State)  (hs : Inv s = true) : Inv (bringUp s) = true := by
  unfold bringUp
  with_reducible
    repeat' first
    | assumption | refine stepFive_inv _ ?_ | refine stepFour_inv _ _ ?_ | refine stepSeven_inv _ _ ?_
    | refine stepSix_inv _ ?_ | refine stepThree_inv _ _ ?_ | refine inv_ite (fun _ => ?_) (fun _ => ?_) | split
    | dsimp only

theorem writeSettings_inv (cause seq : Nat) (s : State)  (hs : Inv s = true) : Inv (writeSettings cause seq s) = true := by
  exact Inv_of_get (fun φ hφ => writeSettings_get (notMem_of hφ rfl) _ _ _) hs

theorem defaultPartition_inv (n : Nat) (s : State)  (hs : Inv s = true) : Inv (defaultPartition n s) = true := by
  unfold defaultPartition
  with_reducible
    repeat' first
    | assumption | refine modPart_inv _ _ _ ?_ | refine inv_ite (fun _ => ?_) (fun _ => ?_) | split | dsimp only

theorem confirmTrial_inv (s : State)  (hs : Inv s = true) : Inv (confirmTrial s) = true := by
  unfold confirmTrial
  with_reducible
    repeat' first
    | assumption | refine writeBoot_inv _ _ ?_ | refine inv_ite (fun _ => ?_) (fun _ => ?_) | split | dsimp only

theorem becomeReady_inv (s : State)  (hs : Inv s = true) : Inv (becomeReady s) = true := by
  unfold becomeReady
  with_reducible
    repeat' first
    | assumption | refine completeAll_inv _ _ _ _ ?_ | refine confirmTrial_inv _ ?_
    | refine defaultPartition_inv _ _ ?_ | refine endStep_inv _ _ ?_ | refine modBoot_inv _ _ ?_
    | refine record_inv _ _ _ ?_ | refine startDeep_inv _ _ ?_ | refine each_inv _ _ (fun _ _ _ => ?_) _ ?_
    | refine inv_ite (fun _ => ?_) (fun _ => ?_) | split | dsimp only

theorem endTraining_inv (s : State)  (hs : Inv s = true) : Inv (endTraining s) = true := by
  unfold endTraining
  with_reducible
    repeat' first
    | assumption | refine becomeReady_inv _ ?_ | refine endStep_inv _ _ ?_ | refine writeSettings_inv _ _ _ ?_
    | refine inv_ite (fun _ => ?_) (fun _ => ?_) | split | dsimp only

theorem endStepTwo_inv (s : State)  (hs : Inv s = true) : Inv (endStepTwo s) = true := by
  unfold endStepTwo
  with_reducible
    repeat' first
    | assumption | refine bringUp_inv _ ?_ | refine endStep_inv _ _ ?_ | refine record_inv _ _ _ ?_
    | refine rejoinMirror_inv _ ?_ | refine serveMailbox_inv _ ?_ | refine setImage_inv _ _ ?_
    | refine startRecorder_inv _ ?_ | refine inv_ite (fun _ => ?_) (fun _ => ?_) | split | dsimp only

theorem runManager_inv (die slot : Nat) (s : State)  (hs : Inv s = true) : Inv (runManager die slot s) = true := by
  exact Inv_of_get (fun φ hφ => runManager_get (notMem_of hφ rfl) _ _ _) hs

theorem mismatch_inv (s : State)  (hs : Inv s = true) : Inv (mismatch s) = true := by
  unfold mismatch
  with_reducible
    repeat' first
    | assumption | refine modMgr_inv _ _ _ ?_ | refine raiseFatal_inv _ _ ?_ | refine record_inv _ _ _ ?_
    | refine inv_ite (fun _ => ?_) (fun _ => ?_) | split | dsimp only

theorem joinStandby_inv (s : State)  (hs : Inv s = true) : Inv (joinStandby s) = true := by
  exact Inv_of_get (fun φ hφ => joinStandby_get (notMem_of hφ rfl) _) hs

theorem resetWafer_inv (tests : PowerUp) (seqs : List Nat) (s : State)  (hs : Inv s = true) : Inv (resetWafer tests seqs s) = true := by
  unfold resetWafer
  with_reducible
    repeat' first
    | assumption | refine completeAll_inv _ _ _ _ ?_ | refine modBoot_inv _ _ ?_ | refine record_inv _ _ _ ?_
    | refine replayResult_inv _ _ _ ?_ | refine setAnswers_inv _ _ ?_ | refine setGraph_inv _ _ ?_
    | refine setLinks_inv _ _ ?_ | refine setRasCheck_inv _ _ ?_ | refine setScreenReqs_inv _ _ ?_
    | refine setSent_inv _ _ ?_ | refine setStop_inv _ _ ?_ | refine setTakeover_inv _ _ ?_
    | refine setWaits_inv _ _ ?_ | refine dramWrite_inv _ _ ?_ | refine setDram_inv nil_wf ?_
    | refine setHub_inv ?_ ?_ | refine setNet_inv ?_ ?_ | refine setPart_inv ?_ ?_ | refine setRoutes0_inv ?_ ?_
    | refine setRoutes1_inv ?_ ?_ | refine setScreens_inv ?_ ?_ | refine setSen_inv ?_ ?_ | refine setXlat0_inv ?_ ?_
    | refine setXlat1_inv ?_ ?_ | refine hub_wf ?_ | refine net_wf ?_ | refine part_wf ?_ | refine routes0_wf ?_
    | refine routes1_wf ?_ | refine screens_wf ?_ | refine sen_wf ?_ | refine xlat0_wf ?_ | refine xlat1_wf ?_
    | refine Sparse.wf_set ?_ _ _ | refine Sparse.wf_upd ?_ _ _ | refine Sparse.wf_mapAll ?_ _ | exact Sparse.wf_nil
    | exact Sparse.wf_tabulate _ _ (sectors_sorted _) | exact Sparse.wf_tabulate _ _ (sites_sorted _)
    | refine Sparse.wf_foldl _ _ (fun _ _ _ => ?_) _ ?_ | refine wf_ite (fun _ => ?_) (fun _ => ?_)
    | refine each_inv _ _ (fun _ _ _ => ?_) _ ?_ | refine inv_ite (fun _ => ?_) (fun _ => ?_) | split | dsimp only

theorem execMainPowerGood_safe (p : PowerUp) (s : State)  (hs : Inv s = true) : Safe (execMainPowerGood p s) := by
  unfold execMainPowerGood
  with_reducible
    repeat' first
    | assumption | refine countCycle_inv _ _ _ ?_ | refine endStep_inv _ _ ?_ | refine enterRecovery_inv _ ?_
    | refine modBoot_inv _ _ ?_ | refine modPort_inv _ _ _ ?_ | refine selectSlot_inv _ _ _ _ ?_
    | refine setPowered_inv _ _ ?_ | refine setRasAtA_inv _ _ ?_ | refine setRasAtB_inv _ _ ?_ | refine safe_next.2 ?_
    | refine safe_ite (fun _ => ?_) (fun _ => ?_) | refine inv_ite (fun _ => ?_) (fun _ => ?_) | split | dsimp only

theorem execMainPowerLoss_safe (s : State)  (hs : Inv s = true) : Safe (execMainPowerLoss s) := by
  unfold execMainPowerLoss
  refine safe_next.2 (inv_ite (fun _ => hs) fun _ => ?_)
  rw [Inv_iff, memoriesWf_iff] at hs ⊢
  exact ⟨⟨hs.1.1, hs.1.2.1, hs.1.2.2.1, hs.1.2.2.2.1, rfl, rfl⟩, rfl, rfl⟩

theorem settleOther_inv (s : State)  (hs : Inv s = true) : Inv (settleOther s) = true := by
  unfold settleOther
  with_reducible
    repeat' first
    | assumption | refine endStepTwo_inv _ ?_ | refine mismatch_inv _ ?_ | refine inv_ite (fun _ => ?_) (fun _ => ?_)
    | split | dsimp only

theorem recoverInPlace_inv (s : State)  (hs : Inv s = true) : Inv (recoverInPlace s) = true := by
  unfold recoverInPlace
  with_reducible
    repeat' first
    | assumption | refine modBoot_inv _ _ ?_ | refine modPart_inv _ _ _ ?_ | refine modSensor_inv _ _ _ ?_
    | refine modSite_inv _ _ _ ?_ | refine record_inv _ _ _ ?_ | refine serveMailbox_inv _ ?_
    | refine setAnswers_inv _ _ ?_ | refine setGraph_inv _ _ ?_ | refine setJournal_inv _ _ ?_
    | refine setJournalSeq_inv _ _ ?_ | refine setRecorder_inv _ _ ?_ | refine setUnflushed_inv _ _ ?_
    | refine startAlignment_inv _ ?_ | refine startFence_inv _ _ _ _ _ ?_ | refine setMarginPrev_inv ?_ ?_
    | refine marginPrev_wf ?_ | refine Sparse.wf_set ?_ _ _ | refine Sparse.wf_upd ?_ _ _
    | refine Sparse.wf_mapAll ?_ _ | exact Sparse.wf_nil | exact Sparse.wf_tabulate _ _ (sectors_sorted _)
    | exact Sparse.wf_tabulate _ _ (sites_sorted _) | refine Sparse.wf_foldl _ _ (fun _ _ _ => ?_) _ ?_
    | refine wf_ite (fun _ => ?_) (fun _ => ?_) | refine each_inv _ _ (fun _ _ _ => ?_) _ ?_
    | refine inv_ite (fun _ => ?_) (fun _ => ?_) | split | dsimp only

theorem managerStarted_inv (die slot : Nat) (s : State)  (hs : Inv s = true) : Inv (managerStarted die slot s) = true := by
  unfold managerStarted
  with_reducible
    repeat' first
    | assumption | refine endStepTwo_inv _ ?_ | refine joinStandby_inv _ ?_ | refine recoverInPlace_inv _ ?_
    | refine runManager_inv _ _ _ ?_ | refine settleOther_inv _ ?_ | refine inv_ite (fun _ => ?_) (fun _ => ?_)
    | split | dsimp only

theorem noSlotLeft_inv (die : Nat) (s : State)  (hs : Inv s = true) : Inv (noSlotLeft die s) = true := by
  unfold noSlotLeft
  with_reducible
    repeat' first
    | assumption | refine enterRecovery_inv _ ?_ | refine modBoot_inv _ _ ?_ | refine modMgr_inv _ _ _ ?_
    | refine raiseFatal_inv _ _ ?_ | refine serveMailbox_inv _ ?_ | refine settleOther_inv _ ?_
    | refine inv_ite (fun _ => ?_) (fun _ => ?_) | split | dsimp only

theorem execSecurityAuthentication_safe (die : Nat) (authentic : Bool) (s : State)  (hs : Inv s = true) : Safe (execSecurityAuthentication die authentic s) := by
  unfold execSecurityAuthentication
  with_reducible
    repeat' first
    | assumption | refine managerStarted_inv _ _ _ ?_ | refine noSlotLeft_inv _ _ ?_
    | refine noteInvalid_inv _ _ _ _ _ ?_ | refine trySlots_inv _ _ _ _ ?_ | refine safe_next.2 ?_
    | refine safe_ite (fun _ => ?_) (fun _ => ?_) | refine inv_ite (fun _ => ?_) (fun _ => ?_) | split | dsimp only

theorem execImageDigestExchange_safe (s : State)  (hs : Inv s = true) : Safe (execImageDigestExchange s) := by
  unfold execImageDigestExchange
  with_reducible
    repeat' first
    | assumption | refine endStepTwo_inv _ ?_ | refine joinStandby_inv _ ?_ | refine mismatch_inv _ ?_
    | refine modBoot_inv _ _ ?_ | refine modMgr_inv _ _ _ ?_ | refine setTry_inv _ _ _ _ ?_ | refine safe_next.2 ?_
    | refine safe_ite (fun _ => ?_) (fun _ => ?_) | refine inv_ite (fun _ => ?_) (fun _ => ?_) | split | dsimp only

theorem keepSettings_inv (u result : Nat) (found : List Byte) (s : State)  (hs : Inv s = true) : Inv (keepSettings u result found s) = true := by
  exact Inv_of_get (fun φ hφ => keepSettings_get (notMem_of hφ rfl) _ _ _ _) hs

theorem trainingResult_inv (kind index result time : Nat) (s : State)  (hs : Inv s = true) : Inv (trainingResult kind index result time s) = true := by
  unfold trainingResult
  with_reducible
    repeat' first
    | assumption | refine raiseAlert_inv _ _ ?_ | refine record_inv _ _ _ ?_
    | refine inv_ite (fun _ => ?_) (fun _ => ?_) | split | dsimp only

theorem execLinkTrainingResult_safe (kind index result time : Nat) (settings : List Byte) (s : State)  (hs : Inv s = true) : Safe (execLinkTrainingResult kind index result time settings s) := by
  unfold execLinkTrainingResult
  with_reducible
    repeat' first
    | assumption | refine endTraining_inv _ ?_ | refine keepSettings_inv _ _ _ _ ?_ | refine modBoot_inv _ _ ?_
    | refine trainingResult_inv _ _ _ _ _ ?_ | refine setNet_inv ?_ ?_ | refine net_wf ?_
    | refine Sparse.wf_set ?_ _ _ | refine Sparse.wf_upd ?_ _ _ | refine Sparse.wf_mapAll ?_ _ | exact Sparse.wf_nil
    | exact Sparse.wf_tabulate _ _ (sectors_sorted _) | exact Sparse.wf_tabulate _ _ (sites_sorted _)
    | refine Sparse.wf_foldl _ _ (fun _ _ _ => ?_) _ ?_ | refine wf_ite (fun _ => ?_) (fun _ => ?_)
    | refine safe_next.2 ?_ | refine safe_ite (fun _ => ?_) (fun _ => ?_) | refine inv_ite (fun _ => ?_) (fun _ => ?_)
    | split | dsimp only

theorem execSettingsWriteComplete_safe (s : State)  (hs : Inv s = true) : Safe (execSettingsWriteComplete s) := by
  unfold execSettingsWriteComplete
  with_reducible
    repeat' first
    | assumption | refine becomeReady_inv _ ?_ | refine complete_inv _ _ _ _ ?_ | refine record_inv _ _ _ ?_
    | refine setSetA_inv _ _ ?_ | refine setSetB_inv _ _ ?_ | refine setSetBusy_inv _ _ ?_
    | refine writeSettings_inv _ _ _ ?_ | refine safe_next.2 ?_ | refine safe_ite (fun _ => ?_) (fun _ => ?_)
    | refine inv_ite (fun _ => ?_) (fun _ => ?_) | split | dsimp only

theorem execWaferReset_safe (seq : Nat) (tests : PowerUp) (s : State)  (hs : Inv s = true) : Safe (execWaferReset seq tests s) := by
  unfold execWaferReset
  with_reducible
    repeat' first
    | assumption | refine bringUp_inv _ ?_ | refine resetWafer_inv _ _ _ ?_ | refine runCmd_safe _ _ _ _ ?_ ?_
    | refine safe_next.2 ?_ | refine safe_ite (fun _ => ?_) (fun _ => ?_) | refine inv_ite (fun _ => ?_) (fun _ => ?_)
    | split | dsimp only

theorem restartManagers_inv (tests : PowerUp) (s : State)  (hs : Inv s = true) : Inv (restartManagers tests s) = true := by
  unfold restartManagers
  with_reducible
    repeat' first
    | assumption | refine enterRecovery_inv _ ?_ | refine modBoot_inv _ _ ?_ | refine modMgr_inv _ _ _ ?_
    | refine resetWafer_inv _ _ _ ?_ | refine selectSlot_inv _ _ _ _ ?_ | refine inv_ite (fun _ => ?_) (fun _ => ?_)
    | split | dsimp only

theorem execManagerWatchdogExpiry_safe (die : Nat) (s : State)  (hs : Inv s = true) : Safe (execManagerWatchdogExpiry die s) := by
  unfold execManagerWatchdogExpiry
  with_reducible
    repeat' first
    | assumption | refine modBoot_inv _ _ ?_ | refine modMgr_inv _ _ _ ?_ | refine modRec_inv _ _ ?_
    | refine noSlotLeft_inv _ _ ?_ | refine recorderAlert_inv _ _ ?_ | refine selectSlot_inv _ _ _ _ ?_
    | refine trySlots_inv _ _ _ _ ?_ | refine safe_next.2 ?_ | refine safe_ite (fun _ => ?_) (fun _ => ?_)
    | refine inv_ite (fun _ => ?_) (fun _ => ?_) | split | dsimp only

end Sys2Proof.Machine
end

