-- ==== Sys2Proof/Laws/InvHealthCmd.lean ====
section
/-!
SUPPORT. The invariant through the operations of Machine/HealthCmd.lean.
-/
namespace Sys2Proof.Machine

open Sys2Proof

set_option linter.all false
set_option Elab.async false

theorem execHealthQuery_safe (seq : Nat) (s : State)  (hs : Inv s = true) : Safe (execHealthQuery seq s) := by
  unfold execHealthQuery
  with_reducible
    repeat' first
    | assumption | refine complete_inv _ _ _ _ ?_ | refine runCmd_safe _ _ _ _ ?_ ?_ | refine safe_next.2 ?_
    | refine safe_ite (fun _ => ?_) (fun _ => ?_) | refine inv_ite (fun _ => ?_) (fun _ => ?_) | split | dsimp only

theorem execHistoryRead_safe (seq : Nat) (s : State)  (hs : Inv s = true) : Safe (execHistoryRead seq s) := by
  unfold execHistoryRead
  with_reducible
    repeat' first
    | assumption | refine complete_inv _ _ _ _ ?_ | refine runCmd_safe _ _ _ _ ?_ ?_ | refine safe_next.2 ?_
    | refine safe_ite (fun _ => ?_) (fun _ => ?_) | refine inv_ite (fun _ => ?_) (fun _ => ?_) | split | dsimp only

theorem swapFor_inv (site cause seq : Nat) (s : State)  (hs : Inv s = true) : Inv (swapFor site cause seq s) = true := by
  unfold swapFor
  with_reducible
    repeat' first
    | assumption | refine complete_inv _ _ _ _ ?_ | refine moveOut_inv _ _ _ _ _ ?_
    | refine prepareSwap_inv _ _ _ _ ?_ | refine requestSwap_inv _ _ _ _ ?_
    | refine inv_ite (fun _ => ?_) (fun _ => ?_) | split | dsimp only

theorem execUnitQuarantine_safe (seq : Nat) (s : State)  (hs : Inv s = true) : Safe (execUnitQuarantine seq s) := by
  unfold execUnitQuarantine
  with_reducible
    repeat' first
    | assumption | refine changeSite_inv _ _ _ _ _ ?_ | refine complete_inv _ _ _ _ ?_ | refine swapFor_inv _ _ _ _ ?_
    | refine waitFor_inv _ _ _ _ _ _ ?_ | refine runCmd_safe _ _ _ _ ?_ ?_ | refine safe_next.2 ?_
    | refine safe_ite (fun _ => ?_) (fun _ => ?_) | refine inv_ite (fun _ => ?_) (fun _ => ?_) | split | dsimp only

theorem execSpareTakeover_safe (seq : Nat) (s : State)  (hs : Inv s = true) : Safe (execSpareTakeover seq s) := by
  unfold execSpareTakeover
  with_reducible
    repeat' first
    | assumption | refine swapFor_inv _ _ _ _ ?_ | refine waitFor_inv _ _ _ _ _ _ ?_
    | refine runCmd_safe _ _ _ _ ?_ ?_ | refine safe_next.2 ?_ | refine safe_ite (fun _ => ?_) (fun _ => ?_)
    | refine inv_ite (fun _ => ?_) (fun _ => ?_) | split | dsimp only

theorem execUnitRelease_safe (seq : Nat) (s : State)  (hs : Inv s = true) : Safe (execUnitRelease seq s) := by
  unfold execUnitRelease
  with_reducible
    repeat' first
    | assumption | refine changeSite_inv _ _ _ _ _ ?_ | refine complete_inv _ _ _ _ ?_
    | refine setDeepPassed_inv _ _ ?_ | refine spareFreed_inv _ _ ?_ | refine setMarginPrev_inv ?_ ?_
    | refine marginPrev_wf ?_ | refine Sparse.wf_set ?_ _ _ | refine Sparse.wf_upd ?_ _ _
    | refine Sparse.wf_mapAll ?_ _ | exact Sparse.wf_nil | exact Sparse.wf_tabulate _ _ (sectors_sorted _)
    | exact Sparse.wf_tabulate _ _ (sites_sorted _) | refine Sparse.wf_foldl _ _ (fun _ _ _ => ?_) _ ?_
    | refine wf_ite (fun _ => ?_) (fun _ => ?_) | refine runCmd_safe _ _ _ _ ?_ ?_ | refine safe_next.2 ?_
    | refine safe_ite (fun _ => ?_) (fun _ => ?_) | refine inv_ite (fun _ => ?_) (fun _ => ?_) | split | dsimp only

theorem execUnitScreen_safe (seq : Nat) (s : State)  (hs : Inv s = true) : Safe (execUnitScreen seq s) := by
  unfold execUnitScreen
  with_reducible
    repeat' first
    | assumption | refine changeSite_inv _ _ _ _ _ ?_ | refine complete_inv _ _ _ _ ?_
    | refine requestScreen_inv _ _ _ ?_ | refine startDeep_inv _ _ ?_ | refine waitFor_inv _ _ _ _ _ _ ?_
    | refine runCmd_safe _ _ _ _ ?_ ?_ | refine safe_next.2 ?_ | refine safe_ite (fun _ => ?_) (fun _ => ?_)
    | refine inv_ite (fun _ => ?_) (fun _ => ?_) | split | dsimp only

theorem execUnitRetire_safe (seq : Nat) (s : State)  (hs : Inv s = true) : Safe (execUnitRetire seq s) := by
  unfold execUnitRetire
  with_reducible
    repeat' first
    | assumption | refine advanceRun_inv _ _ ?_ | refine cancelScreen_inv _ _ ?_ | refine changeSite_inv _ _ _ _ _ ?_
    | refine complete_inv _ _ _ _ ?_ | refine runCmd_safe _ _ _ _ ?_ ?_ | refine safe_next.2 ?_
    | refine safe_ite (fun _ => ?_) (fun _ => ?_) | refine inv_ite (fun _ => ?_) (fun _ => ?_) | split | dsimp only

end Sys2Proof.Machine
end

