-- ==== Sys2Proof/Laws/InvImageCmd.lean ====
section
/-!
SUPPORT. The invariant through the operations of Machine/ImageCmd.lean.
-/
namespace Sys2Proof.Machine

open Sys2Proof

set_option linter.all false
set_option Elab.async false

theorem withdrawTrial_inv (s : State)  (hs : Inv s = true) : Inv (withdrawTrial s) = true := by
  unfold withdrawTrial
  with_reducible
    repeat' first
    | assumption | refine record_inv _ _ _ ?_ | refine writeBoot_inv _ _ ?_
    | refine inv_ite (fun _ => ?_) (fun _ => ?_) | split | dsimp only

theorem stageChunk_inv (off : Nat) (bs : List Byte) (s : State)  (hs : Inv s = true) : Inv (stageChunk off bs s) = true := by
  have h0 : Inv (if off = 0 then setStageOpen true (setStageErased [] (withdrawTrial s)) else s) = true :=
    inv_ite (fun _ => setStageOpen_inv _ _ (setStageErased_inv _ _ (withdrawTrial_inv _ hs))) (fun _ => hs)
  unfold stageChunk
  revert h0
  generalize (if off = 0 then setStageOpen true (setStageErased [] (withdrawTrial s)) else s) = t
  intro h0
  have h1 := setFlashA_inv (wf_ite (c := (decide (t.active = 0) || t.twoFlashes) = true)
    (fun _ => programSlot_wf (flashA_wf h0) t.stagingSlot off
      ((((List.range bs.length).map fun k => (off + k) / 65536).eraseDups).filter fun k => !t.stageErased.contains k) bs)
    (fun _ => flashA_wf h0)) h0
  exact setStageNext_inv _ _ (setStageErased_inv _ _ (setFlashB_inv
    (wf_ite (fun _ => programSlot_wf (flashB_wf h1) _ _ _ _) (fun _ => flashB_wf h1)) h1))

theorem execImageStage_safe (seq : Nat) (s : State)  (hs : Inv s = true) : Safe (execImageStage seq s) := by
  unfold execImageStage
  with_reducible
    repeat' first
    | assumption | refine complete_inv _ _ _ _ ?_ | refine stageChunk_inv _ _ _ ?_ | refine runCmd_safe _ _ _ _ ?_ ?_
    | refine safe_next.2 ?_ | refine safe_ite (fun _ => ?_) (fun _ => ?_) | refine inv_ite (fun _ => ?_) (fun _ => ?_)
    | split | dsimp only

theorem settleMram_inv (s : State)  (hs : Inv s = true) : Inv (settleMram s) = true := by
  unfold settleMram
  with_reducible
    repeat' first
    | assumption | refine mramPut_inv _ _ _ _ ?_ | refine setSent_inv _ _ ?_
    | refine foldl_inv _ _ (fun _ _ _ => ?_) _ ?_ | refine foldl_fst_inv _ _ (fun _ _ _ => ?_) _ ?_
    | refine foldl_snd_inv _ _ (fun _ _ _ => ?_) _ ?_ | refine inv_ite (fun _ => ?_) (fun _ => ?_) | split
    | dsimp only

theorem execImageCommit_safe (seq : Nat) (authenticA authenticB : Bool) (tests : PowerUp) (s : State)  (hs : Inv s = true) : Safe (execImageCommit seq authenticA authenticB tests s) := by
  unfold execImageCommit
  with_reducible
    repeat' first
    | assumption | refine complete_inv _ _ _ _ ?_ | refine record_inv _ _ _ ?_ | refine restartManagers_inv _ _ ?_
    | refine setStageOpen_inv _ _ ?_ | refine settleMram_inv _ ?_ | refine writeBoot_inv _ _ ?_
    | refine runCmd_safe _ _ _ _ ?_ ?_ | refine safe_next.2 ?_ | refine safe_ite (fun _ => ?_) (fun _ => ?_)
    | refine inv_ite (fun _ => ?_) (fun _ => ?_) | split | dsimp only

theorem execTrainingSave_safe (seq : Nat) (s : State)  (hs : Inv s = true) : Safe (execTrainingSave seq s) := by
  unfold execTrainingSave
  with_reducible
    repeat' first
    | assumption | refine waitFor_inv _ _ _ _ _ _ ?_ | refine writeSettings_inv _ _ _ ?_
    | refine runCmd_safe _ _ _ _ ?_ ?_ | refine safe_next.2 ?_ | refine safe_ite (fun _ => ?_) (fun _ => ?_)
    | refine inv_ite (fun _ => ?_) (fun _ => ?_) | split | dsimp only

end Sys2Proof.Machine
end

