-- ==== Sys2Proof/Laws/InvManagers.lean ====
section
/-!
SUPPORT. The invariant through the operations of Machine/Managers.lean.
-/
namespace Sys2Proof.Machine

open Sys2Proof

set_option linter.all false
set_option Elab.async false

theorem adoptRecorder_inv (s : State)  (hs : Inv s = true) : Inv (adoptRecorder s) = true := by
  exact Inv_of_get (fun φ hφ => adoptRecorder_get (notMem_of hφ rfl) _) hs

theorem repeatReplay_inv (p : Nat) (s : State)  (hs : Inv s = true) : Inv (repeatReplay p s) = true := by
  unfold repeatReplay
  with_reducible
    repeat' first
    | assumption | refine modPart_inv _ _ _ ?_ | refine nextReplay_inv _ _ ?_
    | refine inv_ite (fun _ => ?_) (fun _ => ?_) | split | dsimp only

theorem completeTakeover_inv (s : State)  (hs : Inv s = true) : Inv (completeTakeover s) = true := by
  unfold completeTakeover
  with_reducible
    repeat' first
    | assumption | refine adoptRecorder_inv _ ?_ | refine complete_inv _ _ _ _ ?_ | refine modMgr_inv _ _ _ ?_
    | refine modPart_inv _ _ _ ?_ | refine record_inv _ _ _ ?_ | refine recorderAlert_inv _ _ ?_
    | refine repeatReplay_inv _ _ ?_ | refine serveMailbox_inv _ ?_ | refine setChecked_inv _ _ ?_
    | refine setFailover_inv _ _ ?_ | refine setSent_inv _ _ ?_ | refine setSwitchOk_inv _ _ ?_
    | refine setSwitchSeq_inv _ _ ?_ | refine setTakeover_inv _ _ ?_ | refine startAlignment_inv _ ?_
    | refine syncPins_inv _ ?_ | refine setActive_inv (other_le _) ?_ | refine each_inv _ _ (fun _ _ _ => ?_) _ ?_
    | refine inv_ite (fun _ => ?_) (fun _ => ?_) | split | dsimp only

theorem checkTakeover_inv (s : State)  (hs : Inv s = true) : Inv (checkTakeover s) = true := by
  unfold checkTakeover
  with_reducible
    repeat' first
    | assumption | refine completeTakeover_inv _ ?_ | refine inv_ite (fun _ => ?_) (fun _ => ?_) | split | dsimp only

theorem beginTakeover_inv (seq : Nat) (ok : Bool) (s : State)  (hs : Inv s = true) : Inv (beginTakeover seq ok s) = true := by
  unfold beginTakeover
  with_reducible
    repeat' first
    | assumption | refine checkTakeover_inv _ ?_ | refine sendAll_inv _ _ ?_ | refine setFailover_inv _ _ ?_
    | refine setSwitchOk_inv _ _ ?_ | refine setSwitchSeq_inv _ _ ?_ | refine setTakeover_inv _ _ ?_
    | refine inv_ite (fun _ => ?_) (fun _ => ?_) | split | dsimp only

theorem execTakeover_safe (hub : Nat) (s : State)  (hs : Inv s = true) : Safe (execTakeover hub s) := by
  unfold execTakeover
  with_reducible
    repeat' first
    | assumption | refine modHub_inv _ _ _ ?_ | refine send_inv _ _ ?_ | refine arrive_safe _ _ _ (fun _ _ => ?_) ?_
    | refine safe_next.2 ?_ | refine safe_ite (fun _ => ?_) (fun _ => ?_) | refine inv_ite (fun _ => ?_) (fun _ => ?_)
    | split | dsimp only

theorem execControlResponse_safe (unit cls opcode tag status : Nat) (empty : Bool) (s : State)  (hs : Inv s = true) : Safe (execControlResponse unit cls opcode tag status empty s) := by
  unfold execControlResponse
  with_reducible
    repeat' first
    | assumption | refine checkTakeover_inv _ ?_ | refine judgeRas_inv _ _ _ ?_ | refine modMgr_inv _ _ _ ?_
    | refine setAnswers_inv _ _ ?_ | refine setTakeover_inv _ _ ?_ | refine arrive_safe _ _ _ (fun _ _ => ?_) ?_
    | refine safe_next.2 ?_ | refine safe_ite (fun _ => ?_) (fun _ => ?_) | refine inv_ite (fun _ => ?_) (fun _ => ?_)
    | split | dsimp only

theorem execHubWatchMissed_safe (sector : Nat) (s : State)  (hs : Inv s = true) : Safe (execHubWatchMissed sector s) := by
  unfold execHubWatchMissed
  with_reducible
    repeat' first
    | assumption | refine checkTakeover_inv _ ?_ | refine failHub_inv _ _ ?_ | refine setTakeover_inv _ _ ?_
    | refine safe_next.2 ?_ | refine safe_ite (fun _ => ?_) (fun _ => ?_) | refine inv_ite (fun _ => ?_) (fun _ => ?_)
    | split | dsimp only

theorem execHeartbeat_safe (die : Nat) (ras : Dword) (role : Nat) (s : State)  (hs : Inv s = true) : Safe (execHeartbeat die ras role s) := by
  unfold execHeartbeat
  with_reducible
    repeat' first
    | assumption | refine modMgr_inv _ _ _ ?_ | refine receive_inv _ _ ?_ | refine safe_next.2 ?_
    | refine safe_ite (fun _ => ?_) (fun _ => ?_) | refine inv_ite (fun _ => ?_) (fun _ => ?_) | split | dsimp only

theorem bringUpAsActive_inv (s : State)  (hs : Inv s = true) : Inv (bringUpAsActive s) = true := by
  unfold bringUpAsActive
  with_reducible
    repeat' first
    | assumption | refine modMgr_inv _ _ _ ?_ | refine noSlotLeft_inv _ _ ?_ | refine setImage_inv _ _ ?_
    | refine setTry_inv _ _ _ _ ?_ | refine settleOther_inv _ ?_ | refine setActive_inv (other_le _) ?_
    | refine inv_ite (fun _ => ?_) (fun _ => ?_) | split | dsimp only

theorem loseDie_inv (die : Nat) (s : State)  (hs : Inv s = true) : Inv (loseDie die s) = true := by
  exact Inv_of_get (fun φ hφ => loseDie_get (notMem_of hφ rfl) _ _) hs

theorem execHeartbeatLoss_safe (die : Bool) (s : State)  (hs : Inv s = true) : Safe (execHeartbeatLoss die s) := by
  unfold execHeartbeatLoss
  with_reducible
    repeat' first
    | assumption | refine beginTakeover_inv _ _ _ ?_ | refine bringUpAsActive_inv _ ?_ | refine loseDie_inv _ _ ?_
    | refine modMgr_inv _ _ _ ?_ | refine safe_next.2 ?_ | refine safe_ite (fun _ => ?_) (fun _ => ?_)
    | refine inv_ite (fun _ => ?_) (fun _ => ?_) | split | dsimp only

theorem execStandbyLoss_safe (die : Bool) (s : State)  (hs : Inv s = true) : Safe (execStandbyLoss die s) := by
  unfold execStandbyLoss
  with_reducible
    repeat' first
    | assumption | refine loseDie_inv _ _ ?_ | refine modMgr_inv _ _ _ ?_ | refine modRec_inv _ _ ?_
    | refine recorderAlert_inv _ _ ?_ | refine setChecked_inv _ _ ?_ | refine safe_next.2 ?_
    | refine safe_ite (fun _ => ?_) (fun _ => ?_) | refine inv_ite (fun _ => ?_) (fun _ => ?_) | split | dsimp only

theorem execManagerSwitchover_safe (seq : Nat) (journalOk : Bool) (s : State)  (hs : Inv s = true) : Safe (execManagerSwitchover seq journalOk s) := by
  unfold execManagerSwitchover
  with_reducible
    repeat' first
    | assumption | refine beginTakeover_inv _ _ _ ?_ | refine runCmd_safe _ _ _ _ ?_ ?_ | refine safe_next.2 ?_
    | refine safe_ite (fun _ => ?_) (fun _ => ?_) | refine inv_ite (fun _ => ?_) (fun _ => ?_) | split | dsimp only

theorem execMramFailure_safe (die : Nat) (s : State)  (hs : Inv s = true) : Safe (execMramFailure die s) := by
  unfold execMramFailure
  with_reducible
    repeat' first
    | assumption | refine beginTakeover_inv _ _ _ ?_ | refine modMgr_inv _ _ _ ?_ | refine modRec_inv _ _ ?_
    | refine raiseFatal_inv _ _ ?_ | refine recorderAlert_inv _ _ ?_ | refine safe_next.2 ?_
    | refine safe_ite (fun _ => ?_) (fun _ => ?_) | refine inv_ite (fun _ => ?_) (fun _ => ?_) | split | dsimp only

theorem execJournalEntry_safe (entry : JournalEntry) (s : State)  (hs : Inv s = true) : Safe (execJournalEntry entry s) := by
  unfold execJournalEntry
  with_reducible
    repeat' first
    | assumption | refine receive_inv _ _ ?_ | refine send_inv _ _ ?_ | refine safe_next.2 ?_
    | refine safe_ite (fun _ => ?_) (fun _ => ?_) | refine inv_ite (fun _ => ?_) (fun _ => ?_) | split | dsimp only

theorem execAudit_safe (sequence : Nat) (agree : Bool) (s : State)  (hs : Inv s = true) : Safe (execAudit sequence agree s) := by
  unfold execAudit
  with_reducible
    repeat' first
    | assumption | refine receive_inv _ _ ?_ | refine setAuditAlarm_inv _ _ ?_ | refine safe_next.2 ?_
    | refine safe_ite (fun _ => ?_) (fun _ => ?_) | refine inv_ite (fun _ => ?_) (fun _ => ?_) | split | dsimp only

theorem execPinState_safe (pins : Nat) (s : State)  (hs : Inv s = true) : Safe (execPinState pins s) := by
  unfold execPinState
  with_reducible
    repeat' first
    | assumption | refine modPort_inv _ _ _ ?_ | refine receive_inv _ _ ?_ | refine safe_next.2 ?_
    | refine safe_ite (fun _ => ?_) (fun _ => ?_) | refine inv_ite (fun _ => ?_) (fun _ => ?_) | split | dsimp only

theorem failCmds_inv (seqs : List Nat) (s : State)  (hs : Inv s = true) : Inv (failCmds seqs s) = true := by
  unfold failCmds
  with_reducible
    repeat' first
    | assumption | refine completeAll_inv _ _ _ _ ?_ | refine inv_ite (fun _ => ?_) (fun _ => ?_) | split | dsimp only

theorem abandonWork_inv (p : Nat) (s : State)  (hs : Inv s = true) : Inv (abandonWork p s) = true := by
  unfold abandonWork
  with_reducible
    repeat' first
    | assumption | refine abandonSwaps_inv _ _ ?_ | refine failCmds_inv _ _ ?_ | refine modPart_inv _ _ _ ?_
    | refine inv_ite (fun _ => ?_) (fun _ => ?_) | split | dsimp only

theorem flushRecords_inv (written : Nat) (s : State)  (hs : Inv s = true) : Inv (flushRecords written s) = true := by
  unfold flushRecords
  with_reducible
    repeat' first
    | assumption | refine modRec_inv _ _ ?_ | refine ringWriteAll_inv _ _ _ ?_ | refine setMramA_inv ?_ ?_
    | refine setMramB_inv ?_ ?_ | refine ringBatch_wf (mram_wf _ ?_) _ _ | refine ringCtlPut_wf (mram_wf _ ?_) _
    | refine mram_wf _ ?_ | refine mramA_wf ?_ | refine mramB_wf ?_ | refine wf_ite (fun _ => ?_) (fun _ => ?_)
    | refine wf_fst_ite (fun _ => ?_) (fun _ => ?_) | refine inv_ite (fun _ => ?_) (fun _ => ?_) | split | dsimp only

theorem cutTakeover_inv (s : State)  (hs : Inv s = true) : Inv (cutTakeover s) = true := by
  unfold cutTakeover
  with_reducible
    repeat' first
    | assumption | refine adoptRecorder_inv _ ?_ | refine failCmds_inv _ _ ?_ | refine modMgr_inv _ _ _ ?_
    | refine serveMailbox_inv _ ?_ | refine setChecked_inv _ _ ?_ | refine setFailover_inv _ _ ?_
    | refine setSent_inv _ _ ?_ | refine setSwitchOk_inv _ _ ?_ | refine setSwitchSeq_inv _ _ ?_
    | refine setTakeover_inv _ _ ?_ | refine setActive_inv (other_le _) ?_
    | refine inv_ite (fun _ => ?_) (fun _ => ?_) | split | dsimp only

theorem execPwrWarnN_safe (written : Nat) (s : State)  (hs : Inv s = true) : Safe (execPwrWarnN written s) := by
  unfold execPwrWarnN
  with_reducible
    repeat' first
    | assumption | refine abandonWork_inv _ _ ?_ | refine cutTakeover_inv _ ?_ | refine discardRuns_inv _ _ ?_
    | refine failCmds_inv _ _ ?_ | refine flushCount_inv _ _ ?_ | refine flushRecords_inv _ _ ?_
    | refine modBoot_inv _ _ ?_ | refine modRec_inv _ _ ?_ | refine setNoRuns_inv _ _ ?_
    | refine setSetBusy_inv _ _ ?_ | refine setWarn_inv _ _ ?_ | refine writeBoot_inv _ _ ?_
    | refine each_inv _ _ (fun _ _ _ => ?_) _ ?_ | refine safe_next.2 ?_ | refine safe_ite (fun _ => ?_) (fun _ => ?_)
    | refine inv_ite (fun _ => ?_) (fun _ => ?_) | split | dsimp only

theorem execPwrWarnReturn_safe (s : State)  (hs : Inv s = true) : Safe (execPwrWarnReturn s) := by
  unfold execPwrWarnReturn
  with_reducible
    repeat' first
    | assumption | refine checkBoundary_inv _ _ ?_ | refine modRec_inv _ _ ?_ | refine setWarn_inv _ _ ?_
    | refine tryCommit_inv _ _ ?_ | refine each_inv _ _ (fun _ _ _ => ?_) _ ?_ | refine safe_next.2 ?_
    | refine safe_ite (fun _ => ?_) (fun _ => ?_) | refine inv_ite (fun _ => ?_) (fun _ => ?_) | split | dsimp only

end Sys2Proof.Machine
end

