-- ==== Sys2Proof/Laws/InvNet.lean ====
section
/-!
SUPPORT. The invariant through the operations of Machine/Net.lean.
-/
namespace Sys2Proof.Machine

open Sys2Proof

set_option linter.all false
set_option Elab.async false

theorem removePeers_inv (port : Nat) (s : State)  (hs : Inv s = true) : Inv (removePeers port s) = true := by
  unfold removePeers
  with_reducible
    repeat' first
    | assumption | refine modPart_inv _ _ _ ?_ | refine each_inv _ _ (fun _ _ _ => ?_) _ ?_
    | refine inv_ite (fun _ => ?_) (fun _ => ?_) | split | dsimp only

theorem configureNet_inv (kind index result time : Nat) (settings : List Byte) (s : State)  (hs : Inv s = true) : Inv (configureNet kind index result time settings s) = true := by
  unfold configureNet
  with_reducible
    repeat' first
    | assumption | refine keepSettings_inv _ _ _ _ ?_ | refine removePeers_inv _ _ ?_
    | refine trainingResult_inv _ _ _ _ _ ?_ | refine setNet_inv ?_ ?_ | refine net_wf ?_
    | refine Sparse.wf_set ?_ _ _ | refine Sparse.wf_upd ?_ _ _ | refine Sparse.wf_mapAll ?_ _ | exact Sparse.wf_nil
    | exact Sparse.wf_tabulate _ _ (sectors_sorted _) | exact Sparse.wf_tabulate _ _ (sites_sorted _)
    | refine Sparse.wf_foldl _ _ (fun _ _ _ => ?_) _ ?_ | refine wf_ite (fun _ => ?_) (fun _ => ?_)
    | refine inv_ite (fun _ => ?_) (fun _ => ?_) | split | dsimp only

theorem execNetConfigure_safe (seq result time : Nat) (settings : List Byte) (s : State)  (hs : Inv s = true) : Safe (execNetConfigure seq result time settings s) := by
  unfold execNetConfigure
  with_reducible
    repeat' first
    | assumption | refine complete_inv _ _ _ _ ?_ | refine configureNet_inv _ _ _ _ _ _ ?_
    | refine runCmd_safe _ _ _ _ ?_ ?_ | refine safe_next.2 ?_ | refine safe_ite (fun _ => ?_) (fun _ => ?_)
    | refine inv_ite (fun _ => ?_) (fun _ => ?_) | split | dsimp only

theorem execNetStatus_safe (seq : Nat) (s : State)  (hs : Inv s = true) : Safe (execNetStatus seq s) := by
  unfold execNetStatus
  with_reducible
    repeat' first
    | assumption | refine complete_inv _ _ _ _ ?_ | refine runCmd_safe _ _ _ _ ?_ ?_ | refine safe_next.2 ?_
    | refine safe_ite (fun _ => ?_) (fun _ => ?_) | refine inv_ite (fun _ => ?_) (fun _ => ?_) | split | dsimp only

end Sys2Proof.Machine
end

