-- ==== Sys2Proof/Laws/InvPartitionCmd.lean ====
section
/-!
SUPPORT. The invariant through the operations of Machine/PartitionCmd.lean.
-/
namespace Sys2Proof.Machine

open Sys2Proof

set_option linter.all false
set_option Elab.async false

theorem giveUp_inv (mask q : Nat) (s : State)  (hs : Inv s = true) : Inv (giveUp mask q s) = true := by
  unfold giveUp
  with_reducible
    repeat' first
    | assumption | refine modPart_inv _ _ _ ?_ | refine inv_ite (fun _ => ?_) (fun _ => ?_) | split | dsimp only

theorem definePartition_inv (p mask : Nat) (s : State)  (hs : Inv s = true) : Inv (definePartition p mask s) = true := by
  unfold definePartition
  with_reducible
    repeat' first
    | assumption | refine giveUp_inv _ _ _ ?_ | refine modPart_inv _ _ _ ?_ | refine setGcount_inv ?_ ?_
    | refine gcount_wf ?_ | refine Sparse.wf_set ?_ _ _ | refine Sparse.wf_upd ?_ _ _ | refine Sparse.wf_mapAll ?_ _
    | exact Sparse.wf_nil | exact Sparse.wf_tabulate _ _ (sectors_sorted _)
    | exact Sparse.wf_tabulate _ _ (sites_sorted _) | refine Sparse.wf_foldl _ _ (fun _ _ _ => ?_) _ ?_
    | refine wf_ite (fun _ => ?_) (fun _ => ?_) | refine each_inv _ _ (fun _ _ _ => ?_) _ ?_
    | refine foldl_inv _ _ (fun _ _ _ => ?_) _ ?_ | refine foldl_fst_inv _ _ (fun _ _ _ => ?_) _ ?_
    | refine foldl_snd_inv _ _ (fun _ _ _ => ?_) _ ?_ | refine inv_ite (fun _ => ?_) (fun _ => ?_) | split
    | dsimp only

theorem execPartitionDefine_safe (seq : Nat) (s : State)  (hs : Inv s = true) : Safe (execPartitionDefine seq s) := by
  unfold execPartitionDefine
  with_reducible
    repeat' first
    | assumption | refine complete_inv _ _ _ _ ?_ | refine definePartition_inv _ _ _ ?_
    | refine runCmd_safe _ _ _ _ ?_ ?_ | refine safe_next.2 ?_ | refine safe_ite (fun _ => ?_) (fun _ => ?_)
    | refine inv_ite (fun _ => ?_) (fun _ => ?_) | split | dsimp only

theorem execPartitionFence_safe (seq : Nat) (s : State)  (hs : Inv s = true) : Safe (execPartitionFence seq s) := by
  unfold execPartitionFence
  with_reducible
    repeat' first
    | assumption | refine startFence_inv _ _ _ _ _ ?_ | refine runCmd_safe _ _ _ _ ?_ ?_ | refine safe_next.2 ?_
    | refine safe_ite (fun _ => ?_) (fun _ => ?_) | refine inv_ite (fun _ => ?_) (fun _ => ?_) | split | dsimp only

theorem execPartitionReset_safe (seq : Nat) (s : State)  (hs : Inv s = true) : Safe (execPartitionReset seq s) := by
  unfold execPartitionReset
  with_reducible
    repeat' first
    | assumption | refine startFence_inv _ _ _ _ _ ?_ | refine runCmd_safe _ _ _ _ ?_ ?_ | refine safe_next.2 ?_
    | refine safe_ite (fun _ => ?_) (fun _ => ?_) | refine inv_ite (fun _ => ?_) (fun _ => ?_) | split | dsimp only

theorem releasePartition_inv (p : Nat) (s : State)  (hs : Inv s = true) : Inv (releasePartition p s) = true := by
  unfold releasePartition
  with_reducible
    repeat' first
    | assumption | refine detachJob_inv _ _ ?_ | refine modPart_inv _ _ _ ?_ | refine modSen_inv _ _ _ ?_
    | refine resumeJob_inv _ _ _ ?_ | refine each_inv _ _ (fun _ _ _ => ?_) _ ?_
    | refine inv_ite (fun _ => ?_) (fun _ => ?_) | split | dsimp only

theorem execPartitionRelease_safe (seq : Nat) (s : State)  (hs : Inv s = true) : Safe (execPartitionRelease seq s) := by
  unfold execPartitionRelease
  with_reducible
    repeat' first
    | assumption | refine complete_inv _ _ _ _ ?_ | refine releasePartition_inv _ _ ?_
    | refine runCmd_safe _ _ _ _ ?_ ?_ | refine safe_next.2 ?_ | refine safe_ite (fun _ => ?_) (fun _ => ?_)
    | refine inv_ite (fun _ => ?_) (fun _ => ?_) | split | dsimp only

theorem startTeardown_inv (p mask seq : Nat) (s : State)  (hs : Inv s = true) : Inv (startTeardown p mask seq s) = true := by
  unfold startTeardown
  with_reducible
    repeat' first
    | assumption | refine finishTeardown_inv _ _ ?_ | refine modPart_inv _ _ _ ?_
    | refine inv_ite (fun _ => ?_) (fun _ => ?_) | split | dsimp only

theorem execContextTeardown_safe (seq : Nat) (s : State)  (hs : Inv s = true) : Safe (execContextTeardown seq s) := by
  unfold execContextTeardown
  with_reducible
    repeat' first
    | assumption | refine modPart_inv _ _ _ ?_ | refine startTeardown_inv _ _ _ _ ?_
    | refine runCmd_safe _ _ _ _ ?_ ?_ | refine safe_next.2 ?_ | refine safe_ite (fun _ => ?_) (fun _ => ?_)
    | refine inv_ite (fun _ => ?_) (fun _ => ?_) | split | dsimp only

theorem attachHub_inv (seed : Dword) (h : Nat) (s : State)  (hs : Inv s = true) : Inv (attachHub seed h s) = true := by
  unfold attachHub
  with_reducible
    repeat' first
    | assumption | refine modHub_inv _ _ _ ?_ | refine wakeUnits_inv _ _ ?_
    | refine inv_ite (fun _ => ?_) (fun _ => ?_) | split | dsimp only

theorem attachTile_inv (seed : Dword) (tile : Nat) (s : State)  (hs : Inv s = true) : Inv (attachTile seed tile s) = true := by
  unfold attachTile
  with_reducible
    repeat' first
    | assumption | refine keepKey_inv _ _ _ _ ?_ | refine loadSample_inv _ _ ?_ | refine modSen_inv _ _ _ ?_
    | refine inv_ite (fun _ => ?_) (fun _ => ?_) | split | dsimp only

theorem endStress_inv (h : Nat) (s : State)  (hs : Inv s = true) : Inv (endStress h s) = true := by
  unfold endStress
  with_reducible
    repeat' first
    | assumption | refine discardRun_inv _ _ _ ?_ | refine inv_ite (fun _ => ?_) (fun _ => ?_) | split | dsimp only

theorem attachJob_inv (p seq : Nat) (j : Job) (peers : List Peer) (s : State)  (hs : Inv s = true) : Inv (attachJob p seq j peers s) = true := by
  unfold attachJob
  with_reducible
    repeat' first
    | assumption | refine attachHub_inv _ _ _ ?_ | refine attachTile_inv _ _ _ ?_ | refine endStress_inv _ _ ?_
    | refine loadDefault_inv _ _ _ _ ?_ | refine modPart_inv _ _ _ ?_ | refine nextRun_inv _ _ ?_
    | refine record_inv _ _ _ ?_ | refine requestSwap_inv _ _ _ _ ?_ | refine retrySuspects_inv _ _ ?_
    | refine each_inv _ _ (fun _ _ _ => ?_) _ ?_ | refine inv_ite (fun _ => ?_) (fun _ => ?_) | split | dsimp only

theorem execJobAttach_safe (seq : Nat) (s : State)  (hs : Inv s = true) : Safe (execJobAttach seq s) := by
  unfold execJobAttach
  with_reducible
    repeat' first
    | assumption | refine attachJob_inv _ _ _ _ _ ?_ | refine runCmd_safe _ _ _ _ ?_ ?_ | refine safe_next.2 ?_
    | refine safe_ite (fun _ => ?_) (fun _ => ?_) | refine inv_ite (fun _ => ?_) (fun _ => ?_) | split | dsimp only

theorem rotateSector_inv (sector : Nat) (x0 : Nat) (x1 : List Nat) (s : State) (hs : Inv s = true) : Inv (rotateSector sector x0 x1 s).2 = true := by
  induction x0 generalizing x1 s with
  | zero => exact hs
  | succ n ih =>
    unfold rotateSector
    dsimp only
    split
    · exact ih _ _ (startDeep_inv _ _ (moveTile_inv _ _ _ _ _ _ _ hs))
    · exact hs

theorem rotateAll_inv (sectors : List Nat) (s : State)  (hs : Inv s = true) : Inv (rotateAll sectors s).2 = true := by
  unfold rotateAll
  with_reducible
    repeat' first
    | assumption | refine rotateSector_inv _ _ _ _ ?_ | refine foldl_inv _ _ (fun _ _ _ => ?_) _ ?_
    | refine foldl_fst_inv _ _ (fun _ _ _ => ?_) _ ?_ | refine foldl_snd_inv _ _ (fun _ _ _ => ?_) _ ?_
    | refine inv_ite (fun _ => ?_) (fun _ => ?_) | split | dsimp only

theorem returnLent_inv (site : Nat) (x : Nat × State)  (hs : Inv x.2 = true) : Inv (returnLent site x).2 = true := by
  unfold returnLent
  with_reducible
    repeat' first
    | assumption | refine moveTile_inv _ _ _ _ _ _ _ ?_ | refine retrySuspects_inv _ _ ?_
    | refine inv_ite (fun _ => ?_) (fun _ => ?_) | split | dsimp only

theorem returnAll_inv (sites : List Nat) (s : State)  (hs : Inv s = true) : Inv (returnAll sites s).2 = true := by
  unfold returnAll
  with_reducible
    repeat' first
    | assumption | refine returnLent_inv _ _ ?_ | refine foldl_inv _ _ (fun _ _ _ => ?_) _ ?_
    | refine foldl_fst_inv _ _ (fun _ _ _ => ?_) _ ?_ | refine foldl_snd_inv _ _ (fun _ _ _ => ?_) _ ?_
    | refine inv_ite (fun _ => ?_) (fun _ => ?_) | split | dsimp only

theorem settleSettings_inv (p : Nat) (s : State)  (hs : Inv s = true) : Inv (settleSettings p s) = true := by
  unfold settleSettings
  with_reducible
    repeat' first
    | assumption | refine completeAll_inv _ _ _ _ ?_ | refine modPart_inv _ _ _ ?_ | refine modSen_inv _ _ _ ?_
    | refine each_inv _ _ (fun _ _ _ => ?_) _ ?_ | refine inv_ite (fun _ => ?_) (fun _ => ?_) | split | dsimp only

theorem detachByCommand_inv (p : Nat) (s : State)  (hs : Inv s = true) : Inv (detachByCommand p s).2.2 = true := by
  unfold detachByCommand
  with_reducible
    repeat' first
    | assumption | refine detachJob_inv _ _ ?_ | refine returnAll_inv _ _ ?_ | refine rotateAll_inv _ _ ?_
    | refine settleSettings_inv _ _ ?_ | refine inv_ite (fun _ => ?_) (fun _ => ?_) | split | dsimp only

theorem execJobDetach_safe (seq : Nat) (s : State)  (hs : Inv s = true) : Safe (execJobDetach seq s) := by
  unfold execJobDetach
  with_reducible
    repeat' first
    | assumption | refine complete_inv _ _ _ _ ?_ | refine detachByCommand_inv _ _ ?_
    | refine runCmd_safe _ _ _ _ ?_ ?_ | refine safe_next.2 ?_ | refine safe_ite (fun _ => ?_) (fun _ => ?_)
    | refine inv_ite (fun _ => ?_) (fun _ => ?_) | split | dsimp only

theorem execStepVerdictQuery_safe (seq : Nat) (s : State)  (hs : Inv s = true) : Safe (execStepVerdictQuery seq s) := by
  unfold execStepVerdictQuery
  with_reducible
    repeat' first
    | assumption | refine complete_inv _ _ _ _ ?_ | refine runCmd_safe _ _ _ _ ?_ ?_ | refine safe_next.2 ?_
    | refine safe_ite (fun _ => ?_) (fun _ => ?_) | refine inv_ite (fun _ => ?_) (fun _ => ?_) | split | dsimp only

theorem execDigestQuery_safe (seq : Nat) (s : State)  (hs : Inv s = true) : Safe (execDigestQuery seq s) := by
  unfold execDigestQuery
  with_reducible
    repeat' first
    | assumption | refine complete_inv _ _ _ _ ?_ | refine runCmd_safe _ _ _ _ ?_ ?_ | refine safe_next.2 ?_
    | refine safe_ite (fun _ => ?_) (fun _ => ?_) | refine inv_ite (fun _ => ?_) (fun _ => ?_) | split | dsimp only

end Sys2Proof.Machine
end

