-- ==== Sys2Proof/Laws/InvObserveCmd.lean ====
section
/-!
SUPPORT. The invariant through the operations of Machine/ObserveCmd.lean.
-/
namespace Sys2Proof.Machine

open Sys2Proof

set_option linter.all false
set_option Elab.async false

theorem setPartObs_inv (p : Nat) (ws : List (Nat × Nat)) (trace now : Bool) (s : State)  (hs : Inv s = true) : Inv (setPartObs p ws trace now s) = true := by
  unfold setPartObs
  with_reducible
    repeat' first
    | assumption | refine modSen_inv _ _ _ ?_ | refine settleIdle_inv _ _ ?_
    | refine each_inv _ _ (fun _ _ _ => ?_) _ ?_ | refine inv_ite (fun _ => ?_) (fun _ => ?_) | split | dsimp only

theorem settingCommand_inv (seq p : Nat) (ws : List (Nat × Nat)) (trace : Bool) (s : State)  (hs : Inv s = true) : Inv (settingCommand seq p ws trace s) = true := by
  unfold settingCommand
  with_reducible
    repeat' first
    | assumption | refine complete_inv _ _ _ _ ?_ | refine modPart_inv _ _ _ ?_ | refine setPartObs_inv _ _ _ _ _ ?_
    | refine inv_ite (fun _ => ?_) (fun _ => ?_) | split | dsimp only

theorem execTraceConfigure_safe (seq : Nat) (s : State)  (hs : Inv s = true) : Safe (execTraceConfigure seq s) := by
  unfold execTraceConfigure
  with_reducible
    repeat' first
    | assumption | refine settingCommand_inv _ _ _ _ _ ?_ | refine waitFor_inv _ _ _ _ _ _ ?_
    | refine runCmd_safe _ _ _ _ ?_ ?_ | refine safe_next.2 ?_ | refine safe_ite (fun _ => ?_) (fun _ => ?_)
    | refine inv_ite (fun _ => ?_) (fun _ => ?_) | split | dsimp only

theorem execCounterConfigure_safe (seq : Nat) (s : State)  (hs : Inv s = true) : Safe (execCounterConfigure seq s) := by
  unfold execCounterConfigure
  with_reducible
    repeat' first
    | assumption | refine settingCommand_inv _ _ _ _ _ ?_ | refine runCmd_safe _ _ _ _ ?_ ?_ | refine safe_next.2 ?_
    | refine safe_ite (fun _ => ?_) (fun _ => ?_) | refine inv_ite (fun _ => ?_) (fun _ => ?_) | split | dsimp only

theorem drainSite_inv (id base : Nat) (rearm : Bool) (site : Nat) (s : State)  (hs : Inv s = true) : Inv (drainSite id base rearm site s) = true := by
  unfold drainSite
  with_reducible
    repeat' first
    | assumption | refine modSen_inv _ _ _ ?_ | refine dramWrite_inv _ _ ?_ | refine setDram_inv nil_wf ?_
    | refine inv_ite (fun _ => ?_) (fun _ => ?_) | split | dsimp only

theorem execTraceDrain_safe (seq time : Nat) (s : State)  (hs : Inv s = true) : Safe (execTraceDrain seq time s) := by
  unfold execTraceDrain
  with_reducible
    repeat' first
    | assumption | refine complete_inv _ _ _ _ ?_ | refine drainSite_inv _ _ _ _ _ ?_ | refine record_inv _ _ _ ?_
    | refine setDrainId_inv _ _ ?_ | refine waitFor_inv _ _ _ _ _ _ ?_ | refine each_inv _ _ (fun _ _ _ => ?_) _ ?_
    | refine runCmd_safe _ _ _ _ ?_ ?_ | refine safe_next.2 ?_ | refine safe_ite (fun _ => ?_) (fun _ => ?_)
    | refine inv_ite (fun _ => ?_) (fun _ => ?_) | split | dsimp only

theorem armWatch_inv (p n : Nat) (entry : Dword) (base size : Nat) (s : State)  (hs : Inv s = true) : Inv (armWatch p n entry base size s) = true := by
  unfold armWatch
  with_reducible
    repeat' first
    | assumption | refine modHub_inv _ _ _ ?_ | refine modPart_inv _ _ _ ?_ | refine setArmId_inv _ _ ?_
    | refine setPartObs_inv _ _ _ _ _ ?_ | refine each_inv _ _ (fun _ _ _ => ?_) _ ?_
    | refine inv_ite (fun _ => ?_) (fun _ => ?_) | split | dsimp only

theorem execWatchArm_safe (seq : Nat) (s : State)  (hs : Inv s = true) : Safe (execWatchArm seq s) := by
  unfold execWatchArm
  with_reducible
    repeat' first
    | assumption | refine armWatch_inv _ _ _ _ _ _ ?_ | refine complete_inv _ _ _ _ ?_
    | refine waitFor_inv _ _ _ _ _ _ ?_ | refine runCmd_safe _ _ _ _ ?_ ?_ | refine safe_next.2 ?_
    | refine safe_ite (fun _ => ?_) (fun _ => ?_) | refine inv_ite (fun _ => ?_) (fun _ => ?_) | split | dsimp only

theorem execWatchDisarm_safe (seq : Nat) (s : State)  (hs : Inv s = true) : Safe (execWatchDisarm seq s) := by
  unfold execWatchDisarm
  with_reducible
    repeat' first
    | assumption | refine complete_inv _ _ _ _ ?_ | refine modPart_inv _ _ _ ?_ | refine setPartObs_inv _ _ _ _ _ ?_
    | refine waitFor_inv _ _ _ _ _ _ ?_ | refine runCmd_safe _ _ _ _ ?_ ?_ | refine safe_next.2 ?_
    | refine safe_ite (fun _ => ?_) (fun _ => ?_) | refine inv_ite (fun _ => ?_) (fun _ => ?_) | split | dsimp only

theorem execHangSnapshot_safe (seq : Nat) (s : State)  (hs : Inv s = true) : Safe (execHangSnapshot seq s) := by
  unfold execHangSnapshot
  with_reducible
    repeat' first
    | assumption | refine complete_inv _ _ _ _ ?_ | refine takeSnapshot_inv _ _ _ _ _ ?_
    | refine runCmd_safe _ _ _ _ ?_ ?_ | refine safe_next.2 ?_ | refine safe_ite (fun _ => ?_) (fun _ => ?_)
    | refine inv_ite (fun _ => ?_) (fun _ => ?_) | split | dsimp only

theorem execPlausibilityLoad_safe (seq : Nat) (s : State)  (hs : Inv s = true) : Safe (execPlausibilityLoad seq s) := by
  unfold execPlausibilityLoad
  with_reducible
    repeat' first
    | assumption | refine startLoad_inv _ _ _ ?_ | refine switchNow_inv _ _ ?_ | refine runCmd_safe _ _ _ _ ?_ ?_
    | refine safe_next.2 ?_ | refine safe_ite (fun _ => ?_) (fun _ => ?_) | refine inv_ite (fun _ => ?_) (fun _ => ?_)
    | split | dsimp only

end Sys2Proof.Machine
end

