-- ==== Sys2Proof/Laws/InvWindow.lean ====
section
/-!
SUPPORT. The invariant through the operations of Machine/Window.lean.
-/
namespace Sys2Proof.Machine

open Sys2Proof

set_option linter.all false
set_option Elab.async false

theorem countDenied_inv (s : State)  (hs : Inv s = true) : Inv (countDenied s) = true := by
  unfold countDenied
  with_reducible
    repeat' first
    | assumption | refine modWin_inv _ (by rfl) (by rfl) (by rfl) ?_
    | refine modWin_inv _ (by exact (unlockBulk_keeps _ _).1) (by exact (unlockBulk_keeps _ _).2.1) (by exact (unlockBulk_keeps _ _).2.2) ?_
    | refine bulkWrite_inv _ _ ?_ | refine releaseBulk_inv _ ?_ | refine claimBulk_inv _ _ ?_
    | refine bulkOpen_inv _ _ ?_ | refine inv_ite (fun _ => ?_) (fun _ => ?_) | split | dsimp only

theorem readWindow_inv (addr size : Nat) (priv : Priv) (s : State)  (hs : Inv s = true) : Inv (readWindow addr size priv s) = true := by
  unfold readWindow
  with_reducible
    repeat' first
    | assumption | refine countDenied_inv _ ?_ | refine modWin_inv _ (by rfl) (by rfl) (by rfl) ?_
    | refine modWin_inv _ (by exact (unlockBulk_keeps _ _).1) (by exact (unlockBulk_keeps _ _).2.1) (by exact (unlockBulk_keeps _ _).2.2) ?_
    | refine bulkWrite_inv _ _ ?_ | refine releaseBulk_inv _ ?_ | refine claimBulk_inv _ _ ?_
    | refine bulkOpen_inv _ _ ?_ | refine inv_ite (fun _ => ?_) (fun _ => ?_) | split | dsimp only

theorem clearAlerts_inv (v : Nat) (s : State)  (hs : Inv s = true) : Inv (clearAlerts v s) = true := by
  unfold clearAlerts
  with_reducible
    repeat' first
    | assumption | refine syncPins_inv _ ?_ | refine modWin_inv _ (by rfl) (by rfl) (by rfl) ?_
    | refine modWin_inv _ (by exact (unlockBulk_keeps _ _).1) (by exact (unlockBulk_keeps _ _).2.1) (by exact (unlockBulk_keeps _ _).2.2) ?_
    | refine bulkWrite_inv _ _ ?_ | refine releaseBulk_inv _ ?_ | refine claimBulk_inv _ _ ?_
    | refine bulkOpen_inv _ _ ?_ | refine foldl_inv _ _ (fun _ _ _ => ?_) _ ?_
    | refine foldl_fst_inv _ _ (fun _ _ _ => ?_) _ ?_ | refine foldl_snd_inv _ _ (fun _ _ _ => ?_) _ ?_
    | refine inv_ite (fun _ => ?_) (fun _ => ?_) | split | dsimp only

theorem takeCounters_inv (priv : Priv) (s : State)  (hs : Inv s = true) : Inv (takeCounters priv s) = true := by
  unfold takeCounters
  with_reducible
    repeat' first
    | assumption | refine modWin_inv _ (by rfl) (by rfl) (by rfl) ?_
    | refine modWin_inv _ (by exact (unlockBulk_keeps _ _).1) (by exact (unlockBulk_keeps _ _).2.1) (by exact (unlockBulk_keeps _ _).2.2) ?_
    | refine bulkWrite_inv _ _ ?_ | refine releaseBulk_inv _ ?_ | refine claimBulk_inv _ _ ?_
    | refine bulkOpen_inv _ _ ?_ | refine inv_ite (fun _ => ?_) (fun _ => ?_) | split | dsimp only

theorem loadWindow_inv (v : Word) (s : State)  (hs : Inv s = true) : Inv (loadWindow v s) = true := by
  exact Inv_of_get (fun φ hφ => loadWindow_get (notMem_of hφ rfl) _ _) hs

theorem writeJtag_inv (v : Word) (priv : Priv) (s : State)  (hs : Inv s = true) : Inv (writeJtag v priv s) = true := by
  unfold writeJtag
  with_reducible
    repeat' first
    | assumption | refine record_inv _ _ _ ?_ | refine modWin_inv _ (by rfl) (by rfl) (by rfl) ?_
    | refine modWin_inv _ (by exact (unlockBulk_keeps _ _).1) (by exact (unlockBulk_keeps _ _).2.1) (by exact (unlockBulk_keeps _ _).2.2) ?_
    | refine bulkWrite_inv _ _ ?_ | refine releaseBulk_inv _ ?_ | refine claimBulk_inv _ _ ?_
    | refine bulkOpen_inv _ _ ?_ | refine inv_ite (fun _ => ?_) (fun _ => ?_) | split | dsimp only

theorem ackCompletion_inv (ch : Nat) (s : State)  (hs : Inv s = true) : Inv (ackCompletion ch s) = true := by
  unfold ackCompletion
  with_reducible
    repeat' first
    | assumption | refine modPort_inv _ _ _ ?_ | refine postNext_inv _ _ ?_ | refine modChannel_inv _ _ ?_
    | refine modWin_inv _ (by rfl) (by rfl) (by rfl) ?_
    | refine modWin_inv _ (by exact (unlockBulk_keeps _ _).1) (by exact (unlockBulk_keeps _ _).2.1) (by exact (unlockBulk_keeps _ _).2.2) ?_
    | refine bulkWrite_inv _ _ ?_ | refine releaseBulk_inv _ ?_ | refine claimBulk_inv _ _ ?_
    | refine bulkOpen_inv _ _ ?_ | refine inv_ite (fun _ => ?_) (fun _ => ?_) | split | dsimp only

theorem ringDoorbell_inv (ch v : Nat) (priv : Priv) (s : State)  (hs : Inv s = true) : Inv (ringDoorbell ch v priv s) = true := by
  unfold ringDoorbell
  with_reducible
    repeat' first
    | assumption | refine ackCompletion_inv _ _ ?_ | refine submitOn_inv _ _ _ _ _ ?_
    | refine modWin_inv _ (by rfl) (by rfl) (by rfl) ?_
    | refine modWin_inv _ (by exact (unlockBulk_keeps _ _).1) (by exact (unlockBulk_keeps _ _).2.1) (by exact (unlockBulk_keeps _ _).2.2) ?_
    | refine bulkWrite_inv _ _ ?_ | refine releaseBulk_inv _ ?_ | refine claimBulk_inv _ _ ?_
    | refine bulkOpen_inv _ _ ?_ | refine inv_ite (fun _ => ?_) (fun _ => ?_) | split | dsimp only

theorem writeChannel_inv (ch off : Nat) (v : Word) (priv : Priv) (s : State)  (hs : Inv s = true) : Inv (writeChannel ch off v priv s) = true := by
  unfold writeChannel
  with_reducible
    repeat' first
    | assumption | refine ringDoorbell_inv _ _ _ _ ?_ | refine modChannel_inv _ _ ?_
    | refine inv_ite (fun _ => ?_) (fun _ => ?_) | split | dsimp only

theorem writeRegister_inv (off : Nat) (v : Word) (priv : Priv) (s : State)  (hs : Inv s = true) : Inv (writeRegister off v priv s) = true := by
  unfold writeRegister
  with_reducible
    repeat' first
    | assumption | refine clearAlerts_inv _ _ ?_ | refine loadWindow_inv _ _ ?_ | refine modRec_inv _ _ ?_
    | refine syncPins_inv _ ?_ | refine takeCounters_inv _ _ ?_ | refine writeChannel_inv _ _ _ _ _ ?_
    | refine writeJtag_inv _ _ _ ?_ | refine modWin_inv _ (by rfl) (by rfl) (by rfl) ?_
    | refine modWin_inv _ (by exact (unlockBulk_keeps _ _).1) (by exact (unlockBulk_keeps _ _).2.1) (by exact (unlockBulk_keeps _ _).2.2) ?_
    | refine bulkWrite_inv _ _ ?_ | refine releaseBulk_inv _ ?_ | refine claimBulk_inv _ _ ?_
    | refine bulkOpen_inv _ _ ?_ | refine inv_ite (fun _ => ?_) (fun _ => ?_) | split | dsimp only

theorem writeWindow_inv (off : Nat) (v : Word) (priv : Priv) (s : State)  (hs : Inv s = true) : Inv (writeWindow off v priv s) = true := by
  unfold writeWindow
  with_reducible
    repeat' first
    | assumption | refine countDenied_inv _ ?_ | refine writeRegister_inv _ _ _ _ ?_
    | refine inv_ite (fun _ => ?_) (fun _ => ?_) | split | dsimp only

theorem execRegisterWrite_safe (offset size : Nat) (value : Word) (priv : Priv) (s : State)  (hs : Inv s = true) : Safe (execRegisterWrite offset size value priv s) := by
  unfold execRegisterWrite
  with_reducible
    repeat' first
    | assumption | refine writeWindow_inv _ _ _ _ ?_ | refine safe_next.2 ?_
    | refine safe_ite (fun _ => ?_) (fun _ => ?_) | refine inv_ite (fun _ => ?_) (fun _ => ?_) | split | dsimp only

theorem execLoRegisterRead_safe (offset size : Nat) (priv : Priv) (s : State)  (hs : Inv s = true) : Safe (execLoRegisterRead offset size priv s) := by
  unfold execLoRegisterRead
  with_reducible
    repeat' first
    | assumption | refine readWindow_inv _ _ _ _ ?_ | refine safe_next.2 ?_
    | refine safe_ite (fun _ => ?_) (fun _ => ?_) | refine inv_ite (fun _ => ?_) (fun _ => ?_) | split | dsimp only

theorem execSubmit_safe (channel : Nat) (priv : Priv) (s : State)  (hs : Inv s = true) : Safe (execSubmit channel priv s) := by
  unfold execSubmit
  with_reducible
    repeat' first
    | assumption | refine writeWindow_inv _ _ _ _ ?_ | refine safe_next.2 ?_
    | refine safe_ite (fun _ => ?_) (fun _ => ?_) | refine inv_ite (fun _ => ?_) (fun _ => ?_) | split | dsimp only

theorem execCplAck_safe (channel : Nat) (s : State)  (hs : Inv s = true) : Safe (execCplAck channel s) := by
  unfold execCplAck
  with_reducible
    repeat' first
    | assumption | refine ackCompletion_inv _ _ ?_ | refine safe_next.2 ?_
    | refine safe_ite (fun _ => ?_) (fun _ => ?_) | refine inv_ite (fun _ => ?_) (fun _ => ?_) | split | dsimp only

theorem execClaim_safe (channel : Nat) (priv : Priv) (s : State)  (hs : Inv s = true) : Safe (execClaim channel priv s) := by
  unfold execClaim
  with_reducible
    repeat' first
    | assumption | refine writeWindow_inv _ _ _ _ ?_ | refine safe_next.2 ?_
    | refine safe_ite (fun _ => ?_) (fun _ => ?_) | refine inv_ite (fun _ => ?_) (fun _ => ?_) | split | dsimp only

theorem execRelease_safe (channel : Nat) (s : State)  (hs : Inv s = true) : Safe (execRelease channel s) := by
  unfold execRelease
  with_reducible
    repeat' first
    | assumption | refine modWin_inv _ (by rfl) (by rfl) (by rfl) ?_
    | refine modWin_inv _ (by exact (unlockBulk_keeps _ _).1) (by exact (unlockBulk_keeps _ _).2.1) (by exact (unlockBulk_keeps _ _).2.2) ?_
    | refine bulkWrite_inv _ _ ?_ | refine releaseBulk_inv _ ?_ | refine claimBulk_inv _ _ ?_
    | refine bulkOpen_inv _ _ ?_ | refine safe_next.2 ?_ | refine safe_ite (fun _ => ?_) (fun _ => ?_)
    | refine inv_ite (fun _ => ?_) (fun _ => ?_) | split | dsimp only

theorem execCntSnapshot_safe (priv : Priv) (s : State)  (hs : Inv s = true) : Safe (execCntSnapshot priv s) := by
  unfold execCntSnapshot
  with_reducible
    repeat' first
    | assumption | refine writeWindow_inv _ _ _ _ ?_ | refine safe_next.2 ?_
    | refine safe_ite (fun _ => ?_) (fun _ => ?_) | refine inv_ite (fun _ => ?_) (fun _ => ?_) | split | dsimp only

theorem execCursorHiWrite_safe (value : Word) (priv : Priv) (s : State)  (hs : Inv s = true) : Safe (execCursorHiWrite value priv s) := by
  unfold execCursorHiWrite
  with_reducible
    repeat' first
    | assumption | refine writeWindow_inv _ _ _ _ ?_ | refine safe_next.2 ?_
    | refine safe_ite (fun _ => ?_) (fun _ => ?_) | refine inv_ite (fun _ => ?_) (fun _ => ?_) | split | dsimp only

theorem execAltStatusClear_safe (value : Word) (priv : Priv) (s : State)  (hs : Inv s = true) : Safe (execAltStatusClear value priv s) := by
  unfold execAltStatusClear
  with_reducible
    repeat' first
    | assumption | refine writeWindow_inv _ _ _ _ ?_ | refine safe_next.2 ?_
    | refine safe_ite (fun _ => ?_) (fun _ => ?_) | refine inv_ite (fun _ => ?_) (fun _ => ?_) | split | dsimp only

theorem execJtagCtrlWrite_safe (value : Word) (priv : Priv) (s : State)  (hs : Inv s = true) : Safe (execJtagCtrlWrite value priv s) := by
  unfold execJtagCtrlWrite
  with_reducible
    repeat' first
    | assumption | refine writeWindow_inv _ _ _ _ ?_ | refine safe_next.2 ?_
    | refine safe_ite (fun _ => ?_) (fun _ => ?_) | refine inv_ite (fun _ => ?_) (fun _ => ?_) | split | dsimp only

theorem execWindowForward_safe (access : Access) (s : State)  (hs : Inv s = true) : Safe (execWindowForward access s) := by
  unfold execWindowForward
  with_reducible
    repeat' first
    | assumption | refine readWindow_inv _ _ _ _ ?_ | refine receive_inv _ _ ?_ | refine writeWindow_inv _ _ _ _ ?_
    | refine safe_next.2 ?_ | refine safe_ite (fun _ => ?_) (fun _ => ?_) | refine inv_ite (fun _ => ?_) (fun _ => ?_)
    | split | dsimp only

theorem execFunctionLevelReset_safe (s : State)  (hs : Inv s = true) : Safe (execFunctionLevelReset s) := by
  unfold execFunctionLevelReset
  refine safe_next.2 (inv_ite (fun _ => hs) fun _ => modWin_wf_inv _ ?_ ?_ ?_ hs)
  · dsimp only
    split <;> exact (unlockAll_keeps _ _).1.symm ▸ bulk_wf hs
  · dsimp only
    split <;> exact (unlockAll_keeps _ _).2.1.symm ▸ Sparse.wf_mapAll (channels_wf hs) _
  · dsimp only
    split <;> exact (unlockAll_keeps _ _).2.2.symm ▸ nextSeq_ok hs

theorem execCommandBegin_safe (seq : Nat) (s : State)  (hs : Inv s = true) : Safe (execCommandBegin seq s) := by
  unfold execCommandBegin
  with_reducible
    repeat' first
    | assumption | refine complete_inv _ _ _ _ ?_ | refine modCmd_inv _ _ _ ?_ | refine safe_next.2 ?_
    | refine safe_ite (fun _ => ?_) (fun _ => ?_) | refine inv_ite (fun _ => ?_) (fun _ => ?_) | split | dsimp only

theorem execGetIdentity_safe (seq : Nat) (s : State)  (hs : Inv s = true) : Safe (execGetIdentity seq s) := by
  unfold execGetIdentity
  with_reducible
    repeat' first
    | assumption | refine complete_inv _ _ _ _ ?_ | refine runCmd_safe _ _ _ _ ?_ ?_ | refine safe_next.2 ?_
    | refine safe_ite (fun _ => ?_) (fun _ => ?_) | refine inv_ite (fun _ => ?_) (fun _ => ?_) | split | dsimp only

theorem execGetStatus_safe (seq : Nat) (s : State)  (hs : Inv s = true) : Safe (execGetStatus seq s) := by
  unfold execGetStatus
  with_reducible
    repeat' first
    | assumption | refine complete_inv _ _ _ _ ?_ | refine runCmd_safe _ _ _ _ ?_ ?_ | refine safe_next.2 ?_
    | refine safe_ite (fun _ => ?_) (fun _ => ?_) | refine inv_ite (fun _ => ?_) (fun _ => ?_) | split | dsimp only

end Sys2Proof.Machine
end

