-- ==== Sys2Proof/Laws/InvOob.lean ====
section
/-!
SUPPORT. The invariant through the operations of Machine/Oob.lean.
-/
namespace Sys2Proof.Machine

open Sys2Proof

set_option linter.all false
set_option Elab.async false

theorem answerControl_inv (die : Nat) (bs : List Byte) (s : State)  (hs : Inv s = true) : Inv (answerControl die bs s) = true := by
  exact Inv_of_get (fun φ hφ => answerControl_get (notMem_of hφ rfl) _ _ _) hs

theorem submitOob_inv (m : OobMsg) (s : State)  (hs : Inv s = true) : Inv (submitOob m s) = true := by
  unfold submitOob
  with_reducible
    repeat' first
    | assumption | refine submitOn_inv _ _ _ _ _ ?_ | refine modChannel_inv _ _ ?_
    | refine inv_ite (fun _ => ?_) (fun _ => ?_) | split | dsimp only

theorem execOobRequest_safe (m : OobMsg) (s : State)  (hs : Inv s = true) : Safe (execOobRequest m s) := by
  unfold execOobRequest
  with_reducible
    repeat' first
    | assumption | refine modPort_inv _ _ _ ?_ | refine send_inv _ _ ?_ | refine submitOob_inv _ _ ?_
    | refine safe_next.2 ?_ | refine safe_ite (fun _ => ?_) (fun _ => ?_) | refine inv_ite (fun _ => ?_) (fun _ => ?_)
    | split | dsimp only

theorem execOobForward_safe (m : OobMsg) (s : State)  (hs : Inv s = true) : Safe (execOobForward m s) := by
  unfold execOobForward
  with_reducible
    repeat' first
    | assumption | refine receive_inv _ _ ?_ | refine submitOob_inv _ _ ?_ | refine safe_next.2 ?_
    | refine safe_ite (fun _ => ?_) (fun _ => ?_) | refine inv_ite (fun _ => ?_) (fun _ => ?_) | split | dsimp only

theorem execOobCompletionRetry_safe (die : Nat) (s : State)  (hs : Inv s = true) : Safe (execOobCompletionRetry die s) := by
  unfold execOobCompletionRetry
  with_reducible
    repeat' first
    | assumption | refine ackCompletion_inv _ _ ?_ | refine modPort_inv _ _ _ ?_ | refine safe_next.2 ?_
    | refine safe_ite (fun _ => ?_) (fun _ => ?_) | refine inv_ite (fun _ => ?_) (fun _ => ?_) | split | dsimp only

theorem selectBypass_inv (die : Nat) (s : State)  (hs : Inv s = true) : Inv (selectBypass die s) = true := by
  exact Inv_of_get (fun φ hφ => selectBypass_get (notMem_of hφ rfl) _ _) hs

theorem debugInstruction_inv (die ir kind : Nat) (s : State)  (hs : Inv s = true) : Inv (debugInstruction die ir kind s) = true := by
  unfold debugInstruction
  with_reducible
    repeat' first
    | assumption | refine modPort_inv _ _ _ ?_ | refine serveMailbox_inv _ ?_ | refine setFree_inv _ _ ?_
    | refine inv_ite (fun _ => ?_) (fun _ => ?_) | split | dsimp only

theorem execJtagDebugInstruction_safe (die ir kind : Nat) (s : State)  (hs : Inv s = true) : Safe (execJtagDebugInstruction die ir kind s) := by
  unfold execJtagDebugInstruction
  with_reducible
    repeat' first
    | assumption | refine debugInstruction_inv _ _ _ _ ?_ | refine selectBypass_inv _ _ ?_ | refine safe_next.2 ?_
    | refine safe_ite (fun _ => ?_) (fun _ => ?_) | refine inv_ite (fun _ => ?_) (fun _ => ?_) | split | dsimp only

end Sys2Proof.Machine
end

