-- ==== Sys2Proof/Laws/InvWaiting.lean ====
section
/-!
SUPPORT. The invariant through the operations of Machine/Waiting.lean.
-/
namespace Sys2Proof.Machine

open Sys2Proof

set_option linter.all false
set_option Elab.async false

theorem startWaiting_safe  (x0 : Instr) (s : State) (hs : Inv s = true) : Safe (startWaiting x0 s) := by
  unfold startWaiting
  with_reducible
    repeat' first
    | assumption | refine execSpareTakeover_safe _ _ ?_ | refine execStopAtSlot_safe _ _ ?_
    | refine execStopNow_safe _ _ ?_ | refine execTraceConfigure_safe _ _ ?_ | refine execTraceDrain_safe _ _ _ ?_
    | refine execTrainingSave_safe _ _ ?_ | refine execUnitQuarantine_safe _ _ ?_ | refine execUnitScreen_safe _ _ ?_
    | refine execWatchArm_safe _ _ ?_ | refine execWatchDisarm_safe _ _ ?_ | refine requestStop_inv _ _ ?_
    | refine safe_next.2 ?_ | refine safe_ite (fun _ => ?_) (fun _ => ?_) | refine inv_ite (fun _ => ?_) (fun _ => ?_)
    | split | dsimp only

theorem execWaitingActionStart_safe (scope number : Nat) (s : State)  (hs : Inv s = true) : Safe (execWaitingActionStart scope number s) := by
  unfold execWaitingActionStart
  with_reducible
    repeat' first
    | assumption | refine setWaits_inv _ _ ?_ | refine startWaiting_safe _ _ ?_ | refine safe_next.2 ?_
    | refine safe_ite (fun _ => ?_) (fun _ => ?_) | refine inv_ite (fun _ => ?_) (fun _ => ?_) | split | dsimp only

end Sys2Proof.Machine
end

