-- ==== Sys2Proof/Laws/View.lean ====
section
/-!
SUPPORT. One unit's record after an update of it, and after an update of another unit.
-/
namespace Sys2Proof.Machine

open Sys2Proof

variable {s : State}

theorem senOf_modSen (hs : Inv s = true) (k : Nat) (f : Sentinel → Sentinel) : (modSen k f s).senOf k = f (s.senOf k) :=
  Sparse.get_upd_self (sen_wf hs) k f

theorem senOf_modSen_ne (hs : Inv s = true) {k j : Nat} (h : j ≠ k) (f : Sentinel → Sentinel) :
    (modSen k f s).senOf j = s.senOf j := Sparse.get_upd_ne (sen_wf hs) h f

theorem hubOf_modHub (hs : Inv s = true) (k : Nat) (f : Hub → Hub) : (modHub k f s).hubOf k = f (s.hubOf k) :=
  Sparse.get_upd_self (hub_wf hs) k f

theorem hubOf_modHub_ne (hs : Inv s = true) {k j : Nat} (h : j ≠ k) (f : Hub → Hub) :
    (modHub k f s).hubOf j = s.hubOf j := Sparse.get_upd_ne (hub_wf hs) h f

theorem partOf_modPart (hs : Inv s = true) (k : Nat) (f : Partition → Partition) : (modPart k f s).partOf k = f (s.partOf k) :=
  Sparse.get_upd_self (part_wf hs) k f

theorem partOf_modPart_ne (hs : Inv s = true) {k j : Nat} (h : j ≠ k) (f : Partition → Partition) :
    (modPart k f s).partOf j = s.partOf j := Sparse.get_upd_ne (part_wf hs) h f

theorem siteRec_modSite (hs : Inv s = true) (k : Nat) (f : SiteRec → SiteRec) : (modSite k f s).siteRec k = f (s.siteRec k) :=
  Sparse.get_upd_self (health_wf hs) k f

theorem siteRec_modSite_ne (hs : Inv s = true) {k j : Nat} (h : j ≠ k) (f : SiteRec → SiteRec) :
    (modSite k f s).siteRec j = s.siteRec j := Sparse.get_upd_ne (health_wf hs) h f

theorem sensorOf_modSensor (hs : Inv s = true) (k : Nat) (f : Sensor → Sensor) :
    (modSensor k f s).sensorOf k = f (s.sensorOf k) := Sparse.get_upd_self (sensors_wf hs) k f

theorem sensorOf_modSensor_ne (hs : Inv s = true) {k j : Nat} (h : j ≠ k) (f : Sensor → Sensor) :
    (modSensor k f s).sensorOf j = s.sensorOf j := Sparse.get_upd_ne (sensors_wf hs) h f

theorem channelOf_modChannel (hs : Inv s = true) (k : Nat) (f : Channel → Channel) :
    (modChannel k f s).channelOf k = f (s.channelOf k) := Sparse.get_upd_self (channels_wf hs) k f

theorem channelOf_modChannel_ne (hs : Inv s = true) {k j : Nat} (h : j ≠ k) (f : Channel → Channel) :
    (modChannel k f s).channelOf j = s.channelOf j := Sparse.get_upd_ne (channels_wf hs) h f

theorem senOf_of_get {t : State} (h : Fld.get .sen t = Fld.get .sen s) (k : Nat) : t.senOf k = s.senOf k := by
  have h' : t.sen = s.sen := h
  unfold State.senOf
  rw [h']

theorem hubOf_of_get {t : State} (h : Fld.get .hub t = Fld.get .hub s) (k : Nat) : t.hubOf k = s.hubOf k := by
  have h' : t.hub = s.hub := h
  unfold State.hubOf
  rw [h']

theorem partOf_of_get {t : State} (h : Fld.get .part t = Fld.get .part s) (k : Nat) : t.partOf k = s.partOf k := by
  have h' : t.part = s.part := h
  unfold State.partOf
  rw [h']

theorem siteRec_of_get {t : State} (h : Fld.get .health t = Fld.get .health s) (k : Nat) : t.siteRec k = s.siteRec k := by
  have h' : t.health = s.health := h
  unfold State.siteRec
  rw [h']

theorem sensorOf_of_get {t : State} (h : Fld.get .sensors t = Fld.get .sensors s) (k : Nat) : t.sensorOf k = s.sensorOf k := by
  have h' : t.sensors = s.sensors := h
  unfold State.sensorOf
  rw [h']

theorem channelOf_of_get {t : State} (h : Fld.get .win t = Fld.get .win s) (k : Nat) : t.channelOf k = s.channelOf k := by
  have h' : t.win = s.win := h
  unfold State.channelOf
  rw [h']

end Sys2Proof.Machine
end

