-- ==== Sys2Proof/Laws/Commands.lean ====
section
/-!
SUPPORT. What the shared operations around a command do: a message that arrives or is held back (R39, R44), and a mailbox
command that has begun (R491, R493).
-/
namespace Sys2Proof.Machine

open Sys2Proof

theorem arrive_next {m : Instr} {f : State → State} {s : State} (h : s.arrives m = true) :
    arrive m f s = .next (f (receive m s)) := if_pos h

theorem arrive_held {m : Instr} {f : State → State} {s : State} (h : s.arrives m = false) :
    arrive m f s = .next (holdBack m s) := if_neg (by simp [h])

theorem each_sent (f : Nat → State → State) (hf : ∀ x z, (f x z).sent = z.sent) (xs : List Nat) :
    ∀ s : State, (each xs f s).sent = s.sent := by
  induction xs with
  | nil => intro s; rfl
  | cons x xs ih => intro s; exact (ih (f x s)).trans (hf x s)

/-- A message that is received leaves the messages in flight. -/
theorem receive_sent (m : Instr) (s : State) : (receive m s).sent = s.sent.erase m := by
  unfold receive
  dsimp only
  refine (each_sent _ ?_ _ _).trans ?_
  · intro _ _; rfl
  · rfl

theorem each_hubOf (k : Nat) (cls : Nat) (m : Instr) (xs : List Nat) : ∀ s : State, Inv s = true →
    ∃ c p, (each xs (fun h s => countHub h cls 1 (modHub h (fun y => { y with pool := y.pool.filter fun w => w.msg != m }) s)) s).hubOf k =
      { s.hubOf k with counters := c, pool := p } := by
  induction xs with
  | nil => intro s _; exact ⟨_, _, rfl⟩
  | cons x xs ih =>
    intro s h
    have h1 : Inv (modHub x (fun y => { y with pool := y.pool.filter fun w => w.msg != m }) s) = true := modHub_inv _ _ _ h
    obtain ⟨c, p, e⟩ := ih _ (countHub_inv x cls 1 _ h1)
    refine ⟨c, p, e.trans ?_⟩
    by_cases hx : k = x
    · subst hx
      unfold countHub
      rw [hubOf_modHub h1, hubOf_modHub h]
    · unfold countHub
      rw [hubOf_modHub_ne h1 hx, hubOf_modHub_ne h hx]

/-- Receiving a message changes of a hub only its counters and its buffers. -/
theorem receive_hubOf {s : State} (hs : Inv s = true) (m : Instr) (k : Nat) :
    ∃ c p, (receive m s).hubOf k = { s.hubOf k with counters := c, pool := p } := by
  unfold receive
  dsimp only
  exact each_hubOf k _ m _ _ (setSent_inv _ _ hs)

/-- A command that runs is the one that its meaning finds begun. -/
theorem begun_of_runs {s : State} {seq op : Nat} {c : Cmd} (h : Runs s seq op c) : s.begun seq op = some c := by
  obtain ⟨h1, h2, h3, h4, _⟩ := h
  unfold State.cmd at h1
  unfold State.begun
  rw [List.find?_eq_some_iff_append] at h1 ⊢
  obtain ⟨h5, as, bs, h6, h7⟩ := h1
  refine ⟨by simp_all, as, bs, h6, fun a ha => ?_⟩
  have := h7 a ha
  simp_all

theorem runCmd_ok {seq status : Nat} {f : State → State} {s : State} (h : status = 0) : runCmd seq status f s = .next (f s) := by
  unfold runCmd; rw [if_pos h]

end Sys2Proof.Machine
end

