-- ==== Sys2Proof/Laws/ExecEq.lean ====
section
/-!
SUPPORT. What exec answers for each command: its meaning.
-/
namespace Sys2Proof.Machine

open Sys2Proof

theorem exec_mainPowerGood : ∀ p s, exec (.mainPowerGood p) s = execMainPowerGood p s := fun _ _ => rfl
theorem exec_securityAuthentication : ∀ die authentic s, exec (.securityAuthentication die authentic) s = execSecurityAuthentication die authentic s := fun _ _ _ => rfl
theorem exec_imageDigestExchange : ∀ s, exec (.imageDigestExchange) s = execImageDigestExchange s := fun _ => rfl
theorem exec_linkTrainingResult : ∀ kind index result time settings s, exec (.linkTrainingResult kind index result time settings) s = execLinkTrainingResult kind index result time settings s := fun _ _ _ _ _ _ => rfl
theorem exec_pwrWarnN : ∀ written s, exec (.pwrWarnN written) s = execPwrWarnN written s := fun _ _ => rfl
theorem exec_pwrWarnReturn : ∀ s, exec (.pwrWarnReturn) s = execPwrWarnReturn s := fun _ => rfl
theorem exec_managerWatchdogExpiry : ∀ die s, exec (.managerWatchdogExpiry die) s = execManagerWatchdogExpiry die s := fun _ _ => rfl
theorem exec_functionLevelReset : ∀ s, exec (.functionLevelReset) s = execFunctionLevelReset s := fun _ => rfl
theorem exec_tapReset : ∀ die s, exec (.tapReset die) s = execTapReset die s := fun _ _ => rfl
theorem exec_smbusClockLowTimeout : ∀ die s, exec (.smbusClockLowTimeout die) s = execSmbusClockLowTimeout die s := fun _ _ => rfl
theorem exec_mramFailure : ∀ die s, exec (.mramFailure die) s = execMramFailure die s := fun _ _ => rfl
theorem exec_linkWatchdogExpiry : ∀ link s, exec (.linkWatchdogExpiry link) s = execLinkWatchdogExpiry link s := fun _ _ => rfl
theorem exec_hubBufferFreed : ∀ hub index s, exec (.hubBufferFreed hub index) s = execHubBufferFreed hub index s := fun _ _ _ => rfl
theorem exec_reservedClassDiscard : ∀ hub cls opcode s, exec (.reservedClassDiscard hub cls opcode) s = execReservedClassDiscard hub cls opcode s := fun _ _ _ _ => rfl
theorem exec_alarmLevel : ∀ unit code raised edge s, exec (.alarmLevel unit code raised edge) s = execAlarmLevel unit code raised edge s := fun _ _ _ _ _ => rfl
theorem exec_fence : ∀ unit partition cause s, exec (.fence unit partition cause) s = execFence unit partition cause s := fun _ _ _ _ => rfl
theorem exec_fenceDone : ∀ site s, exec (.fenceDone site) s = execFenceDone site s := fun _ _ => rfl
theorem exec_fenceDeadline : ∀ partition s, exec (.fenceDeadline partition) s = execFenceDeadline partition s := fun _ _ => rfl
theorem exec_tileReset : ∀ site cause s, exec (.tileReset site cause) s = execTileReset site cause s := fun _ _ _ => rfl
theorem exec_resetDone : ∀ site s, exec (.resetDone site) s = execResetDone site s := fun _ _ => rfl
theorem exec_tileResetTimeout : ∀ site s, exec (.tileResetTimeout site) s = execTileResetTimeout site s := fun _ _ => rfl
theorem exec_resetMemoryReady : ∀ partition failing s, exec (.resetMemoryReady partition failing) s = execResetMemoryReady partition failing s := fun _ _ _ => rfl
theorem exec_stopSlot : ∀ site n s, exec (.stopSlot site n) s = execStopSlot site n s := fun _ _ _ => rfl
theorem exec_stopSlotReached : ∀ site s, exec (.stopSlotReached site) s = execStopSlotReached site s := fun _ _ => rfl
theorem exec_stopCodeDecoded : ∀ site slot s, exec (.stopCodeDecoded site slot) s = execStopCodeDecoded site slot s := fun _ _ _ => rfl
theorem exec_stopReleaseMessage : ∀ site sMin s, exec (.stopReleaseMessage site sMin) s = execStopReleaseMessage site sMin s := fun _ _ _ => rfl
theorem exec_tileRestart : ∀ site s, exec (.tileRestart site) s = execTileRestart site s := fun _ _ => rfl
theorem exec_syncPulse : ∀ s, exec (.syncPulse) s = execSyncPulse s := fun _ => rfl
theorem exec_throttleStage : ∀ unit stage engage s, exec (.throttleStage unit stage engage) s = execThrottleStage unit stage engage s := fun _ _ _ _ => rfl
theorem exec_throttleEngage : ∀ s, exec (.throttleEngage) s = execThrottleEngage s := fun _ => rfl
theorem exec_throttleRequest : ∀ sector stage s, exec (.throttleRequest sector stage) s = execThrottleRequest sector stage s := fun _ _ _ => rfl
theorem exec_quarantine : ∀ site s, exec (.quarantine site) s = execQuarantine site s := fun _ _ => rfl
theorem exec_screenRun : ∀ site sector point recipe epoch s, exec (.screenRun site sector point recipe epoch) s = execScreenRun site sector point recipe epoch s := fun _ _ _ _ _ _ => rfl
theorem exec_traceTrigger : ∀ site firing slot s, exec (.traceTrigger site firing slot) s = execTraceTrigger site firing slot s := fun _ _ _ _ => rfl
theorem exec_repeatRead : ∀ site seq reason elems outs operands early s, exec (.repeatRead site seq reason elems outs operands early) s = execRepeatRead site seq reason elems outs operands early s := fun _ _ _ _ _ _ _ _ => rfl
theorem exec_stopRequest : ∀ site s, exec (.stopRequest site) s = execStopRequest site s := fun _ _ => rfl
theorem exec_takeover : ∀ hub s, exec (.takeover hub) s = execTakeover hub s := fun _ _ => rfl
theorem exec_stepBoundary : ∀ hub partition step sk flags s, exec (.stepBoundary hub partition step sk flags) s = execStepBoundary hub partition step sk flags s := fun _ _ _ _ _ _ => rfl
theorem exec_residueVerdict : ∀ site item detail s, exec (.residueVerdict site item detail) s = execResidueVerdict site item detail s := fun _ _ _ _ => rfl
theorem exec_plausVerdict : ∀ site item s, exec (.plausVerdict site item) s = execPlausVerdict site item s := fun _ _ _ => rfl
theorem exec_redundancy : ∀ site item s, exec (.redundancy site item) s = execRedundancy site item s := fun _ _ _ => rfl
theorem exec_stepDone : ∀ site item s, exec (.stepDone site item) s = execStepDone site item s := fun _ _ _ => rfl
theorem exec_stepDoneWaitExpiry : ∀ hub partition s, exec (.stepDoneWaitExpiry hub partition) s = execStepDoneWaitExpiry hub partition s := fun _ _ _ => rfl
theorem exec_sentinelReadTimeout : ∀ site s, exec (.sentinelReadTimeout site) s = execSentinelReadTimeout site s := fun _ _ => rfl
theorem exec_sealVerdict : ∀ unit partition lineage test step seq info s, exec (.sealVerdict unit partition lineage test step seq info) s = execSealVerdict unit partition lineage test step seq info s := fun _ _ _ _ _ _ _ _ => rfl
theorem exec_ledger : ∀ site entry s, exec (.ledger site entry) s = execLedger site entry s := fun _ _ _ => rfl
theorem exec_contribution : ∀ hub partition step failed groups s, exec (.contribution hub partition step failed groups) s = execContribution hub partition step failed groups s := fun _ _ _ _ _ _ => rfl
theorem exec_finalKept : ∀ partition step kept restarted failed blocks s, exec (.finalKept partition step kept restarted failed blocks) s = execFinalKept partition step kept restarted failed blocks s := fun _ _ _ _ _ _ _ => rfl
theorem exec_stepToken : ∀ partition s, exec (.stepToken partition) s = execStepToken partition s := fun _ _ => rfl
theorem exec_peerRelease : ∀ partition s, exec (.peerRelease partition) s = execPeerRelease partition s := fun _ _ => rfl
theorem exec_timeLoad : ∀ unit v s, exec (.timeLoad unit v) s = execTimeLoad unit v s := fun _ _ _ => rfl
theorem exec_timeCheck : ∀ hub s, exec (.timeCheck hub) s = execTimeCheck hub s := fun _ _ => rfl
theorem exec_rasAlignmentTimer : ∀ s, exec (.rasAlignmentTimer) s = execRasAlignmentTimer s := fun _ => rfl
theorem exec_edgeTickTimer : ∀ hub s, exec (.edgeTickTimer hub) s = execEdgeTickTimer hub s := fun _ _ => rfl
theorem exec_edgeTick : ∀ site s, exec (.edgeTick site) s = execEdgeTick site s := fun _ _ => rfl
theorem exec_hubWatchTimer : ∀ hub s, exec (.hubWatchTimer hub) s = execHubWatchTimer hub s := fun _ _ => rfl
theorem exec_hubWatch : ∀ sector s, exec (.hubWatch sector) s = execHubWatch sector s := fun _ _ => rfl
theorem exec_hubWatchMissed : ∀ sector s, exec (.hubWatchMissed sector) s = execHubWatchMissed sector s := fun _ _ => rfl
theorem exec_read : ∀ unit offset count tag s, exec (.read unit offset count tag) s = execRead unit offset count tag s := fun _ _ _ _ _ => rfl
theorem exec_write : ∀ unit offset words tag s, exec (.write unit offset words tag) s = execWrite unit offset words tag s := fun _ _ _ _ _ => rfl
theorem exec_dropCountRead : ∀ site tag s, exec (.dropCountRead site tag) s = execDropCountRead site tag s := fun _ _ _ => rfl
theorem exec_programWrite : ∀ site offset words tag s, exec (.programWrite site offset words tag) s = execProgramWrite site offset words tag s := fun _ _ _ _ _ => rfl
theorem exec_programRead : ∀ site offset count tag s, exec (.programRead site offset count tag) s = execProgramRead site offset count tag s := fun _ _ _ _ _ => rfl
theorem exec_controlResponse : ∀ unit cls opcode tag status empty s, exec (.controlResponse unit cls opcode tag status empty) s = execControlResponse unit cls opcode tag status empty s := fun _ _ _ _ _ _ _ => rfl
theorem exec_event : ∀ ev s, exec (.event ev) s = execEvent ev s := fun _ _ => rfl
theorem exec_dropCount : ∀ site count s, exec (.dropCount site count) s = execDropCount site count s := fun _ _ _ => rfl
theorem exec_summary : ∀ site sum s, exec (.summary site sum) s = execSummary site sum s := fun _ _ _ => rfl
theorem exec_edgeChange : ∀ hub raised edge s, exec (.edgeChange hub raised edge) s = execEdgeChange hub raised edge s := fun _ _ _ _ => rfl
theorem exec_memoryError : ∀ hub report s, exec (.memoryError hub report) s = execMemoryError hub report s := fun _ _ _ => rfl
theorem exec_runResult : ∀ site recipe verdict seals signature status replay s, exec (.runResult site recipe verdict seals signature status replay) s = execRunResult site recipe verdict seals signature status replay s := fun _ _ _ _ _ _ _ _ => rfl
theorem exec_repeatHeader : ∀ site hdr s, exec (.repeatHeader site hdr) s = execRepeatHeader site hdr s := fun _ _ _ => rfl
theorem exec_laneData : ∀ site data s, exec (.laneData site data) s = execLaneData site data s := fun _ _ _ => rfl
theorem exec_content : ∀ sector offset bytes s, exec (.content sector offset bytes) s = execContent sector offset bytes s := fun _ _ _ _ => rfl
theorem exec_snapshotPart : ∀ hub partition sites edges s, exec (.snapshotPart hub partition sites edges) s = execSnapshotPart hub partition sites edges s := fun _ _ _ _ _ => rfl
theorem exec_snapshotSiteTimeout : ∀ site s, exec (.snapshotSiteTimeout site) s = execSnapshotSiteTimeout site s := fun _ _ => rfl
theorem exec_digestRun : ∀ hub partition inputs outputs lost s, exec (.digestRun hub partition inputs outputs lost) s = execDigestRun hub partition inputs outputs lost s := fun _ _ _ _ _ _ => rfl
theorem exec_digestComplete : ∀ partition s, exec (.digestComplete partition) s = execDigestComplete partition s := fun _ _ => rfl
theorem exec_journalEntry : ∀ entry s, exec (.journalEntry entry) s = execJournalEntry entry s := fun _ _ => rfl
theorem exec_audit : ∀ sequence agree s, exec (.audit sequence agree) s = execAudit sequence agree s := fun _ _ _ => rfl
theorem exec_heartbeatTimer : ∀ die s, exec (.heartbeatTimer die) s = execHeartbeatTimer die s := fun _ _ => rfl
theorem exec_heartbeat : ∀ die ras role s, exec (.heartbeat die ras role) s = execHeartbeat die ras role s := fun _ _ _ _ => rfl
theorem exec_heartbeatLoss : ∀ die s, exec (.heartbeatLoss die) s = execHeartbeatLoss die s := fun _ _ => rfl
theorem exec_standbyLoss : ∀ die s, exec (.standbyLoss die) s = execStandbyLoss die s := fun _ _ => rfl
theorem exec_recordMirror : ∀ index r s, exec (.recordMirror index r) s = execRecordMirror index r s := fun _ _ _ => rfl
theorem exec_mirrorAck : ∀ index s, exec (.mirrorAck index) s = execMirrorAck index s := fun _ _ => rfl
theorem exec_mirrorAckTimeout : ∀ index s, exec (.mirrorAckTimeout index) s = execMirrorAckTimeout index s := fun _ _ => rfl
theorem exec_standbyRejoin : ∀ s, exec (.standbyRejoin) s = execStandbyRejoin s := fun _ => rfl
theorem exec_mramWrite : ∀ die offset data s, exec (.mramWrite die offset data) s = execMramWrite die offset data s := fun _ _ _ _ => rfl
theorem exec_windowForward : ∀ access s, exec (.windowForward access) s = execWindowForward access s := fun _ _ => rfl
theorem exec_pinState : ∀ pins s, exec (.pinState pins) s = execPinState pins s := fun _ _ => rfl
theorem exec_oobForward : ∀ msg s, exec (.oobForward msg) s = execOobForward msg s := fun _ _ => rfl
theorem exec_tcgWakeAckRise : ∀ site s, exec (.tcgWakeAckRise site) s = execTcgWakeAckRise site s := fun _ _ => rfl
theorem exec_tcgWakeAckFall : ∀ site s, exec (.tcgWakeAckFall site) s = execTcgWakeAckFall site s := fun _ _ => rfl
theorem exec_wakeTimeout : ∀ site s, exec (.wakeTimeout site) s = execWakeTimeout site s := fun _ _ => rfl
theorem exec_eventLevelRise : ∀ site code s, exec (.eventLevelRise site code) s = execEventLevelRise site code s := fun _ _ _ => rfl
theorem exec_eventCounterSampleTimer : ∀ site s, exec (.eventCounterSampleTimer site) s = execEventCounterSampleTimer site s := fun _ _ => rfl
theorem exec_frontQueueEntry : ∀ site s, exec (.frontQueueEntry site) s = execFrontQueueEntry site s := fun _ _ => rfl
theorem exec_blockConsumed : ∀ site c s, exec (.blockConsumed site c) s = execBlockConsumed site c s := fun _ _ _ => rfl
theorem exec_sealReread : ∀ site stored s, exec (.sealReread site stored) s = execSealReread site stored s := fun _ _ _ => rfl
theorem exec_blockProduced : ∀ site p s, exec (.blockProduced site p) s = execBlockProduced site p s := fun _ _ _ => rfl
theorem exec_outputTileSealed : ∀ site t s, exec (.outputTileSealed site t) s = execOutputTileSealed site t s := fun _ _ _ => rfl
theorem exec_sampleSelect : ∀ site seq s, exec (.sampleSelect site seq) s = execSampleSelect site seq s := fun _ _ _ => rfl
theorem exec_vectorBeat : ∀ site b s, exec (.vectorBeat site b) s = execVectorBeat site b s := fun _ _ _ => rfl
theorem exec_streamEnd : ∀ site s, exec (.streamEnd site) s = execStreamEnd site s := fun _ _ => rfl
theorem exec_stepLastComplete : ∀ site s, exec (.stepLastComplete site) s = execStepLastComplete site s := fun _ _ => rfl
theorem exec_queueCommandIssue : ∀ site op s, exec (.queueCommandIssue site op) s = execQueueCommandIssue site op s := fun _ _ _ => rfl
theorem exec_queueCommandComplete : ∀ site op discarded s, exec (.queueCommandComplete site op discarded) s = execQueueCommandComplete site op discarded s := fun _ _ _ _ => rfl
theorem exec_sramErrorReport : ∀ site corrected path address desc s, exec (.sramErrorReport site corrected path address desc) s = execSramErrorReport site corrected path address desc s := fun _ _ _ _ _ _ => rfl
theorem exec_memoryEntryRead : ∀ t s, exec (.memoryEntryRead t) s = execMemoryEntryRead t s := fun _ _ => rfl
theorem exec_memoryExitWrite : ∀ t s, exec (.memoryExitWrite t) s = execMemoryExitWrite t s := fun _ _ => rfl
theorem exec_linkEntryBlock : ∀ t s, exec (.linkEntryBlock t) s = execLinkEntryBlock t s := fun _ _ => rfl
theorem exec_trailerReceived : ∀ partition port block s, exec (.trailerReceived partition port block) s = execTrailerReceived partition port block s := fun _ _ _ _ => rfl
theorem exec_linkExitBlock : ∀ t s, exec (.linkExitBlock t) s = execLinkExitBlock t s := fun _ _ => rfl
theorem exec_reductionInputBlock : ∀ t s, exec (.reductionInputBlock t) s = execReductionInputBlock t s := fun _ _ => rfl
theorem exec_reductionCompareMismatch : ∀ partition s, exec (.reductionCompareMismatch partition) s = execReductionCompareMismatch partition s := fun _ _ => rfl
theorem exec_commitDone : ∀ partition written reduced s, exec (.commitDone partition written reduced) s = execCommitDone partition written reduced s := fun _ _ _ _ => rfl
theorem exec_mirrorBlockReceived : ∀ owner index block markedFailed s, exec (.mirrorBlockReceived owner index block markedFailed) s = execMirrorBlockReceived owner index block markedFailed s := fun _ _ _ _ _ => rfl
theorem exec_partnerCopyComplete : ∀ owner s, exec (.partnerCopyComplete owner) s = execPartnerCopyComplete owner s := fun _ _ => rfl
theorem exec_tier2CopyComplete : ∀ partition region s, exec (.tier2CopyComplete partition region) s = execTier2CopyComplete partition region s := fun _ _ _ => rfl
theorem exec_takeoverFillComplete : ∀ tile resFailed mirFailed s, exec (.takeoverFillComplete tile resFailed mirFailed) s = execTakeoverFillComplete tile resFailed mirFailed s := fun _ _ _ _ => rfl
theorem exec_replayDone : ∀ partition result tile lastStep length tag s, exec (.replayDone partition result tile lastStep length tag) s = execReplayDone partition result tile lastStep length tag s := fun _ _ _ _ _ _ _ => rfl
theorem exec_replayDoneTimeout : ∀ partition tile s, exec (.replayDoneTimeout partition tile) s = execReplayDoneTimeout partition tile s := fun _ _ _ => rfl
theorem exec_lossReport : ∀ step loss partition length tag s, exec (.lossReport step loss partition length tag) s = execLossReport step loss partition length tag s := fun _ _ _ _ _ _ => rfl
theorem exec_unknownCoreMessage : ∀ type tag s, exec (.unknownCoreMessage type tag) s = execUnknownCoreMessage type tag s := fun _ _ _ => rfl
theorem exec_peerTimeout : ∀ partition entry s, exec (.peerTimeout partition entry) s = execPeerTimeout partition entry s := fun _ _ _ => rfl
theorem exec_memoryCompletion : ∀ hub point partition context gen s, exec (.memoryCompletion hub point partition context gen) s = execMemoryCompletion hub point partition context gen s := fun _ _ _ _ _ _ => rfl
theorem exec_flitIntoFencedPartition : ∀ site expects s, exec (.flitIntoFencedPartition site expects) s = execFlitIntoFencedPartition site expects s := fun _ _ _ => rfl
theorem exec_teardownWritesDrained : ∀ partition context reads writes s, exec (.teardownWritesDrained partition context reads writes) s = execTeardownWritesDrained partition context reads writes s := fun _ _ _ _ _ => rfl
theorem exec_teardownWriteTimeout : ∀ partition context reads writes s, exec (.teardownWriteTimeout partition context reads writes) s = execTeardownWriteTimeout partition context reads writes s := fun _ _ _ _ _ => rfl
theorem exec_waitForSearchTimer : ∀ s, exec (.waitForSearchTimer) s = execWaitForSearchTimer s := fun _ => rfl
theorem exec_commitWaitExpiry : ∀ partition s, exec (.commitWaitExpiry partition) s = execCommitWaitExpiry partition s := fun _ _ => rfl
theorem exec_replayStepLimitExpiry : ∀ partition s, exec (.replayStepLimitExpiry partition) s = execReplayStepLimitExpiry partition s := fun _ _ => rfl
theorem exec_screeningWindowStart : ∀ partition s, exec (.screeningWindowStart partition) s = execScreeningWindowStart partition s := fun _ _ => rfl
theorem exec_screenSpanExpiry : ∀ site s, exec (.screenSpanExpiry site) s = execScreenSpanExpiry site s := fun _ _ => rfl
theorem exec_spareScreenStart : ∀ site heaters s, exec (.spareScreenStart site heaters) s = execSpareScreenStart site heaters s := fun _ _ _ => rfl
theorem exec_heatingTimeout : ∀ sector s, exec (.heatingTimeout sector) s = execHeatingTimeout sector s := fun _ _ => rfl
theorem exec_vmarginAck : ∀ sector s, exec (.vmarginAck sector) s = execVmarginAck sector s := fun _ _ => rfl
theorem exec_vmarginKeepaliveTimer : ∀ sector s, exec (.vmarginKeepaliveTimer sector) s = execVmarginKeepaliveTimer sector s := fun _ _ => rfl
theorem exec_stageZeroHold : ∀ s, exec (.stageZeroHold) s = execStageZeroHold s := fun _ => rfl
theorem exec_cleanPeriodEnd : ∀ site s, exec (.cleanPeriodEnd site) s = execCleanPeriodEnd site s := fun _ _ => rfl
theorem exec_modelStep : ∀ sector s, exec (.modelStep sector) s = execModelStep sector s := fun _ _ => rfl
theorem exec_thermalSample : ∀ sector counts diode s, exec (.thermalSample sector counts diode) s = execThermalSample sector counts diode s := fun _ _ _ _ => rfl
theorem exec_edgeDiodeRead : ∀ die readings s, exec (.edgeDiodeRead die readings) s = execEdgeDiodeRead die readings s := fun _ _ _ => rfl
theorem exec_releaseHoldExpiry : ∀ sector s, exec (.releaseHoldExpiry sector) s = execReleaseHoldExpiry sector s := fun _ _ => rfl
theorem exec_unitWakeStart : ∀ hub unit s, exec (.unitWakeStart hub unit) s = execUnitWakeStart hub unit s := fun _ _ _ => rfl
theorem exec_historyCountFlush : ∀ site s, exec (.historyCountFlush site) s = execHistoryCountFlush site s := fun _ _ => rfl
theorem exec_counterCopyTimer : ∀ s, exec (.counterCopyTimer) s = execCounterCopyTimer s := fun _ => rfl
theorem exec_hourlyCalendarMark : ∀ s, exec (.hourlyCalendarMark) s = execHourlyCalendarMark s := fun _ => rfl
theorem exec_memCeHour : ∀ s, exec (.memCeHour) s = execMemCeHour s := fun _ => rfl
theorem exec_staleCompletionSecond : ∀ hub s, exec (.staleCompletionSecond hub) s = execStaleCompletionSecond hub s := fun _ _ => rfl
theorem exec_rateWindowStart : ∀ s, exec (.rateWindowStart) s = execRateWindowStart s := fun _ => rfl
theorem exec_ringBatchWrite : ∀ count s, exec (.ringBatchWrite count) s = execRingBatchWrite count s := fun _ _ => rfl
theorem exec_freezeLimitExpiry : ∀ s, exec (.freezeLimitExpiry) s = execFreezeLimitExpiry s := fun _ => rfl
theorem exec_thmUpdate : ∀ s, exec (.thmUpdate) s = execThmUpdate s := fun _ => rfl
theorem exec_watchDumpComplete : ∀ site slot s, exec (.watchDumpComplete site slot) s = execWatchDumpComplete site slot s := fun _ _ _ => rfl
theorem exec_plausibilitySetConfirmed : ∀ hub partition s, exec (.plausibilitySetConfirmed hub partition) s = execPlausibilitySetConfirmed hub partition s := fun _ _ _ => rfl
theorem exec_plausibilityLoadTimeout : ∀ partition s, exec (.plausibilityLoadTimeout partition) s = execPlausibilityLoadTimeout partition s := fun _ _ => rfl
theorem exec_waitingActionStart : ∀ scope number s, exec (.waitingActionStart scope number) s = execWaitingActionStart scope number s := fun _ _ _ => rfl
theorem exec_commandBegin : ∀ seq s, exec (.commandBegin seq) s = execCommandBegin seq s := fun _ _ => rfl
theorem exec_submit : ∀ channel priv s, exec (.submit channel priv) s = execSubmit channel priv s := fun _ _ _ => rfl
theorem exec_cplAck : ∀ channel s, exec (.cplAck channel) s = execCplAck channel s := fun _ _ => rfl
theorem exec_claim : ∀ channel priv s, exec (.claim channel priv) s = execClaim channel priv s := fun _ _ _ => rfl
theorem exec_release : ∀ channel s, exec (.release channel) s = execRelease channel s := fun _ _ => rfl
theorem exec_loRegisterRead : ∀ offset size priv s, exec (.loRegisterRead offset size priv) s = execLoRegisterRead offset size priv s := fun _ _ _ _ => rfl
theorem exec_cntSnapshot : ∀ priv s, exec (.cntSnapshot priv) s = execCntSnapshot priv s := fun _ _ => rfl
theorem exec_cursorHiWrite : ∀ value priv s, exec (.cursorHiWrite value priv) s = execCursorHiWrite value priv s := fun _ _ _ => rfl
theorem exec_altStatusClear : ∀ value priv s, exec (.altStatusClear value priv) s = execAltStatusClear value priv s := fun _ _ _ => rfl
theorem exec_jtagCtrlWrite : ∀ value priv s, exec (.jtagCtrlWrite value priv) s = execJtagCtrlWrite value priv s := fun _ _ _ => rfl
theorem exec_seedLoad : ∀ hub sampling value s, exec (.seedLoad hub sampling value) s = execSeedLoad hub sampling value s := fun _ _ _ _ => rfl
theorem exec_registerWrite : ∀ offset size value priv s, exec (.registerWrite offset size value priv) s = execRegisterWrite offset size value priv s := fun _ _ _ _ _ => rfl
theorem exec_getIdentity : ∀ seq s, exec (.getIdentity seq) s = execGetIdentity seq s := fun _ _ => rfl
theorem exec_getStatus : ∀ seq s, exec (.getStatus seq) s = execGetStatus seq s := fun _ _ => rfl
theorem exec_logFreeze : ∀ seq s, exec (.logFreeze seq) s = execLogFreeze seq s := fun _ _ => rfl
theorem exec_logThaw : ∀ seq s, exec (.logThaw seq) s = execLogThaw seq s := fun _ _ => rfl
theorem exec_logClear : ∀ seq s, exec (.logClear seq) s = execLogClear seq s := fun _ _ => rfl
theorem exec_logMark : ∀ seq s, exec (.logMark seq) s = execLogMark seq s := fun _ _ => rfl
theorem exec_timeSetCalendar : ∀ seq s, exec (.timeSetCalendar seq) s = execTimeSetCalendar seq s := fun _ _ => rfl
theorem exec_healthQuery : ∀ seq s, exec (.healthQuery seq) s = execHealthQuery seq s := fun _ _ => rfl
theorem exec_unitQuarantine : ∀ seq s, exec (.unitQuarantine seq) s = execUnitQuarantine seq s := fun _ _ => rfl
theorem exec_unitRelease : ∀ seq s, exec (.unitRelease seq) s = execUnitRelease seq s := fun _ _ => rfl
theorem exec_unitScreen : ∀ seq s, exec (.unitScreen seq) s = execUnitScreen seq s := fun _ _ => rfl
theorem exec_historyRead : ∀ seq s, exec (.historyRead seq) s = execHistoryRead seq s := fun _ _ => rfl
theorem exec_unitRetire : ∀ seq s, exec (.unitRetire seq) s = execUnitRetire seq s := fun _ _ => rfl
theorem exec_spareTakeover : ∀ seq s, exec (.spareTakeover seq) s = execSpareTakeover seq s := fun _ _ => rfl
theorem exec_partitionDefine : ∀ seq s, exec (.partitionDefine seq) s = execPartitionDefine seq s := fun _ _ => rfl
theorem exec_partitionFence : ∀ seq s, exec (.partitionFence seq) s = execPartitionFence seq s := fun _ _ => rfl
theorem exec_partitionReset : ∀ seq s, exec (.partitionReset seq) s = execPartitionReset seq s := fun _ _ => rfl
theorem exec_waferReset : ∀ seq tests s, exec (.waferReset seq tests) s = execWaferReset seq tests s := fun _ _ _ => rfl
theorem exec_partitionRelease : ∀ seq s, exec (.partitionRelease seq) s = execPartitionRelease seq s := fun _ _ => rfl
theorem exec_contextTeardown : ∀ seq s, exec (.contextTeardown seq) s = execContextTeardown seq s := fun _ _ => rfl
theorem exec_jobAttach : ∀ seq s, exec (.jobAttach seq) s = execJobAttach seq s := fun _ _ => rfl
theorem exec_jobDetach : ∀ seq s, exec (.jobDetach seq) s = execJobDetach seq s := fun _ _ => rfl
theorem exec_stepVerdictQuery : ∀ seq s, exec (.stepVerdictQuery seq) s = execStepVerdictQuery seq s := fun _ _ => rfl
theorem exec_digestQuery : ∀ seq s, exec (.digestQuery seq) s = execDigestQuery seq s := fun _ _ => rfl
theorem exec_netConfigure : ∀ seq result time settings s, exec (.netConfigure seq result time settings) s = execNetConfigure seq result time settings s := fun _ _ _ _ _ => rfl
theorem exec_netStatus : ∀ seq s, exec (.netStatus seq) s = execNetStatus seq s := fun _ _ => rfl
theorem exec_stopAtSlot : ∀ seq s, exec (.stopAtSlot seq) s = execStopAtSlot seq s := fun _ _ => rfl
theorem exec_stopNow : ∀ seq s, exec (.stopNow seq) s = execStopNow seq s := fun _ _ => rfl
theorem exec_stopRelease : ∀ seq s, exec (.stopRelease seq) s = execStopRelease seq s := fun _ _ => rfl
theorem exec_scanOut : ∀ seq absent time expired s, exec (.scanOut seq absent time expired) s = execScanOut seq absent time expired s := fun _ _ _ _ _ => rfl
theorem exec_traceConfigure : ∀ seq s, exec (.traceConfigure seq) s = execTraceConfigure seq s := fun _ _ => rfl
theorem exec_traceDrain : ∀ seq time s, exec (.traceDrain seq time) s = execTraceDrain seq time s := fun _ _ _ => rfl
theorem exec_watchArm : ∀ seq s, exec (.watchArm seq) s = execWatchArm seq s := fun _ _ => rfl
theorem exec_watchDisarm : ∀ seq s, exec (.watchDisarm seq) s = execWatchDisarm seq s := fun _ _ => rfl
theorem exec_hangSnapshot : ∀ seq s, exec (.hangSnapshot seq) s = execHangSnapshot seq s := fun _ _ => rfl
theorem exec_thermalPolicy : ∀ seq s, exec (.thermalPolicy seq) s = execThermalPolicy seq s := fun _ _ => rfl
theorem exec_sensorRetire : ∀ seq s, exec (.sensorRetire seq) s = execSensorRetire seq s := fun _ _ => rfl
theorem exec_imageStage : ∀ seq s, exec (.imageStage seq) s = execImageStage seq s := fun _ _ => rfl
theorem exec_imageCommit : ∀ seq authenticA authenticB tests s, exec (.imageCommit seq authenticA authenticB tests) s = execImageCommit seq authenticA authenticB tests s := fun _ _ _ _ _ => rfl
theorem exec_trainingSave : ∀ seq s, exec (.trainingSave seq) s = execTrainingSave seq s := fun _ _ => rfl
theorem exec_counterConfigure : ∀ seq s, exec (.counterConfigure seq) s = execCounterConfigure seq s := fun _ _ => rfl
theorem exec_plausibilityLoad : ∀ seq s, exec (.plausibilityLoad seq) s = execPlausibilityLoad seq s := fun _ _ => rfl
theorem exec_managerSwitchover : ∀ seq journalOk s, exec (.managerSwitchover seq journalOk) s = execManagerSwitchover seq journalOk s := fun _ _ _ => rfl
theorem exec_oobRequest : ∀ msg s, exec (.oobRequest msg) s = execOobRequest msg s := fun _ _ => rfl
theorem exec_oobCompletionRetry : ∀ die s, exec (.oobCompletionRetry die) s = execOobCompletionRetry die s := fun _ _ => rfl
theorem exec_setEndpointId : ∀ die eid physical integrity s, exec (.setEndpointId die eid physical integrity) s = execSetEndpointId die eid physical integrity s := fun _ _ _ _ _ => rfl
theorem exec_getEndpointId : ∀ die physical integrity s, exec (.getEndpointId die physical integrity) s = execGetEndpointId die physical integrity s := fun _ _ _ _ => rfl
theorem exec_getMctpVersionSupport : ∀ die physical integrity s, exec (.getMctpVersionSupport die physical integrity) s = execGetMctpVersionSupport die physical integrity s := fun _ _ _ _ => rfl
theorem exec_getMessageTypeSupport : ∀ die physical integrity s, exec (.getMessageTypeSupport die physical integrity) s = execGetMessageTypeSupport die physical integrity s := fun _ _ _ _ => rfl
theorem exec_getVendorDefinedMessageSupport : ∀ die physical integrity s, exec (.getVendorDefinedMessageSupport die physical integrity) s = execGetVendorDefinedMessageSupport die physical integrity s := fun _ _ _ _ => rfl
theorem exec_unsupportedMctpMessage : ∀ die msgType command physical integrity s, exec (.unsupportedMctpMessage die msgType command physical integrity) s = execUnsupportedMctpMessage die msgType command physical integrity s := fun _ _ _ _ _ _ => rfl
theorem exec_bypass : ∀ die s, exec (.bypass die) s = execBypass die s := fun _ _ => rfl
theorem exec_idcode : ∀ die s, exec (.idcode die) s = execIdcode die s := fun _ _ => rfl
theorem exec_jtagDebugInstruction : ∀ die ir kind s, exec (.jtagDebugInstruction die ir kind) s = execJtagDebugInstruction die ir kind s := fun _ _ _ _ => rfl
theorem exec_mainPowerLoss : ∀ s, exec (.mainPowerLoss) s = execMainPowerLoss s := fun _ => rfl
theorem exec_backupSupplyLoss : ∀ die s, exec (.backupSupplyLoss die) s = execBackupSupplyLoss die s := fun _ _ => rfl
theorem exec_dropSummarySecond : ∀ s, exec (.dropSummarySecond) s = execDropSummarySecond s := fun _ => rfl
theorem exec_unitWakeComplete : ∀ hub unit s, exec (.unitWakeComplete hub unit) s = execUnitWakeComplete hub unit s := fun _ _ _ => rfl
theorem exec_deepScreenStart : ∀ site s, exec (.deepScreenStart site) s = execDeepScreenStart site s := fun _ _ => rfl
theorem exec_settingsWriteComplete : ∀ s, exec (.settingsWriteComplete) s = execSettingsWriteComplete s := fun _ => rfl

end Sys2Proof.Machine
end

