-- ==== Sys2Proof/Laws/State.lean ====
section
/-!
SUPPORT. Each update of State: what the field it writes reads as after it, and that the queue, the messages in flight, the
sentinels, the hubs, the partitions and the window, where it does not write them, read as before. Laws/FrameOps.lean says the
same of every field at once (`<update>_get`), and Laws/View.lean says it of one record of a table.
-/
namespace Sys2Proof.Machine

@[simp] theorem setSlot_slot (v : Nat) (s : State) : (setSlot v s).slot = v := rfl
@[simp] theorem setSlot_pending (v : Nat) (s : State) : (setSlot v s).pending = s.pending := rfl
@[simp] theorem setSlot_sent (v : Nat) (s : State) : (setSlot v s).sent = s.sent := rfl
@[simp] theorem setSlot_sen (v : Nat) (s : State) : (setSlot v s).sen = s.sen := rfl
@[simp] theorem setSlot_hub (v : Nat) (s : State) : (setSlot v s).hub = s.hub := rfl
@[simp] theorem setSlot_part (v : Nat) (s : State) : (setSlot v s).part = s.part := rfl
@[simp] theorem setSlot_win (v : Nat) (s : State) : (setSlot v s).win = s.win := rfl
@[simp] theorem setSent_sent (v : List Instr) (s : State) : (setSent v s).sent = v := rfl
@[simp] theorem setSent_pending (v : List Instr) (s : State) : (setSent v s).pending = s.pending := rfl
@[simp] theorem setSent_sen (v : List Instr) (s : State) : (setSent v s).sen = s.sen := rfl
@[simp] theorem setSent_hub (v : List Instr) (s : State) : (setSent v s).hub = s.hub := rfl
@[simp] theorem setSent_part (v : List Instr) (s : State) : (setSent v s).part = s.part := rfl
@[simp] theorem setSent_win (v : List Instr) (s : State) : (setSent v s).win = s.win := rfl
@[simp] theorem setPowered_powered (v : Bool) (s : State) : (setPowered v s).powered = v := rfl
@[simp] theorem setPowered_pending (v : Bool) (s : State) : (setPowered v s).pending = s.pending := rfl
@[simp] theorem setPowered_sent (v : Bool) (s : State) : (setPowered v s).sent = s.sent := rfl
@[simp] theorem setPowered_sen (v : Bool) (s : State) : (setPowered v s).sen = s.sen := rfl
@[simp] theorem setPowered_hub (v : Bool) (s : State) : (setPowered v s).hub = s.hub := rfl
@[simp] theorem setPowered_part (v : Bool) (s : State) : (setPowered v s).part = s.part := rfl
@[simp] theorem setPowered_win (v : Bool) (s : State) : (setPowered v s).win = s.win := rfl
@[simp] theorem setWarn_warn (v : Bool) (s : State) : (setWarn v s).warn = v := rfl
@[simp] theorem setWarn_pending (v : Bool) (s : State) : (setWarn v s).pending = s.pending := rfl
@[simp] theorem setWarn_sent (v : Bool) (s : State) : (setWarn v s).sent = s.sent := rfl
@[simp] theorem setWarn_sen (v : Bool) (s : State) : (setWarn v s).sen = s.sen := rfl
@[simp] theorem setWarn_hub (v : Bool) (s : State) : (setWarn v s).hub = s.hub := rfl
@[simp] theorem setWarn_part (v : Bool) (s : State) : (setWarn v s).part = s.part := rfl
@[simp] theorem setWarn_win (v : Bool) (s : State) : (setWarn v s).win = s.win := rfl
@[simp] theorem setNoRuns_noRuns (v : Bool) (s : State) : (setNoRuns v s).noRuns = v := rfl
@[simp] theorem setNoRuns_pending (v : Bool) (s : State) : (setNoRuns v s).pending = s.pending := rfl
@[simp] theorem setNoRuns_sent (v : Bool) (s : State) : (setNoRuns v s).sent = s.sent := rfl
@[simp] theorem setNoRuns_sen (v : Bool) (s : State) : (setNoRuns v s).sen = s.sen := rfl
@[simp] theorem setNoRuns_hub (v : Bool) (s : State) : (setNoRuns v s).hub = s.hub := rfl
@[simp] theorem setNoRuns_part (v : Bool) (s : State) : (setNoRuns v s).part = s.part := rfl
@[simp] theorem setNoRuns_win (v : Bool) (s : State) : (setNoRuns v s).win = s.win := rfl
@[simp] theorem setImage_image (v : Image) (s : State) : (setImage v s).image = v := rfl
@[simp] theorem setImage_pending (v : Image) (s : State) : (setImage v s).pending = s.pending := rfl
@[simp] theorem setImage_sent (v : Image) (s : State) : (setImage v s).sent = s.sent := rfl
@[simp] theorem setImage_sen (v : Image) (s : State) : (setImage v s).sen = s.sen := rfl
@[simp] theorem setImage_hub (v : Image) (s : State) : (setImage v s).hub = s.hub := rfl
@[simp] theorem setImage_part (v : Image) (s : State) : (setImage v s).part = s.part := rfl
@[simp] theorem setImage_win (v : Image) (s : State) : (setImage v s).win = s.win := rfl
@[simp] theorem setActive_active (v : Nat) (s : State) : (setActive v s).active = v := rfl
@[simp] theorem setActive_pending (v : Nat) (s : State) : (setActive v s).pending = s.pending := rfl
@[simp] theorem setActive_sent (v : Nat) (s : State) : (setActive v s).sent = s.sent := rfl
@[simp] theorem setActive_sen (v : Nat) (s : State) : (setActive v s).sen = s.sen := rfl
@[simp] theorem setActive_hub (v : Nat) (s : State) : (setActive v s).hub = s.hub := rfl
@[simp] theorem setActive_part (v : Nat) (s : State) : (setActive v s).part = s.part := rfl
@[simp] theorem setActive_win (v : Nat) (s : State) : (setActive v s).win = s.win := rfl
@[simp] theorem setFailover_failover (v : Bool) (s : State) : (setFailover v s).failover = v := rfl
@[simp] theorem setFailover_pending (v : Bool) (s : State) : (setFailover v s).pending = s.pending := rfl
@[simp] theorem setFailover_sent (v : Bool) (s : State) : (setFailover v s).sent = s.sent := rfl
@[simp] theorem setFailover_sen (v : Bool) (s : State) : (setFailover v s).sen = s.sen := rfl
@[simp] theorem setFailover_hub (v : Bool) (s : State) : (setFailover v s).hub = s.hub := rfl
@[simp] theorem setFailover_part (v : Bool) (s : State) : (setFailover v s).part = s.part := rfl
@[simp] theorem setFailover_win (v : Bool) (s : State) : (setFailover v s).win = s.win := rfl
@[simp] theorem setChecked_checked (v : Bool) (s : State) : (setChecked v s).checked = v := rfl
@[simp] theorem setChecked_pending (v : Bool) (s : State) : (setChecked v s).pending = s.pending := rfl
@[simp] theorem setChecked_sent (v : Bool) (s : State) : (setChecked v s).sent = s.sent := rfl
@[simp] theorem setChecked_sen (v : Bool) (s : State) : (setChecked v s).sen = s.sen := rfl
@[simp] theorem setChecked_hub (v : Bool) (s : State) : (setChecked v s).hub = s.hub := rfl
@[simp] theorem setChecked_part (v : Bool) (s : State) : (setChecked v s).part = s.part := rfl
@[simp] theorem setChecked_win (v : Bool) (s : State) : (setChecked v s).win = s.win := rfl
@[simp] theorem setTakeover_takeover (v : List Nat) (s : State) : (setTakeover v s).takeover = v := rfl
@[simp] theorem setTakeover_pending (v : List Nat) (s : State) : (setTakeover v s).pending = s.pending := rfl
@[simp] theorem setTakeover_sent (v : List Nat) (s : State) : (setTakeover v s).sent = s.sent := rfl
@[simp] theorem setTakeover_sen (v : List Nat) (s : State) : (setTakeover v s).sen = s.sen := rfl
@[simp] theorem setTakeover_hub (v : List Nat) (s : State) : (setTakeover v s).hub = s.hub := rfl
@[simp] theorem setTakeover_part (v : List Nat) (s : State) : (setTakeover v s).part = s.part := rfl
@[simp] theorem setTakeover_win (v : List Nat) (s : State) : (setTakeover v s).win = s.win := rfl
@[simp] theorem setSwitchSeq_switchSeq (v : Nat) (s : State) : (setSwitchSeq v s).switchSeq = v := rfl
@[simp] theorem setSwitchSeq_pending (v : Nat) (s : State) : (setSwitchSeq v s).pending = s.pending := rfl
@[simp] theorem setSwitchSeq_sent (v : Nat) (s : State) : (setSwitchSeq v s).sent = s.sent := rfl
@[simp] theorem setSwitchSeq_sen (v : Nat) (s : State) : (setSwitchSeq v s).sen = s.sen := rfl
@[simp] theorem setSwitchSeq_hub (v : Nat) (s : State) : (setSwitchSeq v s).hub = s.hub := rfl
@[simp] theorem setSwitchSeq_part (v : Nat) (s : State) : (setSwitchSeq v s).part = s.part := rfl
@[simp] theorem setSwitchSeq_win (v : Nat) (s : State) : (setSwitchSeq v s).win = s.win := rfl
@[simp] theorem setSwitchOk_switchOk (v : Bool) (s : State) : (setSwitchOk v s).switchOk = v := rfl
@[simp] theorem setSwitchOk_pending (v : Bool) (s : State) : (setSwitchOk v s).pending = s.pending := rfl
@[simp] theorem setSwitchOk_sent (v : Bool) (s : State) : (setSwitchOk v s).sent = s.sent := rfl
@[simp] theorem setSwitchOk_sen (v : Bool) (s : State) : (setSwitchOk v s).sen = s.sen := rfl
@[simp] theorem setSwitchOk_hub (v : Bool) (s : State) : (setSwitchOk v s).hub = s.hub := rfl
@[simp] theorem setSwitchOk_part (v : Bool) (s : State) : (setSwitchOk v s).part = s.part := rfl
@[simp] theorem setSwitchOk_win (v : Bool) (s : State) : (setSwitchOk v s).win = s.win := rfl
@[simp] theorem setJournalSeq_journalSeq (v : Nat) (s : State) : (setJournalSeq v s).journalSeq = v := rfl
@[simp] theorem setJournalSeq_pending (v : Nat) (s : State) : (setJournalSeq v s).pending = s.pending := rfl
@[simp] theorem setJournalSeq_sent (v : Nat) (s : State) : (setJournalSeq v s).sent = s.sent := rfl
@[simp] theorem setJournalSeq_sen (v : Nat) (s : State) : (setJournalSeq v s).sen = s.sen := rfl
@[simp] theorem setJournalSeq_hub (v : Nat) (s : State) : (setJournalSeq v s).hub = s.hub := rfl
@[simp] theorem setJournalSeq_part (v : Nat) (s : State) : (setJournalSeq v s).part = s.part := rfl
@[simp] theorem setJournalSeq_win (v : Nat) (s : State) : (setJournalSeq v s).win = s.win := rfl
@[simp] theorem setJournal_journal (v : List JournalEntry) (s : State) : (setJournal v s).journal = v := rfl
@[simp] theorem setJournal_pending (v : List JournalEntry) (s : State) : (setJournal v s).pending = s.pending := rfl
@[simp] theorem setJournal_sent (v : List JournalEntry) (s : State) : (setJournal v s).sent = s.sent := rfl
@[simp] theorem setJournal_sen (v : List JournalEntry) (s : State) : (setJournal v s).sen = s.sen := rfl
@[simp] theorem setJournal_hub (v : List JournalEntry) (s : State) : (setJournal v s).hub = s.hub := rfl
@[simp] theorem setJournal_part (v : List JournalEntry) (s : State) : (setJournal v s).part = s.part := rfl
@[simp] theorem setJournal_win (v : List JournalEntry) (s : State) : (setJournal v s).win = s.win := rfl
@[simp] theorem setAuditAlarm_auditAlarm (v : Bool) (s : State) : (setAuditAlarm v s).auditAlarm = v := rfl
@[simp] theorem setAuditAlarm_pending (v : Bool) (s : State) : (setAuditAlarm v s).pending = s.pending := rfl
@[simp] theorem setAuditAlarm_sent (v : Bool) (s : State) : (setAuditAlarm v s).sent = s.sent := rfl
@[simp] theorem setAuditAlarm_sen (v : Bool) (s : State) : (setAuditAlarm v s).sen = s.sen := rfl
@[simp] theorem setAuditAlarm_hub (v : Bool) (s : State) : (setAuditAlarm v s).hub = s.hub := rfl
@[simp] theorem setAuditAlarm_part (v : Bool) (s : State) : (setAuditAlarm v s).part = s.part := rfl
@[simp] theorem setAuditAlarm_win (v : Bool) (s : State) : (setAuditAlarm v s).win = s.win := rfl
@[simp] theorem setRasBaseA_rasBaseA (v : Dword) (s : State) : (setRasBaseA v s).rasBaseA = v := rfl
@[simp] theorem setRasBaseA_pending (v : Dword) (s : State) : (setRasBaseA v s).pending = s.pending := rfl
@[simp] theorem setRasBaseA_sent (v : Dword) (s : State) : (setRasBaseA v s).sent = s.sent := rfl
@[simp] theorem setRasBaseA_sen (v : Dword) (s : State) : (setRasBaseA v s).sen = s.sen := rfl
@[simp] theorem setRasBaseA_hub (v : Dword) (s : State) : (setRasBaseA v s).hub = s.hub := rfl
@[simp] theorem setRasBaseA_part (v : Dword) (s : State) : (setRasBaseA v s).part = s.part := rfl
@[simp] theorem setRasBaseA_win (v : Dword) (s : State) : (setRasBaseA v s).win = s.win := rfl
@[simp] theorem setRasAtA_rasAtA (v : Nat) (s : State) : (setRasAtA v s).rasAtA = v := rfl
@[simp] theorem setRasAtA_pending (v : Nat) (s : State) : (setRasAtA v s).pending = s.pending := rfl
@[simp] theorem setRasAtA_sent (v : Nat) (s : State) : (setRasAtA v s).sent = s.sent := rfl
@[simp] theorem setRasAtA_sen (v : Nat) (s : State) : (setRasAtA v s).sen = s.sen := rfl
@[simp] theorem setRasAtA_hub (v : Nat) (s : State) : (setRasAtA v s).hub = s.hub := rfl
@[simp] theorem setRasAtA_part (v : Nat) (s : State) : (setRasAtA v s).part = s.part := rfl
@[simp] theorem setRasAtA_win (v : Nat) (s : State) : (setRasAtA v s).win = s.win := rfl
@[simp] theorem setRasBaseB_rasBaseB (v : Dword) (s : State) : (setRasBaseB v s).rasBaseB = v := rfl
@[simp] theorem setRasBaseB_pending (v : Dword) (s : State) : (setRasBaseB v s).pending = s.pending := rfl
@[simp] theorem setRasBaseB_sent (v : Dword) (s : State) : (setRasBaseB v s).sent = s.sent := rfl
@[simp] theorem setRasBaseB_sen (v : Dword) (s : State) : (setRasBaseB v s).sen = s.sen := rfl
@[simp] theorem setRasBaseB_hub (v : Dword) (s : State) : (setRasBaseB v s).hub = s.hub := rfl
@[simp] theorem setRasBaseB_part (v : Dword) (s : State) : (setRasBaseB v s).part = s.part := rfl
@[simp] theorem setRasBaseB_win (v : Dword) (s : State) : (setRasBaseB v s).win = s.win := rfl
@[simp] theorem setRasAtB_rasAtB (v : Nat) (s : State) : (setRasAtB v s).rasAtB = v := rfl
@[simp] theorem setRasAtB_pending (v : Nat) (s : State) : (setRasAtB v s).pending = s.pending := rfl
@[simp] theorem setRasAtB_sent (v : Nat) (s : State) : (setRasAtB v s).sent = s.sent := rfl
@[simp] theorem setRasAtB_sen (v : Nat) (s : State) : (setRasAtB v s).sen = s.sen := rfl
@[simp] theorem setRasAtB_hub (v : Nat) (s : State) : (setRasAtB v s).hub = s.hub := rfl
@[simp] theorem setRasAtB_part (v : Nat) (s : State) : (setRasAtB v s).part = s.part := rfl
@[simp] theorem setRasAtB_win (v : Nat) (s : State) : (setRasAtB v s).win = s.win := rfl
@[simp] theorem setRasArmedB_rasArmedB (v : Option Dword) (s : State) : (setRasArmedB v s).rasArmedB = v := rfl
@[simp] theorem setRasArmedB_pending (v : Option Dword) (s : State) : (setRasArmedB v s).pending = s.pending := rfl
@[simp] theorem setRasArmedB_sent (v : Option Dword) (s : State) : (setRasArmedB v s).sent = s.sent := rfl
@[simp] theorem setRasArmedB_sen (v : Option Dword) (s : State) : (setRasArmedB v s).sen = s.sen := rfl
@[simp] theorem setRasArmedB_hub (v : Option Dword) (s : State) : (setRasArmedB v s).hub = s.hub := rfl
@[simp] theorem setRasArmedB_part (v : Option Dword) (s : State) : (setRasArmedB v s).part = s.part := rfl
@[simp] theorem setRasArmedB_win (v : Option Dword) (s : State) : (setRasArmedB v s).win = s.win := rfl
@[simp] theorem setRasCheck_rasCheck (v : List Nat) (s : State) : (setRasCheck v s).rasCheck = v := rfl
@[simp] theorem setRasCheck_pending (v : List Nat) (s : State) : (setRasCheck v s).pending = s.pending := rfl
@[simp] theorem setRasCheck_sent (v : List Nat) (s : State) : (setRasCheck v s).sent = s.sent := rfl
@[simp] theorem setRasCheck_sen (v : List Nat) (s : State) : (setRasCheck v s).sen = s.sen := rfl
@[simp] theorem setRasCheck_hub (v : List Nat) (s : State) : (setRasCheck v s).hub = s.hub := rfl
@[simp] theorem setRasCheck_part (v : List Nat) (s : State) : (setRasCheck v s).part = s.part := rfl
@[simp] theorem setRasCheck_win (v : List Nat) (s : State) : (setRasCheck v s).win = s.win := rfl
@[simp] theorem setSyncRas_syncRas (v : Dword) (s : State) : (setSyncRas v s).syncRas = v := rfl
@[simp] theorem setSyncRas_pending (v : Dword) (s : State) : (setSyncRas v s).pending = s.pending := rfl
@[simp] theorem setSyncRas_sent (v : Dword) (s : State) : (setSyncRas v s).sent = s.sent := rfl
@[simp] theorem setSyncRas_sen (v : Dword) (s : State) : (setSyncRas v s).sen = s.sen := rfl
@[simp] theorem setSyncRas_hub (v : Dword) (s : State) : (setSyncRas v s).hub = s.hub := rfl
@[simp] theorem setSyncRas_part (v : Dword) (s : State) : (setSyncRas v s).part = s.part := rfl
@[simp] theorem setSyncRas_win (v : Dword) (s : State) : (setSyncRas v s).win = s.win := rfl
@[simp] theorem setFlashA_flashA (v : Memory) (s : State) : (setFlashA v s).flashA = v := rfl
@[simp] theorem setFlashA_pending (v : Memory) (s : State) : (setFlashA v s).pending = s.pending := rfl
@[simp] theorem setFlashA_sent (v : Memory) (s : State) : (setFlashA v s).sent = s.sent := rfl
@[simp] theorem setFlashA_sen (v : Memory) (s : State) : (setFlashA v s).sen = s.sen := rfl
@[simp] theorem setFlashA_hub (v : Memory) (s : State) : (setFlashA v s).hub = s.hub := rfl
@[simp] theorem setFlashA_part (v : Memory) (s : State) : (setFlashA v s).part = s.part := rfl
@[simp] theorem setFlashA_win (v : Memory) (s : State) : (setFlashA v s).win = s.win := rfl
@[simp] theorem setFlashB_flashB (v : Memory) (s : State) : (setFlashB v s).flashB = v := rfl
@[simp] theorem setFlashB_pending (v : Memory) (s : State) : (setFlashB v s).pending = s.pending := rfl
@[simp] theorem setFlashB_sent (v : Memory) (s : State) : (setFlashB v s).sent = s.sent := rfl
@[simp] theorem setFlashB_sen (v : Memory) (s : State) : (setFlashB v s).sen = s.sen := rfl
@[simp] theorem setFlashB_hub (v : Memory) (s : State) : (setFlashB v s).hub = s.hub := rfl
@[simp] theorem setFlashB_part (v : Memory) (s : State) : (setFlashB v s).part = s.part := rfl
@[simp] theorem setFlashB_win (v : Memory) (s : State) : (setFlashB v s).win = s.win := rfl
@[simp] theorem setSetA_setA (v : List Settings) (s : State) : (setSetA v s).setA = v := rfl
@[simp] theorem setSetA_pending (v : List Settings) (s : State) : (setSetA v s).pending = s.pending := rfl
@[simp] theorem setSetA_sent (v : List Settings) (s : State) : (setSetA v s).sent = s.sent := rfl
@[simp] theorem setSetA_sen (v : List Settings) (s : State) : (setSetA v s).sen = s.sen := rfl
@[simp] theorem setSetA_hub (v : List Settings) (s : State) : (setSetA v s).hub = s.hub := rfl
@[simp] theorem setSetA_part (v : List Settings) (s : State) : (setSetA v s).part = s.part := rfl
@[simp] theorem setSetA_win (v : List Settings) (s : State) : (setSetA v s).win = s.win := rfl
@[simp] theorem setSetB_setB (v : List Settings) (s : State) : (setSetB v s).setB = v := rfl
@[simp] theorem setSetB_pending (v : List Settings) (s : State) : (setSetB v s).pending = s.pending := rfl
@[simp] theorem setSetB_sent (v : List Settings) (s : State) : (setSetB v s).sent = s.sent := rfl
@[simp] theorem setSetB_sen (v : List Settings) (s : State) : (setSetB v s).sen = s.sen := rfl
@[simp] theorem setSetB_hub (v : List Settings) (s : State) : (setSetB v s).hub = s.hub := rfl
@[simp] theorem setSetB_part (v : List Settings) (s : State) : (setSetB v s).part = s.part := rfl
@[simp] theorem setSetB_win (v : List Settings) (s : State) : (setSetB v s).win = s.win := rfl
@[simp] theorem setSetBusy_setBusy (v : Option (Nat × Nat × Nat)) (s : State) : (setSetBusy v s).setBusy = v := rfl
@[simp] theorem setSetBusy_pending (v : Option (Nat × Nat × Nat)) (s : State) : (setSetBusy v s).pending = s.pending := rfl
@[simp] theorem setSetBusy_sent (v : Option (Nat × Nat × Nat)) (s : State) : (setSetBusy v s).sent = s.sent := rfl
@[simp] theorem setSetBusy_sen (v : Option (Nat × Nat × Nat)) (s : State) : (setSetBusy v s).sen = s.sen := rfl
@[simp] theorem setSetBusy_hub (v : Option (Nat × Nat × Nat)) (s : State) : (setSetBusy v s).hub = s.hub := rfl
@[simp] theorem setSetBusy_part (v : Option (Nat × Nat × Nat)) (s : State) : (setSetBusy v s).part = s.part := rfl
@[simp] theorem setSetBusy_win (v : Option (Nat × Nat × Nat)) (s : State) : (setSetBusy v s).win = s.win := rfl
@[simp] theorem setStageOpen_stageOpen (v : Bool) (s : State) : (setStageOpen v s).stageOpen = v := rfl
@[simp] theorem setStageOpen_pending (v : Bool) (s : State) : (setStageOpen v s).pending = s.pending := rfl
@[simp] theorem setStageOpen_sent (v : Bool) (s : State) : (setStageOpen v s).sent = s.sent := rfl
@[simp] theorem setStageOpen_sen (v : Bool) (s : State) : (setStageOpen v s).sen = s.sen := rfl
@[simp] theorem setStageOpen_hub (v : Bool) (s : State) : (setStageOpen v s).hub = s.hub := rfl
@[simp] theorem setStageOpen_part (v : Bool) (s : State) : (setStageOpen v s).part = s.part := rfl
@[simp] theorem setStageOpen_win (v : Bool) (s : State) : (setStageOpen v s).win = s.win := rfl
@[simp] theorem setStageNext_stageNext (v : Nat) (s : State) : (setStageNext v s).stageNext = v := rfl
@[simp] theorem setStageNext_pending (v : Nat) (s : State) : (setStageNext v s).pending = s.pending := rfl
@[simp] theorem setStageNext_sent (v : Nat) (s : State) : (setStageNext v s).sent = s.sent := rfl
@[simp] theorem setStageNext_sen (v : Nat) (s : State) : (setStageNext v s).sen = s.sen := rfl
@[simp] theorem setStageNext_hub (v : Nat) (s : State) : (setStageNext v s).hub = s.hub := rfl
@[simp] theorem setStageNext_part (v : Nat) (s : State) : (setStageNext v s).part = s.part := rfl
@[simp] theorem setStageNext_win (v : Nat) (s : State) : (setStageNext v s).win = s.win := rfl
@[simp] theorem setStageErased_stageErased (v : List Nat) (s : State) : (setStageErased v s).stageErased = v := rfl
@[simp] theorem setStageErased_pending (v : List Nat) (s : State) : (setStageErased v s).pending = s.pending := rfl
@[simp] theorem setStageErased_sent (v : List Nat) (s : State) : (setStageErased v s).sent = s.sent := rfl
@[simp] theorem setStageErased_sen (v : List Nat) (s : State) : (setStageErased v s).sen = s.sen := rfl
@[simp] theorem setStageErased_hub (v : List Nat) (s : State) : (setStageErased v s).hub = s.hub := rfl
@[simp] theorem setStageErased_part (v : List Nat) (s : State) : (setStageErased v s).part = s.part := rfl
@[simp] theorem setStageErased_win (v : List Nat) (s : State) : (setStageErased v s).win = s.win := rfl
@[simp] theorem setMramA_mramA (v : Memory) (s : State) : (setMramA v s).mramA = v := rfl
@[simp] theorem setMramA_pending (v : Memory) (s : State) : (setMramA v s).pending = s.pending := rfl
@[simp] theorem setMramA_sent (v : Memory) (s : State) : (setMramA v s).sent = s.sent := rfl
@[simp] theorem setMramA_sen (v : Memory) (s : State) : (setMramA v s).sen = s.sen := rfl
@[simp] theorem setMramA_hub (v : Memory) (s : State) : (setMramA v s).hub = s.hub := rfl
@[simp] theorem setMramA_part (v : Memory) (s : State) : (setMramA v s).part = s.part := rfl
@[simp] theorem setMramA_win (v : Memory) (s : State) : (setMramA v s).win = s.win := rfl
@[simp] theorem setMramB_mramB (v : Memory) (s : State) : (setMramB v s).mramB = v := rfl
@[simp] theorem setMramB_pending (v : Memory) (s : State) : (setMramB v s).pending = s.pending := rfl
@[simp] theorem setMramB_sent (v : Memory) (s : State) : (setMramB v s).sent = s.sent := rfl
@[simp] theorem setMramB_sen (v : Memory) (s : State) : (setMramB v s).sen = s.sen := rfl
@[simp] theorem setMramB_hub (v : Memory) (s : State) : (setMramB v s).hub = s.hub := rfl
@[simp] theorem setMramB_part (v : Memory) (s : State) : (setMramB v s).part = s.part := rfl
@[simp] theorem setMramB_win (v : Memory) (s : State) : (setMramB v s).win = s.win := rfl
@[simp] theorem setUnflushed_unflushed (v : List Nat) (s : State) : (setUnflushed v s).unflushed = v := rfl
@[simp] theorem setUnflushed_pending (v : List Nat) (s : State) : (setUnflushed v s).pending = s.pending := rfl
@[simp] theorem setUnflushed_sent (v : List Nat) (s : State) : (setUnflushed v s).sent = s.sent := rfl
@[simp] theorem setUnflushed_sen (v : List Nat) (s : State) : (setUnflushed v s).sen = s.sen := rfl
@[simp] theorem setUnflushed_hub (v : List Nat) (s : State) : (setUnflushed v s).hub = s.hub := rfl
@[simp] theorem setUnflushed_part (v : List Nat) (s : State) : (setUnflushed v s).part = s.part := rfl
@[simp] theorem setUnflushed_win (v : List Nat) (s : State) : (setUnflushed v s).win = s.win := rfl
@[simp] theorem setDeepPassed_deepPassed (v : List Nat) (s : State) : (setDeepPassed v s).deepPassed = v := rfl
@[simp] theorem setDeepPassed_pending (v : List Nat) (s : State) : (setDeepPassed v s).pending = s.pending := rfl
@[simp] theorem setDeepPassed_sent (v : List Nat) (s : State) : (setDeepPassed v s).sent = s.sent := rfl
@[simp] theorem setDeepPassed_sen (v : List Nat) (s : State) : (setDeepPassed v s).sen = s.sen := rfl
@[simp] theorem setDeepPassed_hub (v : List Nat) (s : State) : (setDeepPassed v s).hub = s.hub := rfl
@[simp] theorem setDeepPassed_part (v : List Nat) (s : State) : (setDeepPassed v s).part = s.part := rfl
@[simp] theorem setDeepPassed_win (v : List Nat) (s : State) : (setDeepPassed v s).win = s.win := rfl
@[simp] theorem setSpareAt_spareAt (v : Sparse Nat) (s : State) : (setSpareAt v s).spareAt = v := rfl
@[simp] theorem setSpareAt_pending (v : Sparse Nat) (s : State) : (setSpareAt v s).pending = s.pending := rfl
@[simp] theorem setSpareAt_sent (v : Sparse Nat) (s : State) : (setSpareAt v s).sent = s.sent := rfl
@[simp] theorem setSpareAt_sen (v : Sparse Nat) (s : State) : (setSpareAt v s).sen = s.sen := rfl
@[simp] theorem setSpareAt_hub (v : Sparse Nat) (s : State) : (setSpareAt v s).hub = s.hub := rfl
@[simp] theorem setSpareAt_part (v : Sparse Nat) (s : State) : (setSpareAt v s).part = s.part := rfl
@[simp] theorem setSpareAt_win (v : Sparse Nat) (s : State) : (setSpareAt v s).win = s.win := rfl
@[simp] theorem setMarginPrev_marginPrev (v : Sparse Nat) (s : State) : (setMarginPrev v s).marginPrev = v := rfl
@[simp] theorem setMarginPrev_pending (v : Sparse Nat) (s : State) : (setMarginPrev v s).pending = s.pending := rfl
@[simp] theorem setMarginPrev_sent (v : Sparse Nat) (s : State) : (setMarginPrev v s).sent = s.sent := rfl
@[simp] theorem setMarginPrev_sen (v : Sparse Nat) (s : State) : (setMarginPrev v s).sen = s.sen := rfl
@[simp] theorem setMarginPrev_hub (v : Sparse Nat) (s : State) : (setMarginPrev v s).hub = s.hub := rfl
@[simp] theorem setMarginPrev_part (v : Sparse Nat) (s : State) : (setMarginPrev v s).part = s.part := rfl
@[simp] theorem setMarginPrev_win (v : Sparse Nat) (s : State) : (setMarginPrev v s).win = s.win := rfl
@[simp] theorem setSparesLow_sparesLow (v : Sparse Nat) (s : State) : (setSparesLow v s).sparesLow = v := rfl
@[simp] theorem setSparesLow_pending (v : Sparse Nat) (s : State) : (setSparesLow v s).pending = s.pending := rfl
@[simp] theorem setSparesLow_sent (v : Sparse Nat) (s : State) : (setSparesLow v s).sent = s.sent := rfl
@[simp] theorem setSparesLow_sen (v : Sparse Nat) (s : State) : (setSparesLow v s).sen = s.sen := rfl
@[simp] theorem setSparesLow_hub (v : Sparse Nat) (s : State) : (setSparesLow v s).hub = s.hub := rfl
@[simp] theorem setSparesLow_part (v : Sparse Nat) (s : State) : (setSparesLow v s).part = s.part := rfl
@[simp] theorem setSparesLow_win (v : Sparse Nat) (s : State) : (setSparesLow v s).win = s.win := rfl
@[simp] theorem setSensors_sensors (v : Sparse Sensor) (s : State) : (setSensors v s).sensors = v := rfl
@[simp] theorem setSensors_pending (v : Sparse Sensor) (s : State) : (setSensors v s).pending = s.pending := rfl
@[simp] theorem setSensors_sent (v : Sparse Sensor) (s : State) : (setSensors v s).sent = s.sent := rfl
@[simp] theorem setSensors_sen (v : Sparse Sensor) (s : State) : (setSensors v s).sen = s.sen := rfl
@[simp] theorem setSensors_hub (v : Sparse Sensor) (s : State) : (setSensors v s).hub = s.hub := rfl
@[simp] theorem setSensors_part (v : Sparse Sensor) (s : State) : (setSensors v s).part = s.part := rfl
@[simp] theorem setSensors_win (v : Sparse Sensor) (s : State) : (setSensors v s).win = s.win := rfl
@[simp] theorem setSramLog_sramLog (v : List SramRepair) (s : State) : (setSramLog v s).sramLog = v := rfl
@[simp] theorem setSramLog_pending (v : List SramRepair) (s : State) : (setSramLog v s).pending = s.pending := rfl
@[simp] theorem setSramLog_sent (v : List SramRepair) (s : State) : (setSramLog v s).sent = s.sent := rfl
@[simp] theorem setSramLog_sen (v : List SramRepair) (s : State) : (setSramLog v s).sen = s.sen := rfl
@[simp] theorem setSramLog_hub (v : List SramRepair) (s : State) : (setSramLog v s).hub = s.hub := rfl
@[simp] theorem setSramLog_part (v : List SramRepair) (s : State) : (setSramLog v s).part = s.part := rfl
@[simp] theorem setSramLog_win (v : List SramRepair) (s : State) : (setSramLog v s).win = s.win := rfl
@[simp] theorem setMemLog_memLog (v : List (Nat × Nat × Nat)) (s : State) : (setMemLog v s).memLog = v := rfl
@[simp] theorem setMemLog_pending (v : List (Nat × Nat × Nat)) (s : State) : (setMemLog v s).pending = s.pending := rfl
@[simp] theorem setMemLog_sent (v : List (Nat × Nat × Nat)) (s : State) : (setMemLog v s).sent = s.sent := rfl
@[simp] theorem setMemLog_sen (v : List (Nat × Nat × Nat)) (s : State) : (setMemLog v s).sen = s.sen := rfl
@[simp] theorem setMemLog_hub (v : List (Nat × Nat × Nat)) (s : State) : (setMemLog v s).hub = s.hub := rfl
@[simp] theorem setMemLog_part (v : List (Nat × Nat × Nat)) (s : State) : (setMemLog v s).part = s.part := rfl
@[simp] theorem setMemLog_win (v : List (Nat × Nat × Nat)) (s : State) : (setMemLog v s).win = s.win := rfl
@[simp] theorem setSen_sen (v : Sparse Sentinel) (s : State) : (setSen v s).sen = v := rfl
@[simp] theorem setSen_pending (v : Sparse Sentinel) (s : State) : (setSen v s).pending = s.pending := rfl
@[simp] theorem setSen_sent (v : Sparse Sentinel) (s : State) : (setSen v s).sent = s.sent := rfl
@[simp] theorem setSen_hub (v : Sparse Sentinel) (s : State) : (setSen v s).hub = s.hub := rfl
@[simp] theorem setSen_part (v : Sparse Sentinel) (s : State) : (setSen v s).part = s.part := rfl
@[simp] theorem setSen_win (v : Sparse Sentinel) (s : State) : (setSen v s).win = s.win := rfl
@[simp] theorem setHub_hub (v : Sparse Hub) (s : State) : (setHub v s).hub = v := rfl
@[simp] theorem setHub_pending (v : Sparse Hub) (s : State) : (setHub v s).pending = s.pending := rfl
@[simp] theorem setHub_sent (v : Sparse Hub) (s : State) : (setHub v s).sent = s.sent := rfl
@[simp] theorem setHub_sen (v : Sparse Hub) (s : State) : (setHub v s).sen = s.sen := rfl
@[simp] theorem setHub_part (v : Sparse Hub) (s : State) : (setHub v s).part = s.part := rfl
@[simp] theorem setHub_win (v : Sparse Hub) (s : State) : (setHub v s).win = s.win := rfl
@[simp] theorem setPart_part (v : Sparse Partition) (s : State) : (setPart v s).part = v := rfl
@[simp] theorem setPart_pending (v : Sparse Partition) (s : State) : (setPart v s).pending = s.pending := rfl
@[simp] theorem setPart_sent (v : Sparse Partition) (s : State) : (setPart v s).sent = s.sent := rfl
@[simp] theorem setPart_sen (v : Sparse Partition) (s : State) : (setPart v s).sen = s.sen := rfl
@[simp] theorem setPart_hub (v : Sparse Partition) (s : State) : (setPart v s).hub = s.hub := rfl
@[simp] theorem setPart_win (v : Sparse Partition) (s : State) : (setPart v s).win = s.win := rfl
@[simp] theorem setXlat0_xlat0 (v : Sparse Nat) (s : State) : (setXlat0 v s).xlat0 = v := rfl
@[simp] theorem setXlat0_pending (v : Sparse Nat) (s : State) : (setXlat0 v s).pending = s.pending := rfl
@[simp] theorem setXlat0_sent (v : Sparse Nat) (s : State) : (setXlat0 v s).sent = s.sent := rfl
@[simp] theorem setXlat0_sen (v : Sparse Nat) (s : State) : (setXlat0 v s).sen = s.sen := rfl
@[simp] theorem setXlat0_hub (v : Sparse Nat) (s : State) : (setXlat0 v s).hub = s.hub := rfl
@[simp] theorem setXlat0_part (v : Sparse Nat) (s : State) : (setXlat0 v s).part = s.part := rfl
@[simp] theorem setXlat0_win (v : Sparse Nat) (s : State) : (setXlat0 v s).win = s.win := rfl
@[simp] theorem setXlat1_xlat1 (v : Sparse Nat) (s : State) : (setXlat1 v s).xlat1 = v := rfl
@[simp] theorem setXlat1_pending (v : Sparse Nat) (s : State) : (setXlat1 v s).pending = s.pending := rfl
@[simp] theorem setXlat1_sent (v : Sparse Nat) (s : State) : (setXlat1 v s).sent = s.sent := rfl
@[simp] theorem setXlat1_sen (v : Sparse Nat) (s : State) : (setXlat1 v s).sen = s.sen := rfl
@[simp] theorem setXlat1_hub (v : Sparse Nat) (s : State) : (setXlat1 v s).hub = s.hub := rfl
@[simp] theorem setXlat1_part (v : Sparse Nat) (s : State) : (setXlat1 v s).part = s.part := rfl
@[simp] theorem setXlat1_win (v : Sparse Nat) (s : State) : (setXlat1 v s).win = s.win := rfl
@[simp] theorem setRoutes0_routes0 (v : Sparse (List (Nat × Nat))) (s : State) : (setRoutes0 v s).routes0 = v := rfl
@[simp] theorem setRoutes0_pending (v : Sparse (List (Nat × Nat))) (s : State) : (setRoutes0 v s).pending = s.pending := rfl
@[simp] theorem setRoutes0_sent (v : Sparse (List (Nat × Nat))) (s : State) : (setRoutes0 v s).sent = s.sent := rfl
@[simp] theorem setRoutes0_sen (v : Sparse (List (Nat × Nat))) (s : State) : (setRoutes0 v s).sen = s.sen := rfl
@[simp] theorem setRoutes0_hub (v : Sparse (List (Nat × Nat))) (s : State) : (setRoutes0 v s).hub = s.hub := rfl
@[simp] theorem setRoutes0_part (v : Sparse (List (Nat × Nat))) (s : State) : (setRoutes0 v s).part = s.part := rfl
@[simp] theorem setRoutes0_win (v : Sparse (List (Nat × Nat))) (s : State) : (setRoutes0 v s).win = s.win := rfl
@[simp] theorem setRoutes1_routes1 (v : Sparse (List (Nat × Nat))) (s : State) : (setRoutes1 v s).routes1 = v := rfl
@[simp] theorem setRoutes1_pending (v : Sparse (List (Nat × Nat))) (s : State) : (setRoutes1 v s).pending = s.pending := rfl
@[simp] theorem setRoutes1_sent (v : Sparse (List (Nat × Nat))) (s : State) : (setRoutes1 v s).sent = s.sent := rfl
@[simp] theorem setRoutes1_sen (v : Sparse (List (Nat × Nat))) (s : State) : (setRoutes1 v s).sen = s.sen := rfl
@[simp] theorem setRoutes1_hub (v : Sparse (List (Nat × Nat))) (s : State) : (setRoutes1 v s).hub = s.hub := rfl
@[simp] theorem setRoutes1_part (v : Sparse (List (Nat × Nat))) (s : State) : (setRoutes1 v s).part = s.part := rfl
@[simp] theorem setRoutes1_win (v : Sparse (List (Nat × Nat))) (s : State) : (setRoutes1 v s).win = s.win := rfl
@[simp] theorem setScreens_screens (v : Sparse (Option Screen)) (s : State) : (setScreens v s).screens = v := rfl
@[simp] theorem setScreens_pending (v : Sparse (Option Screen)) (s : State) : (setScreens v s).pending = s.pending := rfl
@[simp] theorem setScreens_sent (v : Sparse (Option Screen)) (s : State) : (setScreens v s).sent = s.sent := rfl
@[simp] theorem setScreens_sen (v : Sparse (Option Screen)) (s : State) : (setScreens v s).sen = s.sen := rfl
@[simp] theorem setScreens_hub (v : Sparse (Option Screen)) (s : State) : (setScreens v s).hub = s.hub := rfl
@[simp] theorem setScreens_part (v : Sparse (Option Screen)) (s : State) : (setScreens v s).part = s.part := rfl
@[simp] theorem setScreens_win (v : Sparse (Option Screen)) (s : State) : (setScreens v s).win = s.win := rfl
@[simp] theorem setScreenReqs_screenReqs (v : List (Nat × Nat)) (s : State) : (setScreenReqs v s).screenReqs = v := rfl
@[simp] theorem setScreenReqs_pending (v : List (Nat × Nat)) (s : State) : (setScreenReqs v s).pending = s.pending := rfl
@[simp] theorem setScreenReqs_sent (v : List (Nat × Nat)) (s : State) : (setScreenReqs v s).sent = s.sent := rfl
@[simp] theorem setScreenReqs_sen (v : List (Nat × Nat)) (s : State) : (setScreenReqs v s).sen = s.sen := rfl
@[simp] theorem setScreenReqs_hub (v : List (Nat × Nat)) (s : State) : (setScreenReqs v s).hub = s.hub := rfl
@[simp] theorem setScreenReqs_part (v : List (Nat × Nat)) (s : State) : (setScreenReqs v s).part = s.part := rfl
@[simp] theorem setScreenReqs_win (v : List (Nat × Nat)) (s : State) : (setScreenReqs v s).win = s.win := rfl
@[simp] theorem setNet_net (v : Sparse Nat) (s : State) : (setNet v s).net = v := rfl
@[simp] theorem setNet_pending (v : Sparse Nat) (s : State) : (setNet v s).pending = s.pending := rfl
@[simp] theorem setNet_sent (v : Sparse Nat) (s : State) : (setNet v s).sent = s.sent := rfl
@[simp] theorem setNet_sen (v : Sparse Nat) (s : State) : (setNet v s).sen = s.sen := rfl
@[simp] theorem setNet_hub (v : Sparse Nat) (s : State) : (setNet v s).hub = s.hub := rfl
@[simp] theorem setNet_part (v : Sparse Nat) (s : State) : (setNet v s).part = s.part := rfl
@[simp] theorem setNet_win (v : Sparse Nat) (s : State) : (setNet v s).win = s.win := rfl
@[simp] theorem setLinks_links (v : List MidLink) (s : State) : (setLinks v s).links = v := rfl
@[simp] theorem setLinks_pending (v : List MidLink) (s : State) : (setLinks v s).pending = s.pending := rfl
@[simp] theorem setLinks_sent (v : List MidLink) (s : State) : (setLinks v s).sent = s.sent := rfl
@[simp] theorem setLinks_sen (v : List MidLink) (s : State) : (setLinks v s).sen = s.sen := rfl
@[simp] theorem setLinks_hub (v : List MidLink) (s : State) : (setLinks v s).hub = s.hub := rfl
@[simp] theorem setLinks_part (v : List MidLink) (s : State) : (setLinks v s).part = s.part := rfl
@[simp] theorem setLinks_win (v : List MidLink) (s : State) : (setLinks v s).win = s.win := rfl
@[simp] theorem setGraph_graph (v : List (Edge × Dword)) (s : State) : (setGraph v s).graph = v := rfl
@[simp] theorem setGraph_pending (v : List (Edge × Dword)) (s : State) : (setGraph v s).pending = s.pending := rfl
@[simp] theorem setGraph_sent (v : List (Edge × Dword)) (s : State) : (setGraph v s).sent = s.sent := rfl
@[simp] theorem setGraph_sen (v : List (Edge × Dword)) (s : State) : (setGraph v s).sen = s.sen := rfl
@[simp] theorem setGraph_hub (v : List (Edge × Dword)) (s : State) : (setGraph v s).hub = s.hub := rfl
@[simp] theorem setGraph_part (v : List (Edge × Dword)) (s : State) : (setGraph v s).part = s.part := rfl
@[simp] theorem setGraph_win (v : List (Edge × Dword)) (s : State) : (setGraph v s).win = s.win := rfl
@[simp] theorem setThrottle_throttle (v : Throttle) (s : State) : (setThrottle v s).throttle = v := rfl
@[simp] theorem setThrottle_pending (v : Throttle) (s : State) : (setThrottle v s).pending = s.pending := rfl
@[simp] theorem setThrottle_sent (v : Throttle) (s : State) : (setThrottle v s).sent = s.sent := rfl
@[simp] theorem setThrottle_sen (v : Throttle) (s : State) : (setThrottle v s).sen = s.sen := rfl
@[simp] theorem setThrottle_hub (v : Throttle) (s : State) : (setThrottle v s).hub = s.hub := rfl
@[simp] theorem setThrottle_part (v : Throttle) (s : State) : (setThrottle v s).part = s.part := rfl
@[simp] theorem setThrottle_win (v : Throttle) (s : State) : (setThrottle v s).win = s.win := rfl
@[simp] theorem setStop_stop (v : Stop) (s : State) : (setStop v s).stop = v := rfl
@[simp] theorem setStop_pending (v : Stop) (s : State) : (setStop v s).pending = s.pending := rfl
@[simp] theorem setStop_sent (v : Stop) (s : State) : (setStop v s).sent = s.sent := rfl
@[simp] theorem setStop_sen (v : Stop) (s : State) : (setStop v s).sen = s.sen := rfl
@[simp] theorem setStop_hub (v : Stop) (s : State) : (setStop v s).hub = s.hub := rfl
@[simp] theorem setStop_part (v : Stop) (s : State) : (setStop v s).part = s.part := rfl
@[simp] theorem setStop_win (v : Stop) (s : State) : (setStop v s).win = s.win := rfl
@[simp] theorem setWaits_waits (v : List WaitAct) (s : State) : (setWaits v s).waits = v := rfl
@[simp] theorem setWaits_pending (v : List WaitAct) (s : State) : (setWaits v s).pending = s.pending := rfl
@[simp] theorem setWaits_sent (v : List WaitAct) (s : State) : (setWaits v s).sent = s.sent := rfl
@[simp] theorem setWaits_sen (v : List WaitAct) (s : State) : (setWaits v s).sen = s.sen := rfl
@[simp] theorem setWaits_hub (v : List WaitAct) (s : State) : (setWaits v s).hub = s.hub := rfl
@[simp] theorem setWaits_part (v : List WaitAct) (s : State) : (setWaits v s).part = s.part := rfl
@[simp] theorem setWaits_win (v : List WaitAct) (s : State) : (setWaits v s).win = s.win := rfl
@[simp] theorem setGcount_gcount (v : Sparse Nat) (s : State) : (setGcount v s).gcount = v := rfl
@[simp] theorem setGcount_pending (v : Sparse Nat) (s : State) : (setGcount v s).pending = s.pending := rfl
@[simp] theorem setGcount_sent (v : Sparse Nat) (s : State) : (setGcount v s).sent = s.sent := rfl
@[simp] theorem setGcount_sen (v : Sparse Nat) (s : State) : (setGcount v s).sen = s.sen := rfl
@[simp] theorem setGcount_hub (v : Sparse Nat) (s : State) : (setGcount v s).hub = s.hub := rfl
@[simp] theorem setGcount_part (v : Sparse Nat) (s : State) : (setGcount v s).part = s.part := rfl
@[simp] theorem setGcount_win (v : Sparse Nat) (s : State) : (setGcount v s).win = s.win := rfl
@[simp] theorem setDrainId_drainId (v : Nat) (s : State) : (setDrainId v s).drainId = v := rfl
@[simp] theorem setDrainId_pending (v : Nat) (s : State) : (setDrainId v s).pending = s.pending := rfl
@[simp] theorem setDrainId_sent (v : Nat) (s : State) : (setDrainId v s).sent = s.sent := rfl
@[simp] theorem setDrainId_sen (v : Nat) (s : State) : (setDrainId v s).sen = s.sen := rfl
@[simp] theorem setDrainId_hub (v : Nat) (s : State) : (setDrainId v s).hub = s.hub := rfl
@[simp] theorem setDrainId_part (v : Nat) (s : State) : (setDrainId v s).part = s.part := rfl
@[simp] theorem setDrainId_win (v : Nat) (s : State) : (setDrainId v s).win = s.win := rfl
@[simp] theorem setArmId_armId (v : Nat) (s : State) : (setArmId v s).armId = v := rfl
@[simp] theorem setArmId_pending (v : Nat) (s : State) : (setArmId v s).pending = s.pending := rfl
@[simp] theorem setArmId_sent (v : Nat) (s : State) : (setArmId v s).sent = s.sent := rfl
@[simp] theorem setArmId_sen (v : Nat) (s : State) : (setArmId v s).sen = s.sen := rfl
@[simp] theorem setArmId_hub (v : Nat) (s : State) : (setArmId v s).hub = s.hub := rfl
@[simp] theorem setArmId_part (v : Nat) (s : State) : (setArmId v s).part = s.part := rfl
@[simp] theorem setArmId_win (v : Nat) (s : State) : (setArmId v s).win = s.win := rfl
@[simp] theorem setScanId_scanId (v : Nat) (s : State) : (setScanId v s).scanId = v := rfl
@[simp] theorem setScanId_pending (v : Nat) (s : State) : (setScanId v s).pending = s.pending := rfl
@[simp] theorem setScanId_sent (v : Nat) (s : State) : (setScanId v s).sent = s.sent := rfl
@[simp] theorem setScanId_sen (v : Nat) (s : State) : (setScanId v s).sen = s.sen := rfl
@[simp] theorem setScanId_hub (v : Nat) (s : State) : (setScanId v s).hub = s.hub := rfl
@[simp] theorem setScanId_part (v : Nat) (s : State) : (setScanId v s).part = s.part := rfl
@[simp] theorem setScanId_win (v : Nat) (s : State) : (setScanId v s).win = s.win := rfl
@[simp] theorem setDram_dram (v : Memory) (s : State) : (setDram v s).dram = v := rfl
@[simp] theorem setDram_pending (v : Memory) (s : State) : (setDram v s).pending = s.pending := rfl
@[simp] theorem setDram_sent (v : Memory) (s : State) : (setDram v s).sent = s.sent := rfl
@[simp] theorem setDram_sen (v : Memory) (s : State) : (setDram v s).sen = s.sen := rfl
@[simp] theorem setDram_hub (v : Memory) (s : State) : (setDram v s).hub = s.hub := rfl
@[simp] theorem setDram_part (v : Memory) (s : State) : (setDram v s).part = s.part := rfl
@[simp] theorem setDram_win (v : Memory) (s : State) : (setDram v s).win = s.win := rfl
@[simp] theorem setRecorder_recorder (v : Recorder) (s : State) : (setRecorder v s).recorder = v := rfl
@[simp] theorem setRecorder_pending (v : Recorder) (s : State) : (setRecorder v s).pending = s.pending := rfl
@[simp] theorem setRecorder_sent (v : Recorder) (s : State) : (setRecorder v s).sent = s.sent := rfl
@[simp] theorem setRecorder_sen (v : Recorder) (s : State) : (setRecorder v s).sen = s.sen := rfl
@[simp] theorem setRecorder_hub (v : Recorder) (s : State) : (setRecorder v s).hub = s.hub := rfl
@[simp] theorem setRecorder_part (v : Recorder) (s : State) : (setRecorder v s).part = s.part := rfl
@[simp] theorem setRecorder_win (v : Recorder) (s : State) : (setRecorder v s).win = s.win := rfl
@[simp] theorem setCoreTx_coreTx (v : List CoreMsg) (s : State) : (setCoreTx v s).coreTx = v := rfl
@[simp] theorem setCoreTx_pending (v : List CoreMsg) (s : State) : (setCoreTx v s).pending = s.pending := rfl
@[simp] theorem setCoreTx_sent (v : List CoreMsg) (s : State) : (setCoreTx v s).sent = s.sent := rfl
@[simp] theorem setCoreTx_sen (v : List CoreMsg) (s : State) : (setCoreTx v s).sen = s.sen := rfl
@[simp] theorem setCoreTx_hub (v : List CoreMsg) (s : State) : (setCoreTx v s).hub = s.hub := rfl
@[simp] theorem setCoreTx_part (v : List CoreMsg) (s : State) : (setCoreTx v s).part = s.part := rfl
@[simp] theorem setCoreTx_win (v : List CoreMsg) (s : State) : (setCoreTx v s).win = s.win := rfl
@[simp] theorem setCoreNaks_coreNaks (v : Nat) (s : State) : (setCoreNaks v s).coreNaks = v := rfl
@[simp] theorem setCoreNaks_pending (v : Nat) (s : State) : (setCoreNaks v s).pending = s.pending := rfl
@[simp] theorem setCoreNaks_sent (v : Nat) (s : State) : (setCoreNaks v s).sent = s.sent := rfl
@[simp] theorem setCoreNaks_sen (v : Nat) (s : State) : (setCoreNaks v s).sen = s.sen := rfl
@[simp] theorem setCoreNaks_hub (v : Nat) (s : State) : (setCoreNaks v s).hub = s.hub := rfl
@[simp] theorem setCoreNaks_part (v : Nat) (s : State) : (setCoreNaks v s).part = s.part := rfl
@[simp] theorem setCoreNaks_win (v : Nat) (s : State) : (setCoreNaks v s).win = s.win := rfl
@[simp] theorem setLossRejected_lossRejected (v : Nat) (s : State) : (setLossRejected v s).lossRejected = v := rfl
@[simp] theorem setLossRejected_pending (v : Nat) (s : State) : (setLossRejected v s).pending = s.pending := rfl
@[simp] theorem setLossRejected_sent (v : Nat) (s : State) : (setLossRejected v s).sent = s.sent := rfl
@[simp] theorem setLossRejected_sen (v : Nat) (s : State) : (setLossRejected v s).sen = s.sen := rfl
@[simp] theorem setLossRejected_hub (v : Nat) (s : State) : (setLossRejected v s).hub = s.hub := rfl
@[simp] theorem setLossRejected_part (v : Nat) (s : State) : (setLossRejected v s).part = s.part := rfl
@[simp] theorem setLossRejected_win (v : Nat) (s : State) : (setLossRejected v s).win = s.win := rfl
@[simp] theorem setCoreTag_coreTag (v : Nat) (s : State) : (setCoreTag v s).coreTag = v := rfl
@[simp] theorem setCoreTag_pending (v : Nat) (s : State) : (setCoreTag v s).pending = s.pending := rfl
@[simp] theorem setCoreTag_sent (v : Nat) (s : State) : (setCoreTag v s).sent = s.sent := rfl
@[simp] theorem setCoreTag_sen (v : Nat) (s : State) : (setCoreTag v s).sen = s.sen := rfl
@[simp] theorem setCoreTag_hub (v : Nat) (s : State) : (setCoreTag v s).hub = s.hub := rfl
@[simp] theorem setCoreTag_part (v : Nat) (s : State) : (setCoreTag v s).part = s.part := rfl
@[simp] theorem setCoreTag_win (v : Nat) (s : State) : (setCoreTag v s).win = s.win := rfl
@[simp] theorem setAnswers_answers (v : List Answer) (s : State) : (setAnswers v s).answers = v := rfl
@[simp] theorem setAnswers_pending (v : List Answer) (s : State) : (setAnswers v s).pending = s.pending := rfl
@[simp] theorem setAnswers_sent (v : List Answer) (s : State) : (setAnswers v s).sent = s.sent := rfl
@[simp] theorem setAnswers_sen (v : List Answer) (s : State) : (setAnswers v s).sen = s.sen := rfl
@[simp] theorem setAnswers_hub (v : List Answer) (s : State) : (setAnswers v s).hub = s.hub := rfl
@[simp] theorem setAnswers_part (v : List Answer) (s : State) : (setAnswers v s).part = s.part := rfl
@[simp] theorem setAnswers_win (v : List Answer) (s : State) : (setAnswers v s).win = s.win := rfl
@[simp] theorem setFree_free (v : Nat) (s : State) : (setFree v s).free = v := rfl
@[simp] theorem setFree_pending (v : Nat) (s : State) : (setFree v s).pending = s.pending := rfl
@[simp] theorem setFree_sent (v : Nat) (s : State) : (setFree v s).sent = s.sent := rfl
@[simp] theorem setFree_sen (v : Nat) (s : State) : (setFree v s).sen = s.sen := rfl
@[simp] theorem setFree_hub (v : Nat) (s : State) : (setFree v s).hub = s.hub := rfl
@[simp] theorem setFree_part (v : Nat) (s : State) : (setFree v s).part = s.part := rfl
@[simp] theorem setFree_win (v : Nat) (s : State) : (setFree v s).win = s.win := rfl
@[simp] theorem modWin_win (f : Window → Window) (s : State) : (modWin f s).win = f s.win := rfl
@[simp] theorem modWin_pending (f : Window → Window) (s : State) : (modWin f s).pending = s.pending := rfl
@[simp] theorem modWin_sent (f : Window → Window) (s : State) : (modWin f s).sent = s.sent := rfl
@[simp] theorem modWin_sen (f : Window → Window) (s : State) : (modWin f s).sen = s.sen := rfl
@[simp] theorem modWin_hub (f : Window → Window) (s : State) : (modWin f s).hub = s.hub := rfl
@[simp] theorem modWin_part (f : Window → Window) (s : State) : (modWin f s).part = s.part := rfl
@[simp] theorem modBoot_boot (f : Boot → Boot) (s : State) : (modBoot f s).boot = f s.boot := rfl
@[simp] theorem modBoot_pending (f : Boot → Boot) (s : State) : (modBoot f s).pending = s.pending := rfl
@[simp] theorem modBoot_sent (f : Boot → Boot) (s : State) : (modBoot f s).sent = s.sent := rfl
@[simp] theorem modBoot_sen (f : Boot → Boot) (s : State) : (modBoot f s).sen = s.sen := rfl
@[simp] theorem modBoot_hub (f : Boot → Boot) (s : State) : (modBoot f s).hub = s.hub := rfl
@[simp] theorem modBoot_part (f : Boot → Boot) (s : State) : (modBoot f s).part = s.part := rfl
@[simp] theorem modBoot_win (f : Boot → Boot) (s : State) : (modBoot f s).win = s.win := rfl
@[simp] theorem modRec_recorder (f : Recorder → Recorder) (s : State) : (modRec f s).recorder = f s.recorder := rfl
@[simp] theorem modRec_pending (f : Recorder → Recorder) (s : State) : (modRec f s).pending = s.pending := rfl
@[simp] theorem modRec_sent (f : Recorder → Recorder) (s : State) : (modRec f s).sent = s.sent := rfl
@[simp] theorem modRec_sen (f : Recorder → Recorder) (s : State) : (modRec f s).sen = s.sen := rfl
@[simp] theorem modRec_hub (f : Recorder → Recorder) (s : State) : (modRec f s).hub = s.hub := rfl
@[simp] theorem modRec_part (f : Recorder → Recorder) (s : State) : (modRec f s).part = s.part := rfl
@[simp] theorem modRec_win (f : Recorder → Recorder) (s : State) : (modRec f s).win = s.win := rfl
@[simp] theorem modThrottle_throttle (f : Throttle → Throttle) (s : State) : (modThrottle f s).throttle = f s.throttle := rfl
@[simp] theorem modThrottle_pending (f : Throttle → Throttle) (s : State) : (modThrottle f s).pending = s.pending := rfl
@[simp] theorem modThrottle_sent (f : Throttle → Throttle) (s : State) : (modThrottle f s).sent = s.sent := rfl
@[simp] theorem modThrottle_sen (f : Throttle → Throttle) (s : State) : (modThrottle f s).sen = s.sen := rfl
@[simp] theorem modThrottle_hub (f : Throttle → Throttle) (s : State) : (modThrottle f s).hub = s.hub := rfl
@[simp] theorem modThrottle_part (f : Throttle → Throttle) (s : State) : (modThrottle f s).part = s.part := rfl
@[simp] theorem modThrottle_win (f : Throttle → Throttle) (s : State) : (modThrottle f s).win = s.win := rfl
@[simp] theorem modStop_stop (f : Stop → Stop) (s : State) : (modStop f s).stop = f s.stop := rfl
@[simp] theorem modStop_pending (f : Stop → Stop) (s : State) : (modStop f s).pending = s.pending := rfl
@[simp] theorem modStop_sent (f : Stop → Stop) (s : State) : (modStop f s).sent = s.sent := rfl
@[simp] theorem modStop_sen (f : Stop → Stop) (s : State) : (modStop f s).sen = s.sen := rfl
@[simp] theorem modStop_hub (f : Stop → Stop) (s : State) : (modStop f s).hub = s.hub := rfl
@[simp] theorem modStop_part (f : Stop → Stop) (s : State) : (modStop f s).part = s.part := rfl
@[simp] theorem modStop_win (f : Stop → Stop) (s : State) : (modStop f s).win = s.win := rfl
@[simp] theorem modSen_sen (k : Nat) (f : Sentinel → Sentinel) (s : State) : (modSen k f s).sen = Sparse.upd {} s.sen k f := rfl
@[simp] theorem modSen_pending (k : Nat) (f : Sentinel → Sentinel) (s : State) : (modSen k f s).pending = s.pending := rfl
@[simp] theorem modSen_sent (k : Nat) (f : Sentinel → Sentinel) (s : State) : (modSen k f s).sent = s.sent := rfl
@[simp] theorem modSen_hub (k : Nat) (f : Sentinel → Sentinel) (s : State) : (modSen k f s).hub = s.hub := rfl
@[simp] theorem modSen_part (k : Nat) (f : Sentinel → Sentinel) (s : State) : (modSen k f s).part = s.part := rfl
@[simp] theorem modSen_win (k : Nat) (f : Sentinel → Sentinel) (s : State) : (modSen k f s).win = s.win := rfl
@[simp] theorem modHub_hub (k : Nat) (f : Hub → Hub) (s : State) : (modHub k f s).hub = Sparse.upd {} s.hub k f := rfl
@[simp] theorem modHub_pending (k : Nat) (f : Hub → Hub) (s : State) : (modHub k f s).pending = s.pending := rfl
@[simp] theorem modHub_sent (k : Nat) (f : Hub → Hub) (s : State) : (modHub k f s).sent = s.sent := rfl
@[simp] theorem modHub_sen (k : Nat) (f : Hub → Hub) (s : State) : (modHub k f s).sen = s.sen := rfl
@[simp] theorem modHub_part (k : Nat) (f : Hub → Hub) (s : State) : (modHub k f s).part = s.part := rfl
@[simp] theorem modHub_win (k : Nat) (f : Hub → Hub) (s : State) : (modHub k f s).win = s.win := rfl
@[simp] theorem modPart_part (k : Nat) (f : Partition → Partition) (s : State) :
    (modPart k f s).part = Sparse.upd {} s.part k f := rfl
@[simp] theorem modPart_pending (k : Nat) (f : Partition → Partition) (s : State) : (modPart k f s).pending = s.pending := rfl
@[simp] theorem modPart_sent (k : Nat) (f : Partition → Partition) (s : State) : (modPart k f s).sent = s.sent := rfl
@[simp] theorem modPart_sen (k : Nat) (f : Partition → Partition) (s : State) : (modPart k f s).sen = s.sen := rfl
@[simp] theorem modPart_hub (k : Nat) (f : Partition → Partition) (s : State) : (modPart k f s).hub = s.hub := rfl
@[simp] theorem modPart_win (k : Nat) (f : Partition → Partition) (s : State) : (modPart k f s).win = s.win := rfl
@[simp] theorem modSite_health (k : Nat) (f : SiteRec → SiteRec) (s : State) :
    (modSite k f s).health = Sparse.upd {} s.health k f := rfl
@[simp] theorem modSite_pending (k : Nat) (f : SiteRec → SiteRec) (s : State) : (modSite k f s).pending = s.pending := rfl
@[simp] theorem modSite_sent (k : Nat) (f : SiteRec → SiteRec) (s : State) : (modSite k f s).sent = s.sent := rfl
@[simp] theorem modSite_sen (k : Nat) (f : SiteRec → SiteRec) (s : State) : (modSite k f s).sen = s.sen := rfl
@[simp] theorem modSite_hub (k : Nat) (f : SiteRec → SiteRec) (s : State) : (modSite k f s).hub = s.hub := rfl
@[simp] theorem modSite_part (k : Nat) (f : SiteRec → SiteRec) (s : State) : (modSite k f s).part = s.part := rfl
@[simp] theorem modSite_win (k : Nat) (f : SiteRec → SiteRec) (s : State) : (modSite k f s).win = s.win := rfl
@[simp] theorem modSensor_sensors (k : Nat) (f : Sensor → Sensor) (s : State) :
    (modSensor k f s).sensors = Sparse.upd {} s.sensors k f := rfl
@[simp] theorem modSensor_pending (k : Nat) (f : Sensor → Sensor) (s : State) : (modSensor k f s).pending = s.pending := rfl
@[simp] theorem modSensor_sent (k : Nat) (f : Sensor → Sensor) (s : State) : (modSensor k f s).sent = s.sent := rfl
@[simp] theorem modSensor_sen (k : Nat) (f : Sensor → Sensor) (s : State) : (modSensor k f s).sen = s.sen := rfl
@[simp] theorem modSensor_hub (k : Nat) (f : Sensor → Sensor) (s : State) : (modSensor k f s).hub = s.hub := rfl
@[simp] theorem modSensor_part (k : Nat) (f : Sensor → Sensor) (s : State) : (modSensor k f s).part = s.part := rfl
@[simp] theorem modSensor_win (k : Nat) (f : Sensor → Sensor) (s : State) : (modSensor k f s).win = s.win := rfl
@[simp] theorem send_sent (m : Instr) (s : State) : (send m s).sent = s.sent ++ [m] := rfl
@[simp] theorem sendAll_sent (ms : List Instr) (s : State) : (sendAll ms s).sent = s.sent ++ ms := rfl
@[simp] theorem send_pending (m : Instr) (s : State) : (send m s).pending = s.pending := rfl
@[simp] theorem sendAll_pending (ms : List Instr) (s : State) : (sendAll ms s).pending = s.pending := rfl
@[simp] theorem send_sen (m : Instr) (s : State) : (send m s).sen = s.sen := rfl
@[simp] theorem sendAll_sen (ms : List Instr) (s : State) : (sendAll ms s).sen = s.sen := rfl
@[simp] theorem send_hub (m : Instr) (s : State) : (send m s).hub = s.hub := rfl
@[simp] theorem sendAll_hub (ms : List Instr) (s : State) : (sendAll ms s).hub = s.hub := rfl
@[simp] theorem send_part (m : Instr) (s : State) : (send m s).part = s.part := rfl
@[simp] theorem sendAll_part (ms : List Instr) (s : State) : (sendAll ms s).part = s.part := rfl
@[simp] theorem send_win (m : Instr) (s : State) : (send m s).win = s.win := rfl
@[simp] theorem sendAll_win (ms : List Instr) (s : State) : (sendAll ms s).win = s.win := rfl

end Sys2Proof.Machine
end

