-- ==== Sys2Proof/WellFormed.lean ====
section
/-!
DEFINITION. Well-formed commands: unit numbers, partitions, dies, channels and codes lie in the ranges that the manual
gives them (R12, R19, R35, Tables 2.2, 2.8).
-/
namespace Sys2Proof

/-- A physical site (R12). -/
def siteOk (n : Nat) : Bool := decide (n < 13440)

/-- A logical tile (R11). -/
def tileOk (n : Nat) : Bool := decide (n < 12480)

/-- A sector, and so its hub (R19). -/
def sectorOk (n : Nat) : Bool := decide (n < 80)

/-- A unit address of Table 2.2 that names one unit. -/
def unitOk (n : Nat) : Bool :=
  siteOk n || (decide (0x4000 ≤ n) && sectorOk (n - 0x4000)) || (decide (0x8000 ≤ n) && decide (n < 0x8004))

/-- A TAG is one byte (R36). -/
def tagOk (n : Nat) : Bool := decide (n < 256)

/-- A transfer at an edge point: its point's number, partition and context (Tables 4.5, 13.1). -/
def transferOk (t : Transfer) : Bool := decide (t.point < 256) && decide (t.partition < 16) && decide (t.context < 4)

/-- A privilege tag (R485). -/
def privOk (p : Priv) : Bool := decide (p.level ≤ 2) && decide (p.tenant < 16)

/-- A naturally aligned access of 1, 2 or 4 bytes in the 64 KiB window (R484). -/
def accessOk (offset size : Nat) : Bool :=
  (size == 1 || size == 2 || size == 4) && offset % size == 0 && decide (offset + size ≤ 65536)

/-- A well-formed command. -/
def Instr.wf : Instr → Bool
  | .mainPowerGood _ => true
  | .securityAuthentication die _ => decide (die < 2)
  | .imageDigestExchange => true
  | .linkTrainingResult kind _ result _ settings =>
    decide (1 ≤ kind ∧ kind ≤ 4) && decide (result ≤ 2) && decide (settings.length ≤ 262144)
  | .pwrWarnN _ => true
  | .pwrWarnReturn => true
  | .managerWatchdogExpiry die => decide (die < 2)
  | .functionLevelReset => true
  | .tapReset die => decide (die < 2)
  | .smbusClockLowTimeout die => decide (die < 2)
  | .mramFailure die => decide (die < 2)
  | .linkWatchdogExpiry _ => true
  | .hubBufferFreed hub _ => sectorOk hub
  | .reservedClassDiscard hub _ _ => sectorOk hub
  | .alarmLevel unit _ _ _ => unitOk unit
  | .fence unit partition _ => unitOk unit && decide (partition < 16)
  | .fenceDone site => siteOk site
  | .fenceDeadline partition => decide (partition < 16)
  | .tileReset site cause => siteOk site && decide (1 ≤ cause ∧ cause ≤ 4)
  | .resetDone site => siteOk site
  | .tileResetTimeout site => siteOk site
  | .resetMemoryReady partition _ => decide (partition < 16)
  | .stopSlot site _ => siteOk site
  | .stopSlotReached site => siteOk site
  | .stopCodeDecoded site _ => siteOk site
  | .stopReleaseMessage site _ => siteOk site
  | .tileRestart site => siteOk site
  | .syncPulse => true
  | .throttleStage unit stage _ => unitOk unit && decide (stage ≤ 4)
  | .throttleEngage => true
  | .throttleRequest sector stage => sectorOk sector && decide (stage ≤ 4)
  | .quarantine site => siteOk site
  | .screenRun site sector point recipe _ => (site == 0xFFFF || siteOk site) && sectorOk sector && decide (point ≤ 9) && (decide (recipe ≤ 7) || recipe == 0xFF)
  | .traceTrigger site firing _ => siteOk site && siteOk firing
  | .repeatRead site _ _ elems _ _ _ => siteOk site && elems.all fun e => decide (e.1 < 64) && decide (e.2 < 64)
  | .stopRequest site => siteOk site
  | .takeover hub => sectorOk hub
  | .stepBoundary hub partition _ _ _ => sectorOk hub && decide (partition < 16)
  | .residueVerdict site _ _ => siteOk site
  | .plausVerdict site _ => siteOk site
  | .redundancy site _ => siteOk site
  | .stepDone site _ => siteOk site
  | .stepDoneWaitExpiry hub partition => sectorOk hub && decide (partition < 16)
  | .sentinelReadTimeout site => siteOk site
  | .sealVerdict unit partition _ test _ _ _ => unitOk unit && decide (partition < 16) && decide (test ≤ 5)
  | .ledger site _ => siteOk site
  | .contribution hub partition _ _ _ => sectorOk hub && decide (partition < 16)
  | .finalKept partition _ _ _ _ _ => decide (partition < 16)
  | .stepToken partition => decide (partition < 16)
  | .peerRelease partition => decide (partition < 16)
  | .timeLoad unit _ => unitOk unit
  | .timeCheck hub => sectorOk hub
  | .rasAlignmentTimer => true
  | .edgeTickTimer hub => sectorOk hub
  | .edgeTick site => siteOk site
  | .hubWatchTimer hub => sectorOk hub
  | .hubWatch sector => sectorOk sector
  | .hubWatchMissed sector => sectorOk sector
  | .read unit _ count tag => unitOk unit && decide (1 ≤ count ∧ count ≤ 13) && tagOk tag
  | .write unit _ words tag => unitOk unit && decide (1 ≤ words.length ∧ words.length ≤ 13) && tagOk tag
  | .dropCountRead site tag => siteOk site && tagOk tag
  | .programWrite site _ words tag => siteOk site && decide (1 ≤ words.length ∧ words.length ≤ 13) && tagOk tag
  | .programRead site _ count tag => siteOk site && decide (1 ≤ count ∧ count ≤ 13) && tagOk tag
  | .controlResponse unit _ _ tag status _ => unitOk unit && tagOk tag && decide (status < 256)
  | .event e => decide (e.payload.length + (if e.merge.isSome then 1 else 0) ≤ 52)
  | .dropCount site _ => siteOk site
  | .summary site _ => siteOk site
  | .edgeChange hub _ _ => sectorOk hub
  | .memoryError hub _ => sectorOk hub
  | .runResult site recipe _ _ _ _ _ => siteOk site && (decide (recipe ≤ 7) || recipe == 0xFF)
  | .repeatHeader site _ => siteOk site
  | .laneData site _ => siteOk site
  | .content sector _ _ => sectorOk sector
  | .snapshotPart hub partition _ _ => sectorOk hub && decide (partition < 16)
  | .snapshotSiteTimeout site => siteOk site
  | .digestRun hub partition _ _ _ => sectorOk hub && decide (partition < 16)
  | .digestComplete partition => decide (partition < 16)
  | .journalEntry _ => true
  | .audit _ _ => true
  | .heartbeatTimer die => decide (die < 2)
  | .heartbeat die _ _ => decide (die < 2)
  | .heartbeatLoss _ => true
  | .standbyLoss _ => true
  | .recordMirror _ _ => true
  | .mirrorAck _ => true
  | .mirrorAckTimeout _ => true
  | .standbyRejoin => true
  | .mramWrite die _ data => decide (die < 2) && decide (data.length ≤ 52)
  | .windowForward access => privOk access.priv && accessOk access.offset access.size
  | .pinState _ => true
  | .oobForward _ => true
  | .tcgWakeAckRise site => siteOk site
  | .tcgWakeAckFall site => siteOk site
  | .wakeTimeout site => siteOk site
  | .eventLevelRise site code => siteOk site && decide (code ≤ 2)
  | .eventCounterSampleTimer site => siteOk site
  | .frontQueueEntry site => siteOk site
  | .blockConsumed site _ => siteOk site
  | .sealReread site _ => siteOk site
  | .blockProduced site _ => siteOk site
  | .outputTileSealed site _ => siteOk site
  | .sampleSelect site _ => siteOk site
  | .vectorBeat site _ => siteOk site
  | .streamEnd site => siteOk site
  | .stepLastComplete site => siteOk site
  | .queueCommandIssue site _ => siteOk site
  | .queueCommandComplete site _ _ => siteOk site
  | .sramErrorReport site _ _ _ _ => siteOk site
  | .memoryEntryRead t => transferOk t
  | .memoryExitWrite t => transferOk t
  | .linkEntryBlock t => transferOk t
  | .trailerReceived partition port _ => decide (partition < 16) && decide (port < 64)
  | .linkExitBlock _ => true
  | .reductionInputBlock _ => true
  | .reductionCompareMismatch partition => decide (partition < 16)
  | .commitDone partition _ _ => decide (partition < 16)
  | .mirrorBlockReceived owner _ _ _ => tileOk owner
  | .partnerCopyComplete owner => tileOk owner
  | .tier2CopyComplete partition region => decide (partition < 16) && decide (region < 16)
  | .takeoverFillComplete tile _ _ => tileOk tile
  | .replayDone _ _ _ _ _ _ => true
  | .replayDoneTimeout partition tile => decide (partition < 16) && tileOk tile
  | .lossReport _ _ _ _ _ => true
  | .unknownCoreMessage _ _ => true
  | .peerTimeout partition entry => decide (partition < 16) && decide (entry < 32)
  | .memoryCompletion hub point partition context _ => sectorOk hub && decide (point < 256) && decide (partition < 16) && decide (context < 4)
  | .flitIntoFencedPartition site _ => siteOk site
  | .teardownWritesDrained partition context _ _ => decide (partition < 16) && decide (context < 4)
  | .teardownWriteTimeout partition context _ _ => decide (partition < 16) && decide (context < 4)
  | .waitForSearchTimer => true
  | .commitWaitExpiry partition => decide (partition < 16)
  | .replayStepLimitExpiry partition => decide (partition < 16)
  | .screeningWindowStart partition => decide (partition < 16)
  | .screenSpanExpiry site => siteOk site
  | .spareScreenStart site _ => siteOk site
  | .heatingTimeout sector => sectorOk sector
  | .vmarginAck sector => sectorOk sector
  | .vmarginKeepaliveTimer sector => sectorOk sector
  | .stageZeroHold => true
  | .cleanPeriodEnd site => siteOk site
  | .modelStep sector => sectorOk sector
  | .thermalSample sector _ _ => sectorOk sector
  | .edgeDiodeRead die _ => decide (die < 2)
  | .releaseHoldExpiry sector => sectorOk sector
  | .unitWakeStart hub unit => sectorOk hub && decide (unit ≤ 2)
  | .historyCountFlush site => siteOk site
  | .counterCopyTimer => true
  | .hourlyCalendarMark => true
  | .memCeHour => true
  | .staleCompletionSecond hub => sectorOk hub
  | .rateWindowStart => true
  | .ringBatchWrite _ => true
  | .freezeLimitExpiry => true
  | .thmUpdate => true
  | .watchDumpComplete site slot => siteOk site && decide (slot < 7)
  | .plausibilitySetConfirmed hub partition => sectorOk hub && decide (partition < 16)
  | .plausibilityLoadTimeout partition => decide (partition < 16)
  | .waitingActionStart scope _ => decide (scope ≤ 3)
  | .commandBegin _ => true
  | .submit channel priv => decide (channel < 4) && privOk priv
  | .cplAck channel => decide (channel < 4)
  | .claim channel priv => decide (channel < 4) && privOk priv
  | .release channel => decide (channel < 4)
  | .loRegisterRead offset size priv => privOk priv && accessOk offset size
  | .cntSnapshot priv => privOk priv
  | .cursorHiWrite _ priv => privOk priv
  | .altStatusClear _ priv => privOk priv
  | .jtagCtrlWrite _ priv => privOk priv
  | .seedLoad hub _ _ => sectorOk hub
  | .registerWrite offset size _ priv => privOk priv && accessOk offset size
  | .getIdentity _ => true
  | .getStatus _ => true
  | .logFreeze _ => true
  | .logThaw _ => true
  | .logClear _ => true
  | .logMark _ => true
  | .timeSetCalendar _ => true
  | .healthQuery _ => true
  | .unitQuarantine _ => true
  | .unitRelease _ => true
  | .unitScreen _ => true
  | .historyRead _ => true
  | .unitRetire _ => true
  | .spareTakeover _ => true
  | .partitionDefine _ => true
  | .partitionFence _ => true
  | .partitionReset _ => true
  | .waferReset _ _ => true
  | .partitionRelease _ => true
  | .contextTeardown _ => true
  | .jobAttach _ => true
  | .jobDetach _ => true
  | .stepVerdictQuery _ => true
  | .digestQuery _ => true
  | .netConfigure _ result _ settings => decide (result ≤ 2) && decide (settings.length ≤ 262144)
  | .netStatus _ => true
  | .stopAtSlot _ => true
  | .stopNow _ => true
  | .stopRelease _ => true
  | .scanOut _ _ _ _ => true
  | .traceConfigure _ => true
  | .traceDrain _ _ => true
  | .watchArm _ => true
  | .watchDisarm _ => true
  | .hangSnapshot _ => true
  | .thermalPolicy _ => true
  | .sensorRetire _ => true
  | .imageStage _ => true
  | .imageCommit _ _ _ _ => true
  | .trainingSave _ => true
  | .counterConfigure _ => true
  | .plausibilityLoad _ => true
  | .managerSwitchover _ _ => true
  | .oobRequest _ => true
  | .oobCompletionRetry die => decide (die < 2)
  | .setEndpointId die eid _ _ => decide (die < 2) && decide (eid < 256)
  | .getEndpointId die _ _ => decide (die < 2)
  | .getMctpVersionSupport die _ _ => decide (die < 2)
  | .getMessageTypeSupport die _ _ => decide (die < 2)
  | .getVendorDefinedMessageSupport die _ _ => decide (die < 2)
  | .unsupportedMctpMessage die _ _ _ _ => decide (die < 2)
  | .bypass die => decide (die < 2)
  | .idcode die => decide (die < 2)
  | .jtagDebugInstruction die _ kind => decide (die < 2) && decide (kind ≤ 5)
  | .mainPowerLoss => true
  | .backupSupplyLoss die => decide (die < 2)
  | .dropSummarySecond => true
  | .unitWakeComplete hub unit => sectorOk hub && decide (unit ≤ 2)
  | .deepScreenStart site => siteOk site
  | .settingsWriteComplete => true

end Sys2Proof
end

