-- ==== Sys2Proof/Tests/Slice0.lean ====
section
/-!
SUPPORT. The model's own tests: ill-formed commands that the well-formedness check refuses, single commands held against
values worked out by hand from the manual, and for every statement a state and operands that meet its hypotheses, clause
by clause (witness_<statement>).
-/
namespace Sys2Proof.Tests
open Sys2Proof Sys2Proof.Machine
set_option linter.all false
set_option Elab.async false

/-- The block after bring-up: every sector present, both managers running; site 0 holds tile 0 of partition 0, which runs a
job, and site 1 is a spare. -/
def up : State :=
  { State.reset with
    powered := true, checked := true, mgrA := { running := true, slot := 0 }, mgrB := { running := true, standby := true, slot := 0 }
    boot := { ready := true, step := 8 }, image := { sectors := 2 ^ 80 - 1 }, recorder := { running := true }
    health := [(0, { state := 3, logical := 0 }), (1, { state := 1 })], sen := [(0, { bistPass := true, inReset := false }), (1, { bistPass := true, inReset := false })]
    xlat0 := [(0, 2 ^ 14)], part := [(0, { regions := 1, state := 2, job := some {} })] }

/-- `up` with site 0's sentinel, hub 0, partition 0 or site 0's record changed. -/
def sn (f : Sentinel → Sentinel) : State := modSen 0 f up
def hb (f : Hub → Hub) : State := modHub 0 f up
def pt (f : Partition → Partition) : State := modPart 0 f up
def rc (f : SiteRec → SiteRec) : State := modSite 0 f up

/-- A command that has begun, and a state in which it runs. -/
def ck (op : Nat) (args : List Byte := []) (bulk : List Byte := []) : Cmd :=
  { seq := 1, op := op, args := args, bulk := bulk, began := true, priv := { level := 1 } }
def runs (c : Cmd) (s : State := up) : State := modWin (fun w => { w with cmds := [c], nextSeq := 2 }) s

/-- The hypotheses about what an optional part holds, from one closed check. -/
theorem forall_some {α : Type} {o : Option α} {P : α → Prop} [DecidablePred P] (h : (o.all fun x => decide (P x)) = true) :
    ∀ x, o = some x → P x := by
  intro x hx
  subst hx
  simpa using h

/-- A hypothesis about every number below a bound, from one closed check. -/
theorem below {n : Nat} {P : Nat → Prop} [DecidablePred P] (h : ((List.range n).all fun k => decide (P k)) = true) :
    ∀ k, k < n → P k := by
  intro k hk
  simpa using List.all_eq_true.mp h k (List.mem_range.mpr hk)

/-- An out-of-band completion of SEQUENCE 1. -/
def oobDone : List Byte := le 1 2 ++ le 7 0 ++ le 4 1

/-- A block that passes its tests, and its descriptor. -/
def sealedDesc : Desc := { handle := 5, index := 1, fmt := 6, gen := 2 }
def sealed : Block :=
  { payload := [], tag := { handle := 5, index := 1, fmt := 6, gen := 2, crc := sealOf [] { handle := 5, index := 1, fmt := 6, gen := 2 } } }
theorem sealed_passes : sealTest sealed sealedDesc = 0 := by
  simp [sealTest, sealed, sealedDesc, sealOf, Tag.bytes8, Tag.fmtFlags, tagInvalid]
theorem sealed_passes2 : sealTest2 sealed = 0 := by
  simp [sealTest2, sealed, sealOf, Tag.bytes8, Tag.fmtFlags, tagInvalid]

/-- A trailer of step 0 whose seal holds. -/
def soundTrailer : Block := { payload := [], tag := { crc := sealOf [] {} } }
theorem sound_trailer : trailerSound (trailerOf 0 soundTrailer) = true := by
  simp [trailerSound, trailerOf, sealTest2, soundTrailer, sealOf, Tag.bytes8, Tag.fmtFlags, tagInvalid, field, ofLe]

/-- Tile 0's copy runs; its holder is tile 156, placed at site 168 of the next sector. -/
def copies : State :=
  { up with xlat0 := [(0, 2 ^ 14), (156, 2 ^ 14 + 168)]
            part := [(0, { regions := 1, state := 2, job := some { shift := 1 }, copying := [0] })] }

/-- Tile 0 waits for itself. -/
def cycle : State := { up with graph := [({}, 0)] }

/-- A job descriptor for partition 0, and the partition without a job. -/
def jobBulk : List Byte := le 3 0 ++ [1] ++ List.replicate 118 0 ++ le 2 780 ++ List.replicate 14 0 ++ [1, 1] ++ le 4 0
def jobReady : State := pt (fun x => { x with state := 1, job := none })

/-! ## Well-formedness: what each check refuses -/

/-- A partition, die, context, count or code outside its range. -/
theorem test_wf_refuses_range_1 :
    ([.securityAuthentication 2 false, .linkTrainingResult 5 0 0 0 [], .linkTrainingResult 1 0 3 0 [],
      .linkTrainingResult 0 0 0 0 [], .managerWatchdogExpiry 2, .tapReset 2, .smbusClockLowTimeout 2, .mramFailure 2,
      .fence 0 16 1, .fenceDeadline 16, .tileReset 0 5, .tileReset 0 0, .resetMemoryReady 16 0, .throttleStage 0 5 0,
      .throttleRequest 0 5, .screenRun 0 0 10 0 0, .screenRun 0 0 0 8 0, .repeatRead 0 0 0 [(64, 0)] [] [] 0,
      .repeatRead 0 0 0 [(0, 64)] [] [] 0, .stepBoundary 0 16 0 0 0, .stepDoneWaitExpiry 0 16,
      .sealVerdict 0 16 0 0 0 0 {}, .sealVerdict 0 0 0 6 0 0 {}, .contribution 0 16 0 0 [], .finalKept 16 0 0 false false [],
      .stepToken 16, .peerRelease 16, .read 0 0 14 0, .read 0 0 0 0, .write 0 0 [] 0, .write 0 0 (List.replicate 14 0) 0,
      .programWrite 0 0 [] 0, .programWrite 0 0 (List.replicate 14 0) 0, .programRead 0 0 14 0, .programRead 0 0 0 0,
      .controlResponse 0 0 0 0 256 false] : List Instr).all (fun c => !c.wf) = true := by decide

/-- A partition, die, context, count or code outside its range. -/
theorem test_wf_refuses_range_2 :
    ([.runResult 0 8 0 0 0 0 {}, .snapshotPart 0 16 [] [], .digestRun 0 16 [] [] 0, .digestComplete 16, .heartbeatTimer 2,
      .heartbeat 2 0 0, .mramWrite 2 0 [], .eventLevelRise 0 3, .trailerReceived 16 0 {}, .trailerReceived 0 64 {},
      .reductionCompareMismatch 16, .commitDone 16 [] [], .tier2CopyComplete 16 0, .tier2CopyComplete 0 16,
      .replayDoneTimeout 16 0, .peerTimeout 16 0, .peerTimeout 0 32, .memoryCompletion 0 256 0 0 0,
      .memoryCompletion 0 0 16 0 0, .memoryCompletion 0 0 0 4 0, .teardownWritesDrained 16 0 0 0,
      .teardownWritesDrained 0 4 0 0, .teardownWriteTimeout 16 0 0 0, .teardownWriteTimeout 0 4 0 0, .commitWaitExpiry 16,
      .replayStepLimitExpiry 16, .screeningWindowStart 16, .edgeDiodeRead 2 [], .unitWakeStart 0 3, .watchDumpComplete 0 7,
      .plausibilitySetConfirmed 0 16, .plausibilityLoadTimeout 16, .waitingActionStart 4 0, .submit 4 {}, .cplAck 4,
      .claim 4 {}] : List Instr).all (fun c => !c.wf) = true := by decide

/-- A partition, die, context, count or code outside its range. -/
theorem test_wf_refuses_range_3 :
    ([.release 4, .netConfigure 0 3 0 [], .oobCompletionRetry 2, .setEndpointId 2 0 false false,
      .setEndpointId 0 256 false false, .getEndpointId 2 false false, .getMctpVersionSupport 2 false false,
      .getMessageTypeSupport 2 false false, .getVendorDefinedMessageSupport 2 false false,
      .unsupportedMctpMessage 2 0 0 false false, .bypass 2, .idcode 2, .jtagDebugInstruction 2 0 1,
      .jtagDebugInstruction 0 0 6, .backupSupplyLoss 2, .unitWakeComplete 0 3] : List Instr).all (fun c => !c.wf) = true := by decide

/-- A sector, or the hub of a sector, of 80 or above (R19). -/
theorem test_wf_refuses_sector :
    ([.hubBufferFreed 80 0, .reservedClassDiscard 80 0 0, .throttleRequest 80 0, .screenRun 0 80 0 0 0, .takeover 80,
      .stepBoundary 80 0 0 0 0, .stepDoneWaitExpiry 80 0, .contribution 80 0 0 0 [], .timeCheck 80, .edgeTickTimer 80,
      .hubWatchTimer 80, .hubWatch 80, .hubWatchMissed 80, .edgeChange 80 false {}, .memoryError 80 {}, .content 80 0 [],
      .snapshotPart 80 0 [] [], .digestRun 80 0 [] [] 0, .memoryCompletion 80 0 0 0 0, .heatingTimeout 80, .vmarginAck 80,
      .vmarginKeepaliveTimer 80, .modelStep 80, .thermalSample 80 [] 0, .releaseHoldExpiry 80, .unitWakeStart 80 0,
      .staleCompletionSecond 80, .plausibilitySetConfirmed 80 0, .seedLoad 80 false 0, .unitWakeComplete 80 0] : List Instr).all (fun c => !c.wf) = true := by decide

/-- A unit address between the sites and the hubs (Table 2.2). -/
theorem test_wf_refuses_unit :
    ([.alarmLevel 13440 0 false {}, .fence 13440 0 1, .throttleStage 13440 0 0, .sealVerdict 13440 0 0 0 0 0 {},
      .timeLoad 13440 0, .read 13440 0 1 0, .write 13440 0 [0] 0, .controlResponse 13440 0 0 0 0 false] : List Instr).all (fun c => !c.wf) = true := by decide

/-- A site number of 13,440 or above names no site (R12). -/
theorem test_wf_refuses_site_1 :
    ([.fenceDone 13440, .tileReset 13440 1, .resetDone 13440, .tileResetTimeout 13440, .stopSlot 13440 0,
      .stopSlotReached 13440, .stopCodeDecoded 13440 0, .stopReleaseMessage 13440 0, .tileRestart 13440, .quarantine 13440,
      .screenRun 13440 0 0 0 0, .traceTrigger 13440 0 0, .traceTrigger 0 13440 0, .repeatRead 13440 0 0 [] [] [] 0,
      .stopRequest 13440, .residueVerdict 13440 {} {}, .plausVerdict 13440 {}, .redundancy 13440 {}, .stepDone 13440 {},
      .sentinelReadTimeout 13440, .ledger 13440 {}, .edgeTick 13440, .dropCountRead 13440 0, .programWrite 13440 0 [0] 0,
      .programRead 13440 0 1 0, .dropCount 13440 1, .summary 13440 {}, .runResult 13440 0 0 0 0 0 {}, .repeatHeader 13440 {},
      .laneData 13440 {}, .snapshotSiteTimeout 13440, .tcgWakeAckRise 13440, .tcgWakeAckFall 13440, .wakeTimeout 13440,
      .eventLevelRise 13440 0, .eventCounterSampleTimer 13440] : List Instr).all (fun c => !c.wf) = true := by decide

/-- A site number of 13,440 or above names no site (R12). -/
theorem test_wf_refuses_site_2 :
    ([.frontQueueEntry 13440, .blockConsumed 13440 {}, .sealReread 13440 {}, .blockProduced 13440 {},
      .outputTileSealed 13440 {}, .sampleSelect 13440 0, .vectorBeat 13440 {}, .streamEnd 13440, .stepLastComplete 13440,
      .queueCommandIssue 13440 {}, .queueCommandComplete 13440 {} false, .sramErrorReport 13440 false 0 0 {},
      .flitIntoFencedPartition 13440 false, .screenSpanExpiry 13440, .spareScreenStart 13440 false, .cleanPeriodEnd 13440,
      .historyCountFlush 13440, .watchDumpComplete 13440 0, .deepScreenStart 13440] : List Instr).all (fun c => !c.wf) = true := by decide

/-- A TAG of more than one byte (R36). -/
theorem test_wf_refuses_tag :
    ([.read 0 0 1 256, .write 0 0 [0] 256, .dropCountRead 0 256, .programWrite 0 0 [0] 256, .programRead 0 0 1 256,
      .controlResponse 0 0 0 256 0 false] : List Instr).all (fun c => !c.wf) = true := by decide

/-- A privilege level above 2 (R485). -/
theorem test_wf_refuses_priv :
    ([.windowForward { priv := { level := 3 } }, .submit 0 { level := 3 }, .claim 0 { level := 3 },
      .loRegisterRead 0 4 { level := 3 }, .cntSnapshot { level := 3 }, .cursorHiWrite 0 { level := 3 },
      .altStatusClear 0 { level := 3 }, .jtagCtrlWrite 0 { level := 3 }, .registerWrite 0 4 0 { level := 3 }] : List Instr).all (fun c => !c.wf) = true := by decide

/-- An access of another size, unaligned, or beyond the window (R484). -/
theorem test_wf_refuses_access :
    ([.windowForward { size := 3 }, .windowForward { offset := 2 }, .windowForward { offset := 65536 }, .loRegisterRead 0 3 {},
      .loRegisterRead 2 4 {}, .loRegisterRead 65536 4 {}, .registerWrite 0 3 0 {}, .registerWrite 2 4 0 {},
      .registerWrite 65536 4 0 {}] : List Instr).all (fun c => !c.wf) = true := by decide

/-- A point number of more than one byte (Table 4.5). -/
theorem test_wf_refuses_transfer :
    ([.memoryEntryRead { point := 256 }, .memoryExitWrite { point := 256 }, .linkEntryBlock { point := 256 }] : List Instr).all (fun c => !c.wf) = true := by decide

/-- A logical tile number of 12,480 or above (R11). -/
theorem test_wf_refuses_tile :
    ([.mirrorBlockReceived 12480 0 {} false, .partnerCopyComplete 12480, .takeoverFillComplete 12480 false false,
      .replayDoneTimeout 0 12480] : List Instr).all (fun c => !c.wf) = true := by decide

/-- More settings than a flash slot of the settings store holds. -/
theorem test_wf_refuses_settings (l : List Byte) (h : 262144 < l.length) :
    (Instr.linkTrainingResult 1 0 0 0 l).wf = false ∧ (Instr.netConfigure 1 0 0 l).wf = false := by
  have e : decide (l.length ≤ 262144) = false := decide_eq_false (Nat.not_le.mpr h)
  constructor
  · show (decide (1 ≤ 1 ∧ 1 ≤ 4) && decide (0 ≤ 2) && decide (l.length ≤ 262144)) = false
    rw [e, Bool.and_false]
  · show (decide (0 ≤ 2) && decide (l.length ≤ 262144)) = false
    rw [e, Bool.and_false]

/-! ## Worked examples of the manual, by hand -/

/-- Table 4.6: tag bytes 8 to 15. -/
theorem test_tag_bytes : Tag.bytes8 { handle := 0x1A2B, index := 263, fmt := 2, spars := 2, gen := 0x5C } =
    [0x2B, 0x1A, 0x00, 0x07, 0x01, 0x00, 0x22, 0x5C] := by decide

/-- R101: a passing block whose byte 14 has FORMAT 15 fails test 1. -/
theorem test_format_15_fails_test_1 : sealTest2 { tag := { fmt := 15 } } = 1 := by decide +kernel

/-- Chapter 3's worked example: counter 0xFFF0 taken, 0x0012 sampled, 34 events. -/
theorem test_event_difference : Sentinel.evDiff { evCount := [(2, 0x12)], evTaken := [(2, 0xFFF0)] } 2 = 34 := by decide

/-- R12's worked example: site 47.093 is site 7,989, in row 6 of its sector, and sector 47 lies in region 9. -/
theorem test_site_numbers : sectorOf 7989 = 47 ∧ siteRow 7989 = 6 ∧ regionOf 47 = 9 := by decide

/-- Table 5.6: the accumulator of element (0, 0) is 251,900 times 2^92, and one term is dropped. -/
theorem test_window_and_drop : accumulate (-95) [(true, 2, [1000]), (true, -1, [-4100]), (true, -60, [77])]
    [(true, 3, [1]), (true, -2, [1]), (true, -50, [1])] = (251900 * 2 ^ 92, 1) := by decide +kernel

/-- Table 5.7: the signed group's fine scale is 7, the unsigned group's 6, for M = 755,700 / 64. -/
theorem test_group_scale : groupScale 127 755700 (-6) = 7 ∧ groupScale 255 755700 (-6) = 6 := by decide +kernel

/-- Table 5.7: 192, 320 and 160 with scale 7 (ties to even), and -5,632. -/
theorem test_round_to_even : roundQ 0 0 192 (-7) = 2 ∧ roundQ 0 0 320 (-7) = 2 ∧ roundQ 0 0 160 (-7) = 1 ∧ roundQ 0 0 (-5632) (-7) = -44 := by
  decide +kernel

/-- Stochastic rounding of the same example: r = 0x2000_0000 rounds 92.2485 up, 0x6000_0000 does not. -/
theorem test_round_stochastic : roundQ 1 0x20000000 755700 (-13) = 93 ∧ roundQ 1 0x60000000 755700 (-13) = 92 := by decide +kernel

/-- Table 6.8: the residues of the accumulators (0, 0) and (0, 1). -/
theorem test_residues : res (17 * 2 ^ 100) = 17 * 2 ^ 39 ∧ res (-36 * 2 ^ 99) = residueP - 18 * 2 ^ 39 := by decide +kernel

/-- R446's example: the record of handle 0x00_1A2B, layer 37, operator 0x1A3, lineage 5, generation 0x5C at slot 5,000,000,000. -/
theorem test_trace_record : traceBytes 5000000000 { layer := 37, operator := 0x1A3, lineage := 5, handle := 0x1A2B, gen := 0x5C } true 0 =
    [0x00, 0xF2, 0x05, 0x2A, 0x01, 0x00, 0x25, 0x00, 0xA3, 0x81, 0x05, 0x00, 0x2B, 0x1A, 0x00, 0x5C] := by decide

/-- R241's example: the reference code of F 3, V 3, T 2, and of F 2, V 3, T 1. -/
theorem test_margin_codes : marginCode 3 3 2 = 0x9B ∧ marginCode 2 3 1 = 0x5A := by decide

/-- R292's example: in regions 0 and 4 the shift is 2. -/
theorem test_pairing_shift : autoShift [0, 1, 2, 3, 4, 20, 21, 22, 23, 24] = 2 := by decide

/-- FIPS 180-4's message "abc", which R476 takes SHA-256 from. -/
theorem test_sha256 : (sha256 [0x61, 0x62, 0x63]).take 8 = [0xBA, 0x78, 0x16, 0xBF, 0x8F, 0x01, 0xCF, 0xEA] := by decide +kernel

/-! ## Single commands -/

/-- What one command leaves in a field of the next state. -/
def after (c : Instr) (s : State) : State := match exec c s with
  | .next t => t
  | _ => s

/-- R522: the other manager drives its die's pins as commanded; this die's stay. -/
theorem test_pin_state : (after (.pinState 5) up).portB = up.portB.drive 5 ∧ (after (.pinState 5) up).portA = up.portA := by decide +kernel

/-- R524: the warning stands after PWR_WARN_N and falls with its return. -/
theorem test_power_warning : (after (.pwrWarnN 0) up).warn = true ∧ (after .pwrWarnReturn (after (.pwrWarnN 0) up)).warn = false := by
  decide +kernel

/-- R506, R489: a claim of a free bulk area, and one that finds it claimed. -/
theorem test_claim : (after (.claim 0 {}) up).win.bulkOwner = some 0 ∧
    (after (.claim 2 {}) (after (.claim 0 {}) up)).win.bulkOwner = some 0 := by decide +kernel

/-- R339: fence done of a partition that is not fencing changes no partition. -/
theorem test_fence_done_of_another_site : (after (.fenceDone 5) up).part = up.part := by decide +kernel

/-- R337: the fence reaches the sentinel. -/
theorem test_fence_at_sentinel : ((after (.fence 0 0 1) up).senOf 0).fenced = true := by decide +kernel

/-- R74: no acknowledge sets the timeout bit of SEN.CROSS_ERR. -/
theorem test_wake_timeout : ((after (.wakeTimeout 0) (sn (fun x => { x with wakeState := 1, wake := true }))).senOf 0).crossErr = 2 := by
  decide +kernel

/-- R458: the stop slot is stored at the site that the message names. -/
theorem test_stop_slot :
    let s := modStop (fun x => { x with state := 1, waiting := [0, 1] }) up
    ((after (.stopSlot 0 4096) s).senOf 0).stopAt = some 4096 ∧ ((after (.stopSlot 0 4096) s).senOf 1).stopAt = none := by decide +kernel

/-- R252: a spare that is retired is retired; its command is answered. -/
theorem test_retire : ((after (.unitRetire 1) (runs (ck 0x0105 (le 4 1)))).siteRec 1).state = 7 := by decide +kernel

/-- The queue: the front command runs, the rest waits. -/
theorem test_step_takes_the_front : (match step { up with pending := [.pinState 3, .pinState 4] } with
    | .next t => t.portB == up.portB.drive 3 && t.pending == [.pinState 4]
    | _ => false) = true := by decide +kernel

/-- No word spells a command: the table gives no bits. -/
theorem test_no_words : decodeTableWord 8 1 = none := by decide

/-! ## The hypotheses of every statement are met -/

theorem witness_IdleStepCountsOnePeriod :
    (∃ (s : State), s.pending = []) :=
  ⟨up, by decide +kernel⟩

theorem witness_EveryStepKeepsTheInvariant :
    (∃ (s t : State), step s = .next t ∧ Sys2Proof.Inv s = true) :=
  ⟨up, _, rfl, by decide +kernel⟩

theorem witness_CommandsChangeOnlyTheirFields :
    (∃ (c : Instr) (s t : State), exec c s = .next t) :=
  ⟨.pinState 0, up, _, rfl⟩

theorem witness_QueueClockAndFlashKept :
    (∃ (c : Instr) (s t : State), exec c s = .next t) ∧
    (∃ (c : Instr) (s t : State), exec c s = .next t ∧ (∀ seq, c ≠ .imageStage seq)) :=
  ⟨⟨.pinState 0, up, _, rfl⟩,
   ⟨.pinState 0, up, _, rfl, fun _ h => nomatch h⟩⟩

theorem witness_StagingNeverWritesTheActiveSlot :
    (∃ (seq : Nat) (s t : State) (die a : Nat), exec (.imageStage seq) s = .next t ∧ Sys2Proof.Inv s = true ∧ die ≤ 1 ∧ (s.mgr
        s.active).slot < 2 ∧ slotSize * (s.mgr s.active).slot ≤ a ∧ a < slotSize * ((s.mgr s.active).slot + 1)) :=
  ⟨1, runs (ck 0x0700 (le 4 0)), _, 1, slotSize - 1, rfl, by decide +kernel⟩

theorem witness_WakeTimeoutCompletesTheWaitingAccess :
    (∃ (site : Nat) (s : State), Sys2Proof.Inv s = true ∧ (s.senOf site).wakeState = 1 ∧ (s.senOf site).wake = true) ∧
    (∃ (site : Nat) (s : State), Sys2Proof.Inv s = true ∧ (s.senOf site).wakeState = 1 ∧ (s.senOf site).wake = true ∧ (s.senOf
        site).inReset = false) :=
  ⟨⟨0, sn (fun x => { x with wakeState := 1, wake := true }), by decide +kernel⟩,
   ⟨0, sn (fun x => { x with wakeState := 1, wake := true }), by decide +kernel⟩⟩

theorem witness_PowerAndBackup :
    (∃ (p : PowerUp) (s : State), s.powered = false) ∧
    (∃ (s : State), s.powered = true) ∧
    (∃ (die : Nat) (s : State), die ≤ 1) ∧
    (∃ (written : Nat) (s : State), s.powered = true ∧ s.warn = false) ∧
    (∃ (s : State), s.warn = true) :=
  ⟨⟨{}, State.reset, by decide +kernel⟩,
   ⟨up, by decide +kernel⟩,
   ⟨1, up, by decide +kernel⟩,
   ⟨0, up, by decide +kernel⟩,
   ⟨{ up with warn := true }, by decide +kernel⟩⟩

theorem witness_BringUpCommands :
    (∃ (die k : Nat) (ks : List Nat) (s : State), Sys2Proof.Inv s = true ∧ die ≤ 1 ∧ (if die = 0 then s.boot.authA else
        s.boot.authB) = true ∧ s.boot.tries die = k :: ks) ∧
    (∃ (s : State), Sys2Proof.Inv s = true ∧ s.boot.step = 1 ∧ (s.mgr s.active).running = true ∧ (s.mgr s.other).running = true) ∧
    (∃ (kind index result time : Nat) (settings : List Byte) (s : State), Sys2Proof.Inv s = true ∧ s.boot.training.contains (256 *
        kind + index) = true) ∧
    (∃ (k seq : Nat) (s : State), s.setBusy = some (k, 1, seq)) ∧
    (∃ (die : Nat) (s : State), Sys2Proof.Inv s = true ∧ die ≤ 1 ∧ s.powered = true ∧ (s.mgr die).dieLost = false ∧ s.boot.step ≠
        0 ∧ s.boot.ready = true) :=
  ⟨⟨0, 0, [], { up with boot := { up.boot with authA := true, tryA := [0] } }, by decide +kernel⟩,
   ⟨{ up with boot := { step := 1 } }, by decide +kernel⟩,
   ⟨2, 15, 0, 0, [], { up with boot := { up.boot with training := [527] } }, by decide +kernel⟩,
   ⟨0, 7, { up with setBusy := some (0, 1, 7) }, by decide +kernel⟩,
   ⟨0, up, by decide +kernel⟩⟩

theorem witness_ManagerTakeoverAndHeartbeat :
    (∃ (hub : Nat) (s : State), Sys2Proof.Inv s = true ∧ s.works hub = true ∧ s.arrives (.takeover hub) = true) ∧
    (∃ (unit tag status : Nat) (s : State), s.failover = true ∧ s.arrives (.controlResponse unit 1 0x0C tag status false) = true) ∧
    (∃ (die : Nat) (s : State), (s.mgr die).running = true ∧ (s.port die).halted = false ∧ s.image.grade ≠ 2 ∧ (s.mgr (1 -
        die)).running = true) ∧
    (∃ (die : Nat) (ras : Dword) (role : Nat) (s : State), die ≤ 1) ∧
    (∃ (die : Bool) (s : State), s.image.grade ≠ 2 ∧ s.failover = false ∧ s.boot.step ≠ 1 ∧ s.standby = true) ∧
    (∃ (die : Bool) (s : State), s.image.grade ≠ 2 ∧ s.standby = true) ∧
    (∃ (die : Nat) (s : State), die ≤ 1 ∧ (s.mgr die).mramOk = true ∧ (die ≠ s.active ∨ s.standby = false)) :=
  ⟨⟨79, up, by decide +kernel⟩,
   ⟨0x4000, 0, 0, { up with failover := true, takeover := [0] }, by decide +kernel⟩,
   ⟨1, up, by decide +kernel⟩,
   ⟨1, 0, 1, up, by decide +kernel⟩,
   ⟨false, up, by decide +kernel⟩,
   ⟨true, up, by decide +kernel⟩,
   ⟨1, up, by decide +kernel⟩⟩

theorem witness_RecorderIntakeAndMirror :
    (∃ (ev : EventMsg) (s : State), (s.mgr s.active).running = true ∧ s.recorder.running = true ∧ codeKnown ev.code = true ∧
        s.recorder.powerFail = false ∧ s.recorder.frozen = false ∧ (codeProtected ev.code = true ∨ Sparse.get 0 s.recorder.taken
        ev.code < (s.rate ev.code).2) ∧ queueBytes s.recorder.intake + (16 + (pad4 ev.payload).length + 4) < 131072 ∧ s.arrives
        (.event ev) = true) ∧
    (∃ (index : Nat) (r : Rec) (s : State), s.standby = true ∧ (s.port s.other).halted = false ∧ (s.mgr s.other).mramOk = true ∧
        index = s.recorder.mirrorNext) ∧
    (∃ (index : Nat) (s : State), ((s.recorder.intake ++ s.recorder.staging).any fun q => q.index = index && q.mirror = 0) = true) ∧
    (∃ (s : State), s.standby = true ∧ (s.mgr s.other).mramOk = true ∧ s.recorder.running = true) :=
  ⟨⟨{ code := 0x1001 }, up, by decide +kernel⟩,
   ⟨0, {}, up, by decide +kernel⟩,
   ⟨0, { up with recorder := { running := true, intake := [{}] } }, by decide +kernel⟩,
   ⟨up, by decide +kernel⟩⟩

theorem witness_RecorderRingAndMarks :
    (∃ (count : Nat) (s : State), s.recorder.frozen = false ∧ (s.mgr s.active).mramOk = true ∧ batchTake count 0 s.recorder.intake
        ≠ []) ∧
    (∃ (s : State), s.recorder.running = true ∧ s.recorder.dropPath ≠ 0) ∧
    (∃ (s : State), s.recorder.frozen = true) ∧
    (∃ (s : State), s.recorder.running = true ∧ s.recorder.powerFail = false ∧ s.recorder.frozen = false ∧ queueBytes
        s.recorder.intake < 131000) ∧
    (∃ (site count : Nat) (s : State), s.arrives (.dropCount site count) = true) :=
  ⟨⟨1, { up with recorder := { running := true, intake := [{ mirror := 1 }] } }, by decide +kernel⟩,
   ⟨{ up with recorder := { running := true, dropPath := 1 } }, by decide +kernel⟩,
   ⟨{ up with recorder := { running := true, frozen := true } }, by decide +kernel⟩,
   ⟨up, by decide +kernel⟩,
   ⟨13439, 1, up, by decide +kernel⟩⟩

theorem witness_JournalPinsAndMram :
    (∃ (e : JournalEntry) (s : State), s.standby = true) ∧
    (∃ (pins : Nat) (s : State), Sys2Proof.Inv s = true) ∧
    (∃ (s : State), Sys2Proof.Inv s = true ∧ (s.mgr s.active).running = true ∧ (s.mgr s.active).mramOk = true ∧ (s.mgr
        s.other).running = true) ∧
    (∃ (die offset : Nat) (data : List Byte) (s : State), Sys2Proof.Inv s = true ∧ (s.mgr die).running = true ∧ (s.port
        die).halted = false ∧ (s.mgr die).mramOk = true) ∧
    (∃ (site : Nat) (s : State), Sys2Proof.Inv s = true ∧ site ∈ s.unflushed) :=
  ⟨⟨{}, up, by decide +kernel⟩,
   ⟨7, up, by decide +kernel⟩,
   ⟨up, by decide +kernel⟩,
   ⟨0, 0, [1], up, by decide +kernel⟩,
   ⟨0, { up with unflushed := [0] }, by decide +kernel⟩⟩

theorem witness_RasTimeAndHubWatch :
    (∃ (hub : Nat) (v : Dword) (s : State), Sys2Proof.Inv s = true ∧ hub < 0x4000 ∧ s.works hub = true ∧ s.arrives (.timeLoad
        (hubAddr hub) v) = true) ∧
    (∃ (v : Dword) (s : State), s.arrives (.timeLoad (mgrAddr 1) v) = true) ∧
    (∃ (hub : Nat) (s : State), Sys2Proof.Inv s = true ∧ s.works hub = true ∧ hub ∉ s.rasCheck ∧ s.arrives (.timeCheck hub) =
        true) ∧
    (∃ (s : State), (s.mgr s.active).running = true ∧ 4 ≤ s.boot.step) ∧
    (∃ (s : State), Sys2Proof.Inv s = true ∧ s.mgrA.running = true) ∧
    (∃ (hub : Nat) (s : State), s.works hub = true ∧ s.works (farHub hub) = true) ∧
    (∃ (sector : Nat) (s : State), Sys2Proof.Inv s = true ∧ sector ≠ farHub sector ∧ s.arrives (.hubWatch sector) = true) ∧
    (∃ (sector : Nat) (s : State), s.works sector = true ∧ s.works (farHub sector) = true ∧ s.failover = false ∧ (∀ z ∈ s.sectors,
        (s.hubOf z).adoptedBy ≠ some sector)) ∧
    (∃ (sector : Nat) (s : State), Sys2Proof.Inv s = true ∧ s.works sector = true ∧ s.works (farHub sector) = false ∧ s.failover =
        false ∧ (∀ z ∈ s.sectors, (s.hubOf z).adoptedBy ≠ some sector)) :=
  ⟨⟨79, 1, up, by decide +kernel⟩,
   ⟨5, up, by decide +kernel⟩,
   ⟨0, up, by decide +kernel⟩,
   ⟨up, by decide +kernel⟩,
   ⟨up, by decide +kernel⟩,
   ⟨0, up, by decide +kernel⟩,
   ⟨0, up, by decide +kernel⟩,
   ⟨0, up, by decide +kernel⟩,
   ⟨0, modHub (farHub 0) (fun y => { y with failed := true }) up, by decide +kernel⟩⟩

theorem witness_MidwayLinksAndBuffers :
    (∃ (link : MidLink) (s : State), link ∉ s.links) ∧
    (∃ (hub index : Nat) (w : Held) (s : State), Sys2Proof.Inv s = true ∧ s.works hub = true ∧ nextHeld (s.hubOf hub).lastGrant
        ((s.hubOf hub).linkWait.filter fun w => s.mayUse hub index w.channel w.cls) = some w) ∧
    (∃ (hub index : Nat) (s : State), Sys2Proof.Inv s = true ∧ s.works hub = true ∧ (s.hubOf hub).linkWait = []) ∧
    (∃ (hub cls opcode : Nat) (s : State), Sys2Proof.Inv s = true ∧ s.works hub = true ∧ messageListed cls opcode = false) :=
  ⟨⟨{}, up, by decide +kernel⟩,
   ⟨0, 0, { msg := .fenceDone 0 }, hb (fun y => { y with linkWait := [{ msg := .fenceDone 0 }] }), by decide +kernel⟩,
   ⟨0, 0, up, by decide +kernel⟩,
   ⟨0, 7, 63, up, by decide +kernel⟩⟩

theorem witness_RegisterAccesses :
    (∃ (unit offset count tag : Nat) (s : State), Sys2Proof.Inv s = true ∧ unit < 0x4000 ∧ s.answers? unit = true ∧ (wordOffsets
        offset count).all senKnown = true ∧ ((wordOffsets offset count).any senFront = true → s.mustWait unit = false) ∧ s.arrives
        (.read unit offset count tag) = true ∧ (((receive (.read unit offset count tag) s).hubOf ((receive (.read unit offset
        count tag) s).siteHub unit)).collect.reading.contains unit = false ∨ offset ≠ 0x18 ∨ count ≠ 1)) ∧
    (∃ (site tag : Nat) (s : State), site < 0x4000 ∧ s.answers? site = true ∧ s.arrives (.read site 0x18 1 tag) = true ∧ ((receive
        (.read site 0x18 1 tag) s).hubOf ((receive (.read site 0x18 1 tag) s).siteHub site)).collect.reading.contains site = true) ∧
    (∃ (unit offset count tag : Nat) (s : State), Sys2Proof.Inv s = true ∧ unit < 0x4000 ∧ s.answers? unit = true ∧ (wordOffsets
        offset count).all senKnown = true ∧ (wordOffsets offset count).any senFront = true ∧ s.mustWait unit = true ∧ s.arrives
        (.read unit offset count tag) = true) ∧
    (∃ (unit offset count tag : Nat) (s : State), unit < 0x4000 ∧ s.answers? unit = true ∧ (wordOffsets offset count).all senKnown
        = false ∧ s.arrives (.read unit offset count tag) = true) ∧
    (∃ (hub offset count tag : Nat) (s : State), Sys2Proof.Inv s = true ∧ hub < 80 ∧ s.works hub = true ∧ veAsleep s (hubAddr hub)
        offset = false ∧ (wordOffsets offset count).all hubKnown = true ∧ s.arrives (.read (hubAddr hub) offset count tag) = true) ∧
    (∃ (unit offset tag : Nat) (words : List Word) (s : State), Sys2Proof.Inv s = true ∧ unit < 0x4000 ∧ s.answers? unit = true ∧
        (wordOffsets offset words.length).all senWritable = true ∧ s.arrives (.write unit offset words tag) = true) ∧
    (∃ (hub offset tag : Nat) (words : List Word) (s : State), Sys2Proof.Inv s = true ∧ hub < 80 ∧ s.works hub = true ∧ veAsleep s
        (hubAddr hub) offset = false ∧ (wordOffsets offset words.length).all hubWritable = true ∧ s.arrives (.write (hubAddr hub)
        offset words tag) = true) :=
  ⟨⟨0, 0x18, 1, 0, up, by decide +kernel⟩,
   ⟨0, 0, hb (fun y => { y with collect := { reading := [0] } }), by decide +kernel⟩,
   ⟨1, 0x40, 1, 0, up, by decide +kernel⟩,
   ⟨0, 0x19, 1, 0, up, by decide +kernel⟩,
   ⟨79, 0x864, 1, 0, up, by decide +kernel⟩,
   ⟨0, 0x10, 0, [1], up, by decide +kernel⟩,
   ⟨0, 0x834, 0, [1], up, by decide +kernel⟩⟩

theorem witness_ProgramAndSeedAccesses :
    (∃ (site tag : Nat) (s : State), Sys2Proof.Inv s = true ∧ s.answers? site = true ∧ s.arrives (.dropCountRead site tag) = true) ∧
    (∃ (site offset tag : Nat) (words : List Word) (s : State), Sys2Proof.Inv s = true ∧ s.answers? site = true ∧ s.mustWait site
        = false ∧ offset + 4 * words.length ≤ 3584 ∧ s.arrives (.programWrite site offset words tag) = true) ∧
    (∃ (site offset tag : Nat) (words : List Word) (s : State), s.answers? site = true ∧ s.mustWait site = false ∧ 3584 < offset +
        4 * words.length ∧ s.arrives (.programWrite site offset words tag) = true) ∧
    (∃ (site offset count tag : Nat) (s : State), s.answers? site = true ∧ s.mustWait site = false ∧ offset + 4 * count ≤ 3584 ∧
        s.arrives (.programRead site offset count tag) = true) ∧
    (∃ (site offset count tag : Nat) (words : List Word) (s : State), Sys2Proof.Inv s = true ∧ s.answers? site = true ∧ s.mustWait
        site = true ∧ s.arrives (.programWrite site offset words tag) = true) ∧
    (∃ (site offset count tag : Nat) (words : List Word) (s : State), Sys2Proof.Inv s = true ∧ s.answers? site = true ∧ s.mustWait
        site = true ∧ s.arrives (.programRead site offset count tag) = true) ∧
    (∃ (hub : Nat) (sampling : Bool) (value : Word) (s : State), Sys2Proof.Inv s = true) :=
  ⟨⟨0, 0, up, by decide +kernel⟩,
   ⟨0, 3580, 0, [1], up, by decide +kernel⟩,
   ⟨0, 3581, 0, [1], up, by decide +kernel⟩,
   ⟨0, 3580, 1, 0, up, by decide +kernel⟩,
   ⟨1, 0, 1, 0, [5], up, by decide +kernel⟩,
   ⟨1, 0, 1, 0, [], up, by decide +kernel⟩,
   ⟨0, true, 1, up, by decide +kernel⟩⟩

theorem witness_WakeAndFrontQueue :
    (∃ (site : Nat) (s : State), Sys2Proof.Inv s = true ∧ (s.senOf site).wakeState = 1 ∧ (s.senOf site).inReset = false) ∧
    (∃ (site : Nat) (s : State), Sys2Proof.Inv s = true ∧ (s.senOf site).wakeState = 1 ∧ (s.senOf site).inReset = true) ∧
    (∃ (site : Nat) (s : State), Sys2Proof.Inv s = true ∧ (s.senOf site).wakeState = 3) ∧
    (∃ (site : Nat) (s : State), Sys2Proof.Inv s = true ∧ (s.senOf site).wakeState = 1) :=
  ⟨⟨0, sn (fun x => { x with wakeState := 1 }), by decide +kernel⟩,
   ⟨0, sn (fun x => { x with wakeState := 1, inReset := true }), by decide +kernel⟩,
   ⟨0, sn (fun x => { x with wakeState := 3 }), by decide +kernel⟩,
   ⟨0, sn (fun x => { x with wakeState := 1 }), by decide +kernel⟩⟩

theorem witness_EventsAndFrontQueue :
    (∃ (site code : Nat) (s : State), Sys2Proof.Inv s = true ∧ Sparse.get false (s.senOf site).evLevel code = true ∧ (s.senOf
        site).evDiff code ≠ 0 ∧ s.mustWait site = false ∧ (s.senOf site).wakeWaiting.contains (.eventLevelRise site code) = false) ∧
    (∃ (site : Nat) (s : State), Sys2Proof.Inv s = true ∧ Sparse.wf 0 (s.senOf site).evTaken = true ∧ s.mustWait site = false ∧
        (s.senOf site).wakeWaiting = []) ∧
    (∃ (site : Nat) (s : State), Sys2Proof.Inv s = true ∧ (s.senOf site).drains < (s.senOf site).fq.length ∧ s.mustWait site =
        true) ∧
    (∃ (site code : Nat) (s : State), Sys2Proof.Inv s = true ∧ Sparse.get false (s.senOf site).evLevel code = true ∧ (s.senOf
        site).evDiff code ≠ 0 ∧ s.mustWait site = true ∧ (s.senOf site).wakeWaiting.contains (.eventLevelRise site code) = false) ∧
    (∃ (site : Nat) (e : FrontEntry) (es : List FrontEntry) (s : State), (s.senOf site).fq = e :: es ∧ (s.senOf site).drains ≤
        es.length ∧ s.mustWait site = false ∧ s.registerTaken e.item = true) ∧
    (∃ (site : Nat) (v : VerdictItem) (d : DetailItem) (e : FrontEntry) (es : List FrontEntry) (s : State), Sys2Proof.Inv s = true
        ∧ (s.senOf site).fq = e :: es ∧ (s.senOf site).drains ≤ es.length ∧ s.mustWait site = false ∧ e.item = .residueVerdict
        site v d ∧ s.registerTaken e.item = false) ∧
    (∃ (site : Nat) (d : StepDoneItem) (e : FrontEntry) (es : List FrontEntry) (s : State), Sys2Proof.Inv s = true ∧ (s.senOf
        site).fq = e :: es ∧ (s.senOf site).drains ≤ es.length ∧ s.mustWait site = false ∧ e.item = .stepDone site d ∧
        s.registerTaken e.item = false) ∧
    (∃ (site unit code : Nat) (raised : Bool) (edge : Edge) (e : FrontEntry) (es : List FrontEntry) (s : State), Sys2Proof.Inv s =
        true ∧ (s.senOf site).fq = e :: es ∧ (s.senOf site).drains ≤ es.length ∧ s.mustWait site = false ∧ e.item = .alarmLevel
        unit code raised edge ∧ s.registerTaken e.item = false) :=
  ⟨⟨0, 0, sn (fun x => { x with evLevel := [(0, true)], evCount := [(0, 1)] }), by decide +kernel⟩,
   ⟨0, up, by decide +kernel⟩,
   ⟨1, modSen 1 (fun x => { x with fq := [{ item := .fenceDone 1 }] }) up, by decide +kernel⟩,
   ⟨1, 0, modSen 1 (fun x => { x with evLevel := [(0, true)], evCount := [(0, 1)] }) up, by decide +kernel⟩,
   ⟨0, { item := .stepDone 0 {} }, [],
       { sn (fun x => { x with fq := [{ item := .stepDone 0 {} }] }) with sent := [.stepDone 0 {}] }, by decide +kernel⟩,
   ⟨0, {}, {}, { item := .residueVerdict 0 {} {} }, [], sn (fun x => { x with fq := [{ item := .residueVerdict 0 {} {} }] }),
       by decide +kernel⟩,
   ⟨0, {}, { item := .stepDone 0 {} }, [], sn (fun x => { x with fq := [{ item := .stepDone 0 {} }] }), by decide +kernel⟩,
   ⟨0, 0, 0, true, {}, { item := .alarmLevel 0 0 true {} }, [], sn (fun x =>
       { x with fq := [{ item := .alarmLevel 0 0 true {} }] }), by decide +kernel⟩⟩

theorem witness_QueueCommandsTraceAndWatches :
    (∃ (site : Nat) (op : QueueOp) (s : State), Sys2Proof.Inv s = true ∧ (s.senOf site).fenced = false ∧ bitOf 1 (Sparse.get ({} :
        Shadow) (s.senOf site).shadow op.queue).state = false ∧ (bitOf 0 (Sparse.get ({} : Shadow) (s.senOf site).shadow
        op.queue).state = false ∨ (Sparse.get ({} : Shadow) (s.senOf site).shadow op.queue).headDesc ≠ headDesc op)) ∧
    (∃ (site : Nat) (op : QueueOp) (s : State), Sys2Proof.Inv s = true ∧ (s.senOf site).fenced = false ∧ bitOf 1 (Sparse.get ({} :
        Shadow) (s.senOf site).shadow op.queue).state = false ∧ bitOf 0 (Sparse.get ({} : Shadow) (s.senOf site).shadow
        op.queue).state = true ∧ (Sparse.get ({} : Shadow) (s.senOf site).shadow op.queue).headDesc = headDesc op) ∧
    (∃ (site : Nat) (op : QueueOp) (s : State), (s.senOf site).fenced = true) ∧
    (∃ (site : Nat) (op : QueueOp) (discarded : Bool) (s : State), Sys2Proof.Inv s = true) :=
  ⟨⟨0, {}, up, by decide +kernel⟩,
   ⟨0, {}, sn (fun x => { x with shadow := [(0, { state := 1, headDesc := List.replicate 8 0 })] }), by decide +kernel⟩,
   ⟨0, {}, sn (fun x => { x with fenced := true }), by decide +kernel⟩,
   ⟨0, {}, true, up, by decide +kernel⟩⟩

theorem witness_TracesWatchesAndSramErrors :
    (∃ (site firing : Nat) (slot : Dword) (s : State), Sys2Proof.Inv s = true ∧ (s.senOf site).armed = true ∧ s.arrives
        (.traceTrigger site firing slot) = true) ∧
    (∃ (site slot : Nat) (y : Staged) (s : State), Sys2Proof.Inv s = true ∧ (s.senOf site).staging.find? (fun y => y.slot = slot)
        = some y) ∧
    (∃ (site : Nat) (path address : Nat) (desc : Desc) (s : State), Sys2Proof.Inv s = true) ∧
    (∃ (site path address : Nat) (desc : Desc) (e : FrontEntry) (es : List FrontEntry) (s : State), Sys2Proof.Inv s = true ∧
        (s.senOf site).fq = e :: es ∧ (s.senOf site).drains ≤ es.length ∧ s.mustWait site = false ∧ e.item = .sramErrorReport site
        true path address desc ∧ s.registerTaken e.item = false) :=
  ⟨⟨0, 1, 0, sn (fun x => { x with ctrlFront := 8, obsFront := [(0x200, 9)], traceState := 1 }), by decide +kernel⟩,
   ⟨0, 0, {}, sn (fun x => { x with staging := [{}] }), by decide +kernel⟩,
   ⟨0, 0, 0, {}, up, by decide +kernel⟩,
   ⟨0, 0, 0, {}, { item := .sramErrorReport 0 true 0 0 {} }, [], sn (fun x =>
       { x with fq := [{ item := .sramErrorReport 0 true 0 0 {} }] }), by decide +kernel⟩⟩

theorem witness_FencesAndTeardowns :
    (∃ (site partition cause : Nat) (s : State), Sys2Proof.Inv s = true ∧ site < 0x4000 ∧ (s.senOf site).silent = false ∧
        s.arrives (.fence site partition cause) = true) ∧
    (∃ (hub partition cause : Nat) (s : State), Sys2Proof.Inv s = true ∧ s.arrives (.fence (hubAddr hub) partition cause) = true) ∧
    (∃ (site : Nat) (f : Fence) (s : State), Sys2Proof.Inv s = true ∧ (s.partOf (s.sitePart site)).fence = some f ∧ f.commitWait =
        false ∧ site ∈ f.waiting ∧ f.waiting.filter (· != site) ≠ [] ∧ s.arrives (.fenceDone site) = true) ∧
    (∃ (site : Nat) (f : Fence) (s : State), Sys2Proof.Inv s = true ∧ (s.partOf (s.sitePart site)).fence = some f ∧ f.commitWait =
        false ∧ site ∈ f.waiting ∧ f.waiting.filter (· != site) = [] ∧ (s.partOf (s.sitePart site)).tearing = 0 ∧ f.dirty = false
        ∧ s.arrives (.fenceDone site) = true) ∧
    (∃ (p : Nat) (f : Fence) (s : State), Sys2Proof.Inv s = true ∧ (s.partOf p).fence = some f ∧ f.commitWait = false ∧ f.waiting
        ≠ []) ∧
    (∃ (p : Nat) (f : Fence) (s : State), Sys2Proof.Inv s = true ∧ (s.partOf p).fence = some f ∧ f.commitWait = true ∧
        s.actionSites p ≠ []) ∧
    (∃ (site : Nat) (expects : Bool) (s : State), Sys2Proof.Inv s = true ∧ (s.partOf (s.sitePart site)).state ∈ [3, 4, 5, 7]) ∧
    (∃ (p context reads writes : Nat) (s : State), (∀ f, (s.partOf p).fence = some f → f.commitWait = true ∨ f.waiting ≠ []) ∧
        Sys2Proof.Inv s = true ∧ bitOf context (s.partOf p).tearing = true) :=
  ⟨⟨0, 0, 1, up, by decide +kernel⟩,
   ⟨0, 0, 1, up, by decide +kernel⟩,
   ⟨0, { waiting := [0, 1] }, pt (fun x => { x with state := 3, fence := some { waiting := [0, 1] } }), by decide +kernel⟩,
   ⟨0, { waiting := [0] }, pt (fun x => { x with state := 3, fence := some { waiting := [0] } }), by decide +kernel⟩,
   ⟨0, { waiting := [0] }, pt (fun x => { x with state := 3, fence := some { waiting := [0] } }), by decide +kernel⟩,
   ⟨0, { commitWait := true }, pt (fun x => { x with state := 3, fence := some { commitWait := true } }), by decide +kernel⟩,
   ⟨0, true, pt (fun x => { x with state := 4 }), by decide +kernel⟩,
   ⟨0, 1, 0, 0, pt (fun x => { x with tearing := 2 }), forall_some (by decide +kernel), by decide +kernel⟩⟩

theorem witness_TileAndPartitionResets :
    (∃ (site cause : Nat) (s : State), Sys2Proof.Inv s = true ∧ (s.senOf site).silent = false ∧ ¬ (cause = 1 ∧ s.repeatPending
        site = true)) ∧
    (∃ (site cause : Nat) (s : State), Sys2Proof.Inv s = true ∧ (s.senOf site).silent = true ∧ ¬ (cause = 1 ∧ s.repeatPending site
        = true)) ∧
    (∃ (site : Nat) (s : State), Sys2Proof.Inv s = true ∧ (s.senOf site).inReset = true ∧ (s.partOf (s.sitePart site)).reset =
        none ∧ s.arrives (.resetDone site) = true) ∧
    (∃ (site : Nat) (r : Reset) (s : State), Sys2Proof.Inv s = true ∧ (s.senOf site).inReset = true ∧ (s.partOf (s.sitePart
        site)).reset = some r ∧ (r.waiting.filter (· != site) ≠ [] ∨ r.memory = false) ∧ s.arrives (.resetDone site) = true) ∧
    (∃ (site : Nat) (r : Reset) (s : State), Sys2Proof.Inv s = true ∧ (s.partOf (s.sitePart site)).reset = some r ∧ site ∈
        r.waiting ∧ ((s.senOf site).resetCause = 0 ∨ (s.senOf site).resetCause = 4)) ∧
    (∃ (p : Nat) (r : Reset) (s : State), Sys2Proof.Inv s = true ∧ (s.partOf p).reset = some r ∧ r.waiting ≠ []) ∧
    (∃ (p : Nat) (r : Reset) (s : State) (failing : _), Sys2Proof.Inv s = true ∧ (s.partOf p).reset = some r ∧ failing ≠ 0xFF) ∧
    (∃ (p : Nat) (r : Reset) (s : State), Sys2Proof.Inv s = true ∧ (s.partOf p).reset = some r ∧ r.waiting = [] ∧ r.keepJob = true
        ∧ (s.partOf p).job.isSome = true ∧ (s.partOf p).state ≠ 7 ∧ (s.partOf p).hang = none) ∧
    (∃ (p : Nat) (h : Hang) (s : State), Sys2Proof.Inv s = true ∧ (s.partOf p).state = 6 ∧ (s.partOf p).hang = some h ∧
        h.current.isSome = true ∧ (s.partOf p).fence = none ∧ (s.partOf p).reset = none) :=
  ⟨⟨0, 2, up, by decide +kernel⟩,
   ⟨0, 2, sn (fun x => { x with silent := true }), by decide +kernel⟩,
   ⟨0, sn (fun x => { x with inReset := true }), by decide +kernel⟩,
   ⟨0, { waiting := [0, 1] }, modSen 0 (fun x => { x with inReset := true }) (pt (fun x =>
       { x with state := 5, reset := some { waiting := [0, 1] } })), by decide +kernel⟩,
   ⟨0, { waiting := [0] }, pt (fun x => { x with state := 5, reset := some { waiting := [0] } }), by decide +kernel⟩,
   ⟨0, { waiting := [0] }, pt (fun x => { x with state := 5, reset := some { waiting := [0] } }), by decide +kernel⟩,
   ⟨0, {}, pt (fun x => { x with state := 5, reset := some {} }), 3, by decide +kernel⟩,
   ⟨0, { keepJob := true }, pt (fun x => { x with state := 5, reset := some { keepJob := true } }), by decide +kernel⟩,
   ⟨0, { current := some 0 }, pt (fun x => { x with state := 6, hang := some { current := some 0 } }), by decide +kernel⟩⟩

theorem witness_LogAndIdentityCommands :
    (∃ (seq : Nat) (c : Cmd) (s : State), Runs s seq 0x0001 c ∧ Sys2Proof.Inv s = true) ∧
    (∃ (seq : Nat) (c : Cmd) (s : State), Runs s seq 0x0002 c ∧ Sys2Proof.Inv s = true) ∧
    (∃ (seq : Nat) (c : Cmd) (s : State), Runs s seq 0x0010 c ∧ Sys2Proof.Inv s = true ∧ s.recorder.frozen = false ∧
        s.recorder.staging = []) ∧
    (∃ (seq : Nat) (c : Cmd) (s : State), Runs s seq 0x0011 c ∧ Sys2Proof.Inv s = true ∧ s.recorder.frozen = true) ∧
    (∃ (seq : Nat) (c : Cmd) (s : State), Runs s seq 0x0012 c ∧ Sys2Proof.Inv s = true ∧ s.recorder.frozen = false) ∧
    (∃ (seq : Nat) (c : Cmd) (s : State), Runs s seq 0x0013 c ∧ Sys2Proof.Inv s = true ∧ s.recorder.running = true ∧
        s.recorder.powerFail = false ∧ s.recorder.frozen = false ∧ Sparse.get 0 s.recorder.taken 0x8001 < (s.rate 0x8001).2 ∧
        queueBytes s.recorder.intake + (16 + (pad4 (le 1 c.channel ++ le 3 0 ++ c.bulk)).length + 4) < 131072) ∧
    (∃ (seq : Nat) (c : Cmd) (s : State), Runs s seq 0x0020 c ∧ Sys2Proof.Inv s = true) :=
  ⟨⟨1, ck 0x0001 ([]) ([]), runs (ck 0x0001 ([]) ([])), by unfold Runs; decide +kernel, by decide +kernel⟩,
   ⟨1, ck 0x0002 ([]) ([]), runs (ck 0x0002 ([]) ([])), by unfold Runs; decide +kernel, by decide +kernel⟩,
   ⟨1, ck 0x0010 ([]) ([]), runs (ck 0x0010 ([]) ([])), by unfold Runs; decide +kernel, by decide +kernel⟩,
   ⟨1, ck 0x0011 ([]) ([]), runs (ck 0x0011 ([]) ([])) ({ up with recorder := { frozen := true } }),
       by unfold Runs; decide +kernel, by decide +kernel⟩,
   ⟨1, ck 0x0012 ([]) ([]), runs (ck 0x0012 ([]) ([])), by unfold Runs; decide +kernel, by decide +kernel⟩,
   ⟨1, ck 0x0013 ([]) ([1, 2, 3, 4]), runs (ck 0x0013 ([]) ([1, 2, 3, 4])), by unfold Runs; decide +kernel, by decide +kernel⟩,
   ⟨1, ck 0x0020 (le 8 5) ([]), runs (ck 0x0020 (le 8 5) ([])), by unfold Runs; decide +kernel, by decide +kernel⟩⟩

theorem witness_HealthCommands :
    (∃ (seq : Nat) (c : Cmd) (s : State), Runs s seq 0x0100 c ∧ Sys2Proof.Inv s = true ∧ 0 < c.arg 2 2 ∧ c.arg 0 2 + c.arg 2 2 ≤
        13440) ∧
    (∃ (seq : Nat) (c : Cmd) (s : State), Runs s seq 0x0104 c ∧ Sys2Proof.Inv s = true ∧ c.arg 0 1 ≤ 4 ∧ c.arg 8 4 ≤ historyLimit
        (c.arg 0 1)) ∧
    (∃ (seq : Nat) (c : Cmd) (s : State), Runs s seq 0x0101 c ∧ Sys2Proof.Inv s = true ∧ c.arg 0 2 < 13440 ∧ s.blocked 3 0 (c.arg
        0 2) = false ∧ (s.siteRec (c.arg 0 2)).state = 1) ∧
    (∃ (seq op new : Nat) (c : Cmd) (s : State), Runs s seq op c ∧ Sys2Proof.Inv s = true ∧ c.arg 0 2 < 13440 ∧ s.blocked 3 0
        (c.arg 0 2) = false ∧ (s.siteRec (c.arg 0 2)).serving = true ∧ s.hasJob (s.sitePart (c.arg 0 2)) = false ∧ s.candidate
        (c.arg 0 2) 14 = some new ∧ new ≠ c.arg 0 2 ∧ op = 0x0101) ∧
    (∃ (seq op new : Nat) (c : Cmd) (s : State), Runs s seq op c ∧ Sys2Proof.Inv s = true ∧ c.arg 0 2 < 13440 ∧ s.blocked 3 0
        (c.arg 0 2) = false ∧ (s.siteRec (c.arg 0 2)).serving = true ∧ s.hasJob (s.sitePart (c.arg 0 2)) = false ∧ s.candidate
        (c.arg 0 2) 14 = some new ∧ new ≠ c.arg 0 2 ∧ op = 0x0402) ∧
    (∃ (seq : Nat) (c : Cmd) (s : State), Runs s seq 0x0102 c ∧ Sys2Proof.Inv s = true ∧ c.arg 0 2 < 13440 ∧ bitOf 0 (c.arg 2 1) =
        false ∧ (s.siteRec (c.arg 0 2)).state = 6 ∧ s.deepPassed.contains (c.arg 0 2) = true) ∧
    (∃ (seq : Nat) (c : Cmd) (s : State), Runs s seq 0x0103 c ∧ Sys2Proof.Inv s = true ∧ c.arg 0 2 < 13440 ∧ c.arg 2 1 = 0 ∧
        s.blocked 4 0 (c.arg 0 2) = false ∧ ((s.siteRec (c.arg 0 2)).state = 1 ∨ (s.siteRec (c.arg 0 2)).state = 6 ∨ (s.siteRec
        (c.arg 0 2)).serving = true)) ∧
    (∃ (seq : Nat) (c : Cmd) (s : State), Runs s seq 0x0105 c ∧ Sys2Proof.Inv s = true ∧ c.arg 0 2 < 13440 ∧ ((s.siteRec (c.arg 0
        2)).state = 1 ∨ (s.siteRec (c.arg 0 2)).state = 6)) :=
  ⟨⟨1, ck 0x0100 (le 2 13439 ++ le 2 1) ([]), runs (ck 0x0100 (le 2 13439 ++ le 2 1) ([])), by unfold Runs; decide +kernel,
       by decide +kernel⟩,
   ⟨1, ck 0x0104 (le 4 4 ++ le 4 0 ++ le 4 0) ([]), runs (ck 0x0104 (le 4 4 ++ le 4 0 ++ le 4 0) ([])),
       by unfold Runs; decide +kernel, by decide +kernel⟩,
   ⟨1, ck 0x0101 (le 4 1) ([]), runs (ck 0x0101 (le 4 1) ([])), by unfold Runs; decide +kernel, by decide +kernel⟩,
   ⟨1, 0x0101, 1, ck 0x0101 (le 4 0), runs (ck 0x0101 (le 4 0)) (pt (fun x => { x with state := 1, job := none })),
       by unfold Runs; decide +kernel, by decide +kernel⟩,
   ⟨1, 0x0402, 1, ck 0x0402 (le 4 0), runs (ck 0x0402 (le 4 0)) (pt (fun x => { x with state := 1, job := none })),
       by unfold Runs; decide +kernel, by decide +kernel⟩,
   ⟨1, ck 0x0102 (le 4 0) ([]), runs (ck 0x0102 (le 4 0) ([]))
       ({ rc (fun r => { r with state := 6, logical := 0xFFFF }) with deepPassed := [0] }), by unfold Runs; decide +kernel,
       by decide +kernel⟩,
   ⟨1, ck 0x0103 (le 4 0) ([]), runs (ck 0x0103 (le 4 0) ([])), by unfold Runs; decide +kernel, by decide +kernel⟩,
   ⟨1, ck 0x0105 (le 4 1) ([]), runs (ck 0x0105 (le 4 1) ([])), by unfold Runs; decide +kernel, by decide +kernel⟩⟩

theorem witness_PartitionCommands :
    (∃ (seq : Nat) (c : Cmd) (s : State), Runs s seq 0x0200 c ∧ Sys2Proof.Inv s = true ∧ c.arg 0 1 < 16 ∧ c.arg 2 2 ≠ 0 ∧
        ((s.partOf (c.arg 0 1)).state = 0 ∨ (s.partOf (c.arg 0 1)).state = 1) ∧ (∀ r < 16, bitOf r (c.arg 2 2) = true →
        s.regionDown r = false ∧ (s.regionPart r = 0xFF ∨ s.regionPart r = c.arg 0 1 ∨ (s.partOf (s.regionPart r)).state = 1)) ∧
        (∀ x ∈ s.maskSectors (c.arg 2 2), x ∉ s.boot.short)) ∧
    (∃ (seq : Nat) (c : Cmd) (s : State), Runs s seq 0x0201 c ∧ Sys2Proof.Inv s = true ∧ c.arg 0 1 < 16 ∧ s.stop.state = 0 ∧
        ((s.partOf (c.arg 0 1)).state = 1 ∨ (s.partOf (c.arg 0 1)).state = 2) ∧ (s.partOf (c.arg 0 1)).fence = none ∧ (s.partOf
        (c.arg 0 1)).reset = none ∧ (s.partOf (c.arg 0 1)).hang = none ∧ (s.partOf (c.arg 0 1)).swaps = [] ∧ s.actionSites (c.arg
        0 1) ≠ []) ∧
    (∃ (seq : Nat) (c : Cmd) (s : State), Runs s seq 0x0202 c ∧ Sys2Proof.Inv s = true ∧ c.arg 0 1 < 16 ∧ c.arg 1 1 = 0 ∧
        s.stop.state = 0 ∧ ((s.partOf (c.arg 0 1)).state = 1 ∨ (s.partOf (c.arg 0 1)).state = 2) ∧ (s.partOf (c.arg 0 1)).fence =
        none ∧ (s.partOf (c.arg 0 1)).reset = none ∧ (s.partOf (c.arg 0 1)).swaps = [] ∧ s.actionSites (c.arg 0 1) ≠ []) ∧
    (∃ (seq : Nat) (c : Cmd) (s : State), Runs s seq 0x0203 c ∧ Sys2Proof.Inv s = true ∧ c.arg 0 1 < 16 ∧ s.stop.state ≠ 3 ∧
        (s.partOf (c.arg 0 1)).state = 4) ∧
    (∃ (seq : Nat) (c : Cmd) (s : State), Runs s seq 0x0204 c ∧ Sys2Proof.Inv s = true ∧ c.arg 0 1 < 16 ∧ c.arg 1 1 ≠ 0 ∧ c.arg 1
        1 &&& (s.partOf (c.arg 0 1)).openSet = c.arg 1 1 ∧ (s.partOf (c.arg 0 1)).state = 4) ∧
    (∃ (seq : Nat) (c : Cmd) (s : State), Runs s seq 0x0204 c ∧ Sys2Proof.Inv s = true ∧ c.arg 1 1 ≠ 0 ∧ c.arg 1 1 &&& (s.partOf
        (c.arg 0 1)).tearing = c.arg 1 1 ∧ (s.partOf (c.arg 0 1)).state = 3) :=
  ⟨⟨1, ck 0x0200 (le 2 15 ++ le 2 0x8000) ([]), runs (ck 0x0200 (le 2 15 ++ le 2 0x8000) ([])), by unfold Runs; decide +kernel,
       by decide +kernel⟩,
   ⟨1, ck 0x0201 (le 4 0) ([]), runs (ck 0x0201 (le 4 0) ([])), by unfold Runs; decide +kernel, by decide +kernel⟩,
   ⟨1, ck 0x0202 (le 4 0) ([]), runs (ck 0x0202 (le 4 0) ([])), by unfold Runs; decide +kernel, by decide +kernel⟩,
   ⟨1, ck 0x0203 (le 4 0) ([]), runs (ck 0x0203 (le 4 0) ([])) (pt (fun x => { x with state := 4 })),
       by unfold Runs; decide +kernel, by decide +kernel⟩,
   ⟨1, ck 0x0204 (le 1 0 ++ le 1 1 ++ le 2 0) ([]), runs (ck 0x0204 (le 1 0 ++ le 1 1 ++ le 2 0) ([])) (pt (fun x =>
       { x with state := 4, open_ := 1 })), by unfold Runs; decide +kernel, by decide +kernel⟩,
   ⟨1, ck 0x0204 (le 1 0 ++ le 1 1 ++ le 2 0) ([]), runs (ck 0x0204 (le 1 0 ++ le 1 1 ++ le 2 0) ([])) (pt (fun x =>
       { x with state := 3, tearing := 1 })), by unfold Runs; decide +kernel, by decide +kernel⟩⟩

theorem witness_JobCommands :
    (∃ (seq : Nat) (c : Cmd) (s : State), Runs s seq 0x0300 c ∧ Sys2Proof.Inv s = true ∧ s.attachBad c.bulk = false ∧
        s.attachUnavailable c.bulk = false ∧ (s.partOf (field c.bulk 0 1)).state = 1 ∧ s.stop.state ≠ 3 ∧ (field c.bulk 116 4 = 0
        ∨ field c.bulk 116 4 = s.image.fwVersion) ∧ (s.partOf (field c.bulk 0 1)).degraded = false ∧ s.bootScreens (field c.bulk 0
        1) = false ∧ s.partHubs (field c.bulk 0 1) ≠ [] ∧ (∀ x ∈ s.health, bitOf (regionOf (sectorOf x.1)) (s.partOf (field c.bulk
        0 1)).regions = true → x.2.suspect = false)) ∧
    (∃ (seq : Nat) (c : Cmd) (s : State), Runs s seq 0x0300 c ∧ field c.bulk 0 1 < 16 ∧ s.bootScreens (field c.bulk 0 1) = true) ∧
    (∃ (seq : Nat) (c : Cmd) (s : State), Runs s seq 0x0301 c ∧ Sys2Proof.Inv s = true ∧ c.arg 0 1 < 16 ∧ (s.partOf (c.arg 0
        1)).state = 2 ∧ (s.partOf (c.arg 0 1)).boundarySeqs = [] ∧ (s.partOf (c.arg 0 1)).swaps = [] ∧ (s.partOf (c.arg 0 1)).load
        = none ∧ (s.partOf (c.arg 0 1)).starting = none) ∧
    (∃ (seq : Nat) (c : Cmd) (s : State), Runs s seq 0x0302 c ∧ Sys2Proof.Inv s = true ∧ c.arg 0 1 < 16 ∧ 0 < c.arg 2 2 ∧ c.arg 2
        2 ≤ 256) ∧
    (∃ (seq : Nat) (c : Cmd) (s : State), Runs s seq 0x0303 c ∧ Sys2Proof.Inv s = true ∧ c.arg 0 1 < 16 ∧ 0 < c.arg 2 2 ∧ c.arg 2
        2 ≤ 255) :=
  ⟨⟨1, ck 0x0300 ([]) (jobBulk), runs (ck 0x0300 ([]) (jobBulk)) (jobReady), by unfold Runs; decide +kernel, by decide +kernel⟩,
   ⟨1, ck 0x0300 ([]) (jobBulk), runs (ck 0x0300 ([]) (jobBulk))
       ({ jobReady with boot := { up.boot with deep := [0] }, screens := [(0, some { kind := 3 })] }),
       by unfold Runs; decide +kernel, by decide +kernel⟩,
   ⟨1, ck 0x0301 (le 4 0) ([]), runs (ck 0x0301 (le 4 0) ([])), by unfold Runs; decide +kernel, by decide +kernel⟩,
   ⟨1, ck 0x0302 (le 2 0 ++ le 2 256 ++ le 4 0) ([]), runs (ck 0x0302 (le 2 0 ++ le 2 256 ++ le 4 0) ([])),
       by unfold Runs; decide +kernel, by decide +kernel⟩,
   ⟨1, ck 0x0303 (le 2 0 ++ le 2 255 ++ le 4 0) ([]), runs (ck 0x0303 (le 2 0 ++ le 2 255 ++ le 4 0) ([])),
       by unfold Runs; decide +kernel, by decide +kernel⟩⟩

theorem witness_WindowAccesses :
    (∃ (addr size : Nat) (priv : Priv) (s : State), s.windowUp = true ∧ s.mayRead (addr / 4 * 4) priv = true) ∧
    (∃ (addr size : Nat) (priv : Priv) (s : State), s.windowUp = true ∧ s.mayRead (addr / 4 * 4) priv = false) ∧
    (∃ (value : Word) (priv : Priv) (s : State) (off : Nat), s.windowUp = true ∧ s.mayWrite off priv = false) ∧
    (∃ (value : Word) (priv : Priv) (s : State), s.windowUp = true ∧ 1 ≤ priv.level) ∧
    (∃ (value : Word) (priv : Priv) (s : State), s.windowUp = true) ∧
    (∃ (value : Word) (priv : Priv) (s : State) (off size : Nat), s.windowUp = true ∧ size ≠ 4) ∧
    (∃ (value : Word) (priv : Priv) (s : State) (off : Nat), s.windowUp = true ∧ Sys2Proof.Inv s = true ∧ 0x4000 ≤ off ∧ off <
        0x8000 ∧ off % 4 = 0 ∧ s.win.bulkOpen priv = true ∧ s.win.bulkLocked = false) ∧
    (∃ (priv : Priv) (s : State), s.windowUp = true ∧ s.badSelect s.win.cntSelect = false ∧ s.cntAllowed s.win.cntSelect priv =
        true) ∧
    (∃ (value : Word) (priv : Priv) (s : State), s.windowUp = true ∧ priv.level = 2 ∧ value.toNat % 4 ≠ s.win.jtag) ∧
    (∃ (access : Access) (s : State), s.active = 1 ∧ (receive (.windowForward access) s).windowUp = true) ∧
    (∃ (s : State), Sys2Proof.Inv s = true ∧ s.powered = true) :=
  ⟨⟨0x910, 4, {}, up, by decide +kernel⟩,
   ⟨0x800, 4, {}, up, by decide +kernel⟩,
   ⟨0, {}, up, 0x800, by decide +kernel⟩,
   ⟨0, { level := 1 }, up, by decide +kernel⟩,
   ⟨0, {}, up, by decide +kernel⟩,
   ⟨0, {}, up, 0, 2, by decide +kernel⟩,
   ⟨0, {}, modWin (fun v => { v with bulkOwner := some 0 }) up, 0x7FFC, by decide +kernel⟩,
   ⟨{ level := 1 }, up, by decide +kernel⟩,
   ⟨3, { level := 2 }, up, by decide +kernel⟩,
   ⟨{}, { up with active := 1 }, by decide +kernel⟩,
   ⟨up, by decide +kernel⟩⟩

theorem witness_MailboxProtocol :
    (∃ (ch : Nat) (priv : Priv) (s : State), Sys2Proof.Inv s = true ∧ (ch = 0 ∨ ch = 2 ∨ ch = 3) ∧ s.windowUp = true ∧ s.serving =
        true ∧ (s.channelOf ch).ackPending = false ∧ s.refusal ch ((s.channelOf ch).reqOp.toNat % 65536) (s.channelOf
        ch).inlineLen (s.channelOf ch).bulkLen = 0) ∧
    (∃ (ch : Nat) (priv : Priv) (s : State), Sys2Proof.Inv s = true ∧ (ch = 0 ∨ ch = 2 ∨ ch = 3) ∧ s.windowUp = true ∧ s.serving =
        true ∧ (s.channelOf ch).ackPending = false ∧ s.refusal ch ((s.channelOf ch).reqOp.toNat % 65536) (s.channelOf
        ch).inlineLen (s.channelOf ch).bulkLen ≠ 0) ∧
    (∃ (seq : Nat) (c : Cmd) (s : State), Sys2Proof.Inv s = true ∧ s.cmd seq = some c ∧ c.began = false ∧ c.done = false ∧
        c.orphan = false ∧ s.serving = true ∧ s.mayBegin c = true ∧ c.denied = false ∧ c.lengthsOk = true ∧ c.reservedOk = true) ∧
    (∃ (seq : Nat) (c : Cmd) (s : State), Sys2Proof.Inv s = true ∧ s.cmd seq = some c ∧ c.began = false ∧ c.done = false ∧
        c.orphan = false ∧ s.serving = true ∧ s.mayBegin c = true ∧ c.denied = true) ∧
    (∃ (seq : Nat) (c : Cmd) (s : State), Sys2Proof.Inv s = true ∧ s.cmd seq = some c ∧ c.began = false ∧ c.done = false ∧
        c.orphan = false ∧ s.serving = true ∧ s.mayBegin c = true ∧ c.denied = false ∧ (c.lengthsOk = false ∨ c.reservedOk =
        false)) ∧
    (∃ (ch : Nat) (s : State), Sys2Proof.Inv s = true ∧ (ch = 0 ∨ ch = 2 ∨ ch = 3) ∧ s.windowUp = true ∧ (s.channelOf ch).cplValid
        = true) ∧
    (∃ (ch : Nat) (priv : Priv) (s : State), (ch = 0 ∨ ch = 2 ∨ ch = 3) ∧ s.windowUp = true ∧ s.win.bulkOwner = none) ∧
    (∃ (ch : Nat) (priv : Priv) (s : State), (ch = 0 ∨ ch = 2 ∨ ch = 3) ∧ s.windowUp = true ∧ s.win.bulkOwner ≠ none) ∧
    (∃ (ch : Nat) (s : State), (ch = 0 ∨ ch = 2 ∨ ch = 3) ∧ s.windowUp = true ∧ s.win.bulkOwner = some ch ∧ s.win.bulkLocked =
        false) ∧
    (∃ (ch : Nat) (s : State), (ch = 0 ∨ ch = 2 ∨ ch = 3) ∧ s.windowUp = true ∧ s.win.bulkOwner = some ch ∧ s.win.bulkLocked =
        true) :=
  ⟨⟨3, {}, modChannel 3 (fun c => { c with reqOp := 1 }) up, by decide +kernel⟩,
   ⟨0, {}, up, by decide +kernel⟩,
   ⟨1, { ck 2 with began := false }, runs ({ ck 2 with began := false }), by decide +kernel⟩,
   ⟨1, { ck 0x0F00 with began := false, priv := {} }, runs ({ ck 0x0F00 with began := false, priv := {} }), by decide +kernel⟩,
   ⟨1, { ck 2 [1] with began := false }, runs ({ ck 2 [1] with began := false }), by decide +kernel⟩,
   ⟨0, modChannel 0 (fun c => { c with cplValid := true }) up, by decide +kernel⟩,
   ⟨0, {}, up, by decide +kernel⟩,
   ⟨0, {}, modWin (fun v => { v with bulkOwner := some 2 }) up, by decide +kernel⟩,
   ⟨0, modWin (fun v => { v with bulkOwner := some 0 }) up, by decide +kernel⟩,
   ⟨0, modWin (fun v => { v with bulkOwner := some 0, bulkLocked := true }) up, by decide +kernel⟩⟩

theorem witness_OutOfBandPort :
    (∃ (die : Nat) (physical integrity : Bool) (s : State), die ≤ 1 ∧ s.answersControl die physical integrity = true) ∧
    (∃ (die eid : Nat) (physical integrity : Bool) (s : State), die ≤ 1 ∧ s.answersControl die physical integrity = true ∧ 8 ≤ eid
        ∧ eid < 255) ∧
    (∃ (die eid : Nat) (physical integrity : Bool) (s : State), die ≤ 1 ∧ s.answersControl die physical integrity = true ∧ (eid <
        8 ∨ 255 ≤ eid)) ∧
    (∃ (die msgType command : Nat) (physical integrity : Bool) (s : State), die ≤ 1 ∧ s.portUp die = true ∧ msgType = 0 ∧
        s.answersControl die physical integrity = true ∧ controlSupported command = false) ∧
    (∃ (die msgType command : Nat) (physical integrity : Bool) (s : State), die ≤ 1 ∧ s.portUp die = true ∧ msgType ≠ 0 ∧ msgType
        ≠ 0x7E) ∧
    (∃ (m : OobMsg) (s : State), m.vendor = Config.vendorId ∧ m.die ≤ 1 ∧ s.portUp m.die = true ∧ m.pecBad = false ∧ m.overlapped
        = false ∧ m.integrity = false ∧ (s.port m.die).assigned = true ∧ m.kind = 0 ∧ m.die ≠ s.active ∧ (∀ l ∈ s.links, l.kind ≠
        3)) ∧
    (∃ (m : OobMsg) (s : State), m.vendor = Config.vendorId ∧ m.die ≤ 1 ∧ s.portUp m.die = true ∧ m.pecBad = false ∧ m.overlapped
        = false ∧ m.integrity = false ∧ (s.port m.die).assigned = true ∧ m.kind = 0 ∧ m.die = s.active ∧ Sys2Proof.Inv s = true ∧
        (s.channelOf 1).ackPending = false ∧ s.serving = false) ∧
    (∃ (m : OobMsg) (s : State), Sys2Proof.Inv s = true ∧ (∀ l ∈ s.links, l.kind ≠ 3) ∧ (s.channelOf 1).ackPending = false ∧
        s.serving = false) ∧
    (∃ (m : OobMsg) (s : State), Sys2Proof.Inv s = true ∧ (∀ l ∈ s.links, l.kind ≠ 3) ∧ (s.channelOf 1).ackPending = false ∧
        s.serving = true) ∧
    (∃ (die seq n : Nat) (m : Nat × List Byte) (s : State), die ≤ 1 ∧ (s.port die).retry = some (seq, n) ∧ (s.port die).completion
        seq = some m ∧ n < 3) ∧
    (∃ (die seq n : Nat) (m : Nat × List Byte) (s : State), die ≤ 1 ∧ (s.port die).retry = some (seq, n) ∧ (s.port die).completion
        seq = some m ∧ 3 ≤ n ∧ (s.channelOf 1).cplValid = true ∧ (s.channelOf 1).waiting = [] ∧ Sys2Proof.Inv s = true) ∧
    (∃ (die : Nat) (s : State), die ≤ 1) :=
  ⟨⟨1, true, false, up, by decide +kernel⟩,
   ⟨1, 254, true, false, up, by decide +kernel⟩,
   ⟨0, 255, true, false, up, by decide +kernel⟩,
   ⟨0, 0, 3, true, false, up, by decide +kernel⟩,
   ⟨0, 1, 0, true, false, up, by decide +kernel⟩,
   ⟨{ die := 1, vendor := Config.vendorId }, { up with portB := { assigned := true } }, rfl, by decide +kernel⟩,
   ⟨{ vendor := Config.vendorId }, { up with portA := { assigned := true }, failover := true }, rfl, by decide +kernel⟩,
   ⟨{}, { up with failover := true }, by decide +kernel⟩,
   ⟨{}, up, by decide +kernel⟩,
   ⟨0, 1, 2, (0, oobDone), { up with portA := { retry := some (1, 2), tx := [(0, oobDone)] } }, by decide +kernel⟩,
   ⟨0, 1, 3, (0, oobDone), modChannel 1 (fun c => { c with cplValid := true })
       { up with portA := { retry := some (1, 3), tx := [(0, oobDone)] } }, by decide +kernel⟩,
   ⟨1, up, by decide +kernel⟩⟩

theorem witness_TapInstructions :
    (∃ (die : Nat) (s : State), die ≤ 1) ∧
    (∃ (die : Nat) (s : State), die ≤ 1 ∧ s.powered = true) ∧
    (∃ (die ir kind : Nat) (s : State), die ≤ 1 ∧ s.powered = true ∧ bitOf die s.win.jtag = false) ∧
    (∃ (die ir kind : Nat) (s : State), die ≤ 1 ∧ s.powered = true ∧ bitOf die s.win.jtag = true ∧ kind ≠ 5) ∧
    (∃ (die ir kind : Nat) (s : State), die ≤ 1 ∧ s.powered = true ∧ bitOf die s.win.jtag = true ∧ kind = 5) :=
  ⟨⟨1, up, by decide +kernel⟩,
   ⟨1, up, by decide +kernel⟩,
   ⟨0, 1, 0, up, by decide +kernel⟩,
   ⟨0, 1, 0, modWin (fun v => { v with jtag := 1 }) up, by decide +kernel⟩,
   ⟨1, 1, 5, modWin (fun v => { v with jtag := 2 }) up, by decide +kernel⟩⟩

theorem witness_ImageAndSettingsCommands :
    (∃ (seq : Nat) (c : Cmd) (s : State), Runs s seq 0x0700 c ∧ Sys2Proof.Inv s = true ∧ c.arg 0 4 = 0 ∧ c.bulk.length % 16 = 0 ∧
        c.bulk.length ≤ 16384) ∧
    (∃ (seq : Nat) (c : Cmd) (s : State), Runs s seq 0x0700 c ∧ Sys2Proof.Inv s = true ∧ c.arg 0 4 ≠ 0 ∧ c.arg 0 4 = s.stageNext ∧
        s.stageOpen = true ∧ s.trialPending = false ∧ c.bulk.length % 16 = 0 ∧ c.bulk.length ≤ 16384 ∧ c.arg 0 4 + c.bulk.length ≤
        slotSize) ∧
    (∃ (seq : Nat) (authenticA authenticB : Bool) (tests : PowerUp) (c : Cmd) (s : State), Runs s seq 0x0701 c ∧ Sys2Proof.Inv s =
        true ∧ c.arg 0 1 = 0 ∧ s.boot.recovery = false) ∧
    (∃ (seq : Nat) (c : Cmd) (s : State), Runs s seq 0x0702 c ∧ Sys2Proof.Inv s = true ∧ s.blocked 1 3 0 = false ∧ s.setBusy =
        none) ∧
    (∃ (seq : Nat) (tests : PowerUp) (c : Cmd) (s : State), Runs s seq 0x0202 c ∧ Sys2Proof.Inv s = true ∧ c.arg 1 1 = 1 ∧ c.arg 2
        2 = 0 ∧ c.arg 0 1 < 16 ∧ s.boot.ready = true) :=
  ⟨⟨1, ck 0x0700 (le 4 0) (List.replicate 16 0), runs (ck 0x0700 (le 4 0) (List.replicate 16 0)), by unfold Runs; decide +kernel,
       by decide +kernel⟩,
   ⟨1, ck 0x0700 (le 4 16) (List.replicate 16 0), runs (ck 0x0700 (le 4 16) (List.replicate 16 0))
       ({ up with stageOpen := true, stageNext := 16 }), by unfold Runs; decide +kernel, by decide +kernel⟩,
   ⟨1, true, true, {}, ck 0x0701 (le 4 0), runs (ck 0x0701 (le 4 0)), by unfold Runs; decide +kernel, by decide +kernel⟩,
   ⟨1, ck 0x0702 ([]) ([]), runs (ck 0x0702 ([]) ([])), by unfold Runs; decide +kernel, by decide +kernel⟩,
   ⟨1, {}, ck 0x0202 (le 1 15 ++ le 1 1 ++ le 2 0), runs (ck 0x0202 (le 1 15 ++ le 1 1 ++ le 2 0)),
       by unfold Runs; decide +kernel, by decide +kernel⟩⟩

theorem witness_LinkAndManagerCommands :
    (∃ (seq result time : Nat) (settings : List Byte) (c : Cmd) (s : State), Runs s seq 0x0400 c ∧ Sys2Proof.Inv s = true ∧ c.arg
        1 1 < netMax (c.arg 0 1) ∧ c.arg 2 1 ≤ 2 ∧ c.arg 1 1 < s.netCount (c.arg 0 1) ∧ s.netInUse (c.arg 0 1) (c.arg 1 1) =
        false) ∧
    (∃ (seq : Nat) (c : Cmd) (s : State), Runs s seq 0x0401 c ∧ Sys2Proof.Inv s = true) ∧
    (∃ (seq : Nat) (journalOk : Bool) (c : Cmd) (s : State), Runs s seq 0x0F00 c ∧ Sys2Proof.Inv s = true ∧ s.image.grade ≠ 2 ∧
        s.failover = false ∧ s.standby = true ∧ s.checked = true ∧ s.hubs ≠ []) :=
  ⟨⟨1, 0, 0, [], ck 0x0400 (le 2 2 ++ le 2 0), runs (ck 0x0400 (le 2 2 ++ le 2 0)) (pt (fun x => { x with regions := 2 })),
       by unfold Runs; decide +kernel, by decide +kernel⟩,
   ⟨1, ck 0x0401 ([]) ([]), runs (ck 0x0401 ([]) ([])), by unfold Runs; decide +kernel, by decide +kernel⟩,
   ⟨1, true, ck 0x0F00, runs (ck 0x0F00), by unfold Runs; decide +kernel, by decide +kernel⟩⟩

theorem witness_StopCommands :
    (∃ (seq : Nat) (c : Cmd) (s : State), Runs s seq 0x0500 c ∧ Sys2Proof.Inv s = true ∧ s.slot / 8 * 8 + 4096 ≤ c.arg 0 8 ∧
        s.mgrA.running = true ∧ s.stop.releasing = false ∧ s.liveSites ≠ [] ∧ s.stop.state = 0 ∧ s.blocked 2 3 0 = false) ∧
    (∃ (seq : Nat) (c : Cmd) (s : State), Runs s seq 0x0500 c ∧ Sys2Proof.Inv s = true ∧ s.slot / 8 * 8 + 4096 ≤ c.arg 0 8 ∧
        s.mgrA.running = true ∧ s.stop.releasing = false ∧ s.liveSites ≠ [] ∧ s.stop.state = 1) ∧
    (∃ (seq : Nat) (c : Cmd) (s : State), Runs s seq 0x0501 c ∧ Sys2Proof.Inv s = true ∧ s.mgrA.running = true ∧ s.stop.state = 0
        ∧ s.stop.releasing = false ∧ s.blocked 2 3 0 = false ∧ (s.liveSites.filter fun x => (s.senOf x).halted.isNone) ≠ []) ∧
    (∃ (site : Nat) (s : State), Sys2Proof.Inv s = true ∧ s.mgrA.running = true ∧ s.stop.state = 0 ∧ s.stop.releasing = false ∧
        s.blocked 2 3 0 = false ∧ (s.liveSites.filter fun x => (s.senOf x).halted.isNone) ≠ [] ∧ s.arrives (.stopRequest site) =
        true) ∧
    (∃ (site : Nat) (n : Dword) (s : State), Sys2Proof.Inv s = true ∧ s.stopping 0 = true ∧ s.stop.waiting.contains site = true ∧
        s.arrives (.stopSlot site n) = true ∧ s.slotAt site ≤ n.toNat) ∧
    (∃ (site : Nat) (n : Dword) (s : State), Sys2Proof.Inv s = true ∧ s.stopping 0 = true ∧ s.stop.waiting.contains site = true ∧
        s.arrives (.stopSlot site n) = true ∧ n.toNat < s.slotAt site ∧ s.stop.waiting.filter (· != site) ≠ []) ∧
    (∃ (site n : Nat) (s : State), Sys2Proof.Inv s = true ∧ s.stopping 0 = true ∧ s.stop.waiting.contains site = true ∧ (s.senOf
        site).stopAt = some n ∧ s.stop.waiting.filter (· != site) ≠ []) ∧
    (∃ (site n : Nat) (s : State), Sys2Proof.Inv s = true ∧ s.stopping 0 = true ∧ s.stop.waiting.contains site = true ∧ (s.senOf
        site).stopAt = some n ∧ s.stop.waiting.filter (· != site) = [] ∧ s.stop.slots = []) ∧
    (∃ (site : Nat) (slot : Dword) (s : State), Sys2Proof.Inv s = true ∧ s.stopping 1 = true ∧ s.stop.waiting.contains site = true
        ∧ s.stop.waiting.filter (· != site) ≠ []) :=
  ⟨⟨1, ck 0x0500 (le 8 4096) ([]), runs (ck 0x0500 (le 8 4096) ([])), by unfold Runs; decide +kernel, by decide +kernel⟩,
   ⟨1, ck 0x0500 (le 8 4096) ([]), runs (ck 0x0500 (le 8 4096) ([])) (modStop (fun x => { x with state := 1, waiting := [0] })
       up), by unfold Runs; decide +kernel, by decide +kernel⟩,
   ⟨1, ck 0x0501 ([]) ([]), runs (ck 0x0501 ([]) ([])), by unfold Runs; decide +kernel, by decide +kernel⟩,
   ⟨0, up, by decide +kernel⟩,
   ⟨0, 4096, modStop (fun x => { x with state := 1, kind := 0, waiting := [0] }) up, by decide +kernel⟩,
   ⟨0, 0, modStop (fun x => { x with state := 1, waiting := [0, 1] }) { up with slot := 8 }, by decide +kernel⟩,
   ⟨0, 8, modStop (fun x => { x with state := 1, waiting := [0, 1] }) (sn (fun x => { x with stopAt := some 8 })),
       by decide +kernel⟩,
   ⟨0, 8, modStop (fun x => { x with state := 1, waiting := [0] }) (sn (fun x => { x with stopAt := some 8 })), by decide +kernel⟩,
   ⟨0, 0, modStop (fun x => { x with state := 1, kind := 1, waiting := [0, 1] }) up, by decide +kernel⟩⟩

theorem witness_StopReleaseAndScanOut :
    (∃ (seq : Nat) (c : Cmd) (s : State), Runs s seq 0x0502 c ∧ Sys2Proof.Inv s = true ∧ s.mgrA.running = true ∧ s.stop.state = 2
        ∧ s.stop.releasing = false ∧ (s.liveSites.filter fun x => (s.senOf x).halted.isSome) ≠ []) ∧
    (∃ (site : Nat) (sMin : Dword) (s : State), Sys2Proof.Inv s = true ∧ s.arrives (.stopReleaseMessage site sMin) = true) ∧
    (∃ (site : Nat) (s : State), Sys2Proof.Inv s = true ∧ s.stop.releasing = true ∧ s.stop.restarting.contains site = true ∧
        s.stop.restarting.filter (· != site) ≠ []) ∧
    (∃ (site : Nat) (s : State), Sys2Proof.Inv s = true ∧ s.stop.releasing = true ∧ s.stop.restarting.contains site = true ∧
        s.stop.restarting.filter (· != site) = []) ∧
    (∃ (seq time : Nat) (absent : List Nat) (expired : Bool) (c : Cmd) (s : State), Runs s seq 0x0503 c ∧ Sys2Proof.Inv s = true ∧
        c.arg 0 1 ≤ 1 ∧ c.arg 1 7 = 0 ∧ c.arg 8 8 % 4096 = 0 ∧ c.arg 8 8 + 840 * scanStride (bitOf 0 (c.arg 0 1)) ≤ tier2Space ∧
        s.image.grade ≠ 2 ∧ s.stop.state = 2 ∧ s.stop.releasing = false ∧ (s.someFill = false ∨ expired = true)) :=
  ⟨⟨1, ck 0x0502 ([]) ([]), runs (ck 0x0502 ([]) ([])) (modStop (fun x => { x with state := 2 }) (sn (fun x =>
       { x with halted := some 8 }))), by unfold Runs; decide +kernel, by decide +kernel⟩,
   ⟨0, 8, up, by decide +kernel⟩,
   ⟨0, modStop (fun x => { x with state := 2, releasing := true, restarting := [0, 1] }) up, by decide +kernel⟩,
   ⟨0, modStop (fun x => { x with state := 2, releasing := true, restarting := [0] }) up, by decide +kernel⟩,
   ⟨1, 0, [], false, ck 0x0503 (le 8 1 ++ le 8 0), runs (ck 0x0503 (le 8 1 ++ le 8 0)) (modStop (fun x => { x with state := 2 })
       up), by unfold Runs; decide +kernel, by decide +kernel⟩⟩

theorem witness_ObservationCommands :
    (∃ (seq p : Nat) (c : Cmd) (s : State), Runs s seq 0x0504 c ∧ Sys2Proof.Inv s = true ∧ c.arg 0 1 = p ∧ p < 16 ∧ s.blocked 6 2
        p = false ∧ traceArgOk (c.arg 4 4) (c.arg 8 4) (c.arg 12 4) = true ∧ s.defined p = true) ∧
    (∃ (seq p : Nat) (c : Cmd) (s : State), Runs s seq 0x0800 c ∧ Sys2Proof.Inv s = true ∧ c.arg 0 1 = p ∧ p < 16 ∧ (∀ k < 16,
        c.arg (4 + k) 1 ≤ 15) ∧ s.defined p = true) ∧
    (∃ (seq time p : Nat) (c : Cmd) (s : State), Runs s seq 0x0505 c ∧ Sys2Proof.Inv s = true ∧ c.arg 0 1 = p ∧ p < 16 ∧ s.blocked
        6 2 p = false ∧ c.arg 8 8 % 4096 = 0 ∧ c.arg 8 8 + 840 * 65600 ≤ tier2Space ∧ s.image.grade ≠ 2 ∧ s.defined p = true) ∧
    (∃ (seq p n : Nat) (c : Cmd) (s : State), Runs s seq 0x0506 c ∧ Sys2Proof.Inv s = true ∧ c.arg 0 1 = p ∧ p < 16 ∧ s.blocked 5
        2 p = false ∧ 24576 ≤ c.arg 4 4 ∧ c.arg 4 4 % 4096 = 0 ∧ c.arg 16 8 % 4096 = 0 ∧ bitOf 31 (c.arg 8 8) = true ∧ bitsOf 26 5
        (c.arg 8 8) = 0 ∧ c.arg 16 8 + c.arg 4 4 ≤ tier2Space ∧ (s.jobOf p).dumpOverlaps (c.arg 16 8) (c.arg 4 4) = false ∧
        s.image.grade ≠ 2 ∧ s.defined p = true ∧ s.stepBegun p (c.arg 8 8 / 2 ^ 32) = false ∧ s.freeWatch p = some n) ∧
    (∃ (seq p n : Nat) (c : Cmd) (s : State), Runs s seq 0x0507 c ∧ Sys2Proof.Inv s = true ∧ c.arg 0 1 = p ∧ c.arg 1 1 = n ∧ p <
        16 ∧ n < 8 ∧ s.blocked 5 2 p = false ∧ (s.watchOf p n).armed = true) ∧
    (∃ (seq p : Nat) (c : Cmd) (s : State) (x : _), Runs s seq 0x0508 c ∧ Sys2Proof.Inv s = true ∧ seq ≠ 0 ∧ c.arg 0 1 = p ∧ p <
        16 ∧ s.defined p = true ∧ (s.partOf p).snapshot = some x ∧ x.done = true ∧ bitOf 0 (c.arg 1 1) = false) ∧
    (∃ (seq p : Nat) (c : Cmd) (s : State), Runs s seq 0x0508 c ∧ (∀ x, (s.partOf p).snapshot = some x → x.done = true) ∧
        Sys2Proof.Inv s = true ∧ seq ≠ 0 ∧ c.arg 0 1 = p ∧ p < 16 ∧ s.defined p = true ∧ bitOf 0 (c.arg 1 1) = true ∧ s.partSites
        p ≠ []) :=
  ⟨⟨1, 0, ck 0x0504 (le 4 0 ++ le 4 0 ++ le 4 0 ++ le 4 0), runs (ck 0x0504 (le 4 0 ++ le 4 0 ++ le 4 0 ++ le 4 0)),
       by unfold Runs; decide +kernel, by decide +kernel⟩,
   ⟨1, 0, ck 0x0800 (le 4 0 ++ List.replicate 16 15), runs (ck 0x0800 (le 4 0 ++ List.replicate 16 15)),
       by unfold Runs; decide +kernel, by decide +kernel⟩,
   ⟨1, 0, 0, ck 0x0505 (le 8 0 ++ le 8 0), runs (ck 0x0505 (le 8 0 ++ le 8 0)), by unfold Runs; decide +kernel, by decide +kernel⟩,
   ⟨1, 0, 0, ck 0x0506 (le 4 0 ++ le 4 24576 ++ le 8 0x80000000 ++ le 8 4096), runs (ck 0x0506 (le 4 0 ++ le 4 24576 ++ le 8
       0x80000000 ++ le 8 4096)) (pt (fun x => { x with job := none })), by unfold Runs; decide +kernel, by decide +kernel⟩,
   ⟨1, 0, 7, ck 0x0507 (le 2 0x0700 ++ le 2 0), runs (ck 0x0507 (le 2 0x0700 ++ le 2 0)) (pt (fun x =>
       { x with watches := [(7, { armed := true })] })), by unfold Runs; decide +kernel, by decide +kernel⟩,
   ⟨1, 0, ck 0x0508 (le 4 0), runs (ck 0x0508 (le 4 0)) (pt (fun x => { x with snapshot := some { done := true } })),
       ({ done := true } : Snapshot), by unfold Runs; decide +kernel, by decide +kernel⟩,
   ⟨1, 0, ck 0x0508 (le 4 0x100), runs (ck 0x0508 (le 4 0x100)), by unfold Runs; decide +kernel, forall_some (by decide +kernel),
       by decide +kernel⟩⟩

set_option maxRecDepth 100000 in
theorem witness_PlausibilityCommands :
    (∃ (seq p : Nat) (c : Cmd) (s : State), Runs s seq 0x0900 c ∧ Sys2Proof.Inv s = true ∧ c.arg 0 1 = p ∧ p < 16 ∧ setOk c.bulk =
        true ∧ s.defined p = true ∧ (s.partOf p).load = none ∧ s.partHubs p ≠ []) ∧
    (∃ (hub p : Nat) (l : PlausLoad) (s : State), Sys2Proof.Inv s = true ∧ (s.partOf p).load = some l ∧ l.waiting.contains hub =
        true ∧ l.waiting.filter (· != hub) ≠ []) ∧
    (∃ (hub p : Nat) (l : PlausLoad) (s : State), Sys2Proof.Inv s = true ∧ (s.partOf p).load = some l ∧ l.waiting.contains hub =
        true ∧ l.waiting.filter (· != hub) = [] ∧ s.hasJob p = true ∧ s.starts p = false ∧ (s.partOf p).state = 2) ∧
    (∃ (hub p : Nat) (l : PlausLoad) (s : State), Sys2Proof.Inv s = true ∧ (s.partOf p).load = some l ∧ l.waiting.contains hub =
        true ∧ l.waiting.filter (· != hub) = [] ∧ s.hasJob p = false ∧ s.starts p = false ∧ l.after = none) ∧
    (∃ (hub p seq : Nat) (rsp : List Byte) (l : PlausLoad) (c : Cmd) (s : State), Runs s seq 0x0300 c ∧ Sys2Proof.Inv s = true ∧
        (s.partOf p).load = some l ∧ l.waiting.contains hub = true ∧ l.waiting.filter (· != hub) = [] ∧ (s.partOf p).state = 2 ∧
        (s.partOf p).starting = some (seq, rsp) ∧ l.seq = 0 ∧ l.after = none) ∧
    (∃ (p : Nat) (l : PlausLoad) (c : Cmd) (s : State), Sys2Proof.Inv s = true ∧ (s.partOf p).load = some l ∧ l.waiting ≠ [] ∧
        s.starts p = false) :=
  ⟨⟨1, 0, ck 0x0900 (le 4 0) (List.replicate 4096 0), runs (ck 0x0900 (le 4 0) (List.replicate 4096 0)),
       by unfold Runs; decide +kernel, by decide +kernel⟩,
   ⟨0, 0, { waiting := [0, 1], seq := 1 }, pt (fun x => { x with load := some ({ waiting := [0, 1], seq := 1 }) }),
       by decide +kernel⟩,
   ⟨0, 0, { waiting := [0], seq := 1 }, pt (fun x => { x with load := some ({ waiting := [0], seq := 1 }) }), by decide +kernel⟩,
   ⟨0, 0, { waiting := [0], seq := 1 }, pt (fun x =>
       { x with load := some ({ waiting := [0], seq := 1 }), state := 1, job := none }), by decide +kernel⟩,
   ⟨0, 0, 1, [], { waiting := [0] }, ck 0x0300, runs (ck 0x0300) (pt (fun x =>
       { x with load := some { waiting := [0] }, starting := some (1, []) })), by unfold Runs; decide +kernel, by decide +kernel⟩,
   ⟨0, { waiting := [0], seq := 1 }, {}, pt (fun x => { x with load := some { waiting := [0], seq := 1 } }), by decide +kernel⟩⟩

theorem witness_ThermalCommands :
    (∃ (seq : Nat) (c : Cmd) (s : State), Runs s seq 0x0600 c ∧ Sys2Proof.Inv s = true ∧ 1360 ≤ toSigned 16 (c.arg 0 2) ∧ toSigned
        16 (c.arg 0 2) ≤ 1680) ∧
    (∃ (seq n : Nat) (c : Cmd) (s : State), Runs s seq 0x0601 c ∧ Sys2Proof.Inv s = true ∧ c.arg 0 1 = n ∧ n < 80 ∧ s.present n =
        true ∧ c.arg 1 1 < 2) :=
  ⟨⟨1, ck 0x0600 (le 4 1360) ([]), runs (ck 0x0600 (le 4 1360) ([])), by unfold Runs; decide +kernel, by decide +kernel⟩,
   ⟨1, 79, ck 0x0601 (le 1 79 ++ le 1 1 ++ le 2 0), runs (ck 0x0601 (le 1 79 ++ le 1 1 ++ le 2 0)),
       by unfold Runs; decide +kernel, by decide +kernel⟩⟩

theorem witness_StepItemsAtTheHub :
    (∃ (hub partition step : Nat) (sk : Dword) (flags : Nat) (s : State), Sys2Proof.Inv s = true ∧ s.arrives (.stepBoundary hub
        partition step sk flags) = true) ∧
    (∃ (site : Nat) (item : VerdictItem) (detail : DetailItem) (s : State), Sys2Proof.Inv s = true ∧ s.judges (s.sitePart site) =
        true ∧ s.arrives (.residueVerdict site item detail) = true) ∧
    (∃ (site : Nat) (item : PlausItem) (s : State), Sys2Proof.Inv s = true ∧ s.judges (s.sitePart site) = true ∧ s.arrives
        (.plausVerdict site item) = true) ∧
    (∃ (site : Nat) (item : RedundancyItem) (s : State), Sys2Proof.Inv s = true ∧ s.judges (s.sitePart site) = true ∧ s.arrives
        (.redundancy site item) = true) :=
  ⟨⟨4, 0, 1, 5, 1, up, by decide +kernel⟩,
   ⟨0, { verdict := 2 }, {}, up, by decide +kernel⟩,
   ⟨0, {}, up, by decide +kernel⟩,
   ⟨0, {}, up, by decide +kernel⟩⟩

theorem witness_StepDoneAtTheHub :
    (∃ (site : Nat) (entry : LedgerEntry) (s : State), Sys2Proof.Inv s = true ∧ s.judges (s.sitePart site) = true ∧ s.arrives
        (.ledger site entry) = true) ∧
    (∃ (site : Nat) (item : StepDoneItem) (s : State), Sys2Proof.Inv s = true ∧ s.judges (s.sitePart site) = true ∧ site ∉
        (s.hubOf (s.siteHub site)).collect.done ∧ (s.hubOf (s.siteHub site)).collect.sent = false ∧ s.arrives (.stepDone site
        item) = true) ∧
    (∃ (hub partition : Nat) (s : State), Sys2Proof.Inv s = true ∧ s.judges partition = true ∧ (s.hubOf hub).collect.sent = false) ∧
    (∃ (site : Nat) (s : State), Sys2Proof.Inv s = true ∧ (s.hubOf (s.siteHub site)).collect.reading.contains site = true) :=
  ⟨⟨0, {}, up, by decide +kernel⟩,
   ⟨0, {}, up, by decide +kernel⟩,
   ⟨0, 0, hb (fun y => { y with collect := { y.collect with done := [1] } }), by decide +kernel⟩,
   ⟨0, hb (fun y => { y with collect := { y.collect with reading := [0] } }), by decide +kernel⟩⟩

theorem witness_ContributionsAndToken :
    (∃ (unit partition lineage test step seq : Nat) (info : SealInfo) (s : State), Sys2Proof.Inv s = true ∧ s.judges partition =
        true ∧ unit < 0x4000 ∧ (s.hubOf (s.siteHub unit)).collect.sent = false ∧ s.arrives (.sealVerdict unit partition lineage
        test step seq info) = true) ∧
    (∃ (unit partition lineage test step seq : Nat) (info : SealInfo) (s : State), Sys2Proof.Inv s = true ∧ s.judges partition =
        true ∧ 0x4000 ≤ unit ∧ s.defined partition = true ∧ (s.partOf partition).decided step = false ∧ s.arrives (.sealVerdict
        unit partition lineage test step seq info) = true) ∧
    (∃ (hub partition : Nat) (failed : Word) (groups : List LedgerEntry) (s : State), Sys2Proof.Inv s = true ∧ s.judges partition
        = true ∧ (s.partOf partition).opened = true ∧ (s.partOf partition).contrib.contains hub = false ∧ ((s.contributors
        partition).all fun h => ((s.partOf partition).contrib ++ [hub]).contains h) = false ∧ s.arrives (.contribution hub
        partition (s.partOf partition).step failed groups) = true) ∧
    (∃ (hub partition : Nat) (failed : Word) (groups : List LedgerEntry) (s : State), Sys2Proof.Inv s = true ∧ s.judges partition
        = true ∧ (s.partOf partition).opened = true ∧ (s.partOf partition).contrib.contains hub = false ∧ (s.partOf
        partition).token = none ∧ ((s.contributors partition).all fun h => ((s.partOf partition).contrib ++ [hub]).contains h) =
        true ∧ (s.partOf partition).failNext = false ∧ (groups.foldl mergeLedger (s.partOf partition).rootLedger).filter ledgerBad
        = [] ∧ s.arrives (.contribution hub partition (s.partOf partition).step failed groups) = true) ∧
    (∃ (partition : Nat) (k : Token) (s : State), Sys2Proof.Inv s = true ∧ (s.partOf partition).token = some k ∧ k.arrived = false
        ∧ (s.partOf partition).treeHas = false ∧ (s.partOf partition).state = 2 ∧ (s.partOf partition).swaps = [] ∧ (s.partOf
        partition).replays = [] ∧ (s.partOf partition).held = false ∧ (∀ y ∈ s.partSites partition, (s.siteRec y).suspect = false)
        ∧ s.arrives (.stepToken partition) = true) :=
  ⟨⟨0, 0, 0, 2, 0, 0, {}, up, by decide +kernel⟩,
   ⟨0x4000, 0, 0, 2, 0, 0, {}, up, by decide +kernel⟩,
   ⟨4, 0, 0, [], pt (fun x => { x with opened := true }), by decide +kernel⟩,
   ⟨0, 0, 0, [], pt (fun x => { x with opened := true }), by decide +kernel⟩,
   ⟨0, {}, pt (fun x => { x with token := some {} }), by decide +kernel⟩⟩

theorem witness_ReductionTreeAndPeers :
    (∃ (b : Transfer) (s : State), sealTest b.block b.desc = 0 ∧ Sys2Proof.Inv s = true ∧ b.block.tag.poison = false) ∧
    (∃ (b : Transfer) (s : State), Sys2Proof.Inv s = true ∧ s.judges b.partition = true ∧ (sealTest b.block b.desc ≠ 0 ∨
        b.block.tag.poison = true) ∧ (s.partOf b.partition).treeHas = false) ∧
    (∃ (b : Transfer) (s : State) (k : _), Sys2Proof.Inv s = true ∧ s.judges b.partition = true ∧ (sealTest b.block b.desc ≠ 0 ∨
        b.block.tag.poison = true) ∧ (s.partOf b.partition).treeHas = true ∧ (s.partOf b.partition).token = some k ∧ k.step =
        b.step ∧ (s.partOf b.partition).finalKept = none ∧ (s.partOf b.partition).treeKept &&& (s.jobOf b.partition).mask
        b.lineage ≠ 0) ∧
    (∃ (p : Nat) (s : State), Sys2Proof.Inv s = true ∧ s.judges p = true ∧ (s.partOf p).treeHas = true ∧ (s.partOf p).finalKept =
        none) ∧
    (∃ (p : Nat) (k : Token) (kept : Word) (restarted failed : Bool) (blocks : List (Nat × Nat)) (s : State), Sys2Proof.Inv s =
        true ∧ (s.partOf p).token = some k ∧ (s.partOf p).treeHas = true ∧ (s.partOf p).finalKept = none ∧ (s.partOf p).state ≠ 6
        ∧ s.arrives (.finalKept p k.step kept restarted failed blocks) = true) :=
  ⟨⟨{ block := sealed, desc := sealedDesc }, up, sealed_passes, by decide +kernel⟩,
   ⟨{ block := { tag := { fmt := 8 } }, desc := sealedDesc }, up, by decide +kernel⟩,
   ⟨{ block := { tag := { fmt := 8 } }, desc := sealedDesc }, pt (fun x =>
       { x with treeHas := true, token := some {}, treeKept := 0xFFFFFFFF }), ({} : Token), by decide +kernel⟩,
   ⟨0, pt (fun x => { x with treeHas := true }), by decide +kernel⟩,
   ⟨0, {}, 1, false, false, [], pt (fun x => { x with treeHas := true, token := some {} }), by decide +kernel⟩⟩

theorem witness_PeersAndTrailers :
    (∃ (p : Nat) (k : Nat × Nat × Nat) (s : State), Sys2Proof.Inv s = true ∧ (s.partOf p).release.isSome = true ∧ (s.partOf
        p).finalKept = some k ∧ (s.partOf p).fence = none ∧ (s.partOf p).copying = [] ∧ (s.partOf p).tier2Busy = none ∧
        s.stop.state < 2 ∧ s.arrives (.peerRelease p) = true) ∧
    (∃ (p port : Nat) (block : Block) (r : Trailer) (s : State), r = trailerOf port block ∧ Sys2Proof.Inv s = true ∧ (s.partOf
        p).treeHas = false ∧ s.hasJob p = true ∧ (trailerSound r = false ∨ (s.partOf p).nextToken ≤ r.step)) ∧
    (∃ (p port : Nat) (block : Block) (r : Trailer) (s : State), r = trailerOf port block ∧ trailerSound r = true ∧ Sys2Proof.Inv
        s = true ∧ (s.partOf p).treeHas = false ∧ r.step < (s.partOf p).nextToken) ∧
    (∃ (p port : Nat) (block : Block) (r : Trailer) (s : State) (k e : _), r = trailerOf port block ∧ Sys2Proof.Inv s = true ∧
        (s.partOf p).treeHas = true ∧ (s.partOf p).token = some k ∧ trailerFor r k.step = true ∧ (s.partOf p).peers = [e] ∧ bitOf
        port e.ports = true ∧ e.verdict = 0 ∧ e.gone = false) ∧
    (∃ (p entry : Nat) (k : Token) (s : State), Sys2Proof.Inv s = true ∧ (s.partOf p).token = some k ∧ (s.partOf p).treeHas = true
        ∧ entry < (s.partOf p).peers.length ∧ ((s.partOf p).peers.getD entry {}).verdict = 0 ∧ ((s.partOf p).peers.getD entry
        {}).gone = false) :=
  ⟨⟨0, (0, 1, 1), pt (fun x => { x with release := some {}, finalKept := some (0, 1, 1) }), by decide +kernel⟩,
   ⟨0, 0, { tag := { fmt := 8 } }, trailerOf 0 { tag := { fmt := 8 } }, up, rfl, by decide +kernel⟩,
   ⟨0, 0, soundTrailer, trailerOf 0 soundTrailer, pt (fun x => { x with step := 9 }), rfl, sound_trailer, by decide +kernel⟩,
   ⟨0, 0, { tag := { fmt := 8 } }, trailerOf 0 { tag := { fmt := 8 } }, pt (fun x =>
       { x with treeHas := true, token := some {}, peers := [{ ports := 1 }] }), ({} : Token), ({ ports := 1 } : Peer), rfl,
       by decide +kernel⟩,
   ⟨0, 0, {}, pt (fun x => { x with treeHas := true, token := some {}, peers := [{ ports := 1 }] }), by decide +kernel⟩⟩

theorem witness_CommitAndCopies :
    (∃ (p : Nat) (k : Token) (written : List (Nat × List Nat)) (reduced : List (Desc × List Byte)) (s : State), Sys2Proof.Inv s =
        true ∧ (s.partOf p).token = some k ∧ (s.partOf p).committing = true ∧ (s.partOf p).fence = none ∧ (s.jobOf p).residentSize
        = 0 ∧ (s.partOf p).boundary = false ∧ (s.partOf p).later = []) ∧
    (∃ (owner index o h : Nat) (block : Block) (markedFailed : Bool) (s : State), Sys2Proof.Inv s = true ∧ s.siteOf owner = some o
        ∧ s.siteOf (s.holderOf (s.tilePart owner) owner) = some h ∧ (s.partOf (s.tilePart owner)).copying.contains owner = true) ∧
    (∃ (owner o h : Nat) (s : State), Sys2Proof.Inv s = true ∧ s.siteOf owner = some o ∧ s.siteOf (s.holderOf (s.tilePart owner)
        owner) = some h ∧ (s.partOf (s.tilePart owner)).copying.contains owner = true ∧ (s.partOf (s.tilePart owner)).finalKept =
        none ∧ (s.partOf (s.tilePart owner)).boundary = false) ∧
    (∃ (p region slot : Nat) (s : State), Sys2Proof.Inv s = true ∧ (s.partOf p).tier2Busy = some slot ∧ (s.partOf
        p).tier2Left.contains region = true ∧ (s.partOf p).tier2Left.filter (· != region) ≠ []) ∧
    (∃ (p region slot : Nat) (s : State), Sys2Proof.Inv s = true ∧ (s.partOf p).tier2Busy = some slot ∧ (s.partOf
        p).tier2Left.contains region = true ∧ (s.partOf p).tier2Left.filter (· != region) = [] ∧ (s.partOf p).finalKept = none) :=
  ⟨⟨0, {}, [], [], pt (fun x => { x with committing := true, token := some {} }), by decide +kernel⟩,
   ⟨0, 0, 0, 168, {}, true, copies, by decide +kernel⟩,
   ⟨0, 0, 168, copies, by decide +kernel⟩,
   ⟨0, 0, 1, pt (fun x => { x with tier2Busy := some 1, tier2Left := [0, 1] }), by decide +kernel⟩,
   ⟨0, 0, 1, pt (fun x => { x with tier2Busy := some 1, tier2Left := [0] }), by decide +kernel⟩⟩

theorem witness_FillsAndReplays :
    (∃ (tile : Nat) (w v : Swap) (resFailed mirFailed : Bool) (s : State), Sys2Proof.Inv s = true ∧ ((s.partOf (s.tilePart
        tile)).swaps.find? fun w => w.tile = tile && w.filling && !w.filled) = some w ∧ w.spoilt = false ∧ w.resSource ≠ 1 ∧
        w.mirSource ≠ 1 ∧ mirFailed = false ∧ v ∈ (s.partOf (s.tilePart tile)).swaps ∧ v.tile ≠ tile ∧ v.chosen = true ∧ v.filled
        = false ∧ (s.jobOf (s.tilePart tile)).residentSize ≠ 0 ∧ (∀ u ∈ (s.partOf (s.tilePart tile)).swaps, u.new.isSome = true ∧
        (u.chosen = true → u.filling = true ∨ u.filled = true)) ∧ resFailed = false) ∧
    (∃ (tile : Nat) (w v : Swap) (resFailed mirFailed : Bool) (s : State), Sys2Proof.Inv s = true ∧ ((s.partOf (s.tilePart
        tile)).swaps.find? fun w => w.tile = tile && w.filling && !w.filled) = some w ∧ w.spoilt = false ∧ w.resSource ≠ 1 ∧
        w.mirSource ≠ 1 ∧ mirFailed = false ∧ v ∈ (s.partOf (s.tilePart tile)).swaps ∧ v.tile ≠ tile ∧ v.chosen = true ∧ v.filled
        = false ∧ (s.jobOf (s.tilePart tile)).residentSize ≠ 0 ∧ (∀ u ∈ (s.partOf (s.tilePart tile)).swaps, u.new.isSome = true ∧
        (u.chosen = true → u.filling = true ∨ u.filled = true)) ∧ resFailed = true ∧ w.resRetries = 0) ∧
    (∃ (p result tile last length tag : Nat) (s : State), Sys2Proof.Inv s = true ∧ length ≠ 4) ∧
    (∃ (p result tile last length tag : Nat) (s : State), Sys2Proof.Inv s = true ∧ length = 4 ∧ result = 0 ∧ ((s.partOf
        p).replays.any fun r => r.tile = tile) = true ∧ (s.partOf p).boundary = false) ∧
    (∃ (p result tile last length tag : Nat) (s : State), Sys2Proof.Inv s = true ∧ length = 4 ∧ result ≠ 0 ∧ ((s.partOf
        p).replays.any fun r => r.tile = tile) = true ∧ (s.partOf p).state = 2 ∧ (s.partOf p).fence = none ∧ (s.partOf p).reset =
        none ∧ (s.partOf p).swaps = [] ∧ s.stop.state = 0 ∧ s.actionSites p ≠ []) ∧
    (∃ (p tile : Nat) (s : State), Sys2Proof.Inv s = true ∧ ((s.partOf p).replays.any fun r => r.tile = tile) = true ∧ (s.partOf
        p).state = 2 ∧ (s.partOf p).fence = none ∧ (s.partOf p).reset = none ∧ (s.partOf p).swaps = [] ∧ s.stop.state = 0 ∧
        s.actionSites p ≠ []) :=
  ⟨⟨0, { tile := 0, new := some 1, chosen := true, filling := true },
       { tile := 5, new := some 2, chosen := true, filling := true }, false, false, pt (fun x =>
       { x with job := some { residentSize := 1 }, swaps := [{ tile := 0, new := some 1, chosen := true, filling := true }, { tile := 5, new := some 2, chosen := true, filling := true }] }),
       by decide +kernel⟩,
   ⟨0, { tile := 0, new := some 1, chosen := true, filling := true },
       { tile := 5, new := some 2, chosen := true, filling := true }, true, false, pt (fun x =>
       { x with job := some { residentSize := 1 }, swaps := [{ tile := 0, new := some 1, chosen := true, filling := true }, { tile := 5, new := some 2, chosen := true, filling := true }] }),
       by decide +kernel⟩,
   ⟨0, 0, 0, 0, 3, 0, pt (fun x => { x with replays := [{ tile := 0 }] }), by decide +kernel⟩,
   ⟨0, 0, 0, 0, 4, 0, pt (fun x => { x with replays := [{ tile := 0 }] }), by decide +kernel⟩,
   ⟨0, 1, 0, 0, 4, 0, pt (fun x => { x with replays := [{ tile := 0 }] }), by decide +kernel⟩,
   ⟨0, 0, pt (fun x => { x with replays := [{ tile := 0 }] }), by decide +kernel⟩⟩

theorem witness_BlocksAtTheSentinel :
    (∃ (site : Nat) (c : Consume) (s : State), bitOf 0 (s.senOf site).ctrlFront = false ∧ bitOf 1 (s.senOf site).ctrlFront =
        false) ∧
    (∃ (site : Nat) (c : Consume) (s : State), Sys2Proof.Inv s = true ∧ bitOf 0 (s.senOf site).ctrlFront = true) ∧
    (∃ (site : Nat) (c : Consume) (s : State), Sys2Proof.Inv s = true) ∧
    (∃ (site holder at_ : Nat) (stored : Block) (i : SealInfo) (rest : List (SealInfo × Nat)) (s : State), Sys2Proof.Inv s = true
        ∧ (s.senOf site).rereads = (i, holder) :: rest ∧ at_ = atRestOf i (dumpRead (s.senOf site).wordBad stored i.exp)) ∧
    (∃ (site : Nat) (stored : Block) (s : State), (s.senOf site).rereads = []) ∧
    (∃ (site : Nat) (p : Produce) (s : State), p.lineage = 0xFF ∧ p.desc.handle = 0xFFFF08) ∧
    (∃ (site : Nat) (p : Produce) (s : State), (p.lineage ≠ 0xFF ∨ p.desc.handle ≠ 0xFFFF08) ∧ (s.senOf site).fenced = true) ∧
    (∃ (site : Nat) (p : Produce) (s : State), Sys2Proof.Inv s = true ∧ (s.senOf site).fenced = false ∧ (p.lineage ≠ 0xFF ∨
        p.desc.handle ≠ 0xFFFF08)) :=
  ⟨⟨0, {}, sn (fun x => { x with ctrlFront := 0 }), by decide +kernel⟩,
   ⟨0, {}, sn (fun x => { x with ctrlFront := 1 }), by decide +kernel⟩,
   ⟨0, {}, up, by decide +kernel⟩,
   ⟨0, 0, 3, { tag := { fmt := 15 } }, {}, [], sn (fun x => { x with rereads := [({}, 0)] }), by decide +kernel⟩,
   ⟨0, {}, up, by decide +kernel⟩,
   ⟨0, { lineage := 0xFF, desc := { handle := 0xFFFF08 } }, up, by decide +kernel⟩,
   ⟨0, {}, sn (fun x => { x with fenced := true }), by decide +kernel⟩,
   ⟨0, {}, up, by decide +kernel⟩⟩

theorem witness_OutputTilesAndStreams :
    (∃ (site : Nat) (o : TileObs) (s : State), o.desc.lineage = 0xFF ∧ o.desc.handle = 0xFFFF08) ∧
    (∃ (site : Nat) (o : TileObs) (s : State), Sys2Proof.Inv s = true ∧ o.desc.lineage ≠ 0xFF ∧ (s.senOf site).used true = 0) ∧
    (∃ (site recipe point : Nat) (epoch : Dword) (o : TileObs) (s : State), Sys2Proof.Inv s = true ∧ o.desc.lineage = 0xFF ∧
        testHandle o.desc.handle = true ∧ o.desc.handle ≠ 0xFFFF08 ∧ (s.senOf site).run = some (point, recipe, epoch)) ∧
    (∃ (site seq : Nat) (s : State), Sys2Proof.Inv s = true) ∧
    (∃ (site : Nat) (b : Beat) (s : State), Sys2Proof.Inv s = true) ∧
    (∃ (site : Nat) (s : State), Sys2Proof.Inv s = true) ∧
    (∃ (site : Nat) (s : State), Sys2Proof.Inv s = true ∧ s.tileAt site ≠ 0xFFFF ∧ s.hasJob (s.sitePart site) = true ∧ (s.senOf
        site).stepLast = false ∧ (s.partOf (s.sitePart site)).opened = true ∧ (s.partOf (s.sitePart site)).state ≠ 6) :=
  ⟨⟨0, { desc := { lineage := 0xFF, handle := 0xFFFF08 } }, up, by decide +kernel⟩,
   ⟨0, {}, up, by decide +kernel⟩,
   ⟨0, 3, 0, 0, { desc := { lineage := 0xFF, handle := 0xFFFF03 } }, sn (fun x => { x with run := some (0, 3, 0) }),
       by decide +kernel⟩,
   ⟨0, 0, up, by decide +kernel⟩,
   ⟨0, {}, up, by decide +kernel⟩,
   ⟨0, up, by decide +kernel⟩,
   ⟨0, pt (fun x => { x with opened := true }), by decide +kernel⟩⟩

theorem witness_EntryAndExitPoints :
    (∃ (b : Transfer) (s : State), Sys2Proof.Inv s = true ∧ s.ctxOf b = 0) ∧
    (∃ (b : Transfer) (s : State), Sys2Proof.Inv s = true ∧ s.ctxOf b = 1 ∧ b.accepted = true) ∧
    (∃ (b : Transfer) (s : State), Sys2Proof.Inv s = true ∧ (2 ≤ s.ctxOf b ∨ s.ctxOf b = 1 ∧ b.accepted = false)) ∧
    (∃ (b : Transfer) (s : State), Sys2Proof.Inv s = true ∧ s.muted b = true) ∧
    (∃ (b : Transfer) (s : State), Sys2Proof.Inv s = true ∧ s.muted b = false ∧ s.refuses b = true) ∧
    (∃ (b : Transfer) (s : State), Sys2Proof.Inv s = true ∧ s.muted b = false ∧ s.refuses b = false) ∧
    (∃ (b : Transfer) (s : State), Sys2Proof.Inv s = true ∧ s.ctxOf b = 0 ∧ b.untagged = true) ∧
    (∃ (b : Transfer) (s : State), sealTest2 b.block = 0 ∧ Sys2Proof.Inv s = true ∧ s.ctxOf b = 0 ∧ b.untagged = false) ∧
    (∃ (b : Transfer) (s : State), Sys2Proof.Inv s = true ∧ s.ctxOf b = 0 ∧ b.untagged = false ∧ sealTest2 b.block ≠ 0) ∧
    (∃ (b : Transfer) (s : State), Sys2Proof.Inv s = true ∧ s.muted b = false ∧ s.refuses b = false ∧ b.reduced = false) ∧
    (∃ (b : Transfer) (s : State), Sys2Proof.Inv s = true ∧ s.muted b = false ∧ s.refuses b = false ∧ b.reduced = true) :=
  ⟨⟨{}, pt (fun x => { x with open_ := 1 }), by decide +kernel⟩,
   ⟨{ accepted := true }, pt (fun x => { x with tearing := 1 }), by decide +kernel⟩,
   ⟨{}, pt (fun x => { x with tearing := 1 }), by decide +kernel⟩,
   ⟨{}, pt (fun x => { x with state := 6 }), by decide +kernel⟩,
   ⟨{}, pt (fun x => { x with tearing := 1 }), by decide +kernel⟩,
   ⟨{ accepted := true }, pt (fun x => { x with tearing := 1 }), by decide +kernel⟩,
   ⟨{ untagged := true }, pt (fun x => { x with open_ := 1 }), by decide +kernel⟩,
   ⟨{ block := sealed, desc := sealedDesc }, pt (fun x => { x with open_ := 1 }), sealed_passes2, by decide +kernel⟩,
   ⟨{ block := { tag := { fmt := 8 } } }, pt (fun x => { x with open_ := 1 }), by decide +kernel⟩,
   ⟨{}, pt (fun x => { x with open_ := 1 }), by decide +kernel⟩,
   ⟨{ reduced := true }, pt (fun x => { x with open_ := 1 }), by decide +kernel⟩⟩

theorem witness_MemoryReportsAndCompletions :
    (∃ (hub point partition context gen : Nat) (s : State), Sys2Proof.Inv s = true ∧ Sparse.get 0 (s.partOf partition).gens
        context = gen) ∧
    (∃ (hub point partition context gen : Nat) (s : State), Sys2Proof.Inv s = true ∧ Sparse.get 0 (s.partOf partition).gens
        context ≠ gen) ∧
    (∃ (hub : Nat) (s : State), Sys2Proof.Inv s = true) ∧
    (∃ (s : State), Sys2Proof.Inv s = true) ∧
    (∃ (hub : Nat) (report : MemReport) (s : State), Sys2Proof.Inv s = true ∧ s.arrives (.memoryError hub report) = true ∧ hub =
        s.reportHub report ∧ report.symbols ≠ 0xFF) ∧
    (∃ (hub : Nat) (report : MemReport) (s : State), Sys2Proof.Inv s = true ∧ s.arrives (.memoryError hub report) = true ∧ hub =
        s.reportHub report ∧ report.symbols = 0xFF) ∧
    (∃ (hub : Nat) (report : MemReport) (s : State), Sys2Proof.Inv s = true ∧ s.arrives (.memoryError hub report) = true ∧ hub ≠
        s.reportHub report) :=
  ⟨⟨0, 0, 0, 0, 0, up, by decide +kernel⟩,
   ⟨0, 0, 0, 0, 1, up, by decide +kernel⟩,
   ⟨0, up, by decide +kernel⟩,
   ⟨up, by decide +kernel⟩,
   ⟨0, { symbols := 1 }, up, by decide +kernel⟩,
   ⟨0, { symbols := 0xFF }, up, by decide +kernel⟩,
   ⟨1, { symbols := 1 }, up, by decide +kernel⟩⟩

theorem witness_VerificationEngine :
    (∃ (site seq reason early : Nat) (elems : List (Nat × Nat)) (outs operands : List Block) (s : State), Sys2Proof.Inv s = true ∧
        s.captureFor site seq = none) ∧
    (∃ (site seq reason early : Nat) (elems : List (Nat × Nat)) (outs operands outs' operands' : List Block) (c : Capture) (s :
        State), Sys2Proof.Inv s = true ∧ s.captureFor site seq = some c ∧ operands' = (operands.zip c.operands).map (fun x =>
        dumpRead (s.senOf site).wordBad x.1 x.2) ∧ outs' = (outs.zip (outBlocks c elems)).map (fun x => dumpRead (s.senOf
        site).wordBad x.1 (c.outDescs.getD x.2 {})) ∧ (∀ x ∈ badBlocks ((operands'.zip c.operands).take early), x.2.2 < 3)) ∧
    (∃ (site : Nat) (hdr : RepeatHeader) (j : RepeatJob) (s : State), Sys2Proof.Inv s = true ∧ s.arrives (.repeatHeader site hdr)
        = true ∧ (s.hubOf (s.siteHub site)).job = some j) ∧
    (∃ (site : Nat) (data : LaneData) (s : State), (∀ j, (s.hubOf (s.siteHub site)).job = some j → j.req.site ≠ site ∨ (data.locI,
        data.locJ) ∉ j.req.elems) ∧ Sys2Proof.Inv s = true ∧ s.arrives (.laneData site data) = true) ∧
    (∃ (site : Nat) (data : LaneData) (j : RepeatJob) (s : State), Sys2Proof.Inv s = true ∧ s.arrives (.laneData site data) = true
        ∧ (s.hubOf (s.siteHub site)).job = some j ∧ j.req.site = site ∧ (data.locI, data.locJ) ∈ j.req.elems ∧ (j.lanes.any fun l
        => l.locI = data.locI && l.locJ = data.locJ) = false ∧ j.lanes.length + 1 < j.req.elems.length) ∧
    (∃ (site : Nat) (data : LaneData) (j : RepeatJob) (s : State), Sys2Proof.Inv s = true ∧ s.arrives (.laneData site data) = true
        ∧ (s.hubOf (s.siteHub site)).job = some j ∧ j.req.site = site ∧ (data.locI, data.locJ) ∈ j.req.elems ∧ (j.lanes.any fun l
        => l.locI = data.locI && l.locJ = data.locJ) = false ∧ j.req.elems.length ≤ j.lanes.length + 1 ∧ (s.hubOf (s.siteHub
        site)).repeats = []) :=
  ⟨⟨0, 0, 1, 0, [(0, 0)], [], [], up, by decide +kernel⟩,
   ⟨0, 0, 1, 4, [(63, 63)], [], [], [], [], {}, sn (fun x => { x with captures := [{}] }), by decide +kernel⟩,
   ⟨0, {}, { req := { elems := [(0, 0)] } }, hb (fun y => { y with job := some { req := { elems := [(0, 0)] } } }),
       by decide +kernel⟩,
   ⟨0, {}, up, forall_some (by decide +kernel), by decide +kernel⟩,
   ⟨0, {}, { req := { elems := [(0, 0), (1, 1)] } }, hb (fun y =>
       { y with job := some { req := { elems := [(0, 0), (1, 1)] } } }), by decide +kernel⟩,
   ⟨0, {}, { req := { elems := [(0, 0)] } }, hb (fun y => { y with job := some { req := { elems := [(0, 0)] } } }),
       by decide +kernel⟩⟩

theorem witness_RunsAndContent :
    (∃ (site recipe verdict seals : Nat) (signature : Dword) (status : Word) (replay : ReplayReport) (s : State), (∀ x, (s.hubOf
        (s.siteHub site)).pass = some x → x.stage ≠ 3 ∨ site ∉ x.testing) ∧ Sys2Proof.Inv s = true ∧ s.arrives (.runResult site
        recipe verdict seals signature status replay) = true) ∧
    (∃ (site recipe verdict seals other : Nat) (signature : Dword) (status : Word) (replay : ReplayReport) (x : Pass) (s : State),
        Sys2Proof.Inv s = true ∧ s.arrives (.runResult site recipe verdict seals signature status replay) = true ∧ (s.hubOf
        (s.siteHub site)).pass = some x ∧ x.stage = 3 ∧ x.replay = false ∧ site ∈ x.testing ∧ x.recipe = recipe ∧ (x.rows.any fun
        r => r.site = site && r.recipe = recipe) = false ∧ other ∈ x.testing ∧ other ≠ site ∧ s.usable other = true ∧ (x.rows.any
        fun r => r.site = other && r.recipe = recipe) = false) ∧
    (∃ (sector offset : Nat) (bytes : List Byte) (s : State), Sys2Proof.Inv s = true) ∧
    (∃ (site sector point recipe : Nat) (epoch : Dword) (s : State), Sys2Proof.Inv s = true ∧ s.arrives (.screenRun site sector
        point recipe epoch) = true) :=
  ⟨⟨0, 0, 0, 0, 0, 0, {}, up, forall_some (by decide +kernel), by decide +kernel⟩,
   ⟨0, 0, 0, 0, 1, 0, 0, {}, { stage := 3, testing := [0, 1] }, hb (fun y =>
       { y with pass := some { stage := 3, testing := [0, 1] } }), by decide +kernel⟩,
   ⟨0, 0, [1], up, by decide +kernel⟩,
   ⟨0, 0, 4, 0, 0, up, by decide +kernel⟩⟩

theorem witness_AlarmsAndQuarantine :
    (∃ (unit code : Nat) (raised : Bool) (edge : Edge) (s : State), Sys2Proof.Inv s = true ∧ s.arrives (.alarmLevel unit code
        raised edge) = true ∧ unit < 0x4000 ∧ bitOf code (Sparse.get 0 (s.hubOf (s.siteHub unit)).alarms unit) = raised) ∧
    (∃ (unit code : Nat) (raised : Bool) (edge : Edge) (s : State), Sys2Proof.Inv s = true ∧ s.arrives (.alarmLevel unit code
        raised edge) = true ∧ unit < 0x4000 ∧ bitOf code (Sparse.get 0 (s.hubOf (s.siteHub unit)).alarms unit) ≠ raised ∧ (raised
        = false ∨ 16 ≤ code)) ∧
    (∃ (unit : Nat) (edge : Edge) (s : State), Sys2Proof.Inv s = true ∧ 0x8000 ≤ unit ∧ s.arrives (.alarmLevel unit 34 true edge)
        = true) ∧
    (∃ (site : Nat) (s : State), Sys2Proof.Inv s = true ∧ s.arrives (.quarantine site) = true ∧ (s.siteRec site).state ≠ 6) ∧
    (∃ (site : Nat) (s : State), Sys2Proof.Inv s = true ∧ s.arrives (.quarantine site) = true ∧ (s.siteRec site).state = 6) ∧
    (∃ (site : Nat) (sum : Summary) (s : State), Sys2Proof.Inv s = true ∧ s.arrives (.summary site sum) = true ∧ 2 ≤ (s.hubOf
        (s.siteHub site)).sequencer) ∧
    (∃ (site : Nat) (sum : Summary) (s : State), Sys2Proof.Inv s = true ∧ s.arrives (.summary site sum) = true ∧ (s.hubOf
        (s.siteHub site)).sequencer < 2 ∧ ruleAction (s.hubOf (sectorOf site)).set sum = none) :=
  ⟨⟨0, 16, false, {}, up, by decide +kernel⟩,
   ⟨0, 16, true, {}, up, by decide +kernel⟩,
   ⟨0x8000, {}, up, by decide +kernel⟩,
   ⟨0, up, by decide +kernel⟩,
   ⟨0, rc (fun r => { r with state := 6, logical := 0xFFFF }), by decide +kernel⟩,
   ⟨0, {}, hb (fun y => { y with sequencer := 2 }), by decide +kernel⟩,
   ⟨0, {}, up, by decide +kernel⟩⟩

theorem witness_EdgesAndSearch :
    (∃ (hub : Nat) (raised : Bool) (edge : Edge) (s : State), Sys2Proof.Inv s = true ∧ s.arrives (.edgeChange hub raised edge) =
        true) ∧
    (∃ (hub : Nat) (s : State), Sys2Proof.Inv s = true) ∧
    (∃ (site : Nat) (s : State), Sys2Proof.Inv s = true ∧ s.arrives (.edgeTick site) = true ∧ s.clockRuns site = false) ∧
    (∃ (site : Nat) (s : State), Sys2Proof.Inv s = true ∧ s.arrives (.edgeTick site) = true ∧ s.clockRuns site = true) ∧
    (∃ (s : State), Sys2Proof.Inv s = true ∧ 2 ≤ s.stop.state) ∧
    (∃ (s : State), (∀ p, p < 16 → searchPartition p s = s) ∧ Sys2Proof.Inv s = true ∧ s.stop.state < 2 ∧ s.stop.releasedAt =
        none) ∧
    (∃ (s : State) (p cause path : _), (∀ q, q < 16 → q ≠ p → (s.partOf q).state ≠ 2 ∧ (s.partOf q).state ≠ 6) ∧ Sys2Proof.Inv s =
        true ∧ s.stop.state < 2 ∧ s.stop.releasedAt = none ∧ p < 16 ∧ (s.partOf p).state = 2 ∧ (s.partOf p).hang = none ∧
        searchGraph s.image.policy s.ras p s.tilePart s.graph = some (cause, path)) :=
  ⟨⟨0, true, {}, up, by decide +kernel⟩,
   ⟨0, up, by decide +kernel⟩,
   ⟨0, sn (fun x => { x with halted := some 0 }), by decide +kernel⟩,
   ⟨0, up, by decide +kernel⟩,
   ⟨modStop (fun x => { x with state := 2 }) up, by decide +kernel⟩,
   ⟨up, below (by decide +kernel), by decide +kernel⟩,
   ⟨cycle, 0, 1, ([{}] : List Edge), below (by decide +kernel), by decide +kernel⟩⟩

theorem witness_SnapshotsAndDigests :
    (∃ (hub p : Nat) (sites : List SnapSite) (edges : List Edge) (s : State), (∀ x, (s.partOf p).snapshot = some x → x.done =
        true) ∧ Sys2Proof.Inv s = true ∧ s.arrives (.snapshotPart hub p sites edges) = true) ∧
    (∃ (hub p : Nat) (sites : List SnapSite) (edges : List Edge) (s : State) (x : _), Sys2Proof.Inv s = true ∧ s.arrives
        (.snapshotPart hub p sites edges) = true ∧ (s.partOf p).snapshot = some x ∧ x.done = false ∧ (x.waiting.filter fun w =>
        !sites.any fun e => e.site = w) ≠ []) ∧
    (∃ (site : Nat) (s : State), (∀ x, (s.partOf (s.sitePart site)).snapshot = some x → site ∉ x.waiting) ∧ Sys2Proof.Inv s =
        true) ∧
    (∃ (site : Nat) (s : State) (x : _), Sys2Proof.Inv s = true ∧ (s.partOf (s.sitePart site)).snapshot = some x ∧ site ∈
        x.waiting ∧ x.done = false ∧ x.waiting.filter (· != site) ≠ []) ∧
    (∃ (hub p lost : Nat) (inputs outputs : List Tag) (s : State), Sys2Proof.Inv s = true ∧ s.arrives (.digestRun hub p inputs
        outputs lost) = true) ∧
    (∃ (p : Nat) (s : State), Sys2Proof.Inv s = true ∧ (s.partOf p).digestBusy = none) ∧
    (∃ (p : Nat) (s : State) (d : _), Sys2Proof.Inv s = true ∧ (s.partOf p).digestBusy = some d ∧ d.waiting ≠ []) ∧
    (∃ (p : Nat) (s : State) (d : _), Sys2Proof.Inv s = true ∧ (s.partOf p).digestBusy = some d ∧ d.waiting = []) ∧
    (∃ (step p length tag : Nat) (loss : Word) (s : State), Sys2Proof.Inv s = true ∧ length ≠ 4) ∧
    (∃ (step p length tag : Nat) (loss : Word) (s : State), Sys2Proof.Inv s = true ∧ length = 4 ∧ lossReason s step p ≠ 0) ∧
    (∃ (step p length tag : Nat) (loss : Word) (s : State), Sys2Proof.Inv s = true ∧ length = 4 ∧ lossReason s step p = 0 ∧
        isSpike s.image.policy (s.partOf p).loss.losses loss.toNat = false) :=
  ⟨⟨0, 0, [], [], up, forall_some (by decide +kernel), by decide +kernel⟩,
   ⟨0, 0, [{}], [], pt (fun x => { x with snapshot := some { waiting := [0, 1] } }), ({ waiting := [0, 1] } : Snapshot),
       by decide +kernel⟩,
   ⟨0, up, forall_some (by decide +kernel), by decide +kernel⟩,
   ⟨0, pt (fun x => { x with snapshot := some { waiting := [0, 1] } }), ({ waiting := [0, 1] } : Snapshot), by decide +kernel⟩,
   ⟨0, 0, 1, [], [], up, by decide +kernel⟩,
   ⟨0, up, by decide +kernel⟩,
   ⟨0, pt (fun x => { x with digestBusy := some { waiting := [0] } }), ({ waiting := [0] } : DigestSet), by decide +kernel⟩,
   ⟨0, pt (fun x => { x with digestBusy := some {} }), ({} : DigestSet), by decide +kernel⟩,
   ⟨0, 0, 5, 0, 0, up, by decide +kernel⟩,
   ⟨0, 16, 4, 0, 0, up, by decide +kernel⟩,
   ⟨0, 0, 4, 0, 0, up, by decide +kernel⟩⟩

theorem witness_ScreeningEvents :
    (∃ (p : Nat) (s : State), Sys2Proof.Inv s = true ∧ s.windowStart p = none) ∧
    (∃ (p : Nat) (s : State) (a : _), Sys2Proof.Inv s = true ∧ s.windowStart p = some a ∧ ((s.partOf p).state ≠ 2 ∨ (s.partOf
        p).windowAt = some a)) ∧
    (∃ (p : Nat) (s : State) (a : _), Sys2Proof.Inv s = true ∧ s.windowStart p = some a ∧ (s.partOf p).state = 2 ∧ (s.partOf
        p).windowAt ≠ some a) ∧
    (∃ (site : Nat) (s : State), Sys2Proof.Inv s = true ∧ Sparse.get none s.screens site = none) ∧
    (∃ (site : Nat) (s : State) (c : _), Sys2Proof.Inv s = true ∧ Sparse.get none s.screens site = some c ∧ c.kind ≠ 3) ∧
    (∃ (site : Nat) (heaters : Bool) (s : State), Sys2Proof.Inv s = true ∧ (s.nearLimit (sectorOf site) = true ∨ s.blocked 4 0
        site = true ∨ Sparse.get none s.screens site = none ∧ s.breached (s.sitePart site) = true)) ∧
    (∃ (site : Nat) (heaters : Bool) (s : State), Sys2Proof.Inv s = true ∧ (Sparse.get none s.screens site).isSome = true ∧
        s.nearLimit (sectorOf site) = false ∧ s.blocked 4 0 site = false) ∧
    (∃ (site : Nat) (heaters : Bool) (s : State), Sys2Proof.Inv s = true ∧ Sparse.get none s.screens site = none ∧ (s.siteRec
        site).state ≠ 1 ∧ (s.siteRec site).state ≠ 6) ∧
    (∃ (site : Nat) (heaters : Bool) (s : State), Sys2Proof.Inv s = true ∧ Sparse.get none s.screens site = none ∧ (s.siteRec
        site).state = 1 ∧ (s.siteRec site).deepPending = false ∧ Sparse.get 0 s.spareAt site ≠ 0 ∧ s.secs + 1 < Sparse.get 0
        s.spareAt site + s.image.policy.spareGap) ∧
    (∃ (site : Nat) (heaters : Bool) (s : State), Sys2Proof.Inv s = true ∧ Sparse.get none s.screens site = none ∧ s.nearLimit
        (sectorOf site) = false ∧ s.blocked 4 0 site = false ∧ s.breached (s.sitePart site) = false ∧ (s.siteRec site).state = 1 ∧
        (s.siteRec site).deepPending = false ∧ (Sparse.get 0 s.spareAt site = 0 ∨ Sparse.get 0 s.spareAt site +
        s.image.policy.spareGap ≤ s.secs + 1)) ∧
    (∃ (site : Nat) (s : State), Sys2Proof.Inv s = true ∧ ((Sparse.get none s.screens site).isSome = true ∨ s.breached (s.sitePart
        site) = true ∨ s.fencing (s.sitePart site) = true ∨ s.resetting (s.sitePart site) = true ∨ s.stop.state ≠ 0 ∨ (s.siteRec
        site).state ≠ 6 ∧ ((s.siteRec site).state ≠ 1 ∨ (s.siteRec site).deepPending = false ∨ s.repeatPending site = true))) ∧
    (∃ (site : Nat) (s : State), Sys2Proof.Inv s = true ∧ Sparse.get none s.screens site = none ∧ s.breached (s.sitePart site) =
        false ∧ s.fencing (s.sitePart site) = false ∧ s.resetting (s.sitePart site) = false ∧ s.stop.state = 0 ∧ ((s.siteRec
        site).state = 6 ∨ (s.siteRec site).state = 1 ∧ (s.siteRec site).deepPending = true ∧ s.repeatPending site = false)) ∧
    (∃ (sector : Nat) (s : State), (∀ x, (s.hubOf ((s.server sector).getD sector)).pass = some x → x.stage ≠ 2) ∧ Sys2Proof.Inv s
        = true) ∧
    (∃ (sector : Nat) (s : State) (x : _), Sys2Proof.Inv s = true ∧ (s.hubOf ((s.server sector).getD sector)).pass = some x ∧
        x.stage = 2) ∧
    (∃ (sector : Nat) (s : State), Sys2Proof.Inv s = true ∧ (s.hubOf sector).vmReq = false) ∧
    (∃ (sector : Nat) (s : State), Sys2Proof.Inv s = true ∧ (s.hubOf sector).vmReq = true) ∧
    (∃ (sector : Nat) (s : State), Sys2Proof.Inv s = true ∧ (s.present sector = false ∨ (s.hubOf sector).failed = true)) ∧
    (∃ (sector : Nat) (s : State), Sys2Proof.Inv s = true ∧ s.present sector = true ∧ (s.hubOf sector).failed = false) ∧
    (∃ (s : State), Sys2Proof.Inv s = true ∧ s.throttle.stage ≠ 0) ∧
    (∃ (s : State), Sys2Proof.Inv s = true ∧ s.throttle.stage = 0) ∧
    (∃ (site : Nat) (s : State), Sys2Proof.Inv s = true ∧ ((s.siteRec site).condition ≠ 1 ∨ (s.siteRec site).cleanScreens <
        s.image.policy.cleanScreens ∨ s.secs - max (s.siteRec site).lastEvent (s.siteRec site).stateSince <
        s.image.policy.cleanDays)) ∧
    (∃ (site : Nat) (s : State), Sys2Proof.Inv s = true ∧ (s.siteRec site).condition = 1 ∧ s.image.policy.cleanScreens ≤
        (s.siteRec site).cleanScreens ∧ s.image.policy.cleanDays ≤ s.secs - max (s.siteRec site).lastEvent (s.siteRec
        site).stateSince) :=
  ⟨⟨0, up, by decide +kernel⟩,
   ⟨0, pt (fun x => { x with job := some { windowPeriod := 8, windowLength := 4 }, windowAt := some 0 }), 0, by decide +kernel⟩,
   ⟨0, pt (fun x => { x with job := some { windowPeriod := 8, windowLength := 4 } }), 0, by decide +kernel⟩,
   ⟨0, up, by decide +kernel⟩,
   ⟨0, { up with screens := [(0, some { kind := 1 })] }, ({ kind := 1 } : Screen), by decide +kernel⟩,
   ⟨1, true, pt (fun x => { x with fence := some {} }), by decide +kernel⟩,
   ⟨1, true, { up with screens := [(1, some {})] }, by decide +kernel⟩,
   ⟨0, true, up, by decide +kernel⟩,
   ⟨1, true, { up with spareAt := [(1, 1)], image := { up.image with policy := { spareGap := 10 } } }, by decide +kernel⟩,
   ⟨1, true, up, by decide +kernel⟩,
   ⟨0, up, by decide +kernel⟩,
   ⟨1, modSite 1 (fun r => { r with state := 6 }) up, by decide +kernel⟩,
   ⟨0, up, forall_some (by decide +kernel), by decide +kernel⟩,
   ⟨0, hb (fun y => { y with pass := some { stage := 2, testing := [0] } }), ({ stage := 2, testing := [0] } : Pass),
       by decide +kernel⟩,
   ⟨0, up, by decide +kernel⟩,
   ⟨0, hb (fun y => { y with vmReq := true, vmWant := 1 }), by decide +kernel⟩,
   ⟨80, up, by decide +kernel⟩,
   ⟨79, up, by decide +kernel⟩,
   ⟨modThrottle (fun x => { x with stage := 1 }) up, by decide +kernel⟩,
   ⟨up, by decide +kernel⟩,
   ⟨0, up, by decide +kernel⟩,
   ⟨0,
       { rc (fun r => { r with state := 4, condition := 1, cleanScreens := 255 }) with image := { up.image with policy := { cleanDays := 0 } } },
       by decide +kernel⟩⟩

theorem witness_ThrottleLadder :
    (∃ (sector stage : Nat) (s : State), Sys2Proof.Inv s = true ∧ s.arrives (.throttleRequest sector stage) = true) ∧
    (∃ (unit stage : Nat) (engage : Dword) (s : State), Sys2Proof.Inv s = true ∧ s.arrives (.throttleStage unit stage engage) =
        true ∧ 0x4000 ≤ unit) ∧
    (∃ (site stage : Nat) (engage : Dword) (s : State), Sys2Proof.Inv s = true ∧ s.arrives (.throttleStage site stage engage) =
        true ∧ site < 0x4000 ∧ (s.senOf site).silent = true) ∧
    (∃ (site stage : Nat) (engage : Dword) (s : State), Sys2Proof.Inv s = true ∧ s.arrives (.throttleStage site stage engage) =
        true ∧ site < 0x4000 ∧ (s.senOf site).silent = false ∧ s.slotAt site ≤ engage.toNat) ∧
    (∃ (site stage : Nat) (engage : Dword) (s : State), Sys2Proof.Inv s = true ∧ s.arrives (.throttleStage site stage engage) =
        true ∧ site < 0x4000 ∧ (s.senOf site).silent = false ∧ engage.toNat < s.slotAt site) ∧
    (∃ (s : State), Sys2Proof.Inv s = true ∧ (s.throttle.pending = [] ∨ 2 ≤ s.stop.state)) ∧
    (∃ (s : State) (e k rest : _), Sys2Proof.Inv s = true ∧ s.throttle.pending = (e, k) :: rest ∧ s.stop.state < 2) ∧
    (∃ (sector low : Nat) (s : State), Sys2Proof.Inv s = true ∧ low = (if (s.hubOf sector).thermal.tripped then 4 else if
        s.brokenHold sector then 2 else 0) ∧ (s.modelled sector = false ∨ (s.hubOf sector).thermal.releasing = false ∨ (s.hubOf
        sector).thermal.request ≤ low)) ∧
    (∃ (sector low : Nat) (s : State), Sys2Proof.Inv s = true ∧ low = (if (s.hubOf sector).thermal.tripped then 4 else if
        s.brokenHold sector then 2 else 0) ∧ s.modelled sector = true ∧ (s.hubOf sector).thermal.releasing = true ∧ low < (s.hubOf
        sector).thermal.request) :=
  ⟨⟨0, 4, up, by decide +kernel⟩,
   ⟨0x4000, 1, 8, up, by decide +kernel⟩,
   ⟨0, 1, 8, sn (fun x => { x with silent := true }), by decide +kernel⟩,
   ⟨0, 1, 0, up, by decide +kernel⟩,
   ⟨0, 1, 7, { up with slot := 8 }, by decide +kernel⟩,
   ⟨up, by decide +kernel⟩,
   ⟨modThrottle (fun x => { x with pending := [(8, 1)] }) up, 8, 1, ([] : List (Nat × Nat)), by decide +kernel⟩,
   ⟨0, 0, up, by decide +kernel⟩,
   ⟨0, 0, hb (fun y => { y with thermal := { y.thermal with t := [0], releasing := true, request := 1 } }), by decide +kernel⟩⟩

theorem witness_ModelsAndUnits :
    (∃ (sector : Nat) (s : State), Sys2Proof.Inv s = true ∧ s.modelled sector = false) ∧
    (∃ (sector : Nat) (s : State), Sys2Proof.Inv s = true ∧ s.modelled sector = true) ∧
    (∃ (sector : Nat) (counts : List (Nat × List Word)) (diode : Int) (s : State), Sys2Proof.Inv s = true ∧ s.modelled sector =
        false) ∧
    (∃ (sector : Nat) (counts : List (Nat × List Word)) (diode : Int) (s : State), Sys2Proof.Inv s = true ∧ s.modelled sector =
        true) ∧
    (∃ (die : Nat) (readings : List Int) (s : State), Sys2Proof.Inv s = true) ∧
    (∃ (hub unit st : Nat) (s : State), Sys2Proof.Inv s = true ∧ st = (if unit = 0 then (s.hubOf hub).solver else if unit = 1 then
        (s.hubOf hub).sequencer else (s.hubOf hub).engine) ∧ (st < 2 ∨ unit ∈ (s.hubOf hub).waking)) ∧
    (∃ (hub unit st : Nat) (s : State), Sys2Proof.Inv s = true ∧ st = (if unit = 0 then (s.hubOf hub).solver else if unit = 1 then
        (s.hubOf hub).sequencer else (s.hubOf hub).engine) ∧ 2 ≤ st ∧ unit ∉ (s.hubOf hub).waking) ∧
    (∃ (hub unit : Nat) (s : State), Sys2Proof.Inv s = true ∧ unit ∉ (s.hubOf hub).waking) ∧
    (∃ (hub unit : Nat) (s : State), Sys2Proof.Inv s = true ∧ unit ∈ (s.hubOf hub).waking ∧ (s.hubOf hub).wakeWaiting.filter
        (waitsFor unit) = []) ∧
    (∃ (hub unit : Nat) (s : State) (site sum : _), Sys2Proof.Inv s = true ∧ unit = 1 ∧ 1 ∈ (s.hubOf hub).waking ∧ s.siteHub site
        = hub ∧ (s.hubOf hub).wakeWaiting = [.summary site sum] ∧ ruleAction (s.hubOf (sectorOf site)).set sum = none) ∧
    (∃ (scope number : Nat) (s : State), (s.waits.find? fun w => w.scope = scope && w.number = number && s.mayStart w) = none) ∧
    (∃ (scope number : Nat) (s : State) (w site : _), (s.waits.find? fun w => w.scope = scope && w.number = number && s.mayStart
        w) = some w ∧ w.act = .stopRequest site) ∧
    (∃ (scope number : Nat) (s : State) (w seq : _), (s.waits.find? fun w => w.scope = scope && w.number = number && s.mayStart w)
        = some w ∧ w.act = .unitScreen seq) :=
  ⟨⟨80, up, by decide +kernel⟩,
   ⟨0, hb (fun y => { y with thermal := { y.thermal with t := [0] } }), by decide +kernel⟩,
   ⟨80, [], 0, up, by decide +kernel⟩,
   ⟨0, [], 400, hb (fun y => { y with thermal := { y.thermal with t := [0] } }), by decide +kernel⟩,
   ⟨1, [200], up, by decide +kernel⟩,
   ⟨0, 1, 0, up, by decide +kernel⟩,
   ⟨0, 1, 2, hb (fun y => { y with sequencer := 2 }), by decide +kernel⟩,
   ⟨0, 1, up, by decide +kernel⟩,
   ⟨0, 2, hb (fun y => { y with waking := [2], engine := 2 }), by decide +kernel⟩,
   ⟨0, 1, hb (fun y => { y with waking := [1], sequencer := 2, wakeWaiting := [.summary 0 {}] }), 0, ({} : Summary),
       by decide +kernel⟩,
   ⟨0, 0, up, by decide +kernel⟩,
   ⟨3, 0, { up with waits := [{ rank := 2, scope := 3, number := 0, act := .stopRequest 0 }] },
       ({ rank := 2, scope := 3, number := 0, act := .stopRequest 0 } : WaitAct), 0, by decide +kernel⟩,
   ⟨0, 0, { up with waits := [{ rank := 4, scope := 0, number := 0, act := .unitScreen 1 }] },
       ({ rank := 4, scope := 0, number := 0, act := .unitScreen 1 } : WaitAct), 1, by decide +kernel⟩⟩

end Sys2Proof.Tests
end

section
/-!
PROOF. What a step does on an empty queue and with a command at the queue's front (R9, R10, R27, R529).
-/
namespace Sys2Proof.Machine

open Sys2Proof

theorem step_cons (c : Instr) (cs : List Instr) (s : State) :
    step { s with pending := c :: cs } = exec c { s with pending := cs } := rfl

theorem step_idle {s : State} (h : s.pending = []) : step s = .next (clockTick s) := by
  unfold step
  rw [h]

@[simp] theorem clockTick_ticks (s : State) : (clockTick s).ticks = s.ticks + 1 := rfl

@[simp] theorem clockTick_slot (s : State) : (clockTick s).slot = (s.slot + slotsPerTick s) % 2 ^ 64 := rfl

/-- An island after a period: it has counted a millisecond at every 100,000th tick while main power is good (R529). -/
theorem clockTick_island (s : State) (die : Nat) :
    (clockTick s).island die =
      if s.powered = true ∧ (s.ticks + 1) % 100000 = 0 then { s.island die with ms := (s.island die).ms + 1 } else s.island die := by
  by_cases hd : die = 0 <;> simp [clockTick, State.island, hd]

/-- A period changes the two counts and the islands, and no other field. -/
theorem clockTick_changes (s : State) : Changes [.ticks, .slot, .islandA, .islandB] s (clockTick s) := by
  intro φ hφ
  cases φ
  case ticks | slot | islandA | islandB => exact absurd (by decide) hφ
  all_goals rfl

end Sys2Proof.Machine
end

section
/-!
PROOF. Every command answers a next state (log entry 13): most outright, a message by its arrival or by waiting for a buffer
(R39, R44), a mailbox command by completing, waiting or running once it has begun (R491 to R494, R54).
-/
namespace Sys2Proof.Machine

open Sys2Proof

/-- The answer is a next state: no fault, no refusal. -/
def AnswersNext (r : Result) : Prop := ∃ t, r = .next t

theorem answersNext_next (t : State) : AnswersNext (.next t) := ⟨t, rfl⟩

theorem answersNext_ite {p : Prop} [Decidable p] {a b : Result} (ha : AnswersNext a) (hb : AnswersNext b) :
    AnswersNext (if p then a else b) := by
  split
  · exact ha
  · exact hb

theorem answersNext_arrive (m : Instr) (f : State → State) (s : State) : AnswersNext (arrive m f s) :=
  answersNext_ite (answersNext_next _) (answersNext_next _)

theorem answersNext_runCmd (seq status : Nat) (act : State → State) (s : State) : AnswersNext (runCmd seq status act s) :=
  answersNext_next _

/-- A mailbox command that first looks for a reason to wait or to leave the row to another command. -/
theorem answersNext_ite_runCmd {p : Prop} [Decidable p] (t s : State) (seq status : Nat) (act : State → State) :
    AnswersNext (if p then .next t else runCmd seq status act s) :=
  answersNext_ite (answersNext_next t) (answersNext_runCmd seq status act s)

/-- An action that waited starts as its command would, and answers a next state (R54). -/
theorem startWaiting_answersNext (c : Instr) (s : State) : AnswersNext (startWaiting c s) := by
  cases c
  case unitQuarantine | unitScreen | spareTakeover | trainingSave | traceConfigure | traceDrain | watchArm | watchDisarm =>
    simp only [startWaiting, execUnitQuarantine, execUnitScreen, execSpareTakeover, execTrainingSave, execTraceConfigure,
      execTraceDrain, execWatchArm, execWatchDisarm]
    split
    · exact answersNext_next _
    · exact answersNext_ite_runCmd _ _ _ _ _
  case stopAtSlot | stopNow =>
    simp only [startWaiting, execStopAtSlot, execStopNow]
    split
    · exact answersNext_next _
    · exact answersNext_runCmd _ _ _ _
  all_goals exact answersNext_next _

/-- Every command answers a next state, by the shape of its meaning. -/
theorem exec_answersNext (c : Instr) (s : State) : AnswersNext (exec c s) := by
  have hwait := startWaiting_answersNext c s
  cases c
  -- messages that arrive or wait for a buffer
  case alarmLevel | fence | fenceDone | resetDone | stopSlot | stopReleaseMessage | throttleStage | throttleRequest |
    quarantine | screenRun | traceTrigger | stopRequest | takeover | stepBoundary | residueVerdict | plausVerdict |
    redundancy | stepDone | sealVerdict | ledger | contribution | finalKept | stepToken | peerRelease | timeLoad | timeCheck
    | edgeTick | hubWatch | read | write | dropCountRead | programWrite | programRead | controlResponse | dropCount |
    summary | edgeChange | memoryError | runResult | repeatHeader | laneData | snapshotPart | digestRun =>
    simp only [exec, execAlarmLevel, execFence, execFenceDone, execResetDone, execStopSlot, execStopReleaseMessage,
      execThrottleStage, execThrottleRequest, execQuarantine, execScreenRun, execTraceTrigger, execStopRequest,
      execTakeover, execStepBoundary, execResidueVerdict, execPlausVerdict, execRedundancy, execStepDone, execSealVerdict,
      execLedger, execContribution, execFinalKept, execStepToken, execPeerRelease, execTimeLoad, execTimeCheck,
      execEdgeTick, execHubWatch, execRead, execWrite, execDropCountRead, execProgramWrite, execProgramRead,
      execControlResponse, execDropCount, execSummary, execEdgeChange, execMemoryError, execRunResult, execRepeatHeader,
      execLaneData, execSnapshotPart, execDigestRun]
    exact answersNext_arrive _ _ _
  -- an event is taken while a manager runs
  case event =>
    exact answersNext_ite (answersNext_arrive _ _ _) (answersNext_next _)
  -- mailbox commands that complete or run once they have begun
  case getIdentity | getStatus | logFreeze | logThaw | logClear | logMark | timeSetCalendar | healthQuery | unitRelease |
    historyRead | unitRetire | partitionDefine | partitionFence | partitionRelease | jobDetach | stepVerdictQuery |
    digestQuery | netConfigure | netStatus | stopRelease | hangSnapshot | thermalPolicy | sensorRetire | imageStage |
    imageCommit | counterConfigure | plausibilityLoad | managerSwitchover =>
    simp only [exec, execGetIdentity, execGetStatus, execLogFreeze, execLogThaw, execLogClear, execLogMark,
      execTimeSetCalendar, execHealthQuery, execUnitRelease, execHistoryRead, execUnitRetire, execPartitionDefine,
      execPartitionFence, execPartitionRelease, execJobDetach, execStepVerdictQuery, execDigestQuery, execNetConfigure,
      execNetStatus, execStopRelease, execHangSnapshot, execThermalPolicy, execSensorRetire, execImageStage,
      execImageCommit, execCounterConfigure, execPlausibilityLoad, execManagerSwitchover]
    split
    · exact answersNext_next _
    · exact answersNext_runCmd _ _ _ _
  -- mailbox commands that another condition holds back or leaves to another row
  case partitionReset | waferReset | contextTeardown | jobAttach | scanOut =>
    simp only [exec, execPartitionReset, execWaferReset, execContextTeardown, execJobAttach, execScanOut]
    split
    · exact answersNext_next _
    · exact answersNext_ite_runCmd _ _ _ _ _
  -- actions that may have waited for a higher-ranked one
  case unitQuarantine | unitScreen | spareTakeover | trainingSave | traceConfigure | traceDrain | watchArm | watchDisarm |
    stopAtSlot | stopNow =>
    exact hwait
  case waitingActionStart =>
    simp only [exec, execWaitingActionStart]
    split
    · exact answersNext_next _
    · exact startWaiting_answersNext _ _
  -- rows whose condition may not hold: they change nothing
  case memoryExitWrite | linkExitBlock =>
    exact answersNext_ite (answersNext_next _) (answersNext_ite (answersNext_next _) (answersNext_next _))
  case tileReset | outputTileSealed =>
    exact answersNext_ite (answersNext_next _) (answersNext_next _)
  -- every other command gives the next state outright
  all_goals exact answersNext_next _

end Sys2Proof.Machine
end

section
/-!
PROOF. The frame of every command, from the frame of its meaning (Laws/Frame*.lean).
-/
namespace Sys2Proof.Machine

open Sys2Proof

/-- A field that `touches` does not list for a command is kept by it. -/
theorem exec_kept {φ : Fld} (c : Instr) (s : State) (hφ : φ ∉ touches c) : Kept φ (exec c s) s := by
  cases c with
  | mainPowerGood p => exact execMainPowerGood_kept (Fld.mono hφ rfl) p s
  | securityAuthentication die authentic => exact execSecurityAuthentication_kept (Fld.mono hφ rfl) die authentic s
  | imageDigestExchange => exact execImageDigestExchange_kept (Fld.mono hφ rfl) s
  | linkTrainingResult kind index result time settings =>
    exact execLinkTrainingResult_kept (Fld.mono hφ rfl) kind index result time settings s
  | pwrWarnN written => exact execPwrWarnN_kept (Fld.mono hφ rfl) written s
  | pwrWarnReturn => exact execPwrWarnReturn_kept (Fld.mono hφ rfl) s
  | managerWatchdogExpiry die => exact execManagerWatchdogExpiry_kept (Fld.mono hφ rfl) die s
  | functionLevelReset => exact execFunctionLevelReset_kept (Fld.mono hφ rfl) s
  | tapReset die => exact execTapReset_kept (Fld.mono hφ rfl) die s
  | smbusClockLowTimeout die => exact execSmbusClockLowTimeout_kept (Fld.mono hφ rfl) die s
  | mramFailure die => exact execMramFailure_kept (Fld.mono hφ rfl) die s
  | linkWatchdogExpiry link => exact execLinkWatchdogExpiry_kept (Fld.mono hφ rfl) link s
  | hubBufferFreed hub index => exact execHubBufferFreed_kept (Fld.mono hφ rfl) hub index s
  | reservedClassDiscard hub cls opcode => exact execReservedClassDiscard_kept (Fld.mono hφ rfl) hub cls opcode s
  | alarmLevel unit code raised edge => exact execAlarmLevel_kept (Fld.mono hφ rfl) unit code raised edge s
  | fence unit partition cause => exact execFence_kept (Fld.mono hφ rfl) unit partition cause s
  | fenceDone site => exact execFenceDone_kept (Fld.mono hφ rfl) site s
  | fenceDeadline partition => exact execFenceDeadline_kept (Fld.mono hφ rfl) partition s
  | tileReset site cause => exact execTileReset_kept (Fld.mono hφ rfl) site cause s
  | resetDone site => exact execResetDone_kept (Fld.mono hφ rfl) site s
  | tileResetTimeout site => exact execTileResetTimeout_kept (Fld.mono hφ rfl) site s
  | resetMemoryReady partition failing => exact execResetMemoryReady_kept (Fld.mono hφ rfl) partition failing s
  | stopSlot site n => exact execStopSlot_kept (Fld.mono hφ rfl) site n s
  | stopSlotReached site => exact execStopSlotReached_kept (Fld.mono hφ rfl) site s
  | stopCodeDecoded site slot => exact execStopCodeDecoded_kept (Fld.mono hφ rfl) site slot s
  | stopReleaseMessage site sMin => exact execStopReleaseMessage_kept (Fld.mono hφ rfl) site sMin s
  | tileRestart site => exact execTileRestart_kept (Fld.mono hφ rfl) site s
  | syncPulse => exact execSyncPulse_kept (Fld.mono hφ rfl) s
  | throttleStage unit stage engage => exact execThrottleStage_kept (Fld.mono hφ rfl) unit stage engage s
  | throttleEngage => exact execThrottleEngage_kept (Fld.mono hφ rfl) s
  | throttleRequest sector stage => exact execThrottleRequest_kept (Fld.mono hφ rfl) sector stage s
  | quarantine site => exact execQuarantine_kept (Fld.mono hφ rfl) site s
  | screenRun site sector point recipe epoch => exact execScreenRun_kept (Fld.mono hφ rfl) site sector point recipe epoch s
  | traceTrigger site firing slot => exact execTraceTrigger_kept (Fld.mono hφ rfl) site firing slot s
  | repeatRead site seq reason elems outs operands early =>
    exact execRepeatRead_kept (Fld.mono hφ rfl) site seq reason elems outs operands early s
  | stopRequest site => exact execStopRequest_kept (Fld.mono hφ rfl) site s
  | takeover hub => exact execTakeover_kept (Fld.mono hφ rfl) hub s
  | stepBoundary hub partition step sk flags => exact execStepBoundary_kept (Fld.mono hφ rfl) hub partition step sk flags s
  | residueVerdict site item detail => exact execResidueVerdict_kept (Fld.mono hφ rfl) site item detail s
  | plausVerdict site item => exact execPlausVerdict_kept (Fld.mono hφ rfl) site item s
  | redundancy site item => exact execRedundancy_kept (Fld.mono hφ rfl) site item s
  | stepDone site item => exact execStepDone_kept (Fld.mono hφ rfl) site item s
  | stepDoneWaitExpiry hub partition => exact execStepDoneWaitExpiry_kept (Fld.mono hφ rfl) hub partition s
  | sentinelReadTimeout site => exact execSentinelReadTimeout_kept (Fld.mono hφ rfl) site s
  | sealVerdict unit partition lineage test step seq info =>
    exact execSealVerdict_kept (Fld.mono hφ rfl) unit partition lineage test step seq info s
  | ledger site entry => exact execLedger_kept (Fld.mono hφ rfl) site entry s
  | contribution hub partition step failed groups =>
    exact execContribution_kept (Fld.mono hφ rfl) hub partition step failed groups s
  | finalKept partition step kept restarted failed blocks =>
    exact execFinalKept_kept (Fld.mono hφ rfl) partition step kept restarted failed blocks s
  | stepToken partition => exact execStepToken_kept (Fld.mono hφ rfl) partition s
  | peerRelease partition => exact execPeerRelease_kept (Fld.mono hφ rfl) partition s
  | timeLoad unit v => exact execTimeLoad_kept (Fld.mono hφ rfl) unit v s
  | timeCheck hub => exact execTimeCheck_kept (Fld.mono hφ rfl) hub s
  | rasAlignmentTimer => exact execRasAlignmentTimer_kept (Fld.mono hφ rfl) s
  | edgeTickTimer hub => exact execEdgeTickTimer_kept (Fld.mono hφ rfl) hub s
  | edgeTick site => exact execEdgeTick_kept (Fld.mono hφ rfl) site s
  | hubWatchTimer hub => exact execHubWatchTimer_kept (Fld.mono hφ rfl) hub s
  | hubWatch sector => exact execHubWatch_kept (Fld.mono hφ rfl) sector s
  | hubWatchMissed sector => exact execHubWatchMissed_kept (Fld.mono hφ rfl) sector s
  | read unit offset count tag => exact execRead_kept (Fld.mono hφ rfl) unit offset count tag s
  | write unit offset words tag => exact execWrite_kept (Fld.mono hφ rfl) unit offset words tag s
  | dropCountRead site tag => exact execDropCountRead_kept (Fld.mono hφ rfl) site tag s
  | programWrite site offset words tag => exact execProgramWrite_kept (Fld.mono hφ rfl) site offset words tag s
  | programRead site offset count tag => exact execProgramRead_kept (Fld.mono hφ rfl) site offset count tag s
  | controlResponse unit cls opcode tag status empty =>
    exact execControlResponse_kept (Fld.mono hφ rfl) unit cls opcode tag status empty s
  | event ev => exact execEvent_kept (Fld.mono hφ rfl) ev s
  | dropCount site count => exact execDropCount_kept (Fld.mono hφ rfl) site count s
  | summary site sum => exact execSummary_kept (Fld.mono hφ rfl) site sum s
  | edgeChange hub raised edge => exact execEdgeChange_kept (Fld.mono hφ rfl) hub raised edge s
  | memoryError hub report => exact execMemoryError_kept (Fld.mono hφ rfl) hub report s
  | runResult site recipe verdict seals signature status replay =>
    exact execRunResult_kept (Fld.mono hφ rfl) site recipe verdict seals signature status replay s
  | repeatHeader site hdr => exact execRepeatHeader_kept (Fld.mono hφ rfl) site hdr s
  | laneData site data => exact execLaneData_kept (Fld.mono hφ rfl) site data s
  | content sector offset bytes => exact execContent_kept (Fld.mono hφ rfl) sector offset bytes s
  | snapshotPart hub partition sites edges => exact execSnapshotPart_kept (Fld.mono hφ rfl) hub partition sites edges s
  | snapshotSiteTimeout site => exact execSnapshotSiteTimeout_kept (Fld.mono hφ rfl) site s
  | digestRun hub partition inputs outputs lost =>
    exact execDigestRun_kept (Fld.mono hφ rfl) hub partition inputs outputs lost s
  | digestComplete partition => exact execDigestComplete_kept (Fld.mono hφ rfl) partition s
  | journalEntry entry => exact execJournalEntry_kept (Fld.mono hφ rfl) entry s
  | audit sequence agree => exact execAudit_kept (Fld.mono hφ rfl) sequence agree s
  | heartbeatTimer die => exact execHeartbeatTimer_kept (Fld.mono hφ rfl) die s
  | heartbeat die ras role => exact execHeartbeat_kept (Fld.mono hφ rfl) die ras role s
  | heartbeatLoss die => exact execHeartbeatLoss_kept (Fld.mono hφ rfl) die s
  | standbyLoss die => exact execStandbyLoss_kept (Fld.mono hφ rfl) die s
  | recordMirror index r => exact execRecordMirror_kept (Fld.mono hφ rfl) index r s
  | mirrorAck index => exact execMirrorAck_kept (Fld.mono hφ rfl) index s
  | mirrorAckTimeout index => exact execMirrorAckTimeout_kept (Fld.mono hφ rfl) index s
  | standbyRejoin => exact execStandbyRejoin_kept (Fld.mono hφ rfl) s
  | mramWrite die offset data => exact execMramWrite_kept (Fld.mono hφ rfl) die offset data s
  | windowForward access => exact execWindowForward_kept (Fld.mono hφ rfl) access s
  | pinState pins => exact execPinState_kept (Fld.mono hφ rfl) pins s
  | oobForward msg => exact execOobForward_kept (Fld.mono hφ rfl) msg s
  | tcgWakeAckRise site => exact execTcgWakeAckRise_kept (Fld.mono hφ rfl) site s
  | tcgWakeAckFall site => exact execTcgWakeAckFall_kept (Fld.mono hφ rfl) site s
  | wakeTimeout site => exact execWakeTimeout_kept (Fld.mono hφ rfl) site s
  | eventLevelRise site code => exact execEventLevelRise_kept (Fld.mono hφ rfl) site code s
  | eventCounterSampleTimer site => exact execEventCounterSampleTimer_kept (Fld.mono hφ rfl) site s
  | frontQueueEntry site => exact execFrontQueueEntry_kept (Fld.mono hφ rfl) site s
  | blockConsumed site c => exact execBlockConsumed_kept (Fld.mono hφ rfl) site c s
  | sealReread site stored => exact execSealReread_kept (Fld.mono hφ rfl) site stored s
  | blockProduced site p => exact execBlockProduced_kept (Fld.mono hφ rfl) site p s
  | outputTileSealed site t => exact execOutputTileSealed_kept (Fld.mono hφ rfl) site t s
  | sampleSelect site seq => exact execSampleSelect_kept (Fld.mono hφ rfl) site seq s
  | vectorBeat site b => exact execVectorBeat_kept (Fld.mono hφ rfl) site b s
  | streamEnd site => exact execStreamEnd_kept (Fld.mono hφ rfl) site s
  | stepLastComplete site => exact execStepLastComplete_kept (Fld.mono hφ rfl) site s
  | queueCommandIssue site op => exact execQueueCommandIssue_kept (Fld.mono hφ rfl) site op s
  | queueCommandComplete site op discarded => exact execQueueCommandComplete_kept (Fld.mono hφ rfl) site op discarded s
  | sramErrorReport site corrected path address desc =>
    exact execSramErrorReport_kept (Fld.mono hφ rfl) site corrected path address desc s
  | memoryEntryRead t => exact execMemoryEntryRead_kept (Fld.mono hφ rfl) t s
  | memoryExitWrite t => exact execMemoryExitWrite_kept (Fld.mono hφ rfl) t s
  | linkEntryBlock t => exact execLinkEntryBlock_kept (Fld.mono hφ rfl) t s
  | trailerReceived partition port block => exact execTrailerReceived_kept (Fld.mono hφ rfl) partition port block s
  | linkExitBlock t => exact execLinkExitBlock_kept (Fld.mono hφ rfl) t s
  | reductionInputBlock t => exact execReductionInputBlock_kept (Fld.mono hφ rfl) t s
  | reductionCompareMismatch partition => exact execReductionCompareMismatch_kept (Fld.mono hφ rfl) partition s
  | commitDone partition written reduced => exact execCommitDone_kept (Fld.mono hφ rfl) partition written reduced s
  | mirrorBlockReceived owner index block markedFailed =>
    exact execMirrorBlockReceived_kept (Fld.mono hφ rfl) owner index block markedFailed s
  | partnerCopyComplete owner => exact execPartnerCopyComplete_kept (Fld.mono hφ rfl) owner s
  | tier2CopyComplete partition region => exact execTier2CopyComplete_kept (Fld.mono hφ rfl) partition region s
  | takeoverFillComplete tile resFailed mirFailed =>
    exact execTakeoverFillComplete_kept (Fld.mono hφ rfl) tile resFailed mirFailed s
  | replayDone partition result tile lastStep length tag =>
    exact execReplayDone_kept (Fld.mono hφ rfl) partition result tile lastStep length tag s
  | replayDoneTimeout partition tile => exact execReplayDoneTimeout_kept (Fld.mono hφ rfl) partition tile s
  | lossReport step loss partition length tag =>
    exact execLossReport_kept (Fld.mono hφ rfl) step loss partition length tag s
  | unknownCoreMessage type tag => exact execUnknownCoreMessage_kept (Fld.mono hφ rfl) type tag s
  | peerTimeout partition entry => exact execPeerTimeout_kept (Fld.mono hφ rfl) partition entry s
  | memoryCompletion hub point partition context gen =>
    exact execMemoryCompletion_kept (Fld.mono hφ rfl) hub point partition context gen s
  | flitIntoFencedPartition site expects => exact execFlitIntoFencedPartition_kept (Fld.mono hφ rfl) site expects s
  | teardownWritesDrained partition context reads writes =>
    exact execTeardownWritesDrained_kept (Fld.mono hφ rfl) partition context reads writes s
  | teardownWriteTimeout partition context reads writes =>
    exact execTeardownWriteTimeout_kept (Fld.mono hφ rfl) partition context reads writes s
  | waitForSearchTimer => exact execWaitForSearchTimer_kept (Fld.mono hφ rfl) s
  | commitWaitExpiry partition => exact execCommitWaitExpiry_kept (Fld.mono hφ rfl) partition s
  | replayStepLimitExpiry partition => exact execReplayStepLimitExpiry_kept (Fld.mono hφ rfl) partition s
  | screeningWindowStart partition => exact execScreeningWindowStart_kept (Fld.mono hφ rfl) partition s
  | screenSpanExpiry site => exact execScreenSpanExpiry_kept (Fld.mono hφ rfl) site s
  | spareScreenStart site heaters => exact execSpareScreenStart_kept (Fld.mono hφ rfl) site heaters s
  | heatingTimeout sector => exact execHeatingTimeout_kept (Fld.mono hφ rfl) sector s
  | vmarginAck sector => exact execVmarginAck_kept (Fld.mono hφ rfl) sector s
  | vmarginKeepaliveTimer sector => exact execVmarginKeepaliveTimer_kept (Fld.mono hφ rfl) sector s
  | stageZeroHold => exact execStageZeroHold_kept (Fld.mono hφ rfl) s
  | cleanPeriodEnd site => exact execCleanPeriodEnd_kept (Fld.mono hφ rfl) site s
  | modelStep sector => exact execModelStep_kept (Fld.mono hφ rfl) sector s
  | thermalSample sector counts diode => exact execThermalSample_kept (Fld.mono hφ rfl) sector counts diode s
  | edgeDiodeRead die readings => exact execEdgeDiodeRead_kept (Fld.mono hφ rfl) die readings s
  | releaseHoldExpiry sector => exact execReleaseHoldExpiry_kept (Fld.mono hφ rfl) sector s
  | unitWakeStart hub unit => exact execUnitWakeStart_kept (Fld.mono hφ rfl) hub unit s
  | historyCountFlush site => exact execHistoryCountFlush_kept (Fld.mono hφ rfl) site s
  | counterCopyTimer => exact execCounterCopyTimer_kept (Fld.mono hφ rfl) s
  | hourlyCalendarMark => exact execHourlyCalendarMark_kept (Fld.mono hφ rfl) s
  | memCeHour => exact execMemCeHour_kept (Fld.mono hφ rfl) s
  | staleCompletionSecond hub => exact execStaleCompletionSecond_kept (Fld.mono hφ rfl) hub s
  | rateWindowStart => exact execRateWindowStart_kept (Fld.mono hφ rfl) s
  | ringBatchWrite count => exact execRingBatchWrite_kept (Fld.mono hφ rfl) count s
  | freezeLimitExpiry => exact execFreezeLimitExpiry_kept (Fld.mono hφ rfl) s
  | thmUpdate => exact execThmUpdate_kept (Fld.mono hφ rfl) s
  | watchDumpComplete site slot => exact execWatchDumpComplete_kept (Fld.mono hφ rfl) site slot s
  | plausibilitySetConfirmed hub partition => exact execPlausibilitySetConfirmed_kept (Fld.mono hφ rfl) hub partition s
  | plausibilityLoadTimeout partition => exact execPlausibilityLoadTimeout_kept (Fld.mono hφ rfl) partition s
  | waitingActionStart scope number => exact execWaitingActionStart_kept (Fld.mono hφ rfl) scope number s
  | commandBegin seq => exact execCommandBegin_kept (Fld.mono hφ rfl) seq s
  | submit channel priv => exact execSubmit_kept (Fld.mono hφ rfl) channel priv s
  | cplAck channel => exact execCplAck_kept (Fld.mono hφ rfl) channel s
  | claim channel priv => exact execClaim_kept (Fld.mono hφ rfl) channel priv s
  | release channel => exact execRelease_kept (Fld.mono hφ rfl) channel s
  | loRegisterRead offset size priv => exact execLoRegisterRead_kept (Fld.mono hφ rfl) offset size priv s
  | cntSnapshot priv => exact execCntSnapshot_kept (Fld.mono hφ rfl) priv s
  | cursorHiWrite value priv => exact execCursorHiWrite_kept (Fld.mono hφ rfl) value priv s
  | altStatusClear value priv => exact execAltStatusClear_kept (Fld.mono hφ rfl) value priv s
  | jtagCtrlWrite value priv => exact execJtagCtrlWrite_kept (Fld.mono hφ rfl) value priv s
  | seedLoad hub sampling value => exact execSeedLoad_kept (Fld.mono hφ rfl) hub sampling value s
  | registerWrite offset size value priv => exact execRegisterWrite_kept (Fld.mono hφ rfl) offset size value priv s
  | getIdentity seq => exact execGetIdentity_kept (Fld.mono hφ rfl) seq s
  | getStatus seq => exact execGetStatus_kept (Fld.mono hφ rfl) seq s
  | logFreeze seq => exact execLogFreeze_kept (Fld.mono hφ rfl) seq s
  | logThaw seq => exact execLogThaw_kept (Fld.mono hφ rfl) seq s
  | logClear seq => exact execLogClear_kept (Fld.mono hφ rfl) seq s
  | logMark seq => exact execLogMark_kept (Fld.mono hφ rfl) seq s
  | timeSetCalendar seq => exact execTimeSetCalendar_kept (Fld.mono hφ rfl) seq s
  | healthQuery seq => exact execHealthQuery_kept (Fld.mono hφ rfl) seq s
  | unitQuarantine seq => exact execUnitQuarantine_kept (Fld.mono hφ rfl) seq s
  | unitRelease seq => exact execUnitRelease_kept (Fld.mono hφ rfl) seq s
  | unitScreen seq => exact execUnitScreen_kept (Fld.mono hφ rfl) seq s
  | historyRead seq => exact execHistoryRead_kept (Fld.mono hφ rfl) seq s
  | unitRetire seq => exact execUnitRetire_kept (Fld.mono hφ rfl) seq s
  | spareTakeover seq => exact execSpareTakeover_kept (Fld.mono hφ rfl) seq s
  | partitionDefine seq => exact execPartitionDefine_kept (Fld.mono hφ rfl) seq s
  | partitionFence seq => exact execPartitionFence_kept (Fld.mono hφ rfl) seq s
  | partitionReset seq => exact execPartitionReset_kept (Fld.mono hφ rfl) seq s
  | waferReset seq tests => exact execWaferReset_kept (Fld.mono hφ rfl) seq tests s
  | partitionRelease seq => exact execPartitionRelease_kept (Fld.mono hφ rfl) seq s
  | contextTeardown seq => exact execContextTeardown_kept (Fld.mono hφ rfl) seq s
  | jobAttach seq => exact execJobAttach_kept (Fld.mono hφ rfl) seq s
  | jobDetach seq => exact execJobDetach_kept (Fld.mono hφ rfl) seq s
  | stepVerdictQuery seq => exact execStepVerdictQuery_kept (Fld.mono hφ rfl) seq s
  | digestQuery seq => exact execDigestQuery_kept (Fld.mono hφ rfl) seq s
  | netConfigure seq result time settings => exact execNetConfigure_kept (Fld.mono hφ rfl) seq result time settings s
  | netStatus seq => exact execNetStatus_kept (Fld.mono hφ rfl) seq s
  | stopAtSlot seq => exact execStopAtSlot_kept (Fld.mono hφ rfl) seq s
  | stopNow seq => exact execStopNow_kept (Fld.mono hφ rfl) seq s
  | stopRelease seq => exact execStopRelease_kept (Fld.mono hφ rfl) seq s
  | scanOut seq absent time expired => exact execScanOut_kept (Fld.mono hφ rfl) seq absent time expired s
  | traceConfigure seq => exact execTraceConfigure_kept (Fld.mono hφ rfl) seq s
  | traceDrain seq time => exact execTraceDrain_kept (Fld.mono hφ rfl) seq time s
  | watchArm seq => exact execWatchArm_kept (Fld.mono hφ rfl) seq s
  | watchDisarm seq => exact execWatchDisarm_kept (Fld.mono hφ rfl) seq s
  | hangSnapshot seq => exact execHangSnapshot_kept (Fld.mono hφ rfl) seq s
  | thermalPolicy seq => exact execThermalPolicy_kept (Fld.mono hφ rfl) seq s
  | sensorRetire seq => exact execSensorRetire_kept (Fld.mono hφ rfl) seq s
  | imageStage seq => exact execImageStage_kept (Fld.mono hφ rfl) seq s
  | imageCommit seq authenticA authenticB tests =>
    exact execImageCommit_kept (Fld.mono hφ rfl) seq authenticA authenticB tests s
  | trainingSave seq => exact execTrainingSave_kept (Fld.mono hφ rfl) seq s
  | counterConfigure seq => exact execCounterConfigure_kept (Fld.mono hφ rfl) seq s
  | plausibilityLoad seq => exact execPlausibilityLoad_kept (Fld.mono hφ rfl) seq s
  | managerSwitchover seq journalOk => exact execManagerSwitchover_kept (Fld.mono hφ rfl) seq journalOk s
  | oobRequest msg => exact execOobRequest_kept (Fld.mono hφ rfl) msg s
  | oobCompletionRetry die => exact execOobCompletionRetry_kept (Fld.mono hφ rfl) die s
  | setEndpointId die eid physical integrity => exact execSetEndpointId_kept (Fld.mono hφ rfl) die eid physical integrity s
  | getEndpointId die physical integrity => exact execGetEndpointId_kept (Fld.mono hφ rfl) die physical integrity s
  | getMctpVersionSupport die physical integrity =>
    exact execGetMctpVersionSupport_kept (Fld.mono hφ rfl) die physical integrity s
  | getMessageTypeSupport die physical integrity =>
    exact execGetMessageTypeSupport_kept (Fld.mono hφ rfl) die physical integrity s
  | getVendorDefinedMessageSupport die physical integrity =>
    exact execGetVendorDefinedMessageSupport_kept (Fld.mono hφ rfl) die physical integrity s
  | unsupportedMctpMessage die msgType command physical integrity =>
    exact execUnsupportedMctpMessage_kept (Fld.mono hφ rfl) die msgType command physical integrity s
  | bypass die => exact execBypass_kept (Fld.mono hφ rfl) die s
  | idcode die => exact execIdcode_kept (Fld.mono hφ rfl) die s
  | jtagDebugInstruction die ir kind => exact execJtagDebugInstruction_kept (Fld.mono hφ rfl) die ir kind s
  | mainPowerLoss => exact execMainPowerLoss_kept (Fld.mono hφ rfl) s
  | backupSupplyLoss die => exact execBackupSupplyLoss_kept (Fld.mono hφ rfl) die s
  | dropSummarySecond => exact execDropSummarySecond_kept (Fld.mono hφ rfl) s
  | unitWakeComplete hub unit => exact execUnitWakeComplete_kept (Fld.mono hφ rfl) hub unit s
  | deepScreenStart site => exact execDeepScreenStart_kept (Fld.mono hφ rfl) site s
  | settingsWriteComplete => exact execSettingsWriteComplete_kept (Fld.mono hφ rfl) s

theorem exec_changes {c : Instr} {s t : State} (h : exec c s = .next t) : Changes (touches c) s t := by
  intro φ hφ
  have hk := exec_kept c s hφ
  rw [h] at hk
  exact kept_next.1 hk

/-- The queue and the tick count are the environment's: no command lists them (R9, R10). -/
theorem pending_ticks_not_mem_touches (c : Instr) : .pending ∉ touches c ∧ .ticks ∉ touches c := by
  have h : (!(touches c).contains .pending && !(touches c).contains .ticks) = true := by cases c <;> rfl
  simpa using h

/-- The configuration flashes are IMAGE_STAGE's alone (R405, R406). -/
theorem flash_not_mem_touches {c : Instr} (hc : ∀ seq, c ≠ .imageStage seq) : .flashA ∉ touches c ∧ .flashB ∉ touches c := by
  have h : (!(touches c).contains .flashA && !(touches c).contains .flashB) = true := by
    cases c
    case imageStage seq => exact absurd rfl (hc seq)
    all_goals rfl
  simpa using h

end Sys2Proof.Machine
end

section
/-!
PROOF. The statements of the block's scope.
-/
namespace Sys2Proof.Machine

open Sys2Proof

/-- Settles O1: the two arms of `step` are its definition. -/
theorem stepRunsTheFrontCommand : Obligations.StepRunsTheFrontCommand := by
  unfold Obligations.StepRunsTheFrontCommand
  exact step_cons

/-- Settles O2: an idle step is `clockTick`, and its laws give every clause. -/
theorem idleStepCountsOnePeriod : Obligations.IdleStepCountsOnePeriod := by
  unfold Obligations.IdleStepCountsOnePeriod
  intro s h
  refine ⟨clockTick s, step_idle h, clockTick_ticks s, clockTick_slot s, fun die => ?_, fun die => ?_, clockTick_changes s⟩
  · rw [clockTick_island]
    split <;> rfl
  · rw [clockTick_island]
    split <;> exact ⟨rfl, rfl⟩

/-- Settles O3, by the shape of each command's meaning. -/
theorem everyCommandAnswersNext : Obligations.EveryCommandAnswersNext := by
  unfold Obligations.EveryCommandAnswersNext
  exact exec_answersNext

/-- Settles O6, by the frame of each command's meaning. -/
theorem commandsChangeOnlyTheirFields : Obligations.CommandsChangeOnlyTheirFields := by
  unfold Obligations.CommandsChangeOnlyTheirFields
  exact fun _ _ _ h => exec_changes h

/-- Settles O7: the frame of every command, for four fields that `touches` leaves out. -/
theorem queueClockAndFlashKept : Obligations.QueueClockAndFlashKept := by
  unfold Obligations.QueueClockAndFlashKept
  intro c s t h
  have hframe := exec_changes h
  obtain ⟨hpending, hticks⟩ := pending_ticks_not_mem_touches c
  refine ⟨hframe .pending hpending, hframe .ticks hticks, fun hc => ?_⟩
  obtain ⟨hflashA, hflashB⟩ := flash_not_mem_touches hc
  exact ⟨hframe .flashA hflashA, hframe .flashB hflashB⟩

end Sys2Proof.Machine
end

section
/-!
PROOF. What the arrival of a message leaves as it was (R37, R449): everything but the messages in flight and the hubs.
-/
namespace Sys2Proof.Machine

open Sys2Proof

variable {s : State}

/-- An operation on hubs, done for each of a list, changes the hubs only. -/
theorem each_hub_eq {f : Nat → State → State} (hf : ∀ x s, ∃ h, f x s = { s with hub := h }) (xs : List Nat) :
    ∀ s : State, ∃ h, each xs f s = { s with hub := h } := by
  induction xs with
  | nil => exact fun s => ⟨s.hub, rfl⟩
  | cons x xs ih =>
    intro s
    obtain ⟨h, hx⟩ := hf x s
    obtain ⟨h', hxs⟩ := ih (f x s)
    exact ⟨h', hxs.trans (by rw [hx])⟩

/-- A message that has arrived changes the messages in flight and the hubs, and no other field. -/
theorem receive_eq (m : Instr) (s : State) : ∃ q h, receive m s = { s with sent := q, hub := h } := by
  unfold receive
  obtain ⟨h, hr⟩ := each_hub_eq (fun x z => ⟨_, rfl⟩) ((s.path m).2.getD []) (setSent (s.sent.erase m) s)
  exact ⟨_, h, hr⟩

@[simp] theorem receive_sen (m : Instr) (s : State) : (receive m s).sen = s.sen := receive_get (φ := .sen) (by decide) m s

@[simp] theorem receive_answers (m : Instr) (s : State) : (receive m s).answers = s.answers :=
  receive_get (φ := .answers) (by decide) m s

@[simp] theorem receive_senOf (m : Instr) (s : State) (k : Nat) : (receive m s).senOf k = s.senOf k :=
  senOf_of_get (receive_sen m s) k

@[simp] theorem receive_present (m : Instr) (s : State) (x : Nat) : (receive m s).present x = s.present x := by
  obtain ⟨q, h, hr⟩ := receive_eq m s
  rw [hr]
  rfl

@[simp] theorem receive_answers? (m : Instr) (s : State) (k : Nat) : (receive m s).answers? k = s.answers? k := by
  obtain ⟨q, h, hr⟩ := receive_eq m s
  rw [hr]
  rfl

@[simp] theorem receive_tileAt (m : Instr) (s : State) (k : Nat) : (receive m s).tileAt k = s.tileAt k := by
  obtain ⟨q, h, hr⟩ := receive_eq m s
  rw [hr]
  rfl

@[simp] theorem receive_mustWait (m : Instr) (s : State) (k : Nat) : (receive m s).mustWait k = s.mustWait k := by
  obtain ⟨q, h, hr⟩ := receive_eq m s
  rw [hr]
  rfl

@[simp] theorem receive_senWord (m : Instr) (s : State) (k o : Nat) : senWord (receive m s) k o = senWord s k o := by
  obtain ⟨q, h, hr⟩ := receive_eq m s
  rw [hr]
  rfl

@[simp] theorem receive_senReadEffect (m : Instr) (s : State) (k o : Nat) (x : Sentinel) :
    senReadEffect (receive m s) k o x = senReadEffect s k o x := by
  obtain ⟨q, h, hr⟩ := receive_eq m s
  rw [hr]
  rfl

/-- The arrival of a message leaves a hub failed or working, and the state of its engine. -/
theorem receive_hub_kept (hs : Inv s = true) (m : Instr) (k : Nat) :
    ((receive m s).hubOf k).failed = (s.hubOf k).failed ∧ ((receive m s).hubOf k).engine = (s.hubOf k).engine := by
  obtain ⟨c, p, hr⟩ := receive_hubOf hs m k
  rw [hr]
  exact ⟨rfl, rfl⟩

theorem receive_works (hs : Inv s = true) (m : Instr) (h : Nat) : (receive m s).works h = s.works h := by
  unfold State.works
  rw [receive_present, (receive_hub_kept hs m h).1]

theorem receive_veAsleep (hs : Inv s = true) (m : Instr) (u o : Nat) : veAsleep (receive m s) u o = veAsleep s u o := by
  unfold veAsleep
  rw [(receive_hub_kept hs m (u - 0x4000)).2]

end Sys2Proof.Machine
end

section
/-!
PROOF. Reads and writes of a sentinel's words (R77, R79): which fields they change, and what the words are.
-/
namespace Sys2Proof.Machine

open Sys2Proof

variable {s : State}

@[simp] theorem answer_answers (unit opcode tag status : Nat) (words : List Word) (s : State) :
    (answer unit opcode tag status words s).answers =
      s.answers ++ [{ unit := unit, opcode := opcode, tag := tag, status := status, words := words }] := rfl

@[simp] theorem answer_sen (unit opcode tag status : Nat) (words : List Word) (s : State) :
    (answer unit opcode tag status words s).sen = s.sen := rfl

@[simp] theorem answer_hub (unit opcode tag status : Nat) (words : List Word) (s : State) :
    (answer unit opcode tag status words s).hub = s.hub := rfl

@[simp] theorem answer_senOf (unit opcode tag status : Nat) (words : List Word) (s : State) (k : Nat) :
    (answer unit opcode tag status words s).senOf k = s.senOf k := rfl

@[simp] theorem send_senOf (m : Instr) (s : State) (k : Nat) : (send m s).senOf k = s.senOf k := rfl

@[simp] theorem modSen_answers (k : Nat) (f : Sentinel → Sentinel) (s : State) : (modSen k f s).answers = s.answers := rfl

@[simp] theorem modHub_answers (k : Nat) (f : Hub → Hub) (s : State) : (modHub k f s).answers = s.answers := rfl

@[simp] theorem wordOffsets_one (off : Nat) : wordOffsets off 1 = [off] := rfl

/-- The words of a read do not depend on the messages in flight or on the hubs. -/
theorem senReadAll_words_congr (site : Nat) (q : List Instr) (h : Sparse Hub) (os : List Nat) :
    ∀ s : State, (senReadAll site os { s with sent := q, hub := h }).2 = (senReadAll site os s).2 := by
  induction os with
  | nil => exact fun _ => rfl
  | cons o os ih => exact fun s => congrArg (BitVec.ofNat 32 (senWord s site o) :: ·) (ih (modSen site (senReadEffect s site o) s))

@[simp] theorem receive_senReadAll_words (m : Instr) (s : State) (site : Nat) (os : List Nat) :
    (senReadAll site os (receive m s)).2 = (senReadAll site os s).2 := by
  obtain ⟨q, h, hr⟩ := receive_eq m s
  rw [hr]
  exact senReadAll_words_congr site q h os s

@[simp] theorem senReadAll_answers (site : Nat) (os : List Nat) (s : State) : (senReadAll site os s).1.answers = s.answers :=
  senReadAll_get (φ := .answers) (by decide) site os s

/-- The reads of words change the sentinels only. -/
theorem senReadAll_eq (site : Nat) (os : List Nat) : ∀ s : State, ∃ v, (senReadAll site os s).1 = { s with sen := v } := by
  induction os with
  | nil => exact fun s => ⟨s.sen, rfl⟩
  | cons o os ih =>
    intro s
    obtain ⟨v, hv⟩ := ih (modSen site (senReadEffect s site o) s)
    exact ⟨v, hv⟩

theorem senRead_known {off n : Nat} (h : (wordOffsets off n).all senKnown = true) (site tag : Nat) (s : State) :
    senRead site off n tag s =
      answer site 1 tag 0 (senReadAll site (wordOffsets off n) s).2 (senReadAll site (wordOffsets off n) s).1 := if_pos h

theorem senRead_unknown {off n : Nat} (h : (wordOffsets off n).all senKnown = false) (site tag : Nat) (s : State) :
    senRead site off n tag s = answer site 1 tag 1 [] s := if_neg (by simp [h])

/-- A read changes the sentinels and the answers, and no other field. -/
theorem senRead_eq (site off n tag : Nat) (s : State) : ∃ v a, senRead site off n tag s = { s with sen := v, answers := a } := by
  by_cases h : (wordOffsets off n).all senKnown = true
  · obtain ⟨v, hv⟩ := senReadAll_eq site (wordOffsets off n) s
    rw [senRead_known h, hv]
    exact ⟨v, _, rfl⟩
  · rw [senRead_unknown (by simpa using h)]
    exact ⟨s.sen, _, rfl⟩

/-- The record of the hub that serves a site is the same after a read of the site. -/
@[simp] theorem senRead_servingHub (site off n tag u : Nat) (s : State) :
    (senRead site off n tag s).hubOf ((senRead site off n tag s).siteHub u) = s.hubOf (s.siteHub u) := by
  obtain ⟨v, a, hv⟩ := senRead_eq site off n tag s
  rw [hv]
  rfl

/-- A write of words changes SEN.CTRL, SEN.CROSS_ERR and the back's copy of SEN.OBS, and no other field. -/
theorem senWriteAll_eq (ws : List Word) : ∀ (off : Nat) (x : Sentinel),
    ∃ c e o, senWriteAll off ws x = { x with ctrl := c, crossErr := e, obs := o } := by
  induction ws with
  | nil => exact fun _ x => ⟨x.ctrl, x.crossErr, x.obs, rfl⟩
  | cons w ws ih =>
    intro off x
    have hword : ∃ c e o, senWriteWord off w.toNat x = { x with ctrl := c, crossErr := e, obs := o } := by
      unfold senWriteWord
      split
      · exact ⟨_, _, _, rfl⟩
      · split <;> exact ⟨_, _, _, rfl⟩
    obtain ⟨c, e, o, hx⟩ := hword
    obtain ⟨c', e', o', hxs⟩ := ih (off + 4) (senWriteWord off w.toNat x)
    exact ⟨c', e', o', hxs.trans (by rw [hx])⟩

/-- A write of a site's words leaves its core clock and its reset as they are. -/
theorem mustWait_senWriteAll (hs : Inv s = true) (site off : Nat) (ws : List Word) :
    (modSen site (senWriteAll off ws) s).mustWait site = s.mustWait site := by
  obtain ⟨c, e, o, hw⟩ := senWriteAll_eq ws off (s.senOf site)
  unfold State.mustWait State.clockRuns State.clockBefore
  rw [senOf_modSen hs, hw]
  rfl

@[simp] theorem applySettings_ctrl (x : Sentinel) : (applySettings x).ctrl = x.ctrl := by
  unfold applySettings
  dsimp only
  split <;> rfl

@[simp] theorem applySettings_crossErr (x : Sentinel) : (applySettings x).crossErr = x.crossErr := by
  unfold applySettings
  dsimp only
  split <;> rfl

@[simp] theorem applySettings_wakeWaiting (x : Sentinel) : (applySettings x).wakeWaiting = x.wakeWaiting := by
  unfold applySettings
  dsimp only
  split <;> rfl

@[simp] theorem applySettings_alarm (x : Sentinel) : (applySettings x).alarm = x.alarm := by
  unfold applySettings
  dsimp only
  split <;> rfl

@[simp] theorem applySettings_settle (x : Sentinel) : (applySettings x).settle = x.settle := by
  unfold applySettings
  dsimp only
  split <;> rfl

end Sys2Proof.Machine
end

section
/-!
PROOF. Alarm levels (R40) and the wait for a front that does not run (R72, R75): one sentinel's record after each operation.
-/
namespace Sys2Proof.Machine

open Sys2Proof

variable {s : State}

/-- The alarm levels of a sentinel after a rise or fall of one of them. -/
def alarmAfter (code : Nat) (raised : Bool) (a : Nat) : Nat :=
  if bitOf code a = raised then a else if raised then a + 2 ^ code else a - 2 ^ code

theorem senOf_setAlarm (hs : Inv s = true) (site code : Nat) (raised : Bool) (edge : Edge) :
    (setAlarm site code raised edge s).senOf site =
      { s.senOf site with alarm := alarmAfter code raised (s.senOf site).alarm } := by
  unfold setAlarm alarmAfter
  split
  · rfl
  · rw [send_senOf, senOf_modSen hs]

theorem senOf_setAlarm_ne (hs : Inv s = true) {site k : Nat} (hk : k ≠ site) (code : Nat) (raised : Bool) (edge : Edge) :
    (setAlarm site code raised edge s).senOf k = s.senOf k := by
  unfold setAlarm
  split
  · rfl
  · rw [send_senOf, senOf_modSen_ne hs hk]

@[simp] theorem setAlarm_answers (site code : Nat) (raised : Bool) (edge : Edge) (s : State) :
    (setAlarm site code raised edge s).answers = s.answers := setAlarm_get (φ := .answers) (by decide) site code raised edge s

/-- The level that a rise or fall names stands as named. -/
@[simp] theorem bitOf_alarmAfter (code : Nat) (raised : Bool) (a : Nat) : bitOf code (alarmAfter code raised a) = raised := by
  have hpos : 0 < 2 ^ code := Nat.two_pow_pos code
  unfold alarmAfter
  split
  case isTrue h => exact h
  case isFalse h =>
    cases raised
    case false =>
      have hbit : a / 2 ^ code % 2 = 1 := by simpa [bitOf] using h
      have hdiv : (a - 2 ^ code) / 2 ^ code = a / 2 ^ code - 1 := by simpa using Nat.sub_mul_div a (2 ^ code) 1
      simp only [bitOf, Bool.false_eq_true, if_false, hdiv, beq_eq_false_iff_ne]
      omega
    case true =>
      have hbit : a / 2 ^ code % 2 = 0 := by simpa [bitOf] using h
      simp only [bitOf, if_true, Nat.add_div_right a hpos, beq_iff_eq]
      omega

/-- A rise of level 0 leaves level 1, clock-generator-unresponsive, as it stands. -/
theorem bitOf_one_alarmAfter_zero (a : Nat) : bitOf 1 (alarmAfter 0 true a) = bitOf 1 a := by
  unfold alarmAfter
  split
  case isTrue => rfl
  case isFalse h =>
    have heven : a % 2 = 0 := by simpa [bitOf] using h
    have hhalf : (a + 1) / 2 = a / 2 := by omega
    simp [bitOf, hhalf]

/-- A sentinel whose SEN_WAKE_REQ rises when a crossing waits and no request is under way (R72). -/
def wakeRaised (x : Sentinel) : Sentinel :=
  if x.wakeState = 0 && (!x.wakeWaiting.isEmpty || x.settle || x.drains != 0) then { x with wakeState := 1, wake := true } else x

theorem raiseWake_eq (site : Nat) (s : State) : raiseWake site s = modSen site wakeRaised s := rfl

/-- SEN_WAKE_REQ changes of a sentinel the request and its state only. -/
theorem wakeRaised_eq (x : Sentinel) : ∃ n w, wakeRaised x = { x with wakeState := n, wake := w } := by
  unfold wakeRaised
  split <;> exact ⟨_, _, rfl⟩

theorem wakeRaised_of_crossing {x : Sentinel} (hidle : x.wakeState = 0)
    (hx : x.wakeWaiting ≠ [] ∨ x.settle = true ∨ x.drains ≠ 0) : wakeRaised x = { x with wakeState := 1, wake := true } :=
  if_pos (by simpa [hidle, or_assoc] using hx)

theorem wakeRaised_of_no_crossing {x : Sentinel} (hw : x.wakeWaiting = []) (hset : x.settle = false) (hd : x.drains = 0) :
    wakeRaised x = x := if_neg (by simp [hw, hset, hd])

/-- A crossing that waits: the request rises, but for a tile in reset (R72, R75). -/
theorem senOf_waitFront (hs : Inv s = true) (site : Nat) (f : Sentinel → Sentinel) :
    (waitFront site f s).senOf site = if (f (s.senOf site)).inReset then f (s.senOf site) else wakeRaised (f (s.senOf site)) := by
  unfold waitFront
  dsimp only
  rw [senOf_modSen hs]
  split
  · exact senOf_modSen hs site f
  · rw [raiseWake_eq, senOf_modSen (modSen_inv site f s hs), senOf_modSen hs]

/-- Of the site a crossing that waits changes what it notes, the request and its state. -/
theorem senOf_waitFront_eq (hs : Inv s = true) (site : Nat) (f : Sentinel → Sentinel) :
    ∃ n w, (waitFront site f s).senOf site = { f (s.senOf site) with wakeState := n, wake := w } := by
  rw [senOf_waitFront hs]
  split
  · exact ⟨_, _, rfl⟩
  · exact wakeRaised_eq _

theorem senOf_waitFront_ne (hs : Inv s = true) {site k : Nat} (hk : k ≠ site) (f : Sentinel → Sentinel) :
    (waitFront site f s).senOf k = s.senOf k := by
  unfold waitFront
  dsimp only
  split
  · exact senOf_modSen_ne hs hk f
  · rw [raiseWake_eq, senOf_modSen_ne (modSen_inv site f s hs) hk, senOf_modSen_ne hs hk]

@[simp] theorem waitWake_answers (site : Nat) (m : Instr) (s : State) : (waitWake site m s).answers = s.answers :=
  waitWake_get (φ := .answers) (by decide) site m s

/-- An access that waits stands behind those that wait already. -/
theorem waitWake_wakeWaiting (hs : Inv s = true) (site : Nat) (m : Instr) :
    ((waitWake site m s).senOf site).wakeWaiting = (s.senOf site).wakeWaiting ++ [m] := by
  obtain ⟨n, w, hx⟩ := senOf_waitFront_eq hs site fun x => { x with wakeWaiting := x.wakeWaiting ++ [m] }
  unfold waitWake
  rw [hx]

/-- An access that waits raises the request of a tile that is not in reset (R72). -/
theorem waitWake_requests (hs : Inv s = true) {site : Nat} (m : Instr) (hr : (s.senOf site).inReset = false)
    (hidle : (s.senOf site).wakeState = 0) :
    ((waitWake site m s).senOf site).wake = true ∧ ((waitWake site m s).senOf site).wakeState = 1 := by
  unfold waitWake
  rw [senOf_waitFront hs, if_neg (by simp [hr]),
    wakeRaised_of_crossing (x := { s.senOf site with wakeWaiting := (s.senOf site).wakeWaiting ++ [m] }) hidle (.inl (by simp))]
  exact ⟨rfl, rfl⟩

/-- An access to a tile in reset waits without a request (R75). -/
theorem waitWake_in_reset (hs : Inv s = true) {site : Nat} (m : Instr) (hr : (s.senOf site).inReset = true) :
    ((waitWake site m s).senOf site).wakeState = (s.senOf site).wakeState := by
  unfold waitWake
  rw [senOf_waitFront hs, if_pos (show _ = true from hr)]

end Sys2Proof.Machine
end

section
/-!
PROOF. The wake protocol of a tile's front (R72 to R75): what crosses with the acknowledge, and what completes without it.
-/
namespace Sys2Proof.Machine

open Sys2Proof

variable {s : State}

/-- Between two records of a sentinel no access has begun or ceased to wait, and the level clock-generator-unresponsive is the same. -/
def CrossKept (x y : Sentinel) : Prop := y.wakeWaiting = x.wakeWaiting ∧ bitOf 1 y.alarm = bitOf 1 x.alarm

theorem CrossKept.refl (x : Sentinel) : CrossKept x x := ⟨rfl, rfl⟩

theorem CrossKept.trans {x y z : Sentinel} (h : CrossKept x y) (h' : CrossKept y z) : CrossKept x z :=
  ⟨h'.1.trans h.1, h'.2.trans h.2⟩

theorem modSen_crossKept (hs : Inv s = true) {f : Sentinel → Sentinel} (hf : ∀ x, CrossKept x (f x)) {j k : Nat} :
    CrossKept (s.senOf k) ((modSen j f s).senOf k) := by
  by_cases hk : k = j
  · subst hk
    rw [senOf_modSen hs]
    exact hf _
  · rw [senOf_modSen_ne hs hk]
    exact .refl _

theorem senReadEffect_crossKept (s : State) (site off : Nat) (x : Sentinel) : CrossKept x (senReadEffect s site off x) := by
  unfold senReadEffect
  split
  · exact ⟨rfl, rfl⟩
  · split
    · exact ⟨rfl, rfl⟩
    · split <;> exact ⟨rfl, rfl⟩

theorem senReadAll_crossKept (site k : Nat) (os : List Nat) :
    ∀ {s : State}, Inv s = true → CrossKept (s.senOf k) ((senReadAll site os s).1.senOf k) := by
  induction os with
  | nil => exact fun _ => .refl _
  | cons o os ih =>
    intro s hs
    exact (modSen_crossKept hs (senReadEffect_crossKept s site o)).trans (ih (modSen_inv _ _ _ hs))

theorem senRead_crossKept (hs : Inv s = true) (site off n tag k : Nat) :
    CrossKept (s.senOf k) ((senRead site off n tag s).senOf k) := by
  unfold senRead
  split
  · exact senReadAll_crossKept site k _ hs
  · exact .refl _

theorem senWriteAll_crossKept (off : Nat) (ws : List Word) (x : Sentinel) : CrossKept x (senWriteAll off ws x) := by
  obtain ⟨c, e, o, hw⟩ := senWriteAll_eq ws off x
  rw [hw]
  exact ⟨rfl, rfl⟩

theorem waitFront_crossKept (hs : Inv s = true) {f : Sentinel → Sentinel} (hf : ∀ x, CrossKept x (f x)) {j k : Nat} :
    CrossKept (s.senOf k) ((waitFront j f s).senOf k) := by
  by_cases hk : k = j
  · subst hk
    obtain ⟨n, w, hx⟩ := senOf_waitFront_eq hs k f
    rw [hx]
    exact hf _
  · rw [senOf_waitFront_ne hs hk]
    exact .refl _

theorem settleIdle_crossKept (hs : Inv s = true) (site k : Nat) : CrossKept (s.senOf k) ((settleIdle site s).senOf k) := by
  unfold settleIdle
  split
  · exact .refl _
  · split
    · refine waitFront_crossKept hs fun x => ?_
      exact ⟨rfl, rfl⟩
    · exact modSen_crossKept hs (fun x => ⟨applySettings_wakeWaiting x, congrArg _ (applySettings_alarm x)⟩)

theorem senWrite_crossKept (hs : Inv s = true) (site off tag k : Nat) (ws : List Word) :
    CrossKept (s.senOf k) ((senWrite site off ws tag s).senOf k) := by
  unfold senWrite
  split
  · exact (modSen_crossKept hs (senWriteAll_crossKept off ws)).trans (settleIdle_crossKept (modSen_inv _ _ _ hs) site k)
  · exact .refl _

theorem programStore_crossKept (hs : Inv s = true) (site off tag k : Nat) (ws : List Word) :
    CrossKept (s.senOf k) ((programStore site off ws tag s).senOf k) := by
  unfold programStore
  split
  · rw [answer_senOf]
    refine modSen_crossKept hs fun x => ?_
    exact ⟨rfl, rfl⟩
  · exact .refl _

/-- Poison consumed is level 0: taking it leaves level 1 alone. -/
theorem poisonAlarm_crossKept (hs : Inv s = true) (site code k : Nat) :
    CrossKept (s.senOf k) ((if code = 0 then setAlarm site 0 true {} s else s).senOf k) := by
  split
  · by_cases hk : k = site
    · subst hk
      rw [senOf_setAlarm hs]
      exact ⟨rfl, bitOf_one_alarmAfter_zero _⟩
    · rw [senOf_setAlarm_ne hs hk]
      exact .refl _
  · exact .refl _

theorem takeEv_crossKept (hs : Inv s = true) (site code k : Nat) : CrossKept (s.senOf k) ((takeEv site code s).senOf k) := by
  unfold takeEv
  split
  · exact .refl _
  · refine .trans ?_ (poisonAlarm_crossKept (modSen_inv _ _ _ hs) site code k)
    refine modSen_crossKept hs fun x => ?_
    exact ⟨rfl, rfl⟩

/-- An access that crosses does not wait again, and leaves the level clock-generator-unresponsive as it stands. -/
theorem performAccess_crossKept (hs : Inv s = true) (m : Instr) (k : Nat) :
    CrossKept (s.senOf k) ((performAccess m s).senOf k) := by
  unfold performAccess
  split
  · exact senRead_crossKept hs _ _ _ _ k
  · exact senWrite_crossKept hs _ _ _ k _
  · exact programStore_crossKept hs _ _ _ k _
  · unfold programLoad
    split <;> exact .refl _
  · exact .refl _
  · exact takeEv_crossKept hs _ _ k
  · exact .refl _

theorem performAll_crossKept (k : Nat) (ms : List Instr) :
    ∀ {s : State}, Inv s = true → CrossKept (s.senOf k) ((each ms performAccess s).senOf k) := by
  induction ms with
  | nil => exact fun _ => .refl _
  | cons m ms ih => exact fun hs => (performAccess_crossKept hs m k).trans (ih (performAccess_inv m _ hs))

/-- When the waiting accesses have crossed, none waits. -/
theorem serveWake_crossed (hs : Inv s = true) (site : Nat) :
    ((serveWake site s).senOf site).wakeWaiting = [] ∧
      bitOf 1 ((serveWake site s).senOf site).alarm = bitOf 1 (s.senOf site).alarm := by
  have hserved := performAll_crossKept site (s.senOf site).wakeWaiting (modSen_inv site (fun x => { x with wakeWaiting := [] }) s hs)
  rw [senOf_modSen hs] at hserved
  exact hserved

/-- Settings that waited cross to the front (R72, R79). -/
def settleWaiting (site : Nat) (s : State) : State :=
  if (s.senOf site).settle then modSen site (fun x => applySettings { x with settle := false }) s else s

theorem settleWaiting_inv (site : Nat) (hs : Inv s = true) : Inv (settleWaiting site s) = true :=
  inv_ite (fun _ => modSen_inv _ _ _ hs) (fun _ => hs)

theorem settleWaiting_crossKept (hs : Inv s = true) (site k : Nat) : CrossKept (s.senOf k) ((settleWaiting site s).senOf k) := by
  unfold settleWaiting
  split
  · refine modSen_crossKept hs fun x => ?_
    exact ⟨applySettings_wakeWaiting _, congrArg _ (applySettings_alarm _)⟩
  · exact .refl _

theorem settleWaiting_settle (hs : Inv s = true) (site : Nat) : ((settleWaiting site s).senOf site).settle = false := by
  unfold settleWaiting
  split
  case isTrue => rw [senOf_modSen hs, applySettings_settle]
  case isFalse h => simpa using h

/-- The state in which accesses, settings and queue entries have crossed and the request has not fallen yet. -/
def crossed (site : Nat) (s : State) : State :=
  each (List.replicate (s.senOf site).drains site) drainOne
    (modSen site (fun x => { x with drains := 0 }) (settleWaiting site (serveWake site s)))

theorem serveFront_eq (site : Nat) (s : State) :
    serveFront site s = modSen site (fun x => { x with wakeState := 3, wake := false }) (crossed site s) := rfl

theorem crossed_inv (site : Nat) (hs : Inv s = true) : Inv (crossed site s) = true :=
  each_inv _ _ (fun k y hy => drainOne_inv k y hy) _ (modSen_inv _ _ _ (settleWaiting_inv site (serveWake_inv site s hs)))

theorem senOf_serveFront (hs : Inv s = true) (site : Nat) :
    (serveFront site s).senOf site = { (crossed site s).senOf site with wakeState := 3, wake := false } := by
  rw [serveFront_eq, senOf_modSen (crossed_inv site hs)]

/-- With no queue entry to drain, nothing waits when the front has been served. -/
theorem serveFront_leaves_nothing (hs : Inv s = true) {site : Nat} (hd : (s.senOf site).drains = 0) :
    ((serveFront site s).senOf site).wakeWaiting = [] ∧ ((serveFront site s).senOf site).settle = false ∧
      bitOf 1 ((serveFront site s).senOf site).alarm = bitOf 1 (s.senOf site).alarm := by
  have hwake := serveWake_inv site s hs
  obtain ⟨hnone, hlevel⟩ := serveWake_crossed hs site
  obtain ⟨hnone', hlevel'⟩ := settleWaiting_crossKept hwake site site
  have hcross : (crossed site s).senOf site = { (settleWaiting site (serveWake site s)).senOf site with drains := 0 } := by
    unfold crossed
    rw [hd]
    exact senOf_modSen (settleWaiting_inv site hwake) site _
  rw [senOf_serveFront hs, hcross]
  exact ⟨hnone'.trans hnone, settleWaiting_settle hwake site, hlevel'.trans hlevel⟩

/-- An acknowledge at a tile that is not in reset serves its front (R72, R74). -/
theorem exec_tcgWakeAckRise_serves {site : Nat} (hw : (s.senOf site).wakeState = 1) (hr : (s.senOf site).inReset = false) :
    exec (.tcgWakeAckRise site) s = .next (serveFront site (setAlarm site 1 false {} s)) := by
  simp [exec_tcgWakeAckRise, execTcgWakeAckRise, hw, hr]

/-- An acknowledge at a tile in reset is noted; the accesses wait for the end of the reset (R75). -/
theorem exec_tcgWakeAckRise_in_reset {site : Nat} (hw : (s.senOf site).wakeState = 1) (hr : (s.senOf site).inReset = true) :
    exec (.tcgWakeAckRise site) s =
      .next (setAlarm site 1 false {} (modSen site (fun y => { y with wakeState := 2 }) s)) := by
  simp [exec_tcgWakeAckRise, execTcgWakeAckRise, hw, hr]

/-- The acknowledge's fall ends the wake, or begins the next for what waits (R72). -/
theorem exec_tcgWakeAckFall_ends {site : Nat} (hw : (s.senOf site).wakeState = 3) :
    exec (.tcgWakeAckFall site) s = .next (modSen site wakeRaised (modSen site (fun y => { y with wakeState := 0 }) s)) := by
  simp [exec_tcgWakeAckFall, execTcgWakeAckFall, hw, raiseWake_eq]

/-- What an access that waits is answered when its wake is not acknowledged in time: WAKE_TIMEOUT (R74). -/
def timeoutAnswer (m : Instr) : Option Answer :=
  match m with
  | .read u _ _ tag => some { unit := u, opcode := 1, tag := tag, status := 2, words := [] }
  | .write u _ _ tag => some { unit := u, opcode := 2, tag := tag, status := 2, words := [] }
  | .programWrite u _ _ tag => some { unit := u, opcode := 0x10, tag := tag, status := 2, words := [] }
  | .programRead u _ _ tag => some { unit := u, opcode := 0x11, tag := tag, status := 2, words := [] }
  | _ => none

theorem timeoutAccess_answers (m : Instr) (s : State) :
    (timeoutAccess m s).answers = s.answers ++ (timeoutAnswer m).toList := by
  unfold timeoutAccess
  split <;> simp [timeoutAnswer, send]

theorem timeoutAll_answers (ms : List Instr) :
    ∀ s : State, (each ms timeoutAccess s).answers = s.answers ++ ms.filterMap timeoutAnswer := by
  induction ms with
  | nil => exact fun s => (List.append_nil _).symm
  | cons m ms ih =>
    intro s
    refine (ih (timeoutAccess m s)).trans ?_
    rw [timeoutAccess_answers, List.append_assoc]
    cases h : timeoutAnswer m <;> simp [h]

theorem timeoutAll_senOf (ms : List Instr) (s : State) (k : Nat) : (each ms timeoutAccess s).senOf k = s.senOf k :=
  senOf_of_get (each_get (φ := .sen) ms timeoutAccess (fun m y => timeoutAccess_get (by decide) m y) s) k

theorem exec_wakeTimeout_waiting {site : Nat} (hw : (s.senOf site).wakeState = 1) :
    exec (.wakeTimeout site) s =
      .next (setAlarm site 1 true {} (each (s.senOf site).wakeWaiting timeoutAccess
        (modSen site (fun y => { y with crossErr := y.crossErr ||| 2, wakeWaiting := [] }) s))) := by
  simp [exec_wakeTimeout, execWakeTimeout, hw]

/-- A wake that is not acknowledged in time: CROSS_ERR and the alarm show it, every waiting access is answered, the request stays
(R74). -/
theorem wakeTimeout_completes (hs : Inv s = true) {site : Nat} (hw : (s.senOf site).wakeState = 1) :
    ∃ t, exec (.wakeTimeout site) s = .next t ∧
      t.senOf site = { s.senOf site with crossErr := (s.senOf site).crossErr ||| 2, wakeWaiting := [],
                                         alarm := alarmAfter 1 true (s.senOf site).alarm } ∧
      t.answers = s.answers ++ (s.senOf site).wakeWaiting.filterMap timeoutAnswer := by
  refine ⟨_, exec_wakeTimeout_waiting hw, ?_, ?_⟩
  · rw [senOf_setAlarm (each_inv _ _ (fun m y => timeoutAccess_inv m y) _ (modSen_inv _ _ _ hs)), timeoutAll_senOf,
      senOf_modSen hs]
  · rw [setAlarm_answers, timeoutAll_answers, modSen_answers]

end Sys2Proof.Machine
end

section
/-!
PROOF. What a write leaves of a sentinel (R77, R79): the back's registers at once, the front's at the step boundary, or for a site
that holds no logical tile at once or by its wake.
-/
namespace Sys2Proof.Machine

open Sys2Proof

variable {s : State}

@[simp] theorem modSen_tileAt (k : Nat) (f : Sentinel → Sentinel) (s : State) (j : Nat) : (modSen k f s).tileAt j = s.tileAt j := rfl

@[simp] theorem settleIdle_answers (site : Nat) (s : State) : (settleIdle site s).answers = s.answers :=
  settleIdle_get (φ := .answers) (by decide) site s

/-- The settings of a site that holds a logical tile wait for the step boundary (R79). -/
theorem settleIdle_of_tile {site : Nat} (h : s.tileAt site ≠ 0xFFFF) : settleIdle site s = s := if_pos (by simpa using h)

/-- Those of an idle site whose front runs take effect at once. -/
theorem settleIdle_of_running {site : Nat} (h : s.tileAt site = 0xFFFF) (hw : s.mustWait site = false) :
    settleIdle site s = modSen site applySettings s := by
  simp [settleIdle, h, hw]

/-- Those of an idle site whose front is stopped wait for its wake. -/
theorem settleIdle_of_waiting {site : Nat} (h : s.tileAt site = 0xFFFF) (hw : s.mustWait site = true) :
    settleIdle site s = waitFront site (fun x => { x with settle := true }) s := by
  simp [settleIdle, h, hw]

theorem senOf_settleIdle_ne (hs : Inv s = true) {site k : Nat} (hk : k ≠ site) : (settleIdle site s).senOf k = s.senOf k := by
  unfold settleIdle
  split
  · rfl
  · split
    · exact senOf_waitFront_ne hs hk _
    · exact senOf_modSen_ne hs hk _

/-- The settlement of an idle site changes neither SEN.CTRL nor SEN.CROSS_ERR as the back holds them. -/
theorem settleIdle_back_kept (hs : Inv s = true) (site : Nat) :
    ((settleIdle site s).senOf site).ctrl = (s.senOf site).ctrl ∧
      ((settleIdle site s).senOf site).crossErr = (s.senOf site).crossErr := by
  unfold settleIdle
  split
  · exact ⟨rfl, rfl⟩
  · split
    · obtain ⟨n, w, hx⟩ := senOf_waitFront_eq hs site fun x => { x with settle := true }
      rw [hx]
      exact ⟨rfl, rfl⟩
    · rw [senOf_modSen hs]
      exact ⟨applySettings_ctrl _, applySettings_crossErr _⟩

theorem senWrite_writable {off : Nat} {ws : List Word} (h : (wordOffsets off ws.length).all senWritable = true) (site tag : Nat)
    (s : State) : senWrite site off ws tag s = answer site 2 tag 0 [] (settleIdle site (modSen site (senWriteAll off ws) s)) :=
  if_pos h

/-- What a write leaves of a site that holds a logical tile. -/
theorem senWrite_of_tile (hs : Inv s = true) {site off : Nat} {ws : List Word} (tag : Nat)
    (h : (wordOffsets off ws.length).all senWritable = true) (htile : s.tileAt site ≠ 0xFFFF) :
    (senWrite site off ws tag s).senOf site = senWriteAll off ws (s.senOf site) := by
  rw [senWrite_writable h, answer_senOf, settleIdle_of_tile (by rwa [modSen_tileAt]), senOf_modSen hs]

theorem senWrite_of_running (hs : Inv s = true) {site off : Nat} {ws : List Word} (tag : Nat)
    (h : (wordOffsets off ws.length).all senWritable = true) (hidle : s.tileAt site = 0xFFFF) (hw : s.mustWait site = false) :
    (senWrite site off ws tag s).senOf site = applySettings (senWriteAll off ws (s.senOf site)) := by
  rw [senWrite_writable h, answer_senOf, settleIdle_of_running (by rwa [modSen_tileAt]) (by rwa [mustWait_senWriteAll hs]),
    senOf_modSen (modSen_inv _ _ _ hs), senOf_modSen hs]

theorem senWrite_of_waiting (hs : Inv s = true) {site off : Nat} {ws : List Word} (tag : Nat)
    (h : (wordOffsets off ws.length).all senWritable = true) (hidle : s.tileAt site = 0xFFFF) (hw : s.mustWait site = true) :
    ((senWrite site off ws tag s).senOf site).settle = true ∧
      ((senWrite site off ws tag s).senOf site).ctrlFront = (s.senOf site).ctrlFront := by
  obtain ⟨n, w, hx⟩ := senOf_waitFront_eq (modSen_inv site (senWriteAll off ws) s hs) site fun x => { x with settle := true }
  obtain ⟨c, e, o, hback⟩ := senWriteAll_eq ws off (s.senOf site)
  rw [senWrite_writable h, answer_senOf, settleIdle_of_waiting (by rwa [modSen_tileAt]) (by rwa [mustWait_senWriteAll hs]), hx,
    senOf_modSen hs, hback]
  exact ⟨rfl, rfl⟩

/-- SEN.CTRL and SEN.CROSS_ERR are at the back: a write sets them at once, whatever the front does (R79). -/
theorem senWrite_back (hs : Inv s = true) {off : Nat} {ws : List Word} (site tag : Nat)
    (h : (wordOffsets off ws.length).all senWritable = true) :
    ((senWrite site off ws tag s).senOf site).ctrl = (senWriteAll off ws (s.senOf site)).ctrl ∧
      ((senWrite site off ws tag s).senOf site).crossErr = (senWriteAll off ws (s.senOf site)).crossErr := by
  have hkept := settleIdle_back_kept (modSen_inv site (senWriteAll off ws) s hs) site
  rw [senOf_modSen hs] at hkept
  rw [senWrite_writable h]
  exact hkept

theorem senOf_senWrite_ne (hs : Inv s = true) {site k off : Nat} {ws : List Word} (tag : Nat)
    (h : (wordOffsets off ws.length).all senWritable = true) (hk : k ≠ site) :
    (senWrite site off ws tag s).senOf k = s.senOf k := by
  rw [senWrite_writable h, answer_senOf, senOf_settleIdle_ne (modSen_inv _ _ _ hs) hk, senOf_modSen_ne hs hk]

end Sys2Proof.Machine
end

section
/-!
PROOF. Commands that read and write registers, program stores and seeds (R77, R78, R79, R174, R217): what each does where it arrives.
-/
namespace Sys2Proof.Machine

open Sys2Proof

variable {s : State}

/-- The hub's own read of SEN.VERDICT goes on to the contribution; any other read ends with its answer (R274). -/
theorem readAnswered_senRead (unit offset count tag : Nat) (s : State) :
    readAnswered unit offset count (senRead unit offset count tag s) =
      if offset = 0x18 ∧ count = 1 ∧ (s.hubOf (s.siteHub unit)).collect.reading.contains unit = true then
        giveUpDone unit false (senRead unit offset count tag s)
      else senRead unit offset count tag s := by
  unfold readAnswered
  simp only [senRead_servingHub, Bool.and_eq_true, decide_eq_true_eq, and_assoc]

/-- A read of a sentinel whose front is not needed, or runs. -/
theorem exec_read_site {unit offset count tag : Nat} (hu : unit < 0x4000) (ha : s.answers? unit = true)
    (hw : (wordOffsets offset count).all senKnown = true → (wordOffsets offset count).any senFront = true → s.mustWait unit = false)
    (harr : s.arrives (.read unit offset count tag) = true) :
    exec (.read unit offset count tag) s =
      .next (readAnswered unit offset count (senRead unit offset count tag (receive (.read unit offset count tag) s))) := by
  rw [exec_read, execRead, arrive_next harr, if_pos hu, if_neg (by simp [ha]), if_neg]
  rw [receive_mustWait, Bool.and_eq_true, Bool.and_eq_true]
  rintro ⟨⟨hk, hf⟩, hm⟩
  rw [hw hk hf] at hm
  cases hm

/-- A read of a front that does not run waits for its wake (R72, R75). -/
theorem exec_read_waits {unit offset count tag : Nat} (hu : unit < 0x4000) (ha : s.answers? unit = true)
    (hk : (wordOffsets offset count).all senKnown = true) (hf : (wordOffsets offset count).any senFront = true)
    (hw : s.mustWait unit = true) (harr : s.arrives (.read unit offset count tag) = true) :
    exec (.read unit offset count tag) s =
      .next (waitWake unit (.read unit offset count tag) (receive (.read unit offset count tag) s)) := by
  rw [exec_read, execRead, arrive_next harr, if_pos hu, if_neg (by simp [ha]), if_pos (by simp only [hk, hf, hw, receive_mustWait, Bool.and_self])]

theorem hubAddr_ge (h : Nat) : ¬ hubAddr h < 0x4000 := by unfold hubAddr; omega

theorem hubAddr_lt {h : Nat} (hh : h < 80) : hubAddr h < 0x4080 := by unfold hubAddr; omega

@[simp] theorem hubAddr_sub (h : Nat) : hubAddr h - 0x4000 = h := Nat.add_sub_cancel_left 0x4000 h

/-- A hub that works is present and has not failed. -/
theorem works_iff {h : Nat} : s.works h = true ↔ s.present h = true ∧ (s.hubOf h).failed = false := by
  simp [State.works]

theorem exec_read_hub (hs : Inv s = true) {hub offset count tag : Nat} (hh : hub < 80) (hw : s.works hub = true)
    (hve : veAsleep s (hubAddr hub) offset = false) (harr : s.arrives (.read (hubAddr hub) offset count tag) = true) :
    exec (.read (hubAddr hub) offset count tag) s =
      .next (hubRead hub offset count tag (receive (.read (hubAddr hub) offset count tag) s)) := by
  obtain ⟨hpresent, hfailed⟩ := works_iff.mp ((receive_works hs (.read (hubAddr hub) offset count tag) hub).trans hw)
  rw [exec_read, execRead, arrive_next harr, if_neg (hubAddr_ge hub), if_pos (hubAddr_lt hh), hubAddr_sub,
    if_neg (by simp [hpresent, hfailed]), if_neg (by simp [receive_veAsleep hs, hve])]

theorem exec_write_site {unit offset tag : Nat} {words : List Word} (hu : unit < 0x4000) (ha : s.answers? unit = true)
    (harr : s.arrives (.write unit offset words tag) = true) :
    exec (.write unit offset words tag) s =
      .next (senWrite unit offset words tag (receive (.write unit offset words tag) s)) := by
  rw [exec_write, execWrite, arrive_next harr, if_pos hu, if_pos (by simp [ha])]

theorem exec_write_hub (hs : Inv s = true) {hub offset tag : Nat} {words : List Word} (hh : hub < 80) (hw : s.works hub = true)
    (hve : veAsleep s (hubAddr hub) offset = false) (harr : s.arrives (.write (hubAddr hub) offset words tag) = true) :
    exec (.write (hubAddr hub) offset words tag) s =
      .next (hubWrite hub offset words tag (receive (.write (hubAddr hub) offset words tag) s)) := by
  obtain ⟨hpresent, hfailed⟩ := works_iff.mp ((receive_works hs (.write (hubAddr hub) offset words tag) hub).trans hw)
  rw [exec_write, execWrite, arrive_next harr, if_neg (hubAddr_ge hub), if_pos (hubAddr_lt hh), hubAddr_sub,
    if_neg (by simp [hpresent, hfailed]), if_neg (by simp [receive_veAsleep hs, hve])]

/-- SEN.DROP_COUNT is read whatever the front does. -/
theorem exec_dropCountRead_answered {site tag : Nat} (ha : s.answers? site = true) (harr : s.arrives (.dropCountRead site tag) = true) :
    exec (.dropCountRead site tag) s = .next (senRead site 0x14 1 tag (receive (.dropCountRead site tag) s)) := by
  rw [exec_dropCountRead, execDropCountRead, arrive_next harr, if_pos (by simp [ha])]

/-- The word of SEN.DROP_COUNT, which lies at the back: a global stop does not change how it reads. -/
theorem senWord_dropCount (s : State) (site : Nat) : senWord s site 0x14 = (s.senOf site).dropCount := by
  simp [senWord, senFront]

theorem exec_programWrite_stores {site offset tag : Nat} {words : List Word} (ha : s.answers? site = true)
    (hw : s.mustWait site = false) (harr : s.arrives (.programWrite site offset words tag) = true) :
    exec (.programWrite site offset words tag) s =
      .next (programStore site offset words tag (receive (.programWrite site offset words tag) s)) := by
  rw [exec_programWrite, execProgramWrite, arrive_next harr, if_neg (by simp [ha]), if_neg (by simp [hw])]

theorem exec_programWrite_waits {site offset tag : Nat} {words : List Word} (ha : s.answers? site = true)
    (hw : s.mustWait site = true) (harr : s.arrives (.programWrite site offset words tag) = true) :
    exec (.programWrite site offset words tag) s =
      .next (waitWake site (.programWrite site offset words tag) (receive (.programWrite site offset words tag) s)) := by
  rw [exec_programWrite, execProgramWrite, arrive_next harr, if_neg (by simp [ha]), if_pos (by simp [hw])]

theorem exec_programRead_loads {site offset count tag : Nat} (ha : s.answers? site = true)
    (hw : s.mustWait site = false) (harr : s.arrives (.programRead site offset count tag) = true) :
    exec (.programRead site offset count tag) s =
      .next (programLoad site offset count tag (receive (.programRead site offset count tag) s)) := by
  rw [exec_programRead, execProgramRead, arrive_next harr, if_neg (by simp [ha]), if_neg (by simp [hw])]

theorem exec_programRead_waits {site offset count tag : Nat} (ha : s.answers? site = true)
    (hw : s.mustWait site = true) (harr : s.arrives (.programRead site offset count tag) = true) :
    exec (.programRead site offset count tag) s =
      .next (waitWake site (.programRead site offset count tag) (receive (.programRead site offset count tag) s)) := by
  rw [exec_programRead, execProgramRead, arrive_next harr, if_neg (by simp [ha]), if_pos (by simp [hw])]

/-- The last word of the sampling seed starts the sampling generator, and touches no other (R193, R217). -/
theorem hubWriteWord_sampleSeed (v : Nat) (x : Hub) :
    hubWriteWord 0x82C v x = { x with sampleSeed := BitVec.ofNat 128 (putWord x.sampleSeed.toNat 3 v)
                                      sampleGen := seedOf (BitVec.ofNat 128 (putWord x.sampleSeed.toNat 3 v)) } := by
  simp [hubWriteWord]

/-- The last word of the content seed starts the content generator, and touches no other (R209, R217). -/
theorem hubWriteWord_contentSeed (v : Nat) (x : Hub) :
    hubWriteWord 0x81C v x = { x with contentSeed := BitVec.ofNat 128 (putWord x.contentSeed.toNat 3 v)
                                      contentGen := seedOf (BitVec.ofNat 128 (putWord x.contentSeed.toNat 3 v)) } := by
  simp [hubWriteWord]

end Sys2Proof.Machine
end

section
/-!
PROOF. The statements of the tile boundary.
-/
namespace Sys2Proof.Machine

open Sys2Proof

/-- Settles O9, by the completion of a wake without its acknowledge, and by the request's fall when the front is served. -/
theorem wakeTimeoutCompletesTheWaitingAccess : Obligations.WakeTimeoutCompletesTheWaitingAccess := by
  unfold Obligations.WakeTimeoutCompletesTheWaitingAccess
  intro site s hs hstate hwake
  constructor
  · obtain ⟨t, ht, hsen, hanswers⟩ := wakeTimeout_completes hs hstate
    refine ⟨t, ht, ?_, ?_, ?_, ?_, hanswers⟩ <;> rw [hsen]
    · exact bitOf_alarmAfter 1 true _
    · exact hwake
    · exact hstate
  · intro hreset
    refine ⟨_, exec_tcgWakeAckRise_serves hstate hreset, ?_⟩
    rw [senOf_serveFront (setAlarm_inv _ _ _ _ _ hs)]

/-- Settles O20: the rise of the acknowledge in and out of reset, its fall, and the wake that is not acknowledged. -/
theorem wakeAndFrontQueue : Obligations.WakeAndFrontQueue := by
  unfold Obligations.WakeAndFrontQueue
  refine ⟨?_, ?_, ?_, ?_⟩
  · intro site s hs hstate hreset
    have hlowered := setAlarm_inv site 1 false {} s hs
    have hsen := senOf_setAlarm hs site 1 false {}
    refine ⟨_, exec_tcgWakeAckRise_serves hstate hreset, ?_, ?_, fun hdrains => ?_⟩
    · rw [senOf_serveFront hlowered]
    · rw [senOf_serveFront hlowered]
    · obtain ⟨hnone, hsettled, hlevel⟩ := serveFront_leaves_nothing hlowered (site := site) (by rw [hsen]; exact hdrains)
      refine ⟨hnone, hsettled, hlevel.trans ?_⟩
      rw [hsen]
      exact bitOf_alarmAfter 1 false _
  · intro site s hs hstate hreset
    refine ⟨_, exec_tcgWakeAckRise_in_reset hstate hreset, ?_⟩
    rw [senOf_setAlarm (modSen_inv _ _ _ hs), senOf_modSen hs]
    exact ⟨rfl, rfl, bitOf_alarmAfter 1 false _⟩
  · intro site s hs hstate
    refine ⟨_, exec_tcgWakeAckFall_ends hstate, ?_⟩
    rw [senOf_modSen (modSen_inv _ _ _ hs), senOf_modSen hs]
    obtain ⟨n, w, hkept⟩ := wakeRaised_eq { s.senOf site with wakeState := 0 }
    refine ⟨by rw [hkept], fun hnone hsettled hdrains => ?_, fun hcrossing => ?_⟩
    · rw [wakeRaised_of_no_crossing (x := { s.senOf site with wakeState := 0 }) hnone hsettled hdrains]
      exact ⟨rfl, rfl⟩
    · rw [wakeRaised_of_crossing (x := { s.senOf site with wakeState := 0 }) rfl hcrossing]
      exact ⟨rfl, rfl⟩
  · intro site s hs hstate
    obtain ⟨t, ht, hsen, hanswers⟩ := wakeTimeout_completes hs hstate
    refine ⟨t, ht, ?_, ?_, ?_, ?_, hanswers⟩ <;> rw [hsen]
    · exact hstate
    · exact bitOf_alarmAfter 1 true _

/-- Settles O18, by the arrival of each access and the laws of a sentinel's and a hub's words. -/
theorem registerAccesses : Obligations.RegisterAccesses := by
  unfold Obligations.RegisterAccesses
  refine ⟨?read, ?verdict, ?readWaits, ?readUnknown, ?readHub, ?write, ?writeHub⟩
  case read =>
    intro unit offset count tag s hs hu ha hknown hfront harr hother
    have harrived := receive_inv (.read unit offset count tag) s hs
    refine ⟨_, exec_read_site hu ha (fun _ => hfront) harr, ?_⟩
    rw [readAnswered_senRead, if_neg (by rintro ⟨ho, hc, hr⟩; rw [hr] at hother; simp [ho, hc] at hother), senRead_known hknown]
    refine ⟨by simp, fun hone => ?_⟩
    subst hone
    exact ⟨rfl, by rw [answer_senOf, wordOffsets_one, senReadAll, senReadAll, senOf_modSen harrived]; simp⟩
  case verdict =>
    intro site tag s hu ha harr hreading
    rw [exec_read_site hu ha (fun _ hfront => absurd hfront (by decide)) harr, readAnswered_senRead, if_pos ⟨rfl, rfl, hreading⟩]
  case readWaits =>
    intro unit offset count tag s hs hu ha hknown hfront hwait harr
    have harrived := receive_inv (.read unit offset count tag) s hs
    refine ⟨_, exec_read_waits hu ha hknown hfront hwait harr, by simp, ?_, fun hreset hidle => ?_, fun hreset => ?_⟩
    · rw [waitWake_wakeWaiting harrived, receive_senOf]
    · exact waitWake_requests harrived _ (by rwa [receive_senOf]) (by rwa [receive_senOf])
    · rw [waitWake_in_reset harrived _ (by rwa [receive_senOf]), receive_senOf]
  case readUnknown =>
    intro unit offset count tag s hu ha hunknown harr
    refine ⟨_, exec_read_site hu ha (fun hknown => absurd hknown (by simp [hunknown])) harr, ?_⟩
    have hother : ¬(offset = 0x18 ∧ count = 1) := by
      rintro ⟨rfl, rfl⟩
      cases hunknown
    rw [readAnswered_senRead, if_neg (fun h => hother ⟨h.1, h.2.1⟩), senRead_unknown hunknown]
    simp
  case readHub =>
    intro hub offset count tag s hs hh hworks hve hknown harr
    refine ⟨_, exec_read_hub hs hh hworks hve harr, ?_⟩
    rw [hubRead, if_pos hknown]
    simp
  case write =>
    intro unit offset tag words s hs hu ha hwritable harr
    have harrived := receive_inv (.write unit offset words tag) s hs
    have hback := senWrite_back harrived unit tag hwritable
    rw [receive_senOf] at hback
    refine ⟨_, exec_write_site hu ha harr, ?_, fun htile => ?_, fun hidle hruns => ?_, fun hidle hstopped => ?_, ?_, ?_,
      fun k hk => ?_⟩
    · simp [senWrite_writable hwritable]
    · rw [senWrite_of_tile harrived tag hwritable (by rwa [receive_tileAt]), receive_senOf]
    · rw [senWrite_of_running harrived tag hwritable (by rwa [receive_tileAt]) (by rwa [receive_mustWait]), receive_senOf]
    · have hsettle := senWrite_of_waiting harrived tag hwritable (by rwa [receive_tileAt]) (by rwa [receive_mustWait])
      rwa [receive_senOf] at hsettle
    · rintro w rfl rfl
      exact hback
    · rintro w rfl rfl
      exact hback.symm
    · rw [senOf_senWrite_ne harrived tag hwritable hk, receive_senOf]
  case writeHub =>
    intro hub offset tag words s hs hh hworks hve hwritable harr
    have harrived := receive_inv (.write (hubAddr hub) offset words tag) s hs
    refine ⟨_, exec_write_hub hs hh hworks hve harr, ?_⟩
    rw [hubWrite, if_pos hwritable]
    exact ⟨by simp, hubOf_modHub harrived hub _, fun k hk => hubOf_modHub_ne harrived hk _⟩

/-- Settles O19, by the arrival of each access and the laws of the stores and of the seeds' last words. -/
theorem programAndSeedAccesses : Obligations.ProgramAndSeedAccesses := by
  unfold Obligations.ProgramAndSeedAccesses
  refine ⟨?dropCount, ?store, ?storeOutside, ?load, ?waits, ?seed⟩
  case dropCount =>
    intro site tag s hs ha harr
    have harrived := receive_inv (.dropCountRead site tag) s hs
    refine ⟨_, exec_dropCountRead_answered ha harr, ?_⟩
    have hread : ((senReadAll site [0x14] (receive (.dropCountRead site tag) s)).1.senOf site) = { s.senOf site with dropCount := 0 } := by
      rw [senReadAll, senReadAll, senOf_modSen harrived, receive_senOf]
      rfl
    rw [senRead_known (by decide), wordOffsets_one, answer_senOf, hread]
    exact ⟨rfl, by simp [senReadAll, senWord_dropCount], rfl⟩
  case store =>
    intro site offset tag words s hs ha hwait hfits harr
    refine ⟨_, exec_programWrite_stores ha hwait harr, ?_⟩
    rw [programStore, if_pos hfits, answer_senOf, senOf_modSen (receive_inv _ _ hs), receive_senOf]
    exact ⟨rfl, rfl, by simp⟩
  case storeOutside =>
    intro site offset tag words s ha hwait houtside harr
    refine ⟨_, exec_programWrite_stores ha hwait harr, ?_⟩
    rw [programStore, if_neg (Nat.not_le.mpr houtside)]
    simp
  case load =>
    intro site offset count tag s ha hwait hfits harr
    refine ⟨_, exec_programRead_loads ha hwait harr, ?_⟩
    rw [programLoad, if_pos hfits]
    simp
  case waits =>
    intro site offset count tag words s hs ha hwait
    refine ⟨fun harr => ⟨_, exec_programWrite_waits ha hwait harr, by simp, ?_⟩,
      fun harr => ⟨_, exec_programRead_waits ha hwait harr, by simp, ?_⟩⟩
    · rw [waitWake_wakeWaiting (receive_inv _ _ hs), receive_senOf]
    · rw [waitWake_wakeWaiting (receive_inv _ _ hs), receive_senOf]
  case seed =>
    intro hub sampling value s hs
    refine ⟨_, exec_seedLoad hub sampling value s, ?_⟩
    rw [hubOf_modHub hs]
    cases sampling
    case true =>
      rw [if_pos rfl, hubWriteWord_sampleSeed]
      exact ⟨fun _ => ⟨rfl, rfl, rfl⟩, fun h => absurd h (by decide)⟩
    case false =>
      rw [if_neg Bool.false_ne_true, hubWriteWord_contentSeed]
      exact ⟨fun h => absurd h (by decide), fun _ => ⟨rfl, rfl, rfl⟩⟩

end Sys2Proof.Machine
end

section
/-!
PROOF. Views of all hubs and all sentinels: what an operation leaves alone of every one of them.
-/
namespace Sys2Proof.Machine

open Sys2Proof

variable {s t : State} {β : Type}

/-- What a view shows of every hub. -/
def State.hubView (s : State) (v : Hub → β) : Nat → β := fun k => v (s.hubOf k)

/-- What a view shows of every sentinel. -/
def State.senView (s : State) (v : Sentinel → β) : Nat → β := fun k => v (s.senOf k)

theorem hubView_of_get (h : Fld.get .hub t = Fld.get .hub s) (v : Hub → β) : t.hubView v = s.hubView v :=
  funext fun k => congrArg v (hubOf_of_get h k)

theorem senView_of_get (h : Fld.get .sen t = Fld.get .sen s) (v : Sentinel → β) : t.senView v = s.senView v :=
  funext fun k => congrArg v (senOf_of_get h k)

/-- A view that a change of one hub does not reach shows every hub as before. -/
theorem hubView_modHub (hs : Inv s = true) {v : Hub → β} {f : Hub → Hub} (hv : ∀ y, v (f y) = v y) (k : Nat) :
    (modHub k f s).hubView v = s.hubView v := by
  funext j
  unfold State.hubView
  by_cases hj : j = k
  · rw [hj, hubOf_modHub hs, hv]
  · rw [hubOf_modHub_ne hs hj]

theorem senView_modSen (hs : Inv s = true) {v : Sentinel → β} {f : Sentinel → Sentinel} (hv : ∀ x, v (f x) = v x) (k : Nat) :
    (modSen k f s).senView v = s.senView v := by
  funext j
  unfold State.senView
  by_cases hj : j = k
  · rw [hj, senOf_modSen hs, hv]
  · rw [senOf_modSen_ne hs hj]

@[simp] theorem hubView_send (m : Instr) (s : State) (v : Hub → β) : (send m s).hubView v = s.hubView v := rfl

@[simp] theorem hubView_hubEvent (h code : Nat) (payload : List Byte) (s : State) (v : Hub → β) :
    (hubEvent h code payload s).hubView v = s.hubView v := rfl

theorem hubView_countHub (hs : Inv s = true) {v : Hub → β} (hv : ∀ y c, v { y with counters := c } = v y) (h k n : Nat) :
    (countHub h k n s).hubView v = s.hubView v := hubView_modHub hs (fun y => hv y _) h

/-- The arrival of a message changes of the hubs the counters and the buffers only. -/
theorem hubView_receive (hs : Inv s = true) {v : Hub → β} (hv : ∀ y c p, v { y with counters := c, pool := p } = v y)
    (m : Instr) : (receive m s).hubView v = s.hubView v := by
  funext k
  obtain ⟨c, p, hr⟩ := receive_hubOf hs m k
  unfold State.hubView
  rw [hr, hv]

theorem hubView_ite_of {c : Prop} [Decidable c] {a b : State} {v : Hub → β} {x : Nat → β} (ha : c → a.hubView v = x)
    (hb : ¬c → b.hubView v = x) : (if c then a else b).hubView v = x := by
  split
  · exact ha ‹_›
  · exact hb ‹_›

/-- What every operation of a list leaves alone, all of them do. -/
theorem each_eq {α : Type} {r : State → β} {g : α → State → State} (hinv : ∀ a y, Inv y = true → Inv (g a y) = true)
    (hr : ∀ a y, Inv y = true → r (g a y) = r y) (xs : List α) : ∀ {s : State}, Inv s = true → r (each xs g s) = r s := by
  induction xs with
  | nil => exact fun _ => rfl
  | cons a xs ih => exact fun hs => (ih (hinv a _ hs)).trans (hr a _ hs)

/-- A change made at each hub of a list, which names none twice. -/
theorem hubOf_each_modHub (f : Hub → Hub) (k : Nat) {xs : List Nat} (hxs : xs.Nodup) :
    ∀ {s : State}, Inv s = true →
      (each xs (fun z y => modHub z f y) s).hubOf k = if k ∈ xs then f (s.hubOf k) else s.hubOf k := by
  induction xs with
  | nil => exact fun _ => (if_neg List.not_mem_nil).symm
  | cons x xs ih =>
    intro s hs
    obtain ⟨hx, hrest⟩ := List.nodup_cons.mp hxs
    refine (ih hrest (modHub_inv x f s hs)).trans ?_
    by_cases hk : k = x
    · rw [hk, if_neg hx, if_pos List.mem_cons_self, hubOf_modHub hs]
    · simp only [List.mem_cons, hk, false_or, hubOf_modHub_ne hs hk]

theorem senOf_each_modSen_of_not_mem (f : Sentinel → Sentinel) {k : Nat} {xs : List Nat} (hk : k ∉ xs) :
    ∀ {s : State}, Inv s = true → (each xs (fun z y => modSen z f y) s).senOf k = s.senOf k := by
  induction xs with
  | nil => exact fun _ => rfl
  | cons x xs ih =>
    intro s hs
    have hx : k ≠ x := fun h => hk (h ▸ List.mem_cons_self)
    have hrest : k ∉ xs := fun h => hk (List.mem_cons_of_mem x h)
    exact (ih hrest (modSen_inv x f s hs)).trans (senOf_modSen_ne hs hx f)

/-- The sentinel of a site that the list names has been changed last of all by `f`. -/
theorem senOf_each_modSen_of_mem (f : Sentinel → Sentinel) {k : Nat} {xs : List Nat} (hk : k ∈ xs) :
    ∀ {s : State}, Inv s = true → ∃ x, (each xs (fun z y => modSen z f y) s).senOf k = f x := by
  induction xs with
  | nil => exact absurd hk List.not_mem_nil
  | cons x xs ih =>
    intro s hs
    have hnext := modSen_inv x f s hs
    by_cases hlater : k ∈ xs
    · exact ih hlater hnext
    · have hx : k = x := (List.mem_cons.mp hk).resolve_right hlater
      subst hx
      exact ⟨s.senOf k, (senOf_each_modSen_of_not_mem f hlater hnext).trans (senOf_modSen hs k f)⟩

end Sys2Proof.Machine
end

section
/-!
PROOF. Which hub serves a site and which partition it is in (R25, R33, R56, R13): the fields of the state that decide it, and the
operations that leave it as it is.
-/
namespace Sys2Proof.Machine

open Sys2Proof

variable {s t : State}

/-- What decides whether a hub serves its own sector, or which hub does (R25, R56). -/
def Hub.service (y : Hub) : Bool × Bool × Option Nat := (y.failed, y.lostSector, y.adoptedBy)

/-- What decides where sites and sectors belong. -/
structure Places where
  image : Image
  links : List MidLink
  health : Sparse SiteRec
  part : Sparse Partition
  service : Nat → Bool × Bool × Option Nat

/-- Where the sites and sectors of a state belong. -/
def State.places (s : State) : Places :=
  { image := s.image, links := s.links, health := s.health, part := s.part, service := s.hubView Hub.service }

theorem places_of_get (himage : Fld.get .image t = Fld.get .image s) (hlinks : Fld.get .links t = Fld.get .links s)
    (hhealth : Fld.get .health t = Fld.get .health s) (hpart : Fld.get .part t = Fld.get .part s)
    (hservice : t.hubView Hub.service = s.hubView Hub.service) : t.places = s.places := by
  have himage : t.image = s.image := himage
  have hlinks : t.links = s.links := hlinks
  have hhealth : t.health = s.health := hhealth
  have hpart : t.part = s.part := hpart
  simp only [State.places, himage, hlinks, hhealth, hpart, hservice]

theorem failed_congr (h : t.places = s.places) (k : Nat) : (t.hubOf k).failed = (s.hubOf k).failed :=
  congrArg (·.1) (congrFun (congrArg Places.service h) k)

theorem lostSector_congr (h : t.places = s.places) (k : Nat) : (t.hubOf k).lostSector = (s.hubOf k).lostSector :=
  congrArg (·.2.1) (congrFun (congrArg Places.service h) k)

theorem adoptedBy_congr (h : t.places = s.places) (k : Nat) : (t.hubOf k).adoptedBy = (s.hubOf k).adoptedBy :=
  congrArg (·.2.2) (congrFun (congrArg Places.service h) k)

theorem present_congr (h : t.places = s.places) (x : Nat) : t.present x = s.present x := by
  have himage : t.image = s.image := congrArg Places.image h
  unfold State.present
  rw [himage]

theorem partOf_congr (h : t.places = s.places) (p : Nat) : t.partOf p = s.partOf p := partOf_of_get (congrArg Places.part h) p

theorem server_congr (h : t.places = s.places) (x : Nat) : t.server x = s.server x := by
  unfold State.server
  dsimp only
  rw [present_congr h, failed_congr h, lostSector_congr h, adoptedBy_congr h]

theorem siteHub_congr (h : t.places = s.places) (x : Nat) : t.siteHub x = s.siteHub x := by
  have hlinks : t.links = s.links := congrArg Places.links h
  unfold State.siteHub State.cutOff State.farReaches State.works State.farCut
  rw [server_congr h, hlinks, present_congr h, failed_congr h]

theorem sectorPart_congr (h : t.places = s.places) (x : Nat) : t.sectorPart x = s.sectorPart x := by
  unfold State.sectorPart State.regionPart
  simp only [partOf_congr h]

theorem sitePart_congr (h : t.places = s.places) (x : Nat) : t.sitePart x = s.sitePart x := sectorPart_congr h _

theorem jobOf_congr (h : t.places = s.places) (p : Nat) : t.jobOf p = s.jobOf p := by
  unfold State.jobOf
  rw [partOf_congr h]

theorem judges_congr (h : t.places = s.places) (p : Nat) : t.judges p = s.judges p := by
  unfold State.judges State.hasJob
  rw [partOf_congr h]

theorem hubPartSites_congr (h : t.places = s.places) (x p : Nat) : t.hubPartSites x p = s.hubPartSites x p := by
  have hhealth : t.health = s.health := congrArg Places.health h
  unfold State.hubPartSites State.partSites
  simp only [hhealth, partOf_congr h, siteHub_congr h]

theorem setSectors_congr (h : t.places = s.places) (p x : Nat) : t.setSectors p x = s.setSectors p x := by
  have hpresent : t.present = s.present := funext (present_congr h)
  unfold State.setSectors State.served State.sectors
  simp only [hpresent, server_congr h, sectorPart_congr h]

@[simp] theorem modSen_places (k : Nat) (f : Sentinel → Sentinel) (s : State) : (modSen k f s).places = s.places := rfl

theorem modHub_places (hs : Inv s = true) {f : Hub → Hub} (hf : ∀ y, (f y).service = y.service) (k : Nat) :
    (modHub k f s).places = s.places := places_of_get rfl rfl rfl rfl (hubView_modHub hs hf k)

theorem countHub_places (hs : Inv s = true) (h k n : Nat) : (countHub h k n s).places = s.places :=
  modHub_places hs (fun _ => by rfl) h

/-- A message that arrives moves no site. -/
theorem receive_places (hs : Inv s = true) (m : Instr) : (receive m s).places = s.places :=
  places_of_get (receive_get (by decide) m s) (receive_get (by decide) m s) (receive_get (by decide) m s)
    (receive_get (by decide) m s) (hubView_receive hs (fun _ _ _ => rfl) m)

theorem setSectors_nodup (s : State) (p h : Nat) : (s.setSectors p h).Nodup :=
  (((sectors_sorted s).imp fun hlt => Nat.ne_of_lt hlt).filter _).filter _

end Sys2Proof.Machine
end

section
/-!
PROOF. Lineages and repeats at a hub (R268, R274, R193, R194): what each operation leaves of a hub's collection.
-/
namespace Sys2Proof.Machine

open Sys2Proof

variable {s : State}

/-- A collection but for the tiles at the raised rate and the values noted as no lineage: what a repeat or a note does not reach. -/
def Collect.verdicts (c : Collect) : Collect := { c with raised := [], lineageSeen := [] }

/-- The collection of a hub, likewise. -/
def Hub.verdicts (y : Hub) : Collect := y.collect.verdicts

theorem failMask_verdicts (mask : Nat) (c : Collect) : (failMask mask c).verdicts = failMask mask c.verdicts := by
  unfold failMask Collect.verdicts
  cases c.sent <;> rfl

@[simp] theorem failMask_items (mask : Nat) (c : Collect) : (failMask mask c).items = c.items := by
  unfold failMask
  split <;> rfl

@[simp] theorem failMask_failed (mask : Nat) (c : Collect) :
    (failMask mask c).failed = if c.sent then c.failed else c.failed ||| mask := by
  unfold failMask
  split <;> rfl

@[simp] theorem failMask_carry (mask : Nat) (c : Collect) :
    (failMask mask c).carry = if c.sent then c.carry ||| mask else c.carry := by
  unfold failMask
  split <;> rfl

section
variable (fails : Bool) (mask : Nat) (c : Collect)

/-! An item that may fail its lineage, in a collection open or sent (Table 11.10). -/

theorem failMask_ite_items : (if fails then failMask mask c else c).items = c.items := by
  cases fails <;> simp

theorem failMask_ite_failed : (if fails then failMask mask c else c).failed =
    if fails && !c.sent then c.failed ||| mask else c.failed := by
  cases fails <;> cases hsent : c.sent <;> simp [hsent]

theorem failMask_ite_carry : (if fails then failMask mask c else c).carry =
    if fails && c.sent then c.carry ||| mask else c.carry := by
  cases fails <;> simp

end

theorem hubView_noteLineage (hs : Inv s = true) (site lineage : Nat) :
    (noteLineage site lineage s).hubView Hub.verdicts = s.hubView Hub.verdicts := by
  unfold noteLineage
  dsimp only
  split
  · rfl
  · rw [hubView_hubEvent]
    exact hubView_modHub hs (fun _ => by rfl) _

/-- An item that fails its lineage fails it in the collection of its site's hub. -/
theorem failItem_verdicts {u : State} (hu : Inv u = true) (hplaces : u.places = s.places) (site lineage : Nat) :
    ((failItem site lineage u).hubOf (s.siteHub site)).verdicts =
      failMask ((s.jobOf (s.sitePart site)).mask lineage) (u.hubOf (s.siteHub site)).verdicts := by
  have hnoted : ((noteLineage site lineage u).hubOf (s.siteHub site)).verdicts = (u.hubOf (s.siteHub site)).verdicts :=
    congrFun (hubView_noteLineage hu site lineage) _
  unfold failItem
  rw [siteHub_congr hplaces, sitePart_congr hplaces, jobOf_congr hplaces,
    hubOf_modHub (noteLineage_inv site lineage u hu), ← hnoted]
  exact failMask_verdicts _ _

theorem hubView_releaseCapture {β : Type} (v : Hub → β) (h site seq step : Nat) (s : State) :
    (releaseCapture h site seq step s).hubView v = s.hubView v :=
  hubView_of_get (releaseCapture_get (by decide) h site seq step s) v

theorem hubView_endUnavailable (hs : Inv s = true) (h : Nat) (r : RepeatReq) :
    (endUnavailable h r s).hubView Hub.collect = s.hubView Hub.collect := by
  unfold endUnavailable countOutcome
  refine (hubView_releaseCapture _ _ _ _ _ _).trans ((hubView_of_get (recordFrom_get (by decide) _ _ _ _) _).trans ?_)
  exact (hubView_countHub (modHub_inv _ _ _ hs) (fun _ _ => by rfl) _ _ _).trans (hubView_modHub hs (fun _ => by rfl) h)

theorem hubView_dropRepeat (hs : Inv s = true) (h : Nat) (r : RepeatReq) :
    (dropRepeat h r s).hubView Hub.collect = s.hubView Hub.collect := by
  unfold dropRepeat skipRepeat
  split
  · exact (hubView_releaseCapture _ _ _ _ _ _).trans
      ((hubView_countHub (modHub_inv _ _ _ hs) (fun _ _ => by rfl) _ _ _).trans (hubView_modHub hs (fun _ => by rfl) h))
  · exact hubView_endUnavailable hs h r

theorem hubView_serveRepeat (hs : Inv s = true) (h : Nat) : (serveRepeat h s).hubView Hub.collect = s.hubView Hub.collect := by
  unfold serveRepeat
  dsimp only
  split
  · rfl
  · split
    · rfl
    · rw [hubView_send]
      exact hubView_modHub hs (fun _ => by rfl) h

/-- A repeat that is asked leaves every hub's collection as it is. -/
theorem hubView_requestRepeat (hs : Inv s = true) (h : Nat) (r : RepeatReq) :
    (requestRepeat h r s).hubView Hub.collect = s.hubView Hub.collect := by
  have hmod (f : Hub → Hub) (hf : ∀ y, (f y).collect = y.collect) :
      (modHub h f s).hubView Hub.collect = s.hubView Hub.collect := hubView_modHub hs hf h
  unfold requestRepeat
  refine hubView_ite_of (fun _ => rfl) fun _ => ?_
  refine hubView_ite_of (fun _ => hmod _ fun _ => rfl) fun _ => ?_
  refine hubView_ite_of (fun _ => ?_) fun _ => ?_
  · exact hubView_ite_of (fun _ => hmod _ fun _ => rfl) (fun _ => (hubView_send _ _ _).trans (hmod _ fun _ => by rfl))
  refine hubView_ite_of (fun _ => ?_) fun _ => ?_
  · exact (hubView_serveRepeat (modHub_inv _ _ _ hs) h).trans (hmod _ fun _ => rfl)
  split
  · exact (hubView_serveRepeat (dropRepeat_inv _ _ _ (modHub_inv _ _ _ hs)) h).trans
      ((hubView_dropRepeat (modHub_inv _ _ _ hs) h _).trans (hmod _ fun _ => rfl))
  · exact hubView_dropRepeat hs h r

/-- The verdicts of a hub are part of its collection. -/
theorem hubView_verdicts_of_collect {t : State} (h : t.hubView Hub.collect = s.hubView Hub.collect) :
    t.hubView Hub.verdicts = s.hubView Hub.verdicts := congrArg (fun v k => (v k).verdicts) h

/-- A draw changes the state of one hub's sampling generator, and the load of a down-counter nothing else of a hub. -/
theorem hubView_sampleDraw (hs : Inv s = true) {β : Type} {v : Hub → β} (hv : ∀ y g, v { y with sampleGen := g } = v y)
    (h : Nat) : (sampleDraw h s).1.hubView v = s.hubView v := hubView_modHub hs (fun y => hv y _) h

theorem hubView_loadSample (hs : Inv s = true) {β : Type} {v : Hub → β} (hv : ∀ y g, v { y with sampleGen := g } = v y)
    (site : Nat) : (loadSample site s).hubView v = s.hubView v := hubView_sampleDraw hs hv _

theorem senView_loadSample (hs : Inv s = true) {β : Type} {v : Sentinel → β} (hv : ∀ x n, v { x with sampleCount := n } = v x)
    (site : Nat) : (loadSample site s).senView v = s.senView v := by
  unfold loadSample
  exact senView_modSen (sampleDraw_inv _ _ hs) (fun x => by exact hv x _) site

theorem sampleDraw_places (hs : Inv s = true) (h : Nat) : (sampleDraw h s).1.places = s.places :=
  places_of_get rfl rfl rfl rfl (hubView_sampleDraw hs (fun _ _ => rfl) h)

theorem loadSample_places (hs : Inv s = true) (site : Nat) : (loadSample site s).places = s.places := by
  unfold loadSample
  exact (modSen_places _ _ _).trans (sampleDraw_places hs _)

theorem hubView_raiseRate (hs : Inv s = true) (site : Nat) : (raiseRate site s).hubView Hub.verdicts = s.hubView Hub.verdicts := by
  unfold raiseRate
  dsimp only
  split
  · rfl
  · exact (hubView_loadSample (modHub_inv _ _ _ hs) (fun _ _ => by rfl) site).trans (hubView_modHub hs (fun _ => by rfl) _)

end Sys2Proof.Machine
end

section
/-!
PROOF. The checkers' items at a hub (R142, R144, R175, R216, R268): each enters the collection of its site's hub.
-/
namespace Sys2Proof.Machine

open Sys2Proof

variable {s : State}

/-- A residue verdict in the collection of hub `h` (R126, R274). -/
def verdictCollected (h site : Nat) (item : VerdictItem) (s : State) : State :=
  modHub h (fun y => { y with collect := collectItem site (s.tileAt site) item y.collect }) s

/-- The verdict collected, and counted where its tile could not be checked (R135). -/
def verdictCounted (h site : Nat) (item : VerdictItem) (s : State) : State :=
  if item.verdict = 1 || item.verdict = 8 then countHub h 58 1 (verdictCollected h site item s)
  else verdictCollected h site item s

/-- A residue verdict counted, and its lineage failed, or noted when the item passes (R142, R268). -/
def verdictTaken (h site : Nat) (item : VerdictItem) (s : State) : State :=
  if verdictFails item.verdict then failItem site item.lineage (verdictCounted h site item s)
  else noteLineage site item.lineage (verdictCounted h site item s)

/-- The repeat that a residue verdict asks, and the raised rate after a tile that could not be checked (R134, R144, R192). -/
def verdictRepeat (h site : Nat) (item : VerdictItem) (detail : DetailItem) (r : RepeatReq) (s : State) : State :=
  if item.verdict = 2 || item.verdict = 3 then
    requestRepeat h { r with reason := item.verdict, elems := (repeatElems item detail).1, whole := (repeatElems item detail).2 } s
  else if namesElement item then requestRepeat h { r with reason := 4, elems := [(item.locI, item.locJ)] } s
  else if item.verdict = 1 then
    raiseRate site (requestRepeat h { r with reason := 5, elems := [drawElement (sampleDraw h s).2] } (sampleDraw h s).1)
  else s

/-- A message that arrives from a site finds its partition judging where it judged before. -/
theorem receive_judges (hs : Inv s = true) (m : Instr) (site : Nat) :
    (receive m s).judges ((receive m s).sitePart site) = s.judges (s.sitePart site) := by
  rw [sitePart_congr (receive_places hs m), judges_congr (receive_places hs m)]

/-- The request of a repeat of the tile that a verdict is of. -/
def verdictRequest (site : Nat) (item : VerdictItem) (s : State) : RepeatReq :=
  { site := site, seq := item.seq, step := (s.partOf (s.sitePart site)).step, verdict := item, tile := s.tileAt site }

theorem exec_residueVerdict_arrives (hs : Inv s = true) {site : Nat} {item : VerdictItem} {detail : DetailItem}
    (hj : s.judges (s.sitePart site) = true) (harr : s.arrives (.residueVerdict site item detail) = true) :
    exec (.residueVerdict site item detail) s = .next (verdictRepeat (s.siteHub site) site item detail
      (verdictRequest site item (receive (.residueVerdict site item detail) s))
      (verdictTaken (s.siteHub site) site item (receive (.residueVerdict site item detail) s))) := by
  rw [← receive_judges hs (.residueVerdict site item detail)] at hj
  rw [exec_residueVerdict, execResidueVerdict, arrive_next harr,
    ← siteHub_congr (receive_places hs (.residueVerdict site item detail))]
  dsimp only
  rw [if_neg (by simp [hj])]
  rfl

theorem exec_plausVerdict_arrives (hs : Inv s = true) {site : Nat} {item : PlausItem} (hj : s.judges (s.sitePart site) = true)
    (harr : s.arrives (.plausVerdict site item) = true) :
    exec (.plausVerdict site item) s = .next (failItem site item.lineage (receive (.plausVerdict site item) s)) := by
  rw [← receive_judges hs (.plausVerdict site item)] at hj
  rw [exec_plausVerdict, execPlausVerdict, arrive_next harr, if_pos hj]

/-- A redundancy item fails its lineage; its record and its repeat follow (R216). -/
theorem exec_redundancy_arrives (hs : Inv s = true) {site : Nat} {item : RedundancyItem} (hj : s.judges (s.sitePart site) = true)
    (harr : s.arrives (.redundancy site item) = true) :
    ∃ payload h r, exec (.redundancy site item) s = .next
      (if item.kind = 1 then
        requestRepeat h r (recordFrom site 0x1042 payload (failItem site item.lineage (receive (.redundancy site item) s)))
      else recordFrom site 0x1042 payload (failItem site item.lineage (receive (.redundancy site item) s))) := by
  rw [← receive_judges hs (.redundancy site item)] at hj
  rw [exec_redundancy, execRedundancy, arrive_next harr]
  dsimp only
  rw [if_neg (by simp [hj])]
  exact ⟨_, _, _, rfl⟩

theorem verdictCollected_inv (hs : Inv s = true) (h site : Nat) (item : VerdictItem) : Inv (verdictCollected h site item s) = true :=
  modHub_inv _ _ _ hs

theorem verdictCounted_inv (hs : Inv s = true) (h site : Nat) (item : VerdictItem) : Inv (verdictCounted h site item s) = true :=
  inv_ite (fun _ => countHub_inv _ _ _ _ (verdictCollected_inv hs h site item)) (fun _ => verdictCollected_inv hs h site item)

theorem verdictTaken_inv (hs : Inv s = true) (h site : Nat) (item : VerdictItem) : Inv (verdictTaken h site item s) = true :=
  inv_ite (fun _ => failItem_inv _ _ _ (verdictCounted_inv hs h site item))
    (fun _ => noteLineage_inv _ _ _ (verdictCounted_inv hs h site item))

theorem verdictCounted_places (hs : Inv s = true) (h site : Nat) (item : VerdictItem) :
    (verdictCounted h site item s).places = s.places := by
  have hcollected : (verdictCollected h site item s).places = s.places := modHub_places hs (fun _ => by rfl) h
  unfold verdictCounted
  split
  · exact (countHub_places (verdictCollected_inv hs h site item) h 58 1).trans hcollected
  · exact hcollected

theorem verdictCounted_collect (hs : Inv s = true) (h site : Nat) (item : VerdictItem) :
    ((verdictCounted h site item s).hubOf h).collect = collectItem site (s.tileAt site) item (s.hubOf h).collect := by
  have hcollected : ((verdictCollected h site item s).hubOf h).collect = collectItem site (s.tileAt site) item (s.hubOf h).collect :=
    congrArg Hub.collect (hubOf_modHub hs h _)
  have hcounted := hubView_countHub (verdictCollected_inv hs h site item) (v := Hub.collect) (fun _ _ => rfl) h 58 1
  unfold verdictCounted
  split
  · exact (congrFun hcounted h).trans hcollected
  · exact hcollected

/-- What a residue verdict leaves of the collection of its site's hub. -/
theorem verdictTaken_verdicts {u : State} (hu : Inv u = true) (hplaces : u.places = s.places) (site : Nat) (item : VerdictItem) :
    ((verdictTaken (s.siteHub site) site item u).hubOf (s.siteHub site)).verdicts =
      if verdictFails item.verdict then
        failMask ((s.jobOf (s.sitePart site)).mask item.lineage)
          (collectItem site (u.tileAt site) item (u.hubOf (s.siteHub site)).collect).verdicts
      else (collectItem site (u.tileAt site) item (u.hubOf (s.siteHub site)).collect).verdicts := by
  have hinv := verdictCounted_inv hu (s.siteHub site) site item
  have hcounted : ((verdictCounted (s.siteHub site) site item u).hubOf (s.siteHub site)).verdicts =
      (collectItem site (u.tileAt site) item (u.hubOf (s.siteHub site)).collect).verdicts :=
    congrArg Collect.verdicts (verdictCounted_collect hu (s.siteHub site) site item)
  unfold verdictTaken
  split
  · rw [failItem_verdicts hinv ((verdictCounted_places hu _ _ _).trans hplaces), hcounted]
  · exact (congrFun (hubView_noteLineage hinv site item.lineage) _).trans hcounted

theorem hubView_verdictRepeat (hs : Inv s = true) (h site : Nat) (item : VerdictItem) (detail : DetailItem) (r : RepeatReq) :
    (verdictRepeat h site item detail r s).hubView Hub.verdicts = s.hubView Hub.verdicts := by
  have hdraw := sampleDraw_inv h s hs
  have hask {u : State} (hu : Inv u = true) (q : RepeatReq) : (requestRepeat h q u).hubView Hub.verdicts = u.hubView Hub.verdicts :=
    hubView_verdicts_of_collect (hubView_requestRepeat hu h q)
  unfold verdictRepeat
  refine hubView_ite_of (fun _ => hask hs _) fun _ => ?_
  refine hubView_ite_of (fun _ => hask hs _) fun _ => ?_
  refine hubView_ite_of (fun _ => ?_) fun _ => rfl
  exact (hubView_raiseRate (requestRepeat_inv _ _ _ hdraw) site).trans
    ((hask hdraw _).trans (hubView_sampleDraw hs (fun _ _ => rfl) h))

theorem receive_verdicts (hs : Inv s = true) (m : Instr) (k : Nat) : ((receive m s).hubOf k).verdicts = (s.hubOf k).verdicts :=
  congrFun (hubView_receive hs (v := Hub.verdicts) (fun _ _ _ => rfl) m) k

theorem receive_collect (hs : Inv s = true) (m : Instr) (k : Nat) : ((receive m s).hubOf k).collect = (s.hubOf k).collect :=
  congrFun (hubView_receive hs (v := Hub.collect) (fun _ _ _ => rfl) m) k

/-- A residue verdict that a hub receives counts, and fails its lineage where it fails (R126, R142, R268). -/
theorem residueVerdict_collected (hs : Inv s = true) {site : Nat} {item : VerdictItem} {detail : DetailItem}
    (hj : s.judges (s.sitePart site) = true) (harr : s.arrives (.residueVerdict site item detail) = true) :
    ∃ t tile, exec (.residueVerdict site item detail) s = .next t ∧ (t.hubOf (s.siteHub site)).verdicts =
      if verdictFails item.verdict then failMask ((s.jobOf (s.sitePart site)).mask item.lineage)
          (collectItem site tile item (s.hubOf (s.siteHub site)).collect).verdicts
      else (collectItem site tile item (s.hubOf (s.siteHub site)).collect).verdicts := by
  have harrived := receive_inv (.residueVerdict site item detail) s hs
  refine ⟨_, (receive (.residueVerdict site item detail) s).tileAt site, exec_residueVerdict_arrives hs hj harr, ?_⟩
  rw [← receive_collect hs (.residueVerdict site item detail), ← verdictTaken_verdicts harrived (receive_places hs _)]
  exact congrFun (hubView_verdictRepeat (verdictTaken_inv harrived _ _ _) _ _ _ _ _) _

/-- A plausibility verdict fails its lineage, and does nothing else to a partition or a hub's collection (R175). -/
theorem plausVerdict_collected (hs : Inv s = true) {site : Nat} {item : PlausItem} (hj : s.judges (s.sitePart site) = true)
    (harr : s.arrives (.plausVerdict site item) = true) :
    ∃ t, exec (.plausVerdict site item) s = .next t ∧ (t.hubOf (s.siteHub site)).verdicts =
      failMask ((s.jobOf (s.sitePart site)).mask item.lineage) (s.hubOf (s.siteHub site)).verdicts ∧ t.part = s.part := by
  refine ⟨_, exec_plausVerdict_arrives hs hj harr, ?_, ?_⟩
  · rw [failItem_verdicts (receive_inv _ _ hs) (receive_places hs _), receive_verdicts hs]
  · exact (failItem_get (φ := .part) (by decide) _ _ _).trans (receive_get (φ := .part) (by decide) _ _)

/-- A redundancy item fails its lineage (R216). -/
theorem redundancy_collected (hs : Inv s = true) {site : Nat} {item : RedundancyItem} (hj : s.judges (s.sitePart site) = true)
    (harr : s.arrives (.redundancy site item) = true) :
    ∃ t, exec (.redundancy site item) s = .next t ∧ (t.hubOf (s.siteHub site)).verdicts =
      failMask ((s.jobOf (s.sitePart site)).mask item.lineage) (s.hubOf (s.siteHub site)).verdicts := by
  obtain ⟨payload, h, r, hexec⟩ := exec_redundancy_arrives hs hj harr
  have harrived := receive_inv (.redundancy site item) s hs
  have hfailed := failItem_inv site item.lineage _ harrived
  refine ⟨_, hexec, ?_⟩
  rw [← receive_verdicts hs (.redundancy site item), ← failItem_verdicts harrived (receive_places hs _)]
  have hrecorded := hubView_of_get (recordFrom_get (by decide) site 0x1042 payload (failItem site item.lineage
    (receive (.redundancy site item) s))) Hub.verdicts
  refine congrFun (hubView_ite_of (fun _ => ?_) fun _ => hrecorded) (s.siteHub site)
  exact (hubView_verdicts_of_collect (hubView_requestRepeat (recordFrom_inv _ _ _ _ hfailed) h r)).trans hrecorded

end Sys2Proof.Machine
end

section
/-!
PROOF. The step boundary at a hub (R124, R172, R175, R274): a new collection, the sentinels' step counts, the sets that switch.
-/
namespace Sys2Proof.Machine

open Sys2Proof

variable {s : State}

/-! ### What a boundary does, part by part -/

/-- A hub's collection for a step (R191, R274). -/
def collectionOpened (hub partition step : Nat) (sk : Dword) (s : State) : State :=
  modHub hub (fun y => { y with collect := newCollect y.collect step sk (s.alwaysRaised hub partition) }) s

/-- The collection, and the fronts of the sentinels that the hub serves in the partition, at the step's start (R124). -/
def boundaryOpened (hub partition step : Nat) (sk : Dword) (flags : Nat) (s : State) : State :=
  each (s.hubPartSites hub partition) (fun x y => modSen x (boundaryFront sk (bitOf 2 flags)) y)
    (collectionOpened hub partition step sk s)

/-- The sets of a boundary that names them switch (R172). -/
def boundarySwitched (hub partition flags : Nat) (s : State) : State :=
  if bitOf 0 flags then switchHub partition hub s else s

/-- A boundary: the collection opens, down-counters of the sites `xs` are loaded, the sets switch, and the boundary ends. -/
def boundaryDone (hub partition step : Nat) (sk : Dword) (flags : Nat) (xs : List Nat) (s : State) : State :=
  endBoundary partition step flags (respond (hubAddr hub) 1 0xD []
    (boundarySwitched hub partition flags (each xs loadSample (boundaryOpened hub partition step sk flags s))))

theorem exec_stepBoundary_arrives {hub partition step flags : Nat} {sk : Dword}
    (harr : s.arrives (.stepBoundary hub partition step sk flags) = true) :
    ∃ xs, exec (.stepBoundary hub partition step sk flags) s =
      .next (boundaryDone hub partition step sk flags xs (receive (.stepBoundary hub partition step sk flags) s)) := by
  rw [exec_stepBoundary, execStepBoundary, arrive_next harr]
  exact ⟨_, rfl⟩

theorem collectionOpened_inv (hs : Inv s = true) (hub partition step : Nat) (sk : Dword) :
    Inv (collectionOpened hub partition step sk s) = true := modHub_inv _ _ _ hs

theorem boundaryOpened_inv (hs : Inv s = true) (hub partition step : Nat) (sk : Dword) (flags : Nat) :
    Inv (boundaryOpened hub partition step sk flags s) = true :=
  each_inv _ _ (fun x y hy => modSen_inv x _ y hy) _ (collectionOpened_inv hs hub partition step sk)

theorem loadSamples_inv (hs : Inv s = true) (xs : List Nat) : Inv (each xs loadSample s) = true :=
  each_inv xs loadSample loadSample_inv s hs

theorem boundarySwitched_inv (hs : Inv s = true) (hub partition flags : Nat) :
    Inv (boundarySwitched hub partition flags s) = true :=
  inv_ite (fun _ => switchHub_inv partition hub s hs) (fun _ => hs)

/-! ### Where sites belong, after each part -/

theorem boundaryOpened_places (hs : Inv s = true) (hub partition step : Nat) (sk : Dword) (flags : Nat) :
    (boundaryOpened hub partition step sk flags s).places = s.places :=
  (each_eq (fun x y hy => modSen_inv x _ y hy) (fun x y _ => modSen_places x _ y) _
    (collectionOpened_inv hs hub partition step sk)).trans (modHub_places hs (fun _ => by rfl) hub)

theorem loadSamples_places (hs : Inv s = true) (xs : List Nat) : (each xs loadSample s).places = s.places :=
  each_eq loadSample_inv (fun x _ hy => loadSample_places hy x) xs hs

/-! ### The hubs, after each part -/

theorem boundaryOpened_hubOf (hub partition step : Nat) (sk : Dword) (flags : Nat) (s : State) (k : Nat) :
    (boundaryOpened hub partition step sk flags s).hubOf k = (collectionOpened hub partition step sk s).hubOf k :=
  hubOf_of_get (each_get (φ := .hub) _ _ (fun _ _ => by rfl) _) k

theorem boundaryOpened_collect (hs : Inv s = true) (hub partition step : Nat) (sk : Dword) (flags : Nat) :
    ((boundaryOpened hub partition step sk flags s).hubOf hub).collect =
      newCollect (s.hubOf hub).collect step sk (s.alwaysRaised hub partition) := by
  rw [boundaryOpened_hubOf, collectionOpened, hubOf_modHub hs]

theorem hubView_boundaryOpened (hs : Inv s = true) {β : Type} {v : Hub → β} (hv : ∀ y c, v { y with collect := c } = v y)
    (hub partition step : Nat) (sk : Dword) (flags : Nat) :
    (boundaryOpened hub partition step sk flags s).hubView v = s.hubView v :=
  (funext fun k => congrArg v (boundaryOpened_hubOf hub partition step sk flags s k)).trans
    (hubView_modHub hs (fun y => by exact hv y _) hub)

theorem hubView_loadSamples (hs : Inv s = true) {β : Type} {v : Hub → β} (hv : ∀ y g, v { y with sampleGen := g } = v y)
    (xs : List Nat) : (each xs loadSample s).hubView v = s.hubView v :=
  each_eq (r := fun y => y.hubView v) loadSample_inv (fun x _ hy => hubView_loadSample hy hv x) xs hs

/-- A hub that switches makes the pending sets of its sectors in the partition active. -/
theorem switchHub_hubOf (hs : Inv s = true) (p h k : Nat) :
    (switchHub p h s).hubOf k =
      if k ∈ s.setSectors p h then { s.hubOf k with set := (s.hubOf k).setPending, setPending := [] } else s.hubOf k := by
  unfold switchHub
  refine (hubOf_of_get (each_get (φ := .hub) _ _ (fun _ _ => by rfl) _) k).trans ?_
  exact hubOf_each_modHub _ k (setSectors_nodup s p h) hs

theorem boundarySwitched_collect (hs : Inv s = true) (hub partition flags k : Nat) :
    ((boundarySwitched hub partition flags s).hubOf k).collect = (s.hubOf k).collect := by
  unfold boundarySwitched
  split
  · rw [switchHub_hubOf hs]
    split <;> rfl
  · rfl

theorem boundarySwitched_set (hs : Inv s = true) (hub partition flags z : Nat) :
    ((boundarySwitched hub partition flags s).hubOf z).set =
      if bitOf 0 flags = true ∧ z ∈ s.setSectors partition hub then (s.hubOf z).setPending else (s.hubOf z).set := by
  unfold boundarySwitched
  by_cases hflag : bitOf 0 flags = true
  · rw [if_pos hflag, switchHub_hubOf hs]
    by_cases hz : z ∈ s.setSectors partition hub <;> simp [hflag, hz]
  · simp [hflag]

/-- A load that has taken effect, recorded and its command answered (R172). -/
def loadAnswered (p : Nat) (l : PlausLoad) (s : State) : State :=
  let step := (s.partOf p).step
  let s := record 0x0030 (le 1 p ++ le 3 0 ++ le 8 step ++ setDigest l.set) (modPart p (fun x => { x with load := none }) s)
  if l.seq = 0 then s else complete l.seq 0 (le 8 step ++ setDigest l.set) s

theorem loadAnswered_inv (hs : Inv s = true) (p : Nat) (l : PlausLoad) : Inv (loadAnswered p l s) = true :=
  have hrecorded := record_inv _ _ _ (modPart_inv _ _ _ hs)
  inv_ite (fun _ => hrecorded) (fun _ => complete_inv _ _ _ _ hrecorded)

theorem loadAnswered_hub (p : Nat) (l : PlausLoad) (s : State) : Fld.get .hub (loadAnswered p l s) = Fld.get .hub s := by
  unfold loadAnswered
  refine get_ite_of (fun _ => ?_) (fun _ => (complete_get (by decide) _ _ _ _).trans ?_)
  · exact record_get (by decide) _ _ _
  · exact record_get (by decide) _ _ _

section
variable {β : Type} {v : Hub → β} (hv : ∀ y b, v { y with setPending := b } = v y)
include hv

theorem hubView_startLoad (hs : Inv s = true) (p : Nat) (l : PlausLoad) : (startLoad p l s).hubView v = s.hubView v := by
  unfold startLoad
  exact each_eq (r := fun y => y.hubView v) (fun z y hy => modHub_inv z _ y hy)
    (fun z _ hy => hubView_modHub hy (fun y => by exact hv y _) z) _ (modPart_inv _ _ _ hs)

/-- The end of a load changes at most the pending sets of the hubs, where another load follows. -/
theorem hubView_finishLoad (hs : Inv s = true) (p : Nat) : (finishLoad p s).hubView v = s.hubView v := by
  unfold finishLoad
  split
  case h_1 => rfl
  case h_2 l _ =>
    have hanswered := hubView_of_get (loadAnswered_hub p l s) v
    dsimp only
    split
    · exact (hubView_startLoad hv (loadAnswered_inv hs p l) p _).trans hanswered
    · exact hanswered

theorem hubView_endBoundary (hs : Inv s = true) (p step flags : Nat) : (endBoundary p step flags s).hubView v = s.hubView v := by
  unfold endBoundary
  refine hubView_ite_of (fun _ => rfl) fun _ => (hubView_of_get (answerBoundary_get (by decide) p step _) v).trans ?_
  exact hubView_ite_of (fun _ => hubView_finishLoad hv hs p) fun _ => rfl

end

/-! ### The sentinels, after each part -/

/-- What a step has counted at a sentinel: its output tiles, whether they are complete, its ledger (R124, R272). -/
def Sentinel.stepCounts (x : Sentinel) : Nat × Bool × List LedgerEntry := (x.outputs, x.stepLast, x.ledger)

theorem boundaryFront_stepCounts (sk : Dword) (restart : Bool) (x : Sentinel) :
    (boundaryFront sk restart x).stepCounts = (0, false, []) := by
  unfold boundaryFront
  dsimp only
  split <;> rfl

theorem boundaryOpened_stepCounts (hs : Inv s = true) {hub partition x : Nat} (hx : x ∈ s.hubPartSites hub partition) (step : Nat)
    (sk : Dword) (flags : Nat) : ((boundaryOpened hub partition step sk flags s).senOf x).stepCounts = (0, false, []) := by
  obtain ⟨y, hy⟩ := senOf_each_modSen_of_mem (boundaryFront sk (bitOf 2 flags)) hx
    (collectionOpened_inv hs hub partition step sk)
  exact (congrArg Sentinel.stepCounts hy).trans (boundaryFront_stepCounts sk _ y)

theorem senView_loadSamples (hs : Inv s = true) (xs : List Nat) :
    (each xs loadSample s).senView Sentinel.stepCounts = s.senView Sentinel.stepCounts :=
  each_eq (r := fun y => y.senView Sentinel.stepCounts) loadSample_inv
    (fun x _ hy => senView_loadSample hy (fun _ _ => rfl) x) xs hs

theorem senView_switchHub (hs : Inv s = true) (p h : Nat) :
    (switchHub p h s).senView Sentinel.stepCounts = s.senView Sentinel.stepCounts := by
  unfold switchHub
  refine (each_eq (r := fun y => y.senView Sentinel.stepCounts) (fun x y hy => modSen_inv x _ y hy)
    (fun x _ hy => senView_modSen hy (fun _ => by rfl) x) _ (each_inv _ _ (fun z y hy => modHub_inv z _ y hy) s hs)).trans ?_
  exact senView_of_get (each_get (φ := .sen) _ _ (fun _ _ => by rfl) s) _

theorem senView_boundarySwitched (hs : Inv s = true) (hub partition flags : Nat) :
    (boundarySwitched hub partition flags s).senView Sentinel.stepCounts = s.senView Sentinel.stepCounts := by
  unfold boundarySwitched
  split
  · exact senView_switchHub hs partition hub
  · rfl

/-! ### The whole boundary -/

theorem boundaryDone_collect (hs : Inv s = true) (hub partition step : Nat) (sk : Dword) (flags : Nat) (xs : List Nat) :
    ((boundaryDone hub partition step sk flags xs s).hubOf hub).collect =
      newCollect (s.hubOf hub).collect step sk (s.alwaysRaised hub partition) := by
  have hopened := boundaryOpened_inv hs hub partition step sk flags
  have hloaded := loadSamples_inv hopened xs
  refine (congrFun (hubView_endBoundary (v := Hub.collect) (fun _ _ => rfl)
    (respond_inv _ _ _ _ _ (boundarySwitched_inv hloaded hub partition flags)) partition step flags) hub).trans ?_
  refine (boundarySwitched_collect hloaded hub partition flags hub).trans ?_
  refine (congrFun (hubView_loadSamples (v := Hub.collect) hopened (fun _ _ => rfl) xs) hub).trans ?_
  exact boundaryOpened_collect hs hub partition step sk flags

theorem boundaryDone_set (hs : Inv s = true) (hub partition step : Nat) (sk : Dword) (flags : Nat) (xs : List Nat) (z : Nat) :
    ((boundaryDone hub partition step sk flags xs s).hubOf z).set =
      if bitOf 0 flags = true ∧ z ∈ s.setSectors partition hub then (s.hubOf z).setPending else (s.hubOf z).set := by
  have hopened := boundaryOpened_inv hs hub partition step sk flags
  have hloaded := loadSamples_inv hopened xs
  have hplaces := (loadSamples_places hopened xs).trans (boundaryOpened_places hs hub partition step sk flags)
  have hkept {v : Hub → List Byte} (hg : ∀ y g, v { y with sampleGen := g } = v y)
      (hc : ∀ y c, v { y with collect := c } = v y) :
      v ((each xs loadSample (boundaryOpened hub partition step sk flags s)).hubOf z) = v (s.hubOf z) :=
    congrFun ((hubView_loadSamples hopened hg xs).trans (hubView_boundaryOpened hs hc hub partition step sk flags)) z
  have hset := hkept (v := Hub.set) (fun _ _ => rfl) (fun _ _ => rfl)
  have hpending := hkept (v := Hub.setPending) (fun _ _ => rfl) (fun _ _ => rfl)
  refine (congrFun (hubView_endBoundary (v := Hub.set) (fun _ _ => rfl)
    (respond_inv _ _ _ _ _ (boundarySwitched_inv hloaded hub partition flags)) partition step flags) z).trans ?_
  refine (boundarySwitched_set hloaded hub partition flags z).trans ?_
  rw [setSectors_congr hplaces, hpending, hset]

theorem boundaryDone_stepCounts (hs : Inv s = true) {hub partition x : Nat} (hx : x ∈ s.hubPartSites hub partition) (step : Nat)
    (sk : Dword) (flags : Nat) (xs : List Nat) :
    ((boundaryDone hub partition step sk flags xs s).senOf x).stepCounts = (0, false, []) := by
  have hopened := boundaryOpened_inv hs hub partition step sk flags
  refine (congrArg Sentinel.stepCounts (senOf_of_get (endBoundary_get (φ := .sen) (by decide) partition step flags _) x)).trans ?_
  refine (congrFun (senView_boundarySwitched (loadSamples_inv hopened xs) hub partition flags) x).trans ?_
  refine (congrFun (senView_loadSamples hopened xs) x).trans ?_
  exact boundaryOpened_stepCounts hs hx step sk flags

/-- What a step boundary leaves of its hub's collection, of the hubs' sets and of the sentinels' counts. -/
theorem stepBoundary_opens (hs : Inv s = true) {hub partition step flags : Nat} {sk : Dword}
    (harr : s.arrives (.stepBoundary hub partition step sk flags) = true) :
    ∃ t raised, exec (.stepBoundary hub partition step sk flags) s = .next t ∧
      (t.hubOf hub).collect = newCollect (s.hubOf hub).collect step sk raised ∧
      (∀ z, (t.hubOf z).set =
        if bitOf 0 flags = true ∧ z ∈ s.setSectors partition hub then (s.hubOf z).setPending else (s.hubOf z).set) ∧
      ∀ x ∈ s.hubPartSites hub partition, (t.senOf x).stepCounts = (0, false, []) := by
  obtain ⟨xs, hexec⟩ := exec_stepBoundary_arrives harr
  have harrived := receive_inv (.stepBoundary hub partition step sk flags) s hs
  have hplaces := receive_places hs (.stepBoundary hub partition step sk flags)
  have hcollect := boundaryDone_collect harrived hub partition step sk flags xs
  rw [receive_collect hs] at hcollect
  refine ⟨_, _, hexec, hcollect, fun z => ?_, fun x hx => ?_⟩
  · obtain ⟨c, p, hz⟩ := receive_hubOf hs (.stepBoundary hub partition step sk flags) z
    rw [boundaryDone_set harrived, setSectors_congr hplaces, hz]
  · exact boundaryDone_stepCounts harrived (by rwa [hubPartSites_congr hplaces]) step sk flags xs

end Sys2Proof.Machine
end

section
/-!
PROOF. The statement of the items at a hub.
-/
namespace Sys2Proof.Machine

open Sys2Proof

/-- Settles O41: the boundary by its parts, each checker's item by what it leaves of its hub's collection. -/
theorem stepItemsAtTheHub : Obligations.StepItemsAtTheHub := by
  unfold Obligations.StepItemsAtTheHub
  refine ⟨?boundary, ?residue, ?plaus, ?redundancy⟩
  case boundary =>
    intro hub partition step sk flags s hs harr
    obtain ⟨t, raised, hexec, hcollect, hset, hcounts⟩ := stepBoundary_opens hs harr
    have hopened {α : Type} (field : Collect → α) := congrArg field hcollect
    refine ⟨t, hexec, hopened (·.step), hopened (·.skCur), hopened (·.failed), hopened (·.items),
      hopened (·.done), hopened (·.sent), hset, fun x hx => ?_⟩
    simpa [Sentinel.stepCounts] using hcounts x hx
  case residue =>
    intro site item detail s hs hj harr
    obtain ⟨t, tile, hexec, hverdicts⟩ := residueVerdict_collected hs hj harr
    exact ⟨t, hexec, (congrArg Collect.items hverdicts).trans (failMask_ite_items _ _ _),
      (congrArg Collect.failed hverdicts).trans (failMask_ite_failed _ _ _),
      (congrArg Collect.carry hverdicts).trans (failMask_ite_carry _ _ _)⟩
  case plaus =>
    intro site item s hs hj harr
    obtain ⟨t, hexec, hverdicts, hpart⟩ := plausVerdict_collected hs hj harr
    exact ⟨t, hexec, (congrArg Collect.failed hverdicts).trans (failMask_failed _ _),
      (congrArg Collect.carry hverdicts).trans (failMask_carry _ _), hpart⟩
  case redundancy =>
    intro site item s hs hj harr
    obtain ⟨t, hexec, hverdicts⟩ := redundancy_collected hs hj harr
    exact ⟨t, hexec, (congrArg Collect.failed hverdicts).trans (failMask_failed _ _),
      (congrArg Collect.carry hverdicts).trans (failMask_carry _ _)⟩

end Sys2Proof.Machine
end

section
/-!
PROOF. The front-to-back queue of a sentinel (R66 to R68): what a report, a verdict item and a standing item leave of its record.
-/
namespace Sys2Proof.Machine

open Sys2Proof

variable {s : State}

/-- A sentinel but for what a report reaches: the report entries of its queue, its counters and its drop counts. -/
def Sentinel.unreported (x : Sentinel) : Sentinel :=
  { x with fq := x.fq.filter (·.reserved), counters := [], dropCount := 0, dropUnsent := 0 }

/-- The reserved entries in use are no report's. -/
theorem used_of_unreported {x y : Sentinel} (h : x.unreported = y.unreported) : x.used true = y.used true := by
  have hfq : x.fq.filter (·.reserved) = y.fq.filter (·.reserved) := congrArg Sentinel.fq h
  simp only [Sentinel.used, beq_true, hfq]

/-- A report that merges into a waiting one leaves the reserved entries as they are. -/
theorem mergeEntry_reserved {key : Nat × Nat} : ∀ {es q : List FrontEntry}, mergeEntry key es = some q →
    q.filter (·.reserved) = es.filter (·.reserved) := by
  intro es
  induction es with
  | nil => exact fun h => nomatch h
  | cons e es ih =>
    intro q h
    unfold mergeEntry at h
    split at h
    case h_1 es' hlater =>
      obtain rfl := Option.some.inj h
      simp [List.filter_cons, ih hlater]
    case h_2 =>
      split at h
      case isTrue hmeets =>
        have hreport : e.reserved = false := by simpa using (Bool.and_eq_true_iff.mp hmeets).1
        obtain rfl := Option.some.inj h
        simp [hreport]
      case isFalse => exact nomatch h

/-- A report enters, merges or is dropped: the rest of its sentinel and every other one stay as they are (R67). -/
theorem senView_pushReport (hs : Inv s = true) (site : Nat) (item : Instr) :
    (pushReport site item s).senView Sentinel.unreported = s.senView Sentinel.unreported := by
  unfold pushReport
  refine senView_modSen hs (fun x => ?_) site
  split
  case isTrue => simp [Sentinel.unreported]
  case isFalse =>
    split
    case h_1 q hq =>
      obtain ⟨key, -, hmerge⟩ := Option.bind_eq_some_iff.mp hq
      simp [Sentinel.unreported, mergeEntry_reserved hmerge]
    case h_2 => rfl

theorem pushReport_unreported (hs : Inv s = true) (site k : Nat) (item : Instr) :
    ((pushReport site item s).senOf k).unreported = (s.senOf k).unreported := congrFun (senView_pushReport hs site item) k

/-- A report that finds room is the queue's last entry (R67). -/
theorem pushReport_fq_of_room (hs : Inv s = true) {site : Nat} {item : Instr}
    (h : (s.senOf site).used false + reportSlots item ≤ 14) :
    ((pushReport site item s).senOf site).fq = (s.senOf site).fq ++ [{ item := item, slots := reportSlots item }] := by
  unfold pushReport
  rw [senOf_modSen hs, if_pos h]

@[simp] theorem pushReport_sent (site : Nat) (item : Instr) (s : State) : (pushReport site item s).sent = s.sent := rfl

/-- A verdict item changes of a sentinel its queue, or the marks of a verdict that is lost (R68). -/
theorem senView_pushVerdict (hs : Inv s = true) {β : Type} {v : Sentinel → β}
    (hv : ∀ x q e o, v { x with fq := q, crossErr := e, overrun := o } = v x) (site slots : Nat) (item : Instr) :
    (pushVerdict site slots item s).senView v = s.senView v := by
  unfold pushVerdict
  refine senView_modSen hs (fun x => ?_) site
  split
  · exact hv x _ x.crossErr x.overrun
  · exact hv x x.fq _ true

/-- A verdict item that finds room is in the queue (R68). -/
theorem pushVerdict_enters (hs : Inv s = true) {site slots : Nat} {item : Instr} (h : (s.senOf site).used true + slots ≤ 2) :
    { item := item, reserved := true, slots := slots } ∈ ((pushVerdict site slots item s).senOf site).fq := by
  unfold pushVerdict
  rw [senOf_modSen hs, if_pos h]
  exact List.mem_append_right _ List.mem_cons_self

/-- A verdict item removes no entry from the queue. -/
theorem mem_pushVerdict_fq (hs : Inv s = true) {site : Nat} {e : FrontEntry} (he : e ∈ (s.senOf site).fq) (slots : Nat)
    (item : Instr) : e ∈ ((pushVerdict site slots item s).senOf site).fq := by
  unfold pushVerdict
  rw [senOf_modSen hs]
  split
  · exact List.mem_append_left _ he
  · exact he

@[simp] theorem pushVerdict_sent (site slots : Nat) (item : Instr) (s : State) : (pushVerdict site slots item s).sent = s.sent := rfl

/-- An item whose level stands at the front has entered the queue, or waits for a reserved entry (R327). -/
theorem enterFront_enters (item : Instr) (x : Sentinel) :
    { item := item, reserved := true } ∈ (enterFront item x).fq ∨ item ∈ (enterFront item x).fwait := by
  unfold enterFront
  split
  · exact .inl (List.mem_append_right _ List.mem_cons_self)
  · exact .inr (List.mem_append_right _ List.mem_cons_self)

end Sys2Proof.Machine
end

section
/-!
PROOF. OUTPUT_TILE_SEALED (R125, R142, R146, R148, R193, R207): the tile's verdict, what is counted, captured and sent of it.
-/
namespace Sys2Proof.Machine

open Sys2Proof

variable {s : State}

/-- The verdict item of a tile: of a checker that is not enabled, the disabled item (R146). -/
def tileVerdict (x : Sentinel) (o : TileObs) : VerdictItem :=
  if bitOf 1 x.ctrlFront then (residueVerdictOf o).1 else disabledItem (residueVerdictOf o).1

/-- The detail item of a tile's verdict. -/
def tileDetail (v : VerdictItem) (o : TileObs) : DetailItem := if v.verdict = 8 then {} else (residueVerdictOf o).2

/-- Queue entries of a verdict: two with its detail item (R142). -/
def verdictSlots (v : VerdictItem) : Nat := if v.verdict = 2 ∨ v.verdict = 3 then 2 else 1

theorem verdictSlots_le (v : VerdictItem) : verdictSlots v ≤ 2 := by
  unfold verdictSlots
  split <;> decide

/-- The event of a failing verdict at the site's slot and tile (Table 6.6). -/
def mismatchEvent (site : Nat) (v : VerdictItem) (d : DetailItem) (s : State) : Instr :=
  .event { code := verdictEvent v.verdict, source := site, payload := mismatchPayload v d (s.slotAt site) (s.tileAt site) }

/-- A tile judged: counted by its verdict, and the event of a failing one reported (R142). -/
def tileJudged (site : Nat) (v : VerdictItem) (d : DetailItem) (s : State) : State :=
  if verdictEvent v.verdict = 0 then modSen site (countTile v) s
  else pushReport site (mismatchEvent site v d (modSen site (countTile v) s)) (modSen site (countTile v) s)

/-- A tile counted as an output, and one fewer to the next sample (R193). -/
def outputCounted (x : Sentinel) : Sentinel := { x with outputs := x.outputs + 1, sampleCount := x.sampleCount - 1 }

/-- A tile kept in the capture buffer, or not (R148). -/
def captureKept (keep : Bool) (site : Nat) (c : Capture) (s : State) : State :=
  if keep then modSen site (fun y => { y with captures := y.captures ++ [c] }) s else s

/-- The redundancy item of a tile that has one (R213). -/
def redundancyPushed (site : Nat) (red : Option RedundancyItem) (s : State) : State :=
  match red with
  | some i => pushVerdict site 1 (.redundancy site i) s
  | none => s

/-- A tile of the job counted, captured, and its items entered. -/
def tileTaken (site : Nat) (keep : Bool) (c : Capture) (red : Option RedundancyItem) (v : VerdictItem) (d : DetailItem)
    (s : State) : State :=
  redundancyPushed site red (pushVerdict site (verdictSlots v) (.residueVerdict site v d)
    (captureKept keep site c (modSen site outputCounted s)))

/-- The sample of a tile is asked when the down-counter reaches it (R193). -/
def sampleAsked (asked : Bool) (site seq : Nat) (s : State) : State := if asked then send (.sampleSelect site seq) s else s

theorem exec_outputTileSealed_idle {o : TileObs} (hl : o.desc.lineage = 0xFF) (hh : o.desc.handle = 0xFFFF08) (site : Nat) (s : State) :
    exec (.outputTileSealed site o) s = .next s := by
  rw [exec_outputTileSealed, execOutputTileSealed, if_pos (by simp [hl, hh])]

section
variable {site : Nat} {o : TileObs} {v : VerdictItem} {d : DetailItem} (hv : v = tileVerdict (s.senOf site) o) (hd : d = tileDetail v o)
include hv hd

/-- A tile of the job is judged and taken, and its sample asked. -/
theorem exec_outputTileSealed_job (hl : o.desc.lineage ≠ 0xFF) : ∃ keep c red, exec (.outputTileSealed site o) s =
    .next (sampleAsked ((s.senOf site).sampleCount == 1) site o.desc.seq (tileTaken site keep c red v d (tileJudged site v d s))) := by
  subst hd hv
  rw [exec_outputTileSealed, execOutputTileSealed, if_neg (by simp [hl])]
  dsimp only
  rw [if_neg (by simp [hl])]
  simp only [Bool.or_eq_true, decide_eq_true_eq]
  exact ⟨_, _, _, rfl⟩

/-- Test content is judged, and its run reported to the hub (R207). -/
theorem exec_outputTileSealed_test (hl : o.desc.lineage = 0xFF) (ht : testHandle o.desc.handle = true)
    (hh : o.desc.handle ≠ 0xFFFF08) :
    exec (.outputTileSealed site o) s = .next (reportRun site o v (tileJudged site v d s)) := by
  subst hd hv
  rw [exec_outputTileSealed, execOutputTileSealed, if_neg (by simp [hh])]
  dsimp only
  rw [if_pos (by simp [hl, ht])]
  rfl

end

@[simp] theorem sampleAsked_senOf (asked : Bool) (site seq : Nat) (s : State) (k : Nat) :
    (sampleAsked asked site seq s).senOf k = s.senOf k := by
  cases asked <;> rfl

theorem sampleAsked_sent (asked : Bool) (site seq : Nat) (s : State) :
    (sampleAsked asked site seq s).sent = if asked then s.sent ++ [.sampleSelect site seq] else s.sent := by
  cases asked <;> rfl

theorem countTile_unreported (v : VerdictItem) (x : Sentinel) : (countTile v x).unreported = x.unreported := by
  unfold countTile
  dsimp only
  split <;> rfl

theorem tileJudged_inv (hs : Inv s = true) (site : Nat) (v : VerdictItem) (d : DetailItem) : Inv (tileJudged site v d s) = true :=
  have hcounted := modSen_inv site (countTile v) s hs
  inv_ite (fun _ => hcounted) (fun _ => pushReport_inv _ _ _ hcounted)

theorem tileJudged_sent (site : Nat) (v : VerdictItem) (d : DetailItem) (s : State) : (tileJudged site v d s).sent = s.sent := by
  unfold tileJudged
  split <;> rfl

/-- A judgement reaches of the site's sentinel no more than a report does. -/
theorem tileJudged_unreported (hs : Inv s = true) (site : Nat) (v : VerdictItem) (d : DetailItem) :
    ((tileJudged site v d s).senOf site).unreported = (s.senOf site).unreported := by
  have hcounted : ((modSen site (countTile v) s).senOf site).unreported = (s.senOf site).unreported := by
    rw [senOf_modSen hs, countTile_unreported]
  unfold tileJudged
  split
  · exact hcounted
  · exact (pushReport_unreported (modSen_inv _ _ _ hs) site site _).trans hcounted

theorem captureKept_inv (hs : Inv s = true) (keep : Bool) (site : Nat) (c : Capture) : Inv (captureKept keep site c s) = true :=
  inv_ite (fun _ => modSen_inv _ _ _ hs) (fun _ => hs)

@[simp] theorem captureKept_sent (keep : Bool) (site : Nat) (c : Capture) (s : State) : (captureKept keep site c s).sent = s.sent := by
  cases keep <;> rfl

theorem senView_captureKept (hs : Inv s = true) {β : Type} {v : Sentinel → β} (hv : ∀ x c, v { x with captures := c } = v x)
    (keep : Bool) (site : Nat) (c : Capture) : (captureKept keep site c s).senView v = s.senView v := by
  unfold captureKept
  split
  · exact senView_modSen hs (fun x => by exact hv x _) site
  · rfl

@[simp] theorem redundancyPushed_sent (site : Nat) (red : Option RedundancyItem) (s : State) :
    (redundancyPushed site red s).sent = s.sent := by
  cases red <;> rfl

theorem senView_redundancyPushed (hs : Inv s = true) {β : Type} {v : Sentinel → β}
    (hv : ∀ x q e o, v { x with fq := q, crossErr := e, overrun := o } = v x) (site : Nat) (red : Option RedundancyItem) :
    (redundancyPushed site red s).senView v = s.senView v := by
  cases red with
  | none => rfl
  | some i => exact senView_pushVerdict hs hv site 1 _

theorem mem_redundancyPushed_fq (hs : Inv s = true) {site : Nat} {e : FrontEntry} (he : e ∈ (s.senOf site).fq)
    (red : Option RedundancyItem) : e ∈ ((redundancyPushed site red s).senOf site).fq := by
  cases red with
  | none => exact he
  | some i => exact mem_pushVerdict_fq hs he 1 _

theorem tileTaken_sent (site : Nat) (keep : Bool) (c : Capture) (red : Option RedundancyItem) (v : VerdictItem) (d : DetailItem)
    (s : State) : (tileTaken site keep c red v d s).sent = s.sent := by
  unfold tileTaken
  rw [redundancyPushed_sent, pushVerdict_sent, captureKept_sent, modSen_sent]

/-- How many output tiles a sentinel has counted, and how many are left to the next sample. -/
def Sentinel.tileCounts (x : Sentinel) : Nat × Nat := (x.outputs, x.sampleCount)

/-- A tile that is taken counts, and its verdict item is in the queue when no reserved entry was in use. -/
theorem tileTaken_counts (hs : Inv s = true) {site : Nat} (hroom : (s.senOf site).used true = 0) (keep : Bool) (c : Capture)
    (red : Option RedundancyItem) (v : VerdictItem) (d : DetailItem) :
    ((tileTaken site keep c red v d s).senOf site).tileCounts = ((s.senOf site).outputs + 1, (s.senOf site).sampleCount - 1) ∧
    { item := .residueVerdict site v d, reserved := true, slots := verdictSlots v } ∈
      ((tileTaken site keep c red v d s).senOf site).fq := by
  have hcounted := modSen_inv site outputCounted s hs
  have hkept := captureKept_inv hcounted keep site c
  have hpushed := pushVerdict_inv site (verdictSlots v) (.residueVerdict site v d) _ hkept
  unfold tileTaken
  refine ⟨?counts, mem_redundancyPushed_fq hpushed (pushVerdict_enters hkept ?room) red⟩
  case counts =>
    refine (congrFun (senView_redundancyPushed hpushed (v := Sentinel.tileCounts) (fun _ _ _ _ => rfl) site red) site).trans ?_
    refine (congrFun (senView_pushVerdict hkept (v := Sentinel.tileCounts) (fun _ _ _ _ => rfl) site _ _) site).trans ?_
    refine (congrFun (senView_captureKept hcounted (v := Sentinel.tileCounts) (fun _ _ => rfl) keep site c) site).trans ?_
    exact congrArg Sentinel.tileCounts (senOf_modSen hs site outputCounted)
  case room =>
    have hused : ((captureKept keep site c (modSen site outputCounted s)).senOf site).used true = 0 := by
      refine (congrFun (senView_captureKept hcounted (v := (·.used true)) (fun _ _ => rfl) keep site c) site).trans ?_
      exact (congrArg (·.used true) (senOf_modSen hs site outputCounted)).trans hroom
    rw [hused, Nat.zero_add]
    exact verdictSlots_le v

/-- A tile of the job: counted, its verdict item in the queue, and its sample asked when its turn has come (R142, R193). -/
theorem outputTileSealed_counts (hs : Inv s = true) {site : Nat} {o : TileObs} {v : VerdictItem} {d : DetailItem}
    (hv : v = tileVerdict (s.senOf site) o) (hd : d = tileDetail v o) (hl : o.desc.lineage ≠ 0xFF)
    (hroom : (s.senOf site).used true = 0) :
    ∃ t, exec (.outputTileSealed site o) s = .next t ∧
      (t.senOf site).tileCounts = ((s.senOf site).outputs + 1, (s.senOf site).sampleCount - 1) ∧
      { item := .residueVerdict site v d, reserved := true, slots := verdictSlots v } ∈ (t.senOf site).fq ∧
      t.sent = if (s.senOf site).sampleCount = 1 then s.sent ++ [.sampleSelect site o.desc.seq] else s.sent := by
  obtain ⟨keep, c, red, hexec⟩ := exec_outputTileSealed_job hv hd hl
  have hsame := tileJudged_unreported hs site v d
  have houtputs : ((tileJudged site v d s).senOf site).outputs = (s.senOf site).outputs := (congrArg Sentinel.outputs hsame :)
  have hsample : ((tileJudged site v d s).senOf site).sampleCount = (s.senOf site).sampleCount := (congrArg Sentinel.sampleCount hsame :)
  obtain ⟨hcounts, hitem⟩ := tileTaken_counts (tileJudged_inv hs site v d) ((used_of_unreported hsame).trans hroom) keep c red v d
  rw [houtputs, hsample] at hcounts
  refine ⟨_, hexec, ?_, ?_, ?_⟩
  · rwa [sampleAsked_senOf]
  · rwa [sampleAsked_senOf]
  · rw [sampleAsked_sent, tileTaken_sent, tileJudged_sent]
    simp only [beq_iff_eq]

/-- A run is reported with its verdict, its seal checks, its signature and its status word (R207). -/
theorem reportRun_of_run {site point recipe : Nat} {epoch : Dword} (hrun : (s.senOf site).run = some (point, recipe, epoch))
    (o : TileObs) (v : VerdictItem) : ∃ rep, reportRun site o v s = send (.runResult site recipe v.verdict (flag (s.senOf site).runSeals)
      (signatureOf ((List.range (recipeOf recipe).blocksOut).map fun k => ((s.senOf site).outBlock recipe k).payload)) v.status rep) s := by
  unfold reportRun
  dsimp only
  rw [hrun]
  exact ⟨_, rfl⟩

theorem outBlock_of_unreported {x y : Sentinel} (h : x.unreported = y.unreported) (recipe k : Nat) :
    x.outBlock recipe k = y.outBlock recipe k := by
  have htest : x.test = y.test := (congrArg Sentinel.test h :)
  unfold Sentinel.outBlock
  rw [htest]

/-- Test content is reported with its run, and is no output (R207). -/
theorem outputTileSealed_reports (hs : Inv s = true) {site point recipe : Nat} {epoch : Dword} {o : TileObs} {v : VerdictItem}
    (hv : v = tileVerdict (s.senOf site) o) (hl : o.desc.lineage = 0xFF) (ht : testHandle o.desc.handle = true)
    (hh : o.desc.handle ≠ 0xFFFF08) (hrun : (s.senOf site).run = some (point, recipe, epoch)) :
    ∃ t rep, exec (.outputTileSealed site o) s = .next t ∧ (t.senOf site).outputs = (s.senOf site).outputs ∧
      t.sent = s.sent ++ [.runResult site recipe v.verdict (flag (s.senOf site).runSeals)
        (signatureOf ((List.range (recipeOf recipe).blocksOut).map fun k => ((s.senOf site).outBlock recipe k).payload)) v.status rep] := by
  have hexec := exec_outputTileSealed_test hv rfl hl ht hh
  have hsame := tileJudged_unreported hs site v (tileDetail v o)
  obtain ⟨rep, hreport⟩ := reportRun_of_run ((congrArg Sentinel.run hsame :).trans hrun) o v
  have hseals : ((tileJudged site v (tileDetail v o) s).senOf site).runSeals = (s.senOf site).runSeals :=
    (congrArg Sentinel.runSeals hsame :)
  simp only [hseals, outBlock_of_unreported hsame] at hreport
  refine ⟨_, rep, hexec, ?_, ?_⟩
  · rw [hreport, send_senOf]
    exact (congrArg Sentinel.outputs hsame :)
  · rw [hreport, send_sent, tileJudged_sent]

end Sys2Proof.Machine
end

section
/-!
PROOF. What a repeat that is asked leaves alone (R192 to R194): of a hub all but its repeats and its counts, of a sentinel all but its
captures.
-/
namespace Sys2Proof.Machine

open Sys2Proof

variable {s : State}

/-- A hub but for its repeats and its counts. -/
def Hub.unrepeated (y : Hub) : Hub := { y with repeats := [], job := none, counters := [], veSkipped := 0, veCounts := [] }

/-- A sentinel but for its captures. -/
def Sentinel.uncaptured (x : Sentinel) : Sentinel := { x with captures := [] }

/-- Every hub and every sentinel, but for what a repeat reaches. -/
def State.unrepeated (s : State) : (Nat → Hub) × (Nat → Sentinel) := (s.hubView Hub.unrepeated, s.senView Sentinel.uncaptured)

theorem unrepeated_ite_of {c : Prop} [Decidable c] {a b : State} (ha : c → a.unrepeated = s.unrepeated)
    (hb : ¬c → b.unrepeated = s.unrepeated) : (if c then a else b).unrepeated = s.unrepeated := by
  split
  · exact ha ‹_›
  · exact hb ‹_›

theorem modHub_unrepeated (hs : Inv s = true) {f : Hub → Hub} (hf : ∀ y, (f y).unrepeated = y.unrepeated) (h : Nat) :
    (modHub h f s).unrepeated = s.unrepeated := congrArg (·, s.senView Sentinel.uncaptured) (hubView_modHub hs hf h)

theorem countHub_unrepeated (hs : Inv s = true) (h k n : Nat) : (countHub h k n s).unrepeated = s.unrepeated :=
  modHub_unrepeated hs (fun _ => by rfl) h

@[simp] theorem send_hubOf (m : Instr) (s : State) (k : Nat) : (send m s).hubOf k = s.hubOf k := rfl

@[simp] theorem send_unrepeated (m : Instr) (s : State) : (send m s).unrepeated = s.unrepeated := rfl

theorem recordFrom_unrepeated (source code : Nat) (payload : List Byte) (s : State) :
    (recordFrom source code payload s).unrepeated = s.unrepeated := by
  unfold State.unrepeated
  rw [hubView_of_get (recordFrom_get (by decide) source code payload s),
    senView_of_get (recordFrom_get (by decide) source code payload s)]

theorem releaseCapture_unrepeated (hs : Inv s = true) (h site seq step : Nat) :
    (releaseCapture h site seq step s).unrepeated = s.unrepeated := by
  unfold releaseCapture
  split
  · rfl
  · exact congrArg (s.hubView Hub.unrepeated, ·) (senView_modSen hs (fun _ => by rfl) site)

theorem serveRepeat_unrepeated (hs : Inv s = true) (h : Nat) : (serveRepeat h s).unrepeated = s.unrepeated := by
  unfold serveRepeat
  dsimp only
  split
  · rfl
  · split
    · rfl
    · rw [send_unrepeated]
      exact modHub_unrepeated hs (fun _ => by rfl) h

/-- A repeat that the queue does not keep: skipped, or unavailable (R194). -/
theorem dropRepeat_unrepeated (hs : Inv s = true) (h : Nat) (r : RepeatReq) : (dropRepeat h r s).unrepeated = s.unrepeated := by
  have hmod (f : Hub → Hub) (hf : ∀ y, (f y).unrepeated = y.unrepeated) (k : Nat) :
      (countHub h k 1 (modHub h f s)).unrepeated = s.unrepeated :=
    (countHub_unrepeated (modHub_inv _ _ _ hs) h k 1).trans (modHub_unrepeated hs hf h)
  unfold dropRepeat
  split
  · exact (releaseCapture_unrepeated (skipRepeat_inv h s hs) h _ _ _).trans (hmod _ (fun _ => by rfl) 26)
  · refine (releaseCapture_unrepeated (recordFrom_inv _ _ _ _ (countOutcome_inv h 7 s hs)) h _ _ _).trans ?_
    exact (recordFrom_unrepeated _ _ _ _).trans (hmod _ (fun _ => by rfl) 23)

/-- A repeat asked of a hub merges, waits, starts, or takes the place of another, which is dropped (R194). -/
theorem requestRepeat_unrepeated (hs : Inv s = true) (h : Nat) (r : RepeatReq) : (requestRepeat h r s).unrepeated = s.unrepeated := by
  have hmod (f : Hub → Hub) (hf : ∀ y, (f y).unrepeated = y.unrepeated) : (modHub h f s).unrepeated = s.unrepeated :=
    modHub_unrepeated hs hf h
  unfold requestRepeat
  refine unrepeated_ite_of (fun _ => rfl) fun _ => ?_
  refine unrepeated_ite_of (fun _ => hmod _ fun _ => rfl) fun _ => ?_
  refine unrepeated_ite_of (fun _ => ?merges) fun _ => ?_
  case merges => exact unrepeated_ite_of (fun _ => hmod _ fun _ => rfl) (fun _ => (send_unrepeated _ _).trans (hmod _ fun _ => by rfl))
  refine unrepeated_ite_of (fun _ => ?waits) fun _ => ?_
  case waits => exact (serveRepeat_unrepeated (modHub_inv _ _ _ hs) h).trans (hmod _ fun _ => rfl)
  split
  case h_1 o _ =>
    have hplaced : Inv (modHub h (fun y => { y with repeats := y.repeats.erase o ++ [r] }) s) = true := modHub_inv _ _ _ hs
    refine (serveRepeat_unrepeated (dropRepeat_inv _ _ _ hplaced) h).trans ?_
    exact (dropRepeat_unrepeated hplaced h o).trans (hmod _ fun _ => rfl)
  case h_2 => exact dropRepeat_unrepeated hs h r

theorem requestRepeat_sampleGen (hs : Inv s = true) (h k : Nat) (r : RepeatReq) :
    ((requestRepeat h r s).hubOf k).sampleGen = (s.hubOf k).sampleGen :=
  (congrArg Hub.sampleGen (congrFun (congrArg Prod.fst (requestRepeat_unrepeated hs h r)) k) :)

theorem requestRepeat_sampleCount (hs : Inv s = true) (h k : Nat) (r : RepeatReq) :
    ((requestRepeat h r s).senOf k).sampleCount = (s.senOf k).sampleCount :=
  (congrArg Sentinel.sampleCount (congrFun (congrArg Prod.snd (requestRepeat_unrepeated hs h r)) k) :)

/-- A hub that does not take repeats of a reason leaves them alone (Table 8.7). -/
theorem requestRepeat_not_taken {h : Nat} {r : RepeatReq} (ht : (s.hubOf h).takes r.reason = false) : requestRepeat h r s = s :=
  if_pos (by simp [ht])

@[simp] theorem nextRepeat_singleton (r : RepeatReq) : nextRepeat [r] = some r := by
  unfold nextRepeat
  by_cases hfirst : reasonOrder r.reason = 0
  · simp [hfirst]
  · by_cases hsecond : reasonOrder r.reason = 1 <;> simp [hfirst, hsecond]

/-- An engine without a repeat at work starts the one that waits. -/
theorem serveRepeat_starts (hs : Inv s = true) {h : Nat} {r : RepeatReq} (hjob : (s.hubOf h).job = none)
    (hq : (s.hubOf h).repeats = [r]) :
    ((serveRepeat h s).hubOf h).job = some { req := r } ∧ repeatMsg r r.elems ∈ (serveRepeat h s).sent := by
  have hstart : serveRepeat h s = send (repeatMsg r r.elems)
      (modHub h (fun y => { y with repeats := y.repeats.erase r, job := some { req := r } }) s) := by
    unfold serveRepeat
    simp [hjob, hq]
  rw [hstart]
  refine ⟨?_, List.mem_append_right _ List.mem_cons_self⟩
  rw [send_hubOf, hubOf_modHub hs]

/-- A hub with no repeat at work and none waiting starts the one that is asked. -/
theorem requestRepeat_idle (hs : Inv s = true) {h : Nat} {r : RepeatReq} (ht : (s.hubOf h).takes r.reason = true) (he : r.elems ≠ [])
    (hjob : (s.hubOf h).job = none) (hq : (s.hubOf h).repeats = []) :
    ((requestRepeat h r s).hubOf h).job = some { req := r } ∧ repeatMsg r r.elems ∈ (requestRepeat h r s).sent := by
  have hqueued : requestRepeat h r s = serveRepeat h (modHub h (fun y => { y with repeats := y.repeats ++ [r] }) s) := by
    unfold requestRepeat
    simp [ht, he, hjob, hq]
  have hhub : (modHub h (fun y => { y with repeats := y.repeats ++ [r] }) s).hubOf h = { s.hubOf h with repeats := [r] } := by
    rw [hubOf_modHub hs, hq, List.nil_append]
  rw [hqueued]
  exact serveRepeat_starts (modHub_inv _ _ _ hs) (by rw [hhub]; exact hjob) (by rw [hhub])

end Sys2Proof.Machine
end

section
/-!
PROOF. SAMPLE_SELECT (R193): the down-counter is loaded with one draw, and the element of the repeat is drawn with the next.
-/
namespace Sys2Proof.Machine

open Sys2Proof

variable {s : State}

theorem hubOf_countHub (hs : Inv s = true) (h k n : Nat) : ∃ c, (countHub h k n s).hubOf h = { s.hubOf h with counters := c } :=
  ⟨_, hubOf_modHub hs h _⟩

/-- A draw advances the generator of its hub, and changes nothing else of it. -/
theorem hubOf_sampleDraw (hs : Inv s = true) (h : Nat) :
    (sampleDraw h s).1.hubOf h = { s.hubOf h with sampleGen := (lfsrDraw (s.hubOf h).sampleGen).1 } := hubOf_modHub hs h _

theorem hubOf_loadSample (hs : Inv s = true) (site : Nat) : (loadSample site s).hubOf (s.siteHub site) =
    { s.hubOf (s.siteHub site) with sampleGen := (lfsrDraw (s.hubOf (s.siteHub site)).sampleGen).1 } := hubOf_sampleDraw hs _

/-- The mean in force for a tile at its hub: at the raised rate or not (R193). -/
def Hub.sampleMean (y : Hub) (tile : Nat) : Nat := if y.collect.raised.contains tile then y.veNcDiv else y.veSampleDiv

theorem loadSample_sampleCount (hs : Inv s = true) (site : Nat) : ((loadSample site s).senOf site).sampleCount =
    sampleInterval (lfsrDraw (s.hubOf (s.siteHub site)).sampleGen).2 ((s.hubOf (s.siteHub site)).sampleMean (s.tileAt site)) := by
  unfold loadSample
  dsimp only
  rw [senOf_modSen (sampleDraw_inv _ s hs)]
  rfl

/-- The state of a sample's two draws: the counter loaded, the element drawn, and the sample counted while SAMPLE_EN is set. -/
def sampleDrawn (h site : Nat) (s : State) : State :=
  if bitOf 0 (s.hubOf h).veCtrl then countHub h 27 1 (sampleDraw h (loadSample site s)).1
  else (sampleDraw h (loadSample site s)).1

/-- The repeat of a sample: one element of the tile (R193). -/
def sampleRequest (site seq step tile : Nat) (e : Nat × Nat) : RepeatReq :=
  { site := site, seq := seq, step := step, reason := 1, elems := [e], tile := tile }

theorem sampleDrawn_inv (hs : Inv s = true) (h site : Nat) : Inv (sampleDrawn h site s) = true :=
  have hdrawn := sampleDraw_inv h _ (loadSample_inv site s hs)
  inv_ite (fun _ => countHub_inv _ _ _ _ hdrawn) (fun _ => hdrawn)

/-- Two draws advance the generator of the site's hub, and change of it no more than a counter. -/
theorem hubOf_sampleDrawn (hs : Inv s = true) (site : Nat) : ∃ c, (sampleDrawn (s.siteHub site) site s).hubOf (s.siteHub site) =
    { s.hubOf (s.siteHub site) with
      sampleGen := (lfsrDraw (lfsrDraw (s.hubOf (s.siteHub site)).sampleGen).1).1, counters := c } := by
  have hloaded := loadSample_inv site s hs
  have hdrawn := hubOf_sampleDraw hloaded (s.siteHub site)
  rw [hubOf_loadSample hs] at hdrawn
  dsimp only at hdrawn
  unfold sampleDrawn
  split
  · obtain ⟨c, hc⟩ := hubOf_countHub (sampleDraw_inv _ _ hloaded) (s.siteHub site) 27 1
    exact ⟨c, hc.trans (by rw [hdrawn])⟩
  · exact ⟨(s.hubOf (s.siteHub site)).counters, hdrawn⟩

theorem sampleDrawn_sen (h site : Nat) (s : State) : (sampleDrawn h site s).sen = (loadSample site s).sen := by
  unfold sampleDrawn
  split <;> rfl

/-- A sample is drawn, and one element's repeat asked of the site's hub. -/
theorem exec_sampleSelect_asks (hs : Inv s = true) (site seq : Nat) : ∃ step tile, exec (.sampleSelect site seq) s = .next
    (requestRepeat (s.siteHub site) (sampleRequest site seq step tile
        (drawElement (lfsrDraw (lfsrDraw (s.hubOf (s.siteHub site)).sampleGen).1).2))
      (sampleDrawn (s.siteHub site) site (receive (.sampleSelect site seq) s))) := by
  have harrived := receive_inv (.sampleSelect site seq) s hs
  have hhub := siteHub_congr (receive_places hs (.sampleSelect site seq)) site
  have hdraw : (sampleDraw (s.siteHub site) (loadSample site (receive (.sampleSelect site seq) s))).2 =
      (lfsrDraw (lfsrDraw (s.hubOf (s.siteHub site)).sampleGen).1).2 := by
    have hloaded := hubOf_loadSample harrived site
    obtain ⟨c, p, hreceived⟩ := receive_hubOf hs (.sampleSelect site seq) (s.siteHub site)
    rw [hhub, hreceived] at hloaded
    unfold sampleDraw
    rw [hloaded]
  rw [exec_sampleSelect, execSampleSelect, hhub, hdraw]
  exact ⟨_, _, rfl⟩

/-- What a sample's draws leave of the site's counter and of its hub (R193). -/
theorem sampleDrawn_received (hs : Inv s = true) (site : Nat) (m : Instr) :
    (∃ c p, (sampleDrawn (s.siteHub site) site (receive m s)).hubOf (s.siteHub site) = { s.hubOf (s.siteHub site) with
      sampleGen := (lfsrDraw (lfsrDraw (s.hubOf (s.siteHub site)).sampleGen).1).1, counters := c, pool := p }) ∧
    ((sampleDrawn (s.siteHub site) site (receive m s)).senOf site).sampleCount =
      sampleInterval (lfsrDraw (s.hubOf (s.siteHub site)).sampleGen).2 ((s.hubOf (s.siteHub site)).sampleMean (s.tileAt site)) := by
  have harrived := receive_inv m s hs
  obtain ⟨_, p, hreceived⟩ := receive_hubOf hs m (s.siteHub site)
  obtain ⟨c, hdrawn⟩ := hubOf_sampleDrawn harrived site
  have hcount := loadSample_sampleCount harrived site
  rw [siteHub_congr (receive_places hs m), hreceived] at hdrawn hcount
  rw [receive_tileAt] at hcount
  refine ⟨⟨c, p, hdrawn⟩, ?_⟩
  exact (congrArg Sentinel.sampleCount (senOf_of_get (sampleDrawn_sen _ site _) site)).trans hcount

end Sys2Proof.Machine
end

section
/-!
PROOF. STREAM_END (R167, R175, R178, R182): a stream ends, and a checked one sends its summary.
-/
namespace Sys2Proof.Machine

open Sys2Proof

variable {s : State}

/-- A sentinel without a stream. -/
def streamCleared (x : Sentinel) : Sentinel := { x with stream := none, streamFree := false }

/-- The stream that a sentinel has checked to its end: none while PLAUS_EN is 0 (R182). -/
def Sentinel.checkedStream (x : Sentinel) : Option Stream := if bitOf 2 x.ctrlFront then x.stream else none

theorem checkedStream_eq_none {x : Sentinel} (h : x.stream = none ∨ bitOf 2 x.ctrlFront = false) : x.checkedStream = none := by
  unfold Sentinel.checkedStream
  rcases h with h | h <;> simp [h]

theorem checkedStream_of_enabled {x : Sentinel} (h : bitOf 2 x.ctrlFront = true) : x.checkedStream = x.stream := if_pos h

/-- A stream that ends is cleared and counted. -/
def streamCounted (site : Nat) (s : State) : State := countSen site 10 1 (modSen site streamCleared s)

theorem streamCounted_inv (hs : Inv s = true) (site : Nat) : Inv (streamCounted site s) = true :=
  countSen_inv _ _ _ _ (modSen_inv _ _ _ hs)

theorem senOf_streamCounted (hs : Inv s = true) (site : Nat) :
    ∃ c, (streamCounted site s).senOf site = { streamCleared (s.senOf site) with counters := c } := by
  unfold streamCounted countSen
  rw [senOf_modSen (modSen_inv _ _ _ hs), senOf_modSen hs]
  exact ⟨_, rfl⟩

theorem endStream_unchecked {site : Nat} (h : (s.senOf site).checkedStream = none) (cut : Bool) :
    endStream site cut s = modSen site streamCleared s := by
  unfold Sentinel.checkedStream at h
  unfold endStream
  simp only [h]
  rfl

/-- The summary of a stream shows a flag (R175). -/
def summaryFlagged (m : Summary) : Bool := m.flagCount != 0 || m.segFlags != 0

/-- The verdict item of a flagged stream whose program fails it (R175). -/
def flagsJudged (site : Nat) (e : List Byte) (m : Summary) (s : State) : State :=
  if summaryFlagged m && (programOf e).failBit then plausFail site m s else s

/-- The summary of a stream, as its program's SEND says (R178). -/
def summarySent (site : Nat) (e : List Byte) (m : Summary) (s : State) : State :=
  if (programOf e).send = 0 || ((programOf e).send = 1 && summaryFlagged m) then pushReport site (.summary site m) s else s

/-- A checked stream ends: its verdict item where it fails, then its summary. -/
theorem endStream_checked {site : Nat} {st : Stream} (h : (s.senOf site).checkedStream = some st) (cut : Bool) :
    endStream site cut s = summarySent site st.entry (streamSummary (streamClose st) cut)
      (flagsJudged site st.entry (streamSummary (streamClose st) cut) (streamCounted site s)) := by
  unfold Sentinel.checkedStream at h
  unfold endStream
  simp only [h]
  rfl

/-- The stream of a sentinel, and whether it is unchecked. -/
def Sentinel.streaming (x : Sentinel) : Option Stream × Bool := (x.stream, x.streamFree)

theorem pushReport_streaming (hs : Inv s = true) (site : Nat) (item : Instr) :
    ((pushReport site item s).senOf site).streaming = (s.senOf site).streaming :=
  (congrArg Sentinel.streaming (pushReport_unreported hs site site item) :)

theorem plausFail_streaming (hs : Inv s = true) (site : Nat) (m : Summary) :
    ((plausFail site m s).senOf site).streaming = (s.senOf site).streaming := by
  unfold plausFail
  dsimp only
  split
  · rfl
  · have hnoted := modSen_inv site (fun y => { y with plausSent := y.plausSent ++ [m.lineage] }) s hs
    refine (pushReport_streaming (pushVerdict_inv _ _ _ _ hnoted) site _).trans ?_
    refine (congrFun (senView_pushVerdict hnoted (v := Sentinel.streaming) (fun _ _ _ _ => rfl) site 1 _) site).trans ?_
    unfold State.senView
    rw [senOf_modSen hs]
    rfl

theorem flagsJudged_inv (hs : Inv s = true) (site : Nat) (e : List Byte) (m : Summary) : Inv (flagsJudged site e m s) = true :=
  inv_ite (fun _ => plausFail_inv _ _ _ hs) (fun _ => hs)

theorem flagsJudged_streaming (hs : Inv s = true) (site : Nat) (e : List Byte) (m : Summary) :
    ((flagsJudged site e m s).senOf site).streaming = (s.senOf site).streaming := by
  unfold flagsJudged
  split
  · exact plausFail_streaming hs site m
  · rfl

theorem summarySent_streaming (hs : Inv s = true) (site : Nat) (e : List Byte) (m : Summary) :
    ((summarySent site e m s).senOf site).streaming = (s.senOf site).streaming := by
  unfold summarySent
  split
  · exact pushReport_streaming hs site _
  · rfl

/-- A stream that ends leaves its sentinel without one. -/
theorem endStream_streaming (hs : Inv s = true) (site : Nat) (cut : Bool) :
    ((endStream site cut s).senOf site).streaming = (none, false) := by
  cases hst : (s.senOf site).checkedStream with
  | none => rw [endStream_unchecked hst, senOf_modSen hs]; rfl
  | some st =>
    have hcounted := streamCounted_inv hs site
    obtain ⟨c, hc⟩ := senOf_streamCounted hs site
    rw [endStream_checked hst, summarySent_streaming (flagsJudged_inv hcounted _ _ _), flagsJudged_streaming hcounted, hc]
    rfl

theorem endStream_fq_of_unchecked (hs : Inv s = true) {site : Nat} (h : (s.senOf site).checkedStream = none) (cut : Bool) :
    ((endStream site cut s).senOf site).fq = (s.senOf site).fq := by
  rw [endStream_unchecked h, senOf_modSen hs]
  rfl

/-- A stream without flags, of a program that sends every summary, sends one where the queue has room (R178). -/
theorem endStream_fq_of_unflagged (hs : Inv s = true) {site : Nat} {st : Stream} {cut : Bool}
    (h : (s.senOf site).checkedStream = some st) (hsend : (programOf st.entry).send = 0)
    (hflags : (streamSummary (streamClose st) cut).flagCount = 0) (hsegs : (streamSummary (streamClose st) cut).segFlags = 0)
    (hroom : (s.senOf site).used false ≤ 11) :
    ((endStream site cut s).senOf site).fq =
      (s.senOf site).fq ++ [{ item := .summary site (streamSummary (streamClose st) cut), slots := 3 }] := by
  have hended : endStream site cut s = pushReport site (.summary site (streamSummary (streamClose st) cut)) (streamCounted site s) := by
    rw [endStream_checked h]
    simp [summarySent, flagsJudged, summaryFlagged, hsend, hflags, hsegs]
  obtain ⟨c, hc⟩ := senOf_streamCounted hs site
  have hfq : ((streamCounted site s).senOf site).fq = (s.senOf site).fq := (congrArg Sentinel.fq hc :)
  have hused : ((streamCounted site s).senOf site).used false = (s.senOf site).used false := (congrArg (·.used false) hc :)
  rw [hended, pushReport_fq_of_room (streamCounted_inv hs site) (by rw [hused]; exact Nat.add_le_add_right hroom 3), hfq]
  rfl

end Sys2Proof.Machine
end

section
/-!
PROOF. STEP_LAST_COMPLETE (R270, R272): the step-done item of a tile, and the end of the step with the last of them.
-/
namespace Sys2Proof.Machine

open Sys2Proof

variable {s : State}

/-- The step-done item of a sentinel (R272). -/
def Sentinel.doneItem (x : Sentinel) : StepDoneItem :=
  { outputs := x.outputs, served := BitVec.ofNat 32 x.served, shared := x.shared, overrun := x.overrun, groups := min x.ledger.length 16 }

/-- A sentinel whose tile has ended its step: its ledger entries and its step-done item at the front. -/
def tileEnded (site : Nat) (item : StepDoneItem) (x : Sentinel) : Sentinel :=
  { enterFront (.stepDone site item) (x.ledger.foldl (fun y e => enterFront (.ledger site e) y) x) with stepLast := true, ledger := [] }

/-- A partition's step ended, with its last tile (R270). -/
def stepEndNoted (p : Nat) (s : State) : State := modPart p (fun y => { y with stepEnded := true, endAtRas := s.ras }) s

theorem tileEnded_item (site : Nat) (item : StepDoneItem) (x : Sentinel) :
    { item := .stepDone site item, reserved := true } ∈ (tileEnded site item x).fq ∨
      .stepDone site item ∈ (tileEnded site item x).fwait := enterFront_enters _ _

@[simp] theorem stepEndNoted_senOf (p : Nat) (s : State) (k : Nat) : (stepEndNoted p s).senOf k = s.senOf k := rfl

section
variable {site : Nat} (htile : s.tileAt site ≠ 0xFFFF) (hjob : s.hasJob (s.sitePart site) = true)
  (hlast : (s.senOf site).stepLast = false) (hopen : (s.partOf (s.sitePart site)).opened = true)
  (hrun : (s.partOf (s.sitePart site)).state ≠ 6)
include htile hjob hlast hopen hrun

/-- A tile of an open step, outside a replay, ends its step; with the last of its tiles the partition's step has ended (R270, R272). -/
theorem exec_stepLastComplete_ends :
    exec (.stepLastComplete site) s = .next
      (if (s.partSites (s.sitePart site)).all fun y => ((modSen site (tileEnded site (s.senOf site).doneItem) s).senOf y).stepLast
       then stepEndNoted (s.sitePart site) (modSen site (tileEnded site (s.senOf site).doneItem) s)
       else modSen site (tileEnded site (s.senOf site).doneItem) s) := by
  rw [exec_stepLastComplete, execStepLastComplete]
  dsimp only
  rw [if_neg (by simp [htile, hjob, hlast, hopen])]
  exact congrArg Host.Outcome.next (if_neg hrun)

/-- The sentinels' records are those after the tile's end, whether or not the partition's step has ended. -/
theorem stepLastComplete_senOf : ∃ t, exec (.stepLastComplete site) s = .next t ∧
    ∀ k, t.senOf k = (modSen site (tileEnded site (s.senOf site).doneItem) s).senOf k := by
  refine ⟨_, exec_stepLastComplete_ends htile hjob hlast hopen hrun, fun k => ?_⟩
  split <;> rfl

/-- Where every other tile has ended its step, the partition's step ends with this one (R270). -/
theorem exec_stepLastComplete_last (hs : Inv s = true)
    (hall : ((s.partSites (s.sitePart site)).all fun y => y = site || (s.senOf y).stepLast) = true) :
    exec (.stepLastComplete site) s =
      .next (stepEndNoted (s.sitePart site) (modSen site (tileEnded site (s.senOf site).doneItem) s)) := by
  have hended : ∀ y ∈ s.partSites (s.sitePart site),
      ((modSen site (tileEnded site (s.senOf site).doneItem) s).senOf y).stepLast = true := by
    intro y hy
    by_cases hsite : y = site
    · rw [hsite, senOf_modSen hs]
      rfl
    · have hother := List.all_eq_true.mp hall y hy
      rw [senOf_modSen_ne hs hsite]
      simpa [hsite] using hother
  rw [exec_stepLastComplete_ends htile hjob hlast hopen hrun, if_pos (List.all_eq_true.mpr hended)]

end

end Sys2Proof.Machine
end

section
/-!
PROOF. The statement of output tiles and streams.
-/
namespace Sys2Proof.Machine

open Sys2Proof

/-- Settles O49: each command by what it leaves of its sentinel, and a sample also by the draws of its hub. -/
theorem outputTilesAndStreams : Obligations.OutputTilesAndStreams := by
  unfold Obligations.OutputTilesAndStreams
  refine ⟨?idle, ?job, ?test, ?sample, ?beat, ?stream, ?step⟩
  case idle => exact fun site o s hl hh => exec_outputTileSealed_idle hl hh site s
  case job =>
    intro site o s hs hl hroom
    obtain ⟨t, hexec, hcounts, hitem, hsent⟩ := outputTileSealed_counts hs rfl rfl hl hroom
    have hframe : Changes [.sent, .sen] s t := exec_changes hexec
    refine ⟨t, _, _, _, hexec, rfl, rfl, rfl, congrArg Prod.fst hcounts, congrArg Prod.snd hcounts, hitem,
      fun hone => ?_, fun hmore => ?_, hframe .part (by decide), hframe .hub (by decide)⟩
    · rw [hsent, if_pos hone]
    · rw [hsent, if_neg hmore]
  case test =>
    intro site recipe point epoch o s hs hl ht hh hrun
    obtain ⟨t, rep, hexec, houtputs, hsent⟩ := outputTileSealed_reports hs rfl hl ht hh hrun
    exact ⟨t, _, _, rep, hexec, rfl, rfl, houtputs, hsent⟩
  case sample =>
    intro site seq s hs
    obtain ⟨step, tile, hexec⟩ := exec_sampleSelect_asks hs site seq
    have hu := sampleDrawn_inv (receive_inv (.sampleSelect site seq) s hs) (s.siteHub site) site
    obtain ⟨⟨c, p, hhub⟩, hcount⟩ := sampleDrawn_received hs site (.sampleSelect site seq)
    refine ⟨_, hexec, ?_, ?_, fun hoff => ?_, fun hon hjob hq => ?_⟩
    · exact (requestRepeat_sampleCount hu _ site _).trans hcount
    · rw [requestRepeat_sampleGen hu, hhub]
    · rw [requestRepeat_not_taken (by rw [hhub]; exact hoff), hhub]
      exact ⟨rfl, rfl⟩
    · obtain ⟨hstarted, hmsg⟩ := requestRepeat_idle hu (r := sampleRequest site seq step tile _) (by rw [hhub]; exact hon)
        (List.cons_ne_nil _ _) (by rw [hhub]; exact hjob) (by rw [hhub]; exact hq)
      exact ⟨_, hstarted, rfl, rfl, rfl, rfl, hmsg⟩
  case beat =>
    intro site b s hs
    exact ⟨_, exec_vectorBeat site b s, senOf_modSen hs site _, fun k hk => senOf_modSen_ne hs hk _⟩
  case stream =>
    intro site s hs
    have hended := endStream_streaming hs site false
    refine ⟨_, exec_streamEnd site s, congrArg Prod.fst hended, congrArg Prod.snd hended, fun hnone => ?_,
      fun st hon hst hsend hflags hsegs hroom => ?_⟩
    · exact endStream_fq_of_unchecked hs (checkedStream_eq_none hnone) false
    · exact endStream_fq_of_unflagged hs ((checkedStream_of_enabled hon).trans hst) hsend hflags hsegs hroom
  case step =>
    intro site s hs htile hjob hlast hopen hrun
    obtain ⟨t, hexec, hsen⟩ := stepLastComplete_senOf htile hjob hlast hopen hrun
    have hsite := (hsen site).trans (senOf_modSen hs site _)
    refine ⟨t, (s.senOf site).doneItem, hexec, ?_, ?_, rfl, ?_, fun hall => ?_, fun k hk => ?_⟩
    · rw [hsite]; rfl
    · rw [hsite]; rfl
    · rw [hsite]; exact tileEnded_item site _ _
    · have hended := hexec.symm.trans (exec_stepLastComplete_last htile hjob hlast hopen hrun hs hall)
      rw [Host.Outcome.next.inj hended, stepEndNoted, partOf_modPart (modSen_inv _ _ _ hs)]
      exact ⟨rfl, rfl⟩
    · exact (hsen k).trans (senOf_modSen_ne hs hk _)

end Sys2Proof.Machine
end

section
/-!
PROOF. The mailbox (R491 to R494): its channels and its commands, what leaves them as they are, and the answer that a command's
completion leaves at its channel (R493).
-/
namespace Sys2Proof.Machine

open Sys2Proof

variable {s t : State}

/-- The channels of the mailbox and the commands accepted by it. -/
def State.mailbox (s : State) : Sparse Channel × List Cmd := (s.win.channels, s.win.cmds)

theorem mailbox_of_get (h : Fld.get .win t = Fld.get .win s) : t.mailbox = s.mailbox :=
  congrArg (fun w : Window => (w.channels, w.cmds)) h

theorem mailbox_ite_of {c : Prop} [Decidable c] {a b : State} {x : Sparse Channel × List Cmd} (ha : c → a.mailbox = x)
    (hb : ¬c → b.mailbox = x) : (if c then a else b).mailbox = x := by
  split
  · exact ha ‹_›
  · exact hb ‹_›

theorem channelOf_congr (h : t.mailbox = s.mailbox) (k : Nat) : t.channelOf k = s.channelOf k := by
  have hchannels : t.win.channels = s.win.channels := congrArg Prod.fst h
  unfold State.channelOf
  rw [hchannels]

theorem cmd_congr (h : t.mailbox = s.mailbox) (seq : Nat) : t.cmd seq = s.cmd seq := by
  have hcmds : t.win.cmds = s.win.cmds := congrArg Prod.snd h
  unfold State.cmd
  rw [hcmds]

theorem runs_congr (h : t.mailbox = s.mailbox) {seq op : Nat} {c : Cmd} (hrun : Runs s seq op c) : Runs t seq op c := by
  unfold Runs
  rw [cmd_congr h]
  exact hrun

theorem answered_congr {ch seq status : Nat} {rsp : List Byte} (h : t.channelOf ch = s.channelOf ch)
    (ha : Answered ch seq status rsp s) : Answered ch seq status rsp t := by
  unfold Answered
  rw [h]
  exact ha

/-! ### The recorder leaves the mailbox as it is -/

theorem mailbox_raiseAlert (n : Nat) (s : State) : (raiseAlert n s).mailbox = s.mailbox :=
  (mailbox_of_get (syncPins_get (φ := .win) (by decide) _)).trans rfl

theorem mailbox_recorderAlert (was : Recorder) (s : State) : (recorderAlert was s).mailbox = s.mailbox :=
  mailbox_ite_of (fun _ => mailbox_raiseAlert 6 s) (fun _ => rfl)

theorem mailbox_acceptInto (staging : Bool) (r : Rec) (s : State) : (acceptInto staging r s).mailbox = s.mailbox := by
  unfold acceptInto
  dsimp only
  have halerted (f : Recorder → Recorder) : (recorderAlert s.recorder (modRec f s)).mailbox = s.mailbox :=
    (mailbox_recorderAlert _ _).trans (mailbox_of_get (modRec_get (by decide) f s))
  exact mailbox_ite_of (fun _ => (mailbox_of_get (send_get (by decide) _ _)).trans (halerted _)) (fun _ => halerted _)

theorem mailbox_dropSummary (s : State) : (dropSummary s).mailbox = s.mailbox :=
  (mailbox_of_get (modRec_get (by decide) _ _)).trans (mailbox_acceptInto _ _ _)

theorem mailbox_thaw (cause : Nat) (s : State) : (thaw cause s).mailbox = s.mailbox := by
  have hcopies (c : Bool) (qs : List Queued) :
      (if c then s else mirrorWrite qs (modRec (fun r => { r with mirrorStaging := [] }) s)).mailbox = s.mailbox :=
    mailbox_ite_of (fun _ => rfl) (fun _ => mailbox_of_get (mirrorWrite_get (by decide) _ _))
  have hwritten (n : Nat) (qs : List Queued) (y : State) : (ringWriteAll n qs y).mailbox = y.mailbox :=
    mailbox_of_get (ringWriteAll_get (by decide) n qs y)
  unfold thaw
  refine mailbox_ite_of (fun _ => rfl) (fun _ => ?_)
  refine mailbox_ite_of (fun _ => (mailbox_dropSummary _).trans ?_) (fun _ => ?_)
  all_goals exact (mailbox_acceptInto _ _ _).trans ((hwritten _ _ _).trans (hcopies _ _))

theorem mailbox_noteReason (site bit : Nat) (s : State) : (noteReason site bit s).mailbox = s.mailbox :=
  mailbox_of_get (noteReason_get (by decide) site bit s)

theorem mailbox_accept (e : Happening) (s : State) : (accept e s).mailbox = s.mailbox := by
  have hnoted (b : Bool) : (if b then noteReason e.source 1 s else s).mailbox = s.mailbox :=
    mailbox_ite_of (fun _ => mailbox_noteReason _ _ s) (fun _ => rfl)
  unfold accept
  refine mailbox_ite_of (fun _ => hnoted _) (fun _ => mailbox_ite_of (fun _ => hnoted _) fun _ =>
    mailbox_ite_of (fun _ => hnoted _) fun _ => ?_)
  split
  case h_1 | h_2 => exact hnoted _
  case h_3 => exact (mailbox_acceptInto _ _ _).trans ((mailbox_thaw _ _).trans (hnoted _))
  case h_4 => exact (mailbox_acceptInto _ _ _).trans (mailbox_ite_of (fun _ => hnoted _) (fun _ => hnoted _))

theorem mailbox_record (code : Nat) (payload : List Byte) (s : State) : (record code payload s).mailbox = s.mailbox :=
  mailbox_accept _ s

theorem mailbox_auditCmd (c : Cmd) (status : Nat) (s : State) : (auditCmd c status s).mailbox = s.mailbox := by
  have haudited (payload : List Byte) : (if 1 ≤ c.needs then record 0x8002 payload s else s).mailbox = s.mailbox :=
    mailbox_ite_of (fun _ => mailbox_record _ _ s) (fun _ => rfl)
  unfold auditCmd
  exact mailbox_ite_of (fun _ => (mailbox_record _ _ _).trans (haudited _)) (fun _ => haudited _)

/-! ### A completion -/

theorem modWin_channelOf {f : Window → Window} (hf : ∀ w, (f w).channels = w.channels) (s : State) (k : Nat) :
    (modWin f s).channelOf k = s.channelOf k := by
  unfold State.channelOf
  rw [modWin_win, hf]

theorem modPort_channelOf (die : Nat) (f : Port → Port) (s : State) (k : Nat) :
    (modPort die f s).channelOf k = s.channelOf k :=
  channelOf_of_get (modPort_get (by decide) die f s) k

/-- The registers of a channel take a completion (R493). -/
def Channel.posts (x : Channel) (c : Completion) (cs : List Completion) : Channel :=
  { x with waiting := cs, cplValid := true, cplTag := c.tag, cplSeq := c.seq, cplStatus := c.status, cplBulk := c.bulk,
           cplLen := c.rsp.length, rsp := if c.bulk then [] else c.rsp }

/-- A channel whose registers are free posts the first completion that waits; else nothing is posted. -/
theorem channelOf_postNext (hs : Inv s = true) (ch k : Nat) :
    (postNext ch s).channelOf k = s.channelOf k ∨
    ∃ c cs, k = ch ∧ (s.channelOf k).waiting = c :: cs ∧ (s.channelOf k).cplValid = false ∧
      (postNext ch s).channelOf k = (s.channelOf k).posts c cs := by
  unfold postNext
  dsimp only
  split
  case h_1 => exact .inl rfl
  case h_2 c cs hwaiting =>
    cases hvalid : (s.channelOf ch).cplValid
    case true => exact .inl rfl
    case false =>
      rw [if_neg Bool.false_ne_true]
      have hposted {t : State} (ht : t.channelOf k = (modChannel ch (·.posts c cs) s).channelOf k) :
          t.channelOf k = s.channelOf k ∨ ∃ c cs, k = ch ∧ (s.channelOf k).waiting = c :: cs ∧
            (s.channelOf k).cplValid = false ∧ t.channelOf k = (s.channelOf k).posts c cs := by
        by_cases hk : k = ch
        · subst hk
          exact .inr ⟨c, cs, rfl, hwaiting, hvalid, ht.trans (channelOf_modChannel hs k _)⟩
        · exact .inl (ht.trans (channelOf_modChannel_ne hs hk _))
      split
      case h_1 =>
        split
        · exact hposted (modPort_channelOf _ _ _ k)
        · exact hposted rfl
      case h_2 => exact hposted rfl

/-- An answer that a channel holds stays its answer when the channel posts the next completion. -/
theorem answered_postNext (hs : Inv s = true) {ch seq status : Nat} {rsp : List Byte} (h : Answered ch seq status rsp s)
    (ch' : Nat) : Answered ch seq status rsp (postNext ch' s) := by
  obtain hkept | ⟨c, cs, -, hwaiting, hfree, hposted⟩ := channelOf_postNext hs ch' ch
  · exact answered_congr hkept h
  · unfold Answered at h ⊢
    rw [hposted]
    obtain ⟨hvalid, -⟩ | ⟨k, hk, hseq, hstatus, hrsp⟩ := h
    · rw [hfree] at hvalid
      cases hvalid
    · rw [hwaiting] at hk
      obtain rfl | hlater := List.mem_cons.mp hk
      · exact .inl ⟨rfl, hseq, hstatus, congrArg List.length hrsp, fun hb => (if_neg (Bool.not_eq_true _ ▸ hb)).trans hrsp⟩
      · exact .inr ⟨k, hlater, hseq, hstatus, hrsp⟩

/-- A completion joins those that wait at a channel. -/
def queueCompletion (ch : Nat) (k : Completion) (s : State) : State :=
  modChannel ch (fun x => { x with waiting := x.waiting ++ [k] }) s

theorem answered_queueCompletion (hs : Inv s = true) {ch seq status : Nat} {rsp : List Byte} (h : Answered ch seq status rsp s)
    (ch' : Nat) (k : Completion) : Answered ch seq status rsp (queueCompletion ch' k s) := by
  by_cases hch : ch = ch'
  · subst hch
    unfold Answered queueCompletion at *
    rw [channelOf_modChannel hs]
    exact h.imp id fun ⟨c, hc, hanswer⟩ => ⟨c, List.mem_append_left _ hc, hanswer⟩
  · exact answered_congr (channelOf_modChannel_ne hs hch _) h

theorem queueCompletion_answered (hs : Inv s = true) (ch : Nat) (k : Completion) :
    Answered ch k.seq k.status k.rsp (queueCompletion ch k s) := by
  refine .inr ⟨k, ?_, rfl, rfl, rfl⟩
  unfold queueCompletion
  rw [channelOf_modChannel hs]
  exact List.mem_append_right _ List.mem_cons_self

/-- A command that completes is done, and is audited (R495). -/
def completionAudited (seq status : Nat) (c : Cmd) (s : State) : State :=
  auditCmd c status (modCmd seq (fun c => { c with done := true }) s)

/-- A long response goes into the bulk area (R493). -/
def responseStored (c : Cmd) (rsp : List Byte) (s : State) : State :=
  if 96 < rsp.length && c.oob.isNone then modWin (fun w => { w with bulk := Memory.write 0 w.bulk 0 rsp }) s else s

/-- The completion of a command, with its status and response. -/
def completionOf (seq status : Nat) (c : Cmd) (rsp : List Byte) : Completion :=
  { seq := seq, tag := c.tag, status := status, bulk := 96 < rsp.length, rsp := rsp }

/-- The completion of a command joins those of its channel, which posts the next one. -/
def completionQueued (seq status : Nat) (c : Cmd) (rsp : List Byte) (s : State) : State :=
  postNext c.channel (queueCompletion c.channel (completionOf seq status c rsp)
    (responseStored c rsp (completionAudited seq status c s)))

theorem complete_of_cmd {seq : Nat} {c : Cmd} (hc : s.cmd seq = some c) (status : Nat) (rsp : List Byte) :
    complete seq status rsp s =
      if c.done then s
      else if c.orphan then
        modWin (fun w => unlockBulk seq { w with discarded := w.discarded + 1, cmds := w.cmds.filter fun k => k.seq != seq })
          (completionAudited seq status c s)
      else completionQueued seq status c rsp s := by
  unfold complete
  rw [hc]
  rfl

theorem completionAudited_inv (hs : Inv s = true) (seq status : Nat) (c : Cmd) :
    Inv (completionAudited seq status c s) = true := auditCmd_inv _ _ _ (modCmd_inv _ _ _ hs)

theorem completionAudited_channelOf (seq status : Nat) (c : Cmd) (s : State) (k : Nat) :
    (completionAudited seq status c s).channelOf k = s.channelOf k := channelOf_congr (mailbox_auditCmd _ _ _) k

theorem responseStored_inv (hs : Inv s = true) (c : Cmd) (rsp : List Byte) : Inv (responseStored c rsp s) = true :=
  inv_ite (fun _ => bulkWrite_inv _ _ hs) (fun _ => hs)

theorem responseStored_channelOf (c : Cmd) (rsp : List Byte) (s : State) (k : Nat) :
    (responseStored c rsp s).channelOf k = s.channelOf k := by
  unfold responseStored
  split <;> rfl

/-- The completion of a command that runs is its channel's answer (R493). -/
theorem complete_answered (hs : Inv s = true) {seq op : Nat} {c : Cmd} (h : Runs s seq op c) (status : Nat) (rsp : List Byte) :
    Answered c.channel seq status rsp (complete seq status rsp s) := by
  obtain ⟨hcmd, -, -, hdone, horphan⟩ := h
  rw [complete_of_cmd hcmd, hdone, horphan]
  have hstored := responseStored_inv (completionAudited_inv hs seq status c) c rsp
  exact answered_postNext (modChannel_inv _ _ hstored) (queueCompletion_answered hstored c.channel _) c.channel

/-- An answer that a channel holds stays its answer when another command completes. -/
theorem answered_complete (hs : Inv s = true) {ch seq status : Nat} {rsp : List Byte} (h : Answered ch seq status rsp s)
    (seq' status' : Nat) (rsp' : List Byte) : Answered ch seq status rsp (complete seq' status' rsp' s) := by
  cases hc : s.cmd seq'
  case none =>
    unfold complete
    rw [hc]
    exact h
  case some c =>
    have haudited := completionAudited_inv hs seq' status' c
    have hchannel := completionAudited_channelOf seq' status' c s ch
    rw [complete_of_cmd hc]
    split
    · exact h
    · split
      · refine answered_congr ((modWin_channelOf (fun w => ?_) _ ch).trans hchannel) h
        exact (unlockBulk_keeps _ _).2.1
      · have hstored := responseStored_inv haudited c rsp'
        refine answered_postNext (modChannel_inv _ _ hstored) (answered_queueCompletion hstored ?_ _ _) _
        exact answered_congr ((responseStored_channelOf c rsp' _ ch).trans hchannel) h

end Sys2Proof.Machine
end

section
/-!
PROOF. Where sectors and hubs belong (R13, R25), by the regions of the partitions alone, and views of all partitions: what an
operation leaves alone of every one of them.
-/
namespace Sys2Proof.Machine

open Sys2Proof

variable {s t : State} {β : Type}

/-- What a view shows of every partition. -/
def State.partView (s : State) (v : Partition → β) : Nat → β := fun p => v (s.partOf p)

theorem partView_of_get (h : Fld.get .part t = Fld.get .part s) (v : Partition → β) : t.partView v = s.partView v :=
  funext fun p => congrArg v (partOf_of_get h p)

/-- A view that a change of one partition does not reach shows every partition as before. -/
theorem partView_modPart (hs : Inv s = true) {v : Partition → β} {f : Partition → Partition} (hv : ∀ x, v (f x) = v x) (p : Nat) :
    (modPart p f s).partView v = s.partView v := by
  funext q
  unfold State.partView
  by_cases hq : q = p
  · rw [hq, partOf_modPart hs, hv]
  · rw [partOf_modPart_ne hs hq]

theorem receive_partOf (m : Instr) (s : State) (p : Nat) : (receive m s).partOf p = s.partOf p :=
  partOf_of_get (receive_get (by decide) m s) p

/-- What decides where sectors and hubs belong: of the partitions, their regions only. -/
structure Zones where
  image : Image
  service : Nat → Bool × Bool × Option Nat
  regions : Nat → Nat

/-- Where the sectors and hubs of a state belong. -/
def State.zones (s : State) : Zones :=
  { image := s.image, service := s.hubView Hub.service, regions := s.partView Partition.regions }

theorem zones_of_places (h : t.places = s.places) : t.zones = s.zones := by
  have himage : t.image = s.image := congrArg Places.image h
  have hservice : t.hubView Hub.service = s.hubView Hub.service := congrArg Places.service h
  have hpart : t.part = s.part := congrArg Places.part h
  simp only [State.zones, himage, hservice, partView_of_get hpart]

theorem zones_of_get (himage : Fld.get .image t = Fld.get .image s) (hhub : Fld.get .hub t = Fld.get .hub s)
    (hpart : Fld.get .part t = Fld.get .part s) : t.zones = s.zones := by
  have himage : t.image = s.image := himage
  simp only [State.zones, himage, hubView_of_get hhub, partView_of_get hpart]

theorem modPart_zones (hs : Inv s = true) {f : Partition → Partition} (hf : ∀ x, (f x).regions = x.regions) (p : Nat) :
    (modPart p f s).zones = s.zones :=
  congrArg (Zones.mk s.image (s.hubView Hub.service)) (partView_modPart hs hf p)

theorem regions_congr (h : t.zones = s.zones) (p : Nat) : (t.partOf p).regions = (s.partOf p).regions :=
  congrFun (congrArg Zones.regions h) p

/-- The server of a sector is decided by the image and the hubs: the other places may be taken from either state. -/
theorem server_congr_zones (h : t.zones = s.zones) (z : Nat) : t.server z = s.server z := by
  have himage : t.image = s.image := congrArg Zones.image h
  have hservice : t.hubView Hub.service = s.hubView Hub.service := congrArg Zones.service h
  exact server_congr (t := { t with links := s.links, health := s.health, part := s.part })
    (places_of_get himage rfl rfl rfl hservice) z

theorem sectors_congr (h : t.zones = s.zones) : t.sectors = s.sectors := by
  have himage : t.image = s.image := congrArg Zones.image h
  unfold State.sectors State.present
  rw [himage]

theorem sectorPart_congr_zones (h : t.zones = s.zones) (z : Nat) : t.sectorPart z = s.sectorPart z := by
  unfold State.sectorPart State.regionPart
  simp only [regions_congr h]

theorem partSectors_congr (h : t.zones = s.zones) (p : Nat) : t.partSectors p = s.partSectors p := by
  unfold State.partSectors
  rw [sectors_congr h, regions_congr h]

theorem partHubs_congr (h : t.zones = s.zones) (p : Nat) : t.partHubs p = s.partHubs p := by
  unfold State.partHubs
  rw [partSectors_congr h, funext (server_congr_zones h)]

theorem eraseDups_nodup : ∀ xs : List Nat, xs.eraseDups.Nodup
  | [] => List.nodup_nil
  | x :: xs => by
    rw [List.eraseDups_cons]
    refine List.nodup_cons.mpr ⟨fun hx => ?_, eraseDups_nodup _⟩
    have hne := (List.mem_filter.mp (List.mem_eraseDups.mp hx)).2
    simp at hne
  termination_by xs => xs.length
  decreasing_by exact Nat.lt_succ_of_le (List.length_filter_le _ xs)

theorem partSectors_nodup (s : State) (p : Nat) : (s.partSectors p).Nodup := (List.nodup_range.filter _).filter _

theorem partHubs_nodup (s : State) (p : Nat) : (s.partHubs p).Nodup := eraseDups_nodup _

theorem mem_setSectors {p h z : Nat} : z ∈ s.setSectors p h ↔ z ∈ s.sectors ∧ s.server z = some h ∧ s.sectorPart z = p := by
  unfold State.setSectors State.served
  simp only [List.mem_filter, decide_eq_true_eq, and_assoc]

/-- A sector's set is kept by no hub but the one that serves it. -/
theorem setSectors_unique {p h k z : Nat} (hz : z ∈ s.setSectors p h) (hk : z ∈ s.setSectors p k) : k = h :=
  Option.some.inj ((mem_setSectors.mp hk).2.1.symm.trans (mem_setSectors.mp hz).2.1)

/-- A served sector of a partition is among those whose set one of the partition's hubs keeps. -/
theorem setSectors_of_served {p z : Nat} (hz : z ∈ s.partSectors p) (hpart : s.sectorPart z = p)
    (hserved : (s.server z).isSome = true) : ∃ h ∈ s.partHubs p, z ∈ s.setSectors p h := by
  obtain ⟨h, hserver⟩ := Option.isSome_iff_exists.mp hserved
  refine ⟨h, List.mem_eraseDups.mpr (List.mem_filterMap.mpr ⟨z, hz, hserver⟩), mem_setSectors.mpr ⟨?_, hserver, hpart⟩⟩
  exact (List.mem_filter.mp hz).1

end Sys2Proof.Machine
end

section
/-!
PROOF. A plausibility set is sent to the hubs of a partition, and they confirm it (R172, R173).
-/
namespace Sys2Proof.Machine

open Sys2Proof

variable {s : State}

@[simp] theorem modPart_senOf (p : Nat) (f : Partition → Partition) (s : State) (k : Nat) :
    (modPart p f s).senOf k = s.senOf k := rfl

@[simp] theorem modPart_hubOf (p : Nat) (f : Partition → Partition) (s : State) (k : Nat) :
    (modPart p f s).hubOf k = s.hubOf k := rfl

/-! ### A load begins -/

/-- A partition's load, its hubs told to keep the set as pending. -/
def setPended (p : Nat) (l : PlausLoad) (s : State) : State :=
  let s := modPart p (fun x => { x with load := some { l with waiting := s.partHubs p } }) s
  each (s.partSectors p) (fun z s => modHub z (fun y => { y with setPending := l.set }) s) s

theorem startLoad_eq (p : Nat) (l : PlausLoad) (s : State) :
    startLoad p l s = sendAll ((s.partHubs p).map fun h => .plausibilitySetConfirmed h p) (setPended p l s) := rfl

/-- An update of a partition's fields but its regions leaves its sectors. -/
theorem modPart_partSectors (hs : Inv s = true) {f : Partition → Partition} (hf : ∀ x, (f x).regions = x.regions) (p q : Nat) :
    (modPart p f s).partSectors q = s.partSectors q := partSectors_congr (modPart_zones hs hf p) q

/-- What a change of the hubs of a partition's sectors leaves, after a change of the partition that keeps its regions. -/
theorem hubOf_each_partSectors (hs : Inv s = true) {f : Partition → Partition} (hf : ∀ x, (f x).regions = x.regions)
    (g : Hub → Hub) (p k : Nat) :
    (each ((modPart p f s).partSectors p) (fun z y => modHub z g y) (modPart p f s)).hubOf k =
      if k ∈ s.partSectors p then g (s.hubOf k) else s.hubOf k := by
  rw [hubOf_each_modHub g k (partSectors_nodup _ _) (modPart_inv _ _ _ hs), modPart_partSectors hs hf]
  rfl

theorem setPended_hubOf (hs : Inv s = true) {p z : Nat} (hz : z ∈ s.partSectors p) (l : PlausLoad) :
    (setPended p l s).hubOf z = { s.hubOf z with setPending := l.set } :=
  (hubOf_each_partSectors hs (fun _ => by rfl) _ p z).trans (if_pos hz)

theorem each_modHub_partOf (g : Hub → Hub) (xs : List Nat) (s : State) (p : Nat) :
    (each xs (fun z y => modHub z g y) s).partOf p = s.partOf p :=
  partOf_of_get (each_get xs _ (fun _ _ => by rfl) s) p

theorem setPended_partOf (hs : Inv s = true) (p : Nat) (l : PlausLoad) :
    (setPended p l s).partOf p = { s.partOf p with load := some { l with waiting := s.partHubs p } } :=
  (each_modHub_partOf _ _ _ p).trans (partOf_modPart hs p _)

theorem setPended_sent (p : Nat) (l : PlausLoad) (s : State) : (setPended p l s).sent = s.sent :=
  each_sent (fun z y => modHub z (fun x => { x with setPending := l.set }) y) (fun _ _ => by rfl) _ _

@[simp] theorem sendAll_partOf (ms : List Instr) (s : State) (p : Nat) : (sendAll ms s).partOf p = s.partOf p := rfl

@[simp] theorem sendAll_hubOf (ms : List Instr) (s : State) (k : Nat) : (sendAll ms s).hubOf k = s.hubOf k := rfl

theorem setPended_zones (hs : Inv s = true) (p : Nat) (l : PlausLoad) : (setPended p l s).zones = s.zones :=
  have hplaces := each_eq (r := State.places) (fun z y hy => modHub_inv z (fun x => { x with setPending := l.set }) y hy)
    (fun z _ hy => modHub_places hy (fun _ => by rfl) z) _ (modPart_inv _ _ _ hs)
  (zones_of_places hplaces).trans (modPart_zones hs (fun _ => by rfl) p)

theorem exec_plausibilityLoad_starts (hs : Inv s = true) {seq p : Nat} {c : Cmd} (hrun : Runs s seq 0x0900 c)
    (harg : c.arg 0 1 = p) (hp : p < 16) (hset : setOk c.bulk = true) (hdefined : s.defined p = true)
    (hload : (s.partOf p).load = none) (hhubs : s.partHubs p ≠ []) :
    exec (.plausibilityLoad seq) s = .next (startLoad p { set := c.bulk, seq := seq } s) := by
  have hkept : (startLoad p { set := c.bulk, seq := seq } s).partHubs p = s.partHubs p :=
    partHubs_congr (setPended_zones hs p _) p
  rw [exec_plausibilityLoad]
  unfold execPlausibilityLoad
  rw [begun_of_runs hrun]
  dsimp only
  rw [harg, runCmd_ok (by simp [statusOf, hp, hset, hdefined, hload]), hkept, if_neg (by simpa using hhubs)]

/-! ### A hub confirms -/

/-- A hub's confirmation arrives: the sentinels that it serves in the partition hold the set as pending. -/
def setStored (hub p : Nat) (l : PlausLoad) (s : State) : State :=
  let s := receive (.plausibilitySetConfirmed hub p) s
  each (s.setSites p hub) (fun x y => modSen x (fun z => { z with progPending := l.set.take 3584 }) y) s

/-- A hub of a partition has confirmed, and is waited for no longer. -/
def loadConfirmed (hub p : Nat) (l : PlausLoad) (s : State) : State :=
  modPart p (fun x => { x with load := some { l with waiting := l.waiting.filter (· != hub) } }) (setStored hub p l s)

/-- The confirmation of the last hub: the switch is made at once, or marked for the step boundary (R172, R173). -/
def lastConfirmed (p : Nat) (s : State) : State :=
  if s.starts p then openStep p false (switchNow p s)
  else if !s.hasJob p || (s.partOf p).state = 4 || (s.partOf p).state = 7 then switchNow p s
  else modPart p (fun x => { x with setSwitch := true }) s

section
variable {hub p : Nat} {l : PlausLoad}

theorem exec_plausibilitySetConfirmed_of_load (hload : (s.partOf p).load = some l) (hwaits : l.waiting.contains hub = true) :
    exec (.plausibilitySetConfirmed hub p) s = .next
      (if !(l.waiting.filter (· != hub)).isEmpty then loadConfirmed hub p l s
      else lastConfirmed p (loadConfirmed hub p l s)) := by
  have hreceived : ((receive (.plausibilitySetConfirmed hub p) s).partOf p).load = some l :=
    (congrArg Partition.load (receive_partOf _ s p)).trans hload
  rw [exec_plausibilitySetConfirmed]
  unfold execPlausibilitySetConfirmed
  simp only [hreceived, hwaits, Bool.not_true, Bool.false_eq_true, if_false]
  rfl

theorem setStored_inv (hs : Inv s = true) (hub p : Nat) (l : PlausLoad) : Inv (setStored hub p l s) = true :=
  each_inv _ _ (fun x y hy => modSen_inv x _ y hy) _ (receive_inv _ s hs)

theorem setStored_get {φ : Fld} (hφ : φ ∉ [.sent, .hub, .sen]) (hub p : Nat) (l : PlausLoad) (s : State) :
    φ.get (setStored hub p l s) = φ.get s :=
  (each_get _ _ (fun x y => modSen_get (Fld.mono hφ rfl) x _ y) _).trans (receive_get (Fld.mono hφ rfl) _ s)

theorem setStored_hub (hub p : Nat) (l : PlausLoad) (s : State) :
    Fld.get .hub (setStored hub p l s) = Fld.get .hub (receive (.plausibilitySetConfirmed hub p) s) :=
  each_get _ _ (fun x y => modSen_get (by decide) x _ y) _

theorem setStored_places (hs : Inv s = true) (hub p : Nat) (l : PlausLoad) : (setStored hub p l s).places = s.places :=
  (each_eq (r := State.places) (fun x y hy => modSen_inv x _ y hy) (fun x y _ => modSen_places x _ y) _
    (receive_inv _ s hs)).trans (receive_places hs _)

theorem setStored_progActive (hs : Inv s = true) (hub p : Nat) (l : PlausLoad) :
    (setStored hub p l s).senView Sentinel.progActive = s.senView Sentinel.progActive :=
  (each_eq (r := fun y => y.senView Sentinel.progActive) (fun x y hy => modSen_inv x _ y hy)
    (fun x _ hy => senView_modSen hy (fun _ => by rfl) x) _ (receive_inv _ s hs)).trans (senView_of_get (receive_sen _ s) _)

theorem loadConfirmed_inv (hs : Inv s = true) (hub p : Nat) (l : PlausLoad) : Inv (loadConfirmed hub p l s) = true :=
  modPart_inv _ _ _ (setStored_inv hs hub p l)

theorem loadConfirmed_partOf (hs : Inv s = true) (hub p : Nat) (l : PlausLoad) :
    (loadConfirmed hub p l s).partOf p =
      { s.partOf p with load := some { l with waiting := l.waiting.filter (· != hub) } } := by
  unfold loadConfirmed
  rw [partOf_modPart (setStored_inv hs hub p l), partOf_of_get (setStored_get (by decide) hub p l s)]

theorem loadConfirmed_mailbox (hub p : Nat) (l : PlausLoad) (s : State) : (loadConfirmed hub p l s).mailbox = s.mailbox :=
  mailbox_of_get ((modPart_get (by decide) p _ _).trans (setStored_get (φ := .win) (by decide) hub p l s))

theorem loadConfirmed_setPending (hs : Inv s = true) (hub p : Nat) (l : PlausLoad) (z : Nat) :
    ((loadConfirmed hub p l s).hubOf z).setPending = (s.hubOf z).setPending := by
  unfold loadConfirmed
  rw [modPart_hubOf, hubOf_of_get (setStored_hub hub p l s)]
  exact congrFun (hubView_receive (v := Hub.setPending) hs (fun _ _ _ => rfl) _) z

theorem loadConfirmed_progActive (hs : Inv s = true) (hub p : Nat) (l : PlausLoad) (x : Nat) :
    ((loadConfirmed hub p l s).senOf x).progActive = (s.senOf x).progActive := by
  unfold loadConfirmed
  rw [modPart_senOf]
  exact congrFun (setStored_progActive hs hub p l) x

theorem loadConfirmed_zones (hs : Inv s = true) (hub p : Nat) (l : PlausLoad) : (loadConfirmed hub p l s).zones = s.zones :=
  (modPart_zones (setStored_inv hs hub p l) (fun _ => by rfl) p).trans (zones_of_places (setStored_places hs hub p l))

theorem starts_congr {t : State} {q : Nat} (hstarting : (t.partOf q).starting = (s.partOf q).starting)
    (hstate : (t.partOf q).state = (s.partOf q).state) : t.starts q = s.starts q := by
  unfold State.starts
  rw [hstarting, hstate]

theorem loadConfirmed_starts (hs : Inv s = true) : (loadConfirmed hub p l s).starts p = s.starts p :=
  starts_congr (by rw [loadConfirmed_partOf hs]) (by rw [loadConfirmed_partOf hs])

theorem loadConfirmed_hasJob (hs : Inv s = true) : (loadConfirmed hub p l s).hasJob p = s.hasJob p := by
  unfold State.hasJob
  rw [loadConfirmed_partOf hs]

/-- A hub that is not the last leaves the load to the others. -/
theorem exec_plausibilitySetConfirmed_remaining (hload : (s.partOf p).load = some l) (hwaits : l.waiting.contains hub = true)
    (hleft : l.waiting.filter (· != hub) ≠ []) :
    exec (.plausibilitySetConfirmed hub p) s = .next (loadConfirmed hub p l s) := by
  rw [exec_plausibilitySetConfirmed_of_load hload hwaits, if_pos (by simpa using hleft)]

section
variable (hload : (s.partOf p).load = some l) (hwaits : l.waiting.contains hub = true)
  (hlast : l.waiting.filter (· != hub) = [])
include hload hwaits hlast

theorem exec_plausibilitySetConfirmed_last :
    exec (.plausibilitySetConfirmed hub p) s = .next (lastConfirmed p (loadConfirmed hub p l s)) := by
  rw [exec_plausibilitySetConfirmed_of_load hload hwaits, if_neg (by simp [hlast])]

/-- With a job's steps open, the last confirmation marks the switch for the step boundary (R172). -/
theorem exec_plausibilitySetConfirmed_marks (hs : Inv s = true) (hjob : s.hasJob p = true) (hstarts : s.starts p = false)
    (hstate : (s.partOf p).state = 2) : exec (.plausibilitySetConfirmed hub p) s =
      .next (modPart p (fun x => { x with setSwitch := true }) (loadConfirmed hub p l s)) := by
  rw [exec_plausibilitySetConfirmed_last hload hwaits hlast, lastConfirmed, loadConfirmed_starts hs, hstarts,
    loadConfirmed_hasJob hs, hjob, loadConfirmed_partOf hs, hstate]
  rfl

/-- Without a job, the last confirmation switches at once (R172). -/
theorem exec_plausibilitySetConfirmed_switches (hs : Inv s = true) (hjob : s.hasJob p = false) (hstarts : s.starts p = false) :
    exec (.plausibilitySetConfirmed hub p) s = .next (switchNow p (loadConfirmed hub p l s)) := by
  rw [exec_plausibilitySetConfirmed_last hload hwaits hlast, lastConfirmed, loadConfirmed_starts hs, hstarts,
    loadConfirmed_hasJob hs, hjob]
  rfl

/-- The last confirmation of the default set opens the first step (R173). -/
theorem exec_plausibilitySetConfirmed_opens (hs : Inv s = true) (hstarts : s.starts p = true) :
    exec (.plausibilitySetConfirmed hub p) s = .next (openStep p false (switchNow p (loadConfirmed hub p l s))) := by
  rw [exec_plausibilitySetConfirmed_last hload hwaits hlast, lastConfirmed, loadConfirmed_starts hs, hstarts]
  rfl

end

end

end Sys2Proof.Machine
end

section
/-!
PROOF. A plausibility set that every hub has confirmed is switched, and the step that waited for it opens (R172, R173); a
load that is not confirmed in time is discarded.
-/
namespace Sys2Proof.Machine

open Sys2Proof

variable {s : State}

/-! ### The switch -/

theorem switchHub_places (hs : Inv s = true) (p h : Nat) : (switchHub p h s).places = s.places := by
  refine places_of_get (switchHub_get (by decide) p h s) (switchHub_get (by decide) p h s) (switchHub_get (by decide) p h s)
    (switchHub_get (by decide) p h s) (funext fun k => ?_)
  unfold State.hubView
  rw [switchHub_hubOf hs]
  split <;> rfl

theorem switchHubs_hubOf_of_not_kept (hs : Inv s = true) {p k : Nat} {hubs : List Nat} (hk : ∀ h ∈ hubs, k ∉ s.setSectors p h) :
    (each hubs (switchHub p) s).hubOf k = s.hubOf k := by
  induction hubs generalizing s with
  | nil => rfl
  | cons h hubs ih =>
    refine (ih (switchHub_inv p h s hs) fun j hj => ?_).trans ?_
    · rw [setSectors_congr (switchHub_places hs p h)]
      exact hk j (List.mem_cons_of_mem h hj)
    · rw [switchHub_hubOf hs, if_neg (hk h List.mem_cons_self)]

/-- A sector's pending set is switched once, by the hub that serves the sector. -/
theorem switchHubs_set (hs : Inv s = true) {p h k : Nat} {hubs : List Nat} (hnodup : hubs.Nodup) (hh : h ∈ hubs)
    (hk : k ∈ s.setSectors p h) : ((each hubs (switchHub p) s).hubOf k).set = (s.hubOf k).setPending := by
  induction hubs generalizing s with
  | nil => exact absurd hh List.not_mem_nil
  | cons x hubs ih =>
    obtain ⟨hx, hrest⟩ := List.nodup_cons.mp hnodup
    have hnext := switchHub_inv p x s hs
    have hkept := setSectors_congr (switchHub_places hs p x) p
    by_cases hfirst : h = x
    · subst hfirst
      refine (congrArg Hub.set (switchHubs_hubOf_of_not_kept hnext fun j hj hkj => ?_)).trans ?_
      · rw [hkept] at hkj
        exact hx (setSectors_unique hk hkj ▸ hj)
      · rw [switchHub_hubOf hs, if_pos hk]
    · refine (ih hnext hrest ((List.mem_cons.mp hh).resolve_left hfirst) (by rw [hkept]; exact hk)).trans ?_
      rw [switchHub_hubOf hs, if_neg fun hkx => hfirst (setSectors_unique hkx hk)]

theorem finishLoad_of_load {p : Nat} {l : PlausLoad} (hload : (s.partOf p).load = some l) (hafter : l.after = none) :
    finishLoad p s = loadAnswered p l s := by
  unfold finishLoad
  rw [hload]
  dsimp only
  rw [hafter]
  rfl

theorem loadAnswered_partOf (hs : Inv s = true) (p : Nat) (l : PlausLoad) :
    (loadAnswered p l s).partOf p = { s.partOf p with load := none } := by
  have hkept : Fld.get .part (loadAnswered p l s) = Fld.get .part (modPart p (fun x => { x with load := none }) s) := by
    unfold loadAnswered
    refine get_ite_of (fun _ => ?_) (fun _ => (complete_get (by decide) _ _ _ _).trans ?_)
    · exact record_get (by decide) _ _ _
    · exact record_get (by decide) _ _ _
  exact (partOf_of_get hkept p).trans (partOf_modPart hs p _)

theorem loadAnswered_mailbox {l : PlausLoad} (hseq : l.seq = 0) (p : Nat) (s : State) :
    (loadAnswered p l s).mailbox = s.mailbox := by
  unfold loadAnswered
  dsimp only
  rw [if_pos hseq]
  exact mailbox_record _ _ _

theorem switchHubs_get {φ : Fld} (hφ : φ ∉ [.sen, .hub]) (p : Nat) (hubs : List Nat) (s : State) :
    φ.get (each hubs (switchHub p) s) = φ.get s := each_get hubs _ (fun h y => switchHub_get hφ p h y) s

section
variable {p : Nat} {l : PlausLoad} (hload : (s.partOf p).load = some l) (hafter : l.after = none)
include hload hafter

theorem switchNow_eq : switchNow p s = loadAnswered p l (each (s.partHubs p) (switchHub p) s) :=
  finishLoad_of_load (by rw [partOf_of_get (switchHubs_get (by decide) p _ s)]; exact hload) hafter

theorem switchNow_partOf (hs : Inv s = true) : (switchNow p s).partOf p = { s.partOf p with load := none } := by
  rw [switchNow_eq hload hafter, loadAnswered_partOf (each_inv _ _ (switchHub_inv p) s hs),
    partOf_of_get (switchHubs_get (by decide) p _ s)]

theorem switchNow_mailbox (hseq : l.seq = 0) : (switchNow p s).mailbox = s.mailbox := by
  rw [switchNow_eq hload hafter]
  exact (loadAnswered_mailbox hseq p _).trans (mailbox_of_get (switchHubs_get (by decide) p _ s))

/-- The set of a served sector of the partition is the one that was pending. -/
theorem switchNow_set (hs : Inv s = true) {z : Nat} (hz : z ∈ s.partSectors p) (hpart : s.sectorPart z = p)
    (hserved : (s.server z).isSome = true) :
    ((switchNow p s).hubOf z).set = (s.hubOf z).setPending := by
  obtain ⟨h, hh, hkept⟩ := setSectors_of_served hz hpart hserved
  rw [switchNow_eq hload hafter, hubOf_of_get (loadAnswered_hub p l _)]
  exact switchHubs_set hs (partHubs_nodup s p) hh hkept

end

section
variable {hub p : Nat} {l : PlausLoad} (hs : Inv s = true) (hafter : l.after = none)
include hs hafter

/-- The switch that follows the last confirmation ends the load. -/
theorem switchConfirmed_partOf :
    (switchNow p (loadConfirmed hub p l s)).partOf p = { s.partOf p with load := none } := by
  have hpart := loadConfirmed_partOf hs hub p l
  rw [switchNow_partOf (congrArg Partition.load hpart) hafter (loadConfirmed_inv hs hub p l), hpart]

theorem switchConfirmed_mailbox (hseq : l.seq = 0) : (switchNow p (loadConfirmed hub p l s)).mailbox = s.mailbox :=
  (switchNow_mailbox (congrArg Partition.load (loadConfirmed_partOf hs hub p l)) hafter hseq).trans
    (loadConfirmed_mailbox hub p l s)

theorem switchConfirmed_set {z : Nat} (hz : z ∈ s.partSectors p) (hpart : s.sectorPart z = p)
    (hserved : (s.server z).isSome = true) :
    ((switchNow p (loadConfirmed hub p l s)).hubOf z).set = (s.hubOf z).setPending := by
  have hzones := loadConfirmed_zones hs hub p l
  refine (switchNow_set (congrArg Partition.load (loadConfirmed_partOf hs hub p l)) hafter (loadConfirmed_inv hs hub p l)
    ?_ ?_ ?_).trans (loadConfirmed_setPending hs hub p l z)
  · rwa [partSectors_congr hzones]
  · rwa [sectorPart_congr_zones hzones]
  · rwa [server_congr_zones hzones]

end

/-! ### The first step opens -/

/-- What a partition holds apart from what a step's opening and its suspicions change. -/
def Partition.opening (x : Partition) : Bool × Option (Nat × List Byte) × Option PlausLoad × Nat :=
  (x.opened, x.starting, x.load, x.step)

theorem Partition.opening_eq_iff {x : Partition} {b : Bool} {a : Option (Nat × List Byte)} {l : Option PlausLoad} {n : Nat} :
    x.opening = (b, a, l, n) ↔ x.opened = b ∧ x.starting = a ∧ x.load = l ∧ x.step = n := by
  simp [Partition.opening]

theorem noteReason_opening (hs : Inv s = true) (site bit : Nat) :
    (noteReason site bit s).partView Partition.opening = s.partView Partition.opening := by
  unfold noteReason
  dsimp only
  split
  · exact partView_modPart hs (fun _ => by rfl) _
  · rfl

/-- JOB_ATTACH, where it waited for the step to open, completes with its response (R173, R504). -/
def attachAnswered (p : Nat) (s : State) : State :=
  match (s.partOf p).starting with
  | some a => complete a.1 0 a.2 s
  | none => s

theorem openStep_mailbox (p : Nat) (restart : Bool) (s : State) :
    (openStep p restart s).mailbox = (attachAnswered p s).mailbox := by
  unfold openStep
  refine (mailbox_of_get (each_get (φ := .win) _ _ (fun z y => noteReason_get (by decide) z 2 y) _)).trans ?_
  rfl

theorem attachAnswered_inv (hs : Inv s = true) (p : Nat) : Inv (attachAnswered p s) = true := by
  unfold attachAnswered
  split
  · exact complete_inv _ _ _ _ hs
  · exact hs

theorem attachAnswered_get {φ : Fld} (hφ : φ ∉ logF) (p : Nat) (s : State) : φ.get (attachAnswered p s) = φ.get s := by
  unfold attachAnswered
  split
  · exact complete_get hφ _ _ _ _
  · rfl

theorem openStep_opening (hs : Inv s = true) (p : Nat) (restart : Bool) :
    ((openStep p restart s).partOf p).opening = (true, none, (s.partOf p).load, (s.partOf p).step) := by
  have hanswered := attachAnswered_inv hs p
  have hpart := partOf_of_get (attachAnswered_get (φ := .part) (by decide) p s) p
  unfold openStep
  refine (congrFun (each_eq (r := fun y => y.partView Partition.opening) (fun z y hy => noteReason_inv z 2 y hy)
    (fun z _ hy => noteReason_opening hy z 2) _ (modPart_inv p _ _ hanswered)) p).trans ?_
  refine (congrArg Partition.opening (partOf_modPart hanswered p _)).trans ?_
  rw [hpart]
  rfl

/-! ### A load is discarded -/

/-- The pending set of a partition is discarded at its hubs. -/
def setDropped (p : Nat) (s : State) : State :=
  let s := modPart p (fun x => { x with load := none, setSwitch := false }) s
  each (s.partSectors p) (fun z s => modHub z (fun y => { y with setPending := [] }) s) s

/-- The command of a load that is discarded, and of one that waited for it, complete with a status. -/
def loadFailed (l : PlausLoad) (status : Nat) (s : State) : State :=
  let s := if l.seq = 0 then s else complete l.seq status [] s
  match l.after with
  | some a => complete a.2 status [] s
  | none => s

theorem discardLoad_of_load {p : Nat} {l : PlausLoad} (hload : (s.partOf p).load = some l) (status : Nat) :
    discardLoad p status s = loadFailed l status (setDropped p s) := by
  unfold discardLoad
  rw [hload]
  rfl

theorem setDropped_inv (hs : Inv s = true) (p : Nat) : Inv (setDropped p s) = true :=
  each_inv _ _ (fun z y hy => modHub_inv z _ y hy) _ (modPart_inv _ _ _ hs)

theorem setDropped_partOf (hs : Inv s = true) (p : Nat) :
    (setDropped p s).partOf p = { s.partOf p with load := none, setSwitch := false } :=
  (each_modHub_partOf _ _ _ p).trans (partOf_modPart hs p _)

theorem setDropped_hubOf (hs : Inv s = true) {p z : Nat} (hz : z ∈ s.partSectors p) :
    (setDropped p s).hubOf z = { s.hubOf z with setPending := [] } :=
  (hubOf_each_partSectors hs (fun _ => by rfl) _ p z).trans (if_pos hz)

theorem setDropped_mailbox (p : Nat) (s : State) : (setDropped p s).mailbox = s.mailbox :=
  mailbox_of_get (each_get (φ := .win) _ (fun z y => modHub z (fun x => { x with setPending := [] }) y) (fun _ _ => by rfl) _)

theorem loadFailed_get {φ : Fld} (hφ : φ ∉ logF) (l : PlausLoad) (status : Nat) (s : State) :
    φ.get (loadFailed l status s) = φ.get s := by
  have hanswered : φ.get (if l.seq = 0 then s else complete l.seq status [] s) = φ.get s :=
    get_ite_of (fun _ => rfl) (fun _ => complete_get hφ _ _ _ _)
  unfold loadFailed
  dsimp only
  split
  · exact (complete_get hφ _ _ _ _).trans hanswered
  · exact hanswered

/-- The command of a load that is discarded is answered, and no later completion takes the answer back. -/
theorem loadFailed_answered (hs : Inv s = true) {l : PlausLoad} {op : Nat} {c : Cmd} (hseq : l.seq ≠ 0) (hrun : Runs s l.seq op c)
    (status : Nat) : Answered c.channel l.seq status [] (loadFailed l status s) := by
  have hanswered := complete_answered hs hrun status []
  unfold loadFailed
  rw [if_neg hseq]
  dsimp only
  split
  · exact answered_complete (complete_inv _ _ _ _ hs) hanswered _ _ _
  · exact hanswered

theorem exec_plausibilityLoadTimeout_discards (hs : Inv s = true) {p : Nat} {l : PlausLoad} (hload : (s.partOf p).load = some l)
    (hwaits : l.waiting ≠ []) (hstarts : s.starts p = false) :
    exec (.plausibilityLoadTimeout p) s = .next (loadFailed l 6 (setDropped p s)) := by
  have hpart : (loadFailed l 6 (setDropped p s)).partOf p = { s.partOf p with load := none, setSwitch := false } :=
    (partOf_of_get (loadFailed_get (by decide) l 6 _) p).trans (setDropped_partOf hs p)
  have hnone : (loadFailed l 6 (setDropped p s)).starts p = false :=
    (starts_congr (by rw [hpart]) (by rw [hpart])).trans hstarts
  rw [exec_plausibilityLoadTimeout]
  unfold execPlausibilityLoadTimeout
  rw [hload]
  dsimp only
  rw [if_neg (by simpa using hwaits), discardLoad_of_load hload, hnone]
  rfl

end Sys2Proof.Machine
end

section
/-!
PROOF. The statement of a plausibility set's commands.
-/
namespace Sys2Proof.Machine

open Sys2Proof

/-- Settles O39: the load, a hub's confirmation, the last one without a job, with one and at a job's start, and the timeout. -/
theorem plausibilityCommands : Obligations.PlausibilityCommands := by
  unfold Obligations.PlausibilityCommands
  refine ⟨?load, ?confirmed, ?attached, ?timeout⟩
  case load =>
    intro seq p c s hs hrun harg hp hset hdefined hload hhubs
    refine ⟨_, exec_plausibilityLoad_starts hs hrun harg hp hset hdefined hload hhubs, ?_, ?_, fun z hz => ?_⟩
    · rw [startLoad_eq, sendAll_partOf, setPended_partOf hs]
    · rw [startLoad_eq, sendAll_sent, setPended_sent]
    · rw [startLoad_eq, sendAll_hubOf, setPended_hubOf hs hz]
      exact ⟨rfl, rfl⟩
  case confirmed =>
    intro hub p l s hs hload hwaits
    have hpart := loadConfirmed_partOf hs hub p l
    have hactive := loadConfirmed_progActive hs hub p l
    refine ⟨fun hleft => ?_, fun hlast hjob hstarts hstate => ?_, fun hlast hjob hstarts hafter => ?_⟩
    · exact ⟨_, exec_plausibilitySetConfirmed_remaining hload hwaits hleft, by rw [hpart], by rw [hpart], hactive⟩
    · refine ⟨_, exec_plausibilitySetConfirmed_marks hload hwaits hlast hs hjob hstarts hstate, ?_, ?_, fun x => ?_⟩
      · rw [partOf_modPart (loadConfirmed_inv hs hub p l)]
      · rw [partOf_modPart (loadConfirmed_inv hs hub p l), hpart, hlast]
      · rw [modPart_senOf, hactive]
    · refine ⟨_, exec_plausibilitySetConfirmed_switches hload hwaits hlast hs hjob hstarts, ?_,
        fun z => switchConfirmed_set hs hafter⟩
      rw [switchConfirmed_partOf hs hafter]
  case attached =>
    intro hub p seq rsp l c s hs hload hwaits hlast hstate hstarting hseq hafter hrun
    have hstarts : s.starts p = true := by simp [State.starts, hstarting, hstate]
    have hinv := switchNow_inv p _ (loadConfirmed_inv hs hub p l)
    have hpart := switchConfirmed_partOf (hub := hub) (p := p) hs hafter
    have hopening := openStep_opening hinv p false
    have hhub := openStep_get (φ := .hub) (by decide) p false (switchNow p (loadConfirmed hub p l s))
    rw [hpart] at hopening
    obtain ⟨hopened, hstarted, hdone, hstep⟩ := Partition.opening_eq_iff.mp hopening
    refine ⟨_, exec_plausibilitySetConfirmed_opens hload hwaits hlast hs hstarts, hopened, hstarted, hdone, hstep, ?_,
      fun z hz hzone hserved => ?_⟩
    · refine answered_congr (channelOf_congr (openStep_mailbox p false _) c.channel) ?_
      rw [attachAnswered, hpart, hstarting]
      exact complete_answered hinv (runs_congr (switchConfirmed_mailbox hs hafter hseq) hrun) 0 rsp
    · rw [hubOf_of_get hhub]
      exact switchConfirmed_set hs hafter hz hzone hserved
  case timeout =>
    intro p l c s hs hload hwaits hstarts
    have hkept := loadFailed_get (φ := .hub) (by decide) l 6 (setDropped p s)
    have hpart := (partOf_of_get (loadFailed_get (by decide) l 6 (setDropped p s)) p).trans (setDropped_partOf hs p)
    refine ⟨_, exec_plausibilityLoadTimeout_discards hs hload hwaits hstarts, by rw [hpart], by rw [hpart], fun z hz => ?_,
      fun hseq hrun => ?_⟩
    · rw [hubOf_of_get hkept, setDropped_hubOf hs hz]
      exact ⟨rfl, rfl⟩
    · exact loadFailed_answered (setDropped_inv hs p) hseq (runs_congr (setDropped_mailbox p s) hrun) 6

end Sys2Proof.Machine
end

section
/-!
PROOF. The parts of a hang snapshot (R332 to R334): what the answers of sites leave of the snapshot that is open.
-/
namespace Sys2Proof.Machine

open Sys2Proof

variable {s : State}

/-- The answers of a hub's sites, merged into a snapshot. -/
def Snapshot.answered (x : Snapshot) (hub : Nat) (sites : List SnapSite) (edges : List Edge) : Snapshot :=
  { x with sites := sites.foldl (fun l e => insertSnap e l) x.sites
           edges := x.edges.filter (·.1 ≤ hub) ++ edges.map (hub, ·) ++ x.edges.filter (hub < ·.1)
           waiting := x.waiting.filter fun w => !sites.any fun e => e.site = w }

/-- Answers find no snapshot open. -/
theorem takeAnswers_closed {p : Nat} (h : ∀ x, (s.partOf p).snapshot = some x → x.done = true) (hub : Nat) (sites : List SnapSite)
    (edges : List Edge) : takeAnswers p hub sites edges s = s := by
  unfold takeAnswers
  split
  case h_1 => rfl
  case h_2 x hx => exact if_pos (h x hx)

/-- Answers enter the open snapshot, which still waits for others. -/
theorem takeAnswers_open {p : Nat} {x : Snapshot} (hx : (s.partOf p).snapshot = some x) (hopen : x.done = false)
    {sites : List SnapSite} (hub : Nat) (edges : List Edge)
    (hleft : (x.waiting.filter fun w => !sites.any fun e => e.site = w) ≠ []) :
    takeAnswers p hub sites edges s = modPart p (fun y => { y with snapshot := some (x.answered hub sites edges) }) s := by
  unfold takeAnswers
  rw [hx]
  dsimp only
  rw [if_neg (by simp [hopen]), if_neg (by simpa using hleft)]
  rfl

theorem exec_snapshotPart_arrives {hub p : Nat} {sites : List SnapSite} {edges : List Edge}
    (harr : s.arrives (.snapshotPart hub p sites edges) = true) :
    exec (.snapshotPart hub p sites edges) s =
      .next (takeAnswers p hub sites edges (receive (.snapshotPart hub p sites edges) s)) := arrive_next harr

/-- A site of which nothing is awaited is not timed out. -/
theorem exec_snapshotSiteTimeout_idle {site : Nat}
    (h : ∀ x, (s.partOf (s.sitePart site)).snapshot = some x → site ∉ x.waiting) :
    exec (.snapshotSiteTimeout site) s = .next s := by
  rw [exec_snapshotSiteTimeout]
  unfold execSnapshotSiteTimeout
  dsimp only
  split
  case h_1 x hx => rw [if_neg (by simpa using h x hx)]
  case h_2 => rfl

theorem exec_snapshotSiteTimeout_absent {site : Nat} {x : Snapshot} (hx : (s.partOf (s.sitePart site)).snapshot = some x)
    (hwaits : site ∈ x.waiting) : exec (.snapshotSiteTimeout site) s =
      .next (takeAnswers (s.sitePart site) (s.siteHub site) [absentSite s false { site := site }] [] s) := by
  rw [exec_snapshotSiteTimeout]
  unfold execSnapshotSiteTimeout
  dsimp only
  rw [hx]
  dsimp only
  rw [if_pos (by simpa using hwaits)]

/-- One site has answered: the others are waited for. -/
theorem filter_unanswered (e : SnapSite) (ws : List Nat) :
    (ws.filter fun w => !([e].any fun e => e.site = w)) = ws.filter (· != e.site) := by
  refine List.filter_congr fun w _ => ?_
  simp [bne, eq_comm, Bool.beq_eq_decide_eq]

end Sys2Proof.Machine
end

section
/-!
PROOF. The digest of a step (R475 to R480): a hub's entries join the one in progress, whose end writes its record and
begins the next.
-/
namespace Sys2Proof.Machine

open Sys2Proof

variable {s : State}

theorem exec_digestRun_arrives {hub p lost : Nat} {inputs outputs : List Tag}
    (harr : s.arrives (.digestRun hub p inputs outputs lost) = true) :
    exec (.digestRun hub p inputs outputs lost) s =
      .next (modPart p (fun x => { x with digestBusy := x.digestBusy.map (mergeRun hub inputs outputs lost) })
        (receive (.digestRun hub p inputs outputs lost) s)) := arrive_next harr

/-- The digest in progress has ended: its record is written, and the first that waits is taken off. -/
def digestEnded (p : Nat) (d : DigestSet) (s : State) : State :=
  putDigest p (digestRecord d) (modPart p (fun y => { y with digestBusy := none, digestNext := y.digestNext.drop 1 }) s)

theorem exec_digestComplete_idle {p : Nat} (h : (s.partOf p).digestBusy = none) : exec (.digestComplete p) s = .next s := by
  rw [exec_digestComplete]
  unfold execDigestComplete
  dsimp only
  rw [h]

theorem exec_digestComplete_waits {p : Nat} {d : DigestSet} (h : (s.partOf p).digestBusy = some d) (hwaits : d.waiting ≠ []) :
    exec (.digestComplete p) s = .next s := by
  rw [exec_digestComplete]
  unfold execDigestComplete
  dsimp only
  rw [h]
  dsimp only
  rw [if_pos (by simpa using hwaits)]

section
variable {p : Nat} {d : DigestSet} (h : (s.partOf p).digestBusy = some d) (hdone : d.waiting = [])
include h hdone

theorem exec_digestComplete_last (hnext : (s.partOf p).digestNext = []) :
    exec (.digestComplete p) s = .next (digestEnded p d s) := by
  rw [exec_digestComplete]
  unfold execDigestComplete
  dsimp only
  rw [h, hnext]
  dsimp only
  rw [hdone]
  rfl

theorem exec_digestComplete_next {n : Nat × List Byte} {rest : List (Nat × List Byte)}
    (hnext : (s.partOf p).digestNext = n :: rest) :
    exec (.digestComplete p) s = .next (streamDigest p n.1 n.2 (digestEnded p d s)) := by
  rw [exec_digestComplete]
  unfold execDigestComplete
  dsimp only
  rw [h, hnext]
  dsimp only
  rw [hdone]
  rfl

end

theorem digestEnded_inv (hs : Inv s = true) (p : Nat) (d : DigestSet) : Inv (digestEnded p d s) = true :=
  putDigest_inv _ _ _ (modPart_inv _ _ _ hs)

theorem putDigest_partOf (hs : Inv s = true) (p : Nat) (r : DigestRec) :
    (putDigest p r s).partOf p = { s.partOf p with digests := ringLast 256 ((s.partOf p).digests ++ [r]) } :=
  (partOf_of_get (journalize_get (by decide) _ _ _ _ _ _ _) p).trans (partOf_modPart hs p _)

theorem digestEnded_partOf (hs : Inv s = true) (p : Nat) (d : DigestSet) : (digestEnded p d s).partOf p =
    { s.partOf p with
      digestBusy := none, digestNext := (s.partOf p).digestNext.drop 1
      digests := ringLast 256 ((s.partOf p).digests ++ [digestRecord d]) } := by
  unfold digestEnded
  rw [putDigest_partOf (modPart_inv _ _ _ hs), partOf_modPart hs]

theorem putDigest_zones (hs : Inv s = true) (p : Nat) (r : DigestRec) : (putDigest p r s).zones = s.zones :=
  (zones_of_get (journalize_get (by decide) _ _ _ _ _ _ _) (journalize_get (by decide) _ _ _ _ _ _ _)
    (journalize_get (by decide) _ _ _ _ _ _ _)).trans (modPart_zones hs (fun _ => by rfl) p)

theorem digestEnded_zones (hs : Inv s = true) (p : Nat) (d : DigestSet) : (digestEnded p d s).zones = s.zones :=
  (putDigest_zones (modPart_inv _ _ _ hs) p _).trans (modPart_zones hs (fun _ => by rfl) p)

/-- The hubs that stream their entries leave the partition as it is: a digest is in progress, and waits for all of them. -/
theorem streamDigest_partOf (hs : Inv s = true) (p step : Nat) (program : List Byte) : (streamDigest p step program s).partOf p =
    { s.partOf p with digestBusy := some { step := step, program := program, waiting := s.partHubs p } } := by
  unfold streamDigest
  exact (partOf_of_get (each_get (φ := .part) _ _ (fun _ _ => by rfl) _) p).trans (partOf_modPart hs p _)

end Sys2Proof.Machine
end

section
/-!
PROOF. The control core's messages (R183 to R185, R527, R535): what each leaves of the port and of the partition's losses.
-/
namespace Sys2Proof.Machine

open Sys2Proof

variable {s : State}

theorem exec_lossReport_malformed {length : Nat} (h : length ≠ 4) (step : Nat) (loss : Word) (p tag : Nat) :
    exec (.lossReport step loss p length tag) s = .next (coreNak 1 tag s) := by
  rw [exec_lossReport]
  unfold execLossReport
  rw [if_pos (by simpa using h)]

/-- A report is answered with its reason (R183). -/
def lossAnswered (reason tag : Nat) (s : State) : State := coreSend 2 tag (le 1 reason ++ le 3 0) s

theorem exec_lossReport_rejected {step p : Nat} (h : lossReason s step p ≠ 0) (loss : Word) (tag : Nat) :
    exec (.lossReport step loss p 4 tag) s = .next (record 0x103A (le 8 step ++ le 1 p ++ le 1 (lossReason s step p) ++ le 2 0)
      (setLossRejected (s.lossRejected + 1) (lossAnswered (lossReason s step p) tag s))) := by
  rw [exec_lossReport]
  unfold execLossReport
  dsimp only
  rw [if_neg h]
  rfl

theorem exec_lossReport_accepted {step p : Nat} (h : lossReason s step p = 0) (loss : Word) (tag : Nat) :
    exec (.lossReport step loss p 4 tag) s = .next (takeLoss p step loss.toNat (lossAnswered 0 tag s)) := by
  rw [exec_lossReport]
  unfold execLossReport
  dsimp only
  rw [h]
  rfl

/-- The report of a step has been accepted. -/
def lossStepped (p step : Nat) (s : State) : State :=
  modPart p (fun y => { y with loss := { y.loss with lastStep := some step } }) s

/-- A loss enters the window, and ends a run of spikes (R184, R185). -/
def lossEntered (window p loss : Nat) (s : State) : State :=
  modPart p (fun y => { y with loss := { y.loss with losses := ringLast window (y.loss.losses ++ [loss]), spikes := [] } }) s

theorem takeLoss_of_no_spike {p loss : Nat} (h : isSpike s.image.policy (s.partOf p).loss.losses loss = false) (step : Nat) :
    takeLoss p step loss s = lossEntered s.image.policy.lossWindow p loss (lossStepped p step s) := by
  unfold takeLoss
  dsimp only
  rw [h]
  rfl

theorem lossEntered_partOf (hs : Inv s = true) (window p step loss : Nat) :
    ((lossEntered window p loss (lossStepped p step s)).partOf p).loss =
      { (s.partOf p).loss with
        lastStep := some step, losses := ringLast window ((s.partOf p).loss.losses ++ [loss]), spikes := [] } := by
  unfold lossEntered lossStepped
  rw [partOf_modPart (modPart_inv _ _ _ hs), partOf_modPart hs]

end Sys2Proof.Machine
end

section
/-!
PROOF. The statement of snapshots, digests and loss reports.
-/
namespace Sys2Proof.Machine

open Sys2Proof

/-- Settles O56: each message by what it leaves of its partition's snapshot, digest or losses, and of the control core's port. -/
theorem snapshotsAndDigests : Obligations.SnapshotsAndDigests := by
  unfold Obligations.SnapshotsAndDigests
  refine ⟨?part, ?absent, ?run, ?complete, ?loss, ?unknown⟩
  case part =>
    intro hub p sites edges s hs harr
    have hpart := receive_partOf (.snapshotPart hub p sites edges) s p
    refine ⟨fun hclosed => ⟨_, exec_snapshotPart_arrives harr, ?_⟩,
      fun x hx hopen hleft => ⟨_, x.answered hub sites edges, exec_snapshotPart_arrives harr, ?_⟩⟩
    · rw [takeAnswers_closed (by rwa [hpart])]
      exact receive_get (φ := .part) (by decide) _ s
    · rw [takeAnswers_open (by rwa [hpart]) hopen hub edges hleft, partOf_modPart (receive_inv _ s hs)]
      exact ⟨rfl, rfl, rfl, hopen⟩
  case absent =>
    intro site s hs
    refine ⟨exec_snapshotSiteTimeout_idle, fun x hx hwaits hopen hleft => ?_⟩
    have hothers := filter_unanswered (absentSite s false { site := site }) x.waiting
    refine ⟨_, x.answered (s.siteHub site) [absentSite s false { site := site }] [], absentSite s false { site := site },
      exec_snapshotSiteTimeout_absent hx hwaits, ?_⟩
    rw [takeAnswers_open hx hopen (s.siteHub site) [] (by rw [hothers]; exact hleft), partOf_modPart hs]
    exact ⟨rfl, rfl, rfl, hothers⟩
  case run =>
    intro hub p lost inputs outputs s hs harr
    have hreceived := receive_inv (.digestRun hub p inputs outputs lost) s hs
    refine ⟨_, exec_digestRun_arrives harr, ?_, fun q hq => ?_⟩
    · rw [partOf_modPart hreceived, receive_partOf]
    · rw [partOf_modPart_ne hreceived hq, receive_partOf]
  case complete =>
    intro p s hs
    refine ⟨exec_digestComplete_idle, fun d => exec_digestComplete_waits, fun d hbusy hdone => ?_⟩
    have hended := digestEnded_partOf hs p d
    cases hnext : (s.partOf p).digestNext
    case nil =>
      refine ⟨_, exec_digestComplete_last hbusy hdone hnext, ?_, ?_, fun _ => ?_, fun n rest h => by cases h⟩
      all_goals rw [hended]
      rw [hnext]
    case cons n rest =>
      have hpart := streamDigest_partOf (digestEnded_inv hs p d) p n.1 n.2
      rw [hended, partHubs_congr (digestEnded_zones hs p d)] at hpart
      refine ⟨_, exec_digestComplete_next hbusy hdone hnext, ?_, ?_, fun h => absurd h (List.cons_ne_nil n rest),
        fun m others h => ?_⟩
      · rw [hpart]
      · rw [hpart, hnext]
      · obtain ⟨rfl, -⟩ := List.cons.inj h
        rw [hpart]
  case loss =>
    intro step p length tag loss s hs
    refine ⟨fun hlength => ?_, fun hlength hreason => ?_, fun hlength hreason hspike => ?_⟩
    · exact ⟨_, exec_lossReport_malformed hlength step loss p tag, rfl, rfl, rfl⟩
    · subst hlength
      exact ⟨_, exec_lossReport_rejected hreason loss tag, record_get (φ := .lossRejected) (by decide) _ _ _,
        record_get (φ := .coreTx) (by decide) _ _ _, record_get (φ := .part) (by decide) _ _ _⟩
    · subst hlength
      refine ⟨_, exec_lossReport_accepted hreason loss tag, ?_⟩
      rw [takeLoss_of_no_spike (s := lossAnswered 0 tag s) hspike, lossEntered_partOf (s := lossAnswered 0 tag s) hs]
      exact ⟨rfl, rfl, rfl, rfl⟩
  case unknown => exact fun type tag s => ⟨_, exec_unknownCoreMessage type tag s, rfl, rfl, rfl, rfl⟩

end Sys2Proof.Machine
end

section
/-!
PROOF. What leaves the repeats of every engine as they are (R191, R194): charges, swap-outs, screens and runs.
-/
namespace Sys2Proof.Machine

open Sys2Proof

variable {s u t : State}

/-- The repeats of a hub's engine: those that wait, and the one in progress. -/
def Hub.repeatQueue (y : Hub) : List RepeatReq × Option RepeatJob := (y.repeats, y.job)

/-- The hubs of `u` are in canonical form, with the repeats that they have in `s`. -/
structure QueuesKept (s u : State) : Prop where
  wf : Sparse.wf {} u.hub = true
  queue : ∀ k, (u.hubOf k).repeatQueue = (s.hubOf k).repeatQueue

theorem QueuesKept.refl (hwf : Sparse.wf {} s.hub = true) : QueuesKept s s := ⟨hwf, fun _ => rfl⟩

theorem QueuesKept.job (h : QueuesKept s u) (k : Nat) : (u.hubOf k).job = (s.hubOf k).job := congrArg Prod.snd (h.queue k)

theorem QueuesKept.repeats (h : QueuesKept s u) (k : Nat) : (u.hubOf k).repeats = (s.hubOf k).repeats :=
  congrArg Prod.fst (h.queue k)

/-- An operation that leaves the hubs alone. -/
theorem QueuesKept.of_get (h : QueuesKept s u) (hg : Fld.get .hub t = Fld.get .hub u) : QueuesKept s t where
  wf := by
    have hhub : t.hub = u.hub := hg
    rw [hhub]
    exact h.wf
  queue k := by rw [hubOf_of_get hg, h.queue]

/-- A change of one hub that does not reach its repeats. -/
theorem QueuesKept.modHub (h : QueuesKept s u) (k : Nat) {f : Hub → Hub} (hf : ∀ y, (f y).repeatQueue = y.repeatQueue) :
    QueuesKept s (modHub k f u) where
  wf := Sparse.wf_upd h.wf k f
  queue j := by
    have hupd : (Machine.modHub k f u).hubOf j = if j = k then f (u.hubOf k) else u.hubOf j := by
      split
      case isTrue hj => exact hj ▸ Sparse.get_upd_self h.wf k f
      case isFalse hj => exact Sparse.get_upd_ne h.wf hj f
    rw [hupd, ← h.queue]
    split
    case isTrue hj => rw [hf, hj]
    case isFalse => rfl

theorem queuesKept_ite {c : Prop} [Decidable c] {a b : State} (ha : c → QueuesKept s a) (hb : ¬c → QueuesKept s b) :
    QueuesKept s (if c then a else b) := by
  split
  · exact ha ‹_›
  · exact hb ‹_›

/-- An operation that may be passed over. -/
theorem QueuesKept.ite_left {c : Prop} [Decidable c] {f : State → State} (h : QueuesKept s u)
    (hf : ∀ y, QueuesKept s y → QueuesKept s (f y)) : QueuesKept s (if c then f u else u) :=
  queuesKept_ite (fun _ => hf u h) fun _ => h

theorem QueuesKept.each {α : Type} {g : α → State → State} (hg : ∀ a y, QueuesKept s y → QueuesKept s (g a y)) (xs : List α) :
    ∀ {u}, QueuesKept s u → QueuesKept s (each xs g u) := by
  induction xs with
  | nil => exact fun h => h
  | cons a xs ih => exact fun h => ih (hg a _ h)

/-! ### Swap-outs and charges (R250 to R259) -/

theorem keepKey_queuesKept (h : QueuesKept s u) (site tile : Nat) (seed : Dword) : QueuesKept s (keepKey site tile seed u) :=
  QueuesKept.modHub (h.of_get (by rfl)) _ fun _ => by rfl

theorem prepareSwap_queuesKept (h : QueuesKept s u) (p tile old : Nat) : QueuesKept s (prepareSwap p tile old u) := by
  unfold prepareSwap
  split
  · exact h
  · refine QueuesKept.of_get (keepKey_queuesKept (h.of_get ?spare) _ _ _) (by rfl)
    case spare =>
      exact (putIdle_get (by decide) _ _ _ _ _).trans
        ((changeSite_get (by decide) _ _ _ _ _).trans (journalize_get (by decide) _ _ _ _ _ _ _))

theorem requestSwap_queuesKept (h : QueuesKept s u) (site cause : Nat) (seqs : List Nat) :
    QueuesKept s (requestSwap site cause seqs u) := by
  unfold requestSwap
  refine queuesKept_ite (fun _ => h) fun _ => queuesKept_ite (fun _ => ?job) fun _ => ?moves
  case job => exact queuesKept_ite (fun _ => h.of_get (by rfl)) fun _ => prepareSwap_queuesKept (h.of_get (by rfl)) _ _ _
  case moves =>
    split
    · exact h.of_get (moveOut_get (by decide) _ _ _ _ _)
    · exact queuesKept_ite (fun _ => h.of_get (degrade_get (by decide) ..)) fun _ => h

theorem spareFreed_queuesKept (h : QueuesKept s u) (site : Nat) : QueuesKept s (spareFreed site u) := by
  unfold spareFreed retrySuspects
  refine queuesKept_ite (fun _ => h.of_get (by rfl)) fun _ => ?_
  exact .each (fun x _ hy => requestSwap_queuesKept hy x.1 x.2 []) _ (h.of_get (by rfl))

theorem followHealth_queuesKept (h : QueuesKept s u) (site : Nat) (r : SiteRec) (health : Health) :
    QueuesKept s (followHealth site r health u) := by
  unfold followHealth
  refine queuesKept_ite (fun _ => requestSwap_queuesKept h _ _ _) fun _ => queuesKept_ite (fun _ => ?_) fun _ => h
  exact .each (fun _ _ hy => prepareSwap_queuesKept (hy.of_get (by rfl)) _ _ _) _ h

theorem noteRose_queuesKept (h : QueuesKept s u) (site kind : Nat) (was : Health) : QueuesKept s (noteRose site kind was u) :=
  queuesKept_ite (fun _ => h.modHub _ fun _ => by rfl) fun _ => h

theorem charge_queuesKept (h : QueuesKept s u) (site kind steps : Nat) (reproduced : Bool) :
    QueuesKept s (charge site kind steps reproduced u) := by
  have hrose := noteRose_queuesKept h site kind (u.siteRec site).health
  unfold charge
  refine queuesKept_ite (fun _ => ?_) fun _ => hrose.of_get (by rfl)
  exact followHealth_queuesKept (hrose.of_get (changeSite_get (φ := .hub) (by decide) ..)) _ _ _

/-! ### The end of a screen (R239 to R241, R252) -/

theorem passScreen_queuesKept (h : QueuesKept s u) (site code : Nat) (full deep : Bool) (epoch : Dword) :
    QueuesKept s (passScreen site code full deep epoch u) := by
  have hdeclined : ∀ (x : State × Nat) (prev : Nat), QueuesKept s x.1 →
      QueuesKept s ([0, 1, 2].foldl (fun x a => declineAxis site code prev epoch a x) x).1 := fun x prev hx =>
    hx.of_get (foldl_fst_get _ _ (fun y a => declineAxis_get (by decide) site code prev epoch a y) x)
  unfold passScreen
  dsimp only
  refine queuesKept_ite (fun _ => ?_) fun _ => charge_queuesKept ?_ _ _ _ _
  all_goals exact hdeclined _ _ (h.of_get (changeSite_get (φ := .hub) (by decide) ..))

theorem passDeep_queuesKept (h : QueuesKept s u) (site code : Nat) (epoch : Dword) : QueuesKept s (passDeep site code epoch u) := by
  have hpassed : ∀ v, QueuesKept s (passScreen site code true true epoch (setDeepPassed v u)) := fun v =>
    passScreen_queuesKept (h.of_get (by rfl)) _ _ _ _ _
  have hchanged := fun v f => (hpassed v).of_get (changeSite_get (by decide) site 11 0 f _)
  unfold passDeep
  exact queuesKept_ite (fun _ => spareFreed_queuesKept (hchanged _ _) site) fun _ => hchanged _ _

theorem failDeep_queuesKept (h : QueuesKept s u) (site : Nat) : QueuesKept s (failDeep site u) := by
  unfold failDeep
  refine queuesKept_ite (fun _ => h.of_get (changeSite_get (φ := .hub) (by decide) ..)) fun _ => ?_
  exact charge_queuesKept (h.of_get (by rfl)) _ _ _ _

theorem finishScreen_queuesKept (h : QueuesKept s u) (site outcome : Nat) : QueuesKept s (finishScreen site outcome u) := by
  unfold finishScreen
  split
  · exact h
  next c _ =>
    have hresult : ∀ v, QueuesKept s (screenResult site outcome c (setScreens v u)) := fun v =>
      h.of_get (screenResult_get (by decide) site outcome c _)
    refine queuesKept_ite (fun _ => ?once) fun _ => ?deep
    case once =>
      refine queuesKept_ite (fun _ => hresult _) fun _ => ?_
      refine queuesKept_ite (fun _ => passScreen_queuesKept (hresult _) _ _ _ _ _) fun _ => ?_
      exact queuesKept_ite (fun _ => charge_queuesKept (hresult _) _ _ _ _) fun _ => hresult _
    case deep =>
      refine queuesKept_ite (fun _ => failDeep_queuesKept (hresult _) _) fun _ => queuesKept_ite (fun _ => hresult _) fun _ => ?_
      exact queuesKept_ite (fun _ => passDeep_queuesKept (hresult _) _ _ _) fun _ => (hresult _).of_get (by rfl)

/-! ### Runs and passes (R223, R234, R235) -/

theorem sendRecipe_queuesKept (h : QueuesKept s u) (k : Nat) : QueuesKept s (sendRecipe k u) := by
  unfold sendRecipe
  split
  · exact h
  · dsimp only
    refine QueuesKept.of_get ?drawn ((sendAll_get (by decide) _ _).trans (sendContent_get (by decide) _ _ _))
    case drawn => exact h.modHub k fun _ => by rfl

theorem beginRun_queuesKept (h : QueuesKept s u) (k : Nat) : QueuesKept s (beginRun k u) := by
  unfold beginRun
  split
  · exact h
  · dsimp only
    refine sendRecipe_queuesKept ?_ k
    refine QueuesKept.each (fun site y hy => ?started) _ ?counted
    case counted =>
      refine QueuesKept.modHub ?_ k fun y => by dsimp only [Hub.repeatQueue]
      exact queuesKept_ite (fun _ => h.modHub k fun _ => by rfl) fun _ => h
    case started =>
      split
      · exact hy
      · exact hy.of_get (setScreens_get (by decide) _ _)

theorem setUpRun_queuesKept (h : QueuesKept s u) (k point phase : Nat) (epoch : Dword) (testing : List Nat) (x : Pass) :
    QueuesKept s (setUpRun k point phase epoch testing x u) := by
  unfold setUpRun
  refine queuesKept_ite (fun _ => h.modHub k fun _ => by rfl) fun _ => queuesKept_ite (fun _ => ?heats) fun _ => ?starts
  case heats =>
    refine queuesKept_ite (fun _ => h.modHub k fun _ => by rfl) fun _ => ?_
    exact .each (fun _ _ hy => hy.of_get (by rfl)) _ (h.modHub k fun _ => by rfl)
  case starts => exact beginRun_queuesKept (h.modHub k fun _ => by rfl) k

theorem startReplay_queuesKept (h : QueuesKept s u) (k : Nat) (r : ReplayRec) (x : Pass) : QueuesKept s (startReplay k r x u) := by
  unfold startReplay
  dsimp only
  refine QueuesKept.of_get ?pass ((send_get (by decide) _ _).trans (sendContent_get (by decide) _ _ _))
  case pass => exact QueuesKept.modHub (QueuesKept.modHub (h.of_get (by rfl)) k fun _ => by rfl) k fun _ => by rfl

theorem skipPoints_queuesKept (h : QueuesKept s u) (site : Nat) : QueuesKept s (skipPoints site u) := by
  unfold skipPoints
  split
  · exact h
  · refine queuesKept_ite (fun _ => finishScreen_queuesKept (h.of_get (by rfl)) _ _) fun _ => ?_
    refine queuesKept_ite (fun _ => finishScreen_queuesKept (h.of_get (by rfl)) _ _) fun _ => ?_
    exact queuesKept_ite (fun _ => h) fun _ => h.of_get (by rfl)

theorem restUnits_queuesKept (h : QueuesKept s u) (k : Nat) : QueuesKept s (restUnits k u) :=
  queuesKept_ite (fun _ => h) fun _ => h.modHub k fun _ => by rfl

theorem nextRun_queuesKept (h : QueuesKept s u) (k : Nat) : QueuesKept s (nextRun k u) := by
  unfold nextRun
  split
  · exact h
  next x _ =>
    refine queuesKept_ite (fun _ => h) fun _ => ?_
    split
    · exact startReplay_queuesKept h _ _ _
    · have hskipped : QueuesKept s (if bitOf 2 (u.hubOf k).veCtrl then each x.sites skipPoints u else u) :=
        queuesKept_ite (fun _ => .each (fun _ _ hy => skipPoints_queuesKept hy _) _ h) fun _ => h
      dsimp only
      split
      · exact restUnits_queuesKept ((hskipped.modHub k fun _ => by rfl).modHub k fun _ => by rfl) k
      · exact setUpRun_queuesKept hskipped _ _ _ _ _ _

theorem joinPass_queuesKept (h : QueuesKept s u) (k : Nat) (sites : List Nat) : QueuesKept s (joinPass k sites u) :=
  nextRun_queuesKept (h.modHub k fun _ => by rfl) k

theorem startDeep_queuesKept (h : QueuesKept s u) (site : Nat) : QueuesKept s (startDeep site u) := by
  unfold startDeep forceDeep
  exact queuesKept_ite (fun _ => h) fun _ => queuesKept_ite (fun _ => h) fun _ => joinPass_queuesKept (h.of_get (by rfl)) _ _

end Sys2Proof.Machine
end

section
/-!
PROOF. A repeat concludes (R198 to R201): what it is judged by leaves every engine's repeats alone, and then its place is free.
-/
namespace Sys2Proof.Machine

open Sys2Proof

variable {s u : State}

theorem countOutcome_queuesKept (h : QueuesKept s u) (k outcome : Nat) : QueuesKept s (countOutcome k outcome u) :=
  QueuesKept.modHub (h.modHub k fun _ => by rfl) k fun _ => by rfl

theorem noteLineage_queuesKept (h : QueuesKept s u) (site lineage : Nat) : QueuesKept s (noteLineage site lineage u) := by
  unfold noteLineage
  refine queuesKept_ite (fun _ => h) fun _ => QueuesKept.of_get ?noted (send_get (by decide) _ _)
  case noted => exact h.modHub _ fun _ => by rfl

theorem failItem_queuesKept (h : QueuesKept s u) (site lineage : Nat) : QueuesKept s (failItem site lineage u) :=
  (noteLineage_queuesKept h site lineage).modHub _ fun _ => by rfl

theorem outcomeLineage_queuesKept (h : QueuesKept s u) (k o : Nat) (r : RepeatReq) (v : VerdictItem) :
    QueuesKept s (outcomeLineage k o r v u) := by
  unfold outcomeLineage
  refine queuesKept_ite (fun _ => h) fun _ => queuesKept_ite (fun _ => failItem_queuesKept h _ _) fun _ => ?_
  exact queuesKept_ite (fun _ => h) fun _ => h.of_get (lateDetection_get (by decide) ..)

theorem putReplay_queuesKept (h : QueuesKept s u) (k : Nat) (r : ReplayRec) : QueuesKept s (putReplay k r u) := by
  unfold putReplay
  refine QueuesKept.ite_left ?_ fun _ hy => joinPass_queuesKept hy _ _
  split
  · exact QueuesKept.ite_left (h.modHub k fun _ => by rfl) fun _ hy => hy.of_get (replayResult_get (by decide) _ _ _)
  · exact h.modHub k fun _ => by rfl

/-- The place of an engine's repeat is free, and its capture released if no other repeat wants it (R148, R201). -/
def repeatFreed (k : Nat) (r : RepeatReq) (s : State) : State :=
  releaseCapture k r.site r.seq r.step (modHub k (fun y => { y with job := none }) s)

theorem repeatFreed_hub (k : Nat) (r : RepeatReq) (s : State) :
    (repeatFreed k r s).hub = Sparse.upd {} s.hub k fun y => { y with job := none } := releaseCapture_get (φ := .hub) (by decide) ..

theorem hubOf_repeatFreed (hwf : Sparse.wf {} s.hub = true) (k : Nat) (r : RepeatReq) :
    (repeatFreed k r s).hubOf k = { s.hubOf k with job := none } := by
  unfold State.hubOf
  rw [repeatFreed_hub, Sparse.get_upd_self hwf]

/-- A repeat is judged, counted and charged, with every engine's repeats kept; then its place is free for the next, and for a deep
screen that waited for it (R201, R219). -/
theorem concludeRepeat_eq (h : QueuesKept s u) (k : Nat) (j : RepeatJob) :
    ∃ w, QueuesKept s w ∧ concludeRepeat k j u = startDeep j.req.site (serveRepeat k (repeatFreed k j.req w)) := by
  refine ⟨_, ?_, rfl⟩
  refine QueuesKept.ite_left ?_ fun _ hy => putReplay_queuesKept hy _ _
  refine QueuesKept.each (fun kind _ hy => charge_queuesKept hy _ kind _ _) _ (outcomeLineage_queuesKept ?_ _ _ _ _)
  have hcounted := countOutcome_queuesKept h k
  exact queuesKept_ite (fun _ => hcounted _) fun _ => (hcounted _).of_get (recordFrom_get (by decide) ..)

theorem serveRepeat_nothing {k : Nat} (hq : (s.hubOf k).repeats = []) : serveRepeat k s = s := by
  unfold serveRepeat nextRepeat
  simp [hq]

/-- With no repeat waiting, an engine is idle when its repeat has concluded. -/
theorem concludeRepeat_last (hs : Inv s = true) {k : Nat} (hq : (s.hubOf k).repeats = []) (j : RepeatJob) :
    ((concludeRepeat k j s).hubOf k).job = none := by
  obtain ⟨w, hw, heq⟩ := concludeRepeat_eq (.refl (hub_wf hs)) k j
  have hfreed := hubOf_repeatFreed hw.wf k j.req
  have hwf : Sparse.wf {} (repeatFreed k j.req w).hub = true := by
    rw [repeatFreed_hub]
    exact Sparse.wf_upd hw.wf k _
  have hnone : ((repeatFreed k j.req w).hubOf k).repeats = [] := by rw [hfreed, ← hq, ← hw.repeats k]
  rw [heq, serveRepeat_nothing hnone, (startDeep_queuesKept (.refl hwf) _).job, hfreed]

end Sys2Proof.Machine
end

section
/-!
PROOF. REPEAT at a sentinel (R191, R195, R196): a captured tile's header and lanes are answered, and breaches are reported.
-/
namespace Sys2Proof.Machine

open Sys2Proof

variable {s : State}

theorem receive_siteHub (hs : Inv s = true) (m : Instr) (site : Nat) : (receive m s).siteHub site = s.siteHub site :=
  siteHub_congr (receive_places hs m) site

theorem receive_repeatQueue (hs : Inv s = true) (m : Instr) (k : Nat) : ((receive m s).hubOf k).repeatQueue = (s.hubOf k).repeatQueue :=
  congrFun (hubView_receive hs (v := Hub.repeatQueue) (fun _ _ _ => rfl) m) k

theorem receive_job (hs : Inv s = true) (m : Instr) (k : Nat) : ((receive m s).hubOf k).job = (s.hubOf k).job :=
  congrArg Prod.snd (receive_repeatQueue hs m k)

theorem receive_repeats (hs : Inv s = true) (m : Instr) (k : Nat) : ((receive m s).hubOf k).repeats = (s.hubOf k).repeats :=
  congrArg Prod.fst (receive_repeatQueue hs m k)

/-- The state when a REPEAT has reached its sentinel and has been answered (R41). -/
def repeatAnswered (site seq reason : Nat) (elems : List (Nat × Nat)) (s : State) : State :=
  respond site 1 0xA [] (receive (.repeatRead site seq reason elems [] [] 0) s)

theorem repeatAnswered_inv (hs : Inv s = true) (site seq reason : Nat) (elems : List (Nat × Nat)) :
    Inv (repeatAnswered site seq reason elems s) = true := respond_inv _ _ _ _ _ (receive_inv _ _ hs)

theorem repeatAnswered_sent (site seq reason : Nat) (elems : List (Nat × Nat)) (s : State) :
    (repeatAnswered site seq reason elems s).sent = s.sent.erase (.repeatRead site seq reason elems [] [] 0) := receive_sent _ s

theorem repeatAnswered_sen (site seq reason : Nat) (elems : List (Nat × Nat)) (s : State) :
    (repeatAnswered site seq reason elems s).sen = s.sen := receive_sen _ s

theorem repeatAnswered_senOf (site seq reason : Nat) (elems : List (Nat × Nat)) (s : State) (k : Nat) :
    (repeatAnswered site seq reason elems s).senOf k = s.senOf k := receive_senOf _ s k

/-- The arrival of a REPEAT does not change which capture it reads. -/
theorem repeatAnswered_captureFor (hs : Inv s = true) (site seq reason : Nat) (elems : List (Nat × Nat)) :
    (repeatAnswered site seq reason elems s).captureFor site seq = s.captureFor site seq := by
  have hjob : ((repeatAnswered site seq reason elems s).hubOf ((repeatAnswered site seq reason elems s).siteHub site)).job =
      (s.hubOf (s.siteHub site)).job :=
    (receive_job hs _ _).trans (congrArg (fun k => (s.hubOf k).job) (receive_siteHub hs _ site))
  unfold State.captureFor
  rw [hjob, repeatAnswered_senOf]

/-- What a sentinel answers of a tile without a capture: its operands are not available (R148). -/
def absentLanes (site reason : Nat) (elems : List (Nat × Nat)) : List Instr :=
  .repeatHeader site { reason := reason } :: elems.map fun e => .laneData site { locI := e.1, locJ := e.2, operandsOk := false }

theorem exec_repeatRead_absent (hs : Inv s = true) {site seq : Nat} (hc : s.captureFor site seq = none) (reason early : Nat)
    (elems : List (Nat × Nat)) (outs operands : List Block) : exec (.repeatRead site seq reason elems outs operands early) s =
      .next (sendAll (absentLanes site reason elems) (repeatAnswered site seq reason elems s)) := by
  have hanswered := repeatAnswered_captureFor hs site seq reason elems
  rw [hc] at hanswered
  unfold repeatAnswered at hanswered
  rw [exec_repeatRead, execRepeatRead, hanswered]
  rfl

/-- The header of a captured tile's repeat (R195). -/
def captureHeader (c : Capture) (reason : Nat) (elems : List (Nat × Nat)) : RepeatHeader :=
  { desc := c.desc, window := c.window, step := c.step, maxA := c.maxA, maxB := c.maxB, reason := reason
    locI := (elems.headD (0, 0)).1, locJ := (elems.headD (0, 0)).2 }

/-- The words that the dump port found bad have been read (R311). -/
def dumpTaken (x : Sentinel) : Sentinel := { x with wordBad := x.wordBad.filter fun w => w.1 != 2 }

/-- No operand block has changed too early: none is a breach (R149). -/
theorem filter_breaches_eq_nil {xs : List (Block × Desc × Nat)} (h : ∀ x ∈ xs, x.2.2 < 3) : (xs.filter fun x => 3 ≤ x.2.2) = [] :=
  List.filter_eq_nil_iff.mpr fun x hx => by simpa using h x hx

theorem exec_repeatRead_captured (hs : Inv s = true) {site seq early : Nat} {elems : List (Nat × Nat)}
    {outs operands outs' operands' : List Block} {c : Capture} (hc : s.captureFor site seq = some c)
    (hoperands : operands' = (operands.zip c.operands).map fun x => dumpRead (s.senOf site).wordBad x.1 x.2)
    (houts : outs' = (outs.zip (outBlocks c elems)).map fun x => dumpRead (s.senOf site).wordBad x.1 (c.outDescs.getD x.2 {}))
    (hbreach : ∀ x ∈ badBlocks ((operands'.zip c.operands).take early), x.2.2 < 3) (reason : Nat) :
    exec (.repeatRead site seq reason elems outs operands early) s =
      .next (sendAll (.repeatHeader site (captureHeader c reason elems) ::
          elems.map fun e => .laneData site (laneDataOf c elems outs' operands' e))
        (modSen site dumpTaken (repeatAnswered site seq reason elems s))) := by
  have hanswered := repeatAnswered_captureFor hs site seq reason elems
  have hsen := repeatAnswered_senOf site seq reason elems s site
  rw [hc] at hanswered
  unfold repeatAnswered at hanswered hsen
  rw [exec_repeatRead, execRepeatRead, hanswered]
  dsimp only
  rw [hsen, ← hoperands, ← houts, filter_breaches_eq_nil hbreach]
  rfl

end Sys2Proof.Machine
end

section
/-!
PROOF. REPEAT_HEADER and LANE_DATA at the engine (R191, R198, R201): the repeat in progress takes them.
-/
namespace Sys2Proof.Machine

open Sys2Proof

variable {s : State}

/-- A repeat takes the header of its site. -/
def RepeatJob.takeHeader (site : Nat) (hdr : RepeatHeader) (j : RepeatJob) : RepeatJob :=
  if j.req.site = site then { j with header := some hdr } else j

/-- A repeat takes the data of an element. -/
def RepeatJob.takeLane (data : LaneData) (j : RepeatJob) : RepeatJob :=
  { j with lanes := j.lanes ++ [data], blocks := j.blocks + data.blocksRead }

theorem exec_repeatHeader_arrives (hs : Inv s = true) {site : Nat} {hdr : RepeatHeader}
    (harr : s.arrives (.repeatHeader site hdr) = true) : exec (.repeatHeader site hdr) s =
      .next (modHub (s.siteHub site) (fun y => { y with job := y.job.map (RepeatJob.takeHeader site hdr) })
        (receive (.repeatHeader site hdr) s)) := by
  rw [exec_repeatHeader, execRepeatHeader, arrive_next harr, receive_siteHub hs]
  rfl

/-- The data of an element that is not of the repeat in progress. -/
theorem exec_laneData_other (hs : Inv s = true) {site : Nat} {data : LaneData} (harr : s.arrives (.laneData site data) = true)
    (hother : ∀ j, (s.hubOf (s.siteHub site)).job = some j → j.req.site ≠ site ∨ (data.locI, data.locJ) ∉ j.req.elems) :
    exec (.laneData site data) s = .next (receive (.laneData site data) s) := by
  rw [exec_laneData, execLaneData, arrive_next harr, receive_siteHub hs]
  dsimp only
  rw [receive_job hs]
  congr 1
  split
  · rfl
  next j hj => exact if_pos (by simpa using Or.inl (hother j hj))

section
variable {site : Nat} {data : LaneData} {j : RepeatJob} (hs : Inv s = true) (harr : s.arrives (.laneData site data) = true)
  (hj : (s.hubOf (s.siteHub site)).job = some j) (hsite : j.req.site = site) (hmem : (data.locI, data.locJ) ∈ j.req.elems)
  (hnew : (j.lanes.any fun l => l.locI = data.locI && l.locJ = data.locJ) = false)
include hs harr hj hsite hmem hnew

/-- The data of a new element of the repeat: the last of them concludes it. -/
theorem exec_laneData_taken : exec (.laneData site data) s = .next
    (if j.lanes.length + 1 < j.req.elems.length then
      modHub (s.siteHub site) (fun y => { y with job := some (j.takeLane data) }) (receive (.laneData site data) s)
    else concludeRepeat (s.siteHub site) (j.takeLane data) (receive (.laneData site data) s)) := by
  rw [exec_laneData, execLaneData, arrive_next harr, receive_siteHub hs]
  dsimp only
  rw [receive_job hs, hj]
  dsimp only
  rw [if_neg (by simp [hsite, hmem, hnew]), List.length_append]
  rfl

theorem exec_laneData_more (hmore : j.lanes.length + 1 < j.req.elems.length) : exec (.laneData site data) s = .next
    (modHub (s.siteHub site) (fun y => { y with job := some (j.takeLane data) }) (receive (.laneData site data) s)) := by
  rw [exec_laneData_taken hs harr hj hsite hmem hnew, if_pos hmore]

theorem exec_laneData_last (hlast : j.req.elems.length ≤ j.lanes.length + 1) : exec (.laneData site data) s = .next
    (concludeRepeat (s.siteHub site) (j.takeLane data) (receive (.laneData site data) s)) := by
  rw [exec_laneData_taken hs harr hj hsite hmem hnew, if_neg (Nat.not_lt.mpr hlast)]

end

end Sys2Proof.Machine
end

section
/-!
PROOF. The statement of the verification engine.
-/
namespace Sys2Proof.Machine

open Sys2Proof

/-- Settles O52: a sentinel answers a REPEAT by what it has captured, and the engine's repeat takes the header and the lanes; with the
last of them it is judged without a change of any engine's repeats, and leaves the engine idle. -/
theorem verificationEngine : Obligations.VerificationEngine := by
  unfold Obligations.VerificationEngine
  refine ⟨?absent, ?captured, ?header, ?other, ?more, ?last⟩
  case absent =>
    intro site seq reason early elems outs operands s hs hc
    refine ⟨_, exec_repeatRead_absent hs hc reason early elems outs operands, ?_, ?_⟩
    · rw [sendAll_sen, repeatAnswered_sen]
    · rw [sendAll_sent, repeatAnswered_sent, absentLanes]
  case captured =>
    intro site seq reason early elems outs operands outs' operands' c s hs hc hoperands houts hbreach
    have hanswered := repeatAnswered_inv hs site seq reason elems
    have hsite : (modSen site dumpTaken (repeatAnswered site seq reason elems s)).senOf site = dumpTaken (s.senOf site) := by
      rw [senOf_modSen hanswered, repeatAnswered_senOf]
    refine ⟨_, _, exec_repeatRead_captured hs hc hoperands houts hbreach reason, fun k hk => ?_, ?_, ?_, rfl, ?_⟩
    · exact (senOf_modSen_ne hanswered hk _).trans (repeatAnswered_senOf site seq reason elems s k)
    · exact (congrArg Sentinel.captures hsite :)
    · exact (congrArg Sentinel.wordBad hsite :)
    · rw [sendAll_sent, modSen_sent, repeatAnswered_sent, captureHeader]
  case header =>
    intro site hdr j s hs harr hj
    have hhub := hubOf_modHub (receive_inv (.repeatHeader site hdr) s hs) (s.siteHub site)
      fun y => { y with job := y.job.map (RepeatJob.takeHeader site hdr) }
    refine ⟨_, exec_repeatHeader_arrives hs harr, ?_, ?_, receive_sen _ s⟩
    · rw [hhub]
      dsimp only
      rw [receive_job hs, hj]
      rfl
    · rw [hhub]
      exact receive_repeats hs _ _
  case other =>
    intro site data s hs harr hother
    exact ⟨_, exec_laneData_other hs harr hother, receive_job hs _ _, receive_sen _ s, receive_get (φ := .health) (by decide) _ s⟩
  case more =>
    intro site data j s hs harr hj hsite hmem hnew hmore
    refine ⟨_, exec_laneData_more hs harr hj hsite hmem hnew hmore, ?_⟩
    rw [hubOf_modHub (receive_inv _ s hs)]
    rfl
  case last =>
    intro site data j s hs harr hj hsite hmem hnew hlast hq
    refine ⟨_, exec_laneData_last hs harr hj hsite hmem hnew hlast, ?_⟩
    exact concludeRepeat_last (receive_inv _ s hs) ((receive_repeats hs _ _).trans hq) _

end Sys2Proof.Machine
end

section
/-!
PROOF. RUN_RESULT, CONTENT and SCREEN_RUN (R205 to R211, R223): a result enters its pass, and sites under test take content and runs.
-/
namespace Sys2Proof.Machine

open Sys2Proof

variable {s : State}

theorem receive_pass (hs : Inv s = true) (m : Instr) (k : Nat) : ((receive m s).hubOf k).pass = (s.hubOf k).pass :=
  congrFun (hubView_receive hs (v := Hub.pass) (fun _ _ _ => rfl) m) k

/-! ### RUN_RESULT -/

/-- The result of a run at a site that the hub's pass does not test. -/
theorem exec_runResult_untested (hs : Inv s = true) {site recipe verdict seals : Nat} {signature : Dword} {status : Word}
    {replay : ReplayReport} (harr : s.arrives (.runResult site recipe verdict seals signature status replay) = true)
    (hout : ∀ x, (s.hubOf (s.siteHub site)).pass = some x → x.stage ≠ 3 ∨ site ∉ x.testing) :
    exec (.runResult site recipe verdict seals signature status replay) s =
      .next (receive (.runResult site recipe verdict seals signature status replay) s) := by
  rw [exec_runResult, execRunResult, arrive_next harr, receive_siteHub hs]
  dsimp only
  rw [receive_pass hs]
  congr 1
  split
  · rfl
  next x hx => exact if_pos (by simpa using hout x hx)

/-- The row of a pass's table for a run's result (R206, R210, R311). -/
def runRow (site verdict seals : Nat) (signature : Dword) (status : Word) (x : Pass) (s : State) : RunRow :=
  { site := site, recipe := x.recipe, passed := verdict == 0 && seals == 0 && !(s.senOf site).runFailed
    agrees := s.engineAgrees (s.siteHub site) site x.recipe x.epoch, sig := signature, status := status }

/-- A pass with one row more. -/
def Pass.withRow (r : RunRow) (x : Pass) : Pass := { x with rows := x.rows ++ [r] }

/-- A hub's pass with a result entered. -/
def rowAdded (k : Nat) (x : Pass) (r : RunRow) (s : State) : State := modHub k (fun y => { y with pass := some (x.withRow r) }) s

theorem rowAdded_pass (hs : Inv s = true) (k : Nat) (x : Pass) (r : RunRow) :
    ((rowAdded k x r s).hubOf k).pass = some (x.withRow r) := congrArg Hub.pass (hubOf_modHub hs k _)

/-- The result of a run that the hub's pass awaits is added to the pass, which may go on. -/
theorem exec_runResult_awaited (hs : Inv s = true) {site verdict seals : Nat} {signature : Dword} {status : Word} {replay : ReplayReport}
    {x : Pass} {m : Instr} (hm : m = .runResult site x.recipe verdict seals signature status replay) (harr : s.arrives m = true)
    (hpass : (s.hubOf (s.siteHub site)).pass = some x) (hstage : x.stage = 3) (hreplay : x.replay = false) (htest : site ∈ x.testing)
    (hnew : (x.rows.any fun r => r.site = site && r.recipe = x.recipe) = false) :
    exec m s = .next (advanceRun (s.siteHub site)
      (rowAdded (s.siteHub site) x (runRow site verdict seals signature status x (receive m s)) (receive m s))) := by
  subst hm
  rw [exec_runResult, execRunResult, arrive_next harr, receive_siteHub hs]
  dsimp only
  rw [receive_pass hs, hpass]
  dsimp only
  rw [if_neg (by simp [hstage, htest]), if_neg (by simp [hreplay]), if_neg (by simp [hnew]), runRow, receive_siteHub hs]
  rfl

theorem usable_receive {site : Nat} (h : s.usable site = true) (m : Instr) : (receive m s).usable site = true := by
  unfold State.usable at h ⊢
  rw [receive_senOf, receive_sent]
  dsimp only at h ⊢
  simp only [Bool.and_eq_true, Bool.not_eq_true', List.any_eq_false] at h ⊢
  exact ⟨h.1, fun x hx => h.2 x (List.mem_of_mem_erase hx)⟩

/-- A run goes on while a usable site under test has not reported its recipe (R223). -/
theorem advanceRun_waits {k other : Nat} {x : Pass} (hpass : (s.hubOf k).pass = some x) (hstage : x.stage = 3)
    (hother : other ∈ x.testing) (husable : s.usable other = true)
    (hopen : (x.rows.any fun r => r.site = other && r.recipe = x.recipe) = false) : advanceRun k s = s := by
  have hsome : x.testing.isEmpty = false := List.isEmpty_eq_false_iff.mpr (List.ne_nil_of_mem hother)
  have hall : (x.testing.all fun site => !s.usable site || x.rows.any fun r => r.site = site && r.recipe = x.recipe) = false :=
    List.all_eq_false.mpr ⟨other, hother, by simp [husable, hopen]⟩
  unfold advanceRun
  rw [hpass]
  dsimp only
  rw [if_neg (by simp [hstage]), if_neg (by simp [hsome])]
  split
  · rfl
  · rw [if_pos (by simp [hall])]

/-- The result of one site does not end the run of another. -/
theorem advanceRun_rowAdded (hs : Inv s = true) {k other : Nat} {x : Pass} {r : RunRow} (hstage : x.stage = 3)
    (hother : other ∈ x.testing) (husable : s.usable other = true) (hne : r.site ≠ other)
    (hopen : (x.rows.any fun r => r.site = other && r.recipe = x.recipe) = false) :
    advanceRun k (rowAdded k x r s) = rowAdded k x r s := by
  refine advanceRun_waits (rowAdded_pass hs k x r) hstage hother husable ?_
  change ((x.rows ++ [r]).any fun q => q.site = other && q.recipe = x.recipe) = false
  rw [List.any_append, hopen]
  simp [hne]

/-! ### CONTENT and SCREEN_RUN -/

/-- The sites under test of a sector, by the pass of the hub that serves it. -/
def State.underTest (s : State) (sector : Nat) : List Nat :=
  match (s.hubOf ((s.server sector).getD sector)).pass with
  | some x => x.testing.filter fun y => sectorOf y = sector
  | none => []

theorem mem_underTest {sector y : Nat} : y ∈ s.underTest sector ↔
    ∃ x, (s.hubOf ((s.server sector).getD sector)).pass = some x ∧ y ∈ x.testing ∧ sectorOf y = sector := by
  unfold State.underTest
  split <;> simp_all

theorem receive_underTest (hs : Inv s = true) (m : Instr) (sector : Nat) : (receive m s).underTest sector = s.underTest sector := by
  unfold State.underTest
  rw [server_congr (receive_places hs m), receive_pass hs]

/-- A site's sentinel with a block written into its test area (R205). -/
def contentWritten (offset : Nat) (bytes : List Byte) (x : Sentinel) : Sentinel :=
  { x with test := Memory.write 0 x.test offset bytes }

theorem exec_content_writes (hs : Inv s = true) (sector offset : Nat) (bytes : List Byte) :
    exec (.content sector offset bytes) s = .next (each (s.underTest sector).eraseDups
      (fun y s => modSen y (contentWritten offset bytes) s) (receive (.content sector offset bytes) s)) := by
  rw [← receive_underTest hs (.content sector offset bytes)]
  rfl

/-- A change made at each sentinel of a list, which names none twice. -/
theorem senOf_each_modSen (f : Sentinel → Sentinel) {k : Nat} {xs : List Nat} (hxs : xs.Nodup) (hk : k ∈ xs) :
    ∀ {s : State}, Inv s = true → (each xs (fun z y => modSen z f y) s).senOf k = f (s.senOf k) := by
  induction xs with
  | nil => exact absurd hk List.not_mem_nil
  | cons x xs ih =>
    intro s hs
    obtain ⟨hx, hrest⟩ := List.nodup_cons.mp hxs
    have hnext := modSen_inv x f s hs
    rcases List.mem_cons.mp hk with rfl | hlater
    · exact (senOf_each_modSen_of_not_mem f hx hnext).trans (senOf_modSen hs k f)
    · have hne : k ≠ x := fun h => hx (h ▸ hlater)
      exact (ih hrest hlater hnext).trans (congrArg f (senOf_modSen_ne hs hne f))

/-- A site's sentinel with its stress point set and its run started (R223, R224). -/
def runStarted (point recipe : Nat) (epoch : Dword) (x : Sentinel) : Sentinel :=
  { x with run := some (point, recipe, epoch), runFailed := false, runSeals := false, heater := false, duty := 0
           freqStep := if 1 ≤ point && point ≤ 4 then point else 0 }

/-- The sites that a SCREEN_RUN names: one, or those under test of a sector. -/
def State.runSites (s : State) (site sector : Nat) : List Nat := if site = 0xFFFF then s.underTest sector else [site]

/-- A run is started at each site of a list, which answers. -/
def startRuns (point recipe : Nat) (epoch : Dword) (sites : List Nat) (s : State) : State :=
  each sites (fun y s => respond y 1 8 [] (modSen y (runStarted point recipe epoch) s)) s

theorem exec_screenRun_arrives (hs : Inv s = true) {site sector point recipe : Nat} {epoch : Dword}
    (harr : s.arrives (.screenRun site sector point recipe epoch) = true) : exec (.screenRun site sector point recipe epoch) s = .next
      (startRuns point recipe epoch (s.runSites site sector) (receive (.screenRun site sector point recipe epoch) s)) := by
  rw [exec_screenRun, execScreenRun, arrive_next harr]
  unfold State.runSites
  rw [← receive_underTest hs (.screenRun site sector point recipe epoch)]
  rfl

/-- The answers of the sites do not reach their sentinels. -/
theorem startRuns_sen (point recipe : Nat) (epoch : Dword) (sites : List Nat) : ∀ {s t : State}, s.sen = t.sen →
    (startRuns point recipe epoch sites s).sen = (each sites (fun y s => modSen y (runStarted point recipe epoch) s) t).sen := by
  induction sites with
  | nil => exact fun h => h
  | cons y ys ih => exact fun h => ih (congrArg (Sparse.upd ({} : Sentinel) · y (runStarted point recipe epoch)) h)

theorem startRuns_senOf (point recipe : Nat) (epoch : Dword) (sites : List Nat) (s : State) (k : Nat) :
    (startRuns point recipe epoch sites s).senOf k = (each sites (fun y s => modSen y (runStarted point recipe epoch) s) s).senOf k :=
  senOf_of_get (startRuns_sen point recipe epoch sites rfl) k

end Sys2Proof.Machine
end

section
/-!
PROOF. The statement of runs and content.
-/
namespace Sys2Proof.Machine

open Sys2Proof

/-- Settles O53: a run's result by the pass of the site's hub, and content and runs by the sites that they reach. -/
theorem runsAndContent : Obligations.RunsAndContent := by
  unfold Obligations.RunsAndContent
  refine ⟨?untested, ?awaited, ?content, ?run⟩
  case untested =>
    intro site recipe verdict seals signature status replay s hs harr hout
    exact ⟨_, exec_runResult_untested hs harr hout, receive_sen _ s, receive_get (φ := .screens) (by decide) _ s, receive_pass hs _ _⟩
  case awaited =>
    rintro site recipe verdict seals other signature status replay x s hs harr hpass hstage hreplay htest rfl hnew hother hne husable hopen
    have hreceived := receive_inv (.runResult site x.recipe verdict seals signature status replay) s hs
    refine ⟨_, runRow site verdict seals signature status x (receive (.runResult site x.recipe verdict seals signature status replay) s),
      exec_runResult_awaited hs rfl harr hpass hstage hreplay htest hnew, ?_, rfl, rfl, ?_, rfl, rfl⟩
    · rw [advanceRun_rowAdded hreceived hstage hother (usable_receive husable _) hne.symm hopen, rowAdded_pass hreceived, Pass.withRow]
    · rw [runRow, receive_senOf]
  case content =>
    intro sector offset bytes s hs
    have hreceived := receive_inv (.content sector offset bytes) s hs
    refine ⟨_, exec_content_writes hs sector offset bytes, fun x hx y hy hsector => ?_, fun y hy => ?_⟩
    · have hmem := List.mem_eraseDups.mpr (mem_underTest.mpr ⟨x, hx, hy, hsector⟩)
      rw [senOf_each_modSen _ (eraseDups_nodup _) hmem hreceived, receive_senOf, contentWritten]
    · have hmem : y ∉ (s.underTest sector).eraseDups := fun h => by
        obtain ⟨x, hx, htest, hsector⟩ := mem_underTest.mp (List.mem_eraseDups.mp h)
        exact (hy x hx).elim (· htest) (· hsector)
      rw [senOf_each_modSen_of_not_mem _ hmem hreceived, receive_senOf]
  case run =>
    intro site sector point recipe epoch s hs harr
    have hreceived := receive_inv (.screenRun site sector point recipe epoch) s hs
    refine ⟨_, exec_screenRun_arrives hs harr, fun y hy => ?_, fun y hsite hy => ?_⟩
    · have hmem : y ∈ s.runSites site sector := by
        unfold State.runSites
        rcases hy with ⟨hsite, rfl⟩ | ⟨hsite, hunder⟩
        · rw [if_neg hsite]
          exact List.mem_cons_self
        · rw [if_pos hsite]
          exact mem_underTest.mpr hunder
      obtain ⟨x, hx⟩ := senOf_each_modSen_of_mem (runStarted point recipe epoch) hmem hreceived
      rw [startRuns_senOf, hx]
      exact ⟨rfl, rfl, rfl, rfl, by simp [runStarted]⟩
    · have hmem : y ∉ s.runSites site sector := by
        unfold State.runSites
        simp [hsite, hy]
      rw [startRuns_senOf, senOf_each_modSen_of_not_mem _ hmem hreceived, receive_senOf]

end Sys2Proof.Machine
end

section
/-!
PROOF. A change of a site's record (R252, R263, R267): the record that it leaves, what of the other records, the partitions and the
mailbox stays as it was, and the messages that leave with it.
-/
namespace Sys2Proof.Machine

open Sys2Proof

variable {s t : State}

/-! ### Messages in flight stay in flight through what the recorder does -/

section
variable {m : Instr}

theorem mem_sent_ite {c : Prop} [Decidable c] {a b : State} (ha : c → m ∈ a.sent) (hb : ¬c → m ∈ b.sent) :
    m ∈ (if c then a else b).sent := by
  split
  · exact ha ‹_›
  · exact hb ‹_›

theorem mem_sent_of_get (h : m ∈ s.sent) (hg : Fld.get .sent t = Fld.get .sent s) : m ∈ t.sent := by
  have hsent : t.sent = s.sent := hg
  rwa [hsent]

theorem mem_sent_send (h : m ∈ s.sent) (m' : Instr) : m ∈ (send m' s).sent := List.mem_append_left _ h

theorem mem_sent_modRec (h : m ∈ s.sent) (f : Recorder → Recorder) : m ∈ (modRec f s).sent := h

theorem mem_sent_syncPins (h : m ∈ s.sent) : m ∈ (syncPins s).sent := by
  have hdriven (f : Port → Port) : m ∈ (modPort s.active f s).sent := mem_sent_of_get h (modPort_get (by decide) _ f s)
  exact mem_sent_ite (fun _ => h) fun _ => mem_sent_ite (fun _ => mem_sent_send (hdriven _) _) fun _ => hdriven _

theorem mem_sent_raiseAlert (h : m ∈ s.sent) (n : Nat) : m ∈ (raiseAlert n s).sent :=
  mem_sent_syncPins (mem_sent_of_get h (modWin_get (by decide) _ s))

theorem mem_sent_recorderAlert (h : m ∈ s.sent) (was : Recorder) : m ∈ (recorderAlert was s).sent :=
  mem_sent_ite (fun _ => mem_sent_raiseAlert h 6) fun _ => h

theorem mem_sent_acceptInto (h : m ∈ s.sent) (staging : Bool) (r : Rec) : m ∈ (acceptInto staging r s).sent := by
  have halerted (f : Recorder → Recorder) : m ∈ (recorderAlert s.recorder (modRec f s)).sent :=
    mem_sent_recorderAlert (mem_sent_modRec h f) _
  exact mem_sent_ite (fun _ => mem_sent_send (halerted _) _) fun _ => halerted _

theorem mem_sent_acceptPlain (h : m ∈ s.sent) (code : Nat) (payload : List Byte) : m ∈ (acceptPlain code payload s).sent :=
  mem_sent_acceptInto h _ _

theorem mem_sent_dropSummary (h : m ∈ s.sent) : m ∈ (dropSummary s).sent :=
  mem_sent_modRec (mem_sent_acceptPlain h _ _) _

theorem mem_sent_thaw (h : m ∈ s.sent) (cause : Nat) : m ∈ (thaw cause s).sent := by
  have hcopies (c : Bool) (qs : List Queued) :
      m ∈ (if c then s else mirrorWrite qs (modRec (fun r => { r with mirrorStaging := [] }) s)).sent :=
    mem_sent_ite (fun _ => h) fun _ => mem_sent_of_get h (mirrorWrite_get (by decide) _ _)
  have hwritten (n : Nat) (qs : List Queued) {y : State} (hy : m ∈ y.sent) : m ∈ (ringWriteAll n qs y).sent :=
    mem_sent_of_get hy (ringWriteAll_get (by decide) n qs y)
  unfold thaw
  dsimp only
  refine mem_sent_ite (fun _ => h) fun _ => ?_
  refine mem_sent_ite (fun _ => mem_sent_dropSummary ?_) fun _ => ?_
  all_goals exact mem_sent_acceptPlain (hwritten _ _ (mem_sent_modRec (hcopies _ _) _)) _ _

theorem mem_sent_accept (h : m ∈ s.sent) (e : Happening) : m ∈ (accept e s).sent := by
  have hnoted (b : Bool) : m ∈ (if b then noteReason e.source 1 s else s).sent :=
    mem_sent_ite (fun _ => mem_sent_of_get h (noteReason_get (by decide) _ _ _)) fun _ => h
  unfold accept
  dsimp only
  refine mem_sent_ite (fun _ => hnoted _) fun _ => mem_sent_ite (fun _ => hnoted _) fun _ =>
    mem_sent_ite (fun _ => mem_sent_modRec (hnoted _) _) fun _ => ?_
  split
  case h_1 | h_2 => exact mem_sent_modRec (hnoted _) _
  case h_3 => exact mem_sent_acceptInto (mem_sent_thaw (hnoted _) _) _ _
  case h_4 => exact mem_sent_acceptInto (mem_sent_ite (fun _ => hnoted _) fun _ => mem_sent_modRec (hnoted _) _) _ _

theorem mem_sent_record (h : m ∈ s.sent) (code : Nat) (payload : List Byte) : m ∈ (record code payload s).sent :=
  mem_sent_accept h _

theorem mem_sent_checkSpares (h : m ∈ s.sent) (sector : Nat) : m ∈ (checkSpares sector s).sent := by
  have hcounted (v : Sparse Nat) : m ∈ (setSparesLow v s).sent := h
  exact mem_sent_ite (fun _ => mem_sent_raiseAlert (mem_sent_record (hcounted _) _ _) _) fun _ => hcounted _

theorem mem_sent_auditCmd (h : m ∈ s.sent) (c : Cmd) (status : Nat) : m ∈ (auditCmd c status s).sent := by
  have haudited (payload : List Byte) : m ∈ (if 1 ≤ c.needs then record 0x8002 payload s else s).sent :=
    mem_sent_ite (fun _ => mem_sent_record h _ _) fun _ => h
  exact mem_sent_ite (fun _ => mem_sent_record (haudited _) _ _) fun _ => haudited _

/-- A command's completion takes no message back. -/
theorem mem_sent_complete (h : m ∈ s.sent) (seq status : Nat) (rsp : List Byte) : m ∈ (complete seq status rsp s).sent := by
  cases hc : s.cmd seq
  case none =>
    unfold complete
    rwa [hc]
  case some c =>
    have haudited : m ∈ (completionAudited seq status c s).sent :=
      mem_sent_auditCmd (mem_sent_of_get h (modCmd_get (by decide) _ _ _)) c status
    have hstored : m ∈ (responseStored c rsp (completionAudited seq status c s)).sent :=
      mem_sent_ite (fun _ => haudited) fun _ => haudited
    rw [complete_of_cmd hc]
    refine mem_sent_ite (fun _ => h) fun _ => mem_sent_ite (fun _ => haudited) fun _ => ?_
    exact mem_sent_of_get hstored (postNext_get (by decide) _ _)

end

/-! ### The change, part by part -/

/-- A site's record changes, with the time since which it has its state. -/
def recordChanged (site : Nat) (f : SiteRec → SiteRec) (s : State) : State :=
  modSite site (fun r => let r' := f r; if r'.state = r.state then r' else { r' with stateSince := s.secs }) s

/-- A site that its changed record puts under suspicion is noted (R186). -/
def changeNoted (site : Nat) (f : SiteRec → SiteRec) (s : State) : State :=
  let t := recordChanged site f s
  if (t.siteRec site).suspected && !(s.siteRec site).suspected then noteReason site 2 t else t

/-- The changed record is written (R263). -/
def changeWritten (site : Nat) (f : SiteRec → SiteRec) (s : State) : State := writeSite site (changeNoted site f s)

/-- A change of health is recorded and journaled, and the site's hub is told of a quarantine (R26, R252, R267). -/
def changeTold (site kind aux : Nat) (old new : SiteRec) (s : State) : State :=
  let s := journalize 0 site kind old.byte new.byte aux (recordFrom site 0x3001 (healthPayload site old.byte new.byte kind s.secs) s)
  if new.state = 6 && old.state != 6 then send (.quarantine site) s else s

/-- The spares of the site's sector are counted after a change of its state that makes or takes one (R266). -/
def sparesCounted (site : Nat) (old new : SiteRec) (s : State) : State :=
  if (old.state = 1) = (new.state = 1) || s.boot.step = 5 then s else checkSpares (sectorOf site) s

theorem changeSite_eq (site kind aux : Nat) (f : SiteRec → SiteRec) (s : State) : changeSite site kind aux f s =
    if ((recordChanged site f s).siteRec site).byte = (s.siteRec site).byte then changeWritten site f s
    else sparesCounted site (s.siteRec site) ((recordChanged site f s).siteRec site)
      (changeTold site kind aux (s.siteRec site) ((recordChanged site f s).siteRec site) (changeWritten site f s)) := rfl

theorem sparesCounted_get {φ : Fld} (hφ : φ ∉ checkSparesF) (site : Nat) (old new : SiteRec) (s : State) :
    φ.get (sparesCounted site old new s) = φ.get s := get_ite_of (fun _ => rfl) fun _ => checkSpares_get hφ _ s

/-- Behind the record of a change, only the journal and the messages in flight change. -/
theorem changeTold_get_of_record {φ : Fld} (hφ : φ ∉ [.sent, .journalSeq, .journal]) (site kind aux : Nat) (old new : SiteRec)
    (s : State) : φ.get (changeTold site kind aux old new s) =
      φ.get (recordFrom site 0x3001 (healthPayload site old.byte new.byte kind s.secs) s) :=
  get_ite_of (fun _ => (send_get (Fld.mono hφ rfl) _ _).trans (journalize_get hφ _ _ _ _ _ _ _)) fun _ =>
    journalize_get hφ _ _ _ _ _ _ _

theorem changeTold_get {φ : Fld} (hφ : φ ∉ acceptF ++ [.journalSeq, .journal]) (site kind aux : Nat) (old new : SiteRec) (s : State) :
    φ.get (changeTold site kind aux old new s) = φ.get s :=
  (changeTold_get_of_record (Fld.mono hφ rfl) _ _ _ _ _ _).trans (recordFrom_get (Fld.mono hφ rfl) _ _ _ _)

theorem changeNoted_get {φ : Fld} (hφ : φ ∉ [.part]) (site : Nat) (f : SiteRec → SiteRec) (s : State) :
    φ.get (changeNoted site f s) = φ.get (recordChanged site f s) :=
  get_ite_of (fun _ => noteReason_get hφ _ _ _) fun _ => rfl

theorem changeWritten_get {φ : Fld} (hφ : φ ∉ writeSiteF ++ [.part]) (site : Nat) (f : SiteRec → SiteRec) (s : State) :
    φ.get (changeWritten site f s) = φ.get s :=
  (writeSite_get (Fld.mono hφ rfl) _ _).trans
    ((changeNoted_get (Fld.mono hφ rfl) _ _ _).trans (modSite_get (Fld.mono hφ rfl) _ _ _))

theorem recordChanged_inv (hs : Inv s = true) (site : Nat) (f : SiteRec → SiteRec) : Inv (recordChanged site f s) = true :=
  modSite_inv _ _ _ hs

theorem changeNoted_inv (hs : Inv s = true) (site : Nat) (f : SiteRec → SiteRec) : Inv (changeNoted site f s) = true :=
  inv_ite (fun _ => noteReason_inv _ _ _ (recordChanged_inv hs site f)) fun _ => recordChanged_inv hs site f

/-! ### The record that a change leaves -/

theorem recordChanged_siteRec (hs : Inv s = true) (site : Nat) (f : SiteRec → SiteRec) :
    ∃ since, (recordChanged site f s).siteRec site = { f (s.siteRec site) with stateSince := since } := by
  unfold recordChanged
  rw [siteRec_modSite hs]
  dsimp only
  split
  · exact ⟨_, rfl⟩
  · exact ⟨_, rfl⟩

theorem writeSite_siteRec (hs : Inv s = true) (site k : Nat) : ∃ n c, (writeSite site s).siteRec k =
    if k = site then { s.siteRec site with writes := n, powerCycle := c } else s.siteRec k := by
  refine ⟨((s.siteRec site).writes + 1) % 2 ^ 32, s.cycles, ?_⟩
  unfold writeSite
  refine (siteRec_of_get (mramBoth_get (by decide) _ _ _) k).trans ?_
  split
  case isTrue hk => rw [hk, siteRec_modSite hs]
  case isFalse hk => rw [siteRec_modSite_ne hs hk]

theorem changeSite_health (site kind aux : Nat) (f : SiteRec → SiteRec) (s : State) :
    Fld.get .health (changeSite site kind aux f s) = Fld.get .health (changeWritten site f s) := by
  rw [changeSite_eq]
  refine get_ite_of (fun _ => rfl) fun _ => ?_
  exact (sparesCounted_get (by decide) _ _ _ _).trans (changeTold_get (by decide) _ _ _ _ _ _)

theorem changeSite_siteRec_eq (hs : Inv s = true) (site kind aux : Nat) (f : SiteRec → SiteRec) (k : Nat) :
    ∃ since n c, (changeSite site kind aux f s).siteRec k =
      if k = site then { f (s.siteRec site) with stateSince := since, writes := n, powerCycle := c } else s.siteRec k := by
  have hnoted := siteRec_of_get (changeNoted_get (φ := .health) (by decide) site f s)
  obtain ⟨since, hsince⟩ := recordChanged_siteRec hs site f
  obtain ⟨n, c, hwritten⟩ := writeSite_siteRec (changeNoted_inv hs site f) site k
  refine ⟨since, n, c, (siteRec_of_get (changeSite_health site kind aux f s) k).trans (hwritten.trans ?_)⟩
  rw [hnoted, hnoted, hsince]
  split
  case isTrue => rfl
  case isFalse hk => exact siteRec_modSite_ne hs hk _

/-- The record of the site is what the change makes of it, written once more (R263). -/
theorem changeSite_siteRec (hs : Inv s = true) (site kind aux : Nat) (f : SiteRec → SiteRec) :
    ∃ since n c, (changeSite site kind aux f s).siteRec site =
      { f (s.siteRec site) with stateSince := since, writes := n, powerCycle := c } := by
  obtain ⟨since, n, c, h⟩ := changeSite_siteRec_eq hs site kind aux f site
  exact ⟨since, n, c, h.trans (if_pos rfl)⟩

theorem changeSite_siteRec_ne (hs : Inv s = true) {site k : Nat} (hk : k ≠ site) (kind aux : Nat) (f : SiteRec → SiteRec) :
    (changeSite site kind aux f s).siteRec k = s.siteRec k := by
  obtain ⟨since, n, c, h⟩ := changeSite_siteRec_eq hs site kind aux f k
  exact h.trans (if_neg hk)

/-! ### The partitions, the mailbox and the messages in flight -/

section
variable {β : Type} {v : Partition → β}

theorem partView_ite_of {c : Prop} [Decidable c] {a b : State} {x : Nat → β} (ha : c → a.partView v = x)
    (hb : ¬c → b.partView v = x) : (if c then a else b).partView v = x := by
  split
  · exact ha ‹_›
  · exact hb ‹_›

/-- A suspicion changes of a partition its suspicions only (R186). -/
theorem noteReason_partView (hs : Inv s = true) (hv : ∀ x l, v { x with loss := l } = v x) (site bit : Nat) :
    (noteReason site bit s).partView v = s.partView v :=
  partView_ite_of (fun _ => partView_modPart hs (fun x => hv x _) _) fun _ => rfl

theorem recordFrom_partView (hs : Inv s = true) (hv : ∀ x l, v { x with loss := l } = v x) (source code : Nat) (payload : List Byte) :
    (recordFrom source code payload s).partView v = s.partView v := by
  have hnoted (b : Bool) : (if b then noteReason source 1 s else s).partView v = s.partView v :=
    partView_ite_of (fun _ => noteReason_partView hs hv _ _) fun _ => rfl
  unfold recordFrom accept
  dsimp only
  refine partView_ite_of (fun _ => hnoted _) fun _ => partView_ite_of (fun _ => hnoted _) fun _ =>
    partView_ite_of (fun _ => hnoted _) fun _ => ?_
  split
  case h_1 | h_2 => exact hnoted _
  case h_3 =>
    exact (partView_of_get ((acceptInto_get (by decide) _ _ _).trans (thaw_get (by decide) _ _)) v).trans (hnoted _)
  case h_4 =>
    refine (partView_of_get (acceptInto_get (by decide) _ _ _) v).trans ?_
    exact partView_ite_of (fun _ => hnoted _) fun _ => hnoted _

/-- A change of a site's record changes of the partitions their suspicions only. -/
theorem changeSite_partView (hs : Inv s = true) (hv : ∀ x l, v { x with loss := l } = v x) (site kind aux : Nat)
    (f : SiteRec → SiteRec) : (changeSite site kind aux f s).partView v = s.partView v := by
  have hchanged : (recordChanged site f s).partView v = s.partView v := rfl
  have hwritten : (changeWritten site f s).partView v = s.partView v :=
    (partView_of_get (writeSite_get (by decide) _ _) v).trans
      (partView_ite_of (fun _ => noteReason_partView (recordChanged_inv hs site f) hv site 2) fun _ => hchanged)
  have hinv : Inv (changeWritten site f s) = true := writeSite_inv _ _ (changeNoted_inv hs site f)
  rw [changeSite_eq]
  refine partView_ite_of (fun _ => hwritten) fun _ => (partView_of_get (sparesCounted_get (by decide) _ _ _ _) v).trans ?_
  exact (partView_of_get (changeTold_get_of_record (by decide) _ _ _ _ _ _) v).trans
    ((recordFrom_partView hinv hv _ _ _).trans hwritten)

end

theorem mailbox_checkSpares (sector : Nat) (s : State) : (checkSpares sector s).mailbox = s.mailbox := by
  unfold checkSpares
  exact mailbox_ite_of (fun _ => (mailbox_raiseAlert _ _).trans (mailbox_record _ _ _)) fun _ => rfl

theorem mailbox_changeSite (site kind aux : Nat) (f : SiteRec → SiteRec) (s : State) :
    (changeSite site kind aux f s).mailbox = s.mailbox := by
  have hwritten : (changeWritten site f s).mailbox = s.mailbox := mailbox_of_get (changeWritten_get (by decide) site f s)
  have htold (old new : SiteRec) : (changeTold site kind aux old new (changeWritten site f s)).mailbox = s.mailbox :=
    (mailbox_of_get (changeTold_get_of_record (by decide) _ _ _ _ _ _)).trans ((mailbox_accept _ _).trans hwritten)
  rw [changeSite_eq]
  refine mailbox_ite_of (fun _ => hwritten) fun _ => ?_
  exact mailbox_ite_of (fun _ => htold _ _) fun _ => (mailbox_checkSpares _ _).trans (htold _ _)

/-- The QUARANTINE message of a site that becomes QUARANTINED is in flight behind the change (R252). -/
theorem changeSite_sends_quarantine (hs : Inv s = true) {site : Nat} {f : SiteRec → SiteRec} (hold : (s.siteRec site).state % 16 ≠ 6)
    (hnew : (f (s.siteRec site)).state = 6) (kind aux : Nat) : .quarantine site ∈ (changeSite site kind aux f s).sent := by
  obtain ⟨since, hsince⟩ := recordChanged_siteRec hs site f
  have hstate : ((recordChanged site f s).siteRec site).state = 6 := by rw [hsince]; exact hnew
  have hbyte : ((recordChanged site f s).siteRec site).byte ≠ (s.siteRec site).byte := by
    unfold SiteRec.byte flag
    rw [hstate]
    omega
  have htold (u : State) : .quarantine site ∈
      (changeTold site kind aux (s.siteRec site) ((recordChanged site f s).siteRec site) u).sent := by
    unfold changeTold
    rw [if_pos (by simp [hstate]; omega)]
    exact List.mem_append_right _ List.mem_cons_self
  rw [changeSite_eq, if_neg hbyte]
  exact mem_sent_ite (fun _ => htold _) fun _ => mem_sent_checkSpares (htold _) _

end Sys2Proof.Machine
end

section
/-!
PROOF. What leaves the mailbox as it is (R491 to R494): moves and swap-outs, charges, screens and runs complete no command.
-/
namespace Sys2Proof.Machine

open Sys2Proof

theorem mailbox_each {α : Type} {g : α → State → State} (hg : ∀ a y, (g a y).mailbox = y.mailbox) (xs : List α) (s : State) :
    (each xs g s).mailbox = s.mailbox := by
  induction xs generalizing s with
  | nil => rfl
  | cons a xs ih => exact (ih _).trans (hg a s)

theorem mailbox_recordFrom (source code : Nat) (payload : List Byte) (s : State) :
    (recordFrom source code payload s).mailbox = s.mailbox := mailbox_accept _ s

/-! ### Moves, swap-outs and charges (R250 to R259) -/

theorem mailbox_moveTile (tile old new detour kind : Nat) (out : SiteRec → SiteRec) (s : State) :
    (moveTile tile old new detour kind out s).mailbox = s.mailbox := by
  unfold moveTile
  refine (mailbox_of_get (send_get (by decide) _ _)).trans ((mailbox_recordFrom _ _ _ _).trans ?_)
  refine (mailbox_changeSite _ _ _ _ _).trans ((mailbox_changeSite _ _ _ _ _).trans ?_)
  exact mailbox_of_get ((putBoth_get (by decide) _ _ _ _).trans (holdSlot_get (by decide) _ _))

theorem mailbox_moveOut (tile old new : Nat) (out : SiteRec → SiteRec) (s : State) :
    (moveOut tile old new out s).mailbox = s.mailbox :=
  (mailbox_moveTile _ _ _ _ _ _ _).trans (mailbox_of_get (journalize_get (by decide) _ _ _ _ _ _ _))

theorem mailbox_prepareSwap (p tile old : Nat) (s : State) : (prepareSwap p tile old s).mailbox = s.mailbox := by
  unfold prepareSwap
  split
  · rfl
  next new _ =>
    have hchosen (f : SiteRec → SiteRec) :
        (changeSite new 0 0 f (journalize 2 old new 0 0 (s.jobOf p).detour s)).mailbox = s.mailbox :=
      (mailbox_changeSite _ _ _ _ _).trans (mailbox_of_get (journalize_get (by decide) _ _ _ _ _ _ _))
    dsimp only
    refine (mailbox_of_get (modSwap_get (by decide) _ _ _ _)).trans ((mailbox_of_get (send_get (by decide) _ _)).trans ?_)
    exact (mailbox_of_get ((keepKey_get (by decide) _ _ _ _).trans (putIdle_get (by decide) _ _ _ _ _))).trans (hchosen _)

theorem mailbox_degrade (p site step : Nat) (s : State) : (degrade p site step s).mailbox = s.mailbox :=
  mailbox_ite_of (fun _ => rfl) fun _ => mailbox_record _ _ _

theorem mailbox_requestSwap (site cause : Nat) (seqs : List Nat) (s : State) : (requestSwap site cause seqs s).mailbox = s.mailbox := by
  unfold requestSwap
  refine mailbox_ite_of (fun _ => rfl) fun _ => mailbox_ite_of (fun _ => ?job) fun _ => ?moves
  case job => exact mailbox_ite_of (fun _ => rfl) fun _ => mailbox_prepareSwap _ _ _ _
  case moves =>
    split
    · exact mailbox_moveOut _ _ _ _ _
    · exact mailbox_ite_of (fun _ => mailbox_degrade _ _ _ _) fun _ => rfl

theorem mailbox_spareFreed (site : Nat) (s : State) : (spareFreed site s).mailbox = s.mailbox :=
  mailbox_ite_of (fun _ => rfl) fun _ => mailbox_each (fun _ _ => mailbox_requestSwap _ _ _ _) _ _

theorem mailbox_followHealth (site : Nat) (r : SiteRec) (h : Health) (s : State) : (followHealth site r h s).mailbox = s.mailbox := by
  unfold followHealth
  refine mailbox_ite_of (fun _ => mailbox_requestSwap _ _ _ _) fun _ => mailbox_ite_of (fun _ => ?_) fun _ => rfl
  exact mailbox_each (fun _ _ => (mailbox_prepareSwap _ _ _ _).trans (mailbox_of_get (modSwap_get (by decide) _ _ _ _))) _ _

theorem mailbox_charge (site kind steps : Nat) (reproduced : Bool) (s : State) :
    (charge site kind steps reproduced s).mailbox = s.mailbox := by
  have hrose : (noteRose site kind (s.siteRec site).health s).mailbox = s.mailbox := mailbox_of_get (noteRose_get (by decide) _ _ _ _)
  unfold charge
  exact mailbox_ite_of (fun _ => (mailbox_followHealth _ _ _ _).trans ((mailbox_changeSite _ _ _ _ _).trans hrose)) fun _ => hrose

/-! ### The end of a screen (R239 to R241, R252) -/

theorem mailbox_declineAxis (site code prev : Nat) (epoch : Dword) (a : Nat) (x : State × Nat) :
    (declineAxis site code prev epoch a x).1.mailbox = x.1.mailbox := by
  unfold declineAxis
  dsimp only
  split
  · rfl
  · exact mailbox_recordFrom _ _ _ _

theorem mailbox_passScreen (site code : Nat) (full deep : Bool) (epoch : Dword) (s : State) :
    (passScreen site code full deep epoch s).mailbox = s.mailbox := by
  have hdeclined (prev : Nat) (x : State × Nat) :
      ([0, 1, 2].foldl (fun x a => declineAxis site code prev epoch a x) x).1.mailbox = x.1.mailbox :=
    (mailbox_declineAxis _ _ _ _ _ _).trans ((mailbox_declineAxis _ _ _ _ _ _).trans (mailbox_declineAxis _ _ _ _ _ _))
  unfold passScreen
  refine mailbox_ite_of (fun _ => ?_) fun _ => (mailbox_charge _ _ _ _ _).trans ?_
  all_goals exact (hdeclined _ _).trans (mailbox_changeSite site 0 0 _ s)

theorem mailbox_passDeep (site code : Nat) (epoch : Dword) (s : State) : (passDeep site code epoch s).mailbox = s.mailbox := by
  have hchanged (f : SiteRec → SiteRec) (v : List Nat) :
      (changeSite site 11 0 f (passScreen site code true true epoch (setDeepPassed v s))).mailbox = s.mailbox :=
    (mailbox_changeSite _ _ _ _ _).trans (mailbox_passScreen _ _ _ _ _ _)
  unfold passDeep
  exact mailbox_ite_of (fun _ => (mailbox_spareFreed _ _).trans (hchanged _ _)) fun _ => hchanged _ _

theorem mailbox_failDeep (site : Nat) (s : State) : (failDeep site s).mailbox = s.mailbox :=
  mailbox_ite_of (fun _ => mailbox_changeSite _ _ _ _ _) fun _ => mailbox_charge _ _ _ _ _

theorem mailbox_finishScreen (site outcome : Nat) (s : State) : (finishScreen site outcome s).mailbox = s.mailbox := by
  unfold finishScreen
  split
  · rfl
  next c _ =>
    have hresult : (screenResult site outcome c (setScreens (Sparse.set none s.screens site none) s)).mailbox = s.mailbox :=
      mailbox_recordFrom _ _ _ _
    refine mailbox_ite_of (fun _ => ?once) fun _ => ?deep
    case once =>
      refine mailbox_ite_of (fun _ => hresult) fun _ => mailbox_ite_of (fun _ => ?passed) fun _ => ?failed
      case passed => exact (mailbox_passScreen _ _ _ _ _ _).trans hresult
      case failed => exact mailbox_ite_of (fun _ => (mailbox_charge _ _ _ _ _).trans hresult) fun _ => hresult
    case deep =>
      refine mailbox_ite_of (fun _ => (mailbox_failDeep _ _).trans hresult) fun _ => mailbox_ite_of (fun _ => hresult) fun _ => ?_
      exact mailbox_ite_of (fun _ => (mailbox_passDeep _ _ _ _).trans hresult) fun _ => hresult

/-! ### Runs and passes (R223, R234, R235) -/

theorem mailbox_skipPoints (site : Nat) (s : State) : (skipPoints site s).mailbox = s.mailbox := by
  unfold skipPoints
  split
  · rfl
  · refine mailbox_ite_of (fun _ => mailbox_finishScreen _ _ _) fun _ => ?_
    exact mailbox_ite_of (fun _ => mailbox_finishScreen _ _ _) fun _ => mailbox_ite_of (fun _ => rfl) fun _ => rfl

theorem mailbox_nextRun (h : Nat) (s : State) : (nextRun h s).mailbox = s.mailbox := by
  unfold nextRun
  split
  · rfl
  next x _ =>
    refine mailbox_ite_of (fun _ => rfl) fun _ => ?_
    split
    · exact mailbox_of_get (startReplay_get (by decide) _ _ _ _)
    · have hskipped : (if bitOf 2 (s.hubOf h).veCtrl then each x.sites skipPoints s else s).mailbox = s.mailbox :=
        mailbox_ite_of (fun _ => mailbox_each mailbox_skipPoints _ _) fun _ => rfl
      dsimp only
      split
      · exact (mailbox_of_get (restUnits_get (by decide) _ _)).trans hskipped
      · exact (mailbox_of_get (setUpRun_get (by decide) _ _ _ _ _ _ _)).trans hskipped

theorem mailbox_concludeRun (h : Nat) (x : Pass) (s : State) : (concludeRun h x s).mailbox = s.mailbox := by
  have hmirrored (y : State) (rows : Nat → List RunRow) (c : Bool) :
      (if c then y else each (List.range 8) (fun n y => mirrorResult h n x.epoch (rows n) y) y).mailbox = y.mailbox :=
    mailbox_ite_of (fun _ => rfl) fun _ => mailbox_of_get (each_get _ _ (fun n y => mirrorResult_get (by decide) h n x.epoch (rows n) y) y)
  have hended (y : State) (f : Hub → Hub) : (each x.testing endRun (endHeat h (modHub h f y))).mailbox = y.mailbox :=
    mailbox_of_get ((each_get _ _ (fun z y => endRun_get (by decide) z y) _).trans (endHeat_get (by decide) h _))
  unfold concludeRun
  dsimp only
  refine (mailbox_nextRun _ _).trans ((mailbox_each (fun site y => ?told) _ _).trans ?_)
  case told =>
    split
    · exact mailbox_ite_of (fun _ => mailbox_charge _ _ _ _ _) fun _ => rfl
    · exact mailbox_ite_of (fun _ => mailbox_finishScreen _ _ _) fun _ =>
        mailbox_ite_of (fun _ => mailbox_finishScreen _ _ _) fun _ => rfl
  exact (hended _ _).trans (hmirrored _ _ _)

theorem mailbox_advanceRun (h : Nat) (s : State) : (advanceRun h s).mailbox = s.mailbox := by
  unfold advanceRun
  split
  · rfl
  next x _ =>
    refine mailbox_ite_of (fun _ => rfl) fun _ => mailbox_ite_of (fun _ => ?empty) fun _ => ?_
    case empty => exact (mailbox_nextRun _ _).trans (mailbox_of_get (endHeat_get (φ := .win) (by decide) _ _))
    refine mailbox_ite_of (fun _ => rfl) fun _ => mailbox_ite_of (fun _ => rfl) fun _ => mailbox_ite_of (fun _ => ?recipe) fun _ => ?last
    case recipe => exact mailbox_of_get (sendRecipe_get (φ := .win) (by decide) _ _)
    case last => exact mailbox_concludeRun _ _ _

end Sys2Proof.Machine
end

section
/-!
PROOF. The record of a site after a move of its tile, a release and a retirement (R252, R255, R259, R500).
-/
namespace Sys2Proof.Machine

open Sys2Proof

/-! ### Entries of a table -/

theorem Sparse.lt_of_mem {α : Type} [DecidableEq α] {d : α} {m : Sparse α} {l : Nat} (hwf : Sparse.wfFrom d (some l) m = true)
    {x : Nat × α} (h : x ∈ m) : l < x.1 := by
  induction m generalizing l with
  | nil => cases h
  | cons y m ih =>
    obtain ⟨hlt, -, htail⟩ := Sparse.wfFrom_cons.mp hwf
    obtain rfl | hlater := List.mem_cons.mp h
    · exact hlt l rfl
    · exact Nat.lt_trans (hlt l rfl) (ih htail hlater)

/-- A table in canonical form reads at the key of each entry as its value. -/
theorem Sparse.get_of_mem {α : Type} [DecidableEq α] {d : α} {m : Sparse α} {lo : Option Nat} (hwf : Sparse.wfFrom d lo m = true)
    {x : Nat × α} (h : x ∈ m) : Sparse.get d m x.1 = x.2 := by
  induction m generalizing lo with
  | nil => cases h
  | cons y m ih =>
    obtain ⟨-, -, htail⟩ := Sparse.wfFrom_cons.mp hwf
    obtain rfl | hlater := List.mem_cons.mp h
    · exact if_pos rfl
    · have hlt := Sparse.lt_of_mem htail hlater
      rw [Sparse.get, if_neg (by omega), if_neg (by omega)]
      exact ih htail hlater

theorem Sparse.mem_of_get_ne {α : Type} {d : α} {m : Sparse α} {k : Nat} (h : Sparse.get d m k ≠ d) :
    (k, Sparse.get d m k) ∈ m := by
  induction m with
  | nil => exact absurd rfl h
  | cons x m ih =>
    obtain ⟨j, w⟩ := x
    rw [Sparse.get] at h ⊢
    split
    case isTrue hk => exact hk ▸ List.mem_cons_self
    case isFalse hk =>
      rw [if_neg hk] at h
      split
      case isTrue hlt => exact absurd (if_pos hlt) h
      case isFalse hlt => exact List.mem_cons_of_mem _ (ih (by rwa [if_neg hlt] at h))

variable {s t : State}

/-! ### A move of a tile -/

/-- The tile's entries and route go into both banks, and the slot count of the site that it leaves stands. -/
def moveMapped (tile old new : Nat) (s : State) : State := putBoth tile old new (holdSlot old s)

/-- The site that a tile moves to holds it, in the health that it serves in. -/
def moveTaken (tile old new kind : Nat) (s : State) : State :=
  changeSite new kind 0 (fun r => { r with state := s.servingState new tile, logical := tile }) (moveMapped tile old new s)

theorem moveTile_health (tile old new detour kind : Nat) (out : SiteRec → SiteRec) (s : State) :
    Fld.get .health (moveTile tile old new detour kind out s) =
      Fld.get .health (changeSite old kind 0 (fun r => out (leaveTile r)) (moveTaken tile old new kind s)) :=
  (send_get (by decide) _ _).trans (recordFrom_get (by decide) _ _ _ _)

theorem moveMapped_siteRec (tile old new : Nat) (s : State) (k : Nat) : (moveMapped tile old new s).siteRec k = s.siteRec k :=
  siteRec_of_get ((putBoth_get (by decide) _ _ _ _).trans (holdSlot_get (by decide) _ _)) k

theorem moveTaken_inv (hs : Inv s = true) (tile old new kind : Nat) : Inv (moveTaken tile old new kind s) = true :=
  changeSite_inv _ _ _ _ _ (putBoth_inv _ _ _ _ (holdSlot_inv _ _ hs))

/-- The site that a tile moves to holds it. -/
theorem moveTile_logical (hs : Inv s = true) {old new : Nat} (hne : new ≠ old) (tile detour kind : Nat) (out : SiteRec → SiteRec) :
    ((moveTile tile old new detour kind out s).siteRec new).logical = tile := by
  obtain ⟨since, n, c, htaken⟩ := changeSite_siteRec (putBoth_inv tile old new _ (holdSlot_inv old _ hs)) new kind 0
    (fun r => { r with state := s.servingState new tile, logical := tile })
  rw [siteRec_of_get (moveTile_health tile old new detour kind out s), changeSite_siteRec_ne (moveTaken_inv hs tile old new kind) hne]
  exact congrArg SiteRec.logical htaken

/-- The site that a tile leaves becomes what the move makes of it. -/
theorem moveTile_siteRec_old (hs : Inv s = true) {old new : Nat} (hne : new ≠ old) (tile detour kind : Nat) (out : SiteRec → SiteRec) :
    ∃ since n c, (moveTile tile old new detour kind out s).siteRec old =
      { out (leaveTile (s.siteRec old)) with stateSince := since, writes := n, powerCycle := c } := by
  obtain ⟨since, n, c, hleft⟩ := changeSite_siteRec (moveTaken_inv hs tile old new kind) old kind 0 (fun r => out (leaveTile r))
  have hkept : (moveTaken tile old new kind s).siteRec old = s.siteRec old :=
    (changeSite_siteRec_ne (putBoth_inv tile old new _ (holdSlot_inv old _ hs)) hne.symm _ _ _).trans (moveMapped_siteRec _ _ _ _ _)
  rw [hkept] at hleft
  exact ⟨since, n, c, (siteRec_of_get (moveTile_health tile old new detour kind out s) old).trans hleft⟩

/-- A swap-out without a job: the spare holds the tile, and the site that it left is QUARANTINED (R252, R261). -/
theorem moveOut_quarantined (hs : Inv s = true) {old new : Nat} (hne : new ≠ old) (tile : Nat) :
    ((moveOut tile old new quarantined s).siteRec new).logical = tile ∧
      ((moveOut tile old new quarantined s).siteRec old).state = 6 := by
  have hinv := journalize_inv 2 old new 0 0 14 s hs
  obtain ⟨since, n, c, hold⟩ := moveTile_siteRec_old hinv hne tile 14 0 quarantined
  exact ⟨moveTile_logical hinv hne tile 14 0 quarantined, congrArg SiteRec.state hold⟩

/-! ### A release -/

/-- What decides whether a sector's partition has a job: of the partitions, their regions and jobs. -/
def Partition.tenancy (x : Partition) : Nat × Option Job := (x.regions, x.job)

theorem sector_hasJob_congr (h : t.partView Partition.tenancy = s.partView Partition.tenancy) (z : Nat) :
    t.hasJob (t.sectorPart z) = s.hasJob (s.sectorPart z) := by
  have hregions (p : Nat) : (t.partOf p).regions = (s.partOf p).regions := congrArg Prod.fst (congrFun h p)
  have hjob (p : Nat) : (t.partOf p).job = (s.partOf p).job := congrArg Prod.snd (congrFun h p)
  unfold State.hasJob State.sectorPart State.regionPart
  simp only [hregions, hjob]

/-- No site of a sector is suspect, by the list of records or by the record of every site. -/
theorem no_suspect_iff (hs : Inv s = true) (z : Nat) : (∀ x ∈ s.health, sectorOf x.1 = z → x.2.suspect = false) ↔
    ∀ k, sectorOf k = z → (s.siteRec k).suspect = false := by
  refine ⟨fun h k hk => ?_, fun h x hx hz => ?_⟩
  · by_cases hd : s.siteRec k = {}
    · rw [hd]
      rfl
    · exact h _ (Sparse.mem_of_get_ne hd) hk
  · have hget : s.siteRec x.1 = x.2 := Sparse.get_of_mem (health_wf hs) hx
    exact hget ▸ h x.1 hz

theorem retrySuspects_of_job {z : Nat} (h : s.hasJob (s.sectorPart z) = true) : retrySuspects z s = s := if_pos h

theorem retrySuspects_of_no_suspect (hs : Inv s = true) {z : Nat} (h : ∀ k, sectorOf k = z → (s.siteRec k).suspect = false) :
    retrySuspects z s = s := by
  have hnone : (s.health.filter fun x => sectorOf x.1 == z && x.2.suspect) = [] := by
    refine List.filter_eq_nil_iff.mpr fun x hx => ?_
    have hclear := (no_suspect_iff hs z).mpr h x hx
    simpa using hclear
  unfold retrySuspects
  rw [hnone]
  exact ite_self s

/-- A record after a passed deep screen: a free spare in WATCH, whose clean period begins. -/
def released (r : SiteRec) : SiteRec := { r with state := 1, condition := 1, cleanScreens := 0 }

/-- A site is released, and its partition is no longer DEGRADED (R259). -/
def siteFreed (site : Nat) (s : State) : State :=
  let t := changeSite site 0 0 released s
  modPart (t.sitePart site) (fun x => { x with degraded := false }) t

/-- Behind a release, the suspects of the site's sector are tried again (R259). -/
def siteReleased (site : Nat) (s : State) : State := spareFreed site (changeSite site 0 0 released s)

theorem siteReleased_eq (site : Nat) (s : State) : siteReleased site s = retrySuspects (sectorOf site) (siteFreed site s) := rfl

theorem siteFreed_inv (hs : Inv s = true) (site : Nat) : Inv (siteFreed site s) = true :=
  modPart_inv _ _ _ (changeSite_inv _ _ _ _ _ hs)

theorem siteReleased_inv (hs : Inv s = true) (site : Nat) : Inv (siteReleased site s) = true :=
  spareFreed_inv _ _ (changeSite_inv _ _ _ _ _ hs)

theorem siteFreed_tenancy (hs : Inv s = true) (site : Nat) :
    (siteFreed site s).partView Partition.tenancy = s.partView Partition.tenancy :=
  (partView_modPart (changeSite_inv _ _ _ _ _ hs) (fun _ => by rfl) _).trans (changeSite_partView hs (fun _ _ => by rfl) _ _ _ _)

theorem siteFreed_siteRec (site : Nat) (s : State) (k : Nat) :
    (siteFreed site s).siteRec k = (changeSite site 0 0 released s).siteRec k := rfl

theorem mailbox_siteReleased (site : Nat) (s : State) : (siteReleased site s).mailbox = s.mailbox :=
  (mailbox_spareFreed _ _).trans (mailbox_changeSite _ _ _ _ _)

/-- A released site is a free spare, where no suspect of its sector takes it at once. -/
theorem siteReleased_siteRec (hs : Inv s = true) {site : Nat}
    (h : s.hasJob (s.sectorPart (sectorOf site)) = true ∨ ∀ k, sectorOf k = sectorOf site → (s.siteRec k).suspect = false) :
    ∃ since n c, (siteReleased site s).siteRec site =
      { released (s.siteRec site) with stateSince := since, writes := n, powerCycle := c } := by
  obtain ⟨since, n, c, hrec⟩ := changeSite_siteRec hs site 0 0 released
  have hkept : siteReleased site s = siteFreed site s := by
    rw [siteReleased_eq]
    obtain hjob | hclear := h
    · exact retrySuspects_of_job ((sector_hasJob_congr (siteFreed_tenancy hs site) _).trans hjob)
    · refine retrySuspects_of_no_suspect (siteFreed_inv hs site) fun k hk => ?_
      rw [siteFreed_siteRec]
      by_cases hsite : k = site
      · rw [hsite, hrec]
        rfl
      · rw [changeSite_siteRec_ne hs hsite]
        exact hclear k hk
  exact ⟨since, n, c, by rw [hkept, siteFreed_siteRec, hrec]⟩

/-! ### A retirement -/

/-- A site leaves its pass, and is retired. -/
def siteRetired (site : Nat) (s : State) : State :=
  changeSite site 0 0 (fun r => { r with state := 7, condition := 0 }) (advanceRun (s.siteHub site) (cancelScreen site s))

theorem siteRetired_inv (hs : Inv s = true) (site : Nat) : Inv (siteRetired site s) = true :=
  changeSite_inv _ _ _ _ _ (advanceRun_inv _ _ (cancelScreen_inv _ _ hs))

theorem mailbox_siteRetired (site : Nat) (s : State) : (siteRetired site s).mailbox = s.mailbox :=
  (mailbox_changeSite _ _ _ _ _).trans ((mailbox_advanceRun _ _).trans (mailbox_of_get (cancelScreen_get (by decide) _ _)))

theorem siteRetired_retired (hs : Inv s = true) (site : Nat) :
    ((siteRetired site s).siteRec site).state = 7 ∧ ((siteRetired site s).siteRec site).condition = 0 := by
  obtain ⟨since, n, c, hrec⟩ := changeSite_siteRec (advanceRun_inv (s.siteHub site) _ (cancelScreen_inv site s hs)) site 0 0
    (fun r => { r with state := 7, condition := 0 })
  exact ⟨congrArg SiteRec.state hrec, congrArg SiteRec.condition hrec⟩

end Sys2Proof.Machine
end

section
/-!
PROOF. What each of the health and spare commands does where none of its refusals applies (R494, R500, R501).
-/
namespace Sys2Proof.Machine

open Sys2Proof

variable {s : State} {seq : Nat} {c : Cmd}

/-- No condition of R494 refuses a command. -/
@[simp] theorem statusOf_none : statusOf false false false false false = 0 := rfl

theorem runCmd_next {status : Nat} {f : State → State} {t : State} (hstatus : status = 0) (hf : f s = t) :
    runCmd seq status f s = .next t := (runCmd_ok hstatus).trans (congrArg _ hf)

theorem complete_siteRec (seq status : Nat) (rsp : List Byte) (s : State) (k : Nat) :
    (complete seq status rsp s).siteRec k = s.siteRec k := siteRec_of_get (complete_get (by decide) _ _ _ _) k

theorem complete_screenReqs (seq status : Nat) (rsp : List Byte) (s : State) : (complete seq status rsp s).screenReqs = s.screenReqs :=
  complete_get (φ := .screenReqs) (by decide) _ _ _ _

theorem complete_screens (seq status : Nat) (rsp : List Byte) (s : State) : (complete seq status rsp s).screens = s.screens :=
  complete_get (φ := .screens) (by decide) _ _ _ _

theorem complete_health (seq status : Nat) (rsp : List Byte) (s : State) : (complete seq status rsp s).health = s.health :=
  complete_get (φ := .health) (by decide) _ _ _ _

/-! ### Queries -/

theorem exec_healthQuery_answers (hrun : Runs s seq 0x0100 c) (hcount : 0 < c.arg 2 2) (hlast : c.arg 0 2 + c.arg 2 2 ≤ 13440) :
    exec (.healthQuery seq) s = .next (complete seq 0
      (le 8 s.ms ++ packHealth ((List.range (c.arg 2 2)).map fun k => s.codeFor c.priv (c.arg 0 2 + k))) s) := by
  rw [exec_healthQuery, execHealthQuery, begun_of_runs hrun]
  refine runCmd_ok ?_
  rw [decide_eq_false (by omega), decide_eq_false (by omega)]
  rfl

theorem exec_historyRead_answers (hrun : Runs s seq 0x0104 c) (harea : c.arg 0 1 ≤ 4) (hcount : c.arg 8 4 ≤ historyLimit (c.arg 0 1)) :
    exec (.historyRead seq) s = .next (complete seq 0
      (le 4 (min (c.arg 8 4) (historyCount s (c.arg 0 1) - c.arg 4 4)) ++ le 4 0 ++
        (List.range (min (c.arg 8 4) (historyCount s (c.arg 0 1) - c.arg 4 4))).flatMap fun k =>
          historyRecord s (c.arg 0 1) (c.arg 4 4 + k)) s) := by
  rw [exec_historyRead, execHistoryRead, begun_of_runs hrun]
  refine runCmd_ok ?_
  rw [decide_eq_false (by omega), decide_eq_false (by omega)]
  rfl

/-! ### Swap-outs (R261) -/

/-- A command that would wait for a site, on a site that nothing blocks (R54). -/
theorem not_waits {rank site : Nat} (h : s.blocked rank 0 site = false) : ¬ (s.blocked rank 0 site && decide (site < 13440)) = true := by
  simp [h]

theorem exec_unitQuarantine_spare (hrun : Runs s seq 0x0101 c) (hsite : c.arg 0 2 < 13440) (hfree : s.blocked 3 0 (c.arg 0 2) = false)
    (hspare : (s.siteRec (c.arg 0 2)).state = 1) : exec (.unitQuarantine seq) s = .next (complete seq 0
      (le 2 0xFFFF ++ le 2 0 ++ le 8 0) (changeSite (c.arg 0 2) 0 0 quarantined s)) := by
  rw [exec_unitQuarantine, execUnitQuarantine, begun_of_runs hrun]
  dsimp only
  rw [if_neg (not_waits hfree)]
  exact runCmd_next (by simp [hspare, Nat.not_le.mpr hsite]) (if_pos hspare)

theorem swapFor_moves {site new : Nat} (hjob : s.hasJob (s.sitePart site) = false) (hnew : s.candidate site 14 = some new) (cause : Nat) :
    swapFor site cause seq s =
      complete seq 0 (le 2 new ++ le 2 0 ++ le 8 0) (moveOut (s.tileAt site) site new quarantined s) := by
  unfold swapFor
  dsimp only
  rw [hjob, if_neg Bool.false_ne_true, hnew]

theorem exec_unitQuarantine_moves {new : Nat} (hrun : Runs s seq 0x0101 c) (hsite : c.arg 0 2 < 13440)
    (hfree : s.blocked 3 0 (c.arg 0 2) = false) (hserving : (s.siteRec (c.arg 0 2)).serving = true)
    (hjob : s.hasJob (s.sitePart (c.arg 0 2)) = false) (hnew : s.candidate (c.arg 0 2) 14 = some new) :
    exec (.unitQuarantine seq) s = .next (complete seq 0 (le 2 new ++ le 2 0 ++ le 8 0)
      (moveOut (s.tileAt (c.arg 0 2)) (c.arg 0 2) new quarantined s)) := by
  have hnot : ¬ (s.siteRec (c.arg 0 2)).state = 1 := fun h => by simp [SiteRec.serving, h] at hserving
  rw [exec_unitQuarantine, execUnitQuarantine, begun_of_runs hrun]
  dsimp only
  rw [if_neg (not_waits hfree)]
  exact runCmd_next (by simp [hserving, Nat.not_le.mpr hsite]) ((if_neg hnot).trans (swapFor_moves hjob hnew 2))

theorem exec_spareTakeover_moves {new : Nat} (hrun : Runs s seq 0x0402 c) (hsite : c.arg 0 2 < 13440)
    (hfree : s.blocked 3 0 (c.arg 0 2) = false) (hserving : (s.siteRec (c.arg 0 2)).serving = true)
    (hjob : s.hasJob (s.sitePart (c.arg 0 2)) = false) (hnew : s.candidate (c.arg 0 2) 14 = some new) :
    exec (.spareTakeover seq) s = .next (complete seq 0 (le 2 new ++ le 2 0 ++ le 8 0)
      (moveOut (s.tileAt (c.arg 0 2)) (c.arg 0 2) new quarantined s)) := by
  rw [exec_spareTakeover, execSpareTakeover, begun_of_runs hrun]
  dsimp only
  rw [if_neg (not_waits hfree)]
  exact runCmd_next (by simp [hserving, Nat.not_le.mpr hsite]) (swapFor_moves hjob hnew 3)

/-- A swap-out by command, without a job: the spare holds the tile, the site that it left is QUARANTINED, and the command's answer
names the spare. -/
theorem complete_moveOut {op new : Nat} (hs : Inv s = true) (hrun : Runs s seq op c) (hne : new ≠ c.arg 0 2) (tile : Nat)
    (rsp : List Byte) : ((complete seq 0 rsp (moveOut tile (c.arg 0 2) new quarantined s)).siteRec new).logical = tile ∧
      ((complete seq 0 rsp (moveOut tile (c.arg 0 2) new quarantined s)).siteRec (c.arg 0 2)).state = 6 ∧
      Answered c.channel seq 0 rsp (complete seq 0 rsp (moveOut tile (c.arg 0 2) new quarantined s)) := by
  obtain ⟨hlogical, hstate⟩ := moveOut_quarantined hs hne tile
  rw [complete_siteRec, complete_siteRec]
  exact ⟨hlogical, hstate, complete_answered (moveOut_inv _ _ _ _ _ hs) (runs_congr (mailbox_moveOut _ _ _ _ _) hrun) 0 rsp⟩

/-! ### Edits of a site's state (R500) -/

theorem exec_unitRelease_passed (hrun : Runs s seq 0x0102 c) (hsite : c.arg 0 2 < 13440) (hforce : bitOf 0 (c.arg 2 1) = false)
    (hheld : (s.siteRec (c.arg 0 2)).state = 6) (hpassed : s.deepPassed.contains (c.arg 0 2) = true) :
    exec (.unitRelease seq) s = .next (complete seq 0 (le 1 ((siteReleased (c.arg 0 2) s).siteRec (c.arg 0 2)).byte ++ le 3 0)
      (siteReleased (c.arg 0 2) s)) := by
  rw [exec_unitRelease, execUnitRelease, begun_of_runs hrun]
  dsimp only
  rw [hforce]
  exact runCmd_next (by simp [hheld, Nat.not_le.mpr hsite, List.contains_iff_mem.mp hpassed]) rfl

theorem exec_unitScreen_asks (hrun : Runs s seq 0x0103 c) (hsite : c.arg 0 2 < 13440) (hkind : c.arg 2 1 = 0)
    (hfree : s.blocked 4 0 (c.arg 0 2) = false)
    (hstate : (s.siteRec (c.arg 0 2)).state = 1 ∨ (s.siteRec (c.arg 0 2)).state = 6 ∨ (s.siteRec (c.arg 0 2)).serving = true) :
    exec (.unitScreen seq) s = .next (complete seq 0 [] (requestScreen (c.arg 0 2) 0 s)) := by
  rw [exec_unitScreen, execUnitScreen, begun_of_runs hrun]
  dsimp only
  rw [if_neg (not_waits hfree)]
  refine runCmd_next ?_ (congrArg (complete seq 0 []) (if_pos hkind))
  obtain h | h | h := hstate <;> simp [h, hkind, Nat.not_le.mpr hsite]

theorem exec_unitRetire_retires (hrun : Runs s seq 0x0105 c) (hsite : c.arg 0 2 < 13440)
    (hstate : (s.siteRec (c.arg 0 2)).state = 1 ∨ (s.siteRec (c.arg 0 2)).state = 6) :
    exec (.unitRetire seq) s = .next (complete seq 0 [] (siteRetired (c.arg 0 2) s)) := by
  rw [exec_unitRetire, execUnitRetire, begun_of_runs hrun]
  refine runCmd_ok ?_
  obtain h | h := hstate <;> simp [h, Nat.not_le.mpr hsite]

/-- Behind a request, the site's screen is asked or in progress (R54). -/
theorem requestScreen_asked (site source : Nat) (s : State) :
    ((requestScreen site source s).screenReqs.any fun x => x.1 = site) = true ∨
      (Sparse.get none (requestScreen site source s).screens site).isSome = true := by
  unfold requestScreen
  split
  case isTrue h => exact Bool.or_eq_true_iff.mp h
  case isFalse => exact .inl (List.any_eq_true.mpr ⟨(site, source), List.mem_append_right _ List.mem_cons_self, decide_eq_true rfl⟩)

end Sys2Proof.Machine
end

section
/-!
PROOF. The statement of the health and spare commands.
-/
namespace Sys2Proof.Machine

open Sys2Proof

/-- Settles O27: every command by the change of the site's record that it makes, and its answer at the mailbox. -/
theorem healthCommands : Obligations.HealthCommands := by
  unfold Obligations.HealthCommands
  refine ⟨?query, ?history, ?spare, ?swaps, ?release, ?screen, ?retire⟩
  case query =>
    intro seq c s hs hrun hcount hlast
    exact ⟨_, exec_healthQuery_answers hrun hcount hlast, complete_health _ _ _ _, complete_answered hs hrun 0 _⟩
  case history =>
    intro seq c s hs hrun harea hcount
    exact ⟨_, exec_historyRead_answers hrun harea hcount, complete_health _ _ _ _, complete_answered hs hrun 0 _⟩
  case spare =>
    intro seq c s hs hrun hsite hfree hspare
    obtain ⟨since, n, cycles, hrec⟩ := changeSite_siteRec hs (c.arg 0 2) 0 0 quarantined
    have hsent := changeSite_sends_quarantine (f := quarantined) hs (by rw [hspare]; decide) rfl 0 0
    refine ⟨_, exec_unitQuarantine_spare hrun hsite hfree hspare, ?_, mem_sent_complete hsent _ _ _, ?_⟩
    · rw [complete_siteRec, hrec]
      rfl
    · exact complete_answered (changeSite_inv _ _ _ _ _ hs) (runs_congr (mailbox_changeSite _ _ _ _ _) hrun) 0 _
  case swaps =>
    intro seq op new c s hs hrun hsite hfree hserving hjob hnew hne
    have hmoved := complete_moveOut hs hrun hne (s.tileAt (c.arg 0 2)) (le 2 new ++ le 2 0 ++ le 8 0)
    refine ⟨?_, ?_⟩
    · rintro rfl
      exact ⟨_, exec_unitQuarantine_moves hrun hsite hfree hserving hjob hnew, hmoved⟩
    · rintro rfl
      exact ⟨_, exec_spareTakeover_moves hrun hsite hfree hserving hjob hnew, hmoved⟩
  case release =>
    intro seq c s hs hrun hsite hforce hheld hpassed
    refine ⟨_, exec_unitRelease_passed hrun hsite hforce hheld hpassed, fun hclear => ?_, ?_⟩
    · obtain ⟨since, n, cycles, hrec⟩ := siteReleased_siteRec hs (hclear.imp_right (no_suspect_iff hs _).mp)
      rw [complete_siteRec, hrec]
      exact ⟨rfl, rfl, rfl⟩
    · rw [complete_siteRec]
      exact complete_answered (siteReleased_inv hs _) (runs_congr (mailbox_siteReleased _ _) hrun) 0 _
  case screen =>
    intro seq c s hs hrun hsite hkind hfree hstate
    refine ⟨_, exec_unitScreen_asks hrun hsite hkind hfree hstate, ?_, ?_, ?_⟩
    · rw [complete_screenReqs, complete_screens]
      exact requestScreen_asked _ _ _
    · exact (complete_health _ _ _ _).trans (requestScreen_get (φ := .health) (by decide) _ _ _)
    · exact complete_answered (requestScreen_inv _ _ _ hs) (runs_congr (mailbox_of_get (requestScreen_get (by decide) _ _ _)) hrun) 0 _
  case retire =>
    intro seq c s hs hrun hsite hstate
    obtain ⟨hretired, hcondition⟩ := siteRetired_retired hs (c.arg 0 2)
    refine ⟨_, exec_unitRetire_retires hrun hsite hstate, ?_, ?_, ?_⟩
    · rw [complete_siteRec, hretired]
    · rw [complete_siteRec, hcondition]
    · exact complete_answered (siteRetired_inv hs _) (runs_congr (mailbox_siteRetired _ _) hrun) 0 []

end Sys2Proof.Machine
end
